-- ==== Sys2Proof/Word.lean ====
section
/-! DEFINITION. The words of the machine and their plainest arithmetic (spec 00 R4, 03 R55). -/

namespace Sys2Proof

/-- A 64-bit general register or token payload (05 R99). -/
abbrev Word := BitVec 64

/-- The smallest addressable unit of memory (00 R4). -/
abbrev Byte := BitVec 8

/-- A general register number 0 to 63 (04 R76). -/
abbrev Reg := BitVec 6

/-- A condition register number 0 to 7 (04 R76). -/
abbrev CReg := BitVec 3

/-- A physical core id: [11:9] die, [8:5] row, [4:0] column (00 R2). -/
abbrev CoreId := BitVec 12

end Sys2Proof
end

