-- ==== Sys2Proof/Syntax.lean ====
section
/-! DEFINITION. The instructions and events of the machine: one constructor per row of the opcode table.
Encoded instructions carry the fields of their word under the letters of the table; events carry what names the unit they happen at. -/

namespace Sys2Proof

/-- One row of the opcode table each: 193 encoded instructions (04 R74 to R82), then 138 events of the
machine and its surroundings, which have no encoding. Each constructor is one whole, indivisible step. -/
inductive Instr where
  /-- ILL (R78): A word with major opcode 0x00 raises an illegal-instruction fault, cause 0x01. -/
  | ill (x : BitVec 26)
  /-- ADD (R112): Writes (g[ga] + g[gb]) mod 2^64 to gd. -/
  | add (d : Reg) (a : Reg) (b : Reg)
  /-- SUB (R112): Writes (g[ga] - g[gb]) mod 2^64 to gd. -/
  | sub (d : Reg) (a : Reg) (b : Reg)
  /-- AND (R112): Writes the bitwise AND of two registers to gd. -/
  | and (d : Reg) (a : Reg) (b : Reg)
  /-- OR (R112): Writes the bitwise OR of two registers to gd; MOV is its alias with ga = g0. -/
  | or (d : Reg) (a : Reg) (b : Reg)
  /-- XOR (R112): Writes the bitwise XOR of two registers to gd. -/
  | xor (d : Reg) (a : Reg) (b : Reg)
  /-- ANDN (R112): Writes a & ~b to gd. -/
  | andn (d : Reg) (a : Reg) (b : Reg)
  /-- ORN (R112): Writes a | ~b to gd. -/
  | orn (d : Reg) (a : Reg) (b : Reg)
  /-- SHL (R112): Shifts a left by b[5:0] into gd. -/
  | shl (d : Reg) (a : Reg) (b : Reg)
  /-- SHR (R112): Shifts a right logically by b[5:0] into gd. -/
  | shr (d : Reg) (a : Reg) (b : Reg)
  /-- SHA (R112): Shifts a right arithmetically by b[5:0] into gd. -/
  | sha (d : Reg) (a : Reg) (b : Reg)
  /-- ROL (R112): Rotates a left by b[5:0] into gd. -/
  | rol (d : Reg) (a : Reg) (b : Reg)
  /-- MIN (R112): Writes the signed lesser of two registers to gd. -/
  | min (d : Reg) (a : Reg) (b : Reg)
  /-- MAX (R112): Writes the signed greater of two registers to gd. -/
  | max (d : Reg) (a : Reg) (b : Reg)
  /-- MINN (R112): Writes the unsigned lesser of two registers to gd. -/
  | minn (d : Reg) (a : Reg) (b : Reg)
  /-- MAXN (R112): Writes the unsigned greater of two registers to gd. -/
  | maxn (d : Reg) (a : Reg) (b : Reg)
  /-- ADDS (R112): Writes the signed sum clamped to S64 to gd. -/
  | adds (d : Reg) (a : Reg) (b : Reg)
  /-- SUBS (R112): Writes the signed difference clamped to S64 to gd. -/
  | subs (d : Reg) (a : Reg) (b : Reg)
  /-- ADD32 (R112): Writes the zero-extended 32-bit sum to gd. -/
  | add32 (d : Reg) (a : Reg) (b : Reg)
  /-- SUB32 (R112): Writes the zero-extended 32-bit difference to gd. -/
  | sub32 (d : Reg) (a : Reg) (b : Reg)
  /-- SEL (R112): Writes a if the named condition register is 1, else b. -/
  | sel (d : Reg) (a : Reg) (b : Reg) (c : CReg)
  /-- MUL (R113): Writes the low 64 bits of the product to gd. -/
  | mul (d : Reg) (a : Reg) (b : Reg)
  /-- MULH (R113): Writes the high 64 bits of the signed product to gd. -/
  | mulh (d : Reg) (a : Reg) (b : Reg)
  /-- MULHN (R113): Writes the high 64 bits of the unsigned product to gd. -/
  | mulhn (d : Reg) (a : Reg) (b : Reg)
  /-- DIV (R113): Signed division truncating toward zero; a zero divisor faults with cause 0x0E. -/
  | div (d : Reg) (a : Reg) (b : Reg)
  /-- DIVN (R113): Unsigned division; a zero divisor faults with cause 0x0E. -/
  | divn (d : Reg) (a : Reg) (b : Reg)
  /-- REM (R113): Signed remainder with the sign of the dividend; a zero divisor faults. -/
  | rem (d : Reg) (a : Reg) (b : Reg)
  /-- REMN (R113): Unsigned remainder; a zero divisor faults. -/
  | remn (d : Reg) (a : Reg) (b : Reg)
  /-- MUL32 (R113): Writes the zero-extended 32-bit product to gd. -/
  | mul32 (d : Reg) (a : Reg) (b : Reg)
  /-- CLZ (R114): Counts leading zero bits of a into gd. -/
  | clz (d : Reg) (a : Reg)
  /-- CTZ (R114): Counts trailing zero bits of a into gd. -/
  | ctz (d : Reg) (a : Reg)
  /-- POPC (R114): Counts one bits of a into gd. -/
  | popc (d : Reg) (a : Reg)
  /-- BREV (R114): Reverses the bit order of a into gd. -/
  | brev (d : Reg) (a : Reg)
  /-- BSWAP (R114): Reverses the byte order of a into gd. -/
  | bswap (d : Reg) (a : Reg)
  /-- ABS (R114): Writes the absolute value of a, modulo 2^64, to gd. -/
  | abs (d : Reg) (a : Reg)
  /-- NEG (R114): Writes (-a) mod 2^64 to gd. -/
  | neg (d : Reg) (a : Reg)
  /-- EXT (R115): Extracts a sign-extended bit field described by g[gb]. -/
  | ext (d : Reg) (a : Reg) (b : Reg)
  /-- EXTN (R115): Extracts a zero-extended bit field described by g[gb]. -/
  | extn (d : Reg) (a : Reg) (b : Reg)
  /-- INS (R115): Inserts the low bits of a into a field of gd described by g[gb]. -/
  | ins (d : Reg) (a : Reg) (b : Reg)
  /-- CSUM (R116): Folds a 32-bit word into the rotate-add checksum held in gd. -/
  | csum (d : Reg) (a : Reg)
  /-- CEQ (R119): Sets a condition register to g[ga] = g[gb]. -/
  | ceq (c : CReg) (a : Reg) (b : Reg)
  /-- CNE (R119): Sets a condition register to g[ga] != g[gb]. -/
  | cne (c : CReg) (a : Reg) (b : Reg)
  /-- CLT (R119): Sets a condition register to the signed less-than result. -/
  | clt (c : CReg) (a : Reg) (b : Reg)
  /-- CLE (R119): Sets a condition register to the signed less-or-equal result. -/
  | cle (c : CReg) (a : Reg) (b : Reg)
  /-- CLTN (R119): Sets a condition register to the unsigned less-than result. -/
  | cltn (c : CReg) (a : Reg) (b : Reg)
  /-- CLEN (R119): Sets a condition register to the unsigned less-or-equal result. -/
  | clen (c : CReg) (a : Reg) (b : Reg)
  /-- CTST (R119): Sets a condition register to (g[ga] & g[gb]) != 0. -/
  | ctst (c : CReg) (a : Reg) (b : Reg)
  /-- CAND (R119): ANDs two condition registers into a third. -/
  | cand (c : CReg) (a : BitVec 3) (b : BitVec 3)
  /-- COR (R119): ORs two condition registers into a third. -/
  | cor (c : CReg) (a : BitVec 3) (b : BitVec 3)
  /-- CXOR (R119): XORs two condition registers into a third. -/
  | cxor (c : CReg) (a : BitVec 3) (b : BitVec 3)
  /-- CNOT (R119): Inverts a condition register into another. -/
  | cnot (c : CReg) (a : BitVec 3)
  /-- ADDI (R117): Adds a sign-extended 14-bit immediate to a register. -/
  | addi (d : Reg) (a : Reg) (i : BitVec 14)
  /-- ANDI (R117): ANDs a zero-extended 14-bit immediate with a register. -/
  | andi (d : Reg) (a : Reg) (i : BitVec 14)
  /-- ORI (R117): ORs a zero-extended 14-bit immediate with a register. -/
  | ori (d : Reg) (a : Reg) (i : BitVec 14)
  /-- XORI (R117): XORs a zero-extended 14-bit immediate with a register. -/
  | xori (d : Reg) (a : Reg) (i : BitVec 14)
  /-- SHLI (R117): Shifts a register left by an immediate amount. -/
  | shli (d : Reg) (a : Reg) (n : BitVec 6)
  /-- SHRI (R117): Shifts a register right logically by an immediate amount. -/
  | shri (d : Reg) (a : Reg) (n : BitVec 6)
  /-- SHAI (R117): Shifts a register right arithmetically by an immediate amount. -/
  | shai (d : Reg) (a : Reg) (n : BitVec 6)
  /-- ROLI (R117): Rotates a register left by an immediate amount. -/
  | roli (d : Reg) (a : Reg) (n : BitVec 6)
  /-- LI (R118): Loads a sign-extended 20-bit immediate into gd. -/
  | li (d : Reg) (i : BitVec 20)
  /-- LIS (R118): Shifts gd left by 20 and ORs in a 20-bit immediate. -/
  | lis (d : Reg) (i : BitVec 20)
  /-- CMPI (R120): Compares a register with a sign-extended immediate under a condition into a condition register. -/
  | cmpi (c : CReg) (n : BitVec 3) (a : Reg) (i : BitVec 14)
  /-- LEA (R118): Writes PC plus four times a signed word displacement to gd. -/
  | lea (d : Reg) (i : BitVec 20)
  /-- FADD (R122): Floating-point addition rounded once in KFPC.RM. -/
  | fadd (d : Reg) (a : Reg) (b : Reg) (f : BitVec 2)
  /-- FSUB (R122): Floating-point subtraction rounded once. -/
  | fsub (d : Reg) (a : Reg) (b : Reg) (f : BitVec 2)
  /-- FMUL (R122): Floating-point multiplication rounded once. -/
  | fmul (d : Reg) (a : Reg) (b : Reg) (f : BitVec 2)
  /-- FDIV (R122): Floating-point division rounded once. -/
  | fdiv (d : Reg) (a : Reg) (b : Reg) (f : BitVec 2)
  /-- FSQRT (R122): Floating-point square root rounded once. -/
  | fsqrt (d : Reg) (a : Reg) (f : BitVec 2)
  /-- FMIN (R122): Floating-point minimum with -0 below +0. -/
  | fmin (d : Reg) (a : Reg) (b : Reg) (f : BitVec 2)
  /-- FMAX (R122): Floating-point maximum with -0 below +0. -/
  | fmax (d : Reg) (a : Reg) (b : Reg) (f : BitVec 2)
  /-- FABS (R122): Clears the sign bit of a floating-point value. -/
  | fabs (d : Reg) (a : Reg) (f : BitVec 2)
  /-- FNEG (R122): Inverts the sign bit of a floating-point value. -/
  | fneg (d : Reg) (a : Reg) (f : BitVec 2)
  /-- FCLASS (R123): Writes a one-hot class mask of a floating-point value. -/
  | fclass (d : Reg) (a : Reg) (f : BitVec 2)
  /-- FFMA (R124): Fused multiply-add with one rounding. -/
  | ffma (d : Reg) (a : Reg) (b : Reg) (c : Reg) (f : BitVec 2)
  /-- FCEQ (R125): Sets a condition register to floating-point equality. -/
  | fceq (c : CReg) (a : Reg) (b : Reg) (f : BitVec 2)
  /-- FCLT (R125): Sets a condition register to floating-point less-than. -/
  | fclt (c : CReg) (a : Reg) (b : Reg) (f : BitVec 2)
  /-- FCLE (R125): Sets a condition register to floating-point less-or-equal. -/
  | fcle (c : CReg) (a : Reg) (b : Reg) (f : BitVec 2)
  /-- FCUN (R125): Sets a condition register when either operand is a NaN. -/
  | fcun (c : CReg) (a : Reg) (b : Reg) (f : BitVec 2)
  /-- FCVT (R127): Converts between float formats, rounding once in the named mode. -/
  | fcvt (d : Reg) (a : Reg) (t : BitVec 3) (s : BitVec 1) (f : BitVec 3) (r : BitVec 2)
  /-- FTOI (R127): Converts a float to an integer type. -/
  | ftoi (d : Reg) (a : Reg) (t : BitVec 3) (f : BitVec 3) (r : BitVec 2)
  /-- ITOF (R127): Converts an integer to a float format. -/
  | itof (d : Reg) (a : Reg) (t : BitVec 3) (s : BitVec 1) (f : BitVec 3) (r : BitVec 2)
  /-- BR (R129): Branches when the condition register equals sense. -/
  | br (c : CReg) (s : BitVec 1) (i : BitVec 22)
  /-- JMP (R129): Jumps to a PC-relative target. -/
  | jmp (i : BitVec 26)
  /-- CALL (R129): Writes the link to g1 and jumps to a PC-relative target. -/
  | call (i : BitVec 26)
  /-- JR (R130): Jumps to the address in g[ga]. -/
  | jr (a : Reg)
  /-- CALLR (R130): Writes the link to g1 and jumps to g[ga]. -/
  | callr (a : Reg)
  /-- LOOP (R131): Decrements a counter register and branches while it is nonzero. -/
  | loop (a : Reg) (i : BitVec 14)
  /-- NOP (R132): Does nothing and advances PC. -/
  | nop
  /-- END (R132): Ends the handler after its loads complete, writing its block and going Idle or Runnable. -/
  | endH
  /-- YIELD (R132): Gives up the sequencer, making the entry Runnable. -/
  | yield
  /-- IDLE (R132): Stops issue in the context set until a wake condition holds. -/
  | idle
  /-- TRAP (R133): Raises a system call, cause 0x16. -/
  | trap (a : Reg)
  /-- HCALL (R133): Raises a monitor call, cause 0x17, at monitor privilege. -/
  | hcall (a : Reg)
  /-- ERET (R134): Returns from a trap, restoring privilege and IE. -/
  | eret
  /-- BRK (R133): Raises a breakpoint, cause 0x15. -/
  | brk
  /-- CTXSW (R137): Makes a Ready or Frozen set of a stopped-calendar core Active at its next token boundary. -/
  | ctxsw (d : Reg) (a : Reg)
  /-- CTXPARK (R137): Starts parking a Frozen or Ready context set to its save area. -/
  | ctxpark (d : Reg) (a : Reg)
  /-- CTXLOAD (R137): Starts loading a context into an Empty set from a save area. -/
  | ctxload (d : Reg) (a : Reg) (b : Reg)
  /-- MFS (R135): Reads a system register into gd. -/
  | mfs (d : Reg) (s : BitVec 12)
  /-- MTS (R135): Writes the writable fields of a system register from g[ga]; the row for registers without behaviour of their own. -/
  | mts (a : Reg) (s : BitVec 12)
  /-- LD (R189): Loads from cached memory through the L1 with race detection. -/
  | ld (d : Reg) (a : Reg) (w : BitVec 3) (i : BitVec 7)
  /-- ST (R189): Stores to cached memory through the L1, marking bytes dirty. -/
  | st (d : Reg) (a : Reg) (w : BitVec 2) (i : BitVec 7)
  /-- LDW (R190): Loads from window memory. -/
  | ldw (d : Reg) (a : Reg) (w : BitVec 3) (i : BitVec 7)
  /-- STW (R190): Stores to window memory. -/
  | stw (d : Reg) (a : Reg) (w : BitVec 2) (i : BitVec 7)
  /-- LDRO (R191): Loads through the read-only path of marked lines. -/
  | ldro (d : Reg) (a : Reg) (w : BitVec 3) (i : BitVec 7)
  /-- AAD (R193): Atomic 64-bit add at the home slice. -/
  | aad (d : Reg) (a : Reg) (b : Reg) (o : BitVec 2) (s : BitVec 2)
  /-- AAND (R193): Atomic 64-bit AND. -/
  | aand (d : Reg) (a : Reg) (b : Reg) (o : BitVec 2) (s : BitVec 2)
  /-- AOR (R193): Atomic 64-bit OR. -/
  | aor (d : Reg) (a : Reg) (b : Reg) (o : BitVec 2) (s : BitVec 2)
  /-- AXOR (R193): Atomic 64-bit XOR. -/
  | axor (d : Reg) (a : Reg) (b : Reg) (o : BitVec 2) (s : BitVec 2)
  /-- AMIN (R193): Atomic 64-bit signed minimum. -/
  | amin (d : Reg) (a : Reg) (b : Reg) (o : BitVec 2) (s : BitVec 2)
  /-- AMAX (R193): Atomic 64-bit signed maximum. -/
  | amax (d : Reg) (a : Reg) (b : Reg) (o : BitVec 2) (s : BitVec 2)
  /-- AMINN (R193): Atomic 64-bit unsigned minimum. -/
  | aminn (d : Reg) (a : Reg) (b : Reg) (o : BitVec 2) (s : BitVec 2)
  /-- AMAXN (R193): Atomic 64-bit unsigned maximum. -/
  | amaxn (d : Reg) (a : Reg) (b : Reg) (o : BitVec 2) (s : BitVec 2)
  /-- ASWP (R193): Atomic 64-bit swap. -/
  | aswp (d : Reg) (a : Reg) (b : Reg) (o : BitVec 2) (s : BitVec 2)
  /-- AFADD_F32 (R193): Atomic add of two binary32 lanes of an 8-byte word. -/
  | afaddF32 (d : Reg) (a : Reg) (b : Reg) (o : BitVec 2) (s : BitVec 2)
  /-- AFADD_F64 (R193): Atomic binary64 add. -/
  | afaddF64 (d : Reg) (a : Reg) (b : Reg) (o : BitVec 2) (s : BitVec 2)
  /-- AFADD_BF16 (R193): Atomic add of four BF16 lanes of an 8-byte word. -/
  | afaddBf16 (d : Reg) (a : Reg) (b : Reg) (o : BitVec 2) (s : BitVec 2)
  /-- ACAS (R194): Atomic compare-and-swap of a 64-bit or 32-bit word. -/
  | acas (d : Reg) (a : Reg) (b : Reg) (w : BitVec 1) (o : BitVec 2) (s : BitVec 2)
  /-- ALD (R195): Ordered atomic 64-bit load. -/
  | ald (d : Reg) (a : Reg) (o : BitVec 2) (s : BitVec 2)
  /-- AST (R195): Ordered atomic 64-bit store. -/
  | ast (a : Reg) (b : Reg) (o : BitVec 2) (s : BitVec 2)
  /-- ALD32 (R195): Ordered atomic 32-bit load. -/
  | ald32 (d : Reg) (a : Reg) (o : BitVec 2) (s : BitVec 2)
  /-- AST32 (R195): Ordered atomic 32-bit store. -/
  | ast32 (a : Reg) (b : Reg) (o : BitVec 2) (s : BitVec 2)
  /-- FENCE (R197): Orders earlier operations of the named kinds before later ones, stalling issue. -/
  | fence (k : BitVec 6) (s : BitVec 2)
  /-- CFLUSH (R198): Writes back the set's dirty bytes of a line. -/
  | cflush (a : Reg)
  /-- CINV (R198): Writes back and invalidates the set's copy of a line. -/
  | cinv (a : Reg)
  /-- CZERO (R198): Writes 128 zero bytes to a line as a plain store. -/
  | czero (a : Reg)
  /-- PREF (R198): Prefetches a line into the L1 and home slice without faulting. -/
  | pref (a : Reg)
  /-- SWSET (R199): Sets a sync word's target and clears its count and overrun. -/
  | swset (a : Reg) (b : Reg)
  /-- SWADD (R199): Makes an arrival of n bytes at a sync word. -/
  | swadd (a : Reg) (b : Reg)
  /-- SWWAIT (R200): Waits until a sync word's generation differs from the given one. -/
  | swwait (d : Reg) (a : Reg) (b : Reg)
  /-- SWGET (R199): Reads a sync word's generation and count. -/
  | swget (d : Reg) (a : Reg)
  /-- XCOPY (R215): Runs one transfer record as a chain of one on an edge engine. -/
  | xcopy (a : Reg) (b : Reg) (c : Reg) (f : BitVec 1) (e : BitVec 2) (t : BitVec 1) (s : BitVec 1)
  /-- XCHN (R216): Starts or resumes a chain of transfer records on an edge engine. -/
  | xchn (a : Reg) (f : BitVec 1) (e : BitVec 2)
  /-- XSTAT (R219): Reads the state of a copy channel or transform queue. -/
  | xstat (d : Reg) (a : Reg)
  /-- XCANCEL (R219): Cancels a copy channel or the head transform request. -/
  | xcancel (d : Reg) (a : Reg)
  /-- XFORM (R224): Queues a spectrograph transform request. -/
  | xform (a : Reg) (f : BitVec 1)
  /-- AAD_32 (R193): Atomic 32-bit add. -/
  | aad32 (d : Reg) (a : Reg) (b : Reg) (o : BitVec 2) (s : BitVec 2)
  /-- AAND_32 (R193): Atomic 32-bit AND. -/
  | aand32 (d : Reg) (a : Reg) (b : Reg) (o : BitVec 2) (s : BitVec 2)
  /-- AOR_32 (R193): Atomic 32-bit OR. -/
  | aor32 (d : Reg) (a : Reg) (b : Reg) (o : BitVec 2) (s : BitVec 2)
  /-- AXOR_32 (R193): Atomic 32-bit XOR. -/
  | axor32 (d : Reg) (a : Reg) (b : Reg) (o : BitVec 2) (s : BitVec 2)
  /-- AMIN_32 (R193): Atomic 32-bit signed minimum. -/
  | amin32 (d : Reg) (a : Reg) (b : Reg) (o : BitVec 2) (s : BitVec 2)
  /-- AMAX_32 (R193): Atomic 32-bit signed maximum. -/
  | amax32 (d : Reg) (a : Reg) (b : Reg) (o : BitVec 2) (s : BitVec 2)
  /-- AMINN_32 (R193): Atomic 32-bit unsigned minimum. -/
  | aminn32 (d : Reg) (a : Reg) (b : Reg) (o : BitVec 2) (s : BitVec 2)
  /-- AMAXN_32 (R193): Atomic 32-bit unsigned maximum. -/
  | amaxn32 (d : Reg) (a : Reg) (b : Reg) (o : BitVec 2) (s : BitVec 2)
  /-- ASWP_32 (R193): Atomic 32-bit swap. -/
  | aswp32 (d : Reg) (a : Reg) (b : Reg) (o : BitVec 2) (s : BitVec 2)
  /-- AFADD_F32_32 (R193): Atomic binary32 add of a 4-byte word. -/
  | afaddF3232 (d : Reg) (a : Reg) (b : Reg) (o : BitVec 2) (s : BitVec 2)
  /-- AFADD_BF16_32 (R193): Atomic add of two BF16 lanes of a 4-byte word. -/
  | afaddBf1632 (d : Reg) (a : Reg) (b : Reg) (o : BitVec 2) (s : BitVec 2)
  /-- SEND (R302): Sends a channel word to a context's channel on the partition's virtual network. -/
  | send (a : Reg) (b : Reg)
  /-- RECV (R303): Removes the head word of a channel inbox, blocking when it is empty. -/
  | recv (d : Reg) (a : Reg)
  /-- PEEK (R303): Reads the head word of an inbox without removing it, blocking when empty. -/
  | peek (d : Reg) (a : Reg)
  /-- RECVK (R303): Removes the head word of an inbox, or returns g[gb] without blocking. -/
  | recvk (d : Reg) (a : Reg) (b : Reg)
  /-- CFG (R296): Delivers a configuration stream read from memory to the cores of a region. -/
  | cfg (a : Reg) (b : Reg)
  /-- CFGW (R296): Applies one configuration word at a named core. -/
  | cfgw (a : Reg) (b : Reg)
  /-- GO (R298): Checks the region's configuration and starts a graph by injecting G at every source. -/
  | go (d : Reg) (a : Reg) (b : Reg)
  /-- DRAIN (R299): Stops a running graph's sources so that it ends and reports completion. -/
  | drain (d : Reg) (a : Reg)
  /-- ABORT (R299): Ends a graph or empties the matrix queue without completion. -/
  | abort (d : Reg) (a : Reg)
  /-- REPLAY (R300): Resumes a halted graph or matrix queue from its exact halt state. -/
  | replay (d : Reg) (a : Reg)
  /-- GSTAT (R301): Returns the status word of a graph. -/
  | gstat (d : Reg) (a : Reg)
  /-- MXCFG (R148): Sets the array claim, format and fault mode, or only the fault mode. -/
  | mxcfg (a : Reg) (w : BitVec 1)
  /-- MXLW (R149): Queues a load of the loading tile from a window image. -/
  | mxlw (a : Reg) (b : Reg) (p : BitVec 2)
  /-- MXSWP (R150): Queues an X token that swaps active and loading tiles. -/
  | mxswp
  /-- MXRUN (R151): Queues A rows from strided images against the active tile. -/
  | mxrun (a : Reg) (b : Reg) (c : Reg) (i : BitVec 1)
  /-- MXRUNG (R151): Queues A rows gathered by an index vector against the active tile. -/
  | mxrung (a : Reg) (b : Reg) (c : Reg) (i : BitVec 1)
  /-- MXACC (R153): Queues a drain of accumulator rows to window memory or column buses. -/
  | mxacc (a : Reg) (b : Reg) (t : BitVec 1) (k : BitVec 1)
  /-- MXSORT (R154): Queues a top-k compare-and-exchange over keys. -/
  | mxsort (a : Reg) (b : Reg) (c : Reg) (t : BitVec 1)
  /-- MXZERO (R155): Queues a reset of the named array state. -/
  | mxzero (b : Reg) (w : BitVec 4)
  /-- HSET (R310): Installs a handler-table entry image and resets its state and registers. -/
  | hset (a : Reg) (b : Reg)
  /-- HGET (R310): Reads a handler entry's image, state and pending bit. -/
  | hget (d : Reg) (a : Reg)
  /-- HMASK (R310): Masks a handler entry from selection. -/
  | hmask (a : Reg)
  /-- HUNMASK (R310): Unmasks a handler entry. -/
  | hunmask (a : Reg)
  /-- HRUN (R310): Marks a handler entry with cause kind 0x06 and an argument. -/
  | hrun (a : Reg) (b : Reg)
  /-- LAUNCH (R314): Sends a launch packet locally or over Umavas. -/
  | launch (d : Reg) (a : Reg) (b : Reg)
  /-- TRN (R321): Opens a transit in the ephemeris from a transit image. -/
  | trn (d : Reg) (a : Reg)
  /-- TRNE (R321): Closes the current transit and returns the time left to its deadline. -/
  | trne (d : Reg)
  /-- SLACK (R321): Reads the slack of an ephemeris entry. -/
  | slack (d : Reg) (a : Reg)
  /-- TLBI (R315): Removes the partition's TLB entries covering a virtual address module-wide. -/
  | tlbi (a : Reg)
  /-- TLBIA (R315): Removes every TLB entry of the issuing partition. -/
  | tlbia
  /-- TLBIP (R315): Removes every TLB entry of a named partition. -/
  | tlbip (a : Reg)
  /-- TLBIS (R315): Removes a partition's entries covering a stage-2 page. -/
  | tlbis (a : Reg) (b : Reg)
  /-- WAIT (R326): Waits until the outstanding counters are at or below the immediates, then ends the region. -/
  | wait (l : BitVec 5) (s : BitVec 5) (c : BitVec 5) (t : BitVec 5)
  /-- DCSET (R330): Sets a dependence counter's count. -/
  | dcset (d : Reg) (a : Reg) (b : Reg)
  /-- DCADD (R330): Adds to a dependence counter. -/
  | dcadd (d : Reg) (a : Reg) (b : Reg)
  /-- DCDEC (R330): Decrements a dependence counter, firing its binding on reaching zero. -/
  | dcdec (d : Reg) (a : Reg) (b : Reg)
  /-- DCGET (R330): Reads a dependence counter's count and flags. -/
  | dcget (d : Reg) (a : Reg)
  /-- DCBIND (R330): Binds or unbinds a dependence counter to a handler entry. -/
  | dcbind (d : Reg) (a : Reg) (b : Reg)
  /-- BAR (R333): Releases and arrives at a barrier without waiting. -/
  | bar (d : Reg) (a : Reg)
  /-- BARW (R333): Releases, arrives at a barrier and blocks until its generation changes. -/
  | barw (d : Reg) (a : Reg)
  /-- BARINIT (R333): Initialises a barrier's participants and counter link. -/
  | barinit (d : Reg) (a : Reg) (b : Reg)
  /-- PCSEL (R335): Selects the event of a performance counter and zeroes it. -/
  | pcsel (a : Reg) (b : Reg)
  /-- PCRD (R335): Reads a performance counter subject to the allow-list. -/
  | pcrd (d : Reg) (a : Reg)
  /-- TIME (R337): Reads KTIME. -/
  | time (d : Reg)
  /-- ECNT (R338): Reads an energy account. -/
  | ecnt (d : Reg) (a : Reg)
  /-- OCRD (R339): Reads an occupancy, drop, bad-packing, progress or outstanding counter. -/
  | ocrd (d : Reg) (a : Reg)
  /-- KSTATE_WRITE (R101): An MTS to KSTATE checks privilege, sets IE and starts a spine switch. -/
  | kstateWrite (a : Reg)
  /-- KINJ_WRITE (R105): An MTS to KINJ arms a one-bit injection into the next covering remote delivery. -/
  | kinjWrite (a : Reg)
  /-- KSPILL_WRITE (R263): An MTS to KSPILL sets the spill log base, held until the log empties. -/
  | kspillWrite (a : Reg)
  /-- KSPILLEND_WRITE (R263): An MTS to KSPILLEND sets the log end and re-arms halted logging. -/
  | kspillendWrite (a : Reg)
  /-- MPART_CONTAIN (R367): Writing MPART with contain set raises a containment event of the partition. -/
  | mpartContain (a : Reg)
  /-- CONTAINMENT_COMPLETE (R367): The containment event has acted on every core, die and link, and MPART busy clears. -/
  | containmentComplete (p : BitVec 6)
  /-- MCAL_SLOT_WRITE (R369): Writes a core-calendar slot word. -/
  | mcalSlotWrite (a : Reg)
  /-- MCAL_SLOT_READ (R369): Reads a core-calendar slot word. -/
  | mcalSlotRead (a : Reg)
  /-- MCAL_DESCRIPTOR_WRITE (R369): Writes word 0 of a context descriptor. -/
  | mcalDescriptorWrite (a : Reg)
  /-- MCAL_DESCRIPTOR_READ (R369): Reads word 0 of a context descriptor. -/
  | mcalDescriptorRead (a : Reg)
  /-- MCAL_SAVE_AREA_WRITE (R369): Writes a descriptor's save-area address, refusing another module's. -/
  | mcalSaveAreaWrite (a : Reg)
  /-- MCAL_SAVE_AREA_READ (R369): Reads a descriptor's save-area address. -/
  | mcalSaveAreaRead (a : Reg)
  /-- MCAL_CALENDAR_START (R369): Starts a core calendar. -/
  | mcalCalendarStart (a : Reg)
  /-- MCAL_CALENDAR_STOP (R369): Stops a core calendar at the next slot boundary. -/
  | mcalCalendarStop (a : Reg)
  /-- MCAL_RUN_READ (R369): Reads whether a core calendar is running. -/
  | mcalRunRead (a : Reg)
  /-- MCAL_LINK_SLOT_WRITE (R369): Writes the owner of a mesh link calendar slot. -/
  | mcalLinkSlotWrite (a : Reg)
  /-- MCAL_LINK_SLOT_READ (R369): Reads the owner of a mesh link calendar slot. -/
  | mcalLinkSlotRead (a : Reg)
  /-- MCAL_LINK_CHANNEL_WRITE (R369): Writes the owner of a mesh link virtual channel. -/
  | mcalLinkChannelWrite (a : Reg)
  /-- MCAL_LINK_CHANNEL_READ (R369): Reads the owner of a mesh link virtual channel. -/
  | mcalLinkChannelRead (a : Reg)
  /-- MCAL_BRIDGE_SLOT_WRITE (R369): Writes the owner of a bridge or Umavas calendar slot. -/
  | mcalBridgeSlotWrite (a : Reg)
  /-- MCAL_BRIDGE_SLOT_READ (R369): Reads the owner of a bridge or Umavas calendar slot. -/
  | mcalBridgeSlotRead (a : Reg)
  /-- MCAL_BRIDGE_CHANNEL_WRITE (R369): Writes the owner of a bridge or Umavas virtual channel. -/
  | mcalBridgeChannelWrite (a : Reg)
  /-- MCAL_BRIDGE_CHANNEL_READ (R369): Reads the owner of a bridge or Umavas virtual channel. -/
  | mcalBridgeChannelRead (a : Reg)
  /-- MQUOTA_WAY_MASK_WRITE (R370): Writes a partition's L2 way mask for a slice. -/
  | mquotaWayMaskWrite (a : Reg)
  /-- MQUOTA_WAY_MASK_READ (R370): Reads a partition's L2 way mask for a slice. -/
  | mquotaWayMaskRead (a : Reg)
  /-- MQUOTA_DRAM_SLOT_WRITE (R370): Writes the owner of a memory-calendar slot. -/
  | mquotaDramSlotWrite (a : Reg)
  /-- MQUOTA_DRAM_SLOT_READ (R370): Reads the owner of a memory-calendar slot. -/
  | mquotaDramSlotRead (a : Reg)
  /-- MQUOTA_SHARE_WRITE (R370): Writes a context's window share. -/
  | mquotaShareWrite (a : Reg)
  /-- MQUOTA_SHARE_READ (R370): Reads a context's window share. -/
  | mquotaShareRead (a : Reg)
  /-- MQUOTA_CORE_LIST_WRITE (R370): Writes a core-list entry of the selected partition. -/
  | mquotaCoreListWrite (a : Reg)
  /-- MQUOTA_CORE_LIST_READ (R370): Reads a core-list entry of the selected partition. -/
  | mquotaCoreListRead (a : Reg)
  /-- CHANNEL_WORD_ARRIVAL (R13): A channel word reaches a core and enters its inbox, marking the bound entry. -/
  | channelWordArrival (k : Nat)
  /-- LAUNCH_VALIDATION (R313): A launch packet arriving at its entry die is checked against the launch table. -/
  | launchValidation (k : Nat)
  /-- LAUNCH_DISPATCH (R313): The target die's dispatcher posts the launch word and marks the entry with cause kind 0x04. -/
  | launchDispatch (k : Nat)
  /-- VF_LAUNCH_WRITE (R376): A host write to a virtual function's LAUNCH register sends a launch packet. -/
  | vfLaunchWrite (p : BitVec 6) (v : Word)
  /-- HANDLER_SELECTION (R308): With no Running handler and an eligible entry, the set selects one by starvation, priority and rotation. -/
  | handlerSelection
  /-- ASYNC_CAUSE_DELIVERY (R101): A pending asynchronous cause is delivered in place at the first instruction boundary with IE = 1. -/
  | asyncCauseDelivery
  /-- LOAD_COMPLETION (R325): A load's data returns and is written to its destination, lowering the loads counter. -/
  | loadCompletion (k : Nat)
  /-- ATOMIC_PERFORM (R237): An atomic performs indivisibly at its home slice and returns the old value. -/
  | atomicPerform (k : Nat)
  /-- TABLE_WALK_COMPLETE (R181): A merged table walk finishes and installs its translation or delivers its fault. -/
  | tableWalkComplete (va : Word) (acc : BitVec 2)
  /-- PAGE_PULL_COMPLETE (R373): A migration pull finishes copying a page, validates its entry and releases stalled accesses. -/
  | pagePullComplete (p : BitVec 6) (pa : Word)
  /-- CALENDAR_SLOT_BOUNDARY (R24): A core calendar slot ends and the next slot's contexts are due. -/
  | calendarSlotBoundary (c : CoreId)
  /-- CONTEXT_LOAD_START (R27): Five microseconds before a slot boundary, the incoming context's set begins loading. -/
  | contextLoadStart (c : CoreId)
  /-- TOKEN_BOUNDARY_SWAP (R28): At the outgoing context's first token boundary the sets swap, freezing one and activating the other. -/
  | tokenBoundarySwap (c : CoreId)
  /-- CONTEXT_LOAD_COMPLETE (R406): A load finishes and its set becomes Ready. -/
  | contextLoadComplete (c : CoreId) (b : Bool)
  /-- CONTEXT_PARK_COMPLETE (R406): A park finishes and its set becomes Empty. -/
  | contextParkComplete (c : CoreId) (b : Bool)
  /-- RECEPTION_LOG_REPLAY (R265): A logged token of an activated context is replayed into its port queue when room allows. -/
  | receptionLogReplay
  /-- SPINE_SWITCH_COMPLETE (R10): A core's glitch-free multiplexer finishes switching to the newly selected spine. -/
  | spineSwitchComplete (c : CoreId)
  /-- EPOCH_END (R384): Every 2,500 network cycles the governor charges energy, sets f_perm, evaluates transits, and sets spines, rails and shutters. -/
  | epochEnd
  /-- PATROL_SCRUB (R183): Patrol scrubbing reads an L2 frame or DRAM line in monitor slots, repairing correctable words. -/
  | patrolScrub (line : BitVec 45) (bad : Bool)
  /-- PERF_COUNTER_WRAP (R335): A performance counter passes 2^48 - 1, wraps, and may make cause 0x19 pending. -/
  | perfCounterWrap (n : BitVec 3)
  /-- CELL_PASS (R272): A PASS cell forwards its head token bit for bit. -/
  | cellPass (i : BitVec 6)
  /-- CELL_CONST (R272): A CONST cell emits its constant for each data token. -/
  | cellConst (i : BitVec 6)
  /-- CELL_SEL (R272): A SEL cell picks A or B by a control token. -/
  | cellSel (i : BitVec 6)
  /-- CELL_CMPX (R272): A CMPX cell emits the lane-wise larger then smaller token. -/
  | cellCmpx (i : BitVec 6)
  /-- CELL_FADD (R272): A cell adds its float inputs lane by lane. -/
  | cellFadd (i : BitVec 6)
  /-- CELL_FSUB (R272): A cell subtracts its float inputs lane by lane. -/
  | cellFsub (i : BitVec 6)
  /-- CELL_FMUL (R272): A cell multiplies its float inputs lane by lane. -/
  | cellFmul (i : BitVec 6)
  /-- CELL_FMA (R272): A cell computes A x B + C with one rounding. -/
  | cellFma (i : BitVec 6)
  /-- CELL_FMS (R272): A cell computes A x B - C with one rounding. -/
  | cellFms (i : BitVec 6)
  /-- CELL_FMIN (R272): A cell takes the float minimum per lane. -/
  | cellFmin (i : BitVec 6)
  /-- CELL_FMAX (R272): A cell takes the float maximum per lane. -/
  | cellFmax (i : BitVec 6)
  /-- CELL_FABS (R272): A cell clears the sign per lane. -/
  | cellFabs (i : BitVec 6)
  /-- CELL_FNEG (R272): A cell inverts the sign per lane. -/
  | cellFneg (i : BitVec 6)
  /-- CELL_FDIV (R272): A cell divides A by B per lane. -/
  | cellFdiv (i : BitVec 6)
  /-- CELL_FSQRT (R272): A cell takes the square root per lane. -/
  | cellFsqrt (i : BitVec 6)
  /-- CELL_FCMP (R273): A cell compares floats, emitting masks or control tokens. -/
  | cellFcmp (i : BitVec 6)
  /-- CELL_FCVT (R274): A cell converts each lane from a float format to fmt2. -/
  | cellFcvt (i : BitVec 6)
  /-- CELL_IADD (R272): A cell adds integers, wrapping or clamping. -/
  | cellIadd (i : BitVec 6)
  /-- CELL_ISUB (R272): A cell subtracts integers, wrapping or clamping. -/
  | cellIsub (i : BitVec 6)
  /-- CELL_IMUL (R272): A cell multiplies integers, wrapping or clamping. -/
  | cellImul (i : BitVec 6)
  /-- CELL_IMAC (R272): A cell computes A x B + C on integers. -/
  | cellImac (i : BitVec 6)
  /-- CELL_IAND (R272): A cell ANDs its inputs. -/
  | cellIand (i : BitVec 6)
  /-- CELL_IOR (R272): A cell ORs its inputs. -/
  | cellIor (i : BitVec 6)
  /-- CELL_IXOR (R272): A cell XORs its inputs. -/
  | cellIxor (i : BitVec 6)
  /-- CELL_ISHL (R272): A cell shifts A left by B mod w. -/
  | cellIshl (i : BitVec 6)
  /-- CELL_ISHR (R272): A cell shifts A right logically by B mod w. -/
  | cellIshr (i : BitVec 6)
  /-- CELL_ISHA (R272): A cell shifts A right arithmetically by B mod w. -/
  | cellIsha (i : BitVec 6)
  /-- CELL_IMIN (R272): A cell takes the integer minimum. -/
  | cellImin (i : BitVec 6)
  /-- CELL_IMAX (R272): A cell takes the integer maximum. -/
  | cellImax (i : BitVec 6)
  /-- CELL_ICMP (R273): A cell compares integers, emitting masks or control tokens. -/
  | cellIcmp (i : BitVec 6)
  /-- CELL_UNP3 (R275): A cell decodes T5 bytes into S8 trit tokens. -/
  | cellUnp3 (i : BitVec 6)
  /-- CELL_TACC (R276): A cell accumulates trit times activation into S32 per group. -/
  | cellTacc (i : BitVec 6)
  /-- CELL_RED (R277): A cell reduces each group by add, min or max. -/
  | cellRed (i : BitVec 6)
  /-- CELL_CSUM (R277): A cell folds each group into a rotate-add checksum. -/
  | cellCsum (i : BitVec 6)
  /-- CELL_MLD (R278): A memory node issues a load at the address on input A. -/
  | cellMld (i : BitVec 6)
  /-- CELL_MST (R278): A memory node issues a store of B at the address on A. -/
  | cellMst (i : BitVec 6)
  /-- CELL_MATOM (R278): A memory node performs a relaxed atomic at the home slice. -/
  | cellMatom (i : BitVec 6)
  /-- MEMORY_NODE_RESULT (R278): A memory node's load or atomic result returns and is emitted in issue order. -/
  | memoryNodeResult (i : BitVec 6)
  /-- STORE_ACKNOWLEDGE (R278): A sink's store is acknowledged, lowering its store-acknowledge count and committing it. -/
  | storeAcknowledge (e : BitVec 10)
  /-- CELL_ORD (R279): An ORD cell joins completion tokens on A with the head of B. -/
  | cellOrd (i : BitVec 6)
  /-- CELL_WTAP (R283): A WTAP cell sums listed taps in list order. -/
  | cellWtap (i : BitVec 6)
  /-- CELL_LQW (R282): A window unit takes a lattice token, updates its line queues and emits tap rows. -/
  | cellLqw (i : BitVec 6)
  /-- ROUTE (R284): A router passes input 0 to its fan-out. -/
  | route (i : BitVec 6)
  /-- STEER (R285): A router splits a stream by control tokens into flat and shaped sides. -/
  | steer (i : BitVec 6)
  /-- MERGE (R286): A router rejoins a steered stream by the same control sequence. -/
  | merge (i : BitVec 6)
  /-- CARRY (R287): A router holds one thread in a loop using its back edge. -/
  | carry (i : BitVec 6)
  /-- SCAN (R290): A fibre element walks one compressed level, emitting coordinates and references. -/
  | scan (e : BitVec 3)
  /-- ISECT (R255): A fibre element emits matching coordinates of two fibres. -/
  | isect (e : BitVec 3)
  /-- UNION (R255): A fibre element emits every coordinate of two fibres with absent sides. -/
  | union (e : BitVec 3)
  /-- REPEAT (R291): A fibre element repeats A's value for each coordinate of B. -/
  | repeatF (e : BitVec 3)
  /-- LOOKUP (R292): A fibre element replaces references by values from a window array. -/
  | lookup (e : BitVec 3)
  /-- FRED (R293): A fibre element reduces value groups at a level. -/
  | fred (e : BitVec 3)
  /-- FWRITE (R294): A fibre element builds a compressed level in window memory. -/
  | fwrite (e : BitVec 3)
  /-- STREAM_READ (R202): An edge-engine read stream emits a token of elements and its stops. -/
  | streamRead (e : BitVec 2) (n : BitVec 2)
  /-- STREAM_WRITE (R202): An edge-engine write stream takes a token and writes its lanes. -/
  | streamWrite (e : BitVec 2) (n : BitVec 2)
  /-- STREAM_GATHER (R202): An edge-engine gather stream reads the referenced element for an F token. -/
  | streamGather (e : BitVec 2) (n : BitVec 2)
  /-- CONTROL_TOKEN_FORWARD (R261): A control token moves to a router buffer whose free-slot count is above zero. -/
  | controlTokenForward (i : BitVec 6)
  /-- MESH_TOKEN_FORWARD (R261): A mesh router forwards a token in its partition's calendar slot when a credit is available. -/
  | meshTokenForward (k : Nat)
  /-- CREDIT_RETURN (R261): A receiver returns a credit one network cycle after freeing a virtual-channel slot. -/
  | creditReturn (k : Nat)
  /-- TOKEN_ARRIVAL_AT_PORT (R264): A token sent to another context arrives and is queued, spilled or logged by its destination's state. -/
  | tokenArrivalAtPort (k : Nat)
  /-- SPILL_REFILL (R262): A logged token returns from the spill log head to its port queue as the queue frees a slot. -/
  | spillRefill
  /-- GRAPH_COMPLETION (R17): The barrier units agree a graph's end condition and report completion to a handler or counter. -/
  | graphCompletion (g : BitVec 4)
  /-- ENGINE_DECREMENT (R330): A decrement signalled by a record, request or graph completion is applied at the counter's die. -/
  | engineDecrement (k : Nat)
  /-- COPY_CHAIN_START (R218): A chain waiting under after starts once every earlier copy and transform has completed. -/
  | copyChainStart (e : BitVec 2)
  /-- COPY_RECORD_READ (R211): A copy channel reads a transfer record and checks it. -/
  | copyRecordRead (e : BitVec 2)
  /-- COPY_ELEMENT_COMMIT (R207): A segment's bytes are written and its destination elements commit in order. -/
  | copyElementCommit (e : BitVec 2)
  /-- TRANSFORM_REQUEST_START (R224): A queued spectrograph request starts after the previous one completes. -/
  | transformRequestStart
  /-- TRANSFORM_CHUNK_COMPLETE (R227): A spectrograph lane finishes or fails a chunk; the request completes or halts accordingly. -/
  | transformChunkComplete (n : BitVec 8)
  /-- MX_COMMAND_START (R143): A queued matrix command begins at its turn in queue order. -/
  | mxCommandStart
  /-- ARRAY_ROW_ADVANCE (R144): An item at an array row's head moves to the next owned row when it has a free slot. -/
  | arrayRowAdvance
  /-- MATRIX_ROW_COMMIT (R144): A row commits four core cycles after leaving the last owned array row, writing all 16 entries. -/
  | matrixRowCommit
  /-- MX_COMMAND_COMPLETE (R143): A matrix command completes, lowering the tiles counter and ORing its flags into KFPC. -/
  | mxCommandComplete
  /-- LINK_RETRY (R361): An error on a bridge or Umavas link flit triggers retry, failing to status 8, 0x09 or containment. -/
  | linkRetry (u : BitVec 3) (n : Nat) (ok : Bool)
  /-- HOST_BAR2_READ (R377): A host read through a virtual function's BAR2 is translated by stage 2. -/
  | hostBar2Read (p : BitVec 6) (addr : Word) (n : BitVec 4)
  /-- HOST_BAR2_WRITE (R377): A host write through a virtual function's BAR2 is translated by stage 2 and committed. -/
  | hostBar2Write (p : BitVec 6) (addr : Word) (n : BitVec 4) (v : Word)
  /-- PF_BAR2_ACCESS (R375): A host access through the physical function's BAR2 window to die 0's DRAM. -/
  | pfBar2Access (w : Bool) (addr : BitVec 28) (v : Byte)
  /-- FUNCTION_LEVEL_RESET (R374): A function-level reset of a virtual function raises a containment event of its partition. -/
  | functionLevelReset (p : BitVec 6)
  /-- BOOTCMD_COLD_START (R379): Writing 1 to BOOTCMD starts a cold start or, in phase 0x05, signals the image is written. -/
  | bootcmdColdStart
  /-- BOOTCMD_WARM_START (R382): Writing 2 to BOOTCMD starts a warm start keeping DRAM. -/
  | bootcmdWarmStart
  /-- POWER_SEQUENCING (R379): Phase 0x01 finishes powering the rails of every die. -/
  | powerSequencing (ok : Bool)
  /-- CLOCK_LOCK (R379): Phase 0x02 finishes locking the spines and network clock, zeroing KTIME. -/
  | clockLock (ok : Bool)
  /-- SELF_TEST (R379): Phase 0x03 finishes the logic and SRAM self-test. -/
  | selfTest (logic : Bool) (sram : Bool)
  /-- DRAM_TRAINING (R379): Phase 0x04 finishes DRAM and Umavas link training: bit 3d + k of `links` says that link k of die d has trained. -/
  | dramTraining (dram : Bool) (links : BitVec 24)
  /-- IMAGE_CHECK (R380): Phase 0x06 verifies the image's digest and signature, halting or proceeding. -/
  | imageCheck
  /-- MONITOR_START (R379): Phase 0x07 starts core 511 of every die at the image's entry offset with MVEC set. -/
  | monitorStart
  /-- PRE_EMPTION_NOTICE (R356): The monitor makes cause 0x18 pending in a context, with KEVAL the calendar time of its coming stop. -/
  | preEmptionNotice (stop : Word)
  /-- MONITOR_REQUESTED_HALT (R381): The monitor halts a running module with phase 0xFF and code 0x0B in BOOTSTAT. -/
  | monitorRequestedHalt
  deriving DecidableEq, Repr

/-- Is it an event: a row of the table without an encoding? -/
def Instr.isEvent : Instr → Bool
  | .kstateWrite _ => true
  | .kinjWrite _ => true
  | .kspillWrite _ => true
  | .kspillendWrite _ => true
  | .mpartContain _ => true
  | .containmentComplete _ => true
  | .mcalSlotWrite _ => true
  | .mcalSlotRead _ => true
  | .mcalDescriptorWrite _ => true
  | .mcalDescriptorRead _ => true
  | .mcalSaveAreaWrite _ => true
  | .mcalSaveAreaRead _ => true
  | .mcalCalendarStart _ => true
  | .mcalCalendarStop _ => true
  | .mcalRunRead _ => true
  | .mcalLinkSlotWrite _ => true
  | .mcalLinkSlotRead _ => true
  | .mcalLinkChannelWrite _ => true
  | .mcalLinkChannelRead _ => true
  | .mcalBridgeSlotWrite _ => true
  | .mcalBridgeSlotRead _ => true
  | .mcalBridgeChannelWrite _ => true
  | .mcalBridgeChannelRead _ => true
  | .mquotaWayMaskWrite _ => true
  | .mquotaWayMaskRead _ => true
  | .mquotaDramSlotWrite _ => true
  | .mquotaDramSlotRead _ => true
  | .mquotaShareWrite _ => true
  | .mquotaShareRead _ => true
  | .mquotaCoreListWrite _ => true
  | .mquotaCoreListRead _ => true
  | .channelWordArrival _ => true
  | .launchValidation _ => true
  | .launchDispatch _ => true
  | .vfLaunchWrite _ _ => true
  | .handlerSelection => true
  | .asyncCauseDelivery => true
  | .loadCompletion _ => true
  | .atomicPerform _ => true
  | .tableWalkComplete _ _ => true
  | .pagePullComplete _ _ => true
  | .calendarSlotBoundary _ => true
  | .contextLoadStart _ => true
  | .tokenBoundarySwap _ => true
  | .contextLoadComplete _ _ => true
  | .contextParkComplete _ _ => true
  | .receptionLogReplay => true
  | .spineSwitchComplete _ => true
  | .epochEnd => true
  | .patrolScrub _ _ => true
  | .perfCounterWrap _ => true
  | .cellPass _ => true
  | .cellConst _ => true
  | .cellSel _ => true
  | .cellCmpx _ => true
  | .cellFadd _ => true
  | .cellFsub _ => true
  | .cellFmul _ => true
  | .cellFma _ => true
  | .cellFms _ => true
  | .cellFmin _ => true
  | .cellFmax _ => true
  | .cellFabs _ => true
  | .cellFneg _ => true
  | .cellFdiv _ => true
  | .cellFsqrt _ => true
  | .cellFcmp _ => true
  | .cellFcvt _ => true
  | .cellIadd _ => true
  | .cellIsub _ => true
  | .cellImul _ => true
  | .cellImac _ => true
  | .cellIand _ => true
  | .cellIor _ => true
  | .cellIxor _ => true
  | .cellIshl _ => true
  | .cellIshr _ => true
  | .cellIsha _ => true
  | .cellImin _ => true
  | .cellImax _ => true
  | .cellIcmp _ => true
  | .cellUnp3 _ => true
  | .cellTacc _ => true
  | .cellRed _ => true
  | .cellCsum _ => true
  | .cellMld _ => true
  | .cellMst _ => true
  | .cellMatom _ => true
  | .memoryNodeResult _ => true
  | .storeAcknowledge _ => true
  | .cellOrd _ => true
  | .cellWtap _ => true
  | .cellLqw _ => true
  | .route _ => true
  | .steer _ => true
  | .merge _ => true
  | .carry _ => true
  | .scan _ => true
  | .isect _ => true
  | .union _ => true
  | .repeatF _ => true
  | .lookup _ => true
  | .fred _ => true
  | .fwrite _ => true
  | .streamRead _ _ => true
  | .streamWrite _ _ => true
  | .streamGather _ _ => true
  | .controlTokenForward _ => true
  | .meshTokenForward _ => true
  | .creditReturn _ => true
  | .tokenArrivalAtPort _ => true
  | .spillRefill => true
  | .graphCompletion _ => true
  | .engineDecrement _ => true
  | .copyChainStart _ => true
  | .copyRecordRead _ => true
  | .copyElementCommit _ => true
  | .transformRequestStart => true
  | .transformChunkComplete _ => true
  | .mxCommandStart => true
  | .arrayRowAdvance => true
  | .matrixRowCommit => true
  | .mxCommandComplete => true
  | .linkRetry _ _ _ => true
  | .hostBar2Read _ _ _ => true
  | .hostBar2Write _ _ _ _ => true
  | .pfBar2Access _ _ _ => true
  | .functionLevelReset _ => true
  | .bootcmdColdStart => true
  | .bootcmdWarmStart => true
  | .powerSequencing _ => true
  | .clockLock _ => true
  | .selfTest _ _ => true
  | .dramTraining _ _ => true
  | .imageCheck => true
  | .monitorStart => true
  | .preEmptionNotice _ => true
  | .monitorRequestedHalt => true
  | .ill _ => false
  | .add _ _ _ => false
  | .sub _ _ _ => false
  | .and _ _ _ => false
  | .or _ _ _ => false
  | .xor _ _ _ => false
  | .andn _ _ _ => false
  | .orn _ _ _ => false
  | .shl _ _ _ => false
  | .shr _ _ _ => false
  | .sha _ _ _ => false
  | .rol _ _ _ => false
  | .min _ _ _ => false
  | .max _ _ _ => false
  | .minn _ _ _ => false
  | .maxn _ _ _ => false
  | .adds _ _ _ => false
  | .subs _ _ _ => false
  | .add32 _ _ _ => false
  | .sub32 _ _ _ => false
  | .sel _ _ _ _ => false
  | .mul _ _ _ => false
  | .mulh _ _ _ => false
  | .mulhn _ _ _ => false
  | .div _ _ _ => false
  | .divn _ _ _ => false
  | .rem _ _ _ => false
  | .remn _ _ _ => false
  | .mul32 _ _ _ => false
  | .clz _ _ => false
  | .ctz _ _ => false
  | .popc _ _ => false
  | .brev _ _ => false
  | .bswap _ _ => false
  | .abs _ _ => false
  | .neg _ _ => false
  | .ext _ _ _ => false
  | .extn _ _ _ => false
  | .ins _ _ _ => false
  | .csum _ _ => false
  | .ceq _ _ _ => false
  | .cne _ _ _ => false
  | .clt _ _ _ => false
  | .cle _ _ _ => false
  | .cltn _ _ _ => false
  | .clen _ _ _ => false
  | .ctst _ _ _ => false
  | .cand _ _ _ => false
  | .cor _ _ _ => false
  | .cxor _ _ _ => false
  | .cnot _ _ => false
  | .addi _ _ _ => false
  | .andi _ _ _ => false
  | .ori _ _ _ => false
  | .xori _ _ _ => false
  | .shli _ _ _ => false
  | .shri _ _ _ => false
  | .shai _ _ _ => false
  | .roli _ _ _ => false
  | .li _ _ => false
  | .lis _ _ => false
  | .cmpi _ _ _ _ => false
  | .lea _ _ => false
  | .fadd _ _ _ _ => false
  | .fsub _ _ _ _ => false
  | .fmul _ _ _ _ => false
  | .fdiv _ _ _ _ => false
  | .fsqrt _ _ _ => false
  | .fmin _ _ _ _ => false
  | .fmax _ _ _ _ => false
  | .fabs _ _ _ => false
  | .fneg _ _ _ => false
  | .fclass _ _ _ => false
  | .ffma _ _ _ _ _ => false
  | .fceq _ _ _ _ => false
  | .fclt _ _ _ _ => false
  | .fcle _ _ _ _ => false
  | .fcun _ _ _ _ => false
  | .fcvt _ _ _ _ _ _ => false
  | .ftoi _ _ _ _ _ => false
  | .itof _ _ _ _ _ _ => false
  | .br _ _ _ => false
  | .jmp _ => false
  | .call _ => false
  | .jr _ => false
  | .callr _ => false
  | .loop _ _ => false
  | .nop => false
  | .endH => false
  | .yield => false
  | .idle => false
  | .trap _ => false
  | .hcall _ => false
  | .eret => false
  | .brk => false
  | .ctxsw _ _ => false
  | .ctxpark _ _ => false
  | .ctxload _ _ _ => false
  | .mfs _ _ => false
  | .mts _ _ => false
  | .ld _ _ _ _ => false
  | .st _ _ _ _ => false
  | .ldw _ _ _ _ => false
  | .stw _ _ _ _ => false
  | .ldro _ _ _ _ => false
  | .aad _ _ _ _ _ => false
  | .aand _ _ _ _ _ => false
  | .aor _ _ _ _ _ => false
  | .axor _ _ _ _ _ => false
  | .amin _ _ _ _ _ => false
  | .amax _ _ _ _ _ => false
  | .aminn _ _ _ _ _ => false
  | .amaxn _ _ _ _ _ => false
  | .aswp _ _ _ _ _ => false
  | .afaddF32 _ _ _ _ _ => false
  | .afaddF64 _ _ _ _ _ => false
  | .afaddBf16 _ _ _ _ _ => false
  | .acas _ _ _ _ _ _ => false
  | .ald _ _ _ _ => false
  | .ast _ _ _ _ => false
  | .ald32 _ _ _ _ => false
  | .ast32 _ _ _ _ => false
  | .fence _ _ => false
  | .cflush _ => false
  | .cinv _ => false
  | .czero _ => false
  | .pref _ => false
  | .swset _ _ => false
  | .swadd _ _ => false
  | .swwait _ _ _ => false
  | .swget _ _ => false
  | .xcopy _ _ _ _ _ _ _ => false
  | .xchn _ _ _ => false
  | .xstat _ _ => false
  | .xcancel _ _ => false
  | .xform _ _ => false
  | .aad32 _ _ _ _ _ => false
  | .aand32 _ _ _ _ _ => false
  | .aor32 _ _ _ _ _ => false
  | .axor32 _ _ _ _ _ => false
  | .amin32 _ _ _ _ _ => false
  | .amax32 _ _ _ _ _ => false
  | .aminn32 _ _ _ _ _ => false
  | .amaxn32 _ _ _ _ _ => false
  | .aswp32 _ _ _ _ _ => false
  | .afaddF3232 _ _ _ _ _ => false
  | .afaddBf1632 _ _ _ _ _ => false
  | .send _ _ => false
  | .recv _ _ => false
  | .peek _ _ => false
  | .recvk _ _ _ => false
  | .cfg _ _ => false
  | .cfgw _ _ => false
  | .go _ _ _ => false
  | .drain _ _ => false
  | .abort _ _ => false
  | .replay _ _ => false
  | .gstat _ _ => false
  | .mxcfg _ _ => false
  | .mxlw _ _ _ => false
  | .mxswp => false
  | .mxrun _ _ _ _ => false
  | .mxrung _ _ _ _ => false
  | .mxacc _ _ _ _ => false
  | .mxsort _ _ _ _ => false
  | .mxzero _ _ => false
  | .hset _ _ => false
  | .hget _ _ => false
  | .hmask _ => false
  | .hunmask _ => false
  | .hrun _ _ => false
  | .launch _ _ _ => false
  | .trn _ _ => false
  | .trne _ => false
  | .slack _ _ => false
  | .tlbi _ => false
  | .tlbia => false
  | .tlbip _ => false
  | .tlbis _ _ => false
  | .wait _ _ _ _ => false
  | .dcset _ _ _ => false
  | .dcadd _ _ _ => false
  | .dcdec _ _ _ => false
  | .dcget _ _ => false
  | .dcbind _ _ _ => false
  | .bar _ _ => false
  | .barw _ _ => false
  | .barinit _ _ _ => false
  | .pcsel _ _ => false
  | .pcrd _ _ => false
  | .time _ => false
  | .ecnt _ _ => false
  | .ocrd _ _ => false

end Sys2Proof
end

