-- ==== Sys2Proof/WellFormed.lean ====
section
/-! DEFINITION. Which instructions the formats admit: the code checks of 04 R83 (check 4). A field's width is in its
type; what remains are reserved and forbidden codes. -/

namespace Sys2Proof

/-- A float format code of FCVT, FTOI and ITOF: 0 to 5 (03 R52). -/
def floatCodeOk (f : BitVec 3) : Bool := f.toNat < 6

/-- A width code of a load: every code but 7 (04 R77). -/
def widthOk (w : BitVec 3) : Bool := w ≠ 7#3

/-- The system registers of 0x000 to 0x7FF that the inventory assigns (05 R100). -/
def contextSregs : List (BitVec 12) :=
  [0x000, 0x001, 0x002, 0x003, 0x004, 0x005, 0x006, 0x008, 0x009, 0x00A, 0x00B, 0x010, 0x011, 0x012, 0x013, 0x014,
   0x015, 0x016, 0x018, 0x019, 0x020]

/-- The monitor registers (05 R106). -/
def monitorSregs : List (BitVec 12) :=
  [0x800, 0x801, 0x802, 0x803, 0x804, 0x808, 0x809, 0x80A, 0x80B, 0x80C, 0x80D, 0x80E, 0x80F, 0x810]

/-- The read-only registers KCORE, KPART, KTIME and KTRN (06 R135). -/
def readOnlySregs : List (BitVec 12) := [0x010, 0x011, 0x013, 0x019]

/-- MFS names an assigned register; MTS one that is also writable (06 R135). -/
def mfsOk (r : BitVec 12) : Bool := contextSregs.contains r || monitorSregs.contains r
def mtsOk (r : BitVec 12) : Bool := mfsOk r && !readOnlySregs.contains r

/-- The what-masks of MXZERO (07 R146). -/
def mxzeroOk (w : BitVec 4) : Bool := w = 1 || w = 2 || w = 4 || w = 8 || w = 6 || w = 15

/-- Check 4 of 04 R83 on the fields of an instruction, and the conditional zero fields of XCOPY (09 R215). Events are
always well formed. -/
def Instr.wf : Instr → Bool
  | .fcvt _ _ t _ f _ => floatCodeOk t && floatCodeOk f
  | .ftoi _ _ _ f _ => floatCodeOk f
  | .itof _ _ t _ _ _ => floatCodeOk t
  | .ld _ _ w _ => widthOk w
  | .ldw _ _ w _ => widthOk w
  | .ldro _ _ w _ => widthOk w
  | .mfs _ r => mfsOk r
  | .mts _ r => mtsOk r
  | .ald _ _ o _ => o ≠ 2#2
  | .ald32 _ _ o _ => o ≠ 2#2
  | .ast _ _ o _ => o ≠ 1#2
  | .ast32 _ _ o _ => o ≠ 1#2
  | .fence k _ => k ≠ 0#6
  | .xcopy _ b c _ _ t s => (s = 1#1 || b = 0#6) && (t = 1#1 || c = 0#6)
  | .mxlw _ _ p => p ≠ 3#2
  | .mxzero _ w => mxzeroOk w
  | _ => true

end Sys2Proof
end

