-- ==== Sys2Proof/Decode.lean ====
section
/-! DEFINITION. The decoder, total on every word and rejecting by name in the order of 04 R83, and after it the
encoder from the same formats. -/

namespace Sys2Proof

/-- Why a word is no instruction: the checks 2 to 5 of 04 R83. Each is an illegal instruction, cause 0x01. -/
inductive DecodeError where
  /-- Check 2: the major opcode is reserved. -/
  | reservedMajor
  /-- Check 3: the function code names nothing in its group. -/
  | unassignedFunction
  /-- Check 4: a code is reserved or forbidden in this instruction. -/
  | reservedCode
  /-- Check 5: a must-be-zero field is nonzero. -/
  | nonzeroField
  /-- Fewer than four bytes: no handler word (04 R74). -/
  | truncated
  deriving DecidableEq, Repr

/-- Checks 4 and 5 of 04 R83 on the word w of instruction i: `code` masks code bits that are zero in every
legal word, `zero` the must-be-zero fields. -/
def finish (w zero code : BitVec 32) (i : Instr) : Except DecodeError Instr :=
  if !(i.wf) ∨ w &&& code ≠ 0#32 then .error .reservedCode
  else if w &&& zero ≠ 0#32 then .error .nonzeroField
  else .ok i

/-- Major 0x00 (04 R78 to R81). -/
def decodeIll (w : BitVec 32) : Except DecodeError Instr :=
  finish w 0x00000000#32 0x00000000#32 (.ill (w.extractLsb' 0 26))

/-- Major 0x01 (04 R78 to R81). -/
def decodeAlu (w : BitVec 32) : Except DecodeError Instr :=
  if w.extractLsb' 0 8 = 0x0#8 then finish w 0x00000000#32 0x00000000#32 (.add (w.extractLsb' 20 6) (w.extractLsb' 14 6) (w.extractLsb' 8 6)) else
  if w.extractLsb' 0 8 = 0x1#8 then finish w 0x00000000#32 0x00000000#32 (.sub (w.extractLsb' 20 6) (w.extractLsb' 14 6) (w.extractLsb' 8 6)) else
  if w.extractLsb' 0 8 = 0x2#8 then finish w 0x00000000#32 0x00000000#32 (.and (w.extractLsb' 20 6) (w.extractLsb' 14 6) (w.extractLsb' 8 6)) else
  if w.extractLsb' 0 8 = 0x3#8 then finish w 0x00000000#32 0x00000000#32 (.or (w.extractLsb' 20 6) (w.extractLsb' 14 6) (w.extractLsb' 8 6)) else
  if w.extractLsb' 0 8 = 0x4#8 then finish w 0x00000000#32 0x00000000#32 (.xor (w.extractLsb' 20 6) (w.extractLsb' 14 6) (w.extractLsb' 8 6)) else
  if w.extractLsb' 0 8 = 0x5#8 then finish w 0x00000000#32 0x00000000#32 (.andn (w.extractLsb' 20 6) (w.extractLsb' 14 6) (w.extractLsb' 8 6)) else
  if w.extractLsb' 0 8 = 0x6#8 then finish w 0x00000000#32 0x00000000#32 (.orn (w.extractLsb' 20 6) (w.extractLsb' 14 6) (w.extractLsb' 8 6)) else
  if w.extractLsb' 0 8 = 0x7#8 then finish w 0x00000000#32 0x00000000#32 (.shl (w.extractLsb' 20 6) (w.extractLsb' 14 6) (w.extractLsb' 8 6)) else
  if w.extractLsb' 0 8 = 0x8#8 then finish w 0x00000000#32 0x00000000#32 (.shr (w.extractLsb' 20 6) (w.extractLsb' 14 6) (w.extractLsb' 8 6)) else
  if w.extractLsb' 0 8 = 0x9#8 then finish w 0x00000000#32 0x00000000#32 (.sha (w.extractLsb' 20 6) (w.extractLsb' 14 6) (w.extractLsb' 8 6)) else
  if w.extractLsb' 0 8 = 0xA#8 then finish w 0x00000000#32 0x00000000#32 (.rol (w.extractLsb' 20 6) (w.extractLsb' 14 6) (w.extractLsb' 8 6)) else
  if w.extractLsb' 0 8 = 0xB#8 then finish w 0x00000000#32 0x00000000#32 (.min (w.extractLsb' 20 6) (w.extractLsb' 14 6) (w.extractLsb' 8 6)) else
  if w.extractLsb' 0 8 = 0xC#8 then finish w 0x00000000#32 0x00000000#32 (.max (w.extractLsb' 20 6) (w.extractLsb' 14 6) (w.extractLsb' 8 6)) else
  if w.extractLsb' 0 8 = 0xD#8 then finish w 0x00000000#32 0x00000000#32 (.minn (w.extractLsb' 20 6) (w.extractLsb' 14 6) (w.extractLsb' 8 6)) else
  if w.extractLsb' 0 8 = 0xE#8 then finish w 0x00000000#32 0x00000000#32 (.maxn (w.extractLsb' 20 6) (w.extractLsb' 14 6) (w.extractLsb' 8 6)) else
  if w.extractLsb' 0 8 = 0xF#8 then finish w 0x00000000#32 0x00000000#32 (.adds (w.extractLsb' 20 6) (w.extractLsb' 14 6) (w.extractLsb' 8 6)) else
  if w.extractLsb' 0 8 = 0x10#8 then finish w 0x00000000#32 0x00000000#32 (.subs (w.extractLsb' 20 6) (w.extractLsb' 14 6) (w.extractLsb' 8 6)) else
  if w.extractLsb' 0 8 = 0x11#8 then finish w 0x00000000#32 0x00000000#32 (.add32 (w.extractLsb' 20 6) (w.extractLsb' 14 6) (w.extractLsb' 8 6)) else
  if w.extractLsb' 0 8 = 0x12#8 then finish w 0x00000000#32 0x00000000#32 (.sub32 (w.extractLsb' 20 6) (w.extractLsb' 14 6) (w.extractLsb' 8 6)) else
  if w.extractLsb' 3 5 = 0x3#5 then finish w 0x00000000#32 0x00000000#32 (.sel (w.extractLsb' 20 6) (w.extractLsb' 14 6) (w.extractLsb' 8 6) (w.extractLsb' 0 3)) else
  .error .unassignedFunction

/-- Major 0x02 (04 R78 to R81). -/
def decodeMulDiv (w : BitVec 32) : Except DecodeError Instr :=
  if w.extractLsb' 0 8 = 0x0#8 then finish w 0x00000000#32 0x00000000#32 (.mul (w.extractLsb' 20 6) (w.extractLsb' 14 6) (w.extractLsb' 8 6)) else
  if w.extractLsb' 0 8 = 0x1#8 then finish w 0x00000000#32 0x00000000#32 (.mulh (w.extractLsb' 20 6) (w.extractLsb' 14 6) (w.extractLsb' 8 6)) else
  if w.extractLsb' 0 8 = 0x2#8 then finish w 0x00000000#32 0x00000000#32 (.mulhn (w.extractLsb' 20 6) (w.extractLsb' 14 6) (w.extractLsb' 8 6)) else
  if w.extractLsb' 0 8 = 0x3#8 then finish w 0x00000000#32 0x00000000#32 (.div (w.extractLsb' 20 6) (w.extractLsb' 14 6) (w.extractLsb' 8 6)) else
  if w.extractLsb' 0 8 = 0x4#8 then finish w 0x00000000#32 0x00000000#32 (.divn (w.extractLsb' 20 6) (w.extractLsb' 14 6) (w.extractLsb' 8 6)) else
  if w.extractLsb' 0 8 = 0x5#8 then finish w 0x00000000#32 0x00000000#32 (.rem (w.extractLsb' 20 6) (w.extractLsb' 14 6) (w.extractLsb' 8 6)) else
  if w.extractLsb' 0 8 = 0x6#8 then finish w 0x00000000#32 0x00000000#32 (.remn (w.extractLsb' 20 6) (w.extractLsb' 14 6) (w.extractLsb' 8 6)) else
  if w.extractLsb' 0 8 = 0x7#8 then finish w 0x00000000#32 0x00000000#32 (.mul32 (w.extractLsb' 20 6) (w.extractLsb' 14 6) (w.extractLsb' 8 6)) else
  .error .unassignedFunction

/-- Major 0x03 (04 R78 to R81). -/
def decodeBits (w : BitVec 32) : Except DecodeError Instr :=
  if w.extractLsb' 0 8 = 0x0#8 then finish w 0x00003F00#32 0x00000000#32 (.clz (w.extractLsb' 20 6) (w.extractLsb' 14 6)) else
  if w.extractLsb' 0 8 = 0x1#8 then finish w 0x00003F00#32 0x00000000#32 (.ctz (w.extractLsb' 20 6) (w.extractLsb' 14 6)) else
  if w.extractLsb' 0 8 = 0x2#8 then finish w 0x00003F00#32 0x00000000#32 (.popc (w.extractLsb' 20 6) (w.extractLsb' 14 6)) else
  if w.extractLsb' 0 8 = 0x3#8 then finish w 0x00003F00#32 0x00000000#32 (.brev (w.extractLsb' 20 6) (w.extractLsb' 14 6)) else
  if w.extractLsb' 0 8 = 0x4#8 then finish w 0x00003F00#32 0x00000000#32 (.bswap (w.extractLsb' 20 6) (w.extractLsb' 14 6)) else
  if w.extractLsb' 0 8 = 0x5#8 then finish w 0x00003F00#32 0x00000000#32 (.abs (w.extractLsb' 20 6) (w.extractLsb' 14 6)) else
  if w.extractLsb' 0 8 = 0x6#8 then finish w 0x00003F00#32 0x00000000#32 (.neg (w.extractLsb' 20 6) (w.extractLsb' 14 6)) else
  if w.extractLsb' 0 8 = 0x7#8 then finish w 0x00000000#32 0x00000000#32 (.ext (w.extractLsb' 20 6) (w.extractLsb' 14 6) (w.extractLsb' 8 6)) else
  if w.extractLsb' 0 8 = 0x8#8 then finish w 0x00000000#32 0x00000000#32 (.extn (w.extractLsb' 20 6) (w.extractLsb' 14 6) (w.extractLsb' 8 6)) else
  if w.extractLsb' 0 8 = 0x9#8 then finish w 0x00000000#32 0x00000000#32 (.ins (w.extractLsb' 20 6) (w.extractLsb' 14 6) (w.extractLsb' 8 6)) else
  if w.extractLsb' 0 8 = 0xA#8 then finish w 0x00003F00#32 0x00000000#32 (.csum (w.extractLsb' 20 6) (w.extractLsb' 14 6)) else
  .error .unassignedFunction

/-- Major 0x04 (04 R78 to R81). -/
def decodeCmp (w : BitVec 32) : Except DecodeError Instr :=
  if w.extractLsb' 0 8 = 0x0#8 then finish w 0x00700000#32 0x00000000#32 (.ceq (w.extractLsb' 23 3) (w.extractLsb' 14 6) (w.extractLsb' 8 6)) else
  if w.extractLsb' 0 8 = 0x1#8 then finish w 0x00700000#32 0x00000000#32 (.cne (w.extractLsb' 23 3) (w.extractLsb' 14 6) (w.extractLsb' 8 6)) else
  if w.extractLsb' 0 8 = 0x2#8 then finish w 0x00700000#32 0x00000000#32 (.clt (w.extractLsb' 23 3) (w.extractLsb' 14 6) (w.extractLsb' 8 6)) else
  if w.extractLsb' 0 8 = 0x3#8 then finish w 0x00700000#32 0x00000000#32 (.cle (w.extractLsb' 23 3) (w.extractLsb' 14 6) (w.extractLsb' 8 6)) else
  if w.extractLsb' 0 8 = 0x4#8 then finish w 0x00700000#32 0x00000000#32 (.cltn (w.extractLsb' 23 3) (w.extractLsb' 14 6) (w.extractLsb' 8 6)) else
  if w.extractLsb' 0 8 = 0x5#8 then finish w 0x00700000#32 0x00000000#32 (.clen (w.extractLsb' 23 3) (w.extractLsb' 14 6) (w.extractLsb' 8 6)) else
  if w.extractLsb' 0 8 = 0x6#8 then finish w 0x00700000#32 0x00000000#32 (.ctst (w.extractLsb' 23 3) (w.extractLsb' 14 6) (w.extractLsb' 8 6)) else
  if w.extractLsb' 0 8 = 0x8#8 then finish w 0x007E3800#32 0x00000000#32 (.cand (w.extractLsb' 23 3) (w.extractLsb' 14 3) (w.extractLsb' 8 3)) else
  if w.extractLsb' 0 8 = 0x9#8 then finish w 0x007E3800#32 0x00000000#32 (.cor (w.extractLsb' 23 3) (w.extractLsb' 14 3) (w.extractLsb' 8 3)) else
  if w.extractLsb' 0 8 = 0xA#8 then finish w 0x007E3800#32 0x00000000#32 (.cxor (w.extractLsb' 23 3) (w.extractLsb' 14 3) (w.extractLsb' 8 3)) else
  if w.extractLsb' 0 8 = 0xB#8 then finish w 0x007E3F00#32 0x00000000#32 (.cnot (w.extractLsb' 23 3) (w.extractLsb' 14 3)) else
  .error .unassignedFunction

/-- Major 0x05 (04 R78 to R81). -/
def decodeAddi (w : BitVec 32) : Except DecodeError Instr :=
  finish w 0x00000000#32 0x00000000#32 (.addi (w.extractLsb' 20 6) (w.extractLsb' 14 6) (w.extractLsb' 0 14))

/-- Major 0x06 (04 R78 to R81). -/
def decodeAndi (w : BitVec 32) : Except DecodeError Instr :=
  finish w 0x00000000#32 0x00000000#32 (.andi (w.extractLsb' 20 6) (w.extractLsb' 14 6) (w.extractLsb' 0 14))

/-- Major 0x07 (04 R78 to R81). -/
def decodeOri (w : BitVec 32) : Except DecodeError Instr :=
  finish w 0x00000000#32 0x00000000#32 (.ori (w.extractLsb' 20 6) (w.extractLsb' 14 6) (w.extractLsb' 0 14))

/-- Major 0x08 (04 R78 to R81). -/
def decodeXori (w : BitVec 32) : Except DecodeError Instr :=
  finish w 0x00000000#32 0x00000000#32 (.xori (w.extractLsb' 20 6) (w.extractLsb' 14 6) (w.extractLsb' 0 14))

/-- Major 0x09 (04 R78 to R81). -/
def decodeShi (w : BitVec 32) : Except DecodeError Instr :=
  if w.extractLsb' 12 2 = 0x0#2 then finish w 0x00000FC0#32 0x00000000#32 (.shli (w.extractLsb' 20 6) (w.extractLsb' 14 6) (w.extractLsb' 0 6)) else
  if w.extractLsb' 12 2 = 0x1#2 then finish w 0x00000FC0#32 0x00000000#32 (.shri (w.extractLsb' 20 6) (w.extractLsb' 14 6) (w.extractLsb' 0 6)) else
  if w.extractLsb' 12 2 = 0x2#2 then finish w 0x00000FC0#32 0x00000000#32 (.shai (w.extractLsb' 20 6) (w.extractLsb' 14 6) (w.extractLsb' 0 6)) else
  if w.extractLsb' 12 2 = 0x3#2 then finish w 0x00000FC0#32 0x00000000#32 (.roli (w.extractLsb' 20 6) (w.extractLsb' 14 6) (w.extractLsb' 0 6)) else
  .error .unassignedFunction

/-- Major 0x0A (04 R78 to R81). -/
def decodeLi (w : BitVec 32) : Except DecodeError Instr :=
  finish w 0x00000000#32 0x00000000#32 (.li (w.extractLsb' 20 6) (w.extractLsb' 0 20))

/-- Major 0x0B (04 R78 to R81). -/
def decodeLis (w : BitVec 32) : Except DecodeError Instr :=
  finish w 0x00000000#32 0x00000000#32 (.lis (w.extractLsb' 20 6) (w.extractLsb' 0 20))

/-- Major 0x0C (04 R78 to R81). -/
def decodeCmpi (w : BitVec 32) : Except DecodeError Instr :=
  finish w 0x00000000#32 0x00000000#32 (.cmpi (w.extractLsb' 23 3) (w.extractLsb' 20 3) (w.extractLsb' 14 6) (w.extractLsb' 0 14))

/-- Major 0x0D (04 R78 to R81). -/
def decodeLea (w : BitVec 32) : Except DecodeError Instr :=
  finish w 0x00000000#32 0x00000000#32 (.lea (w.extractLsb' 20 6) (w.extractLsb' 0 20))

/-- Major 0x10 (04 R78 to R81). -/
def decodeFp (w : BitVec 32) : Except DecodeError Instr :=
  if w.extractLsb' 3 5 = 0x0#5 then finish w 0x00000000#32 0x00000004#32 (.fadd (w.extractLsb' 20 6) (w.extractLsb' 14 6) (w.extractLsb' 8 6) (w.extractLsb' 0 2)) else
  if w.extractLsb' 3 5 = 0x1#5 then finish w 0x00000000#32 0x00000004#32 (.fsub (w.extractLsb' 20 6) (w.extractLsb' 14 6) (w.extractLsb' 8 6) (w.extractLsb' 0 2)) else
  if w.extractLsb' 3 5 = 0x2#5 then finish w 0x00000000#32 0x00000004#32 (.fmul (w.extractLsb' 20 6) (w.extractLsb' 14 6) (w.extractLsb' 8 6) (w.extractLsb' 0 2)) else
  if w.extractLsb' 3 5 = 0x3#5 then finish w 0x00000000#32 0x00000004#32 (.fdiv (w.extractLsb' 20 6) (w.extractLsb' 14 6) (w.extractLsb' 8 6) (w.extractLsb' 0 2)) else
  if w.extractLsb' 3 5 = 0x4#5 then finish w 0x00003F00#32 0x00000004#32 (.fsqrt (w.extractLsb' 20 6) (w.extractLsb' 14 6) (w.extractLsb' 0 2)) else
  if w.extractLsb' 3 5 = 0x5#5 then finish w 0x00000000#32 0x00000004#32 (.fmin (w.extractLsb' 20 6) (w.extractLsb' 14 6) (w.extractLsb' 8 6) (w.extractLsb' 0 2)) else
  if w.extractLsb' 3 5 = 0x6#5 then finish w 0x00000000#32 0x00000004#32 (.fmax (w.extractLsb' 20 6) (w.extractLsb' 14 6) (w.extractLsb' 8 6) (w.extractLsb' 0 2)) else
  if w.extractLsb' 3 5 = 0x7#5 then finish w 0x00003F00#32 0x00000004#32 (.fabs (w.extractLsb' 20 6) (w.extractLsb' 14 6) (w.extractLsb' 0 2)) else
  if w.extractLsb' 3 5 = 0x8#5 then finish w 0x00003F00#32 0x00000004#32 (.fneg (w.extractLsb' 20 6) (w.extractLsb' 14 6) (w.extractLsb' 0 2)) else
  if w.extractLsb' 3 5 = 0x9#5 then finish w 0x00003F00#32 0x00000004#32 (.fclass (w.extractLsb' 20 6) (w.extractLsb' 14 6) (w.extractLsb' 0 2)) else
  .error .unassignedFunction

/-- Major 0x11 (04 R78 to R81). -/
def decodeFfma (w : BitVec 32) : Except DecodeError Instr :=
  finish w 0x00000000#32 0x00000000#32 (.ffma (w.extractLsb' 20 6) (w.extractLsb' 14 6) (w.extractLsb' 8 6) (w.extractLsb' 2 6) (w.extractLsb' 0 2))

/-- Major 0x12 (04 R78 to R81). -/
def decodeFcmp (w : BitVec 32) : Except DecodeError Instr :=
  if w.extractLsb' 3 5 = 0x0#5 then finish w 0x00700000#32 0x00000004#32 (.fceq (w.extractLsb' 23 3) (w.extractLsb' 14 6) (w.extractLsb' 8 6) (w.extractLsb' 0 2)) else
  if w.extractLsb' 3 5 = 0x1#5 then finish w 0x00700000#32 0x00000004#32 (.fclt (w.extractLsb' 23 3) (w.extractLsb' 14 6) (w.extractLsb' 8 6) (w.extractLsb' 0 2)) else
  if w.extractLsb' 3 5 = 0x2#5 then finish w 0x00700000#32 0x00000004#32 (.fcle (w.extractLsb' 23 3) (w.extractLsb' 14 6) (w.extractLsb' 8 6) (w.extractLsb' 0 2)) else
  if w.extractLsb' 3 5 = 0x3#5 then finish w 0x00700000#32 0x00000004#32 (.fcun (w.extractLsb' 23 3) (w.extractLsb' 14 6) (w.extractLsb' 8 6) (w.extractLsb' 0 2)) else
  .error .unassignedFunction

/-- Major 0x13 (04 R78 to R81). -/
def decodeFcvt (w : BitVec 32) : Except DecodeError Instr :=
  if w.extractLsb' 5 3 = 0x0#3 then finish w 0x00000300#32 0x00000000#32 (.fcvt (w.extractLsb' 20 6) (w.extractLsb' 14 6) (w.extractLsb' 11 3) (w.extractLsb' 10 1) (w.extractLsb' 2 3) (w.extractLsb' 0 2)) else
  if w.extractLsb' 5 3 = 0x1#3 then finish w 0x00000700#32 0x00000000#32 (.ftoi (w.extractLsb' 20 6) (w.extractLsb' 14 6) (w.extractLsb' 11 3) (w.extractLsb' 2 3) (w.extractLsb' 0 2)) else
  if w.extractLsb' 5 3 = 0x2#3 then finish w 0x00000300#32 0x00000000#32 (.itof (w.extractLsb' 20 6) (w.extractLsb' 14 6) (w.extractLsb' 11 3) (w.extractLsb' 10 1) (w.extractLsb' 2 3) (w.extractLsb' 0 2)) else
  .error .unassignedFunction

/-- Major 0x18 (04 R78 to R81). -/
def decodeBr (w : BitVec 32) : Except DecodeError Instr :=
  finish w 0x00000000#32 0x00000000#32 (.br (w.extractLsb' 23 3) (w.extractLsb' 22 1) (w.extractLsb' 0 22))

/-- Major 0x19 (04 R78 to R81). -/
def decodeJmp (w : BitVec 32) : Except DecodeError Instr :=
  finish w 0x00000000#32 0x00000000#32 (.jmp (w.extractLsb' 0 26))

/-- Major 0x1A (04 R78 to R81). -/
def decodeCall (w : BitVec 32) : Except DecodeError Instr :=
  finish w 0x00000000#32 0x00000000#32 (.call (w.extractLsb' 0 26))

/-- Major 0x1B (04 R78 to R81). -/
def decodeJr (w : BitVec 32) : Except DecodeError Instr :=
  if w.extractLsb' 0 8 = 0x0#8 then finish w 0x03F03F00#32 0x00000000#32 (.jr (w.extractLsb' 14 6)) else
  if w.extractLsb' 0 8 = 0x1#8 then finish w 0x03F03F00#32 0x00000000#32 (.callr (w.extractLsb' 14 6)) else
  .error .unassignedFunction

/-- Major 0x1C (04 R78 to R81). -/
def decodeLoop (w : BitVec 32) : Except DecodeError Instr :=
  finish w 0x03F00000#32 0x00000000#32 (.loop (w.extractLsb' 14 6) (w.extractLsb' 0 14))

/-- Major 0x1D (04 R78 to R81). -/
def decodeCtl (w : BitVec 32) : Except DecodeError Instr :=
  if w.extractLsb' 0 8 = 0x0#8 then finish w 0x03FFFF00#32 0x00000000#32 (.nop) else
  if w.extractLsb' 0 8 = 0x1#8 then finish w 0x03FFFF00#32 0x00000000#32 (.endH) else
  if w.extractLsb' 0 8 = 0x2#8 then finish w 0x03FFFF00#32 0x00000000#32 (.yield) else
  if w.extractLsb' 0 8 = 0x3#8 then finish w 0x03FFFF00#32 0x00000000#32 (.idle) else
  .error .unassignedFunction

/-- Major 0x1E (04 R78 to R81). -/
def decodeSys (w : BitVec 32) : Except DecodeError Instr :=
  if w.extractLsb' 0 8 = 0x0#8 then finish w 0x03F03F00#32 0x00000000#32 (.trap (w.extractLsb' 14 6)) else
  if w.extractLsb' 0 8 = 0x1#8 then finish w 0x03F03F00#32 0x00000000#32 (.hcall (w.extractLsb' 14 6)) else
  if w.extractLsb' 0 8 = 0x2#8 then finish w 0x03FFFF00#32 0x00000000#32 (.eret) else
  if w.extractLsb' 0 8 = 0x3#8 then finish w 0x03FFFF00#32 0x00000000#32 (.brk) else
  if w.extractLsb' 0 8 = 0x10#8 then finish w 0x00003F00#32 0x00000000#32 (.ctxsw (w.extractLsb' 20 6) (w.extractLsb' 14 6)) else
  if w.extractLsb' 0 8 = 0x11#8 then finish w 0x00003F00#32 0x00000000#32 (.ctxpark (w.extractLsb' 20 6) (w.extractLsb' 14 6)) else
  if w.extractLsb' 0 8 = 0x12#8 then finish w 0x00000000#32 0x00000000#32 (.ctxload (w.extractLsb' 20 6) (w.extractLsb' 14 6) (w.extractLsb' 8 6)) else
  .error .unassignedFunction

/-- Major 0x1F (04 R78 to R81). -/
def decodeMfsMts (w : BitVec 32) : Except DecodeError Instr :=
  if w.extractLsb' 13 1 = 0x0#1 then finish w 0x000FD000#32 0x00000000#32 (.mfs (w.extractLsb' 20 6) (w.extractLsb' 0 12)) else
  if w.extractLsb' 13 1 = 0x1#1 then finish w 0x03F01000#32 0x00000000#32 (.mts (w.extractLsb' 14 6) (w.extractLsb' 0 12)) else
  .error .unassignedFunction

/-- Major 0x20 (04 R78 to R81). -/
def decodeLd (w : BitVec 32) : Except DecodeError Instr :=
  finish w 0x00003C00#32 0x00000000#32 (.ld (w.extractLsb' 20 6) (w.extractLsb' 14 6) (w.extractLsb' 7 3) (w.extractLsb' 0 7))

/-- Major 0x21 (04 R78 to R81). -/
def decodeSt (w : BitVec 32) : Except DecodeError Instr :=
  finish w 0x00003C00#32 0x00000080#32 (.st (w.extractLsb' 20 6) (w.extractLsb' 14 6) (w.extractLsb' 8 2) (w.extractLsb' 0 7))

/-- Major 0x22 (04 R78 to R81). -/
def decodeLdw (w : BitVec 32) : Except DecodeError Instr :=
  finish w 0x00003C00#32 0x00000000#32 (.ldw (w.extractLsb' 20 6) (w.extractLsb' 14 6) (w.extractLsb' 7 3) (w.extractLsb' 0 7))

/-- Major 0x23 (04 R78 to R81). -/
def decodeStw (w : BitVec 32) : Except DecodeError Instr :=
  finish w 0x00003C00#32 0x00000080#32 (.stw (w.extractLsb' 20 6) (w.extractLsb' 14 6) (w.extractLsb' 8 2) (w.extractLsb' 0 7))

/-- Major 0x24 (04 R78 to R81). -/
def decodeLdro (w : BitVec 32) : Except DecodeError Instr :=
  finish w 0x00003C00#32 0x00000000#32 (.ldro (w.extractLsb' 20 6) (w.extractLsb' 14 6) (w.extractLsb' 7 3) (w.extractLsb' 0 7))

/-- Major 0x25 (04 R78 to R81). -/
def decodeAtom64 (w : BitVec 32) : Except DecodeError Instr :=
  if w.extractLsb' 4 4 = 0x0#4 then finish w 0x00000000#32 0x00000000#32 (.aad (w.extractLsb' 20 6) (w.extractLsb' 14 6) (w.extractLsb' 8 6) (w.extractLsb' 2 2) (w.extractLsb' 0 2)) else
  if w.extractLsb' 4 4 = 0x1#4 then finish w 0x00000000#32 0x00000000#32 (.aand (w.extractLsb' 20 6) (w.extractLsb' 14 6) (w.extractLsb' 8 6) (w.extractLsb' 2 2) (w.extractLsb' 0 2)) else
  if w.extractLsb' 4 4 = 0x2#4 then finish w 0x00000000#32 0x00000000#32 (.aor (w.extractLsb' 20 6) (w.extractLsb' 14 6) (w.extractLsb' 8 6) (w.extractLsb' 2 2) (w.extractLsb' 0 2)) else
  if w.extractLsb' 4 4 = 0x3#4 then finish w 0x00000000#32 0x00000000#32 (.axor (w.extractLsb' 20 6) (w.extractLsb' 14 6) (w.extractLsb' 8 6) (w.extractLsb' 2 2) (w.extractLsb' 0 2)) else
  if w.extractLsb' 4 4 = 0x4#4 then finish w 0x00000000#32 0x00000000#32 (.amin (w.extractLsb' 20 6) (w.extractLsb' 14 6) (w.extractLsb' 8 6) (w.extractLsb' 2 2) (w.extractLsb' 0 2)) else
  if w.extractLsb' 4 4 = 0x5#4 then finish w 0x00000000#32 0x00000000#32 (.amax (w.extractLsb' 20 6) (w.extractLsb' 14 6) (w.extractLsb' 8 6) (w.extractLsb' 2 2) (w.extractLsb' 0 2)) else
  if w.extractLsb' 4 4 = 0x6#4 then finish w 0x00000000#32 0x00000000#32 (.aminn (w.extractLsb' 20 6) (w.extractLsb' 14 6) (w.extractLsb' 8 6) (w.extractLsb' 2 2) (w.extractLsb' 0 2)) else
  if w.extractLsb' 4 4 = 0x7#4 then finish w 0x00000000#32 0x00000000#32 (.amaxn (w.extractLsb' 20 6) (w.extractLsb' 14 6) (w.extractLsb' 8 6) (w.extractLsb' 2 2) (w.extractLsb' 0 2)) else
  if w.extractLsb' 4 4 = 0x8#4 then finish w 0x00000000#32 0x00000000#32 (.aswp (w.extractLsb' 20 6) (w.extractLsb' 14 6) (w.extractLsb' 8 6) (w.extractLsb' 2 2) (w.extractLsb' 0 2)) else
  if w.extractLsb' 4 4 = 0x9#4 then finish w 0x00000000#32 0x00000000#32 (.afaddF32 (w.extractLsb' 20 6) (w.extractLsb' 14 6) (w.extractLsb' 8 6) (w.extractLsb' 2 2) (w.extractLsb' 0 2)) else
  if w.extractLsb' 4 4 = 0xA#4 then finish w 0x00000000#32 0x00000000#32 (.afaddF64 (w.extractLsb' 20 6) (w.extractLsb' 14 6) (w.extractLsb' 8 6) (w.extractLsb' 2 2) (w.extractLsb' 0 2)) else
  if w.extractLsb' 4 4 = 0xB#4 then finish w 0x00000000#32 0x00000000#32 (.afaddBf16 (w.extractLsb' 20 6) (w.extractLsb' 14 6) (w.extractLsb' 8 6) (w.extractLsb' 2 2) (w.extractLsb' 0 2)) else
  .error .unassignedFunction

/-- Major 0x26 (04 R78 to R81). -/
def decodeAcas (w : BitVec 32) : Except DecodeError Instr :=
  finish w 0x000000E0#32 0x00000000#32 (.acas (w.extractLsb' 20 6) (w.extractLsb' 14 6) (w.extractLsb' 8 6) (w.extractLsb' 4 1) (w.extractLsb' 2 2) (w.extractLsb' 0 2))

/-- Major 0x27 (04 R78 to R81). -/
def decodeAord (w : BitVec 32) : Except DecodeError Instr :=
  if w.extractLsb' 4 4 = 0x0#4 then finish w 0x00003F00#32 0x00000000#32 (.ald (w.extractLsb' 20 6) (w.extractLsb' 14 6) (w.extractLsb' 2 2) (w.extractLsb' 0 2)) else
  if w.extractLsb' 4 4 = 0x1#4 then finish w 0x03F00000#32 0x00000000#32 (.ast (w.extractLsb' 14 6) (w.extractLsb' 8 6) (w.extractLsb' 2 2) (w.extractLsb' 0 2)) else
  if w.extractLsb' 4 4 = 0x2#4 then finish w 0x00003F00#32 0x00000000#32 (.ald32 (w.extractLsb' 20 6) (w.extractLsb' 14 6) (w.extractLsb' 2 2) (w.extractLsb' 0 2)) else
  if w.extractLsb' 4 4 = 0x3#4 then finish w 0x03F00000#32 0x00000000#32 (.ast32 (w.extractLsb' 14 6) (w.extractLsb' 8 6) (w.extractLsb' 2 2) (w.extractLsb' 0 2)) else
  .error .unassignedFunction

/-- Major 0x28 (04 R78 to R81). -/
def decodeFence (w : BitVec 32) : Except DecodeError Instr :=
  finish w 0x03FFFF00#32 0x00000000#32 (.fence (w.extractLsb' 2 6) (w.extractLsb' 0 2))

/-- Major 0x29 (04 R78 to R81). -/
def decodeCache (w : BitVec 32) : Except DecodeError Instr :=
  if w.extractLsb' 0 8 = 0x0#8 then finish w 0x03F03F00#32 0x00000000#32 (.cflush (w.extractLsb' 14 6)) else
  if w.extractLsb' 0 8 = 0x1#8 then finish w 0x03F03F00#32 0x00000000#32 (.cinv (w.extractLsb' 14 6)) else
  if w.extractLsb' 0 8 = 0x2#8 then finish w 0x03F03F00#32 0x00000000#32 (.czero (w.extractLsb' 14 6)) else
  if w.extractLsb' 0 8 = 0x3#8 then finish w 0x03F03F00#32 0x00000000#32 (.pref (w.extractLsb' 14 6)) else
  .error .unassignedFunction

/-- Major 0x2A (04 R78 to R81). -/
def decodeSyncw (w : BitVec 32) : Except DecodeError Instr :=
  if w.extractLsb' 0 8 = 0x0#8 then finish w 0x03F00000#32 0x00000000#32 (.swset (w.extractLsb' 14 6) (w.extractLsb' 8 6)) else
  if w.extractLsb' 0 8 = 0x1#8 then finish w 0x03F00000#32 0x00000000#32 (.swadd (w.extractLsb' 14 6) (w.extractLsb' 8 6)) else
  if w.extractLsb' 0 8 = 0x2#8 then finish w 0x00000000#32 0x00000000#32 (.swwait (w.extractLsb' 20 6) (w.extractLsb' 14 6) (w.extractLsb' 8 6)) else
  if w.extractLsb' 0 8 = 0x3#8 then finish w 0x00003F00#32 0x00000000#32 (.swget (w.extractLsb' 20 6) (w.extractLsb' 14 6)) else
  .error .unassignedFunction

/-- Major 0x2B (04 R78 to R81). -/
def decodeXcopy (w : BitVec 32) : Except DecodeError Instr :=
  finish w 0x00000070#32 0x00000000#32 (.xcopy (w.extractLsb' 20 6) (w.extractLsb' 14 6) (w.extractLsb' 8 6) (w.extractLsb' 7 1) (w.extractLsb' 2 2) (w.extractLsb' 1 1) (w.extractLsb' 0 1))

/-- Major 0x2C (04 R78 to R81). -/
def decodeXchn (w : BitVec 32) : Except DecodeError Instr :=
  finish w 0x000FFF73#32 0x00000000#32 (.xchn (w.extractLsb' 20 6) (w.extractLsb' 7 1) (w.extractLsb' 2 2))

/-- Major 0x2D (04 R78 to R81). -/
def decodeXctl (w : BitVec 32) : Except DecodeError Instr :=
  if w.extractLsb' 0 8 = 0x0#8 then finish w 0x00003F00#32 0x00000000#32 (.xstat (w.extractLsb' 20 6) (w.extractLsb' 14 6)) else
  if w.extractLsb' 0 8 = 0x1#8 then finish w 0x00003F00#32 0x00000000#32 (.xcancel (w.extractLsb' 20 6) (w.extractLsb' 14 6)) else
  .error .unassignedFunction

/-- Major 0x2E (04 R78 to R81). -/
def decodeXform (w : BitVec 32) : Except DecodeError Instr :=
  finish w 0x000FFF7F#32 0x00000000#32 (.xform (w.extractLsb' 20 6) (w.extractLsb' 7 1))

/-- Major 0x2F (04 R78 to R81). -/
def decodeAtom32 (w : BitVec 32) : Except DecodeError Instr :=
  if w.extractLsb' 4 4 = 0x0#4 then finish w 0x00000000#32 0x00000000#32 (.aad32 (w.extractLsb' 20 6) (w.extractLsb' 14 6) (w.extractLsb' 8 6) (w.extractLsb' 2 2) (w.extractLsb' 0 2)) else
  if w.extractLsb' 4 4 = 0x1#4 then finish w 0x00000000#32 0x00000000#32 (.aand32 (w.extractLsb' 20 6) (w.extractLsb' 14 6) (w.extractLsb' 8 6) (w.extractLsb' 2 2) (w.extractLsb' 0 2)) else
  if w.extractLsb' 4 4 = 0x2#4 then finish w 0x00000000#32 0x00000000#32 (.aor32 (w.extractLsb' 20 6) (w.extractLsb' 14 6) (w.extractLsb' 8 6) (w.extractLsb' 2 2) (w.extractLsb' 0 2)) else
  if w.extractLsb' 4 4 = 0x3#4 then finish w 0x00000000#32 0x00000000#32 (.axor32 (w.extractLsb' 20 6) (w.extractLsb' 14 6) (w.extractLsb' 8 6) (w.extractLsb' 2 2) (w.extractLsb' 0 2)) else
  if w.extractLsb' 4 4 = 0x4#4 then finish w 0x00000000#32 0x00000000#32 (.amin32 (w.extractLsb' 20 6) (w.extractLsb' 14 6) (w.extractLsb' 8 6) (w.extractLsb' 2 2) (w.extractLsb' 0 2)) else
  if w.extractLsb' 4 4 = 0x5#4 then finish w 0x00000000#32 0x00000000#32 (.amax32 (w.extractLsb' 20 6) (w.extractLsb' 14 6) (w.extractLsb' 8 6) (w.extractLsb' 2 2) (w.extractLsb' 0 2)) else
  if w.extractLsb' 4 4 = 0x6#4 then finish w 0x00000000#32 0x00000000#32 (.aminn32 (w.extractLsb' 20 6) (w.extractLsb' 14 6) (w.extractLsb' 8 6) (w.extractLsb' 2 2) (w.extractLsb' 0 2)) else
  if w.extractLsb' 4 4 = 0x7#4 then finish w 0x00000000#32 0x00000000#32 (.amaxn32 (w.extractLsb' 20 6) (w.extractLsb' 14 6) (w.extractLsb' 8 6) (w.extractLsb' 2 2) (w.extractLsb' 0 2)) else
  if w.extractLsb' 4 4 = 0x8#4 then finish w 0x00000000#32 0x00000000#32 (.aswp32 (w.extractLsb' 20 6) (w.extractLsb' 14 6) (w.extractLsb' 8 6) (w.extractLsb' 2 2) (w.extractLsb' 0 2)) else
  if w.extractLsb' 4 4 = 0x9#4 then finish w 0x00000000#32 0x00000000#32 (.afaddF3232 (w.extractLsb' 20 6) (w.extractLsb' 14 6) (w.extractLsb' 8 6) (w.extractLsb' 2 2) (w.extractLsb' 0 2)) else
  if w.extractLsb' 4 4 = 0xB#4 then finish w 0x00000000#32 0x00000000#32 (.afaddBf1632 (w.extractLsb' 20 6) (w.extractLsb' 14 6) (w.extractLsb' 8 6) (w.extractLsb' 2 2) (w.extractLsb' 0 2)) else
  .error .unassignedFunction

/-- Major 0x30 (04 R78 to R81). -/
def decodeSend (w : BitVec 32) : Except DecodeError Instr :=
  if w.extractLsb' 0 8 = 0x0#8 then finish w 0x03F00000#32 0x00000000#32 (.send (w.extractLsb' 14 6) (w.extractLsb' 8 6)) else
  .error .unassignedFunction

/-- Major 0x31 (04 R78 to R81). -/
def decodeRecv (w : BitVec 32) : Except DecodeError Instr :=
  if w.extractLsb' 0 8 = 0x0#8 then finish w 0x00003F00#32 0x00000000#32 (.recv (w.extractLsb' 20 6) (w.extractLsb' 14 6)) else
  if w.extractLsb' 0 8 = 0x1#8 then finish w 0x00003F00#32 0x00000000#32 (.peek (w.extractLsb' 20 6) (w.extractLsb' 14 6)) else
  if w.extractLsb' 0 8 = 0x2#8 then finish w 0x00000000#32 0x00000000#32 (.recvk (w.extractLsb' 20 6) (w.extractLsb' 14 6) (w.extractLsb' 8 6)) else
  .error .unassignedFunction

/-- Major 0x32 (04 R78 to R81). -/
def decodeCfgGroup (w : BitVec 32) : Except DecodeError Instr :=
  if w.extractLsb' 0 8 = 0x0#8 then finish w 0x03F00000#32 0x00000000#32 (.cfg (w.extractLsb' 14 6) (w.extractLsb' 8 6)) else
  if w.extractLsb' 0 8 = 0x1#8 then finish w 0x03F00000#32 0x00000000#32 (.cfgw (w.extractLsb' 14 6) (w.extractLsb' 8 6)) else
  .error .unassignedFunction

/-- Major 0x33 (04 R78 to R81). -/
def decodeGraph (w : BitVec 32) : Except DecodeError Instr :=
  if w.extractLsb' 0 8 = 0x0#8 then finish w 0x00000000#32 0x00000000#32 (.go (w.extractLsb' 20 6) (w.extractLsb' 14 6) (w.extractLsb' 8 6)) else
  if w.extractLsb' 0 8 = 0x1#8 then finish w 0x00003F00#32 0x00000000#32 (.drain (w.extractLsb' 20 6) (w.extractLsb' 14 6)) else
  if w.extractLsb' 0 8 = 0x2#8 then finish w 0x00003F00#32 0x00000000#32 (.abort (w.extractLsb' 20 6) (w.extractLsb' 14 6)) else
  if w.extractLsb' 0 8 = 0x3#8 then finish w 0x00003F00#32 0x00000000#32 (.replay (w.extractLsb' 20 6) (w.extractLsb' 14 6)) else
  if w.extractLsb' 0 8 = 0x4#8 then finish w 0x00003F00#32 0x00000000#32 (.gstat (w.extractLsb' 20 6) (w.extractLsb' 14 6)) else
  .error .unassignedFunction

/-- Major 0x34 (04 R78 to R81). -/
def decodeMx (w : BitVec 32) : Except DecodeError Instr :=
  if w.extractLsb' 5 3 = 0x0#3 then finish w 0x000FFF1E#32 0x00000000#32 (.mxcfg (w.extractLsb' 20 6) (w.extractLsb' 0 1)) else
  if w.extractLsb' 5 3 = 0x1#3 then finish w 0x00003F1C#32 0x00000000#32 (.mxlw (w.extractLsb' 20 6) (w.extractLsb' 14 6) (w.extractLsb' 0 2)) else
  if w.extractLsb' 5 3 = 0x2#3 then finish w 0x03FFFF1F#32 0x00000000#32 (.mxswp) else
  if w.extractLsb' 5 3 = 0x3#3 then finish w 0x0000001E#32 0x00000000#32 (.mxrun (w.extractLsb' 20 6) (w.extractLsb' 14 6) (w.extractLsb' 8 6) (w.extractLsb' 0 1)) else
  if w.extractLsb' 5 3 = 0x4#3 then finish w 0x0000001E#32 0x00000000#32 (.mxrung (w.extractLsb' 20 6) (w.extractLsb' 14 6) (w.extractLsb' 8 6) (w.extractLsb' 0 1)) else
  if w.extractLsb' 5 3 = 0x5#3 then finish w 0x00003F1C#32 0x00000000#32 (.mxacc (w.extractLsb' 20 6) (w.extractLsb' 14 6) (w.extractLsb' 1 1) (w.extractLsb' 0 1)) else
  if w.extractLsb' 5 3 = 0x6#3 then finish w 0x0000001E#32 0x00000000#32 (.mxsort (w.extractLsb' 20 6) (w.extractLsb' 14 6) (w.extractLsb' 8 6) (w.extractLsb' 0 1)) else
  if w.extractLsb' 5 3 = 0x7#3 then finish w 0x03F03F10#32 0x00000000#32 (.mxzero (w.extractLsb' 14 6) (w.extractLsb' 0 4)) else
  .error .unassignedFunction

/-- Major 0x38 (04 R78 to R81). -/
def decodeHtab (w : BitVec 32) : Except DecodeError Instr :=
  if w.extractLsb' 0 8 = 0x0#8 then finish w 0x03F00000#32 0x00000000#32 (.hset (w.extractLsb' 14 6) (w.extractLsb' 8 6)) else
  if w.extractLsb' 0 8 = 0x1#8 then finish w 0x00003F00#32 0x00000000#32 (.hget (w.extractLsb' 20 6) (w.extractLsb' 14 6)) else
  if w.extractLsb' 0 8 = 0x2#8 then finish w 0x03F03F00#32 0x00000000#32 (.hmask (w.extractLsb' 14 6)) else
  if w.extractLsb' 0 8 = 0x3#8 then finish w 0x03F03F00#32 0x00000000#32 (.hunmask (w.extractLsb' 14 6)) else
  if w.extractLsb' 0 8 = 0x4#8 then finish w 0x03F00000#32 0x00000000#32 (.hrun (w.extractLsb' 14 6) (w.extractLsb' 8 6)) else
  .error .unassignedFunction

/-- Major 0x39 (04 R78 to R81). -/
def decodeLaunch (w : BitVec 32) : Except DecodeError Instr :=
  if w.extractLsb' 0 8 = 0x0#8 then finish w 0x00000000#32 0x00000000#32 (.launch (w.extractLsb' 20 6) (w.extractLsb' 14 6) (w.extractLsb' 8 6)) else
  .error .unassignedFunction

/-- Major 0x3A (04 R78 to R81). -/
def decodeTrn (w : BitVec 32) : Except DecodeError Instr :=
  if w.extractLsb' 0 8 = 0x0#8 then finish w 0x00003F00#32 0x00000000#32 (.trn (w.extractLsb' 20 6) (w.extractLsb' 14 6)) else
  if w.extractLsb' 0 8 = 0x1#8 then finish w 0x000FFF00#32 0x00000000#32 (.trne (w.extractLsb' 20 6)) else
  if w.extractLsb' 0 8 = 0x2#8 then finish w 0x00003F00#32 0x00000000#32 (.slack (w.extractLsb' 20 6) (w.extractLsb' 14 6)) else
  .error .unassignedFunction

/-- Major 0x3B (04 R78 to R81). -/
def decodeTlb (w : BitVec 32) : Except DecodeError Instr :=
  if w.extractLsb' 0 8 = 0x0#8 then finish w 0x03F03F00#32 0x00000000#32 (.tlbi (w.extractLsb' 14 6)) else
  if w.extractLsb' 0 8 = 0x1#8 then finish w 0x03FFFF00#32 0x00000000#32 (.tlbia) else
  if w.extractLsb' 0 8 = 0x2#8 then finish w 0x03F03F00#32 0x00000000#32 (.tlbip (w.extractLsb' 14 6)) else
  if w.extractLsb' 0 8 = 0x3#8 then finish w 0x03F00000#32 0x00000000#32 (.tlbis (w.extractLsb' 14 6) (w.extractLsb' 8 6)) else
  .error .unassignedFunction

/-- Major 0x3C (04 R78 to R81). -/
def decodeWait (w : BitVec 32) : Except DecodeError Instr :=
  finish w 0x0000003F#32 0x00000000#32 (.wait (w.extractLsb' 21 5) (w.extractLsb' 16 5) (w.extractLsb' 11 5) (w.extractLsb' 6 5))

/-- Major 0x3D (04 R78 to R81). -/
def decodeDcnt (w : BitVec 32) : Except DecodeError Instr :=
  if w.extractLsb' 0 8 = 0x0#8 then finish w 0x00000000#32 0x00000000#32 (.dcset (w.extractLsb' 20 6) (w.extractLsb' 14 6) (w.extractLsb' 8 6)) else
  if w.extractLsb' 0 8 = 0x1#8 then finish w 0x00000000#32 0x00000000#32 (.dcadd (w.extractLsb' 20 6) (w.extractLsb' 14 6) (w.extractLsb' 8 6)) else
  if w.extractLsb' 0 8 = 0x2#8 then finish w 0x00000000#32 0x00000000#32 (.dcdec (w.extractLsb' 20 6) (w.extractLsb' 14 6) (w.extractLsb' 8 6)) else
  if w.extractLsb' 0 8 = 0x3#8 then finish w 0x00003F00#32 0x00000000#32 (.dcget (w.extractLsb' 20 6) (w.extractLsb' 14 6)) else
  if w.extractLsb' 0 8 = 0x4#8 then finish w 0x00000000#32 0x00000000#32 (.dcbind (w.extractLsb' 20 6) (w.extractLsb' 14 6) (w.extractLsb' 8 6)) else
  .error .unassignedFunction

/-- Major 0x3E (04 R78 to R81). -/
def decodeBar (w : BitVec 32) : Except DecodeError Instr :=
  if w.extractLsb' 0 8 = 0x0#8 then finish w 0x00003F00#32 0x00000000#32 (.bar (w.extractLsb' 20 6) (w.extractLsb' 14 6)) else
  if w.extractLsb' 0 8 = 0x1#8 then finish w 0x00003F00#32 0x00000000#32 (.barw (w.extractLsb' 20 6) (w.extractLsb' 14 6)) else
  if w.extractLsb' 0 8 = 0x2#8 then finish w 0x00000000#32 0x00000000#32 (.barinit (w.extractLsb' 20 6) (w.extractLsb' 14 6) (w.extractLsb' 8 6)) else
  .error .unassignedFunction

/-- Major 0x3F (04 R78 to R81). -/
def decodeCnt (w : BitVec 32) : Except DecodeError Instr :=
  if w.extractLsb' 0 8 = 0x0#8 then finish w 0x03F00000#32 0x00000000#32 (.pcsel (w.extractLsb' 14 6) (w.extractLsb' 8 6)) else
  if w.extractLsb' 0 8 = 0x1#8 then finish w 0x00003F00#32 0x00000000#32 (.pcrd (w.extractLsb' 20 6) (w.extractLsb' 14 6)) else
  if w.extractLsb' 0 8 = 0x2#8 then finish w 0x000FFF00#32 0x00000000#32 (.time (w.extractLsb' 20 6)) else
  if w.extractLsb' 0 8 = 0x3#8 then finish w 0x00003F00#32 0x00000000#32 (.ecnt (w.extractLsb' 20 6) (w.extractLsb' 14 6)) else
  if w.extractLsb' 0 8 = 0x4#8 then finish w 0x00003F00#32 0x00000000#32 (.ocrd (w.extractLsb' 20 6) (w.extractLsb' 14 6)) else
  .error .unassignedFunction

/-- The decoder: check 2 of 04 R83, then the checks of the major's group. -/
def decode (w : BitVec 32) : Except DecodeError Instr :=
  if w.extractLsb' 26 6 = 0x00#6 then decodeIll w else
  if w.extractLsb' 26 6 = 0x01#6 then decodeAlu w else
  if w.extractLsb' 26 6 = 0x02#6 then decodeMulDiv w else
  if w.extractLsb' 26 6 = 0x03#6 then decodeBits w else
  if w.extractLsb' 26 6 = 0x04#6 then decodeCmp w else
  if w.extractLsb' 26 6 = 0x05#6 then decodeAddi w else
  if w.extractLsb' 26 6 = 0x06#6 then decodeAndi w else
  if w.extractLsb' 26 6 = 0x07#6 then decodeOri w else
  if w.extractLsb' 26 6 = 0x08#6 then decodeXori w else
  if w.extractLsb' 26 6 = 0x09#6 then decodeShi w else
  if w.extractLsb' 26 6 = 0x0A#6 then decodeLi w else
  if w.extractLsb' 26 6 = 0x0B#6 then decodeLis w else
  if w.extractLsb' 26 6 = 0x0C#6 then decodeCmpi w else
  if w.extractLsb' 26 6 = 0x0D#6 then decodeLea w else
  if w.extractLsb' 26 6 = 0x10#6 then decodeFp w else
  if w.extractLsb' 26 6 = 0x11#6 then decodeFfma w else
  if w.extractLsb' 26 6 = 0x12#6 then decodeFcmp w else
  if w.extractLsb' 26 6 = 0x13#6 then decodeFcvt w else
  if w.extractLsb' 26 6 = 0x18#6 then decodeBr w else
  if w.extractLsb' 26 6 = 0x19#6 then decodeJmp w else
  if w.extractLsb' 26 6 = 0x1A#6 then decodeCall w else
  if w.extractLsb' 26 6 = 0x1B#6 then decodeJr w else
  if w.extractLsb' 26 6 = 0x1C#6 then decodeLoop w else
  if w.extractLsb' 26 6 = 0x1D#6 then decodeCtl w else
  if w.extractLsb' 26 6 = 0x1E#6 then decodeSys w else
  if w.extractLsb' 26 6 = 0x1F#6 then decodeMfsMts w else
  if w.extractLsb' 26 6 = 0x20#6 then decodeLd w else
  if w.extractLsb' 26 6 = 0x21#6 then decodeSt w else
  if w.extractLsb' 26 6 = 0x22#6 then decodeLdw w else
  if w.extractLsb' 26 6 = 0x23#6 then decodeStw w else
  if w.extractLsb' 26 6 = 0x24#6 then decodeLdro w else
  if w.extractLsb' 26 6 = 0x25#6 then decodeAtom64 w else
  if w.extractLsb' 26 6 = 0x26#6 then decodeAcas w else
  if w.extractLsb' 26 6 = 0x27#6 then decodeAord w else
  if w.extractLsb' 26 6 = 0x28#6 then decodeFence w else
  if w.extractLsb' 26 6 = 0x29#6 then decodeCache w else
  if w.extractLsb' 26 6 = 0x2A#6 then decodeSyncw w else
  if w.extractLsb' 26 6 = 0x2B#6 then decodeXcopy w else
  if w.extractLsb' 26 6 = 0x2C#6 then decodeXchn w else
  if w.extractLsb' 26 6 = 0x2D#6 then decodeXctl w else
  if w.extractLsb' 26 6 = 0x2E#6 then decodeXform w else
  if w.extractLsb' 26 6 = 0x2F#6 then decodeAtom32 w else
  if w.extractLsb' 26 6 = 0x30#6 then decodeSend w else
  if w.extractLsb' 26 6 = 0x31#6 then decodeRecv w else
  if w.extractLsb' 26 6 = 0x32#6 then decodeCfgGroup w else
  if w.extractLsb' 26 6 = 0x33#6 then decodeGraph w else
  if w.extractLsb' 26 6 = 0x34#6 then decodeMx w else
  if w.extractLsb' 26 6 = 0x38#6 then decodeHtab w else
  if w.extractLsb' 26 6 = 0x39#6 then decodeLaunch w else
  if w.extractLsb' 26 6 = 0x3A#6 then decodeTrn w else
  if w.extractLsb' 26 6 = 0x3B#6 then decodeTlb w else
  if w.extractLsb' 26 6 = 0x3C#6 then decodeWait w else
  if w.extractLsb' 26 6 = 0x3D#6 then decodeDcnt w else
  if w.extractLsb' 26 6 = 0x3E#6 then decodeBar w else
  if w.extractLsb' 26 6 = 0x3F#6 then decodeCnt w else
  .error .reservedMajor

/-- The word of an encoded instruction, written from the formats of 04 R75 and the codes of R78 to R81; none for an event. -/
def encode : Instr → Option (BitVec 32)
  | .ill x => some (0x0#6 ++ x)
  | .add d a b => some (0x1#6 ++ d ++ a ++ b ++ 0x0#8)
  | .sub d a b => some (0x1#6 ++ d ++ a ++ b ++ 0x1#8)
  | .and d a b => some (0x1#6 ++ d ++ a ++ b ++ 0x2#8)
  | .or d a b => some (0x1#6 ++ d ++ a ++ b ++ 0x3#8)
  | .xor d a b => some (0x1#6 ++ d ++ a ++ b ++ 0x4#8)
  | .andn d a b => some (0x1#6 ++ d ++ a ++ b ++ 0x5#8)
  | .orn d a b => some (0x1#6 ++ d ++ a ++ b ++ 0x6#8)
  | .shl d a b => some (0x1#6 ++ d ++ a ++ b ++ 0x7#8)
  | .shr d a b => some (0x1#6 ++ d ++ a ++ b ++ 0x8#8)
  | .sha d a b => some (0x1#6 ++ d ++ a ++ b ++ 0x9#8)
  | .rol d a b => some (0x1#6 ++ d ++ a ++ b ++ 0xA#8)
  | .min d a b => some (0x1#6 ++ d ++ a ++ b ++ 0xB#8)
  | .max d a b => some (0x1#6 ++ d ++ a ++ b ++ 0xC#8)
  | .minn d a b => some (0x1#6 ++ d ++ a ++ b ++ 0xD#8)
  | .maxn d a b => some (0x1#6 ++ d ++ a ++ b ++ 0xE#8)
  | .adds d a b => some (0x1#6 ++ d ++ a ++ b ++ 0xF#8)
  | .subs d a b => some (0x1#6 ++ d ++ a ++ b ++ 0x10#8)
  | .add32 d a b => some (0x1#6 ++ d ++ a ++ b ++ 0x11#8)
  | .sub32 d a b => some (0x1#6 ++ d ++ a ++ b ++ 0x12#8)
  | .sel d a b c => some (0x1#6 ++ d ++ a ++ b ++ 0x3#5 ++ c)
  | .mul d a b => some (0x2#6 ++ d ++ a ++ b ++ 0x0#8)
  | .mulh d a b => some (0x2#6 ++ d ++ a ++ b ++ 0x1#8)
  | .mulhn d a b => some (0x2#6 ++ d ++ a ++ b ++ 0x2#8)
  | .div d a b => some (0x2#6 ++ d ++ a ++ b ++ 0x3#8)
  | .divn d a b => some (0x2#6 ++ d ++ a ++ b ++ 0x4#8)
  | .rem d a b => some (0x2#6 ++ d ++ a ++ b ++ 0x5#8)
  | .remn d a b => some (0x2#6 ++ d ++ a ++ b ++ 0x6#8)
  | .mul32 d a b => some (0x2#6 ++ d ++ a ++ b ++ 0x7#8)
  | .clz d a => some (0x3#6 ++ d ++ a ++ 0x0#6 ++ 0x0#8)
  | .ctz d a => some (0x3#6 ++ d ++ a ++ 0x0#6 ++ 0x1#8)
  | .popc d a => some (0x3#6 ++ d ++ a ++ 0x0#6 ++ 0x2#8)
  | .brev d a => some (0x3#6 ++ d ++ a ++ 0x0#6 ++ 0x3#8)
  | .bswap d a => some (0x3#6 ++ d ++ a ++ 0x0#6 ++ 0x4#8)
  | .abs d a => some (0x3#6 ++ d ++ a ++ 0x0#6 ++ 0x5#8)
  | .neg d a => some (0x3#6 ++ d ++ a ++ 0x0#6 ++ 0x6#8)
  | .ext d a b => some (0x3#6 ++ d ++ a ++ b ++ 0x7#8)
  | .extn d a b => some (0x3#6 ++ d ++ a ++ b ++ 0x8#8)
  | .ins d a b => some (0x3#6 ++ d ++ a ++ b ++ 0x9#8)
  | .csum d a => some (0x3#6 ++ d ++ a ++ 0x0#6 ++ 0xA#8)
  | .ceq c a b => some (0x4#6 ++ c ++ 0x0#3 ++ a ++ b ++ 0x0#8)
  | .cne c a b => some (0x4#6 ++ c ++ 0x0#3 ++ a ++ b ++ 0x1#8)
  | .clt c a b => some (0x4#6 ++ c ++ 0x0#3 ++ a ++ b ++ 0x2#8)
  | .cle c a b => some (0x4#6 ++ c ++ 0x0#3 ++ a ++ b ++ 0x3#8)
  | .cltn c a b => some (0x4#6 ++ c ++ 0x0#3 ++ a ++ b ++ 0x4#8)
  | .clen c a b => some (0x4#6 ++ c ++ 0x0#3 ++ a ++ b ++ 0x5#8)
  | .ctst c a b => some (0x4#6 ++ c ++ 0x0#3 ++ a ++ b ++ 0x6#8)
  | .cand c a b => some (0x4#6 ++ c ++ 0x0#3 ++ 0x0#3 ++ a ++ 0x0#3 ++ b ++ 0x8#8)
  | .cor c a b => some (0x4#6 ++ c ++ 0x0#3 ++ 0x0#3 ++ a ++ 0x0#3 ++ b ++ 0x9#8)
  | .cxor c a b => some (0x4#6 ++ c ++ 0x0#3 ++ 0x0#3 ++ a ++ 0x0#3 ++ b ++ 0xA#8)
  | .cnot c a => some (0x4#6 ++ c ++ 0x0#3 ++ 0x0#3 ++ a ++ 0x0#6 ++ 0xB#8)
  | .addi d a i => some (0x5#6 ++ d ++ a ++ i)
  | .andi d a i => some (0x6#6 ++ d ++ a ++ i)
  | .ori d a i => some (0x7#6 ++ d ++ a ++ i)
  | .xori d a i => some (0x8#6 ++ d ++ a ++ i)
  | .shli d a n => some (0x9#6 ++ d ++ a ++ 0x0#6 ++ 0x0#2 ++ n)
  | .shri d a n => some (0x9#6 ++ d ++ a ++ 0x10#6 ++ 0x0#2 ++ n)
  | .shai d a n => some (0x9#6 ++ d ++ a ++ 0x20#6 ++ 0x0#2 ++ n)
  | .roli d a n => some (0x9#6 ++ d ++ a ++ 0x30#6 ++ 0x0#2 ++ n)
  | .li d i => some (0xA#6 ++ d ++ i)
  | .lis d i => some (0xB#6 ++ d ++ i)
  | .cmpi c n a i => some (0xC#6 ++ c ++ n ++ a ++ i)
  | .lea d i => some (0xD#6 ++ d ++ i)
  | .fadd d a b f => some (0x10#6 ++ d ++ a ++ b ++ 0x0#6 ++ f)
  | .fsub d a b f => some (0x10#6 ++ d ++ a ++ b ++ 0x2#6 ++ f)
  | .fmul d a b f => some (0x10#6 ++ d ++ a ++ b ++ 0x4#6 ++ f)
  | .fdiv d a b f => some (0x10#6 ++ d ++ a ++ b ++ 0x6#6 ++ f)
  | .fsqrt d a f => some (0x10#6 ++ d ++ a ++ 0x0#6 ++ 0x8#6 ++ f)
  | .fmin d a b f => some (0x10#6 ++ d ++ a ++ b ++ 0xA#6 ++ f)
  | .fmax d a b f => some (0x10#6 ++ d ++ a ++ b ++ 0xC#6 ++ f)
  | .fabs d a f => some (0x10#6 ++ d ++ a ++ 0x0#6 ++ 0xE#6 ++ f)
  | .fneg d a f => some (0x10#6 ++ d ++ a ++ 0x0#6 ++ 0x10#6 ++ f)
  | .fclass d a f => some (0x10#6 ++ d ++ a ++ 0x0#6 ++ 0x12#6 ++ f)
  | .ffma d a b c f => some (0x11#6 ++ d ++ a ++ b ++ c ++ f)
  | .fceq c a b f => some (0x12#6 ++ c ++ 0x0#3 ++ a ++ b ++ 0x0#6 ++ f)
  | .fclt c a b f => some (0x12#6 ++ c ++ 0x0#3 ++ a ++ b ++ 0x2#6 ++ f)
  | .fcle c a b f => some (0x12#6 ++ c ++ 0x0#3 ++ a ++ b ++ 0x4#6 ++ f)
  | .fcun c a b f => some (0x12#6 ++ c ++ 0x0#3 ++ a ++ b ++ 0x6#6 ++ f)
  | .fcvt d a t s f r => some (0x13#6 ++ d ++ a ++ t ++ s ++ 0x0#2 ++ 0x0#3 ++ f ++ r)
  | .ftoi d a t f r => some (0x13#6 ++ d ++ a ++ t ++ 0x0#3 ++ 0x1#3 ++ f ++ r)
  | .itof d a t s f r => some (0x13#6 ++ d ++ a ++ t ++ s ++ 0x0#2 ++ 0x2#3 ++ f ++ r)
  | .br c s i => some (0x18#6 ++ c ++ s ++ i)
  | .jmp i => some (0x19#6 ++ i)
  | .call i => some (0x1A#6 ++ i)
  | .jr a => some (0x1B#6 ++ 0x0#6 ++ a ++ 0x0#6 ++ 0x0#8)
  | .callr a => some (0x1B#6 ++ 0x0#6 ++ a ++ 0x0#6 ++ 0x1#8)
  | .loop a i => some (0x1C#6 ++ 0x0#6 ++ a ++ i)
  | .nop => some (0x1D#6 ++ 0x0#6 ++ 0x0#6 ++ 0x0#6 ++ 0x0#8)
  | .endH => some (0x1D#6 ++ 0x0#6 ++ 0x0#6 ++ 0x0#6 ++ 0x1#8)
  | .yield => some (0x1D#6 ++ 0x0#6 ++ 0x0#6 ++ 0x0#6 ++ 0x2#8)
  | .idle => some (0x1D#6 ++ 0x0#6 ++ 0x0#6 ++ 0x0#6 ++ 0x3#8)
  | .trap a => some (0x1E#6 ++ 0x0#6 ++ a ++ 0x0#6 ++ 0x0#8)
  | .hcall a => some (0x1E#6 ++ 0x0#6 ++ a ++ 0x0#6 ++ 0x1#8)
  | .eret => some (0x1E#6 ++ 0x0#6 ++ 0x0#6 ++ 0x0#6 ++ 0x2#8)
  | .brk => some (0x1E#6 ++ 0x0#6 ++ 0x0#6 ++ 0x0#6 ++ 0x3#8)
  | .ctxsw d a => some (0x1E#6 ++ d ++ a ++ 0x0#6 ++ 0x10#8)
  | .ctxpark d a => some (0x1E#6 ++ d ++ a ++ 0x0#6 ++ 0x11#8)
  | .ctxload d a b => some (0x1E#6 ++ d ++ a ++ b ++ 0x12#8)
  | .mfs d s => some (0x1F#6 ++ d ++ 0x0#6 ++ 0x0#2 ++ s)
  | .mts a s => some (0x1F#6 ++ 0x0#6 ++ a ++ 0x2#2 ++ s)
  | .ld d a w i => some (0x20#6 ++ d ++ a ++ 0x0#4 ++ w ++ i)
  | .st d a w i => some (0x21#6 ++ d ++ a ++ 0x0#4 ++ w ++ 0x0#1 ++ i)
  | .ldw d a w i => some (0x22#6 ++ d ++ a ++ 0x0#4 ++ w ++ i)
  | .stw d a w i => some (0x23#6 ++ d ++ a ++ 0x0#4 ++ w ++ 0x0#1 ++ i)
  | .ldro d a w i => some (0x24#6 ++ d ++ a ++ 0x0#4 ++ w ++ i)
  | .aad d a b o s => some (0x25#6 ++ d ++ a ++ b ++ 0x0#4 ++ o ++ s)
  | .aand d a b o s => some (0x25#6 ++ d ++ a ++ b ++ 0x1#4 ++ o ++ s)
  | .aor d a b o s => some (0x25#6 ++ d ++ a ++ b ++ 0x2#4 ++ o ++ s)
  | .axor d a b o s => some (0x25#6 ++ d ++ a ++ b ++ 0x3#4 ++ o ++ s)
  | .amin d a b o s => some (0x25#6 ++ d ++ a ++ b ++ 0x4#4 ++ o ++ s)
  | .amax d a b o s => some (0x25#6 ++ d ++ a ++ b ++ 0x5#4 ++ o ++ s)
  | .aminn d a b o s => some (0x25#6 ++ d ++ a ++ b ++ 0x6#4 ++ o ++ s)
  | .amaxn d a b o s => some (0x25#6 ++ d ++ a ++ b ++ 0x7#4 ++ o ++ s)
  | .aswp d a b o s => some (0x25#6 ++ d ++ a ++ b ++ 0x8#4 ++ o ++ s)
  | .afaddF32 d a b o s => some (0x25#6 ++ d ++ a ++ b ++ 0x9#4 ++ o ++ s)
  | .afaddF64 d a b o s => some (0x25#6 ++ d ++ a ++ b ++ 0xA#4 ++ o ++ s)
  | .afaddBf16 d a b o s => some (0x25#6 ++ d ++ a ++ b ++ 0xB#4 ++ o ++ s)
  | .acas d a b w o s => some (0x26#6 ++ d ++ a ++ b ++ 0x0#3 ++ w ++ o ++ s)
  | .ald d a o s => some (0x27#6 ++ d ++ a ++ 0x0#6 ++ 0x0#4 ++ o ++ s)
  | .ast a b o s => some (0x27#6 ++ 0x0#6 ++ a ++ b ++ 0x1#4 ++ o ++ s)
  | .ald32 d a o s => some (0x27#6 ++ d ++ a ++ 0x0#6 ++ 0x2#4 ++ o ++ s)
  | .ast32 a b o s => some (0x27#6 ++ 0x0#6 ++ a ++ b ++ 0x3#4 ++ o ++ s)
  | .fence k s => some (0x28#6 ++ 0x0#6 ++ 0x0#6 ++ 0x0#6 ++ k ++ s)
  | .cflush a => some (0x29#6 ++ 0x0#6 ++ a ++ 0x0#6 ++ 0x0#8)
  | .cinv a => some (0x29#6 ++ 0x0#6 ++ a ++ 0x0#6 ++ 0x1#8)
  | .czero a => some (0x29#6 ++ 0x0#6 ++ a ++ 0x0#6 ++ 0x2#8)
  | .pref a => some (0x29#6 ++ 0x0#6 ++ a ++ 0x0#6 ++ 0x3#8)
  | .swset a b => some (0x2A#6 ++ 0x0#6 ++ a ++ b ++ 0x0#8)
  | .swadd a b => some (0x2A#6 ++ 0x0#6 ++ a ++ b ++ 0x1#8)
  | .swwait d a b => some (0x2A#6 ++ d ++ a ++ b ++ 0x2#8)
  | .swget d a => some (0x2A#6 ++ d ++ a ++ 0x0#6 ++ 0x3#8)
  | .xcopy a b c f e t s => some (0x2B#6 ++ a ++ b ++ c ++ f ++ 0x0#3 ++ e ++ t ++ s)
  | .xchn a f e => some (0x2C#6 ++ a ++ 0x0#6 ++ 0x0#6 ++ f ++ 0x0#3 ++ e ++ 0x0#2)
  | .xstat d a => some (0x2D#6 ++ d ++ a ++ 0x0#6 ++ 0x0#8)
  | .xcancel d a => some (0x2D#6 ++ d ++ a ++ 0x0#6 ++ 0x1#8)
  | .xform a f => some (0x2E#6 ++ a ++ 0x0#6 ++ 0x0#6 ++ f ++ 0x0#7)
  | .aad32 d a b o s => some (0x2F#6 ++ d ++ a ++ b ++ 0x0#4 ++ o ++ s)
  | .aand32 d a b o s => some (0x2F#6 ++ d ++ a ++ b ++ 0x1#4 ++ o ++ s)
  | .aor32 d a b o s => some (0x2F#6 ++ d ++ a ++ b ++ 0x2#4 ++ o ++ s)
  | .axor32 d a b o s => some (0x2F#6 ++ d ++ a ++ b ++ 0x3#4 ++ o ++ s)
  | .amin32 d a b o s => some (0x2F#6 ++ d ++ a ++ b ++ 0x4#4 ++ o ++ s)
  | .amax32 d a b o s => some (0x2F#6 ++ d ++ a ++ b ++ 0x5#4 ++ o ++ s)
  | .aminn32 d a b o s => some (0x2F#6 ++ d ++ a ++ b ++ 0x6#4 ++ o ++ s)
  | .amaxn32 d a b o s => some (0x2F#6 ++ d ++ a ++ b ++ 0x7#4 ++ o ++ s)
  | .aswp32 d a b o s => some (0x2F#6 ++ d ++ a ++ b ++ 0x8#4 ++ o ++ s)
  | .afaddF3232 d a b o s => some (0x2F#6 ++ d ++ a ++ b ++ 0x9#4 ++ o ++ s)
  | .afaddBf1632 d a b o s => some (0x2F#6 ++ d ++ a ++ b ++ 0xB#4 ++ o ++ s)
  | .send a b => some (0x30#6 ++ 0x0#6 ++ a ++ b ++ 0x0#8)
  | .recv d a => some (0x31#6 ++ d ++ a ++ 0x0#6 ++ 0x0#8)
  | .peek d a => some (0x31#6 ++ d ++ a ++ 0x0#6 ++ 0x1#8)
  | .recvk d a b => some (0x31#6 ++ d ++ a ++ b ++ 0x2#8)
  | .cfg a b => some (0x32#6 ++ 0x0#6 ++ a ++ b ++ 0x0#8)
  | .cfgw a b => some (0x32#6 ++ 0x0#6 ++ a ++ b ++ 0x1#8)
  | .go d a b => some (0x33#6 ++ d ++ a ++ b ++ 0x0#8)
  | .drain d a => some (0x33#6 ++ d ++ a ++ 0x0#6 ++ 0x1#8)
  | .abort d a => some (0x33#6 ++ d ++ a ++ 0x0#6 ++ 0x2#8)
  | .replay d a => some (0x33#6 ++ d ++ a ++ 0x0#6 ++ 0x3#8)
  | .gstat d a => some (0x33#6 ++ d ++ a ++ 0x0#6 ++ 0x4#8)
  | .mxcfg a w => some (0x34#6 ++ a ++ 0x0#6 ++ 0x0#6 ++ 0x0#7 ++ w)
  | .mxlw a b p => some (0x34#6 ++ a ++ b ++ 0x0#6 ++ 0x8#6 ++ p)
  | .mxswp => some (0x34#6 ++ 0x0#6 ++ 0x0#6 ++ 0x0#6 ++ 0x40#8)
  | .mxrun a b c i => some (0x34#6 ++ a ++ b ++ c ++ 0x30#7 ++ i)
  | .mxrung a b c i => some (0x34#6 ++ a ++ b ++ c ++ 0x40#7 ++ i)
  | .mxacc a b t k => some (0x34#6 ++ a ++ b ++ 0x0#6 ++ 0x28#6 ++ t ++ k)
  | .mxsort a b c t => some (0x34#6 ++ a ++ b ++ c ++ 0x60#7 ++ t)
  | .mxzero b w => some (0x34#6 ++ 0x0#6 ++ b ++ 0x0#6 ++ 0xE#4 ++ w)
  | .hset a b => some (0x38#6 ++ 0x0#6 ++ a ++ b ++ 0x0#8)
  | .hget d a => some (0x38#6 ++ d ++ a ++ 0x0#6 ++ 0x1#8)
  | .hmask a => some (0x38#6 ++ 0x0#6 ++ a ++ 0x0#6 ++ 0x2#8)
  | .hunmask a => some (0x38#6 ++ 0x0#6 ++ a ++ 0x0#6 ++ 0x3#8)
  | .hrun a b => some (0x38#6 ++ 0x0#6 ++ a ++ b ++ 0x4#8)
  | .launch d a b => some (0x39#6 ++ d ++ a ++ b ++ 0x0#8)
  | .trn d a => some (0x3A#6 ++ d ++ a ++ 0x0#6 ++ 0x0#8)
  | .trne d => some (0x3A#6 ++ d ++ 0x0#6 ++ 0x0#6 ++ 0x1#8)
  | .slack d a => some (0x3A#6 ++ d ++ a ++ 0x0#6 ++ 0x2#8)
  | .tlbi a => some (0x3B#6 ++ 0x0#6 ++ a ++ 0x0#6 ++ 0x0#8)
  | .tlbia => some (0x3B#6 ++ 0x0#6 ++ 0x0#6 ++ 0x0#6 ++ 0x1#8)
  | .tlbip a => some (0x3B#6 ++ 0x0#6 ++ a ++ 0x0#6 ++ 0x2#8)
  | .tlbis a b => some (0x3B#6 ++ 0x0#6 ++ a ++ b ++ 0x3#8)
  | .wait l s c t => some (0x3C#6 ++ l ++ s ++ c ++ t ++ 0x0#6)
  | .dcset d a b => some (0x3D#6 ++ d ++ a ++ b ++ 0x0#8)
  | .dcadd d a b => some (0x3D#6 ++ d ++ a ++ b ++ 0x1#8)
  | .dcdec d a b => some (0x3D#6 ++ d ++ a ++ b ++ 0x2#8)
  | .dcget d a => some (0x3D#6 ++ d ++ a ++ 0x0#6 ++ 0x3#8)
  | .dcbind d a b => some (0x3D#6 ++ d ++ a ++ b ++ 0x4#8)
  | .bar d a => some (0x3E#6 ++ d ++ a ++ 0x0#6 ++ 0x0#8)
  | .barw d a => some (0x3E#6 ++ d ++ a ++ 0x0#6 ++ 0x1#8)
  | .barinit d a b => some (0x3E#6 ++ d ++ a ++ b ++ 0x2#8)
  | .pcsel a b => some (0x3F#6 ++ 0x0#6 ++ a ++ b ++ 0x0#8)
  | .pcrd d a => some (0x3F#6 ++ d ++ a ++ 0x0#6 ++ 0x1#8)
  | .time d => some (0x3F#6 ++ d ++ 0x0#6 ++ 0x0#6 ++ 0x2#8)
  | .ecnt d a => some (0x3F#6 ++ d ++ a ++ 0x0#6 ++ 0x3#8)
  | .ocrd d a => some (0x3F#6 ++ d ++ a ++ 0x0#6 ++ 0x4#8)
  | .kstateWrite _ => none
  | .kinjWrite _ => none
  | .kspillWrite _ => none
  | .kspillendWrite _ => none
  | .mpartContain _ => none
  | .containmentComplete _ => none
  | .mcalSlotWrite _ => none
  | .mcalSlotRead _ => none
  | .mcalDescriptorWrite _ => none
  | .mcalDescriptorRead _ => none
  | .mcalSaveAreaWrite _ => none
  | .mcalSaveAreaRead _ => none
  | .mcalCalendarStart _ => none
  | .mcalCalendarStop _ => none
  | .mcalRunRead _ => none
  | .mcalLinkSlotWrite _ => none
  | .mcalLinkSlotRead _ => none
  | .mcalLinkChannelWrite _ => none
  | .mcalLinkChannelRead _ => none
  | .mcalBridgeSlotWrite _ => none
  | .mcalBridgeSlotRead _ => none
  | .mcalBridgeChannelWrite _ => none
  | .mcalBridgeChannelRead _ => none
  | .mquotaWayMaskWrite _ => none
  | .mquotaWayMaskRead _ => none
  | .mquotaDramSlotWrite _ => none
  | .mquotaDramSlotRead _ => none
  | .mquotaShareWrite _ => none
  | .mquotaShareRead _ => none
  | .mquotaCoreListWrite _ => none
  | .mquotaCoreListRead _ => none
  | .channelWordArrival _ => none
  | .launchValidation _ => none
  | .launchDispatch _ => none
  | .vfLaunchWrite _ _ => none
  | .handlerSelection => none
  | .asyncCauseDelivery => none
  | .loadCompletion _ => none
  | .atomicPerform _ => none
  | .tableWalkComplete _ _ => none
  | .pagePullComplete _ _ => none
  | .calendarSlotBoundary _ => none
  | .contextLoadStart _ => none
  | .tokenBoundarySwap _ => none
  | .contextLoadComplete _ _ => none
  | .contextParkComplete _ _ => none
  | .receptionLogReplay => none
  | .spineSwitchComplete _ => none
  | .epochEnd => none
  | .patrolScrub _ _ => none
  | .perfCounterWrap _ => none
  | .cellPass _ => none
  | .cellConst _ => none
  | .cellSel _ => none
  | .cellCmpx _ => none
  | .cellFadd _ => none
  | .cellFsub _ => none
  | .cellFmul _ => none
  | .cellFma _ => none
  | .cellFms _ => none
  | .cellFmin _ => none
  | .cellFmax _ => none
  | .cellFabs _ => none
  | .cellFneg _ => none
  | .cellFdiv _ => none
  | .cellFsqrt _ => none
  | .cellFcmp _ => none
  | .cellFcvt _ => none
  | .cellIadd _ => none
  | .cellIsub _ => none
  | .cellImul _ => none
  | .cellImac _ => none
  | .cellIand _ => none
  | .cellIor _ => none
  | .cellIxor _ => none
  | .cellIshl _ => none
  | .cellIshr _ => none
  | .cellIsha _ => none
  | .cellImin _ => none
  | .cellImax _ => none
  | .cellIcmp _ => none
  | .cellUnp3 _ => none
  | .cellTacc _ => none
  | .cellRed _ => none
  | .cellCsum _ => none
  | .cellMld _ => none
  | .cellMst _ => none
  | .cellMatom _ => none
  | .memoryNodeResult _ => none
  | .storeAcknowledge _ => none
  | .cellOrd _ => none
  | .cellWtap _ => none
  | .cellLqw _ => none
  | .route _ => none
  | .steer _ => none
  | .merge _ => none
  | .carry _ => none
  | .scan _ => none
  | .isect _ => none
  | .union _ => none
  | .repeatF _ => none
  | .lookup _ => none
  | .fred _ => none
  | .fwrite _ => none
  | .streamRead _ _ => none
  | .streamWrite _ _ => none
  | .streamGather _ _ => none
  | .controlTokenForward _ => none
  | .meshTokenForward _ => none
  | .creditReturn _ => none
  | .tokenArrivalAtPort _ => none
  | .spillRefill => none
  | .graphCompletion _ => none
  | .engineDecrement _ => none
  | .copyChainStart _ => none
  | .copyRecordRead _ => none
  | .copyElementCommit _ => none
  | .transformRequestStart => none
  | .transformChunkComplete _ => none
  | .mxCommandStart => none
  | .arrayRowAdvance => none
  | .matrixRowCommit => none
  | .mxCommandComplete => none
  | .linkRetry _ _ _ => none
  | .hostBar2Read _ _ _ => none
  | .hostBar2Write _ _ _ _ => none
  | .pfBar2Access _ _ _ => none
  | .functionLevelReset _ => none
  | .bootcmdColdStart => none
  | .bootcmdWarmStart => none
  | .powerSequencing _ => none
  | .clockLock _ => none
  | .selfTest _ _ => none
  | .dramTraining _ _ => none
  | .imageCheck => none
  | .monitorStart => none
  | .preEmptionNotice _ => none
  | .monitorRequestedHalt => none

/-- The little-endian bytes of a 32-bit word, lowest address first (04 R74). -/
def wordBytes (w : BitVec 32) : List Byte :=
  [w.extractLsb' 0 8, w.extractLsb' 8 8, w.extractLsb' 16 8, w.extractLsb' 24 8]

/-- The decoder on bytes: the first four are one handler word (04 R74); the rest is handed back. -/
def decodeBytes : List Byte → Except DecodeError (Instr × List Byte)
  | b0 :: b1 :: b2 :: b3 :: rest => (decode (b3 ++ b2 ++ b1 ++ b0)).map (·, rest)
  | _ => .error .truncated

/-- What the decoder reads from an instruction numbered as the opcode table numbers its bits: bit 0 is the least
significant bit of the one 32-bit word, whose bytes stand in memory little-endian. -/
def decodeTableWord (nbits w : Nat) : Option Instr :=
  match decodeBytes (wordBytes (BitVec.ofNat 32 (w % 2 ^ nbits))) with
  | .ok (i, _) => some i
  | .error _ => none

end Sys2Proof
end

