-- ==== Sys2Proof/Machine/State.lean ====
section
/-! DEFINITION. The state of the module as plain data: everything the inventories of 05, 07, 08, 09, 11 to 16 name.
The whole module is held, with one context in focus (`me`) and the rest in `others`. A table that the spec keeps by
number is a sorted list of (number, entry) pairs in which no entry equals the value an unlisted number reads as. -/

namespace Sys2Proof.Machine

/-- A sparse table by number: sorted by number, without repeats and without entries equal to the default. -/
abbrev Tab (α : Type) := List (Nat × α)

/-- Which context: the core it stands on, the 7-bit owner code of its partition (0x40 the monitor) and its KCTX. -/
structure CtxId where
  core : CoreId := 0
  part : BitVec 7 := 0
  kctx : BitVec 16 := 0
  deriving DecidableEq, Repr, Inhabited

/-! ## Handlers (05 R97 to R108, 13 R305) -/

/-- KSTATE[6:0] without SET (05 R101). -/
structure Kst where
  priv : BitVec 2 := 1
  ie : Bool := false
  ppriv : BitVec 2 := 0
  pie : Bool := false
  deriving DecidableEq, Repr, Inhabited

/-- The registers of one handler: g1 to g63, c1 to c7, PC and KSTATE[6:0] (05 R97, R98). Index 0 of g and c is never
read: g0 and c0 are constants. -/
structure Hregs where
  g : Vector Word 64
  c : Vector Bool 8
  pc : Word
  ks : Kst
  deriving DecidableEq, Repr, Inhabited

/-- The four states of a handler entry (01 R14). -/
inductive Hst where
  | idle | runnable | running | blocked
  deriving DecidableEq, Repr, Inhabited

/-- A cause word with its argument (05 R108): kind, index and g4. -/
structure Cause where
  kind : BitVec 8
  index : BitVec 12
  arg : Word
  deriving DecidableEq, Repr, Inhabited

/-- What a Blocked entry awaits (01 R14). -/
inductive WaitFor where
  | nothing
  | counters (ld st cp tl : BitVec 5)
  | inbox (ch : BitVec 6)
  | barrier (b : BitVec 6) (gen : BitVec 16)
  | sync (addr : BitVec 20) (gen : BitVec 16)
  deriving DecidableEq, Repr, Inhabited

/-- A handler-table entry with its register block (13 R305, R306; 05 R98). `resume` is true when a Runnable entry goes on from
its block (after a block or YIELD) and false when it starts from Idle. `arrived` lists the BARWs of the handler that have arrived and not completed: PC, barrier and generation
(14 R333). The acquire times (latest acquire end that covers core, die, module, domain) serve the race rule of 10 R232. -/
structure Entry where
  image : Word
  st : Hst
  pending : Bool
  cause : Option Cause
  wait : BitVec 12
  why : WaitFor
  resume : Bool
  arrived : List (Word × BitVec 6 × BitVec 16)
  block : Hregs
  acq : List Word
  deriving DecidableEq, Repr, Inhabited

/-- An item of the fault queue (15 R343). -/
structure FaultItem where
  kcause : BitVec 9
  value : Word
  elem : Word
  deriving DecidableEq, Repr, Inhabited

/-- The system registers of a context (05 R100), with the KTT in force since the last TLBIA, a KSPILL write that is held
while the log is not empty (11 R263), and whether the set is stopped by IDLE (06 R132). -/
structure Sregs where
  spine : BitVec 3 := 0
  kcause : Word := 0
  kepc : Word := 0
  keval : Word := 0
  kelem : Word := 0
  kvec : Word := 0
  kfpc : Word := 0
  scr0 : Word := 0
  scr1 : Word := 0
  scr2 : Word := 0
  scr3 : Word := 0
  xsave : Word := 0
  spill : Word := 0
  spillHeld : Option Word := none
  spillEnd : Word := 0
  ktt : Word := 0
  kttEff : Word := 0
  trn : BitVec 7 := 0
  inj : BitVec 13 := 0
  idle : Bool := false
  deriving DecidableEq, Repr, Inhabited

/-! ## Outstanding loads and atomics (14 R325, 10 R238) -/

/-- What an atomic does at the home slice (09 R193 to R195); `fn` is the ATOM code. -/
inductive AtomOp where
  | rmw (fn : BitVec 4) (x : Word)
  | cas (cmp new : Word)
  | load
  | store (x : Word)
  deriving DecidableEq, Repr, Inhabited

/-- An atomic that has issued and not performed: virtual and physical address, size in bytes, order, scope, the issuing
entry, the step of its issue, which decides what its release covers, and, once its handler has ended, the step after that END, whose release
covers it when it performs. -/
structure Atom where
  op : AtomOp
  va : Word
  pa : Nat
  size : Nat
  order : BitVec 2
  scope : BitVec 2
  entry : BitVec 5
  issued : Nat
  ended : Option Nat := none
  deriving DecidableEq, Repr, Inhabited

/-- An outstanding operation of the loads or stores class: a load whose value waits for its register, an atomic not yet
performed, or a performed atomic whose old value waits for its register (`entry` is the handler that owns it). -/
inductive PendOp where
  | value (v : Word)
  | atomic (a : Atom)
  deriving DecidableEq, Repr, Inhabited

structure Pend where
  dst : Reg
  entry : BitVec 5
  op : PendOp
  deriving DecidableEq, Repr, Inhabited

/-- An L1 line of a context set (08 R161, R169 to R172): line number (physical address / 128), read-only mark, bytes with
byte i at bits 8i, dirty mask, the mask of its 64-bit words that hold an uncorrectable error (08 R183), and the virtual address by which the
set last stored to it, which a fault of its write-back names (09 R187). The list is in order of use, most recent first. -/
structure Line where
  num : Nat
  ro : Bool
  data : BitVec 1024
  dirty : BitVec 128
  bad : BitVec 16
  va : Word := 0
  deriving DecidableEq, Repr, Inhabited

/-- Read, write and execute permission (08 R180). -/
structure Perm where
  read : Bool
  write : Bool
  exec : Bool
  deriving DecidableEq, Repr, Inhabited

/-- A TLB entry (08 R181): virtual and physical base, size as log2, the permissions of both stages, whose intersection decides and
which name the stage that refuses, and the program bit; the partition address and the size of its stage-2 page serve TLBIS. -/
structure TlbEntry where
  vbase : Nat
  ipa : Nat
  s2bits : Nat
  pbase : Nat
  bits : Nat
  perm1 : Perm
  perm2 : Perm
  prog : Bool
  deriving DecidableEq, Repr, Inhabited

/-- A performance counter (14 R335): whether its event was allowed at the last PCSEL or PCRD, and whether it has wrapped
since the last PERF_COUNTER_WRAP or PCSEL. -/
structure Perf where
  value : BitVec 48
  sel : BitVec 10
  allowed : Bool
  wrapped : Bool
  deriving DecidableEq, Repr, Inhabited

/-! ## Fabric (04 R86 to R96, 11, 12) -/

/-- A token: kind in [67:64] and payload (04 R96). -/
structure Token where
  kind : BitVec 4
  val : Word
  deriving DecidableEq, Repr, Inhabited

/-- Grammar checker state of one edge (11 R247, R252). `last` is 0 after G, 1 data, 2 stop. -/
structure Check where
  phase : BitVec 2
  fixed : Bool
  kindF : Bool
  last : BitVec 2
  stop : BitVec 3
  highest : BitVec 3
  coord : Option (BitVec 32)
  deriving DecidableEq, Repr, Inhabited

/-- What an element holds between firings (12 R271): the group accumulator (lanes, or the S32 of TACC) and whether a value
stands in it; whether a group is open and whether the input stands directly after G; the ordinal of the next group; the last
class emitted (0 G, 1 data, 2 stop) with its level (11 R251); whether a source's
G is still to come; the router thread state of CARRY (of a SCAN source: its G has gone); FWRITE's counts; the place in an
operation of several firings. -/
structure ElemSt where
  acc : Word
  used : Bool
  isOpen : Bool
  afterG : Bool
  ordinal : BitVec 32
  last : BitVec 2
  level : BitVec 3
  started : Bool
  looping : Bool
  elems : BitVec 32
  fibres : BitVec 32
  phase : Nat
  index : Nat
  deriving DecidableEq, Repr, Inhabited

/-- An access of a memory node in flight (12 R278): which sort, its result when performed, and the token that passes
behind earlier results; `age` is the step in which the node accepted it. -/
structure NodeOp where
  tok : Token
  emits : Bool
  isStore : Bool
  done : Bool
  age : Nat
  deriving DecidableEq, Repr, Inhabited

/-- A window unit (12 R281, R282): for each position of the present (or last) input row its token with the R − 1 tokens
above it; the plane, its complete rows and whether a row is open or the plane has ended; tokens in a row once learnt; stops
held by the row they close, and each X (as level 0) by the row of the stop before it; what is due on the taps, an output position or a token; the last output sent, committed, and
the last input accepted, as (plane, row, column). -/
structure Win where
  cols : List (List Word)
  plane : BitVec 16
  rows : Nat
  rowOpen : Bool
  ended : Bool
  width : Option Nat
  held : List (Nat × BitVec 3)
  out : List (Option (Nat × Nat) × Token)
  sent : Option (BitVec 16 × BitVec 16 × BitVec 16)
  lastOut : Option (BitVec 16 × BitVec 16 × BitVec 16)
  lastIn : Option (BitVec 16 × BitVec 16 × BitVec 16)
  deriving DecidableEq, Repr, Inhabited

/-- An edge-engine stream (09 R202, R203): it is live from GO to its Z; whether its G has gone and its last element been read;
the next element, of the whole stream for a read and of its present run for a write; for a write the run, whether the last
token was a stop, and trits of a T5 byte not yet complete; the commit position; and the elements of each write that is not
yet acknowledged. -/
structure Strm where
  live : Bool
  sentG : Bool
  finished : Bool
  next : Nat
  run : Nat
  atStop : Bool
  trits : List Byte
  commit : BitVec 48
  unacked : List Nat
  deriving DecidableEq, Repr, Inhabited

/-- A graph of the context that issued its GO (12 R295 to R301): region, completion word, privilege, state (1 running,
2 halted, 3 draining), halt cause, element, value, core-list index, check and token kind; `drained` stays true when a draining
graph halts; `reported` is true from the sending of a decrement that reports the completion until its acknowledgement (14 R327). -/
structure Graph where
  first : Nat
  count : Nat
  completion : Word
  priv : BitVec 2
  state : BitVec 2
  cause : BitVec 8
  elem : Word
  value : Word
  haltCore : BitVec 16
  check : BitVec 4
  kind : BitVec 4
  completed : Bool
  drained : Bool
  reported : Bool := false
  deriving DecidableEq, Repr, Inhabited

/-- Which graph an element serves: the core-list index and id at the context that issued GO. -/
structure GRef where
  core : CoreId
  gid : BitVec 4
  deriving DecidableEq, Repr, Inhabited

/-- The fabric side of a context (04 R86, 11 R247, 12 R271). Tables by element use the key element, those by input the
key element × 128 + slot (0 A, 1 B, 2 C; 3 + i the i-th tap of WTAP; 64 the output). `cfg` has the key
element × 64 + field, `ports` the key port × 8 + field (fields 1 to 4), `meters` by edge port (stream 0 to 15, 16 + send port)
the period of 64 network cycles and the tokens emitted in it (17 R393), `turns` by router × 4 + direction the input that a link served
last: 0 north, 1 east, 2 south, 3 west, 4 the cell, 5 the fibre element (11 R260). `spillPorts` names the ports at which logging has halted,
`recLog` the records still in the reception log, each by its port and its place in the area, `recCount` the records since the log was last
empty, `recStuck` the ports it has reported closed (11 R263, R265). `fired` marks the cells that have fired in the present epoch
(17 R393), `cfgAt` holds by element the step in which the configuration of this context reached it (01 R25), and `swizzled` lists the absent
regions of window memory whose swizzle has been rewritten (19 R399). -/
structure Fabric where
  cfg : Tab (BitVec 16)
  portSel : BitVec 6
  ports : Tab (BitVec 16)
  queues : Tab (List Token)
  ctlq : Tab (List Bool)
  checks : Tab Check
  counts : Tab Nat
  elems : Tab ElemSt
  delays : Tab (List Word)
  badpack : Tab (BitVec 32)
  nodes : Tab (List NodeOp)
  unacked : Tab (BitVec 16)
  wins : Tab Win
  strms : Tab Strm
  marks : Tab GRef
  sinksDone : Tab Bool
  graphs : Tab Graph
  portq : Tab (List Token)
  portCount : Tab Nat
  spillLog : List (Nat × Token)
  spillHead : Word
  spillTail : Word
  spillPorts : List Nat
  meters : Tab (Nat × Nat)
  turns : Tab Nat
  recLog : List (Nat × Nat)
  recCount : Nat
  recStuck : List Nat
  fired : Tab Bool
  cfgAt : Tab Nat
  swizzled : List Nat
  deriving DecidableEq, Repr, Inhabited

/-! ## Copy channels, transforms, matrix array (09, 07) -/

/-- The four states of a copy channel (09 R219). -/
inductive ChanSt where
  | idle | running | halted | waiting
  deriving DecidableEq, Repr, Inhabited

/-- A copy channel (09 R186, R211 to R223): state, record address, privilege, whether it runs one record, base
overrides, the age by which `after` orders it, the record as read, committed elements, running sum, the carried sum, and whether the fault of
a write of XCANCEL has been delivered. -/
structure Chan where
  st : ChanSt
  addr : Word
  priv : BitVec 2
  single : Bool
  first : Bool
  src : Option Word
  dst : Option Word
  age : Nat
  words : Option (List Word)
  n : Nat
  sum : BitVec 32
  carry : BitVec 32
  lost : Bool := false
  deriving DecidableEq, Repr, Inhabited

/-- A transform request (09 R224 to R227): its address, flag, privilege and age, its state, its words once read, the chunks wholly
written and those that have finished or failed, the output bytes, the lowest failed chunk with its cause and address, after
a failure the bound below which chunks had started, and whether the fault of a write of XCANCEL has been delivered. -/
structure Xreq where
  addr : Word
  after : Bool
  priv : BitVec 2
  age : Nat
  st : ChanSt
  words : Option (List Word)
  done : BitVec 256
  ended : BitVec 256
  bytes : Nat
  failed : Option (Nat × BitVec 8 × Word)
  limit : Nat
  lost : Bool := false
  deriving DecidableEq, Repr, Inhabited

/-- The eight MX commands that enter the queue (07 R143, R146). -/
inductive MxOp where
  | lw (part : BitVec 2) | swp | run (init : Bool) | rung (init : Bool) | acc (bus clr : Bool) | sort (bus : Bool)
  | zero (what : BitVec 4)
  deriving DecidableEq, Repr, Inhabited

/-- A command with its operands as read at issue; the number of its rows or items that have entered the array, that are done,
and that were gathered as absent; the element flags it has raised; whether it has started; the pairs that MXSORT
has still to emit; and a number of its own, by which its items name it. -/
structure MxCmd where
  op : MxOp
  a : Word
  b : Word
  c : Word
  entered : Nat
  done : Nat
  skipped : Nat
  flags : BitVec 5
  started : Bool
  pairs : List Word
  serial : Nat
  deriving DecidableEq, Repr, Inhabited

/-- The tags of a tile register (07 R141). -/
structure Tag where
  part : BitVec 2
  sb : BitVec 32
  deriving DecidableEq, Repr, Inhabited

/-- An item in the array (07 R144): an A row (its image bytes, the accumulator row it goes to, whether its init is zero)
or an X token; the array row it stands in; for an A row the weights and tags it met, per local row; and the command it belongs to, where it does not
come from a graph. -/
structure MxItem where
  isX : Bool
  row : Nat
  zero : Bool
  image : List Byte
  pos : Nat
  met : Tab Word
  tag : Option Tag
  fromGraph : Bool
  owner : Nat
  deriving DecidableEq, Repr, Inhabited

/-- The held state of an 8-bit block (07 R72, R152): exact sum as numerator over 2^scale, and the case markers. -/
structure Held where
  num : Int
  nan : Bool
  posInf : Bool
  negInf : Bool
  deriving DecidableEq, Repr, Inhabited

/-- The matrix array state of a context (05 R99, 07 R141): tiles by local row × 16 + column, tags by local row, the
accumulator bank by row × 16 + column, held state by the same key. `cause` is that of the halt of the queue. -/
structure Mx where
  active : Tab Word
  loading : Tab Word
  activeTag : Tab Tag
  loadingTag : Tab Tag
  bank : Tab (BitVec 32)
  held : Tab Held
  queue : List MxCmd
  items : List MxItem
  halted : Bool
  cause : BitVec 8
  graphRow : Nat
  graphToks : List Word
  deriving DecidableEq, Repr, Inhabited

/-! ## A context -/

/-- A channel word that waits behind a full inbox (01 R13): its channel, the word, the slot and launch id of a launch word, which marks its entry when
it enters the inbox (13 R313), and whether it has entered an inbox and marked before, in another record of its context. -/
structure HeldWord where
  ch : BitVec 6
  val : Word
  launch : Option (BitVec 5 × BitVec 8)
  quiet : Bool := false
  deriving DecidableEq, Repr, Inhabited

/-- A context with everything its context set holds (05 R97 to R100, 13 R305, 11 R247). `held` lists the channel words
that wait behind a full inbox, oldest first. `stalled` is true when the word at the PC has issued and waits, `first` the step in
which the word last issued did so for the first time, and `pinWait` the slice whose pinning limit it waits on (10 R236).
`lateBad` lists the lines, with their virtual addresses, whose write-back without an instruction found an uncorrectable word: each faults
at the next region end of the set (15 R361). `serial` names the image that the last park wrote, 0 before the first. `cyc` counts the core cycles of the present epoch in which it was Active (17 R385),
`pairCyc` those of them in a paired slot, `work` its issue cycles and element firings in these, and `moved` the parks and loads that the epoch charges
to it (17 R395); `fresh` says that it began new work in the epoch, `ramp` is the shutter setting of new work (17 R393). `atVector` is true from a trap delivery until the first word of the vector
issues (15 R346). -/
structure Ctx where
  id : CtxId
  regs : Hregs
  run : Option (BitVec 5)
  atVector : Bool
  htab : Vector Entry 32
  last : BitVec 5
  sys : Sregs
  asyncs : List FaultItem
  faults : List FaultItem
  inbox : Tab (List Word)
  held : List HeldWord
  stalled : Bool
  first : Nat
  pinWait : Option Nat
  lateBad : List (Nat × Word)
  serial : Nat
  pend : List Pend
  l1 : List Line
  tlb : List TlbEntry
  perf : Vector Perf 8
  energy : Word
  cyc : Nat
  pairCyc : Nat
  work : Nat
  moved : Nat
  fresh : Bool
  ramp : Nat
  shareBase : BitVec 12
  shareSize : BitVec 12
  engAge : Nat
  chans : Vector Chan 4
  xq : List Xreq
  mx : Mx
  fab : Fabric
  deriving DecidableEq, Repr, Inhabited

/-! ## Cores, partitions and the module (01, 13, 14, 16, 17) -/

/-- The six states of a context set (01 R26). -/
inductive SetSt where
  | empty | loading | ready | active | frozen | parking
  deriving DecidableEq, Repr

/-- A context set: its state, its context, the parks whose energy the context that is loaded next pays for (17 R395), and whether its context is
retired once it has been parked. -/
structure SetRec where
  st : SetSt := .empty
  ctx : Option CtxId := none
  owed : Nat := 0
  gone : Bool := false
  deriving DecidableEq, Repr

/-- A context descriptor of a core calendar with its share (13 R316, 16 R370). -/
structure Desc where
  w0 : BitVec 23 := 0
  save : BitVec 52 := 0
  shareBase : BitVec 12 := 0
  shareSize : BitVec 12 := 0xFFF
  deriving DecidableEq, Repr

/-- A core: its two sets, calendar, monitor registers and clock (01 R24 to R30, 05 R106, 13 R316). `boundary` is true
from a slot boundary until the swap to the current slot is complete; `swReq` is the set that a CTXSW makes Active at the
next token boundary. `paired` is true while the contexts that run do so in a paired slot, on the spine it names. `spineNew` is the
spine to which the core is switching, `spineNext` the one to which it switches after that, and `entering` is true until the switch of a
swap is complete. MVEC has the value that start-up gave every core until the core writes it. -/
structure CoreRec where
  setA : SetRec
  setB : SetRec
  slots : Tab (BitVec 32)
  slotsNew : Tab (BitVec 32)
  descs : Tab Desc
  running : Bool
  stopReq : Bool
  cur : BitVec 4
  nextAt : Word
  boundary : Bool
  swReq : Option Bool
  paired : Bool
  entering : Bool
  spine : BitVec 3
  spineNew : Option (BitVec 3)
  spineNext : Option (BitVec 3)
  mpart : BitVec 6
  mcal : Word
  mquota : Word
  mcause : Word
  mepc : Word
  meval : Word
  mvec : Option Word
  mstate : Word
  mscr0 : Word
  mscr1 : Word
  mscr2 : Word
  mscr3 : Word
  deriving DecidableEq, Repr

/-- A dependence counter (14 R329). -/
structure Dc where
  count : BitVec 32
  underflow : Bool
  bound : Bool
  reached : Bool
  binding : BitVec 37
  arg : Word
  deriving DecidableEq, Repr

/-- A barrier (14 R331). -/
structure Bar where
  n : BitVec 16
  arrived : BitVec 16
  gen : BitVec 16
  link : BitVec 13
  deriving DecidableEq, Repr

/-- An ephemeris entry (13 R319) with the governor's own quantities (17 R385): previous progress, the rate as a fraction,
the KTIME at which it was first seen met, and the shutter setting of its graph's ports (tokens per period, 0 open). -/
structure Eph where
  deadline : Word
  work : Word
  progress : BitVec 48
  state : BitVec 2
  risk : Bool
  slack : Word
  owner : BitVec 16
  ownerIdx : BitVec 16
  prev : BitVec 48
  rateNum : Nat
  rateDen : Nat
  met : Option Word
  limit : Nat
  deriving DecidableEq, Repr

/-- A partition (16 R363, 13 R305, 14 R324). The core list holds its valid entries; `coreOld` keeps the core id of an entry without
its valid bit; `sysIndex` is the core-list index of the system core (16 R365). -/
structure PartRec where
  mstage : Word
  mstageEff : Word
  coreList : Tab CoreId
  coreOld : Tab CoreId
  allow : BitVec 16
  ways : Tab (BitVec 20)
  launchBase : Word
  dcs : Tab Dc
  bars : Tab Bar
  eph : Tab Eph
  drops : Tab (BitVec 32)
  energy : Word
  pstate : BitVec 3
  contained : BitVec 16
  busy : Bool
  sysIndex : BitVec 16 := 0
  deriving DecidableEq, Repr

/-- A registration of one handler's access to a race grain (10 R232, R234): the 8-byte grain, context, entry, mode, whether
it was plain, the step of the registration, and the earliest later release end that covers core, die, module, domain. -/
structure Grain where
  grain : Nat
  ctx : CtxId
  entry : BitVec 5
  write : Bool
  plain : Bool
  seq : Nat
  rel : List (Option Word)
  deriving DecidableEq, Repr

/-- A line of the L2 (08 R174 to R176): line number, partition, way, compressed or not, and for a dirty line the bytes that DRAM
still holds. The bytes of the line itself stand in `State.mem`. The list is in order of use. -/
structure L2Line where
  num : Nat
  part : BitVec 7
  way : Nat
  comp : Bool
  dirty : Bool
  old : BitVec 1024
  deriving DecidableEq, Repr

/-- What a packet carries (01 R12, R13; 13 R313; 11 R264). -/
inductive Load where
  | word (dest : CtxId) (ch : BitVec 6) (v : Word)
  | validate (part : BitVec 7) (id : BitVec 8) (key : BitVec 16) (path : BitVec 2) (die : BitVec 3)
  | dispatch (dest : CtxId) (slot : BitVec 5) (id : BitVec 8) (arg : Word)
  | token (src : CtxId) (elem : BitVec 10) (dest : CtxId) (port : BitVec 6) (tok : Token)
  | umavas (module : BitVec 6) (part : BitVec 6) (id : BitVec 8) (key : BitVec 16)
  deriving DecidableEq, Repr

/-- A packet on the mesh: the context that sent it, owner, what it carries, the link directions it still has to cross and
the one whose far buffer holds it, on the virtual channel `chan` (11 R261, 16 R366). -/
structure Packet where
  src : CtxId
  part : BitVec 7
  load : Load
  route : List Nat
  link : Option Nat
  chan : Nat
  deriving DecidableEq, Repr

/-- A decrement or arrival on its way to the scheduler memory (14 R327): partition, counter, and the copy channel, transform or
graph that waits for its acknowledgement. -/
structure Decr where
  part : BitVec 7
  counter : BitVec 12
  ctx : CtxId
  chan : Option (BitVec 3)
  graph : Option (BitVec 4) := none
  deriving DecidableEq, Repr

/-- The start-up state (16 R375, R379): phase, code, halted, whether the start is a warm one, and whether the monitor has started since. -/
structure Boot where
  phase : Byte
  code : Byte
  halted : Bool
  warm : Bool
  started : Bool := false
  deriving DecidableEq, Repr

/-- The governor (17): f_perm and the spine frequencies (die × 8 + spine) in units of 12.5 MHz; by die the compute-rail level in
millivolts, the shutter setting under the rail's share (L, 0 open), the cells that fired in the last epoch, the compute rail's current in
milliamperes, the cells that run ballast, those that ran it when it began, and the epochs that it still has. -/
structure Gov where
  fperm : Nat
  spines : Tab Nat
  rail : Tab Nat
  shutter : Tab Nat
  firing : Tab Nat := []
  current : Tab Nat := []
  ballast : Tab Nat
  ballastTop : Tab Nat := []
  ballastLeft : Tab Nat := []
  deriving DecidableEq, Repr

/-- What takes energy in an epoch (17 R395): a context in solo slots, a core in paired slots, the parks and loads and the DRAM and link traffic of a
context, traffic of a partition that no context issued, write-backs of ways that it lost, and of the monitor's rows the scrub, tests, the ballast of
a die, its traffic, idle cores and idle slots. -/
inductive Charge where
  | solo (c : CtxId) | paired (core : CoreId) | moved (c : CtxId) | traffic (c : CtxId) | direct (part : BitVec 7) | revoked (part : BitVec 7)
  | scrub | tests | ballast (die : Nat) | monitor | idleCores | idleSlots
  deriving DecidableEq, Repr

/-- What the host sees (16 R374 to R377). -/
inductive HostMsg where
  | data (v : Word)
  | unsupported
  | msix (part : BitVec 6)
  deriving DecidableEq, Repr

/-- What the opaque regions of a save area say (15 R349): the image that a park wrote carries a serial number, and stands for the
context as it was then. -/
structure Parked where
  serial : Nat
  image : Ctx
  deriving DecidableEq, Repr

/-- An uncorrectable error (08 R183, 15 R361): in a line of a home, in a 64-bit word of window memory, in a word of a line that an L1
holds, in control state of a partition, or in shared control state. -/
inductive Upset where
  | line (num : Nat)
  | window (word : Nat)
  | l1 (c : CtxId) (num : Nat) (word : BitVec 4)
  | partition (p : BitVec 6)
  | shared
  deriving DecidableEq, Repr

/-- A move of an agent other than the sequencer in focus: the sequencer of another context, an event at a context, an uncorrectable
error, a host read of BOOTSTAT, of a byte of DEVKEY or of PSTATE, the monitor's change of a PSTATE (16 R375, R376), the module number and the
number of modules that the host gives, a domain route (16 R378), or the monitor's choice of a system core (16 R365)
(the model's own, DESIGN CHOICE, log 1). -/
inductive Move where
  | issue (c : CtxId)
  | event (c : CtxId) (i : Instr)
  | upset (u : Upset)
  | readBootstat
  | readDevkey (i : BitVec 7)
  | readPstate (p : BitVec 6)
  | setPstate (p : BitVec 6) (v : BitVec 3)
  | setModule (n : BitVec 6) (total : BitVec 7)
  | setRoute (m : BitVec 6) (k : BitVec 5)
  | setSystem (p : BitVec 6) (index : BitVec 16)
  deriving DecidableEq, Repr

/-- The module. `mem` holds every byte as its home holds it, in the L2 or in DRAM (08 R174); `bad` lists the lines of the homes and
`winBad` the 64-bit words of window memory with an uncorrectable error (08 R183); `retired` lists the lines of the retirement lists, those of
window memory under numbers of their own. `refused` lists, by owner code, the partition addresses at which an engine access waits for a TLBIS after a
stage-2 fault, with the size as log2 of the stage-2 page that refused it (15 R345), `pulls` the pages in the pull state that an access has met (16 R373). `mvecInit` is the MVEC that start-up
has given every core (16 R379). `routes` holds by module the Umavas link, 3 × die + k, on which packets to it leave, `trained` the Umavas links that
start-up has trained (16 R378). `used` counts by link × 16 + virtual channel the slots of the far buffer that the sender has no credit for,
and `vcTurn` holds by link × 128 + owner the channel that the owner's last slot served (11 R261, R266). -/
structure State where
  me : Ctx
  others : List Ctx
  agenda : List Move
  tick : Nat
  ktime : Word
  mem : List Host.Cell
  win : List Host.Cell
  winBad : List Nat
  bad : List Nat
  retired : List Nat
  errlog : Tab Nat
  cores : Tab CoreRec
  parts : Tab PartRec
  monitorDrops : Tab (BitVec 32)
  monitorEnergy : Word
  links : Tab (BitVec 7)
  vcs : Tab (BitVec 7)
  dram : Tab (BitVec 7)
  grains : List Grain
  l2 : List L2Line
  net : List Packet
  used : Tab Nat
  vcTurn : Tab Nat
  decrs : List Decr
  refused : List (BitVec 7 × Nat × Nat)
  pulls : List (BitVec 6 × Nat)
  saved : List Parked
  boot : Boot
  mvecInit : Word
  module : BitVec 6
  modules : BitVec 7
  routes : Tab Nat
  trained : BitVec 24
  gov : Gov
  epochAt : Word
  host : List HostMsg
  deriving DecidableEq, Repr

/-- Why the machine stops with a fault. -/
inductive Fault where
  /-- Raised by `step` on a halted module whose agenda is empty: BOOTSTAT shows halted and only the host can move on
  (16 R381). Safe: the module does nothing either. -/
  | moduleHalted
  deriving DecidableEq, Repr

/-- Why a step has no meaning. -/
inductive Refusal where
  /-- Raised by an arm of `exec` for an instruction not yet modelled, by its mnemonic. Safe. -/
  | notModelled (mnemonic : String)
  /-- Raised by `step` when the agenda names as an event an instruction that only a sequencer issues. Safe: the agenda is
  the model's own and such an item says nothing of the machine. -/
  | notAnEvent
  deriving DecidableEq, Repr

/-! ## Values at creation and reset -/

/-- The registers of a handler whose block is zero (05 R98, R99). -/
def Hregs.zero : Hregs :=
  { g := Vector.replicate 64 0, c := Vector.replicate 8 false, pc := 0,
    ks := { priv := 0, ie := false, ppriv := 0, pie := false } }

/-- An entry at reset: unbound, priority 0, entry PC 0, Idle (13 R305). -/
def Entry.zero : Entry :=
  { image := 0, st := .idle, pending := false, cause := none, wait := 0, why := .nothing, resume := false, arrived := [], block := Hregs.zero,
    acq := [0, 0, 0, 0] }

def Chan.zero : Chan :=
  { st := .idle, addr := 0, priv := 0, single := false, first := true, src := none, dst := none, age := 0, words := none,
    n := 0, sum := 0, carry := 0 }

/-- The array at reset: nothing held, no command (07 R141). -/
def Mx.zero : Mx :=
  { active := [], loading := [], activeTag := [], loadingTag := [], bank := [], held := [], queue := [], items := [],
    halted := false, cause := 0, graphRow := 0, graphToks := [] }

def Fabric.zero : Fabric :=
  { cfg := [], portSel := 0, ports := [], queues := [], ctlq := [], checks := [], counts := [], elems := [],
    delays := [], badpack := [], nodes := [], unacked := [], wins := [], strms := [], marks := [], sinksDone := [],
    graphs := [], portq := [], portCount := [], spillLog := [], spillHead := 0, spillTail := 0, spillPorts := [], meters := [], turns := [],
    recLog := [], recCount := 0, recStuck := [], fired := [], cfgAt := [], swizzled := [] }

/-- A context when the monitor creates it (05 R99, R100; 13 R305): every register 0, KSTATE 0x1. -/
def Ctx.create (id : CtxId) : Ctx :=
  { id := id, regs := { Hregs.zero with ks := {} }, run := none, atVector := false, htab := Vector.replicate 32 Entry.zero,
    last := 31, sys := {}, asyncs := [], faults := [], inbox := [], held := [], stalled := false, first := 0, pinWait := none, lateBad := [], serial := 0, pend := [], l1 := [], tlb := [],
    perf := Vector.replicate 8 { value := 0, sel := 0, allowed := false, wrapped := false }, energy := 0, cyc := 0, pairCyc := 0, work := 0, moved := 0,
    fresh := false, ramp := 0, shareBase := 0, shareSize := 0xFFF, engAge := 0,
    chans := Vector.replicate 4 Chan.zero, xq := [], mx := Mx.zero, fab := Fabric.zero }

/-- A core at cold start: sets Empty, calendar stopped with every slot idle, monitor registers 0 (05 R106, 13 R305,
16 R379). -/
def CoreRec.zero : CoreRec :=
  { setA := {}, setB := {}, slots := [], slotsNew := [], descs := [], running := false, stopReq := false, cur := 0,
    nextAt := 0, boundary := false, swReq := none, paired := false, entering := false, spine := 0, spineNew := none,
    spineNext := none, mpart := 0, mcal := 0, mquota := 0, mcause := 0,
    mepc := 0, meval := 0, mvec := none, mstate := 0, mscr0 := 0, mscr1 := 0, mscr2 := 0, mscr3 := 0 }

/-- A partition that the monitor has not built (16 R363, R376). -/
def PartRec.zero : PartRec :=
  { mstage := 0, mstageEff := 0, coreList := [], coreOld := [], allow := 0, ways := [], launchBase := 0, dcs := [], bars := [],
    eph := [], drops := [], energy := 0, pstate := 0, contained := 0, busy := false }

/-- The monitor's context on core 511 of a die (01 R6, 05 R104). -/
def monitorId (die : BitVec 3) : CtxId :=
  { core := die ++ 511#9, part := 0x40, kctx := 0 }

/-- The module right after reset (16 R379): phase 0x01 of a cold start, nothing running, nothing in flight. -/
def State.reset : State :=
  { me := Ctx.create (monitorId 0), others := [], agenda := [], tick := 0, ktime := 0, mem := [], win := [], winBad := [], bad := [],
    retired := [], errlog := [], cores := [], parts := [], monitorDrops := [], monitorEnergy := 0, links := [],
    vcs := [], dram := [], grains := [], l2 := [], net := [], used := [], vcTurn := [], decrs := [], refused := [], pulls := [], saved := [],
    boot := { phase := 1, code := 0, halted := false, warm := false }, mvecInit := 0, module := 0, modules := 1, routes := [], trained := 0,
    gov := { fperm := 240, spines := [], rail := [], shutter := [], ballast := [] },
    epochAt := 2500, host := [] }

end Sys2Proof.Machine
end

