-- ==== Sys2Proof/Config.lean ====
section
/-! DEFINITION. What an implementation fixes and the free values: constants without a body, so that no proof can
see a value of one. Each is named in a log entry of notes/assumptions. -/

namespace Sys2Proof.Config

/-- Free: network cycles beyond the first that pass during the n-th step (DESIGN CHOICE, log 8). -/
opaque stepCycles : Nat → Nat

/-- Free: core cycles of a core that pass during the n-th step, by step and core (DESIGN CHOICE, log 8). -/
opaque coreCycles : Nat → Nat → Nat

/-- Free: the byte that a region whose swizzle was rewritten shows afterwards, by step and window byte (19 R399, DESIGN CHOICE, log 9). -/
opaque swizzledByte : Nat → Nat → Byte

/-- Free: the module's measured power of an epoch in milliwatts, by step (17 R390, DESIGN CHOICE, log 10). -/
opaque modulePower : Nat → Nat

/-- Free: nanojoules measured in an epoch, by step and by what took them (17 R395, DESIGN CHOICE, log 10). -/
opaque energyOf : Nat → Machine.Charge → Nat

/-- Free: the percent of a die's DRAM slot cycles that carried data in the epoch, by step and die (17 R391, DESIGN CHOICE, log 10). -/
opaque dramPercent : Nat → Nat → Nat

/-- Free: the percent of a die's issue cycles that were stalled on memory, by step and die (17 R391, DESIGN CHOICE, log 10). -/
opaque stallPercent : Nat → Nat → Nat

/-- Free: milliwatts and milliamperes that the work on a die would draw from its compute rail, by step and die (17 R391, R394, DESIGN CHOICE,
log 10). -/
opaque railPower : Nat → Nat → Nat
opaque railCurrent : Nat → Nat → Nat

/-- Free: cells of ballast that carry a fall of the current of a die, by step and die; and whether a cell that runs no work runs ballast, by step
and cell of the module (17 R394, DESIGN CHOICE, log 10). -/
opaque ballastCells : Nat → Nat → Nat
opaque ballastRuns : Nat → Nat → Bool

/-- Free: core cycles lost to stalls or back-pressure during the n-th step, by performance event (14 R336, DESIGN CHOICE, log 8). -/
opaque stallCycles : Nat → Nat → Nat

/-- Open: the public keys of die 0's boot ROM as points (x, y) of P-384, of which the first four count; the spec does not give them (16 R380,
DESIGN CHOICE, log 102). -/
opaque bootKeys : List (Nat × Nat)

/-- Free: what a context finds in its opaque regions when something else than a park has written them, by step (15 R349, DESIGN CHOICE,
log 12). -/
opaque foreignCtx : Nat → Machine.Ctx

/-- Open: the public half of the module's device key, 96 bytes; it comes from the physically unclonable function (16 R375, DESIGN CHOICE,
log 70). -/
opaque deviceKey : Nat → Byte

/-- Open: the router, y × 32 + x, at which a unit of a die stands on the mesh: its L2 slices 0 to 79, network interface and dispatcher 80,
scheduler memory 81, barrier unit 82, Umavas links 83 to 85, and the ends of its bridges, 86 east, 87 west, 88 to the other row of dies
(16 R366, DESIGN CHOICE, log 17). -/
opaque unitPlace : Nat → Nat → BitVec 9

/-- Open: which of its owner's virtual channels on a link a flow takes, by its source and destination core (11 R261, DESIGN CHOICE,
log 85). -/
opaque flowChannel : Nat → Nat → Nat

/-- Free: the slack of a transit whose context has no slot on a running calendar, so that the prediction of 17 R385 has
no value, by step (DESIGN CHOICE, log 21). -/
opaque endlessSlack : Nat → Word

/-- Free: a byte of DRAM after a cold start, by step and address, where the byte had been written before (08 R161, DESIGN CHOICE, log 2). -/
opaque coldByte : Nat → Nat → Byte

/-- Free: what a host access through BAR2 of the physical function reads once the monitor defines that window, by step and
address (16 R375, DESIGN CHOICE, log 22). -/
opaque pfWindow : Nat → Nat → Byte

end Sys2Proof.Config
end

