-- ==== Sys2Proof/Machine/Ops.lean ====
section
/-! DEFINITION. The named operations over tables, registers, contexts and handler entries; taking an exception
(05 R107, 15 R342, R343) and returning from one (06 R134). -/

namespace Sys2Proof.Machine

/-! ## Tables -/

/-- The entry of number k, if the table lists one. -/
def tabFind {α : Type} : Tab α → Nat → Option α
  | [], _ => none
  | (k', v) :: t, k => if k' = k then some v else tabFind t k

/-- The entry of number k, d where the table lists none. -/
def tabGet {α : Type} (d : α) (t : Tab α) (k : Nat) : α := (tabFind t k).getD d

/-- The table without number k. -/
def tabErase {α : Type} : Tab α → Nat → Tab α
  | [], _ => []
  | (k', v) :: t, k => if k' = k then tabErase t k else (k', v) :: tabErase t k

/-- The table with v at number k, kept in rising order. -/
def tabInsert {α : Type} : Tab α → Nat → α → Tab α
  | [], k, v => [(k, v)]
  | (k', v') :: t, k, v =>
    if k < k' then (k, v) :: (k', v') :: t
    else if k = k' then (k, v) :: t
    else (k', v') :: tabInsert t k v

/-- The table with v at number k, where an entry equal to the default d is not listed. -/
def tabPut {α : Type} [DecidableEq α] (d : α) (t : Tab α) (k : Nat) (v : α) : Tab α :=
  if v = d then tabErase t k else tabInsert t k v

/-- Numbers rise strictly and stand above b. -/
def tabSorted {α : Type} : Option Nat → Tab α → Bool
  | _, [] => true
  | b, (k, _) :: t => (match b with | none => true | some n => decide (n < k)) && tabSorted (some k) t

/-- The canonical form of a memory: addresses strictly rising and no byte 0, which is what an unlisted address reads as. -/
def Memory.wf (m : List Host.Cell) : Bool := tabSorted none m && m.all (fun c => c.2 ≠ 0#8)

/-- One byte of a memory; an unlisted address reads as 0 (DESIGN CHOICE, log 2). -/
def memByte (m : List Host.Cell) (a : Nat) : Byte := tabGet 0#8 m a

/-- A memory with one byte changed. -/
def memSet (m : List Host.Cell) (a : Nat) (b : Byte) : List Host.Cell := tabPut 0#8 m a b

/-- n bytes from a as a little-endian number (00 R4). -/
def memNat (m : List Host.Cell) (a : Nat) : Nat → Nat
  | 0 => 0
  | n + 1 => (memByte m a).toNat + 256 * memNat m (a + 1) n

/-- The low n bytes of v stored from a, little-endian. -/
def memPut (m : List Host.Cell) (a : Nat) : Nat → Nat → List Host.Cell
  | 0, _ => m
  | n + 1, v => memPut (memSet m a (BitVec.ofNat 8 v)) (a + 1) n (v / 256)

/-- n bytes from a. -/
def memBytes (m : List Host.Cell) (a : Nat) (n : Nat) : List Byte := (List.range n).map (fun i => memByte m (a + i))

/-- Bytes stored from a. -/
def memPutBytes (m : List Host.Cell) (a : Nat) : List Byte → List Host.Cell
  | [] => m
  | b :: bs => memPutBytes (memSet m a b) (a + 1) bs

/-! ## Registers of the running handler (05 R97 to R99) -/

/-- g[r]: g0 reads 0. -/
def readG (s : State) (r : Reg) : Word := if r = 0#6 then 0#64 else s.me.regs.g[r.toNat]

/-- g[r] := v: a write to g0 is discarded. -/
def writeG (s : State) (r : Reg) (v : Word) : State :=
  if r = 0#6 then s else { s with me.regs.g := s.me.regs.g.set r.toNat v }

/-- c[r]: c0 reads 1. -/
def readC (s : State) (r : CReg) : Bool := if r = 0#3 then true else s.me.regs.c[r.toNat]

/-- c[r] := v: a write to c0 is discarded. -/
def writeC (s : State) (r : CReg) (v : Bool) : State :=
  if r = 0#3 then s else { s with me.regs.c := s.me.regs.c.set r.toNat v }

/-- PC := PC + 4, kept within the 48 bits that the PC holds (05 R99). -/
def nextPc (s : State) : State := { s with me.regs.pc := (s.me.regs.pc + 4#64) &&& 0x0000FFFFFFFFFFFC#64 }

/-- PC := a target that has passed the checks of 06 R128. -/
def setPc (s : State) (t : Word) : State := { s with me.regs.pc := t }

/-- The privilege of the running handler. -/
def priv (s : State) : BitVec 2 := s.me.regs.ks.priv

/-! ## Cores and context sets -/

def coreRec (s : State) (c : CoreId) : CoreRec := tabGet CoreRec.zero s.cores c.toNat

def setCore (s : State) (c : CoreId) (r : CoreRec) : State := { s with cores := tabPut CoreRec.zero s.cores c.toNat r }

/-- The record of the core in focus. -/
def myCore (s : State) : CoreRec := coreRec s s.me.id.core

def setMyCore (s : State) (r : CoreRec) : State := setCore s s.me.id.core r

/-- Core 511 of a die (01 R6). -/
def isMonitorCore (c : CoreId) : Bool := c.extractLsb' 0 9 == 511#9

/-- The die of a core (00 R2). -/
def dieOf (c : CoreId) : BitVec 3 := c.extractLsb' 9 3

/-- Which set of its core holds a context: some true for set B. -/
def setOf (s : State) (id : CtxId) : Option Bool :=
  let r := coreRec s id.core
  if r.setA.ctx = some id then some false else if r.setB.ctx = some id then some true else none

/-- The state of the set that holds a context; a context that no set holds is parked or placed on no calendar. -/
def setState (s : State) (id : CtxId) : SetSt :=
  let r := coreRec s id.core
  if r.setA.ctx = some id then r.setA.st else if r.setB.ctx = some id then r.setB.st else .empty

def isActive (s : State) (id : CtxId) : Bool := setState s id == .active

/-- A context resident in a set: Active, Frozen or Ready (12 R296). -/
def isResident (s : State) (id : CtxId) : Bool :=
  match setState s id with
  | .active | .frozen | .ready => true
  | _ => false

/-! ## The open tables of a save area (15 R349)

While no set holds a context its handler table, fault queue and element configuration stand in its save area, and what reaches
it changes them there (01 R18, R31, 12 R296). -/

/-- The state word of HGET (13 R310). -/
def entryWord (e : Entry) : Word :=
  let st : BitVec 2 := match e.st with | .idle => 0 | .runnable => 1 | .running => 2 | .blocked => 3
  (st ++ BitVec.ofBool e.pending ++ e.image.extractLsb' 0 61).setWidth 64

/-- The cause word of an entry as g3 shows it (05 R108). -/
def causeWord (k : Cause) : Word := (k.index ++ k.kind).setWidth 64

/-- The address of a context's save area: its KXSAVE (15 R349). -/
def areaOf (c : Ctx) : Nat := c.sys.xsave.toNat % 2 ^ 52

/-- A word of a save area. -/
def areaWord (m : List Host.Cell) (area off : Nat) : Word := BitVec.ofNat 64 (memNat m (area + off) 8)

/-- A handler-table entry as a load reads it back. -/
def loadEntry (m : List Host.Cell) (area i : Nat) (e : Entry) : Entry :=
  let w := fun k => areaWord m area (0x011000 + 64 * i + 8 * k)
  let st : Hst := if (w 1).extractLsb' 62 2 = 0#2 then .idle else if (w 1).extractLsb' 62 2 = 1#2 then .runnable
                  else if (w 1).extractLsb' 62 2 = 2#2 then .running else .blocked
  { e with image := w 0, st := st, pending := (w 1).getLsbD 61,
           cause := if (w 2).extractLsb' 0 8 = 0#8 then none
                    else some { kind := (w 2).extractLsb' 0 8, index := (w 2).extractLsb' 8 12, arg := w 3 } }

/-- The fault queue of a save area. -/
def loadFaults (m : List Host.Cell) (area : Nat) : List FaultItem :=
  (List.range (memNat m (area + 0x010200) 8 % 27)).map (fun i =>
    { kcause := (areaWord m area (0x010208 + 24 * i)).setWidth 9, value := areaWord m area (0x010210 + 24 * i),
      elem := areaWord m area (0x010218 + 24 * i) })

/-- A fault queue as a save area holds it: offsets and words. -/
def faultImage (fs : List FaultItem) : List (Nat × Word) :=
  (0x010200, BitVec.ofNat 64 fs.length)
    :: ((fs.zipIdx).map (fun f =>
      [(0x010208 + 24 * f.2, f.1.kcause.setWidth 64), (0x010210 + 24 * f.2, f.1.value), (0x010218 + 24 * f.2, f.1.elem)])).flatten

/-- Entry i of a handler table as a save area holds it. -/
def entryImage (i : Nat) (e : Entry) : List (Nat × Word) :=
  [(0x011000 + 64 * i, e.image), (0x011008 + 64 * i, entryWord e),
   (0x011010 + 64 * i, match e.cause with | none => 0 | some k => causeWord k),
   (0x011018 + 64 * i, match e.cause with | none => 0 | some k => k.arg)]

/-- Words stored in a save area. -/
def putWords (m : List Host.Cell) (area : Nat) (ws : List (Nat × Word)) : List Host.Cell :=
  ws.foldl (fun m w => memPut m (area + w.1) 8 w.2.toNat) m

/-- The element configuration of a save area: field f of element a at 0x018000 + 128a + 2f (15 R349). -/
def loadCfg (m : List Host.Cell) (area : Nat) : Tab (BitVec 16) :=
  ((m.filter (fun b => area + 0x018000 ≤ b.1 ∧ b.1 < area + 0x020000)).map (fun b => (b.1 - (area + 0x018000)) / 2)).foldl
    (fun t k => tabPut 0 t k (BitVec.ofNat 16 (memNat m (area + 0x018000 + 2 * k) 2))) []

/-- A field of the element configuration stored in a save area. -/
def putCfg (m : List Host.Cell) (area k : Nat) (v : BitVec 16) : List Host.Cell := memPut m (area + 0x018000 + 2 * k) 2 v.toNat

/-- A context that no set holds, with the tables of its save area. -/
def viewArea (m : List Host.Cell) (c : Ctx) : Ctx :=
  { c with faults := loadFaults m (areaOf c), fab.cfg := loadCfg m (areaOf c),
           htab := Vector.ofFn (fun i : Fin 32 => loadEntry m (areaOf c) i.val c.htab[i.val]) }

/-- A graph's record written to its block, where the block is valid: state and cause, KELEM and KEVAL of a halt (15 R350). -/
def putGraph (m : List Host.Cell) (area : Nat) (gid : Nat) (g : Graph) : List Host.Cell :=
  let at_ := 0x020000 + 0x2000 * gid
  let w := areaWord m area at_
  let halted := g.state == 2#2
  if w.getLsbD 4 then
    putWords m area [(at_, w.extractLsb' 16 48 ++ g.cause ++ 0#1 ++ g.state ++ w.extractLsb' 0 5),
                     (at_ + 8, if halted then g.elem else 0), (at_ + 16, if halted then g.value else 0)]
  else m

/-- The records that a parked area says its reception log has had since it was last empty: the second opaque word (15 R349; DESIGN CHOICE, log 15). -/
def areaCount (m : List Host.Cell) (area : Nat) : Nat := memNat m (area + 0x012008) 8

/-- What changed in the tables and graphs of such a context, written to its save area. -/
def writeView (m0 : List Host.Cell) (c0 c1 : Ctx) : List Host.Cell :=
  let m := if c0.fab.graphs = c1.fab.graphs then m0
           else c1.fab.graphs.foldl (fun m g => if tabFind c0.fab.graphs g.1 = some g.2 then m else putGraph m (areaOf c1) g.1 g.2) m0
  let m1 := if c0.faults = c1.faults then m else putWords m (areaOf c1) (faultImage c1.faults)
  let m2 := (List.finRange 32).foldl (fun m i =>
    if entryImage i.val c0.htab[i.val] = entryImage i.val c1.htab[i.val] then m
    else putWords m (areaOf c1) (entryImage i.val c1.htab[i.val])) m1
  (c0.fab.cfg ++ c1.fab.cfg).foldl (fun m k =>
    if tabGet 0 c0.fab.cfg k.1 = tabGet 0 c1.fab.cfg k.1 then m
    else putCfg m (areaOf c1) k.1 (tabGet 0 c1.fab.cfg k.1)) m2

/-! ## Contexts -/

/-- Do the tables of a context stand in its save area: no set holds it or its set is still Loading, and it is not the
monitor's? What reaches it then is in the bytes that the load reads (01 R18, R31). -/
def inArea (s : State) (id : CtxId) : Bool := ((setOf s id).isNone || setState s id == .loading) && !id.part.getLsbD 6

/-- The record of a context, wherever it stands. -/
def rawCtx (s : State) (id : CtxId) : Option Ctx :=
  if s.me.id = id then some s.me else s.others.find? (fun c => c.id = id)

/-- A context by its id. -/
def findCtx (s : State) (id : CtxId) : Option Ctx :=
  if inArea s id then (rawCtx s id).map (viewArea s.mem) else rawCtx s id

/-- A record of a context as it stands: its tables in its save area while no set holds it. -/
def asStands (s : State) (c : Ctx) : Ctx := if inArea s c.id then viewArea s.mem c else c

/-- The record of a context replaced. -/
def putCtx (s : State) (id : CtxId) (c : Ctx) : State :=
  if s.me.id = id then { s with me := c }
  else { s with others := s.others.map (fun k => if k.id = id then c else k) }

/-- Replace a context by its image under f, wherever it stands. -/
def updCtx (s : State) (id : CtxId) (f : Ctx → Ctx) : State :=
  match findCtx s id with
  | none => s
  | some c => putCtx (if inArea s id then { s with mem := writeView s.mem c (f c) } else s) id (f c)

/-- Bring a context into focus: the context in focus goes to the others. -/
def focus (s : State) (id : CtxId) : State :=
  if s.me.id = id then s
  else match s.others.find? (fun c => c.id = id) with
    | none => s
    | some c => { s with me := c, others := s.me :: s.others.filter (fun c => c.id ≠ id) }

/-- Every context of the module. -/
def allCtxs (s : State) : List Ctx := s.me :: s.others

def partRec (s : State) (p : BitVec 6) : PartRec := tabGet PartRec.zero s.parts p.toNat

def setPart (s : State) (p : BitVec 6) (r : PartRec) : State := { s with parts := tabPut PartRec.zero s.parts p.toNat r }

/-- The record of an owner code; the monitor's code 0x40 has one of its own (DESIGN CHOICE, log 18). -/
def ownerRec (s : State) (part : BitVec 7) : PartRec := tabGet PartRec.zero s.parts part.toNat

def setOwner (s : State) (part : BitVec 7) (r : PartRec) : State := { s with parts := tabPut PartRec.zero s.parts part.toNat r }

/-- Is this context the monitor's (owner code 0x40)? -/
def isMonitor (c : Ctx) : Bool := c.id.part.getLsbD 6

/-- The partition of the context in focus. -/
def myPart (s : State) : BitVec 6 := s.me.id.part.extractLsb' 0 6

/-- The core that a core-list index names, when its entry is valid (16 R364). -/
def listCore (s : State) (p : BitVec 6) (idx : Nat) : Option CoreId := tabFind (partRec s p).coreList idx

/-- The index of a core in a core list; 0 when it stands in none. -/
def listIndex (l : Tab CoreId) (c : CoreId) : Nat :=
  match l.find? (fun e => e.2 = c) with
  | some e => e.1
  | none => 0

/-- KCORE[31:16] of a context (05 R104). A monitor context, which has no core list, and a core that stands in no list read 0
(DESIGN CHOICE, log 71). -/
def coreIndex (s : State) (c : Ctx) : BitVec 16 :=
  if isMonitor c then 0 else BitVec.ofNat 16 (listIndex (partRec s (c.id.part.extractLsb' 0 6)).coreList c.id.core)

/-! ## Descriptors and slots (13 R316) -/

def descOf (r : CoreRec) (i : Nat) : Desc := tabGet {} r.descs i

def descValid (d : Desc) : Bool := d.w0.getLsbD 22

/-- The context that a descriptor of a core names. -/
def descCtx (core : CoreId) (d : Desc) : CtxId :=
  { core := core, part := 0#1 ++ d.w0.extractLsb' 16 6, kctx := d.w0.extractLsb' 0 16 }

def slotKind (w : BitVec 32) : BitVec 2 := w.extractLsb' 16 2
def slotLen (w : BitVec 32) : Nat := (w.extractLsb' 0 16).toNat
def slotA (w : BitVec 32) : Nat := (w.extractLsb' 18 3).toNat
def slotB (w : BitVec 32) : Nat := (w.extractLsb' 21 3).toNat
def slotSpine (w : BitVec 32) : BitVec 3 := w.extractLsb' 24 3

/-- The word a slot has at its next beginning (16 R369). -/
def nextWord (r : CoreRec) (i : Nat) : BitVec 32 := (tabFind r.slotsNew i).getD (tabGet 0 r.slots i)

/-- The present slot that follows slot i in index order, wrapping (13 R316). -/
def nextSlot (r : CoreRec) (i : Nat) : Option Nat :=
  ((List.range 16).map (fun k => (i + 1 + k) % 16)).find? (fun j => slotLen (nextWord r j) ≠ 0)

/-- The word of the current slot. -/
def curWord (r : CoreRec) : BitVec 32 := tabGet 0 r.slots r.cur.toNat

/-- A switch to a spine: at once, or after the one in progress, where the last value asked for holds (01 R10, 05 R110). -/
def switchSpine (r : CoreRec) (x : BitVec 3) : CoreRec :=
  match r.spineNew with
  | some _ => { r with spineNext := some x }
  | none => if x = r.spine then r else { r with spineNew := some x }

/-- The words of a calendar's present slots: those that its slots have at their next beginnings, and, while it runs, that of the current
slot. -/
def liveWords (r : CoreRec) : List (BitVec 32) :=
  ((List.range 16).map (nextWord r) ++ (if r.running then [curWord r] else [])).filter (fun w => slotLen w != 0)

/-- Does a slot word name a descriptor? -/
def wordNames (i : Nat) (w : BitVec 32) : Bool :=
  (slotKind w != 0#2 && slotA w == i) || (slotKind w == 2#2 && slotB w == i)

/-- Does some present slot of a core name a descriptor? -/
def slotNamed (r : CoreRec) (i : Nat) : Bool := (liveWords r).any (wordNames i)

/-- A context is placed when a present slot of its core's calendar names its descriptor (11 R264). -/
def isPlaced (s : State) (id : CtxId) : Bool :=
  let r := coreRec s id.core
  r.descs.any (fun d => descValid d.2 && descCtx id.core d.2 == id && slotNamed r d.1)

/-! ## Status words -/

/-- KSTATE[6:0] as it reads in a set (05 R101). -/
def kstBits (k : Kst) (setB : Bool) : BitVec 7 :=
  BitVec.ofBool k.pie ++ k.ppriv ++ BitVec.ofBool k.ie ++ BitVec.ofBool setB ++ k.priv

/-- KSTATE[6:0] from a word; SET is not held. -/
def kstOf (w : BitVec 7) : Kst :=
  { priv := w.extractLsb' 0 2, ie := w.getLsbD 3, ppriv := w.extractLsb' 4 2, pie := w.getLsbD 6 }

/-- KSTATE of the running handler (05 R101). -/
def kstate (s : State) : Word :=
  (s.me.sys.spine ++ 0#1 ++ kstBits s.me.regs.ks ((setOf s s.me.id).getD false)).setWidth 64

/-! ## Containment (15 R358) -/

/-- A context after a containment event: reset values; energy, save area and share are kept (R358), and what the epoch has counted of it so
far, which no rule resets (17 R385, R396). -/
def resetCtx (c : Ctx) : Ctx :=
  { Ctx.create c.id with
    energy := c.energy, sys.xsave := c.sys.xsave, shareBase := c.shareBase, shareSize := c.shareSize
    cyc := c.cyc, pairCyc := c.pairCyc, work := c.work, moved := c.moved, fab := { Fabric.zero with fired := c.fab.fired } }

/-- Does a context belong to a partition? -/
def inPart (p : BitVec 6) (id : CtxId) : Bool := id.part == 0#1 ++ p

/-- The save areas of a partition's contexts that no set holds, or whose load or park a containment event stops: their tables, registers
and opaque regions stand at their reset values (15 R358, R362; of an area whose park stops the spec leaves the bytes undefined and loads
none of them: DESIGN CHOICE, log 33). -/
def resetAreas (s : State) (p : BitVec 6) : List Nat :=
  ((s.me :: s.others).filter (fun c => inPart p c.id && c.sys.xsave != 0#64
    && (match setState s c.id with
        | .active | .frozen | .ready => false
        | _ => true))).map areaOf

/-- Memory without the contents of save areas but for their reception logs and window shares. -/
def clearAreas (m : List Host.Cell) (areas : List Nat) : List Host.Cell :=
  m.filter (fun c => !areas.any (fun a => a + 0x10000 ≤ c.1 && c.1 < a + 0x100000))

/-- A set whose load or park a containment event stops is Empty (15 R362). -/
def stopTransfer (p : BitVec 6) (x : SetRec) : SetRec :=
  match x.ctx with
  | some id => if inPart p id && (x.st == .loading || x.st == .parking) then { owed := x.owed } else x
  | none => x

/-- A core in a containment event of a partition: transfers stop, and where a context of it runs in a solo slot the core switches to the spine of
its reset KSTATE (01 R10). -/
def containCore (p : BitVec 6) (r : CoreRec) : CoreRec :=
  let runs := [r.setA, r.setB].any (fun x => x.st == .active && (match x.ctx with
    | some id => inPart p id
    | none => false))
  let r1 := { r with setA := stopTransfer p r.setA, setB := stopTransfer p r.setB }
  if runs && !r.paired then switchSpine r1 0 else r1

/-- CONTAINMENT_EVENT: the partition's work in flight is discarded, its committed bytes stay (15 R358, R359). -/
def contain (s : State) (p : BitVec 6) : State :=
  let f := fun (c : Ctx) => if inPart p c.id then resetCtx c else c
  let r := partRec s p
  let s1 := setPart s p { r with dcs := [], bars := [], eph := [], busy := true, pstate := 3, contained := r.contained + 1 }
  let areas := resetAreas s p
  { s1 with
    me := f s1.me
    others := s1.others.map f
    mem := clearAreas s1.mem areas
    l2 := s1.l2.filter (fun x => !areas.any (fun a => a + 0x10000 ≤ x.num * 128 && x.num * 128 < a + 0x100000))
    saved := s1.saved.filter (fun k => !inPart p k.image.id)
    cores := (s1.cores.map (fun c => (c.1, containCore p c.2))).filter (fun c => c.2 ≠ CoreRec.zero)
    pulls := s1.pulls.filter (fun x => x.1 ≠ p)
    grains := s1.grains.filter (fun g => !inPart p g.ctx)
    net := s1.net.filter (fun k => k.part ≠ 0#1 ++ p)
    decrs := s1.decrs.filter (fun d => d.part ≠ 0#1 ++ p)
    refused := s1.refused.filter (fun x => x.1 ≠ 0#1 ++ p)
    host := s1.host ++ [.msix p] }

/-! ## Traps (05 R107, 15 R341 to R346) -/

/-- A synchronous fault: its cause, the value it records, the line that an uncorrectable word retires (08 R183), and the state in
which a walk has left the TLB miss counter and the L2, where a walk led to the fault (08 R181). -/
structure Trap where
  cause : BitVec 8
  value : Word
  line : Option Nat := none
  base : Option State := none
  deriving DecidableEq, Repr

/-- Causes that are delivered at monitor privilege: stage-2 fault and monitor call. -/
def toMonitor (cause : BitVec 8) : Bool := cause == 0x06#8 || cause == 0x17#8

/-- Delivery in place to the handler, for every cause but 0x06 and 0x17 (05 R107). The PC keeps its 48 bits (05 R99). -/
def trapSystem (s : State) (cause : BitVec 8) (value : Word) : State :=
  { s with
    me.sys.kepc := s.me.regs.pc
    me.sys.kcause := cause.setWidth 64
    me.sys.keval := value
    me.sys.kelem := 0
    me.regs.ks := { priv := 1, ie := false, ppriv := s.me.regs.ks.priv, pie := s.me.regs.ks.ie }
    me.regs.pc := (s.me.sys.kvec + 32#64 * cause.setWidth 64) &&& 0x0000FFFFFFFFFFFC#64
    me.atVector := true }

/-- MVEC of a core: what it has written, else what phase 0x07 gave every core (05 R106, 16 R379). -/
def mvecOf (s : State) (r : CoreRec) : Word := r.mvec.getD s.mvecInit

/-- Delivery at monitor privilege, for causes 0x06 and 0x17 (05 R107). -/
def trapMonitor (s : State) (cause : BitVec 8) (value : Word) : State :=
  let r := myCore s
  let s1 := setMyCore s { r with mepc := s.me.regs.pc, mcause := cause.setWidth 64, meval := value,
                                 mstate := (kstBits s.me.regs.ks ((setOf s s.me.id).getD false)).setWidth 64 }
  { s1 with
    me.regs.ks.priv := 2
    me.regs.ks.ie := false
    me.regs.pc := (mvecOf s r + 32#64 * cause.setWidth 64) &&& 0x0000FFFFFFFFFFFC#64
    me.atVector := true }

/-- Counting n occurrences of a performance event in the context in focus (14 R335, R336). -/
def countIn (p : Perf) (ev : BitVec 8) (n : Nat) : Perf :=
  if p.sel.extractLsb' 0 8 = ev ∧ p.sel.getLsbD 9 = true ∧ p.allowed = true then
    { p with value := BitVec.ofNat 48 (p.value.toNat + n), wrapped := p.wrapped || decide (2 ^ 48 ≤ p.value.toNat + n) }
  else p

def countEvent (s : State) (ev : BitVec 8) (n : Nat) : State :=
  { s with me.perf := s.me.perf.map (fun p => countIn p ev n) }

/-- An issue cycle or element firing of the context in focus counts where its core runs a paired slot (17 R395). -/
def countWork (s : State) : State := if (myCore s).paired then { s with me.work := s.me.work + 1 } else s

/-- The word at the PC has issued and waits: it issues again, and meanwhile other units move. -/
def hold (s : State) : State := { s with me.stalled := true }

/-- A wait of issue that a performance event counts (14 R336). -/
def holdFor (s : State) (ev : BitVec 8) : State := countEvent (hold s) ev (Config.stallCycles ev.toNat s.tick)

/-- The number of the 128-byte line of a window byte, by its place in the module's window memory: above the numbers of all lines of DRAM. -/
def winLine (key : Nat) : Nat := 2 ^ 45 + key / 128

/-- The die whose retirement list takes a line, with its module (08 R183). -/
def listDie (s : State) (n : Nat) : Nat := if n < 2 ^ 45 then n / 2 ^ 30 else s.module.toNat * 2 ^ 9 + (n - 2 ^ 45) / 2 ^ 22

/-- The retirement list of a line's die is full: it holds 64 entries (08 R161). -/
def retiredFull (s : State) (n : Nat) : Bool := 64 ≤ (s.retired.filter (fun x => listDie s x = listDie s n)).length

/-- A line whose entry a full list refuses is a containment event of its owner, the reader's partition (08 R183, DESIGN CHOICE, log 20). -/
def retireOverflow (s : State) (l : Option Nat) : Bool :=
  match l with
  | none => false
  | some n => !s.retired.contains n && retiredFull s n && !isMonitor s.me

/-- A word found uncorrectable: its line enters the retirement list once (08 R183). -/
def retire (s : State) (l : Option Nat) : State :=
  match l with
  | none => s
  | some n =>
    if s.retired.contains n then s
    else if retiredFull s n then (if isMonitor s.me then s else contain s (myPart s))
    else { s with retired := n :: s.retired }

/-- What a unit does after an uncorrectable word, unless the retirement ends in a containment event, which discards the unit's work
(15 R358). -/
def retiring (s : State) (l : Option Nat) (k : State → State) : State :=
  if retireOverflow s l then retire s l else k (retire s l)

/-- What the walks of a refused access have counted stands, whatever else its unit discards (14 R336). -/
def counted (s : State) (t : Trap) : State :=
  match t.base with
  | none => s
  | some b => { s with me.perf := b.me.perf }

/-- TAKING AN EXCEPTION: a fault of the running handler is delivered in place before anything else changes. -/
def takeTrap (s : State) (t : Trap) : State :=
  retiring s t.line (fun s1 =>
    let s2 := if t.cause = 0x07#8 then countEvent s1 0x0B#8 1 else s1
    if toMonitor t.cause then trapMonitor s2 t.cause t.value else trapSystem s2 t.cause t.value)

/-- The outcome of a meaning that either completes or takes a fault. -/
def finish (s : State) (r : Except Trap State) : Host.Outcome State Fault Refusal :=
  match r with
  | .ok t => .next t
  | .error t => .next (takeTrap (t.base.getD s) t)

/-- Check 6 of 04 R83: below the level, a privilege fault with KEVAL the word. -/
def needPriv (s : State) (level : BitVec 2) (word : Word) (k : Except Trap State) : Except Trap State :=
  if level.toNat ≤ (priv s).toNat then k else .error { cause := 0x02, value := word }

/-- The check of 06 R128 on a branch target. -/
def checkTarget (t : Word) (k : Except Trap State) : Except Trap State :=
  if t.extractLsb' 0 2 ≠ 0#2 then .error { cause := 0x03, value := t }
  else if t.extractLsb' 48 16 ≠ 0#16 then .error { cause := 0x04, value := t }
  else k

/-- RETURN FROM AN EXCEPTION (06 R134), at system or monitor privilege. -/
def eretOp (s : State) : Except Trap State :=
  if priv s = 2#2 then
    let r := myCore s
    checkTarget r.mepc (.ok { s with me.regs.ks := kstOf (r.mstate.setWidth 7), me.regs.pc := r.mepc })
  else if 2 ≤ s.me.regs.ks.ppriv.toNat then .error { cause := 0x02, value := kstate s }
  else
    checkTarget s.me.sys.kepc
      (.ok { s with
             me.regs.ks.priv := s.me.regs.ks.ppriv
             me.regs.ks.ie := s.me.regs.ks.pie
             me.regs.pc := s.me.sys.kepc })

/-! ## Marking handler entries (01 R14, 13 R307, 05 R108) -/

/-- An entry marked with a cause: Idle becomes Runnable with wait 0; Running and Blocked have pending set; the first
cause since the last start is kept. -/
def markEntry (e : Entry) (c : Cause) : Entry :=
  let e1 := { e with cause := match e.cause with | none => some c | some c0 => some c0 }
  match e.st with
  | .idle => { e1 with st := .runnable, wait := 0, resume := false }
  | .runnable => if e.resume then { e1 with pending := true } else e1
  | .running | .blocked => { e1 with pending := true }

/-- Entry 0 stirred by a nonempty fault queue, without recording a cause (15 R343). -/
def stirEntry (e : Entry) : Entry :=
  match e.st with
  | .idle => { e with st := .runnable, wait := 0, resume := false }
  | .runnable => if e.resume then { e with pending := true } else e
  | .running | .blocked => { e with pending := true }

def setEntry (c : Ctx) (i : BitVec 5) (e : Entry) : Ctx := { c with htab := c.htab.set i.toNat e }

def getEntry (c : Ctx) (i : BitVec 5) : Entry := c.htab[i.toNat]

def markSlot (i : BitVec 5) (k : Cause) (c : Ctx) : Ctx := setEntry c i (markEntry (getEntry c i) k)

/-- An entry whose image is zero but for its mask holds the items of the fault queue (15 R343). -/
def zeroImage (e : Entry) : Bool := e.image.extractLsb' 0 60 == 0#60

/-- A fault of an element, an engine or a moved asynchronous cause enters the fault queue (15 R343). -/
def queueFault (f : FaultItem) (c : Ctx) : Ctx :=
  let c1 := { c with faults := c.faults ++ [f] }
  if zeroImage (getEntry c1 0) then c1 else setEntry c1 0 (stirEntry (getEntry c1 0))

/-- An asynchronous cause becomes pending in a context (05 R101); of each code at most one is pending. -/
def pendAsync (cause : BitVec 8) (v : Word) (c : Ctx) : Ctx :=
  if c.asyncs.any (fun a => a.kcause = cause.setWidth 9) then c
  else { c with asyncs := c.asyncs ++ [{ kcause := cause.setWidth 9, value := v, elem := 0 }] }

/-- The entry that a channel is bound to (13 R306, R307). -/
def boundEntry (c : Ctx) (ch : BitVec 6) : Option (BitVec 5) :=
  ((List.range 32).find? (fun i =>
    let e := getEntry c (BitVec.ofNat 5 i)
    e.image.getLsbD 57 && e.image.extractLsb' 51 6 == ch)).map (BitVec.ofNat 5)

/-- The words of an inbox, oldest first. -/
def inboxOf (c : Ctx) (ch : BitVec 6) : List Word := tabGet [] c.inbox ch.toNat

def setInbox (c : Ctx) (ch : BitVec 6) (ws : List Word) : Ctx := { c with inbox := tabPut [] c.inbox ch.toNat ws }

/-- The condition of a Blocked entry turns true: it resumes at the blocking instruction (01 R14). -/
def wake (e : Entry) : Entry :=
  if e.st = .blocked then { e with st := .runnable, wait := 0, resume := true } else e

/-- The handlers blocked on an inbox resume when a word enters it (01 R14). -/
def wakeInbox (c : Ctx) (ch : BitVec 6) : Ctx :=
  { c with htab := c.htab.map (fun e => if e.why = .inbox ch then wake e else e) }

/-- The effect of a word's entry into an inbox on the bound entry (01 R13): a handler blocked on this inbox resumes,
any other entry is marked with cause kind 0x01. -/
def wordMark (c : Ctx) (ch : BitVec 6) (head : Word) : Ctx :=
  match boundEntry c ch with
  | none => wakeInbox c ch
  | some i =>
    if (getEntry c i).st = .blocked ∧ (getEntry c i).why = .inbox ch then wakeInbox c ch
    else markSlot i { kind := 1, index := ch.setWidth 12, arg := head } (wakeInbox c ch)

/-- The entry that a launch word marks as it enters the inbox of a channel: its slot while that is bound to the channel, else the entry that is, if
any (13 R307). -/
def launchEntry (c : Ctx) (ch : BitVec 6) (slot : BitVec 5) : Option (BitVec 5) :=
  let img := (getEntry c slot).image
  if img.getLsbD 57 && img.extractLsb' 51 6 == ch then some slot else boundEntry c ch

/-- A word enters its inbox: a channel word marks the bound entry, a launch word the bound entry with cause kind 0x04 and nothing
else (01 R13, 13 R307, R313); one that has marked before marks no more. -/
def enterWord (h : HeldWord) (c : Ctx) : Ctx :=
  let ws := inboxOf c h.ch ++ [h.val]
  if h.quiet then wakeInbox (setInbox c h.ch ws) h.ch
  else match h.launch with
    | none => wordMark (setInbox c h.ch ws) h.ch (ws.headD h.val)
    | some (slot, id) =>
      match launchEntry c h.ch slot with
      | none => wakeInbox (setInbox c h.ch ws) h.ch
      | some i => markSlot i { kind := 4, index := id.setWidth 12, arg := h.val } (wakeInbox (setInbox c h.ch ws) h.ch)

/-- A word enters its inbox, or is held when the inbox is full or earlier words are held (01 R13). -/
def postHeld (h : HeldWord) (c : Ctx) : Ctx :=
  if 4 ≤ (inboxOf c h.ch).length ∨ c.held.any (fun k => k.ch = h.ch) then { c with held := c.held ++ [h] }
  else enterWord h c

/-- A channel word reaches its context (01 R13). -/
def postWord (ch : BitVec 6) (v : Word) (c : Ctx) : Ctx := postHeld { ch := ch, val := v, launch := none } c

/-- The oldest held word of a channel enters its inbox when a slot frees (01 R13). -/
def releaseHeld (ch : BitVec 6) (c : Ctx) : Ctx :=
  match c.held.find? (fun h => h.ch = ch) with
  | none => c
  | some h => if 4 ≤ (inboxOf c ch).length then c else enterWord h { c with held := c.held.erase h }

/-- The launch word of 13 R313: it marks only with cause kind 0x04, as it enters the inbox. -/
def postLaunch (ch : BitVec 6) (slot : BitVec 5) (id : BitVec 8) (v : Word) (c : Ctx) : Ctx :=
  postHeld { ch := ch, val := v, launch := some (slot, id) } c

/-- The registers of the running handler written to its block, with a given PC (05 R98). -/
def saveBlock (c : Ctx) (i : BitVec 5) (pc : Word) : Ctx :=
  setEntry c i { getEntry c i with block := { c.regs with pc := pc } }

/-- A blocking instruction: the entry is Blocked with the PC of the instruction (01 R14, 05 R98). -/
def blockOn (s : State) (w : WaitFor) : State :=
  match s.me.run with
  | none => s
  | some i =>
    let c := saveBlock s.me i s.me.regs.pc
    let e := getEntry c i
    { s with me := { setEntry c i { e with st := .blocked, why := w } with run := none } }

/-! ## Outstanding counters (14 R325): computed from what is outstanding -/

def isLoadClass (p : Pend) : Bool :=
  match p.op with
  | .value _ => true
  | .atomic a => match a.op with
    | .store _ => false
    | _ => true

def loadsOut (c : Ctx) : Nat := (c.pend.filter isLoadClass).length
def storesOut (c : Ctx) : Nat := (c.pend.filter (fun p => !isLoadClass p)).length
def copiesOut (c : Ctx) : Nat := (c.chans.toList.filter (fun h => h.st ≠ .idle)).length + c.xq.length
def tilesOut (c : Ctx) : Nat := c.mx.queue.length

/-! ## Paths between cores (16 R366) -/

/-- A link direction by number: a mesh link of a core's router, or a bridge or Umavas link with its direction. -/
def meshLink (core : CoreId) (dir : BitVec 2) : Nat := core.toNat * 4 + dir.toNat
def outerLink (target : Nat) (inward : Bool) : Nat := 16384 + target * 2 + (if inward then 1 else 0)

/-- The mesh links from column x to column x' of a row: direction 1 east, 3 west. -/
def xPath (die : BitVec 3) (y : BitVec 4) : Nat → Nat → Nat → List Nat
  | 0, _, _ => []
  | n + 1, x, x' =>
    let link := fun (d : BitVec 2) => meshLink (die ++ y ++ BitVec.ofNat 5 x) d
    if x < x' then link 1 :: xPath die y n (x + 1) x'
    else if x' < x then link 3 :: xPath die y n (x - 1) x'
    else []

/-- The mesh links from row y to row y' of a column: direction 0 north (towards row 0), 2 south. -/
def yPath (die : BitVec 3) (x : BitVec 5) : Nat → Nat → Nat → List Nat
  | 0, _, _ => []
  | n + 1, y, y' =>
    let link := fun (d : BitVec 2) => meshLink (die ++ BitVec.ofNat 4 y ++ x) d
    if y < y' then link 2 :: yPath die x n (y + 1) y'
    else if y' < y then link 0 :: yPath die x n (y - 1) y'
    else []

/-- The mesh links of a die from a router to a router, each y × 32 + x: x first, then y (16 R366). -/
def legPath (die : BitVec 3) (p q : BitVec 9) : List Nat :=
  xPath die (p.extractLsb' 5 4) 32 (p.toNat % 32) (q.toNat % 32) ++ yPath die (q.extractLsb' 0 5) 16 (p.toNat / 32) (q.toNat / 32)

/-- The router of a unit of a die. -/
def unitAt (die : BitVec 3) (u : Nat) : BitVec 9 := Config.unitPlace die.toNat u

/-- Dies of a row crossed one after another: bridge 3 × row + c joins columns c and c + 1, and outward leads away from the lower die; the links
and the router at which the last bridge ends (DESIGN CHOICE, log 17). -/
def rowPath (row : Nat) : Nat → Nat → Nat → BitVec 9 → List Nat × BitVec 9
  | 0, _, _, p => ([], p)
  | n + 1, c, c', p =>
    let die := BitVec.ofNat 3 (4 * row + c)
    let cross := fun (out link into : Nat) (d : Nat) =>
      let r := rowPath row n d c' (unitAt (BitVec.ofNat 3 (4 * row + d)) into)
      (legPath die p (unitAt die out) ++ link :: r.1, r.2)
    if c < c' then cross 86 (outerLink (3 * row + c) false) 87 (c + 1)
    else if c' < c then cross 87 (outerLink (3 * row + c - 1) true) 86 (c - 1)
    else ([], p)

/-- The link directions from a router of a die to a router of a die: along the row of dies first, then to the other row over bridge 6 + c; on each
die x first, then y (16 R366; DESIGN CHOICE, log 17). -/
def placePath (a b : BitVec 3) (p q : BitVec 9) : List Nat :=
  let row := a.toNat / 4
  let c' := b.toNat % 4
  let r := rowPath row 4 (a.toNat % 4) c' p
  let die := BitVec.ofNat 3 (4 * row + c')
  if row = b.toNat / 4 then r.1 ++ legPath b r.2 q
  else r.1 ++ legPath die r.2 (unitAt die 88) ++ [outerLink (6 + c') (decide (row = 1))] ++ legPath b (unitAt b 88) q

/-- The router of a core on its die. -/
def coreAt (c : CoreId) : BitVec 9 := c.extractLsb' 0 9

/-- The link directions from a core to a core. -/
def corePath (a b : CoreId) : List Nat := placePath (dieOf a) (dieOf b) (coreAt a) (coreAt b)

/-- The link directions from a core to a unit of a die. -/
def unitPath (a : CoreId) (die : BitVec 3) (u : Nat) : List Nat := placePath (dieOf a) die (coreAt a) (unitAt die u)

/-- The link directions of a launch from the network interface of its entry die to the dispatcher of the target's die, and to the target core
(01 R12). -/
def launchPath (die : BitVec 3) (c : CoreId) : List Nat :=
  placePath die (dieOf c) (unitAt die 80) (unitAt (dieOf c) 80) ++ legPath (dieOf c) (unitAt (dieOf c) 80) (coreAt c)

/-- An owner owns a slot and a virtual channel of a link direction (13 R317). -/
def ownsLink (s : State) (part : BitVec 7) (link : Nat) : Bool :=
  (List.range 64).any (fun i => tabGet 0x40#7 s.links (link * 64 + i) == part)
    && (List.range 16).any (fun i => tabGet 0x40#7 s.vcs (link * 16 + i) == part)

/-- The monitor owns slot 0 and virtual channel 0 of every link direction (13 R317). -/
def pathOwned (s : State) (part : BitVec 7) (path : List Nat) : Bool := part.getLsbD 6 || path.all (ownsLink s part)

/-- A packet sent, or discarded with a containment event when its path needs a link direction on which its partition owns
no slot or no virtual channel (16 R366). -/
def sendPacket (s : State) (src : CtxId) (part : BitVec 7) (path : List Nat) (l : Load) : State :=
  if pathOwned s part path then
    { s with net := s.net ++ [{ src := src, part := part, load := l, route := path, link := none, chan := 0 }] }
  else contain s (part.extractLsb' 0 6)

/-- The link directions from a core to another module: to the Umavas link that the domain route names, and out over it (16 R378). The links of
other modules are not of this one (DESIGN CHOICE, log 58). -/
def modulePath (s : State) (c : CoreId) (m : Nat) : List Nat :=
  let k := tabGet 0 s.routes m % 24
  unitPath c (BitVec.ofNat 3 (k / 3)) (83 + k % 3) ++ [outerLink (16 + k) false]

/-- A word of a context still stands at its source: the network accepts no further one (12 R302). -/
def wordAtSource (s : State) (id : CtxId) : Bool :=
  s.net.any (fun p => p.src = id && p.link.isNone && (match p.load with
    | .word _ _ _ => true
    | _ => false))

/-- The L2 slice of its die that is the home of a line. -/
def sliceOf (num : Nat) : Nat := num % 2 ^ 30 % 80

/-- The link directions from the core in focus to the home slice of a physical address. -/
def homePath (s : State) (pa : Nat) : List Nat :=
  if pa / 2 ^ 46 = s.module.toNat then unitPath s.me.id.core (BitVec.ofNat 3 (pa / 2 ^ 37)) (sliceOf (pa / 128))
  else modulePath s s.me.id.core (pa / 2 ^ 46)

/-- Can a core of a partition reach the home of a physical address (16 R366)? -/
def reachable (s : State) (pa : Nat) : Bool := pathOwned s s.me.id.part (homePath s pa)

/-- The die of the system core of an owner (14 R327): the core that its core list has at the index given for it, `core` where the list has none
there (DESIGN CHOICE, log 99). -/
def systemDie (s : State) (part : BitVec 7) (core : CoreId) : BitVec 3 :=
  let r := ownerRec s part
  dieOf ((tabFind r.coreList r.sysIndex.toNat).getD core)

/-- Can what a core of an owner sends reach a unit of the die of the system core: the scheduler memory 81 or the barrier unit 82 (14 R327,
R331)? -/
def systemReach (s : State) (part : BitVec 7) (core : CoreId) (u : Nat) : Bool := pathOwned s part (unitPath core (systemDie s part core) u)

/-- What the core in focus sends to such a unit: without a path it is discarded with a containment event (16 R366). -/
def toSystem (s : State) (u : Nat) (k : Except Trap State) : Except Trap State :=
  if systemReach s s.me.id.part s.me.id.core u then k else .ok (contain s (myPart s))

end Sys2Proof.Machine
end

