-- ==== Sys2Proof/Machine/Mem.lean ====
section
/-! DEFINITION. The memory system: homes and the L2 (08 R174 to R178), translation (08 R179 to R181), the L1 (08 R169 to
R173), region ends and the race check (10), window memory and its regions (08 R162 to R168). -/

namespace Sys2Proof.Machine

/-! ## Homes (08 R174, R175) -/

/-- A local address that no DRAM backs (08 R174). -/
def isUnbacked (pa : Nat) : Bool := pa / 2 ^ 40 % 2 ^ 6 ≠ 0 || 0x1800000000 ≤ pa % 2 ^ 37

/-- The home slice of a line, die × 80 + slice (08 R174). -/
def homeSlice (num : Nat) : Nat := num / 2 ^ 30 % 8 * 80 + sliceOf num

/-- The L2 set of a line (08 R174). -/
def homeSet (num : Nat) : Nat := num % 2 ^ 30 / 80 % 4096

/-- The 128 bytes of a line as its home holds them. -/
def homeLine (m : List Host.Cell) (num : Nat) : BitVec 1024 := BitVec.ofNat 1024 (memNat m (num * 128) 128)

/-- The schemes that store a line compressed: zero, B8D3, B4D1 (08 R175). -/
def compressible (d : BitVec 1024) : Bool :=
  let w8 := fun i => d.extractLsb' (64 * i) 64
  let w4 := fun i => d.extractLsb' (32 * i) 32
  d == 0#1024
  || (List.range 16).all (fun i => (w8 i - w8 0 + 0x800000#64).toNat < 2 ^ 24)
  || (List.range 32).all (fun i => (w4 i - w4 0 + 128#32).toNat < 256)

/-- The way mask of a partition at a slice; the monitor may fill every way. -/
def wayMask (s : State) (part : BitVec 7) (slice : Nat) : BitVec 20 :=
  if part.getLsbD 6 then 0xFFFFF else tabGet 0 (partRec s (part.setWidth 6)).ways slice

/-- Half frames in use of a way of an L2 set. -/
def wayUse (l : List L2Line) (slice set way : Nat) : Nat :=
  ((l.filter (fun x => homeSlice x.num = slice ∧ homeSet x.num = set ∧ x.way = way)).map
    (fun x => if x.comp then 1 else 2)).sum

/-- A line of the set with registered grains of an open region is pinned (10 R236). -/
def isOpen (g : Grain) : Bool := (g.rel.headD none).isNone

def isPinned (s : State) (num : Nat) : Bool := s.grains.any (fun g => g.grain / 16 = num && isOpen g)

/-- The DRAM controllers of a line's die serve an owner only in the slots of the memory calendar that are its own (08 R178); the
calendars of another module are not of this one. -/
def dramOk (s : State) (part : BitVec 7) (num : Nat) : Bool :=
  num / 2 ^ 39 != s.module.toNat || part.getLsbD 6
    || (List.range 64).any (fun i => tabGet 0x40#7 s.dram (num / 2 ^ 30 % 8 * 64 + i) == part)

/-- May a line leave the L2: it is not pinned, and a dirty one can be written back in a slot of its partition (08 R176 to R178). -/
def canEvict (s : State) (x : L2Line) : Bool := !isPinned s x.num && (!x.dirty || dramOk s x.part x.num)

/-- The ways that a partition may fill for a line. -/
def fillWays (s : State) (part : BitVec 7) (num : Nat) : List Nat :=
  (List.range 20).filter (fun w => (wayMask s part (homeSlice num)).getLsbD w)

/-- The other lines of the L2 set of a line. -/
def setMates (s : State) (num : Nat) : List L2Line :=
  s.l2.filter (fun x => x.num ≠ num && homeSlice x.num == homeSlice num && homeSet x.num == homeSet num)

/-- The way of the mask that takes a line: the first with room, else the way of the least recently used frame whose lines may all
leave (08 R176, R177). -/
def l2Room (s : State) (part : BitVec 7) (num need : Nat) : Option Nat :=
  let ways := fillWays s part num
  let mates := setMates s num
  match ways.find? (fun w => wayUse mates (homeSlice num) (homeSet num) w + need ≤ 2) with
  | some w => some w
  | none =>
    (((mates.map (fun x => x.way)).filter ways.contains).eraseDups.reverse).find? (fun w =>
      (mates.filter (fun x => x.way = w)).all (canEvict s))

/-- Half frames that a line takes (08 R175). -/
def halves (d : BitVec 1024) : Nat := if compressible d then 1 else 2

/-- The L2 with a line put at the front; the lines of a frame without room for it leave, dirty ones by a write-back to DRAM. -/
def l2Place (s : State) (x : L2Line) (way : Nat) (need : Nat) : List L2Line :=
  let rest := s.l2.filter (fun y => y.num ≠ x.num)
  { x with way := way } ::
    (if wayUse rest (homeSlice x.num) (homeSet x.num) way + need ≤ 2 then rest
     else rest.filter (fun y => !(homeSlice y.num == homeSlice x.num && homeSet y.num == homeSet x.num && y.way == way)))

/-- A line allocated with the bytes that its home has now, or rewritten in a frame of its own; without ways in the mask the line stands in
no frame, and writes go through to DRAM (08 R176). -/
def l2Fill (s : State) (x : L2Line) : List L2Line :=
  let d := homeLine s.mem x.num
  match l2Room s x.part x.num (halves d) with
  | some w => l2Place s { x with comp := compressible d } w (halves d)
  | none => s.l2.filter (fun y => y.num ≠ x.num)

/-- Whether a home can serve an access now: it goes on, waits for a slot of the memory calendar, or waits for pins of the set. -/
inductive Home where
  | go | slot | pins
  deriving DecidableEq, Repr

/-- A frame of the mask for a line: there is one, or with no way in the mask the line goes to DRAM past the L2; else the access waits for
pins where every way holds a pinned line, and for a slot of a dirty line where not (08 R176 to R178, R185). A read waits for a frame as a
write does (DESIGN CHOICE, log 88). -/
def frameState (s : State) (part : BitVec 7) (num need : Nat) : Home :=
  let ways := fillWays s part num
  if ways.isEmpty then (if dramOk s part num then .go else .slot)
  else if (l2Room s part num need).isSome then .go
  else if ways.all (fun w => (setMates s num).any (fun x => x.way = w && isPinned s x.num)) then .pins
  else .slot

/-- An access of a partition to a line whose bytes are d afterwards (08 R175 to R178, R185). A line that is not in the L2 needs
DRAM and a frame; one whose compressed frame it outgrows needs a frame. -/
def homeState (s : State) (part : BitVec 7) (num : Nat) (d : BitVec 1024) : Home :=
  match s.l2.find? (fun x => x.num = num) with
  | some x => if x.comp && !compressible d then frameState s part num 2 else .go
  | none => if dramOk s part num then frameState s part num (halves d) else .slot

/-- A read of a line, as its home can serve it. -/
def readState (s : State) (part : BitVec 7) (num : Nat) : Home := homeState s part num (homeLine s.mem num)

/-- A read that reaches the home slice: a hit refreshes the order of use, a miss fills (08 R176). -/
def l2Touch (s : State) (part : BitVec 7) (num : Nat) : State :=
  match s.l2.find? (fun x => x.num = num) with
  | some x => { s with l2 := x :: s.l2.filter (fun y => y.num ≠ num) }
  | none =>
    if (fillWays s part num).isEmpty then s
    else { s with l2 := l2Fill s { num := num, part := part, way := 0, comp := false, dirty := false, old := 0 } }

/-- A write that has reached the home slice: the line is dirty and keeps what DRAM holds; one that is no longer compressible takes
a whole frame (08 R175, R185). -/
def l2Store (s : State) (part : BitVec 7) (num : Nat) (old : BitVec 1024) : State :=
  match s.l2.find? (fun x => x.num = num) with
  | some x =>
    let y := { x with dirty := true, old := if x.dirty then x.old else old }
    if x.comp && !compressible (homeLine s.mem num) then { s with l2 := l2Fill s { y with part := part } }
    else { s with l2 := { y with comp := compressible (homeLine s.mem num) } :: s.l2.filter (fun z => z.num ≠ num) }
  | none =>
    if (fillWays s part num).isEmpty then s
    else { s with l2 := l2Fill s { num := num, part := part, way := 0, comp := false, dirty := true, old := old } }

/-- Performance events 0x04 and 0x05 of an access of the context in focus at the home slice (14 R336). -/
def countHome (s : State) (num : Nat) : State :=
  countEvent s (if s.l2.any (fun x => x.num = num) then 0x04 else 0x05) 1

/-- A read of the context in focus at the home slice. -/
def homeTouch (s : State) (num : Nat) : State := l2Touch (countHome s num) s.me.id.part num

/-- A read finds the line of an address uncorrectable (08 R183). -/
def badLine (s : State) (pa : Nat) : Bool := s.bad.contains (pa / 128) || s.retired.contains (pa / 128)

/-- A write of all 128 bytes of a line takes it out of the retirement list (08 R183). -/
def repairLine (s : State) (num : Nat) : State :=
  { s with bad := s.bad.filter (· ≠ num), retired := s.retired.filter (· ≠ num) }

/-- The lines of the bytes [pa, pa + n). -/
def linesOf (pa n : Nat) : List Nat := (List.range ((pa + n - 1) / 128 - pa / 128 + 1)).map (· + pa / 128)

/-- Home memory changed in some lines by a partition (08 R176). -/
def homeCommit (s : State) (part : BitVec 7) (m : List Host.Cell) (nums : List Nat) : State :=
  nums.foldl (fun t num => l2Store t part num (homeLine s.mem num)) { s with mem := m }

/-- The lines of a range that it covers wholly are repaired (08 R183). -/
def repairRange (s : State) (pa n : Nat) : State :=
  (linesOf pa n).foldl (fun t num => if pa ≤ num * 128 ∧ num * 128 + 128 ≤ pa + n then repairLine t num else t) s

/-- Can every line of [pa, pa + n) be written by the context in focus, when memory is m afterwards? -/
def writable (s : State) (pa n : Nat) (m : List Host.Cell) : Bool :=
  (linesOf pa n).all (fun num => homeState s s.me.id.part num (homeLine m num) == .go)

/-- Bytes of the context in focus written at the home slice by an engine or an atomic. -/
def homeWrite (s : State) (pa n v : Nat) : State :=
  repairRange (homeCommit ((linesOf pa n).foldl countHome s) s.me.id.part (memPut s.mem pa n v) (linesOf pa n)) pa n

/-! ## Translation (08 R179 to R181) -/

/-- What an access needs. -/
structure Need where
  read : Bool
  write : Bool
  exec : Bool
  deriving DecidableEq, Repr

def Perm.allows (p : Perm) (n : Need) : Bool := (!n.read || p.read) && (!n.write || p.write) && (!n.exec || p.exec)

def needRead : Need := { read := true, write := false, exec := false }
def needWrite : Need := { read := false, write := true, exec := false }
def needBoth : Need := { read := true, write := true, exec := false }
def needExec : Need := { read := false, write := false, exec := true }
def needNone : Need := { read := false, write := false, exec := false }

/-- A leaf: base, size as log2, permissions. -/
structure Leaf where
  base : Nat
  bits : Nat
  perm : Perm
  prog : Bool
  deriving DecidableEq, Repr

def Leaf.allows (l : Leaf) (n : Need) : Bool := l.perm.allows n

/-- How a stage-2 walk ends: a leaf, the stage-2 fault, a page in the pull state, or an uncorrectable table word. -/
inductive S2 where
  | leaf (l : Leaf)
  | bad
  | pull
  | lost (num : Nat)
  deriving DecidableEq, Repr

/-- The index of an address at a level (08 R179). -/
def levelIndex (level : Nat) (a : Nat) : Nat :=
  match level with
  | 1 => a / 2 ^ 42 % 64
  | 2 => a / 2 ^ 29 % 8192
  | _ => a / 2 ^ 16 % 8192

/-- The base field of a table entry. -/
def entryBase (w : Word) : Nat := (w.extractLsb' 16 36).toNat * 2 ^ 16

/-- The zero fields of a table entry (08 R180). -/
def entryZero (w : Word) : Bool := w.extractLsb' 52 12 == 0#12 && w.extractLsb' 6 10 == 0#10

/-- The permission bits of a table entry. -/
def entryPerm (w : Word) : Perm := { read := w.getLsbD 2, write := w.getLsbD 3, exec := w.getLsbD 4 }

/-- A stage-2 walk from a table at a level, with fuel for the levels that remain (08 R179, R180). At level 2 [5] marks a leaf; at
level 3 every entry is one. A malformed entry is a stage-2 fault (DESIGN CHOICE, log 94). -/
def stage2From (s : State) (ipa : Nat) : Nat → Nat → Nat → S2
  | 0, _, _ => .bad
  | fuel + 1, level, table =>
    let adr := table + 8 * levelIndex level ipa
    if badLine s adr then .lost (adr / 128)
    else
      let w : Word := BitVec.ofNat 64 (memNat s.mem adr 8)
      let st := w.extractLsb' 0 2
      let leaf := w.getLsbD 5 || level == 3
      let perm : Leaf := { base := entryBase w, bits := if level = 2 then 29 else 16, perm := entryPerm w, prog := true }
      if !entryZero w || st == 0#2 || st == 3#2 then .bad
      else if leaf then
        if level = 1 || (level = 2 && (perm.base % 2 ^ 29 ≠ 0 || st == 2#2)) then .bad
        else if st == 2#2 then .pull
        else if isUnbacked perm.base then .bad
        else .leaf perm
      else if st == 2#2 then .bad
      else stage2From s ipa fuel (level + 1) perm.base

/-- Stage 2 of a partition address (08 R179): the walk from the base in force. -/
def stage2 (s : State) (p : BitVec 6) (ipa : Nat) : S2 :=
  if 2 ^ 48 ≤ ipa then .bad else stage2From s ipa 3 1 (partRec s p).mstageEff.toNat

/-- The lines that a stage-2 walk reads. -/
def stage2Lines (s : State) (ipa : Nat) : Nat → Nat → Nat → List Nat
  | 0, _, _ => []
  | fuel + 1, level, table =>
    let adr := table + 8 * levelIndex level ipa
    let w : Word := BitVec.ofNat 64 (memNat s.mem adr 8)
    adr / 128 :: (if badLine s adr || !entryZero w || w.extractLsb' 0 2 != 1#2 || w.getLsbD 5 || level == 3 then []
                  else stage2Lines s ipa fuel (level + 1) (entryBase w))

def stage2Reads (s : State) (p : BitVec 6) (ipa : Nat) : List Nat :=
  if 2 ^ 48 ≤ ipa then [] else stage2Lines s ipa 3 1 (partRec s p).mstageEff.toNat

/-- How a translation ends: an entry, a fault, or a wait on a page in the pull state or on a slot of the memory calendar. -/
inductive Xlat where
  | ok (e : TlbEntry)
  | trap (t : Trap)
  | pull (ipa : Nat)
  | wait
  deriving DecidableEq, Repr

/-- Stage 2 of a partition address with the permissions an access needs; a fault names the partition address. -/
def stage2Need (s : State) (p : BitVec 6) (ipa : Nat) (va : Word) (n : Need) (k : Leaf → Xlat) : Xlat :=
  match stage2 s p ipa with
  | .bad => .trap { cause := 0x06, value := BitVec.ofNat 64 ipa }
  | .pull => .pull ipa
  | .lost num => .trap { cause := 0x09, value := va, line := some num }
  | .leaf l => if l.allows n then k l else .trap { cause := 0x06, value := BitVec.ofNat 64 ipa }

/-- The combined translation of a stage-1 leaf and the stage-2 leaf of its address: the smaller page and the
intersected permissions (08 R181). -/
def combine (va : Nat) (l1 l2 : Leaf) : TlbEntry :=
  let bits := if l1.bits ≤ l2.bits then l1.bits else l2.bits
  let ipa := l1.base + va % 2 ^ l1.bits
  { vbase := va / 2 ^ bits * 2 ^ bits, ipa := ipa / 2 ^ bits * 2 ^ bits, s2bits := l2.bits,
    pbase := (l2.base + ipa % 2 ^ l2.bits) / 2 ^ bits * 2 ^ bits, bits := bits, perm1 := l1.perm, perm2 := l2.perm,
    prog := l1.prog }

/-- A stage-1 entry at a level that no walk passes: invalid or malformed (08 R180); so is a base of 2^48 or more (DESIGN CHOICE, log 94). -/
def entryBad (w : Word) (level : Nat) : Bool :=
  let leaf := w.getLsbD 1
  !w.getLsbD 0 || !entryZero w || (leaf && level == 1) || (!leaf && level == 3)
    || (leaf && level == 2 && entryBase w % 2 ^ 29 != 0) || 2 ^ 48 ≤ entryBase w

/-- A stage-1 leaf entry. -/
def entryLeaf (w : Word) (level : Nat) : Leaf :=
  { base := entryBase w, bits := if level = 2 then 29 else 16, perm := entryPerm w, prog := w.getLsbD 5 }

/-- Does a stage-1 leaf refuse an access (08 R180)? -/
def leafRefuses (l : Leaf) (program : Bool) (n : Need) : Bool := !l.allows n || (program && !l.prog)

/-- A stage-1 walk (08 R180): each table entry is read through stage 2. -/
def stage1From (s : State) (p : BitVec 6) (va : Word) (program : Bool) (n : Need) : Nat → Nat → Nat → Xlat
  | 0, _, _ => .trap { cause := 0x04, value := va }
  | fuel + 1, level, table =>
    let ipa := table + 8 * levelIndex level va.toNat
    stage2Need s p ipa va needRead (fun l =>
      let pa := l.base + ipa % 2 ^ l.bits
      if badLine s pa then .trap { cause := 0x09, value := va, line := some (pa / 128) }
      else
        let w : Word := BitVec.ofNat 64 (memNat s.mem pa 8)
        let l1 := entryLeaf w level
        if entryBad w level then .trap { cause := 0x04, value := va }
        else if !w.getLsbD 1 then stage1From s p va program n fuel (level + 1) l1.base
        else if leafRefuses l1 program n then .trap { cause := 0x05, value := va }
        else stage2Need s p (l1.base + va.toNat % 2 ^ l1.bits) va n (fun l2 => .ok (combine va.toNat l1 l2)))

/-- What a stage-1 walk meets (08 R181): `f` of the partition address of each of its stage-2 walks, and `g` of the physical
address of each stage-1 entry that it reads. -/
def stage1Trace (f g : Nat → List Nat) (s : State) (p : BitVec 6) (va : Word) (program : Bool) (n : Need) : Nat → Nat → Nat → List Nat
  | 0, _, _ => []
  | fuel + 1, level, table =>
    let ipa := table + 8 * levelIndex level va.toNat
    f ipa ++ (match stage2 s p ipa with
      | .leaf l =>
        if !l.allows needRead then []
        else
          let pa := l.base + ipa % 2 ^ l.bits
          let w : Word := BitVec.ofNat 64 (memNat s.mem pa 8)
          let l1 := entryLeaf w level
          g pa ++ (if badLine s pa || entryBad w level then []
                   else if !w.getLsbD 1 then stage1Trace f g s p va program n fuel (level + 1) l1.base
                   else if leafRefuses l1 program n then []
                   else f (l1.base + va.toNat % 2 ^ l1.bits))
      | _ => [])

def fullPerm : Perm := { read := true, write := true, exec := true }

/-- The identity at monitor privilege onto the module's own local addresses (16 R379, DEDUCED, log 13). -/
def monitorXlat (s : State) (va : Word) : Xlat :=
  if isUnbacked va.toNat || 2 ^ 46 ≤ va.toNat then .trap { cause := 0x06, value := va }
  else .ok { vbase := va.toNat / 2 ^ 16 * 2 ^ 16, ipa := va.toNat / 2 ^ 16 * 2 ^ 16, s2bits := 16,
             pbase := s.module.toNat * 2 ^ 46 + va.toNat / 2 ^ 16 * 2 ^ 16, bits := 16, perm1 := fullPerm, perm2 := fullPerm,
             prog := true }

/-- A walk for a context at a privilege (08 R179): KTT 0 is the identity at system privilege. -/
def walk (s : State) (c : Ctx) (pr : BitVec 2) (va : Word) (n : Need) : Xlat :=
  if isMonitor c || pr == 2#2 then monitorXlat s va
  else
    let p := c.id.part.extractLsb' 0 6
    if c.sys.kttEff = 0#64 then
      if pr = 0#2 then .trap { cause := 0x04, value := va }
      else stage2Need s p va.toNat va n (fun l2 =>
        .ok (combine va.toNat { base := va.toNat / 2 ^ 29 * 2 ^ 29, bits := 29, perm := fullPerm, prog := false } l2))
    else stage1From s p va (pr = 0#2) n 3 1 c.sys.kttEff.toNat

/-- What a walk for a context meets (08 R179). -/
def walkTrace (f g : Nat → List Nat) (s : State) (c : Ctx) (pr : BitVec 2) (va : Word) (n : Need) : List Nat :=
  let p := c.id.part.extractLsb' 0 6
  if c.sys.kttEff = 0#64 then if pr = 0#2 then [] else f va.toNat
  else stage1Trace f g s p va (pr = 0#2) n 3 1 c.sys.kttEff.toNat

/-- The lines that a walk reads in the L2 (08 R181). -/
def walkLines (s : State) (c : Ctx) (pr : BitVec 2) (va : Word) (n : Need) : List Nat :=
  walkTrace (stage2Reads s (c.id.part.extractLsb' 0 6)) (fun pa => [pa / 128]) s c pr va n

/-- The partition addresses that a walk sends through stage 2. -/
def walkAddresses (s : State) (c : Ctx) (pr : BitVec 2) (va : Word) (n : Need) : List Nat :=
  walkTrace (fun ipa => [ipa]) (fun _ => []) s c pr va n

/-- A TLB entry that covers an address. -/
def tlbHit (c : Ctx) (va : Word) : Option TlbEntry := c.tlb.find? (fun e => e.vbase = va.toNat / 2 ^ e.bits * 2 ^ e.bits)

/-- A hit decides with the permissions it holds, whatever the tables say now: a change to a table entry affects translation only after
the TLBI family removes the entry (08 R181). The stage that refuses names the fault. -/
def hitXlat (c : Ctx) (e : TlbEntry) (pr : BitVec 2) (va : Word) (n : Need) : Xlat :=
  if c.sys.kttEff = 0#64 ∧ pr = 0#2 then .trap { cause := 0x04, value := va }
  else if !e.perm1.allows n || (pr == 0#2 && !e.prog) then .trap { cause := 0x05, value := va }
  else if !e.perm2.allows n then .trap { cause := 0x06, value := BitVec.ofNat 64 (e.ipa + va.toNat % 2 ^ e.bits) }
  else .ok e

/-- The context in the other set of the core in focus. -/
def otherCtx (s : State) : Option CtxId :=
  let r := myCore s
  if r.setA.ctx = some s.me.id then r.setB.ctx else if r.setB.ctx = some s.me.id then r.setA.ctx else none

/-- A translation installed: a core holds 256 entries, and a full TLB loses the oldest one of its other set, else of this one
(08 R181; replacement is a DESIGN CHOICE, log 63). -/
def installTlb (s : State) (e : TlbEntry) : State :=
  let own := e :: s.me.tlb
  match (otherCtx s).bind (rawCtx s) with
  | none => { s with me.tlb := own.take 256 }
  | some c =>
    if own.length + c.tlb.length ≤ 256 then { s with me.tlb := own }
    else if c.tlb.isEmpty then { s with me.tlb := own.take 256 }
    else putCtx { s with me.tlb := own } c.id { c with tlb := c.tlb.dropLast }

/-- Translation for the context in focus: the TLB, else a walk, which reads the tables through the L2, counts as a miss (event 0x06)
and is installed when it passes (08 R181). Monitor privilege uses no table (DEDUCED, log 13). -/
def xlate (s : State) (pr : BitVec 2) (va : Word) (n : Need) : State × Xlat :=
  if isMonitor s.me || pr == 2#2 then (s, monitorXlat s va)
  else match tlbHit s.me va with
    | some e => (s, hitXlat s.me e pr va n)
    | none =>
      let ls := walkLines s s.me pr va n
      if !ls.all (fun num => readState s s.me.id.part num == .go) then (s, .wait)
      else
        let t := ls.foldl homeTouch (countEvent s 0x06 1)
        match walk s s.me pr va n with
        | .ok e => (installTlb t e, .ok e)
        | .trap f => (t, .trap { f with base := some t })
        | x => (s, x)

/-- How an access ends before its data: a physical address, a fault or a wait. -/
inductive Acc where
  | ok (s : State) (pa : Nat)
  | trap (t : Trap)
  | stall (s : State)

/-- A page in the pull state that an access has met: one pull serves every access to it (16 R373). -/
def wantPull (s : State) (p : BitVec 6) (ipa : Nat) : State :=
  let key := (p, ipa / 2 ^ 16 * 2 ^ 16)
  if s.pulls.contains key then s else { s with pulls := key :: s.pulls }

/-- A translation as an access of the running handler meets it. -/
def translate (s : State) (pr : BitVec 2) (va : Word) (n : Need) : Acc :=
  match xlate s pr va n with
  | (t, .ok e) => .ok t (e.pbase + va.toNat % 2 ^ e.bits)
  | (_, .trap f) => .trap f
  | (_, .pull ipa) => .stall (wantPull s (myPart s) ipa)
  | (_, .wait) => .stall s

/-- The checks of 09 R187 on a cached access, then its translation. -/
def access (s : State) (pr : BitVec 2) (va : Word) (size : Nat) (n : Need) : Acc :=
  if va.toNat % size ≠ 0 then .trap { cause := 0x03, value := va }
  else if va.extractLsb' 48 16 ≠ 0#16 then .trap { cause := 0x04, value := va }
  else translate s pr va n

/-- Does the L1 hold the line, so that no memory request leaves the core? -/
def inL1 (s : State) (pa : Nat) : Bool := s.me.l1.any (fun l => l.num = pa / 128)

/-- A fault behind a walk: what the walk has done, its count among it, stands (08 R181, 14 R336). -/
def afterWalk (t : State) (r : Except Trap State) : Except Trap State :=
  match r with
  | .error f => .error { f with base := some (f.base.getD t) }
  | .ok u => .ok u

/-- An access of the running handler: at a stall nothing else changes, and the instruction issues again. A memory request
whose path the partition does not own is discarded with a containment event (16 R366). -/
def withAccess (s : State) (va : Word) (size : Nat) (n : Need) (k : State → Nat → Except Trap State) : Except Trap State :=
  match access s (priv s) va size n with
  | .ok t pa => if inL1 t pa || reachable t pa then afterWalk t (k t pa) else .ok (contain t (myPart t))
  | .trap t => .error t
  | .stall t => .ok (hold t)

/-! ## The L1 (08 R169 to R173) -/

def findLine (c : Ctx) (num : Nat) : Option Line := c.l1.find? (fun l => l.num = num)

/-- n bytes at an offset of a line. -/
def lineNat (d : BitVec 1024) (off n : Nat) : Nat := d.toNat / 2 ^ (8 * off) % 2 ^ (8 * n)

/-- The bytes [off, off + n) of a line as a mask of 1024 bits. -/
def lineMask (off n : Nat) : BitVec 1024 := BitVec.ofNat 1024 ((2 ^ (8 * n) - 1) * 2 ^ (8 * off))

/-- n bytes at an offset of a line replaced by the low bytes of v. -/
def lineSet (d : BitVec 1024) (off n v : Nat) : BitVec 1024 :=
  (d &&& ~~~ lineMask off n) ||| BitVec.ofNat 1024 (v % 2 ^ (8 * n) * 2 ^ (8 * off))

/-- The dirty mask of bytes [off, off + n). -/
def dirtyMask (off n : Nat) : BitVec 128 := BitVec.ofNat 128 ((2 ^ n - 1) * 2 ^ off)

/-- Home memory with the dirty bytes of a line merged in (08 R170). -/
def mergeLine (m : List Host.Cell) (l : Line) : Nat → List Host.Cell
  | 0 => m
  | i + 1 =>
    let m1 := mergeLine m l i
    if l.dirty.getLsbD i then memSet m1 (l.num * 128 + i) (l.data.extractLsb' (8 * i) 8) else m1

/-- The 64-bit words of a line with a byte in a mask, and those that lie in it wholly. -/
def someWords (d : BitVec 128) : BitVec 16 :=
  BitVec.ofNat 16 (((List.range 16).map (fun i => if d.extractLsb' (8 * i) 8 ≠ 0#8 then 2 ^ i else 0)).sum)
def wholeWords (d : BitVec 128) : BitVec 16 :=
  BitVec.ofNat 16 (((List.range 16).map (fun i => if d.extractLsb' (8 * i) 8 = 0xFF#8 then 2 ^ i else 0)).sum)

/-- A line with a dirty byte in an uncorrectable word, or whose home has one, cannot be written back, unless all its bytes are dirty and good
(08 R183, 15 R361). -/
def wbLost (s : State) (l : Line) : Bool :=
  l.dirty != 0#128 && (l.bad &&& someWords l.dirty != 0#16 || (badLine s (l.num * 128) && l.dirty != ~~~ 0#128))

/-- Write-back of a line: its dirty bytes reach the home slice; a wholly dirty line repairs a listed one. What an uncorrectable word
leaves cannot be read any more. -/
def writeBack (s : State) (l : Line) : State :=
  if l.dirty = 0#128 then s
  else
    let s1 := homeCommit (countHome s l.num) s.me.id.part (mergeLine s.mem l 128) [l.num]
    if wbLost s l then { s1 with bad := if s1.bad.contains l.num then s1.bad else l.num :: s1.bad }
    else if l.dirty = ~~~ 0#128 then repairLine s1 l.num else s1

/-- Write-back of every line of a list. -/
def writeBackAll (s : State) : List Line → State
  | [] => s
  | l :: ls => writeBackAll (writeBack s l) ls

/-- A write-back that no instruction forces: a line it loses faults at the next region end of the set (15 R361). -/
def quietBack (s : State) (ls : List Line) : State :=
  let s1 := writeBackAll s ls
  { s1 with me.lateBad := s1.me.lateBad ++ (ls.filter (wbLost s)).map (fun l => (l.num, l.va)) }

/-- Can the write-backs of a list all be served now, one after another? -/
def backsGo (s : State) : List Line → Bool
  | [] => true
  | l :: ls =>
    (l.dirty == 0#128 || homeState s s.me.id.part l.num (homeLine (mergeLine s.mem l 128) l.num) == .go) && backsGo (writeBack s l) ls

/-- Write back the dirty bytes of the set; the lines stay, clean (08 R171). -/
def cleanL1 (s : State) : State :=
  let s1 := writeBackAll s s.me.l1
  { s1 with me.l1 := s.me.l1.map (fun l => { l with dirty := 0 }) }

/-- The bytes of a dirty mask as a mask of 1024 bits. -/
def byteMask (d : BitVec 128) : BitVec 1024 :=
  BitVec.ofNat 1024 (((List.range 128).map (fun i => if d.getLsbD i then 255 * 2 ^ (8 * i) else 0)).sum)

/-- A line as a fill brings it from its home; an uncorrectable home gives uncorrectable words (08 R183). -/
def fillLine (s : State) (num : Nat) (ro : Bool) : Line :=
  { num := num, ro := ro, data := homeLine s.mem num, dirty := 0, bad := if s.bad.contains num then ~~~ 0 else 0 }

/-- A partly dirty line keeps its dirty bytes and takes the others from its home (10 R235, DEDUCED, log 64). -/
def refreshLine (s : State) (l : Line) : Line :=
  if l.ro || l.dirty = 0#128 then l
  else
    { l with data := (l.data &&& byteMask l.dirty) ||| (homeLine s.mem l.num &&& ~~~ byteMask l.dirty),
             bad := (l.bad &&& someWords l.dirty) ||| ((if s.bad.contains l.num then ~~~ 0 else 0) &&& ~~~ someWords l.dirty) }

/-- Invalidate every clean line that carries no read-only mark (08 R171); no clean byte of a dirty line stays either. -/
def dropClean (s : State) : State :=
  { s with me.l1 := (s.me.l1.filter (fun l => l.ro || l.dirty ≠ 0#128)).map (refreshLine s) }

/-- Write back and invalidate one line (08 R170, R172, R198). -/
def dropLine (s : State) (num : Nat) : State :=
  match findLine s.me num with
  | none => s
  | some l => let s1 := writeBack s l; { s1 with me.l1 := s.me.l1.filter (fun x => x.num ≠ num) }

/-- The ways the set in focus may fill: 8 while the other set is Active, or Frozen with L1 lines, or Parking with lines not yet written back, else
16 (01 R9, 08 R169; the last DEDUCED from the 16 ways of R161, log 89). -/
def l1Ways (s : State) : Nat :=
  match otherCtx s with
  | none => 16
  | some id =>
    let lines : Bool := match rawCtx s id with | some c => !c.l1.isEmpty | none => false
    if setState s id = .active ∨ ((setState s id = .frozen ∨ setState s id = .parking) ∧ lines) then 8 else 16

/-- Of lines in order of use, those that n ways hold: per L1 set the first n (08 R169). -/
def keepWays (n : Nat) : List Line → List Line → List Line
  | [], _ => []
  | l :: ls, seen =>
    if (seen.filter (fun x => x.num % 256 = l.num % 256)).length < n then l :: keepWays n ls (l :: seen)
    else keepWays n ls (l :: seen)

/-- The lines that leave when a line comes to the front: the least recently used of its L1 set beyond the ways (08 R169). -/
def evictees (s : State) (num : Nat) : List Line :=
  (s.me.l1.filter (fun x => x.num ≠ num && x.num % 256 = num % 256)).drop (l1Ways s - 1)

/-- A line put at the front. -/
def putLine (s : State) (l : Line) : State :=
  let out := evictees s l.num
  let s1 := writeBackAll s out
  { s1 with me.l1 := l :: s.me.l1.filter (fun x => x.num ≠ l.num && !out.contains x) }

/-- The line of a physical address as a plain access (ro false) or the read-only path and fetch (ro true) finds or fills
it (08 R172). The line comes to the front. -/
def l1Line (s : State) (num : Nat) (ro : Bool) : State × Line :=
  let fill := fun (t : State) =>
    let l := fillLine t num ro
    (putLine (homeTouch (countEvent t 0x03 1) num) l, l)
  match findLine s.me num with
  | some l => if l.ro = ro then (putLine (countEvent s 0x02 1) l, l) else fill (dropLine s num)
  | none => fill s

/-- Does the L1 serve an access of a kind without its home? -/
def l1Hits (s : State) (num : Nat) (ro : Bool) : Bool :=
  match findLine s.me num with
  | some l => l.ro == ro
  | none => false

/-- A read of [pa, pa + size) would meet an uncorrectable word: in the line held, or at the home of a line to be filled; a line of the
retirement list faults wherever it is read (08 R183). -/
def readLost (s : State) (pa size : Nat) (ro : Bool) : Bool :=
  match findLine s.me (pa / 128) with
  | none => badLine s pa
  | some l =>
    if l.ro = ro then
      s.retired.contains l.num || l.bad &&& someWords (dirtyMask (pa % 128) size) != 0#16
    else badLine s pa && l.dirty != ~~~ 0#128

/-- The uncorrectable-data fault of a read. -/
def lostTrap (va : Word) (pa : Nat) : Trap := { cause := 0x09, value := va, line := some (pa / 128) }

/-- A read through the L1. -/
def l1Read (s : State) (pa size : Nat) (ro : Bool) : State × Nat :=
  let r := l1Line s (pa / 128) ro
  (r.1, lineNat r.2.data (pa % 128) size)

/-- A store into the L1: allocate, write the bytes and mark them dirty (08 R170); a word written whole is good again. -/
def l1Write (s : State) (pa size v : Nat) : State :=
  let r := l1Line s (pa / 128) false
  let d := dirtyMask (pa % 128) size
  putLine r.1 { r.2 with data := lineSet r.2.data (pa % 128) size v, dirty := r.2.dirty ||| d, bad := r.2.bad &&& ~~~ wholeWords d }

/-- The virtual address by which a store reached its line, for a fault of its write-back. -/
def noteVa (s : State) (num : Nat) (va : Word) : State :=
  { s with me.l1 := s.me.l1.map (fun l => if l.num = num then { l with va := va } else l) }

/-- What an access asks of a home before it completes: to take a write-back, or to give a line. -/
inductive HomeReq where
  | back (l : Line)
  | fetch (num : Nat)
  deriving DecidableEq, Repr

/-- The home requests of an access of a kind, in order: a copy with the other mark goes, the line comes, and the lines beyond the ways go. -/
def fillReqs (s : State) (num : Nat) (ro : Bool) : List HomeReq :=
  (match findLine s.me num with
   | some l => if l.ro = ro then [] else [.back l]
   | none => []) ++ (if l1Hits s num ro then [] else [.fetch num]) ++ (evictees s num).map .back

/-! ## Region ends and races (10 R230 to R236) -/

/-- The running entry, for the tags of registrations. -/
def runEntry (s : State) : BitVec 5 := s.me.run.getD 0

/-- The least scope that covers both of two contexts: core only for one context set (10 R231). -/
def scopeOf (a b : CtxId) : Nat := if a = b then 0 else if dieOf a.core = dieOf b.core then 1 else 2

/-- Is every earlier access of a registration ordered before an access of entry e of context c now (10 R232)? -/
def ordered (g : Grain) (c : CtxId) (e : Entry) : Bool :=
  let lvl := scopeOf g.ctx c
  match g.rel[lvl]?.getD none with
  | none => false
  | some t => t.toNat < (e.acq[lvl]?.getD 0).toNat

/-- The accesses of bytes [pa, pa + size) that race with one by the running handler (10 R232). -/
def races (s : State) (pa size : Nat) (write plain : Bool) : Bool :=
  let e := getEntry s.me (runEntry s)
  s.grains.any (fun g =>
    pa / 8 ≤ g.grain && g.grain ≤ (pa + size - 1) / 8
    && !(g.ctx = s.me.id && g.entry = runEntry s)
    && (g.plain || plain) && (g.write || write)
    && !ordered g s.me.id e)

/-- Registration of the running handler's access to one grain: the latest of its kind is kept (10 R234). -/
def register1 (s : State) (grain : Nat) (write plain : Bool) : State :=
  let g : Grain := { grain := grain, ctx := s.me.id, entry := runEntry s, write := write, plain := plain, seq := s.tick,
                     rel := [none, none, none, none] }
  { s with grains := g :: s.grains.filter (fun x =>
      !(x.grain = grain && x.ctx = s.me.id && x.entry = runEntry s && x.write = write && x.plain = plain)) }

def register (s : State) (pa size : Nat) (write plain : Bool) : State :=
  ((List.range ((pa + size - 1) / 8 - pa / 8 + 1)).map (· + pa / 8)).foldl (fun t g => register1 t g write plain) s

/-- The pinned lines of a partition in a slice, in half frames (08 R177, 10 R236). -/
def pinnedHalves (s : State) (part : BitVec 7) (slice : Nat) : Nat :=
  (((s.grains.filter (fun g => isOpen g && g.ctx.part = part && homeSlice (g.grain / 16) = slice)).map
    (fun g => g.grain / 16)).dedup.map (fun n => if compressible (homeLine s.mem n) then 1 else 2)).sum

/-- Would registering a line pass the pinning limit (08 R177)? A slice in which the partition has no way, and the
monitor, have none (DESIGN CHOICE, log 14). -/
def pastPin (s : State) (pa : Nat) : Bool :=
  let num := pa / 128
  let slice := homeSlice num
  let part := s.me.id.part
  let ways := ((List.range 20).filter (fun w => (wayMask s part slice).getLsbD w)).length
  !isMonitor s.me && ways ≠ 0 && !isPinned s num
    && 2 * 2048 * ways < pinnedHalves s part slice + (if compressible (homeLine s.mem num) then 1 else 2)

/-- Is a handler stalled on the pinning limit of a slice (10 R236)? -/
def pinStalled (s : State) (slice : Nat) (id : CtxId) (entry : BitVec 5) : Bool :=
  match rawCtx s id with
  | some c => c.run == some entry && c.pinWait == some slice
  | none => false

/-- A pinned line that no region end frees while the running handler stalls: an open region of this handler, or of one stalled on the same
limit, has registered it (10 R236). -/
def stuckLine (s : State) (num : Nat) : Bool :=
  s.grains.any (fun g => g.grain / 16 == num && isOpen g
    && ((g.ctx == s.me.id && g.entry == runEntry s) || pinStalled s (homeSlice num) g.ctx g.entry))

/-- No region end can bring the partition below its pinning limit in a slice: every line that counts against it is stuck. -/
def limitHopeless (s : State) (slice : Nat) : Bool :=
  s.grains.all (fun g => !(isOpen g && g.ctx.part == s.me.id.part && homeSlice (g.grain / 16) == slice) || stuckLine s (g.grain / 16))

/-- No region end can free a frame for a line: every way of the mask holds a stuck line (08 R177, R185). -/
def framesHopeless (s : State) (num : Nat) : Bool :=
  (fillWays s s.me.id.part num).all (fun w => (setMates s num).any (fun x => x.way == w && stuckLine s x.num))

/-- An access that pins of a slice hold up: it stalls, or faults where the stall can never end (08 R177, R185; 10 R236). -/
def pinStall (s : State) (va : Word) (slice : Nat) (hopeless : Bool) : Except Trap State :=
  if hopeless then .error { cause := 0x08, value := va }
  else
    let t := holdFor s 0x0C
    .ok { t with me.pinWait := some slice }

/-- Why a home request is not served now: a write-back finds an uncorrectable word, no slot of the memory calendar is there, or pins of the
set hold it up (for a write-back, of a line with a virtual address). -/
inductive HomeStop where
  | lost (l : Line)
  | slot
  | pins (num : Nat) (va : Option Word)
  deriving DecidableEq, Repr

def stopOf (num : Nat) (va : Option Word) (h : Home) : Option HomeStop :=
  match h with
  | .go => none
  | .slot => some .slot
  | .pins => some (.pins num va)

def HomeReq.stop (s : State) : HomeReq → Option HomeStop
  | .back l =>
    if l.dirty = 0#128 then none
    else if wbLost s l then some (.lost l)
    else stopOf l.num (some l.va) (homeState s s.me.id.part l.num (homeLine (mergeLine s.mem l 128) l.num))
  | .fetch num => stopOf num none (readState s s.me.id.part num)

def HomeReq.serve (s : State) : HomeReq → State
  | .back l => writeBack s l
  | .fetch num => homeTouch s num

/-- The first of a list of home requests that is not served, each asked for after those before it. -/
def firstStop (s : State) : List HomeReq → Option HomeStop
  | [] => none
  | r :: rs => match r.stop s with
    | some x => some x
    | none => firstStop (r.serve s) rs

/-- The home requests of an instruction, all served before anything changes: an uncorrectable word met by a write-back is cause 0x09 at the
instruction, with KEVAL the virtual address of the line (15 R361, 09 R187; DESIGN CHOICE, log 65); a home that cannot serve one holds the
instruction. `va` is the address of the instruction's own access. -/
def guardHome (s : State) (va : Option Word) (rs : List HomeReq) (k : Except Trap State) : Except Trap State :=
  match firstStop s rs with
  | none => k
  | some (.lost l) => .error { cause := 0x09, value := l.va, line := some l.num }
  | some .slot => .ok (hold s)
  | some (.pins num a) => pinStall s (va.getD (a.getD 0)) (homeSlice num) (framesHopeless s num)

/-- The write-backs of an instruction that has no access of its own at an address. -/
def guardBack (s : State) (ls : List Line) (k : Except Trap State) : Except Trap State := guardHome s none (ls.map .back) k

/-- An access through the L1: its write-backs and the fill of a line that the set does not hold. -/
def guardLine (s : State) (va : Word) (num : Nat) (ro : Bool) (k : Except Trap State) : Except Trap State :=
  guardHome s (some va) (fillReqs s num ro) k

/-- Pinning, race check and registration of an access at the home slice (10 R232 to R236). The pinning limit is looked at before the races
(DESIGN CHOICE, log 90). -/
def checkedAccess (s : State) (va : Word) (pa size : Nat) (write plain : Bool) (k : State → Except Trap State) :
    Except Trap State :=
  if pastPin s pa then pinStall s va (homeSlice (pa / 128)) (limitHopeless s (homeSlice (pa / 128)))
  else if races s pa size write plain then .error { cause := 0x07, value := va }
  else k (register s pa size write plain)

/-- A plain access: the checks at the home slice, the L1, and the uncorrectable-data rule for reads (09 R187, R189). -/
def plainAccess (s : State) (va : Word) (pa size : Nat) (write : Bool) (k : State → Except Trap State) :
    Except Trap State :=
  checkedAccess s va pa size write true (fun u =>
    guardLine s va (pa / 128) false (if !write && readLost s pa size false then .error (lostTrap va pa) else k u))

/-- Set the first `scope + 1` levels of a registration that are still open to a time. -/
def closeLevels (now : Word) (scope : Nat) : Nat → List (Option Word) → List (Option Word)
  | _, [] => []
  | i, r :: rs => (if i ≤ scope ∧ r.isNone then some now else r) :: closeLevels now scope (i + 1) rs

/-- Does an atomic count as a write for the race check (10 R232)? -/
def AtomOp.writes : AtomOp → Bool
  | .load => false
  | _ => true

/-- Does a registration stand for an atomic that its handler has issued and that has not performed? It belongs to the region that follows the
end (14 R326). -/
def stillOut (s : State) (g : Grain) : Bool :=
  !g.plain && s.me.pend.any (fun p => match p.op with
    | .atomic a => a.entry == g.entry && a.op.writes == g.write && a.pa / 8 == g.grain
    | .value _ => false)

/-- The closures of a release end: the handler's registrations before a step are closed towards its scope (10 R234). -/
def closeGrains (s : State) (entry : BitVec 5) (before scope : Nat) : State :=
  { s with grains := s.grains.map (fun g =>
      if g.ctx = s.me.id ∧ g.entry = entry ∧ g.seq < before ∧ ¬ stillOut s g then
        { g with rel := closeLevels s.ktime scope 0 g.rel } else g) }

/-- A release end of the running handler (10 R230): write-back for a scope wider than core, then the closures. -/
def releaseEnd (s : State) (scope : Nat) : State :=
  closeGrains (if scope = 0 then s else cleanL1 s) (runEntry s) (s.tick + 1) scope

/-- The release of END, which does not wait for atomic stores (06 R132): its closure of a registration whose atomic has not performed comes
with that atomic (DEDUCED, log 66). -/
def endRelease (s : State) : State :=
  let t := releaseEnd s 3
  { t with me.pend := t.me.pend.map (fun p => match p.op with
      | .atomic a => if a.entry = runEntry s then { p with op := .atomic { a with ended := some (s.tick + 1) } } else p
      | .value _ => p) }

/-- What an instruction that ends a region meets first: a line that an earlier write-back lost (15 R361), and for a release wider than
core the write-backs of the set (08 R171). -/
def regionEnd (s : State) (release : Bool) (k : Except Trap State) : Except Trap State :=
  match s.me.lateBad with
  | n :: ns => .error { cause := 0x09, value := n.2, line := some n.1, base := some { s with me.lateBad := ns } }
  | [] => if release then guardBack s s.me.l1 k else k

/-- The acquire times of an entry raised for the levels a scope covers. -/
def raiseLevels (now : Word) (scope : Nat) : Nat → List Word → List Word
  | _, [] => []
  | i, t :: ts => (if i ≤ scope then now else t) :: raiseLevels now scope (i + 1) ts

/-- An acquire end of an entry of the context in focus (10 R230): clean unmarked lines go for a scope wider than core. -/
def acquireEnd (s : State) (entry : BitVec 5) (scope : Nat) : State :=
  let s1 := if scope = 0 then s else dropClean s
  let e := getEntry s1.me entry
  { s1 with me := setEntry s1.me entry { e with acq := raiseLevels s.ktime scope 0 e.acq } }

/-! ## Window memory (08 R162 to R168) -/

/-- A field of an element of the context's configuration. -/
def cfgField (c : Ctx) (elem field : Nat) : BitVec 16 := tabGet 0 c.fab.cfg (elem * 64 + field)

/-- A region descriptor: base, size in bytes, tag, swizzle (08 R163). -/
structure Region where
  base : Nat
  size : Nat
  tag : BitVec 3
  swz : BitVec 2
  deriving DecidableEq, Repr

def region (c : Ctx) (n : Nat) : Region :=
  let f := fun i => cfgField c (0x0D0 + n / 2) (n % 2 * 8 + i)
  { base := (f 0).toNat * 256, size := (f 1).toNat * 256, tag := (f 2).extractLsb' 0 3, swz := (f 2).extractLsb' 3 2 }

/-- The region that holds a window address. -/
def regionAt (c : Ctx) (a : Nat) : Option Region :=
  ((List.range 32).map (region c)).find? (fun r => r.base ≤ a && a < r.base + r.size)

/-- The place of a core's window byte in the module's window memory. -/
def winKey (core : CoreId) (a : Nat) : Nat := core.toNat * 2 ^ 20 + a

def winNat (s : State) (core : CoreId) (a n : Nat) : Nat := memNat s.win (winKey core a) n

/-- Bytes written to window memory. -/
def winPut (s : State) (core : CoreId) (a n v : Nat) : State := { s with win := memPut s.win (winKey core a) n v }

/-- A read of window bytes meets an uncorrectable word, or a line of the retirement list (08 R183). -/
def winLost (s : State) (core : CoreId) (a n : Nat) : Bool :=
  let first := winKey core a
  let last := winKey core a + n - 1
  s.winBad.any (fun w => first / 8 ≤ w && w ≤ last / 8) || s.retired.any (fun x => winLine first ≤ x && x ≤ winLine last)

/-- The line of a window byte has been written whole: it is good again and leaves the retirement list (08 R183). -/
def winRepair (s : State) (key : Nat) : State :=
  { s with winBad := s.winBad.filter (fun w => w / 16 ≠ key / 128), retired := s.retired.filter (fun x => x ≠ winLine key) }

/-- A write of n bytes of window memory by one row: the lines that it covers wholly are good again (08 R183). -/
def winPutRow (s : State) (core : CoreId) (a n v : Nat) : State :=
  (linesOf (winKey core a) n).foldl (fun t l =>
    if winKey core a ≤ 128 * l && 128 * l + 128 ≤ winKey core a + n then winRepair t (128 * l) else t) (winPut s core a n v)

/-- The uncorrectable-data fault of a window read, whose line is retired (09 R187, 08 R183). -/
def winTrap (core : CoreId) (a : Nat) : Trap :=
  { cause := 0x09, value := BitVec.ofNat 64 a, line := some (winLine (winKey core a)) }

/-- The region and tag checks of a window access (08 R162, R164). -/
def winCheck (c : Ctx) (a size : Nat) (tags : List (BitVec 3)) : Option Trap :=
  match regionAt c a with
  | none => some { cause := 0x05, value := BitVec.ofNat 64 a }
  | some r =>
    if r.base + r.size < a + size then some { cause := 0x05, value := BitVec.ofNat 64 (r.base + r.size) }
    else if tags.contains r.tag then none
    else some { cause := 0x0A, value := BitVec.ofNat 64 a }

/-- The checks of 09 R187 on a window access of a handler. -/
def winAccess (s : State) (va : Word) (size : Nat) (tags : List (BitVec 3)) (k : Nat → Except Trap State) :
    Except Trap State :=
  if va.toNat % size ≠ 0 then .error { cause := 0x03, value := va }
  else if va.extractLsb' 20 44 ≠ 0#44 then .error { cause := 0x05, value := va }
  else match winCheck s.me va.toNat size tags with
    | some t => .error t
    | none => k va.toNat

/-- Does a sync-word address lie in a sync-word area of the context (08 R167)? -/
def isSyncAt (c : Ctx) (a : Nat) : Bool := a % 16 = 0 && (winCheck c a 16 [2#3]).isNone

/-- SYNC_WORD_ARRIVAL: the sum is compared before it is cut to the 48 bits of the count (02 R49, DEDUCED, log 67). An arrival of n bytes changes a sync word indivisibly (08 R168); handlers of the context that
wait for the generation resume when it has changed. -/
def syncArrive (s : State) (id : CtxId) (a n : Nat) : State :=
  let lo := winNat s id.core a 8
  let hi := winNat s id.core (a + 8) 8
  let target := lo % 2 ^ 48
  let gen := lo / 2 ^ 48
  let count := hi % 2 ^ 48 + n
  let flags := hi / 2 ^ 48
  let gen' := (gen + 1) % 2 ^ 16
  let done := decide (target ≤ count)
  let count' := (if done then count - target else count) % 2 ^ 48
  let flags' := if done ∧ count ≠ target then flags ||| 1 else flags
  let s1 := winPut s id.core a 8 (target + (if done then gen' else gen) * 2 ^ 48)
  let s2 := winPut s1 id.core (a + 8) 8 (count' + flags' * 2 ^ 48)
  if done then
    updCtx s2 id (fun c => { c with htab := c.htab.map (fun e =>
      match e.why with
      | .sync addr _ => if addr.toNat = a then wake e else e
      | _ => e) })
  else s2

end Sys2Proof.Machine
end

