-- ==== Sys2Proof/Machine/Operands.lean ====
section
/-! DEFINITION. Operand forms: immediates, branch targets, effective addresses, bit fields, integer types, lanes and
packed trits (02 R41, 03 R55 to R58, 04 R76, 06 R112 to R118). -/

namespace Sys2Proof.Machine

/-- The effective address of an M-format access: base + disp7 × size (09 R189). -/
def effAddr (base : Word) (disp : BitVec 7) (size : Nat) : Word := base + disp.signExtend 64 * BitVec.ofNat 64 size

/-- The access size of a width code, 2^width[2:1] (09 R188). -/
def widthSize (w : BitVec 3) : Nat := 2 ^ (w.extractLsb' 1 2).toNat

/-- The value of a load: sign-extended for S8, S16 and S32 (09 R189). -/
def loadValue (w : BitVec 3) (v : Nat) : Word :=
  if w = 0#3 then (BitVec.ofNat 8 v).signExtend 64
  else if w = 2#3 then (BitVec.ofNat 16 v).signExtend 64
  else if w = 4#3 then (BitVec.ofNat 32 v).signExtend 64
  else BitVec.ofNat 64 v

/-- A branch target: the word's own address plus a signed count of words (04 R76). -/
def target {n : Nat} (pc : Word) (disp : BitVec n) : Word := pc + 4#64 * disp.signExtend 64

/-- An integer brought into −2^63 … 2^63 − 1 (06 R112). -/
def clampS64 (i : Int) : Word :=
  if i < -(2 ^ 63) then 0x8000000000000000#64 else if 2 ^ 63 - 1 < i then 0x7FFFFFFFFFFFFFFF#64 else BitVec.ofInt 64 i

/-- Leading zero bits (06 R114). -/
def clzWord (a : Word) : Nat := if a.toNat = 0 then 64 else 63 - a.toNat.log2

/-- Trailing zero bits (06 R114). -/
def ctzWord (a : Word) : Nat := ((List.range 64).find? (fun i => a.getLsbD i)).getD 64

/-- One bits (06 R114). -/
def popcWord (a : Word) : Nat := ((List.range 64).filter (fun i => a.getLsbD i)).length

/-- Bits reversed: bit i of the result is a[63 − i] (06 R114). -/
def brevWord (a : Word) : Word := BitVec.ofNat 64 (((List.range 64).map (fun i => if a.getLsbD i then 2 ^ (63 - i) else 0)).sum)

/-- Bytes reversed (06 R114). -/
def bswapWord (a : Word) : Word :=
  a.extractLsb' 0 8 ++ a.extractLsb' 8 8 ++ a.extractLsb' 16 8 ++ a.extractLsb' 24 8
    ++ a.extractLsb' 32 8 ++ a.extractLsb' 40 8 ++ a.extractLsb' 48 8 ++ a.extractLsb' 56 8

/-- Position and cut length of the field that a parameter register names (06 R115). -/
def fieldPos (b : Word) : Nat := (b.extractLsb' 0 6).toNat
def fieldLen (b : Word) : Nat := Nat.min (b.extractLsb' 8 7).toNat (64 - fieldPos b)

/-- The field zero-extended; 0 for length 0 (06 R115). -/
def extractN (a b : Word) : Word := BitVec.ofNat 64 (a.toNat / 2 ^ fieldPos b % 2 ^ fieldLen b)

/-- The field sign-extended; 0 for length 0 (06 R115). -/
def extractS (a b : Word) : Word :=
  let n := fieldLen b
  let v := a.toNat / 2 ^ fieldPos b % 2 ^ n
  if n = 0 then 0 else if v < 2 ^ (n - 1) then BitVec.ofNat 64 v else BitVec.ofInt 64 ((v : Int) - 2 ^ n)

/-- The low bits of a inserted into old (06 R115). -/
def insertField (old a b : Word) : Word :=
  let n := fieldLen b
  let mask : Word := BitVec.ofNat 64 ((2 ^ n - 1) * 2 ^ fieldPos b)
  (old &&& ~~~mask) ||| (BitVec.ofNat 64 (a.toNat % 2 ^ n * 2 ^ fieldPos b) &&& mask)

/-- One word folded into a rotate-add checksum (06 R116). -/
def csumStep (s w : BitVec 32) : BitVec 32 := s.rotateLeft 5 + w

/-- The eight conditions of CMPI and ICMP on w-bit patterns (04 R77). -/
def condHolds {w : Nat} (cond : BitVec 3) (a b : BitVec w) : Bool :=
  if cond = 0#3 then a == b
  else if cond = 1#3 then a != b
  else if cond = 2#3 then a.slt b
  else if cond = 3#3 then a.sle b
  else if cond = 4#3 then a.ult b
  else if cond = 5#3 then a.ule b
  else if cond = 6#3 then b.slt a
  else b.sle a

/-- Width in bits of an integer type code (04 R77). -/
def intWidth (t : BitVec 3) : Nat := 8 * 2 ^ (t.toNat / 2)

/-- Signed integer types have even codes. -/
def intSigned (t : BitVec 3) : Bool := !t.getLsbD 0

/-- The value of a w-bit pattern in an integer type. -/
def intOf (t : BitVec 3) (v : Nat) : Int :=
  let w := intWidth t
  let u := v % 2 ^ w
  if intSigned t ∧ 2 ^ (w - 1) ≤ u then (u : Int) - 2 ^ w else u

/-- The range of an integer type (03 R55). -/
def intMin (t : BitVec 3) : Int := if intSigned t then -(2 ^ (intWidth t - 1)) else 0
def intMax (t : BitVec 3) : Int := if intSigned t then 2 ^ (intWidth t - 1) - 1 else 2 ^ intWidth t - 1

/-- An exact integer brought to a type: clamped, or its low bits (03 R64). -/
def intNarrow (t : BitVec 3) (sat : Bool) (i : Int) : Nat :=
  let j := if sat then (if i < intMin t then intMin t else if intMax t < i then intMax t else i) else i
  (j % 2 ^ intWidth t).toNat

/-- The trits of a T5 byte, least significant first, as digits 0, 1, 2 (03 R57): the digit sequence of the spec. -/
def t5Digits (b : Byte) : List Nat :=
  let step := fun (p : Nat × List Nat) => ((p.1 * 3) % 256, (p.1 * 3) / 256 :: p.2)
  let f0 := (b.toNat * 0x10DB3 + 0xFEF3) / 2 ^ 16
  (step (step (step (step (step (f0, [])))))).2

/-- A legal T5 byte (03 R56). -/
def t5Legal (b : Byte) : Bool := b.toNat < 243

/-- Trits as S8 bytes: digit − 1. -/
def tritBytes (ds : List Nat) : List Byte := ds.map (fun (d : Nat) => BitVec.ofInt 8 ((d : Int) - 1))

/-- An S8 byte as a trit digit, when it is −1, 0 or 1. -/
def tritDigit (b : Byte) : Option Nat := if b = 0xFF#8 then some 0 else if b = 0#8 then some 1 else if b = 1#8 then some 2 else none

/-- Five digits packed (03 R56). -/
def t5Pack : List Nat → Nat
  | [] => 0
  | d :: ds => d + 3 * t5Pack ds

/-- Lane i of width w of a payload (00 R4). -/
def lane (v : Word) (w i : Nat) : Nat := v.toNat / 2 ^ (w * i) % 2 ^ w

/-- Lanes of width w joined, lane 0 lowest. -/
def joinLanes (w : Nat) : List Nat → Nat
  | [] => 0
  | x :: xs => x % 2 ^ w + 2 ^ w * joinLanes w xs

end Sys2Proof.Machine
end

