-- ==== Sys2Proof/Machine/Engine.lean ====
section
/-! DEFINITION. Accesses of engines, memory nodes and logs (09 R187, 10 R243, 15 R345), and the transfer record as an
engine reads and writes it (09 R204 to R213). -/

namespace Sys2Proof.Machine

/-- Why an engine access does not complete, so that the work it belongs to changes nothing: a fault of its unit, or a wait
with what it does to the state before the wait. -/
inductive Stop where
  | fault (t : Trap)
  | hold (f : State → State)

/-- The size as log2 of the stage-2 page of a partition address as the tables stand, 64 KiB where they have none. -/
def s2Size (s : State) (p : BitVec 6) (ipa : Nat) : Nat :=
  match stage2 s p ipa with
  | .leaf l => l.bits
  | _ => 16

/-- A stage-2 fault of an engine marks entry 0 of the monitor context of the die, once, and waits for a TLBIS (15 R345). -/
def refuseStage2 (s : State) (ipa : Nat) : State :=
  if s.refused.any (fun x => x.1 = s.me.id.part && x.2.1 = ipa) then s
  else
    let s1 := { s with refused := (s.me.id.part, ipa, s2Size s (myPart s) ipa) :: s.refused }
    updCtx s1 (monitorId (dieOf s.me.id.core)) (markSlot 0 { kind := 5, index := 6, arg := BitVec.ofNat 64 ipa })

/-- Does an engine access whose walk goes through a partition address wait for a TLBIS? -/
def awaitsTlbis (s : State) (ipa : Nat) : Bool :=
  s.refused.any (fun x => x.1 = s.me.id.part && x.2.1 / 2 ^ 16 = ipa / 2 ^ 16)

/-- The partition addresses that an engine access goes through: that of its page on a TLB hit, those of its walk else. -/
def engAddresses (s : State) (pr : BitVec 2) (va : Word) (n : Need) : List Nat :=
  if isMonitor s.me || pr == 2#2 then []
  else match tlbHit s.me va with
    | some e => [e.ipa + va.toNat % 2 ^ e.bits]
    | none => walkAddresses s s.me pr va n

/-- The checks and translation of an engine access of the context in focus at the privilege fixed for its work (09 R187): through
the TLB of its context, whose entries stand until the TLBI family removes them (08 R181). -/
def engXlat (s : State) (pr : BitVec 2) (va : Word) (size : Nat) (n : Need) : Except Stop (State × Nat) :=
  if va.toNat % size ≠ 0 then .error (.fault { cause := 0x03, value := va })
  else if va.extractLsb' 48 16 ≠ 0#16 then .error (.fault { cause := 0x04, value := va })
  else if (engAddresses s pr va n).any (awaitsTlbis s) then .error (.hold id)
  else match xlate s pr va n with
    | (t, .ok e) =>
      let pa := e.pbase + va.toNat % 2 ^ e.bits
      if reachable t pa then .ok (t, pa) else .error (.hold (fun x => contain x (s.me.id.part.extractLsb' 0 6)))
    | (_, .trap t) =>
      if t.cause = 0x06#8 then .error (.hold (fun x => refuseStage2 (counted x t) t.value.toNat)) else .error (.fault t)
    | (_, .pull ipa) => .error (.hold (fun x => wantPull x (s.me.id.part.extractLsb' 0 6) ipa))
    | (_, .wait) => .error (.hold id)

/-- An engine reads size bytes of cached memory, which lie in one line, at their home slice. -/
def engRead (s : State) (pr : BitVec 2) (va : Word) (size : Nat) : Except Stop (State × Nat × Nat) := do
  let (t, pa) ← engXlat s pr va size needRead
  if badLine t pa then .error (.fault { lostTrap va pa with base := some t })
  else if readState t t.me.id.part (pa / 128) ≠ .go then .error (.hold id)
  else .ok (homeTouch t (pa / 128), pa, memNat t.mem pa size)

/-- An engine writes size bytes of cached memory at their home slice. -/
def engWrite (s : State) (pr : BitVec 2) (va : Word) (size v : Nat) : Except Stop State := do
  let (t, pa) ← engXlat s pr va size needWrite
  if writable t pa size (memPut t.mem pa size v) then .ok (homeWrite t pa size v) else .error (.hold id)

/-- The physical addresses of n bytes from an address, translated where a page begins; a range has no alignment (DESIGN CHOICE, log 97). -/
def rangeXlat (s : State) (pr : BitVec 2) (need : Need) (va : Word) (prev : Option Nat) : Nat → Except Stop (State × List Nat)
  | 0 => .ok (s, [])
  | n + 1 => do
    let (t, pa) ← match prev with
      | some p => if va.toNat % 2 ^ 16 = 0 then engXlat s pr va 1 need else .ok (s, p + 1)
      | none => engXlat s pr va 1 need
    let (u, pas) ← rangeXlat t pr need (va + 1) (some pa) n
    .ok (u, pa :: pas)

/-- The lines of physical addresses, each once. -/
def linesAt (pas : List Nat) : List Nat := (pas.map (fun pa => pa / 128)).eraseDups

/-- An engine reads n bytes of cached memory at their home slices. -/
def readRange (s : State) (pr : BitVec 2) (va : Word) (n : Nat) : Except Stop (State × List Byte) := do
  let (t, pas) ← rangeXlat s pr needRead va none n
  match (pas.zipIdx).find? (fun p => badLine t p.1) with
  | some p => .error (.fault { lostTrap (va + BitVec.ofNat 64 p.2) p.1 with base := some t })
  | none =>
    if (linesAt pas).all (fun num => readState t t.me.id.part num == .go) then
      .ok ((linesAt pas).foldl homeTouch t, pas.map (memByte t.mem))
    else .error (.hold id)

/-- An engine writes bytes of cached memory at their home slices; the lines that they cover wholly are repaired (08 R183). -/
def writeRange (s : State) (pr : BitVec 2) (va : Word) (bs : List Byte) : Except Stop State := do
  let (t, pas) ← rangeXlat s pr needWrite va none bs.length
  let m := (pas.zip bs).foldl (fun m b => memSet m b.1 b.2) t.mem
  let nums := linesAt pas
  if nums.all (fun num => homeState t t.me.id.part num (homeLine m num) == .go) then
    let u := homeCommit (nums.foldl countHome t) t.me.id.part m nums
    .ok ((nums.filter (fun num => (pas.filter (fun pa => pa / 128 = num)).length = 128)).foldl repairLine u)
  else .error (.hold id)

/-- An engine's check of a window access of its context. -/
def engWin (s : State) (va : Word) (size : Nat) (tags : List (BitVec 3)) : Except Stop Nat :=
  if va.toNat % size ≠ 0 then .error (.fault { cause := 0x03, value := va })
  else if va.extractLsb' 20 44 ≠ 0#44 then .error (.fault { cause := 0x05, value := va })
  else match winCheck s.me va.toNat size tags with
    | some t => .error (.fault t)
    | none => .ok va.toNat

/-- A read in either space: state, whether it was of another module, and the value. -/
def spaceRead (s : State) (pr : BitVec 2) (window : Bool) (tags : List (BitVec 3)) (va : Word) (size : Nat) :
    Except Stop (State × Bool × Nat) := do
  if window then
    let a ← engWin s va size tags
    if winLost s s.me.id.core a size then .error (.fault (winTrap s.me.id.core a)) else .ok (s, false, winNat s s.me.id.core a size)
  else
    let (t, pa, v) ← engRead s pr va size
    .ok (t, decide (pa / 2 ^ 46 ≠ s.module.toNat), v)

/-- A write in either space. -/
def spaceWrite (s : State) (pr : BitVec 2) (window : Bool) (tags : List (BitVec 3)) (va : Word) (size v : Nat) :
    Except Stop State := do
  if window then
    let a ← engWin s va size tags
    .ok (winPut s s.me.id.core a size v)
  else engWrite s pr va size v

/-- The tags of a plain and of a ternary-packed side of an edge engine (08 R164; DEDUCED, log 19). -/
def plainTags : List (BitVec 3) := [0, 5]
def packedTags : List (BitVec 3) := [0, 4]

/-! ## Transfer records (09 R204 to R206) -/

/-- A transfer record as read: its eight words, with the bases in force. -/
structure Rec where
  ctl : Nat
  next : Word
  src : Word
  dst : Word
  ext : Word
  str : Word
  sums : Word
  prog : Word
  deriving DecidableEq, Repr

def recOf (ws : List Word) (src dst : Option Word) : Rec :=
  let w := fun i => ws.getD i 0
  { ctl := (w 0).toNat, next := w 1, src := src.getD (w 2), dst := dst.getD (w 3), ext := w 4, str := w 5, sums := w 6,
    prog := w 7 }

/-- A field of the control word. -/
def Rec.fld (r : Rec) (lo n : Nat) : Nat := r.ctl / 2 ^ lo % 2 ^ n

def Rec.own (r : Rec) : Bool := r.fld 63 1 = 1
def Rec.target (r : Rec) : Nat := r.fld 32 16
def Rec.kind (r : Rec) : Nat := r.fld 30 2
def Rec.summed (r : Rec) : Bool := r.fld 29 1 = 1
def Rec.compare (r : Rec) : Bool := r.fld 28 1 = 1
def Rec.carries (r : Rec) : Bool := r.fld 27 1 = 1
def Rec.packing (r : Rec) : Nat := r.fld 24 3
def Rec.boundary (r : Rec) : Nat := r.fld 22 2
def Rec.srcWin (r : Rec) : Bool := r.fld 21 1 = 1
def Rec.dstWin (r : Rec) : Bool := r.fld 20 1 = 1
def Rec.size (r : Rec) : Nat := 2 ^ r.fld 18 2
def Rec.dims (r : Rec) : Nat := r.fld 16 2 + 1
def Rec.h1 (r : Rec) : Nat := r.fld 12 4
def Rec.h0 (r : Rec) : Nat := r.fld 8 4

/-- Extent i as written, and as it is used. -/
def Rec.rawExt (r : Rec) (i : Nat) : Nat := (r.ext.extractLsb' (16 * i) 16).toNat
def Rec.e (r : Rec) (i : Nat) : Nat := if i < r.dims then r.rawExt i else 1

/-- A stride: source dimensions 1, 2 then destination dimensions 1, 2. -/
def Rec.stride (r : Rec) (i : Nat) : Int := (r.str.extractLsb' (16 * i) 16).toInt

/-- The destination box: width, height and number of elements (09 R206, R208). -/
def Rec.wide (r : Rec) : Nat :=
  if r.packing = 1 then r.e 0 / 5 else if r.packing = 2 then 5 * r.e 0 else r.e 0 + 2 * r.h0
def Rec.high (r : Rec) : Nat := r.e 1 + 2 * r.h1
def Rec.count (r : Rec) : Nat :=
  if r.e 0 = 0 ∨ r.e 1 = 0 ∨ r.e 2 = 0 ∨ r.e 3 = 0 then 0 else r.wide * r.high * r.e 2 * r.e 3

/-- map(i, e) of 09 R206: none is OUT. -/
def boxMap (boundary : Nat) (i : Int) (e : Nat) : Option Int :=
  if 0 ≤ i ∧ i < e then some i
  else if boundary = 1 then some (if i < 0 then -i else 2 * ((e : Int) - 1) - i)
  else if boundary = 2 then some (if i < 0 then -i - 1 else 2 * (e : Int) - 1 - i)
  else none

/-- Source and destination address of destination element n; no source for a constant zero. For packing 1 the source is
that of the first of five trits, for packing 2 the byte that holds the trit. -/
def Rec.place (r : Rec) (n : Nat) : Option Word × Word :=
  let x := n % r.wide
  let y := n / r.wide % r.high
  let i2 := n / (r.wide * r.high) % r.e 2
  let i3 := n / (r.wide * r.high * r.e 2)
  let at2 := fun (base : Word) (x y s1 s2 : Int) =>
    base + BitVec.ofInt 64 ((r.size : Int) * (x + y * s1 + (i2 : Int) * s2 + (i3 : Int) * s2 * (r.e 2 : Int)))
  let sx : Option Int := if r.packing = 1 then some (5 * (x : Int)) else if r.packing = 2 then some ((x : Int) / 5)
            else boxMap r.boundary ((x : Int) - r.h0) (r.e 0)
  let sy := boxMap r.boundary ((y : Int) - r.h1) (r.e 1)
  (match sx, sy with
   | some a, some b => some (at2 r.src a b (r.stride 0) (r.stride 1))
   | _, _ => none,
   at2 r.dst x y (r.stride 2) (r.stride 3))

/-- An invalid record (09 R205); a record of XCOPY has no next field. -/
def Rec.invalid (r : Rec) (c : Ctx) (single : Bool) : Bool :=
  let bytes := r.count * r.size
  let haloBad := fun (h e : Nat) => 8 < h || (h ≠ 0 && (r.boundary = 0 || (r.boundary = 1 && e < h + 1) || (r.boundary = 2 && e < h)))
  r.fld 48 15 ≠ 0 || r.fld 0 8 ≠ 0
  || (!single && (r.next.extractLsb' 0 6 ≠ 0#6 || r.next.extractLsb' 48 16 ≠ 0#16))
  || (List.range 4).any (fun i => r.dims ≤ i && r.rawExt i ≠ 0)
  || r.kind = 3 || (r.kind = 0 && r.target ≠ 0) || (r.kind = 2 && r.target / 2 ^ 12 ≠ 0)
  || r.src.toNat % r.size ≠ 0 || r.dst.toNat % r.size ≠ 0
  || haloBad r.h0 (r.e 0) || haloBad r.h1 (r.e 1) || (r.dims = 1 && r.h1 ≠ 0)
  || 3 ≤ r.packing || (r.packing ≠ 0 && (r.size ≠ 1 || r.h0 ≠ 0 || r.h1 ≠ 0 || r.boundary ≠ 0))
  || (r.packing = 1 && r.e 0 % 5 ≠ 0)
  || (r.compare && !r.summed) || (r.summed && bytes % 4 ≠ 0)
  || (r.kind = 1 && !isSyncAt c (r.target * 16))

/-! ## Writing a record's sum and progress (09 R209 to R213, R223) -/

/-- The engine writes the sum at +48 and the committed count with a status at +56. -/
def recordWrite (s : State) (pr : BitVec 2) (addr : Word) (sum : BitVec 32) (n status : Nat) : Except Stop State := do
  let t ← engWrite s pr (addr + 48) 4 sum.toNat
  engWrite t pr (addr + 56) 8 (n % 2 ^ 48 + status * 2 ^ 48)

/-- The same for the record of a channel as it stands in s, with what follows it: where the write has to wait, only the wait happens,
to the state s0 before the step; where it faults, `lost` (09 R213). -/
def recordStatus (s0 s : State) (h : Chan) (status : Nat) (lost : Trap → State → State) (k : State → State) : State :=
  match recordWrite s h.priv h.addr h.sum h.n status with
  | .ok t => k t
  | .error (.hold f) => f s0
  | .error (.fault t) => lost t s

def getChan (c : Ctx) (e : BitVec 2) : Chan := c.chans[e.toNat]
def setChan (c : Ctx) (e : BitVec 2) (h : Chan) : Ctx := { c with chans := c.chans.set e.toNat h }

/-- KELEM of an engine: element, input none, committed count (05 R103). -/
def engElem (elem n : Nat) : Word := BitVec.ofNat 64 (elem + 3 * 2 ^ 10 + n % 2 ^ 48 * 2 ^ 16)

/-- The channel halts and the fault enters the queue of the context (09 R213). -/
def copyStop (s : State) (e : BitVec 2) (cause : BitVec 8) (value : Word) : State :=
  let h := getChan s.me e
  let c := setChan s.me e { h with st := .halted, words := none }
  { s with me := queueFault { kcause := 1#1 ++ cause, value := value, elem := engElem (0x0C0 + e.toNat) h.n } c }

/-- A channel with the sum and progress of its current record, and whether the record is owned: as the channel holds them, else as the record
does. -/
def withProgress (s : State) (h : Chan) : Except Stop (Chan × Bool) :=
  if h.words.isSome ∨ h.st = .halted then .ok (h, true)
  else match engRead s h.priv h.addr 64 with
    | .ok (_, _, v) => .ok ({ h with sum := BitVec.ofNat 32 (v / 2 ^ 384), n := v / 2 ^ 448 % 2 ^ 48 }, v.testBit 63)
    | .error (.fault _) => .ok (h, true)
    | .error (.hold f) => .error (.hold f)

/-- A running channel of the context in focus stops for a park: its record keeps sum and progress with status 0, and is
read afresh after loading (09 R223); a record that ends the chain is not touched (R211). A record that cannot be written halts the channel; one
that has to wait holds up the park. -/
def parkChannel (s : State) (e : BitVec 2) : Except State State :=
  let h := getChan s.me e
  if h.st ≠ .running ∨ h.addr = 0#64 then .ok s
  else match withProgress s h with
    | .error (.hold f) => .error (f s)
    | .error (.fault _) => .ok s
    | .ok (p, own) =>
      if !own then .ok s
      else match recordWrite s p.priv p.addr p.sum p.n 0 with
        | .ok t => .ok { t with me := setChan t.me e { h with words := none, first := h.first || h.words.isSome } }
        | .error (.hold f) => .error (f s)
        | .error (.fault t) => .ok (retiring (counted s t) t.line (fun u => copyStop u e t.cause t.value))

/-- The channels of the context in focus stopped for a park; an error is the state in which the park waits. -/
def parkChannels (s : State) : Except State State := do
  let a ← parkChannel s 0
  let b ← parkChannel a 1
  let c ← parkChannel b 2
  parkChannel c 3

end Sys2Proof.Machine
end

