-- ==== Sys2Proof/Machine/Calendar.lean ====
section
/-! DEFINITION. Core calendars, context sets, parking and loading (01 R24 to R31, R406; 13 R316; 15 R349 to R355). -/

namespace Sys2Proof.Machine

/-! ## The swaps that a calendar asks for (01 R27) -/

/-- The set in which a solo context is to run (01 R27): some true is set B. -/
def soloSet (r : CoreRec) (id : CtxId) : Bool :=
  if r.setA.ctx = some id then false
  else if r.setB.ctx = some id then true
  else if r.setA.st = .active then true
  else if r.setB.st = .active then false
  else if r.setA.st = .empty then false
  else if r.setB.st = .empty then true
  else false

/-- The sets that a slot needs, each with its context; a descriptor no longer valid names none. -/
def slotNeeds (core : CoreId) (r : CoreRec) (w : BitVec 32) : List (Bool × CtxId) :=
  let named := fun (b : Bool) (i : Nat) => if descValid (descOf r i) then [(b, descCtx core (descOf r i))] else []
  if slotKind w = 1#2 then named (soloSet r (descCtx core (descOf r (slotA w)))) (slotA w)
  else if slotKind w = 2#2 then named false (slotA w) ++ named true (slotB w)
  else []

def getSet (r : CoreRec) (b : Bool) : SetRec := if b then r.setB else r.setA
def putSet (r : CoreRec) (b : Bool) (x : SetRec) : CoreRec := if b then { r with setB := x } else { r with setA := x }

/-- The calendar entered at a slot at a time: its word takes effect, its end is set, and the swap is due. -/
def enterSlot (r : CoreRec) (i : Nat) (start : Word) : CoreRec :=
  let w := nextWord r i
  { r with slots := tabPut 0 r.slots i w, slotsNew := tabErase r.slotsNew i, cur := BitVec.ofNat 4 i,
           nextAt := start + BitVec.ofNat 64 (slotLen w * 25000), boundary := true }

/-- MCAL table 3 run = 1: the calendar starts at its first present slot (13 R316), and from then on it alone swaps the sets (06 R137): a
CTXSW that still waits for its token boundary is dropped (DESIGN CHOICE, log 72). -/
def startCalendar (r : CoreRec) (now : Word) : CoreRec :=
  if r.running then { r with stopReq := false }
  else
    let r1 := { r with slots := (List.range 16).foldl (fun t i => tabPut 0 t i (nextWord r i)) r.slots, slotsNew := [],
                       running := true, stopReq := false, nextAt := now, swReq := none }
    match nextSlot r1 15 with
    | none => r1
    | some i => enterSlot r1 i now

/-- A slot boundary is due: the calendar runs and its time has come. -/
def boundaryDue (s : State) (c : CoreId) : Bool :=
  let r := coreRec s c
  r.running && r.nextAt.toNat ≤ s.ktime.toNat && (r.stopReq || (nextSlot r r.cur.toNat).isSome || slotLen (curWord r) != 0)

/-- CALENDAR_SLOT_BOUNDARY: the next present slot begins; a requested stop takes effect instead (16 R369). With no slot left present the core
stands idle until the monitor writes one, which then begins at once (DESIGN CHOICE, log 98). -/
def slotBoundary (s : State) (c : CoreId) : State :=
  let r := coreRec s c
  if !boundaryDue s c then s
  else if r.stopReq then setCore s c { r with running := false, stopReq := false }
  else
    let start := if slotLen (curWord r) = 0 then s.ktime else r.nextAt
    setCore s c (enterSlot r ((nextSlot r r.cur.toNat).getD r.cur.toNat) start)

/-- Shares [base, base + size] overlap, in 256-byte units. -/
def sharesMeet (b1 s1 b2 s2 : Nat) : Bool := b1 ≤ b2 + s2 && b2 ≤ b1 + s1

/-- The window shares of two contexts overlap. -/
def ctxSharesMeet (s : State) (a b : CtxId) : Bool :=
  match rawCtx s a, rawCtx s b with
  | some x, some y => sharesMeet x.shareBase.toNat x.shareSize.toNat y.shareBase.toNat y.shareSize.toNat
  | _, _ => false

/-- Does the context of a set have to be parked before another context is loaded into the other set: its share overlaps (16 R370)? -/
def inTheWay (s : State) (x : SetRec) (id : CtxId) : Bool :=
  match x.ctx with
  | some o => o != id && ctxSharesMeet s o id
  | none => false

/-- One set of a core on the way to a context: it is parked when it holds another one at rest, and begins loading when it is Empty, the other
set does not hold that context, and no context there has an overlapping share; one at rest there is parked first. -/
def fetchSet (s : State) (r : CoreRec) (n : Bool × CtxId) : CoreRec :=
  let x := getSet r n.1
  let o := getSet r (!n.1)
  if x.ctx = some n.2 then r
  else match x.st with
    | .empty =>
      if o.ctx = some n.2 then r
      else if inTheWay s o n.2 then
        (if o.st = .frozen ∨ o.st = .ready then putSet r (!n.1) { o with st := .parking } else r)
      else putSet r n.1 { x with st := .loading, ctx := some n.2 }
    | .frozen | .ready => putSet r n.1 { x with st := .parking }
    | _ => r

/-- CONTEXT_LOAD_START (01 R27, R30): from 5 µs before the boundary, and after it while the swap waits, for each set that the coming slot
needs. -/
def loadStart (s : State) (c : CoreId) : State :=
  let r := coreRec s c
  let w := if r.boundary then some (curWord r)
           else if r.running && r.nextAt.toNat ≤ s.ktime.toNat + 12500 then
             (nextSlot r r.cur.toNat).map (nextWord r)
           else none
  match w with
  | none => s
  | some w => setCore s c ((slotNeeds c r w).foldl (fetchSet s) r)

/-- The claim of a context on the matrix array (07 R140). -/
def claimOf (s : State) (id : CtxId) : BitVec 16 :=
  match findCtx s id with
  | none => 0
  | some c => cfgField c 0x0C8 0

/-- Two contexts may not be Active together when one claims the whole array and the other claims any of it (07 R140). -/
def claimsClash (s : State) (a b : CtxId) : Bool :=
  claimOf s a ≠ 0 && claimOf s b ≠ 0 && (claimOf s a == 1 || claimOf s b == 1)

/-- Is a set at rest with this context, or already running it? -/
def setReady (r : CoreRec) (n : Bool × CtxId) : Bool :=
  let x := getSet r n.1
  x.ctx == some n.2 && (x.st == .ready || x.st == .frozen || x.st == .active)

/-- The selected spine of a context. -/
def spineOf (s : State) (id : CtxId) : BitVec 3 :=
  match findCtx s id with
  | none => 0
  | some c => c.sys.spine

/-- Can a set that a slot needs be loaded only after the boundary: it is held by another context that still runs, or one that still runs in
the other set has an overlapping share (01 R30, 16 R370)? -/
def setBlocked (s : State) (r : CoreRec) (needs : List (Bool × CtxId)) (n : Bool × CtxId) : Bool :=
  let x := getSet r n.1
  let o := getSet r (!n.1)
  (x.ctx != some n.2 && x.st == .active)
    || (x.st == .empty && o.st == .active && !(needs.any (fun k => o.ctx == some k.2)) && inTheWay s o n.2)

/-- Is the swap of a slot boundary due: every set that the slot needs is loaded, or some set can be loaded only after it (01 R29, R30)? -/
def swapGoes (s : State) (r : CoreRec) (needs : List (Bool × CtxId)) : Bool :=
  needs.all (setReady r) || needs.any (setBlocked s r needs)

/-! ## What a swap makes of a core's sets (01 R25 to R30, 06 R137) -/

/-- The core switches to the spine on which the incoming contexts run: the slot's when it is paired, else the one that the context has
selected (01 R10, 15 R355). None of them issues before the switch is complete. -/
def enterSpine (s : State) (r : CoreRec) (paired : Bool) (spine : BitVec 3) (id : Option CtxId) : CoreRec :=
  match id with
  | none => { r with paired := paired }
  | some i =>
    let r1 := switchSpine r (if paired then spine else spineOf s i)
    { r1 with paired := paired, entering := r1.spineNew.isSome }

/-- An Active set that a slot does not name is Frozen. -/
def freezeSet (needs : List (Bool × CtxId)) (r : CoreRec) (b : Bool) : CoreRec :=
  let x := getSet r b
  if x.st = .active ∧ ¬ needs.any (fun n => n.1 = b ∧ x.ctx = some n.2) then putSet r b { x with st := .frozen } else r

/-- A set that a slot names is Active, unless the claims of two contexts would clash, which keeps the later one Ready (07 R140). -/
def activateSet (s : State) (r : CoreRec) (n : Bool × CtxId) : CoreRec :=
  let other := getSet r (!n.1)
  let clash : Bool := match other.ctx with
    | some o => other.st == .active && claimsClash s n.2 o
    | none => false
  if clash then r else putSet r n.1 { getSet r n.1 with st := .active, ctx := some n.2 }

/-- The swap of a slot boundary: every Active set that the slot does not name becomes Frozen, and every set ready with the
context that it names Active; the boundary is over once all are. -/
def slotRecord (s : State) (r : CoreRec) (needs : List (Bool × CtxId)) : CoreRec :=
  let named := needs.filter (setReady r)
  let r1 := named.foldl (activateSet s) ([false, true].foldl (freezeSet needs) r)
  { enterSpine s r1 (slotKind (curWord r) = 2#2) (slotSpine (curWord r)) (named.head?.map (fun n => n.2)) with
    boundary := !needs.all (setReady r) }

/-- The swap of an accepted CTXSW (06 R137). -/
def ctxswRecord (s : State) (r : CoreRec) (b : Bool) : CoreRec :=
  let x := getSet r b
  let y := getSet r (!b)
  let r1 := putSet (putSet r (!b) (if y.st = .active then { y with st := .frozen } else y)) b { x with st := .active }
  { enterSpine s r1 false 0 x.ctx with swReq := none }

/-- The set that a pending CTXSW makes Active once the token boundary is there (06 R137). -/
def ctxswSet (r : CoreRec) : Option Bool :=
  match r.swReq with
  | some b => if !r.running && ((getSet r b).st == .ready || (getSet r b).st == .frozen) then some b else none
  | none => none

/-- The L1 lines of a context beyond the ways that its set may hold now (01 R9, 08 R169). -/
def surplus (s : State) (id : CtxId) : List Line :=
  let t := focus s id
  if t.me.id ≠ id ∨ l1Ways t = 16 then []
  else t.me.l1.filter (fun l => !(keepWays 8 t.me.l1 []).contains l)

/-- These lines are written back and leave. -/
def trimL1 (s : State) (id : CtxId) : State :=
  match surplus s id with
  | [] => s
  | ls =>
    let u := quietBack (focus s id) ls
    focus { u with me.l1 := u.me.l1.filter (fun l => !ls.contains l) } s.me.id

/-- The contexts of a core's sets. -/
def setCtxs (r : CoreRec) : List CtxId := [r.setA.ctx, r.setB.ctx].filterMap (fun x => x)

/-- Can the lines that a division of the ways makes leave all be written back now (08 R176 to R178)? -/
def trimsGo : State → List CtxId → Bool
  | _, [] => true
  | s, id :: ids => backsGo (focus s id) (surplus s id) && trimsGo (trimL1 s id) ids

/-- What the swap that a core has before it makes of its record: that of a slot boundary, when every set that the slot needs is loaded or some set
can be loaded only after it (01 R29, R30), or that of an accepted CTXSW. A swap after which the sets have fewer ways waits until the lines
that leave can be written back (DESIGN CHOICE, log 98). -/
def swapRecord (s : State) (c : CoreId) : Option CoreRec :=
  let r := coreRec s c
  let next :=
    if r.boundary then
      let needs := slotNeeds c r (curWord r)
      if swapGoes s r needs then some (slotRecord s r needs) else none
    else (ctxswSet r).map (ctxswRecord s r)
  next.filter (fun n => trimsGo (setCore s c n) (setCtxs n))

/-- Is a context on its way out: the swap before its core freezes it, so that it stops at its next token boundary, and no unit of it begins new
work (01 R28, 07 R159)? -/
def leaving (s : State) (id : CtxId) : Bool :=
  isActive s id && (match swapRecord s id.core with
    | some r => !([r.setA, r.setB].any (fun x => x.st == .active && x.ctx == some id))
    | none => false)

/-! ## Save areas (15 R349 to R351) -/

/-- Bytes of a memory in [base, base + len) replaced by sorted cells. -/
def replaceRange (m : List Host.Cell) (base len : Nat) (cells : List Host.Cell) : List Host.Cell :=
  m.filter (fun c => c.1 < base) ++ (cells.filter (fun c => base ≤ c.1 ∧ c.1 < base + len))
    ++ m.filter (fun c => base + len ≤ c.1)

/-- The listed bytes of [base, base + len), moved to dst. -/
def moveRange (m : List Host.Cell) (base len dst : Nat) : List Host.Cell :=
  (m.filter (fun c => base ≤ c.1 ∧ c.1 < base + len)).map (fun c => (c.1 - base + dst, c.2))

/-- The words of the system registers 0x000 to 0x03F as a save area holds them (15 R349): number and value. -/
def sregImage (c : Ctx) (coreIdx : BitVec 16) (ktime : Word) : List (Nat × Word) :=
  [(0x00, c.sys.spine.setWidth 64 <<< 8), (0x01, c.sys.kcause), (0x02, c.sys.kepc), (0x03, c.sys.keval),
   (0x04, c.sys.kelem), (0x05, c.sys.kvec), (0x06, c.sys.kfpc), (0x08, c.sys.scr0), (0x09, c.sys.scr1),
   (0x0A, c.sys.scr2), (0x0B, c.sys.scr3),
   (0x10, (coreIdx ++ 0#4 ++ c.id.core).setWidth 64), (0x11, c.id.part.setWidth 64), (0x12, c.id.kctx.setWidth 64),
   (0x13, ktime), (0x14, c.sys.xsave), (0x15, c.sys.spill), (0x16, c.sys.spillEnd), (0x18, c.sys.ktt),
   (0x19, c.sys.trn.setWidth 64), (0x20, c.sys.inj.setWidth 64)]

/-- Graph block +0 of a graph of this context (15 R350). -/
def graphWord (gid : Nat) (g : Graph) (depth : Nat) : Word :=
  BitVec.ofNat 64 (gid + 16 + g.state.toNat * 32 + g.cause.toNat * 256 + depth * 65536)

/-- Do the taps of a cell row's window unit still hold a token for some reader (12 R282)? -/
def tapsHeld (c : Ctx) (row : Nat) : Bool :=
  c.fab.queues.any (fun q =>
    let e := q.1 / 128
    let slot := q.1 % 128
    e < 64 && e / 8 = row && (if slot < 3 then (cfgField c e (2 + slot)).toNat / 4096 = 4 else slot < 11))

/-- The stage record of a window unit (15 R351). -/
def stageRecord (c : Ctx) (coreIdx : BitVec 16) (elem : Nat) : List Word :=
  let win := tabFind c.fab.wins elem
  let pos := (cfgField c elem 8).toNat % 64 + 1
  let f6 := cfgField c elem 6
  let place := fun (o : Option (BitVec 16 × BitVec 16 × BitVec 16)) => match o with
    | none => (0 : Word)
    | some (plane, row, col) => BitVec.ofNat 64 (col.toNat + row.toNat * 2 ^ 16 + plane.toNat * 2 ^ 32 + 2 ^ 63)
  let step : BitVec 16 := cfgField c elem 9 + BitVec.ofNat 16 pos
  let delays := ((c.fab.delays.filter (fun d => d.1 / 2 / 8 = elem / 8)).map (fun d => d.2.length)).sum
  [BitVec.ofNat 64 (step.toNat + (pos - 1) * 2 ^ 16 + elem * 2 ^ 22 + coreIdx.toNat * 2 ^ 32),
   place (win.bind (fun w => if tapsHeld c (elem / 8) then w.lastOut else w.sent)),
   place (win.bind (fun w => w.lastIn)),
   BitVec.ofNat 64 ((f6.extractLsb' 8 5).toNat + ((f6.extractLsb' 0 4).toNat - 1) * 2 ^ 8
     + (match win with | none => 0 | some w => ((w.held.map (fun h => h.2.toNat)).foldl Nat.max 0) * 2 ^ 12)),
   BitVec.ofNat 64 delays]

/-- The deepest stage position among the window units that a graph uses in a context, 0 without stages. -/
def stageDepth (ref : GRef) (c : Ctx) : Nat :=
  ((c.fab.marks.filter (fun m => m.2 = ref && cfgField c m.1 0 = 0x49)).map
    (fun m => (cfgField c m.1 8).toNat % 64 + 1)).foldl Nat.max 0

/-- Chain depth of a graph over all cores that it spans (15 R350). -/
def chainDepth (s : State) (c : Ctx) (ref : GRef) : Nat :=
  (((allCtxs s).filter (fun x => x.id.part = c.id.part && x.id.kctx = c.id.kctx)).map (stageDepth ref)).foldl Nat.max 0

/-- The graph with id g that has elements in a context, and its record at the context that started it; a graph started here
comes first. -/
def graphHere (s : State) (c : Ctx) (g : Nat) : Option (GRef × Graph) :=
  match tabFind c.fab.graphs g with
  | some r =>
    let ref : GRef := { core := c.id.core, gid := BitVec.ofNat 4 g }
    if c.fab.marks.any (fun m => m.2 = ref) then some (ref, r) else none
  | none =>
    match c.fab.marks.find? (fun m => m.2.gid.toNat = g) with
    | none => none
    | some m => ((findCtx s { c.id with core := m.2.core }).bind (fun x => tabFind x.fab.graphs g)).map (fun r => (m.2, r))

/-- The words of the graph blocks (15 R350): offset within the area and value. -/
def graphImage (s : State) (c : Ctx) (coreIdx : BitVec 16) : List (Nat × Word) :=
  (List.range 16).flatMap (fun g =>
    let base := 0x020000 + 0x2000 * g
    match graphHere s c g with
    | none => []
    | some x =>
      [(base, graphWord g x.2 (chainDepth s c x.1)), (base + 8, if x.2.state = 2#2 then x.2.elem else 0),
       (base + 16, if x.2.state = 2#2 then x.2.value else 0)])
  ++ ((List.range 16).map (fun k =>
    match tabFind c.fab.strms k with
    | none => []
    | some st =>
      match tabFind c.fab.marks (0x0C0 + k / 4) with
      | none => []
      | some m => [(0x020000 + 0x2000 * m.gid.toNat + 64 + 8 * k, st.commit.setWidth 64)])).flatten
  ++ ((List.range 64).map (fun i =>
    if cfgField c i 0 = 0x49 then
      match tabFind c.fab.marks i with
      | none => []
      | some m =>
        let base := 0x020000 + 0x2000 * m.gid.toNat + 256 + 64 * ((cfgField c i 8).toNat % 64)
        ((stageRecord c coreIdx i).zipIdx).map (fun w => (base + 8 * w.2, w.1))
    else [])).flatten

/-- Every word of the open regions but configuration and window share: offset and value. -/
def openImage (s : State) (c : Ctx) (coreIdx : BitVec 16) : List (Nat × Word) :=
  (sregImage c coreIdx s.ktime).map (fun r => (0x010000 + 8 * r.1, r.2)) ++ faultImage c.faults
  ++ (List.range 32).flatMap (fun i => entryImage i (getEntry c (BitVec.ofNat 5 i))) ++ graphImage s c coreIdx

/-- The opaque regions of a save area: [0x012000, 0x018000) and [0x040000, 0x100000). -/
def opaqueBytes (m : List Host.Cell) (area : Nat) : List Host.Cell :=
  m.filter (fun c => (area + 0x012000 ≤ c.1 ∧ c.1 < area + 0x018000) ∨ (area + 0x040000 ≤ c.1 ∧ c.1 < area + 0x100000))

/-- The image that the opaque regions hold: its serial number in the first word, the count of the reception log in the second, all else 0 (15 R349
leaves their layout open; DESIGN CHOICE, log 15). None where something else has written them. -/
def opaqueSerial (m : List Host.Cell) (area : Nat) : Option Nat :=
  let n := memNat m (area + 0x012000) 8
  if (opaqueBytes m area).all (fun c => c.1 < area + 0x012010) then some n else none

/-- Where the second opaque word counts the reception log: in an area that a park or nothing has written. -/
def countsInArea (m : List Host.Cell) (area : Nat) : Bool := (opaqueSerial m area).isSome && decide (areaCount m area ≤ 4096)

/-- The records of the reception log of a context since it was last empty: its area counts them while no set holds it. -/
def logCount (s : State) (c : Ctx) : Nat :=
  if inArea s c.id && countsInArea s.mem (areaOf c) then areaCount s.mem (areaOf c) else c.fab.recCount

/-- The bytes of a save area from the system registers to the window share of a context. -/
def areaSpan (c : Ctx) : Nat := 0x100000 + (c.shareSize.toNat + 1) * 256

/-- Is a line within what a park writes and a load reads of a save area? -/
def inSpan (c : Ctx) (num : Nat) : Bool := areaOf c + 0x010000 ≤ num * 128 && num * 128 < areaOf c + areaSpan c

/-- Memory with a save area written (15 R349, R406): every region but the reception log; the window share stands at 0x100000. -/
def writeArea (s : State) (c : Ctx) : List Host.Cell :=
  let area := areaOf c
  let cleared := replaceRange s.mem (area + 0x010000) 0xF0000 []
  let m1 := putWords cleared area ((0x012000, BitVec.ofNat 64 c.serial) :: (0x012008, BitVec.ofNat 64 c.fab.recCount)
    :: openImage s c (coreIndex s c))
  let m2 := c.fab.cfg.foldl (fun m f => putCfg m area f.1 f.2) m1
  let len := (c.shareSize.toNat + 1) * 256
  replaceRange m2 (area + 0x100000) len
    (moveRange s.win (winKey c.id.core (c.shareBase.toNat * 256)) len (area + 0x100000))

/-- May the context in focus be parked now: its dirty bytes can reach their homes, and its partition has slots on the die of its area (08 R173,
R178; 01 R406)? -/
def parkReady (s : State) : Bool := backsGo s s.me.l1 && dramOk s s.me.id.part (areaOf s.me / 128)

/-- The lines of a save area that a park leaves uncorrectable: the words of window memory that it could not read stand there (08 R183). -/
def lostShare (s : State) (c : Ctx) : List Nat :=
  let area := areaOf c
  let key := winKey c.id.core (c.shareBase.toNat * 256)
  let len := (c.shareSize.toNat + 1) * 256
  let at_ := fun (k : Nat) => if key ≤ k && k < key + len then some ((area + 0x100000 + (k - key)) / 128) else none
  (s.winBad.filterMap (fun w => at_ (8 * w)) ++ s.retired.filterMap (fun n => if n < 2 ^ 45 then none else at_ ((n - 2 ^ 45) * 128))).eraseDups

/-- The registers of a Running handler written to its block, the handler still Running (15 R352). -/
def storeRunning (c : Ctx) : Ctx :=
  match c.run with
  | none => c
  | some i => { saveBlock c i c.regs.pc with run := some i }

/-- Retirement of a context: it goes from its core's sets, and counters bound to it lose their binding (14 R330). -/
def retireCtx (s : State) (id : CtxId) : State :=
  let r := coreRec s id.core
  let out := fun (x : SetRec) => if x.ctx = some id then ({ owed := x.owed } : SetRec) else x
  let s1 := setCore s id.core { r with setA := out r.setA, setB := out r.setB }
  let p := id.part.extractLsb' 0 6
  let q := partRec s1 p
  let names := fun (b : BitVec 37) =>
    b.extractLsb' 16 16 == id.kctx && listCore s p (b.extractLsb' 0 16).toNat == some id.core
  let s2 := setPart s1 p { q with dcs := q.dcs.map (fun d => (d.1, if names d.2.binding then { d.2 with bound := false } else d.2)) }
  { s2 with others := s2.others.filter (fun c => c.id ≠ id) }

/-- CONTEXT_PARK_COMPLETE (15 R353, 08 R173): running copy channels stopped at their committed element, dirty bytes written back, lines and
translations invalidated, the area written to DRAM, and the set Empty; a context that is to go is retired. Registrations stay open (10 R234). -/
def parkComplete (s : State) (c : CoreId) (b : Bool) : State :=
  let r := coreRec s c
  let x := getSet r b
  match x.st, x.ctx with
  | .parking, some id =>
    match rawCtx s id with
    | none => setCore s c (putSet r b { owed := x.owed })
    | some _ =>
      let home := s.me.id
      match parkChannels (focus s id) with
      | .error u => focus u home
      | .ok s1 =>
      if !parkReady s1 then focus s1 home
      else
        let s2 := quietBack s1 s1.me.l1
        let s3 := { s2 with me := { storeRunning s2.me with l1 := [], tlb := [], stalled := false, pinWait := none, serial := s.tick + 1 } }
        let s4 := { s3 with mem := writeArea s3 s3.me
                            l2 := s3.l2.filter (fun l => !inSpan s3.me l.num)
                            bad := lostShare s3 s3.me ++ s3.bad.filter (fun n => !inSpan s3.me n)
                            retired := s3.retired.filter (fun n => !inSpan s3.me n)
                            saved := { serial := s3.me.serial, image := s3.me } :: s3.saved }
        let s5 := focus (setCore s4 c (putSet r b { owed := x.owed + 1 })) home
        if x.gone then retireCtx s5 id else s5
  | _, _ => s

/-- System registers as a load reads them back, with the bits that each register holds (05 R100). The KTT in force does not come with them: a
written KTT waits for TLBIA across a park too (15 R348). -/
def loadSregs (m : List Host.Cell) (area : Nat) (y : Sregs) : Sregs :=
  let w := fun n => areaWord m area (0x010000 + 8 * n)
  { y with
    spine := (w 0).extractLsb' 8 3, kcause := w 1 &&& 0x1FF#64, kepc := w 2 &&& ~~~ 3#64, keval := w 3
    kelem := w 4 &&& ~~~ 0xF000#64, kvec := w 5 &&& ~~~ 0x3FF#64, kfpc := w 6 &&& 0x1F7F#64
    scr0 := w 8, scr1 := w 9, scr2 := w 0xA, scr3 := w 0xB, xsave := BitVec.ofNat 64 area, spill := w 0x15 &&& ~~~ 0xFFF#64
    spillEnd := w 0x16 &&& ~~~ 0xFFF#64, ktt := w 0x18 &&& 0x0000FFFFFFFFF000#64, trn := (w 0x19).setWidth 7
    inj := (w 0x20).setWidth 13 &&& 0x1FF7#13 }

/-- A register block that a context of a partition may hold: a PC of 48 bits and no monitor privilege (05 R99, R101). -/
def tame (h : Hregs) : Hregs :=
  { h with pc := h.pc &&& 0x0000FFFFFFFFFFFC#64
           ks := { h.ks with priv := if 2 ≤ h.ks.priv.toNat then 1 else h.ks.priv
                             ppriv := if 2 ≤ h.ks.ppriv.toNat then 1 else h.ks.ppriv } }

/-- What free values leave undefined stays within the partition (15 R349). -/
def tameCtx (c : Ctx) : Ctx :=
  { c with regs := tame c.regs, htab := c.htab.map (fun e => { e with block := tame e.block }), asyncs := [], held := []
           fab.recLog := c.fab.recLog.map (fun r => (r.1, r.2 % 4096)), fab.recCount := c.fab.recCount % 4097 }

/-- The words that have reached a context's inboxes, which have marked their entries, and those held behind them, entered behind those of another
record of it (01 R13, R31). -/
def addInboxes (k c : Ctx) : Ctx :=
  let k1 := c.inbox.foldl (fun t x => x.2.foldl (fun t v =>
    postHeld { ch := BitVec.ofNat 6 x.1, val := v, launch := none, quiet := true } t) t) k
  c.held.foldl (fun t h => postHeld h t) k1

/-- A context with the words alone that have reached it since its own last park. -/
def sincePark (s : State) (c : Ctx) : Ctx :=
  match s.saved.find? (fun p => p.serial = c.serial) with
  | none => c
  | some p => { c with inbox := c.inbox.map (fun x => (x.1, x.2.drop (tabGet [] p.image.inbox x.1).length)), held := c.held.drop p.image.held.length }

/-- A context that takes the state of an image: registers, matrix state, queues and channels, and what of its handler table the open
layout does not hold. Its identity, energy, share and save area are its own, and so are the words that have reached it since its own park; no
access of the image is still under way. -/
def takeImage (c k : Ctx) : Ctx :=
  addInboxes { k with
    id := c.id, energy := c.energy, shareBase := c.shareBase, shareSize := c.shareSize, cyc := c.cyc, pairCyc := c.pairCyc
    work := c.work, moved := c.moved, fresh := c.fresh, ramp := c.ramp, fab.fired := c.fab.fired
    sys := { k.sys with xsave := c.sys.xsave }
    pend := k.pend.filter (fun p => match p.op with | .value _ => true | .atomic _ => false)
    xq := [], l1 := [], tlb := [], stalled := false, pinWait := none } c

/-- The context as the opaque regions of its area leave it: its own last park, another's image that was copied there, or, where something else has
written them, free values (15 R349, 16 R372; DESIGN CHOICE, log 12, log 15). -/
def fromOpaque (s : State) (area : Nat) (c : Ctx) : Ctx :=
  let since := sincePark s c
  let foreign := takeImage since (tameCtx (Config.foreignCtx s.tick))
  match opaqueSerial s.mem area with
  | none => foreign
  | some n =>
    if n = c.serial then c
    else match s.saved.find? (fun p => p.serial = n) with
      | some p => takeImage since p.image
      | none => foreign

/-- The reception log as an area holds it: the records still in it at the park, and those that have arrived since, with their ports as recorded
(11 R262, R265). -/
def withLog (s : State) (area : Nat) (c : Ctx) : Ctx :=
  let old := c.fab.recCount
  let n := areaCount s.mem area
  if countsInArea s.mem area && old ≤ n then
    { c with fab.recCount := n
             fab.recLog := c.fab.recLog.filter (fun r => r.2 < old) ++ (List.range (n - old)).map (fun i =>
               ((memByte s.mem (area + 16 * (old + i) + 9)).toNat % 64, old + i)) }
  else c

/-- The image whose log an area continues: the last park that wrote it, where one did. -/
def logBase (s : State) (area : Nat) (c : Ctx) : Ctx :=
  match (opaqueSerial s.mem area).bind (fun n => s.saved.find? (fun p => p.serial = n)) with
  | some p => { c with fab.recLog := p.image.fab.recLog, fab.recCount := p.image.fab.recCount }
  | none => c

/-- A place of a stage record, none before the first commit (15 R351). -/
def placeOf (w : Word) : Option (BitVec 16 × BitVec 16 × BitVec 16) :=
  if w.getLsbD 63 then some (w.extractLsb' 32 16, w.extractLsb' 16 16, w.extractLsb' 0 16) else none

/-- Graphs, commit positions and stage records as the graph blocks of an area give them, where they say other than the context (15 R350, R351):
of graphs that this context started, and of its streams and window units. -/
def loadGraphs (s : State) (area : Nat) (c : Ctx) : Ctx :=
  let w := fun off => areaWord s.mem area off
  let base := fun (g : Nat) => 0x020000 + 0x2000 * g
  let graphs := c.fab.graphs.map (fun g =>
    let b := w (base g.1)
    if b.getLsbD 4 then
      (g.1, { g.2 with state := b.extractLsb' 5 2, cause := b.extractLsb' 8 8,
                       elem := if b.extractLsb' 5 2 = 2#2 then w (base g.1 + 8) else g.2.elem,
                       value := if b.extractLsb' 5 2 = 2#2 then w (base g.1 + 16) else g.2.value })
    else g)
  let strms := c.fab.strms.map (fun k =>
    match tabFind c.fab.marks (0x0C0 + k.1 / 4) with
    | some m => (k.1, { k.2 with commit := (w (base m.gid.toNat + 64 + 8 * k.1)).setWidth 48 })
    | none => k)
  let wins := c.fab.wins.map (fun k =>
    match tabFind c.fab.marks k.1 with
    | none => k
    | some m =>
      let at_ := base m.gid.toNat + 256 + 64 * ((cfgField c k.1 8).toNat % 64)
      let old := stageRecord c (coreIndex s c) k.1
      let out := w (at_ + 8)
      let inp := w (at_ + 16)
      let k1 := if out = old.getD 1 0 then k.2 else { k.2 with sent := placeOf out, lastOut := placeOf out }
      (k.1, if inp = old.getD 2 0 then k1 else { k1 with lastIn := placeOf inp }))
  { c with fab.graphs := graphs, fab.strms := strms, fab.wins := wins }

/-- The contents of a context's set after a load from an area (15 R349, R354). -/
def loadCtx (s : State) (area : Nat) (c0 : Ctx) : Ctx :=
  let c := withLog s area (logBase s area (fromOpaque s area c0))
  let c1 : Ctx := { c with
           sys := { loadSregs s.mem area c.sys with
                    kttEff := if c.serial = 0 then areaWord s.mem area 0x0100C0 &&& 0x0000FFFFFFFFF000#64 else c.sys.kttEff }
           faults := loadFaults s.mem area, htab := Vector.ofFn (fun (i : Fin 32) => loadEntry s.mem area i.val c.htab[i.val])
           fab.cfg := loadCfg s.mem area, l1 := [], tlb := []
           fab.cfgAt := (loadCfg s.mem area).foldl (fun t k => tabPut 0 t (k.1 / 64) s.tick) [] }
  loadGraphs s area c1

/-- Does the condition that a Blocked entry awaits hold now (15 R352)? -/
def waitOver (s : State) (c : Ctx) (e : Entry) : Bool :=
  match e.why with
  | .nothing => false
  | .counters l st cp tl => loadsOut c ≤ l.toNat && storesOut c ≤ st.toNat && copiesOut c ≤ cp.toNat && tilesOut c ≤ tl.toNat
  | .inbox ch => !(inboxOf c ch).isEmpty
  | .barrier b gen => (tabGet { n := 0, arrived := 0, gen := 0, link := 0 } (ownerRec s c.id.part).bars b.toNat).gen != gen
  | .sync addr gen => winNat s c.id.core addr.toNat 8 / 2 ^ 48 ≠ gen.toNat

/-- The waits of a loaded context examined again (01 R32, 15 R352). -/
def reexamine (s : State) (c : Ctx) : Ctx := { c with htab := c.htab.map (fun e => if waitOver s c e then wake e else e) }

/-- The 64-bit words of window memory that a load from an area with uncorrectable lines leaves uncorrectable (08 R183). -/
def lostWords (s : State) (c : Ctx) : List Nat :=
  let share := areaOf c + 0x100000
  let key := winKey c.id.core (c.shareBase.toNat * 256)
  let len := (c.shareSize.toNat + 1) * 256
  ((s.bad ++ s.retired).filter (fun n => share ≤ n * 128 && n * 128 < share + len)).eraseDups.flatMap (fun n =>
    (List.range 16).map (fun i => (key + (n * 128 - share)) / 8 + i))

/-- CONTEXT_LOAD_COMPLETE: the set is Ready with the context of the save area at its KXSAVE (15 R349, R406), once its partition has slots on
the die of the area (08 R178) and no context of the other set has an overlapping share: one at rest there is parked first (16 R370). An
uncorrectable word of the window share stays one in window memory; one of the area otherwise is one of the partition's control state (15 R361). -/
def loadComplete (s : State) (c : CoreId) (b : Bool) : State :=
  let r := coreRec s c
  let x := getSet r b
  match x.st, x.ctx with
  | .loading, some id =>
    match rawCtx s id with
    | none => setCore s c (putSet r b { x with st := .ready })
    | some k =>
      let o := getSet r (!b)
      if inTheWay s o id && o.st != .loading then
        if o.st = .frozen ∨ o.st = .ready then setCore s c (putSet r (!b) { o with st := .parking }) else s
      else if !dramOk s id.part (areaOf k / 128) then s
      else if (s.bad ++ s.retired).any (fun n => inSpan k n && n * 128 < areaOf k + 0x100000) then contain s (id.part.extractLsb' 0 6)
      else
        let area := areaOf k
        let len := (k.shareSize.toNat + 1) * 256
        let key := winKey c (k.shareBase.toNat * 256)
        let s1 := putCtx (setCore s c (putSet r b { x with st := .ready, owed := 0 })) id
          { loadCtx s area k with moved := k.moved + 1 + x.owed }
        let inside := fun (k : Nat) => decide (key ≤ k) && decide (k < key + len)
        let s2 := { s1 with win := replaceRange s.win key len (moveRange s.mem (area + 0x100000) len key)
                            winBad := lostWords s k ++ s.winBad.filter (fun w => !inside (8 * w))
                            retired := s.retired.filter (fun n => n < 2 ^ 45 || !inside ((n - 2 ^ 45) * 128)) }
        updCtx s2 id (reexamine s2)
  | _, _ => s

/-- Contexts at rest in a core's sets whose last slot word has gone are parked (16 R372): `before` is the record with that word. -/
def parkRemoved (before r : CoreRec) : CoreRec :=
  let removed := fun (id : CtxId) => (List.range 8).any (fun i => descValid (descOf r i) && descCtx id.core (descOf r i) == id
    && slotNamed before i) && !(List.range 8).any (fun i => descValid (descOf r i) && descCtx id.core (descOf r i) == id && slotNamed r i)
  let park := fun (x : SetRec) => match x.ctx with
    | some id => if (x.st = .frozen ∨ x.st = .ready) ∧ removed id then { x with st := .parking } else x
    | none => x
  { r with setA := park r.setA, setB := park r.setB }

/-- A context that has left every slot and runs no more loses a pre-emption notice that it has not taken (15 R356, R362). -/
def dropNotices (s : State) (c : CoreId) : State :=
  let r := coreRec s c
  (List.range 8).foldl (fun t i =>
    let id := descCtx c (descOf r i)
    if !descValid (descOf r i) || slotNamed r i || isActive t id then t
    else updCtx t id (fun k => { k with asyncs := k.asyncs.filter (fun a => a.kcause != 0x18#9) })) s

/-- SPINE_SWITCH_COMPLETE: the multiplexer has switched (01 R10); a switch asked for meanwhile begins. -/
def spineDone (s : State) (c : CoreId) : State :=
  let r := coreRec s c
  match r.spineNew with
  | none => s
  | some x =>
    let next := match r.spineNext with
      | some y => if y = x then none else some y
      | none => none
    setCore s c { r with spine := x, spineNew := next, spineNext := none, entering := r.entering && next.isSome }

/-- The context of a save area: the one whose descriptor on the core names the area, else the one that the register image names, on this core
(16 R372, DESIGN CHOICE, log 15). -/
def areaCtx (s : State) (core : CoreId) (area : Nat) : CtxId :=
  match (coreRec s core).descs.find? (fun d => descValid d.2 && d.2.save.toNat = area) with
  | some d => descCtx core d.2
  | none => { core := core, part := (areaWord s.mem area 0x010088).setWidth 7,
              kctx := (areaWord s.mem area 0x010090).setWidth 16 }

/-! ## The instructions and events -/

def execCalendarSlotBoundary (c : CoreId) (s : State) : Host.Outcome State Fault Refusal := .next (slotBoundary s c)
def execContextLoadStart (c : CoreId) (s : State) : Host.Outcome State Fault Refusal := .next (loadStart s c)
def execContextLoadComplete (c : CoreId) (b : Bool) (s : State) : Host.Outcome State Fault Refusal :=
  .next (loadComplete s c b)
def execContextParkComplete (c : CoreId) (b : Bool) (s : State) : Host.Outcome State Fault Refusal :=
  .next (parkComplete s c b)
def execSpineSwitchComplete (c : CoreId) (s : State) : Host.Outcome State Fault Refusal := .next (spineDone s c)

end Sys2Proof.Machine
end

