-- ==== Sys2Proof/Machine/Flags.lean ====
section
/-! DEFINITION. Floating point (03 R51 to R66, 06 R121 to R127): formats, exact values, the one rounding with its
exception flags, arithmetic, comparisons and conversions, and what a raised exception does to a handler (03 R63). -/

namespace Sys2Proof.Machine

/-- A format: exponent and mantissa widths; E4M3 has no infinity (03 R51). -/
structure Fmt where
  ew : Nat
  mw : Nat
  e4m3 : Bool
  deriving DecidableEq, Repr

/-- The format of a code (03 R52); the reserved codes 6 and 7 never reach here. -/
def fmtOf (code : BitVec 3) : Fmt :=
  if code = 0#3 then ⟨11, 52, false⟩ else if code = 1#3 then ⟨8, 23, false⟩ else if code = 2#3 then ⟨8, 7, false⟩
  else if code = 3#3 then ⟨5, 10, false⟩ else if code = 4#3 then ⟨4, 3, true⟩ else ⟨5, 2, false⟩

def Fmt.width (f : Fmt) : Nat := 1 + f.ew + f.mw
def Fmt.bias (f : Fmt) : Nat := 2 ^ (f.ew - 1) - 1
def Fmt.emin (f : Fmt) : Int := 1 - (f.bias : Int)
def Fmt.signBit (f : Fmt) : Nat := 2 ^ (f.ew + f.mw)

/-- The default NaN (03 R53). -/
def Fmt.nan (f : Fmt) : Nat := if f.e4m3 then 0x7F else (2 ^ f.ew - 1) * 2 ^ f.mw + 2 ^ (f.mw - 1)

/-- Infinity, or the default NaN where the format has none (03 R59). -/
def Fmt.inf (f : Fmt) (neg : Bool) : Nat :=
  if f.e4m3 then 0x7F else (if neg then f.signBit else 0) + (2 ^ f.ew - 1) * 2 ^ f.mw

/-- The largest finite value with a sign. -/
def Fmt.largest (f : Fmt) (neg : Bool) : Nat :=
  (if neg then f.signBit else 0) + (if f.e4m3 then 0x7E else (2 ^ f.ew - 1) * 2 ^ f.mw - 1)

def Fmt.zero (f : Fmt) (neg : Bool) : Nat := if neg then f.signBit else 0

/-- A value: NaN (signalling or not), infinity, or ± m × 2^e. -/
inductive Fl where
  | nan (sig : Bool)
  | inf (neg : Bool)
  | fin (neg : Bool) (m : Nat) (e : Int)
  deriving DecidableEq, Repr

/-- The value of a bit pattern (03 R51, R53). -/
def flOf (f : Fmt) (bits : Nat) : Fl :=
  let neg := decide (bits / f.signBit % 2 = 1)
  let e := bits / 2 ^ f.mw % 2 ^ f.ew
  let m := bits % 2 ^ f.mw
  if f.e4m3 ∧ e = 15 ∧ m = 7 then .nan false
  else if ¬ f.e4m3 ∧ e = 2 ^ f.ew - 1 then
    if m = 0 then .inf neg else .nan (decide (m < 2 ^ (f.mw - 1)))
  else if e = 0 then .fin neg m (f.emin - f.mw)
  else .fin neg (m + 2 ^ f.mw) ((e : Int) - f.bias - f.mw)

/-- A result: bit pattern and raised exceptions, in the order of the enables of KFPC (03 R62): [0] invalid, [1] divide
by zero, [2] overflow, [3] underflow, [4] inexact. -/
structure FRes where
  bits : Nat
  flags : BitVec 5
  deriving DecidableEq, Repr

/-- ± m × 2^e rounded to a multiple of 2^q: the multiple and whether something was discarded (03 R59). -/
def roundAt (mode : BitVec 2) (neg : Bool) (m : Nat) (e q : Int) : Nat × Bool :=
  if q ≤ e then (m * 2 ^ (e - q).toNat, false)
  else
    let sh := (q - e).toNat
    let n := m / 2 ^ sh
    let r := m % 2 ^ sh
    let up := if mode = 0#2 then decide (2 ^ sh < 2 * r) || (decide (2 * r = 2 ^ sh) && decide (n % 2 = 1))
              else if mode = 1#2 then false
              else if mode = 2#2 then !neg && decide (r ≠ 0)
              else neg && decide (r ≠ 0)
    (if up then n + 1 else n, decide (r ≠ 0))

/-- Exponent of the leading bit of m × 2^e, for m ≠ 0. -/
def leadExp (m : Nat) (e : Int) : Int := e + m.log2

/-- THE ONE ROUNDING of an exact nonzero value (03 R59, R60): overflow by mode, or ±largest under saturation. -/
def roundF (f : Fmt) (mode : BitVec 2) (sat : Bool) (neg : Bool) (m : Nat) (e : Int) : FRes :=
  if m = 0 then ⟨f.zero neg, 0⟩
  else
    let qn := leadExp m e - f.mw
    let q := if qn < f.emin - f.mw then f.emin - f.mw else qn
    let r := roundAt mode neg m e q
    let u := roundAt mode neg m e qn
    let inexact : BitVec 5 := if r.2 then 0x10#5 else 0
    let top := leadExp r.1 q
    let emax : Int := if f.e4m3 then 8 else (f.bias : Int)
    let tooBig := r.1 ≠ 0 ∧ (emax < top ∨ (f.e4m3 ∧ top = 8 ∧ 15 ≤ r.1 / 2 ^ ((top - q).toNat - f.mw)))
    if tooBig then
      let toInf := mode = 0#2 ∨ (mode = 2#2 ∧ ¬ neg) ∨ (mode = 3#2 ∧ neg)
      ⟨if sat ∨ ¬ toInf then f.largest neg else f.inf neg, 0x14#5⟩
    else
      let tiny := leadExp u.1 qn < f.emin
      let under : BitVec 5 := if tiny ∧ r.2 then 0x08#5 else 0
      let mag := if r.1 < 2 ^ f.mw then r.1
                 else
                   let sh := (top - q).toNat - f.mw
                   (q + sh + f.mw + f.bias).toNat * 2 ^ f.mw + (r.1 / 2 ^ sh - 2 ^ f.mw)
      ⟨(if neg then f.signBit else 0) + mag, inexact ||| under⟩

/-- A dyadic ± m × 2^e as an integer multiple of 2^q, q ≤ e. -/
def dyInt (neg : Bool) (m : Nat) (e q : Int) : Int :=
  let v : Int := (m * 2 ^ (e - q).toNat : Nat)
  if neg then -v else v

/-- The exact sum of two dyadics rounded once; an exact zero sum is +0, or −0 in rdn, unless both signs agree (03 R61). -/
def addFin (f : Fmt) (mode : BitVec 2) (sat : Bool) (n1 : Bool) (m1 : Nat) (e1 : Int) (n2 : Bool) (m2 : Nat) (e2 : Int) :
    FRes :=
  let q := if e1 ≤ e2 then e1 else e2
  let s := dyInt n1 m1 e1 q + dyInt n2 m2 e2 q
  if s = 0 then ⟨f.zero (if n1 = n2 ∧ m1 = 0 ∧ m2 = 0 then n1 else decide (mode = 3#2)), 0⟩
  else roundF f mode sat (decide (s < 0)) s.natAbs q

def isSig : Fl → Bool
  | .nan s => s
  | _ => false

def isNan : Fl → Bool
  | .nan _ => true
  | _ => false

/-- The default NaN, with invalid when asked. -/
def nanRes (f : Fmt) (invalid : Bool) : FRes := ⟨f.nan, if invalid then 1 else 0⟩

/-- x + y. -/
def fAdd (f : Fmt) (mode : BitVec 2) (sat : Bool) (x y : Fl) : FRes :=
  match x, y with
  | .nan s, y => nanRes f (s || isSig y)
  | _, .nan s => nanRes f s
  | .inf a, .inf b => if a = b then ⟨f.inf a, 0⟩ else nanRes f true
  | .inf a, .fin _ _ _ => ⟨f.inf a, 0⟩
  | .fin _ _ _, .inf b => ⟨f.inf b, 0⟩
  | .fin n1 m1 e1, .fin n2 m2 e2 => addFin f mode sat n1 m1 e1 n2 m2 e2

/-- −y: the sign inverted. -/
def flNeg : Fl → Fl
  | .nan s => .nan s
  | .inf n => .inf (!n)
  | .fin n m e => .fin (!n) m e

def fSub (f : Fmt) (mode : BitVec 2) (sat : Bool) (x y : Fl) : FRes := fAdd f mode sat x (flNeg y)

/-- x × y. -/
def fMul (f : Fmt) (mode : BitVec 2) (sat : Bool) (x y : Fl) : FRes :=
  match x, y with
  | .nan s, y => nanRes f (s || isSig y)
  | _, .nan s => nanRes f s
  | .inf a, .inf b => ⟨f.inf (a ^^ b), 0⟩
  | .inf a, .fin b m _ => if m = 0 then nanRes f true else ⟨f.inf (a ^^ b), 0⟩
  | .fin a m _, .inf b => if m = 0 then nanRes f true else ⟨f.inf (a ^^ b), 0⟩
  | .fin n1 m1 e1, .fin n2 m2 e2 => roundF f mode sat (n1 ^^ n2) (m1 * m2) (e1 + e2)

/-- x × y + z with one rounding (06 R124). -/
def fFma (f : Fmt) (mode : BitVec 2) (sat : Bool) (x y z : Fl) : FRes :=
  let anySig := isSig x || isSig y || isSig z
  let zeroInf := match x, y with
    | .inf _, .fin _ m _ => decide (m = 0)
    | .fin _ m _, .inf _ => decide (m = 0)
    | _, _ => false
  if zeroInf then nanRes f true
  else if isNan x || isNan y || isNan z then nanRes f anySig
  else
    let sign := fun (v : Fl) => match v with
      | .inf n => n
      | .fin n _ _ => n
      | .nan _ => false
    match x, y, z with
    | .fin n1 m1 e1, .fin n2 m2 e2, .fin n3 m3 e3 => addFin f mode sat (n1 ^^ n2) (m1 * m2) (e1 + e2) n3 m3 e3
    | .fin _ _ _, .fin _ _ _, .inf n => ⟨f.inf n, 0⟩
    | x, y, .inf n => if (sign x ^^ sign y) = n then ⟨f.inf n, 0⟩ else nanRes f true
    | x, y, _ => ⟨f.inf (sign x ^^ sign y), 0⟩

/-- x ÷ y; the quotient carries enough bits and a sticky bit. -/
def fDiv (f : Fmt) (mode : BitVec 2) (sat : Bool) (x y : Fl) : FRes :=
  match x, y with
  | .nan s, y => nanRes f (s || isSig y)
  | _, .nan s => nanRes f s
  | .inf _, .inf _ => nanRes f true
  | .inf a, .fin b _ _ => ⟨f.inf (a ^^ b), 0⟩
  | .fin a _ _, .inf b => ⟨f.zero (a ^^ b), 0⟩
  | .fin n1 m1 e1, .fin n2 m2 e2 =>
    if m2 = 0 then
      if m1 = 0 then nanRes f true
      else ⟨if sat then f.largest (n1 ^^ n2) else f.inf (n1 ^^ n2), 2⟩
    else
      let k := f.mw + 4 + m2.log2
      let q := m1 * 2 ^ k / m2
      let sticky := if m1 * 2 ^ k % m2 = 0 then 0 else 1
      roundF f mode sat (n1 ^^ n2) (2 * q + sticky) (e1 - e2 - k - 1)

/-- √x. -/
def fSqrt (f : Fmt) (mode : BitVec 2) (sat : Bool) (x : Fl) : FRes :=
  match x with
  | .nan s => nanRes f s
  | .inf n => if n then nanRes f true else ⟨f.inf false, 0⟩
  | .fin n m e =>
    if m = 0 then ⟨f.zero n, 0⟩
    else if n then nanRes f true
    else
      let k := 2 * (f.mw + 3) + (if e % 2 = 0 then 0 else 1)
      let v := m * 2 ^ k
      let r := v.sqrt
      let sticky := if r * r = v then 0 else 1
      roundF f mode sat false (2 * r + sticky) ((e - k) / 2 - 1)

/-- The order of numbers as an integer comparison: −1, 0 or 1; zeros are equal. -/
def flCmp (x y : Fl) : Int :=
  let big := fun (v : Fl) => match v with
    | .inf n => if n then (-1 : Int) else 1
    | _ => 0
  match x, y with
  | .fin n1 m1 e1, .fin n2 m2 e2 =>
    let q := if e1 ≤ e2 then e1 else e2
    (dyInt n1 m1 e1 q - dyInt n2 m2 e2 q).sign
  | x, y => (big x - big y).sign

/-- The sign bit of a number. -/
def flSign : Fl → Bool
  | .nan _ => false
  | .inf n => n
  | .fin n _ _ => n

/-- x below y where −0 orders below +0 (03 R61). -/
def flBelow (x y : Fl) : Bool :=
  let c := flCmp x y
  decide (c < 0) || (decide (c = 0) && flSign x && !flSign y)

/-- The lesser (or greater) of two operands by bit pattern (03 R61, 06 R122). -/
def fMinMax (f : Fmt) (greater : Bool) (a b : Nat) : FRes :=
  let x := flOf f a
  let y := flOf f b
  if isSig x || isSig y then nanRes f true
  else if isNan x && isNan y then nanRes f false
  else if isNan x then ⟨b, 0⟩
  else if isNan y then ⟨a, 0⟩
  else if greater then ⟨if flBelow x y then b else a, 0⟩ else ⟨if flBelow y x then b else a, 0⟩

/-- |x| and −x (03 R61): only the sign bit changes, a NaN gives the default NaN. -/
def fSignOp (f : Fmt) (clear : Bool) (a : Nat) : FRes :=
  match flOf f a with
  | .nan s => nanRes f s
  | _ => ⟨if clear then a % f.signBit else if a / f.signBit % 2 = 1 then a - f.signBit else a + f.signBit, 0⟩

/-- The class mask of 06 R123. -/
def fClass (f : Fmt) (a : Nat) : Nat :=
  match flOf f a with
  | .nan s => if s then 256 else 512
  | .inf n => if n then 1 else 128
  | .fin n m _ =>
    if m = 0 then (if n then 8 else 16)
    else if m < 2 ^ f.mw then (if n then 4 else 32)
    else (if n then 2 else 64)

/-- The relations EQ, LT, LE, UN with the invalid they raise (06 R125). -/
def fRel (rel : BitVec 2) (x y : Fl) : Bool × BitVec 5 :=
  let nan := isNan x || isNan y
  let sig := isSig x || isSig y
  let c := flCmp x y
  if rel = 0#2 then (!nan && decide (c = 0), if sig then 1 else 0)
  else if rel = 1#2 then (!nan && decide (c < 0), if nan then 1 else 0)
  else if rel = 2#2 then (!nan && decide (c ≤ 0), if nan then 1 else 0)
  else (nan, if sig then 1 else 0)

/-- Float to float (03 R66). With saturation an infinite operand gives the largest finite value in every direction, to a wider format and to
the same format too (DESIGN CHOICE, log 81). -/
def fConvert (src dst : Fmt) (mode : BitVec 2) (sat : Bool) (a : Nat) : FRes :=
  match flOf src a with
  | .nan s => nanRes dst s
  | .inf n => if sat then ⟨dst.largest n, 0⟩ else if dst.e4m3 then ⟨dst.nan, 1⟩ else ⟨dst.inf n, 0⟩
  | .fin n m e => roundF dst mode sat n m e

/-- Float to integer (03 R66): the nearest limit when out of range, 0 for a NaN; a fraction that the rounding discards is inexact beside
either. -/
def fToInt (src : Fmt) (t : BitVec 3) (mode : BitVec 2) (a : Nat) : FRes :=
  match flOf src a with
  | .nan _ => ⟨0, 1⟩
  | .inf n => ⟨(((if n then intMin t else intMax t) : Int) % 2 ^ intWidth t).toNat, 1⟩
  | .fin n m e =>
    let r := roundAt mode n m e 0
    let v : Int := if n then -(r.1 : Int) else r.1
    let inexact : BitVec 5 := if r.2 then 0x10 else 0
    if v < intMin t then ⟨(intMin t % 2 ^ intWidth t).toNat, 1 ||| inexact⟩
    else if intMax t < v then ⟨(intMax t % 2 ^ intWidth t).toNat, 1 ||| inexact⟩
    else ⟨(v % 2 ^ intWidth t).toNat, inexact⟩

/-- Integer to float (03 R66). -/
def intToF (t : BitVec 3) (dst : Fmt) (mode : BitVec 2) (sat : Bool) (a : Nat) : FRes :=
  let v := intOf t a
  roundF dst mode sat (decide (v < 0)) v.natAbs 0

/-! ## KFPC (03 R62, R63) -/

/-- The rounding mode of handler instructions without a rounding field. -/
def fpMode (s : State) : BitVec 2 := s.me.sys.kfpc.extractLsb' 0 2

/-- Flags ORed into the sticky flags [12:8] of KFPC. -/
def raiseFlags (s : State) (fl : BitVec 5) : State :=
  { s with me.sys.kfpc := s.me.sys.kfpc ||| (fl.setWidth 64 <<< 8) }

/-- The end of a handler floating-point instruction (03 R63): the flags are set; an enabled exception is a precise trap
with the destination unwritten, else the result is written and the PC advances. -/
def fpEnd (s : State) (fl : BitVec 5) (write : State → State) : Host.Outcome State Fault Refusal :=
  let s1 := raiseFlags s fl
  if fl &&& s.me.sys.kfpc.extractLsb' 2 5 ≠ 0#5 then .next (takeTrap s1 { cause := 0x0D, value := fl.setWidth 64 })
  else .next (nextPc (write s1))

/-- A floating-point result in a register, zero-extended (06 R122). -/
def fpWrite (s : State) (d : Reg) (r : FRes) : Host.Outcome State Fault Refusal :=
  fpEnd s r.flags (fun t => writeG t d (BitVec.ofNat 64 r.bits))

/-- The low bits of g[r] in a format. -/
def fpArg (s : State) (f : Fmt) (r : Reg) : Nat := (readG s r).toNat % 2 ^ f.width

end Sys2Proof.Machine
end

