-- ==== Sys2Proof/Machine/Scalar.lean ====
section
/-! DEFINITION. Integer instructions: ALU, MULDIV, BITS, immediates, constants and conditions (06 R112 to R120). -/

namespace Sys2Proof.Machine

/-- The end of an instruction whose one effect is a register: g[d] := v and the PC advances. -/
def setG (s : State) (d : Reg) (v : Word) : Host.Outcome State Fault Refusal := .next (nextPc (writeG s d v))

/-- The end of an instruction whose one effect is a condition register. -/
def setC (s : State) (d : CReg) (v : Bool) : Host.Outcome State Fault Refusal := .next (nextPc (writeC s d v))

/-- The word of an instruction, as a fault of checks 2 to 6 records it (04 R83). -/
def wordOf (i : Instr) : Word := ((encode i).getD 0).setWidth 64

/-- The shift amount b[5:0]; bits [63:6] are ignored (06 R112). -/
def shamt (b : Word) : Nat := (b.extractLsb' 0 6).toNat

/-- ADD: (a + b) mod 2^64 (06 R112). -/
def execAdd (d a b : Reg) (s : State) : Host.Outcome State Fault Refusal :=
  setG s d (readG s a + readG s b)

/-- SUB: (a − b) mod 2^64 (06 R112). -/
def execSub (d a b : Reg) (s : State) : Host.Outcome State Fault Refusal :=
  setG s d (readG s a - readG s b)

/-- AND: bitwise and (06 R112). -/
def execAnd (d a b : Reg) (s : State) : Host.Outcome State Fault Refusal :=
  setG s d (readG s a &&& readG s b)

/-- OR: bitwise or (06 R112). -/
def execOr (d a b : Reg) (s : State) : Host.Outcome State Fault Refusal :=
  setG s d (readG s a ||| readG s b)

/-- XOR: bitwise exclusive or (06 R112). -/
def execXor (d a b : Reg) (s : State) : Host.Outcome State Fault Refusal :=
  setG s d (readG s a ^^^ readG s b)

/-- ANDN: a & ~b (06 R112). -/
def execAndn (d a b : Reg) (s : State) : Host.Outcome State Fault Refusal :=
  setG s d (readG s a &&& ~~~ readG s b)

/-- ORN: a | ~b (06 R112). -/
def execOrn (d a b : Reg) (s : State) : Host.Outcome State Fault Refusal :=
  setG s d (readG s a ||| ~~~ readG s b)

/-- SHL: a << b[5:0] (06 R112). -/
def execShl (d a b : Reg) (s : State) : Host.Outcome State Fault Refusal :=
  setG s d (readG s a <<< shamt (readG s b))

/-- SHR: a >> b[5:0], zeros shifted in (06 R112). -/
def execShr (d a b : Reg) (s : State) : Host.Outcome State Fault Refusal :=
  setG s d (readG s a >>> shamt (readG s b))

/-- SHA: a >> b[5:0], copies of a[63] shifted in (06 R112). -/
def execSha (d a b : Reg) (s : State) : Host.Outcome State Fault Refusal :=
  setG s d ((readG s a).sshiftRight (shamt (readG s b)))

/-- ROL: a rotated left by b[5:0] (06 R112). -/
def execRol (d a b : Reg) (s : State) : Host.Outcome State Fault Refusal :=
  setG s d ((readG s a).rotateLeft (shamt (readG s b)))

/-- MIN: the lesser as S64 (06 R112). -/
def execMin (d a b : Reg) (s : State) : Host.Outcome State Fault Refusal :=
  setG s d (if (readG s b).slt (readG s a) then readG s b else readG s a)

/-- MAX: the greater as S64 (06 R112). -/
def execMax (d a b : Reg) (s : State) : Host.Outcome State Fault Refusal :=
  setG s d (if (readG s a).slt (readG s b) then readG s b else readG s a)

/-- MINN: the lesser as N64 (06 R112). -/
def execMinn (d a b : Reg) (s : State) : Host.Outcome State Fault Refusal :=
  setG s d (if (readG s b).ult (readG s a) then readG s b else readG s a)

/-- MAXN: the greater as N64 (06 R112). -/
def execMaxn (d a b : Reg) (s : State) : Host.Outcome State Fault Refusal :=
  setG s d (if (readG s a).ult (readG s b) then readG s b else readG s a)

/-- ADDS: the sum clamped to S64 (06 R112). -/
def execAdds (d a b : Reg) (s : State) : Host.Outcome State Fault Refusal :=
  setG s d (clampS64 ((readG s a).toInt + (readG s b).toInt))

/-- SUBS: the difference clamped to S64 (06 R112). -/
def execSubs (d a b : Reg) (s : State) : Host.Outcome State Fault Refusal :=
  setG s d (clampS64 ((readG s a).toInt - (readG s b).toInt))

/-- ADD32: the 32-bit sum, zero-extended (06 R112). -/
def execAdd32 (d a b : Reg) (s : State) : Host.Outcome State Fault Refusal :=
  setG s d (((readG s a).setWidth 32 + (readG s b).setWidth 32).setWidth 64)

/-- SUB32: the 32-bit difference, zero-extended (06 R112). -/
def execSub32 (d a b : Reg) (s : State) : Host.Outcome State Fault Refusal :=
  setG s d (((readG s a).setWidth 32 - (readG s b).setWidth 32).setWidth 64)

/-- SEL: a if c is 1, else b (06 R112). -/
def execSel (d a b : Reg) (c : CReg) (s : State) : Host.Outcome State Fault Refusal :=
  setG s d (if readC s c then readG s a else readG s b)

/-- MUL: (a × b) mod 2^64 (06 R113). -/
def execMul (d a b : Reg) (s : State) : Host.Outcome State Fault Refusal :=
  setG s d (readG s a * readG s b)

/-- MULH: the high half of the signed product (06 R113). -/
def execMulh (d a b : Reg) (s : State) : Host.Outcome State Fault Refusal :=
  setG s d (BitVec.ofInt 64 ((readG s a).toInt * (readG s b).toInt / 2 ^ 64))

/-- MULHN: the high half of the unsigned product (06 R113). -/
def execMulhn (d a b : Reg) (s : State) : Host.Outcome State Fault Refusal :=
  setG s d (BitVec.ofNat 64 ((readG s a).toNat * (readG s b).toNat / 2 ^ 64))

/-- A division: a zero divisor raises cause 0x0E with the dividend (06 R113). -/
def divide (s : State) (d a b : Reg) (q : Word → Word → Word) : Host.Outcome State Fault Refusal :=
  if readG s b = 0#64 then .next (takeTrap s { cause := 0x0E, value := readG s a }) else setG s d (q (readG s a) (readG s b))

/-- DIV: signed, truncating toward zero; −2^63 ÷ −1 is −2^63 (06 R113). -/
def execDiv (d a b : Reg) (s : State) : Host.Outcome State Fault Refusal :=
  divide s d a b (fun x y => x.sdiv y)

/-- DIVN: unsigned (06 R113). -/
def execDivn (d a b : Reg) (s : State) : Host.Outcome State Fault Refusal :=
  divide s d a b (fun x y => x / y)

/-- REM: the signed remainder, with the sign of the dividend (06 R113). -/
def execRem (d a b : Reg) (s : State) : Host.Outcome State Fault Refusal :=
  divide s d a b (fun x y => x.srem y)

/-- REMN: the unsigned remainder (06 R113). -/
def execRemn (d a b : Reg) (s : State) : Host.Outcome State Fault Refusal :=
  divide s d a b (fun x y => x % y)

/-- MUL32: the 32-bit product, zero-extended (06 R113). -/
def execMul32 (d a b : Reg) (s : State) : Host.Outcome State Fault Refusal :=
  setG s d (((readG s a).setWidth 32 * (readG s b).setWidth 32).setWidth 64)

/-- CLZ: leading zero bits (06 R114). -/
def execClz (d a : Reg) (s : State) : Host.Outcome State Fault Refusal :=
  setG s d (BitVec.ofNat 64 (clzWord (readG s a)))

/-- CTZ: trailing zero bits (06 R114). -/
def execCtz (d a : Reg) (s : State) : Host.Outcome State Fault Refusal :=
  setG s d (BitVec.ofNat 64 (ctzWord (readG s a)))

/-- POPC: one bits (06 R114). -/
def execPopc (d a : Reg) (s : State) : Host.Outcome State Fault Refusal :=
  setG s d (BitVec.ofNat 64 (popcWord (readG s a)))

/-- BREV: bits reversed (06 R114). -/
def execBrev (d a : Reg) (s : State) : Host.Outcome State Fault Refusal :=
  setG s d (brevWord (readG s a))

/-- BSWAP: bytes reversed (06 R114). -/
def execBswap (d a : Reg) (s : State) : Host.Outcome State Fault Refusal :=
  setG s d (bswapWord (readG s a))

/-- ABS: the absolute value; −2^63 stays (06 R114). -/
def execAbs (d a : Reg) (s : State) : Host.Outcome State Fault Refusal :=
  setG s d (if (readG s a).msb then - readG s a else readG s a)

/-- NEG: (−a) mod 2^64 (06 R114). -/
def execNeg (d a : Reg) (s : State) : Host.Outcome State Fault Refusal :=
  setG s d (- readG s a)

/-- EXT: the field sign-extended (06 R115). -/
def execExt (d a b : Reg) (s : State) : Host.Outcome State Fault Refusal :=
  setG s d (extractS (readG s a) (readG s b))

/-- EXTN: the field zero-extended (06 R115). -/
def execExtn (d a b : Reg) (s : State) : Host.Outcome State Fault Refusal :=
  setG s d (extractN (readG s a) (readG s b))

/-- INS: the field inserted; reads before the write (06 R115). -/
def execIns (d a b : Reg) (s : State) : Host.Outcome State Fault Refusal :=
  setG s d (insertField (readG s d) (readG s a) (readG s b))

/-- CSUM: one word folded into the running sum in gd (06 R116). -/
def execCsum (d a : Reg) (s : State) : Host.Outcome State Fault Refusal :=
  setG s d ((csumStep ((readG s d).setWidth 32) ((readG s a).setWidth 32)).setWidth 64)

/-- ADDI: the sum with the sign-extended immediate (06 R117). -/
def execAddi (d a : Reg) (i : BitVec 14) (s : State) : Host.Outcome State Fault Refusal :=
  setG s d (readG s a + i.signExtend 64)

/-- ANDI: and with the zero-extended immediate (06 R117). -/
def execAndi (d a : Reg) (i : BitVec 14) (s : State) : Host.Outcome State Fault Refusal :=
  setG s d (readG s a &&& i.setWidth 64)

/-- ORI: or with the zero-extended immediate (06 R117). -/
def execOri (d a : Reg) (i : BitVec 14) (s : State) : Host.Outcome State Fault Refusal :=
  setG s d (readG s a ||| i.setWidth 64)

/-- XORI: exclusive or with the zero-extended immediate (06 R117). -/
def execXori (d a : Reg) (i : BitVec 14) (s : State) : Host.Outcome State Fault Refusal :=
  setG s d (readG s a ^^^ i.setWidth 64)

/-- SHLI: shift left by the immediate amount (06 R117). -/
def execShli (d a : Reg) (n : BitVec 6) (s : State) : Host.Outcome State Fault Refusal :=
  setG s d (readG s a <<< n.toNat)

/-- SHRI: logical shift right by the immediate amount (06 R117). -/
def execShri (d a : Reg) (n : BitVec 6) (s : State) : Host.Outcome State Fault Refusal :=
  setG s d (readG s a >>> n.toNat)

/-- SHAI: arithmetic shift right by the immediate amount (06 R117). -/
def execShai (d a : Reg) (n : BitVec 6) (s : State) : Host.Outcome State Fault Refusal :=
  setG s d ((readG s a).sshiftRight n.toNat)

/-- ROLI: rotate left by the immediate amount (06 R117). -/
def execRoli (d a : Reg) (n : BitVec 6) (s : State) : Host.Outcome State Fault Refusal :=
  setG s d ((readG s a).rotateLeft n.toNat)

/-- LI: the sign-extended immediate (06 R118). -/
def execLi (d : Reg) (i : BitVec 20) (s : State) : Host.Outcome State Fault Refusal :=
  setG s d (i.signExtend 64)

/-- LIS: gd shifted left by 20 with the immediate below (06 R118). -/
def execLis (d : Reg) (i : BitVec 20) (s : State) : Host.Outcome State Fault Refusal :=
  setG s d (readG s d <<< 20 ||| i.setWidth 64)

/-- LEA: PC + 4 × the immediate (06 R118). -/
def execLea (d : Reg) (i : BitVec 20) (s : State) : Host.Outcome State Fault Refusal :=
  setG s d (target s.me.regs.pc i)

/-- CEQ: equal (06 R119). -/
def execCeq (d : CReg) (a b : Reg) (s : State) : Host.Outcome State Fault Refusal :=
  setC s d (readG s a == readG s b)

/-- CNE: not equal (06 R119). -/
def execCne (d : CReg) (a b : Reg) (s : State) : Host.Outcome State Fault Refusal :=
  setC s d (readG s a != readG s b)

/-- CLT: less as S64 (06 R119). -/
def execClt (d : CReg) (a b : Reg) (s : State) : Host.Outcome State Fault Refusal :=
  setC s d ((readG s a).slt (readG s b))

/-- CLE: at most as S64 (06 R119). -/
def execCle (d : CReg) (a b : Reg) (s : State) : Host.Outcome State Fault Refusal :=
  setC s d ((readG s a).sle (readG s b))

/-- CLTN: less as N64 (06 R119). -/
def execCltn (d : CReg) (a b : Reg) (s : State) : Host.Outcome State Fault Refusal :=
  setC s d ((readG s a).ult (readG s b))

/-- CLEN: at most as N64 (06 R119). -/
def execClen (d : CReg) (a b : Reg) (s : State) : Host.Outcome State Fault Refusal :=
  setC s d ((readG s a).ule (readG s b))

/-- CTST: a common one bit (06 R119). -/
def execCtst (d : CReg) (a b : Reg) (s : State) : Host.Outcome State Fault Refusal :=
  setC s d (readG s a &&& readG s b != 0#64)

/-- CAND: and of two condition registers (06 R119). -/
def execCand (d a b : CReg) (s : State) : Host.Outcome State Fault Refusal :=
  setC s d (readC s a && readC s b)

/-- COR: or of two condition registers (06 R119). -/
def execCor (d a b : CReg) (s : State) : Host.Outcome State Fault Refusal :=
  setC s d (readC s a || readC s b)

/-- CXOR: exclusive or of two condition registers (06 R119). -/
def execCxor (d a b : CReg) (s : State) : Host.Outcome State Fault Refusal :=
  setC s d (readC s a != readC s b)

/-- CNOT: not of a condition register (06 R119). -/
def execCnot (d a : CReg) (s : State) : Host.Outcome State Fault Refusal :=
  setC s d (!readC s a)

/-- CMPI: g[a] compared with the sign-extended immediate (06 R120, 04 R77). -/
def execCmpi (d : CReg) (cond : BitVec 3) (a : Reg) (i : BitVec 14) (s : State) : Host.Outcome State Fault Refusal :=
  setC s d (condHolds cond (readG s a) (i.signExtend 64))

end Sys2Proof.Machine
end

