-- ==== Sys2Proof/Machine/Monitor.lean ====
section
/-! DEFINITION. Containment events (15 R357 to R360), the module halt (16 R381) and the monitor's command registers
MPART, MSTAGE, MCAL, MALLOW and MQUOTA (16 R367 to R371). -/

namespace Sys2Proof.Machine

/-! ## Containment and halts (15 R358, 16 R381) -/

/-- The module halts with a code (16 R381). -/
def haltModule (s : State) (code : Byte) : State :=
  { s with boot := { s.boot with phase := 0xFF, code := code, halted := true } }

/-- CONTAINMENT_COMPLETE: the event has acted on every core, die and link; busy reads 0 (16 R367). -/
def execContainmentComplete (p : BitVec 6) (s : State) : Host.Outcome State Fault Refusal :=
  .next (if (partRec s p).busy then setPart s p { partRec s p with busy := false } else s)

/-! ## MCAL (16 R369) -/

/-- An owner code (13 R317). -/
def ownerOk (v : Nat) : Bool := v ≤ 0x40 || v = 0x7F

/-- A calendar slot that MCAL refuses (13 R316). -/
def slotRefused (r : CoreRec) (w : BitVec 32) : Bool :=
  let k := slotKind w
  let bad := fun i => !descValid (descOf r i)
  k == 3#2 || (k == 1#2 && bad (slotA w)) || (k == 2#2 && (bad (slotA w) || bad (slotB w) || slotA w = slotB w))
    || (k ≠ 2#2 && slotSpine w ≠ 0#3)

/-- A context that comes to exist with its descriptor (DESIGN CHOICE, log 16). -/
def createCtx (s : State) (id : CtxId) (d : Desc) : State :=
  if (findCtx s id).isSome then s
  else { s with others := { Ctx.create id with sys.xsave := d.save.setWidth 64, shareBase := d.shareBase,
                                               shareSize := d.shareSize } :: s.others }

/-- A context whose descriptor is cleared: its state in a set is parked first, where it has any, and it is retired then (16 R372; DESIGN CHOICE,
log 16). -/
def clearCtx (s : State) (id : CtxId) : State :=
  let r := coreRec s id.core
  match setOf s id with
  | none => retireCtx s id
  | some b =>
    let x := getSet r b
    match x.st with
    | .frozen | .ready => setCore s id.core (putSet r b { x with st := .parking, gone := true })
    | .active | .parking => setCore s id.core (putSet r b { x with gone := true })
    | _ => retireCtx s id

/-- A context that a descriptor names is not on its way to its retirement. -/
def keepCtx (s : State) (id : CtxId) : State :=
  let r := coreRec s id.core
  match setOf s id with
  | none => s
  | some b => if (getSet r b).gone then setCore s id.core (putSet r b { getSet r b with gone := false }) else s

/-- A descriptor's word 0 written: the context it named is retired, the one it names is created. -/
def writeDesc (s : State) (c : CoreId) (i : Nat) (w : BitVec 23) : State :=
  let r := coreRec s c
  let old := descOf r i
  let new : Desc := { old with w0 := w }
  let s1 := setCore s c { r with descs := tabPut {} r.descs i new }
  let s2 := if descValid old ∧ (¬ descValid new ∨ descCtx c old ≠ descCtx c new) then clearCtx s1 (descCtx c old) else s1
  if descValid new then keepCtx (createCtx s2 (descCtx c new) new) (descCtx c new) else s2

/-- A descriptor's save area written; it is the context's KXSAVE too (15 R349). -/
def writeSave (s : State) (c : CoreId) (i : Nat) (a : BitVec 52) : State :=
  let r := coreRec s c
  let new : Desc := { descOf r i with save := a }
  let s1 := setCore s c { r with descs := tabPut {} r.descs i new }
  if descValid new then updCtx s1 (descCtx c new) (fun k => { k with sys.xsave := a.setWidth 64 }) else s1

/-- Result of a command: status, data read back, new state. -/
structure Cmd where
  status : Nat
  data : Nat
  st : State

/-- A calendar of 7-bit owner codes read or written (16 R369 tables 4 to 7). -/
def ownerCmd (s : State) (t : Tab (BitVec 7)) (key : Nat) (write zero : Bool) (data : Nat)
    (put : Tab (BitVec 7) → State) : Cmd :=
  if ¬ write then ⟨0, (tabGet 0x40 t key).toNat, s⟩
  else if 2 ^ 7 ≤ data then ⟨3, data, s⟩
  else if ¬ ownerOk data ∨ (zero ∧ data ≠ 0x40) then ⟨1, data, s⟩
  else ⟨0, data, put (tabPut 0x40 t key (BitVec.ofNat 7 data))⟩

/-- The command of an MTS to MCAL (16 R369). A slot boundary that is due takes place before a stop (16 R383). -/
def mcalRun (s : State) (v : Word) : Cmd :=
  let data := (v.extractLsb' 28 36).toNat
  let write := v.getLsbD 27
  let table := (v.extractLsb' 24 3).toNat
  let dir := v.extractLsb' 22 2
  let target := v.extractLsb' 10 12
  let index := (v.extractLsb' 4 6).toNat
  let r := coreRec s target
  if table ≤ 3 then
    if dir ≠ 0#2 then ⟨3, data, s⟩
    else if isMonitorCore target then ⟨2, data, s⟩
    else if table = 0 then
      if 16 ≤ index then ⟨2, data, s⟩
      else if ¬ write then ⟨0, (nextWord r index).toNat, s⟩
      else if 2 ^ 27 ≤ data then ⟨3, data, s⟩
      else
        let w := BitVec.ofNat 32 data
        if slotRefused r w then ⟨1, data, s⟩
        else
          let n := if r.running then { r with slotsNew := tabInsert r.slotsNew index w }
                   else { r with slots := tabPut 0 r.slots index w, slotsNew := tabErase r.slotsNew index }
          ⟨0, data, dropNotices (setCore s target (parkRemoved r n)) target⟩
    else if table = 1 then
      if 8 ≤ index then ⟨2, data, s⟩
      else if ¬ write then ⟨0, (descOf r index).w0.toNat, s⟩
      else if 2 ^ 23 ≤ data then ⟨3, data, s⟩
      else ⟨0, data, writeDesc s target index (BitVec.ofNat 23 data)⟩
    else if table = 2 then
      if 8 ≤ index then ⟨2, data, s⟩
      else if ¬ write then ⟨0, (descOf r index).save.toNat / 2 ^ 16, s⟩
      else if data / 2 ^ 30 ≠ s.module.toNat then ⟨1, data, s⟩
      else ⟨0, data, writeSave s target index (BitVec.ofNat 52 (data * 2 ^ 16))⟩
    else
      if index ≠ 0 then ⟨2, data, s⟩
      else if ¬ write then ⟨0, if r.running then 2 else 0, s⟩
      else if 2 ≤ data then ⟨3, data, s⟩
      else if data = 1 then ⟨0, data, setCore s target (startCalendar r s.ktime)⟩
      else
        let s1 := slotBoundary s target
        let n := coreRec s1 target
        ⟨0, data, setCore s1 target { n with stopReq := n.running }⟩
  else
    let slots := table = 4 ∨ table = 6
    let limit := if slots then 64 else 16
    let outer := 6 ≤ table
    if outer ∧ dir.getLsbD 1 then ⟨3, data, s⟩
    else if outer ∧ ¬ (target.toNat < 10 ∨ (16 ≤ target.toNat ∧ target.toNat < 40)) then ⟨2, data, s⟩
    else if limit ≤ index then ⟨2, data, s⟩
    else
      let link := if outer then outerLink target.toNat (dir.getLsbD 0) else meshLink target dir
      if slots then ownerCmd s s.links (link * 64 + index) write (index = 0) data (fun t => { s with links := t })
      else ownerCmd s s.vcs (link * 16 + index) write (index = 0) data (fun t => { s with vcs := t })

/-- A command with its data and status filled in, as MFS returns it. -/
def mcalWord (v : Word) (c : Cmd) : Word :=
  BitVec.ofNat 64 ((v.toNat / 16 % 2 ^ 24) * 16 + c.status + (if c.status = 0 then c.data % 2 ^ 36 else (v.toNat / 2 ^ 28)) * 2 ^ 28)

/-- An MTS to MCAL: the command is performed and recorded. -/
def mcalOp (s : State) (v : Word) : State :=
  let c := mcalRun s v
  setMyCore c.st { myCore c.st with mcal := mcalWord v c }

/-! ## MQUOTA (16 R370) -/

/-- The descriptors named together with descriptor i in a paired slot. -/
def pairedWith (r : CoreRec) (i : Nat) : List Nat :=
  ((List.range 16).map (fun k => nextWord r k)).filterMap (fun w =>
    if slotKind w = 2#2 ∧ slotLen w ≠ 0 then
      if slotA w = i then some (slotB w) else if slotB w = i then some (slotA w) else none
    else none)

/-- A partition that the monitor creates with the first valid entry of its core list: its counters, barriers and ephemeris stand at their reset
values (13 R305, 14 R331), and no containment event has befallen it (16 R376; DESIGN CHOICE, log 5). -/
def createPart (q : PartRec) : PartRec := { q with dcs := [], bars := [], eph := [], contained := 0 }

/-- The command of an MTS to MQUOTA (16 R370) for the partition that MPART selects. -/
def mquotaRun (s : State) (v : Word) : Cmd :=
  let data := (v.extractLsb' 40 24).toNat
  let write := v.getLsbD 39
  let table := (v.extractLsb' 36 3).toNat
  let index := (v.extractLsb' 20 16).toNat
  let p := (myCore s).mpart
  let q := partRec s p
  if v.extractLsb' 4 16 ≠ 0#16 ∨ 4 ≤ table then ⟨3, data, s⟩
  else if table = 0 then
    if 640 ≤ index then ⟨2, data, s⟩
    else if ¬ write then ⟨0, (tabGet 0 q.ways index).toNat, s⟩
    else if 2 ^ 20 ≤ data then ⟨3, data, s⟩
    else ⟨0, data, setPart s p { q with ways := tabPut 0 q.ways index (BitVec.ofNat 20 data) }⟩
  else if table = 1 then
    let left := ((List.range 64).filter (fun i =>
      i ≠ index % 64 ∧ tabGet 0x40 s.dram (index / 64 * 64 + i) = 0x40#7)).length
    if 512 ≤ index then ⟨2, data, s⟩
    else if ¬ write then ⟨0, (tabGet 0x40 s.dram index).toNat, s⟩
    else if 2 ^ 7 ≤ data then ⟨3, data, s⟩
    else if 0x40 < data ∨ (data ≠ 0x40 ∧ left = 0) then ⟨1, data, s⟩
    else ⟨0, data, { s with dram := tabPut 0x40 s.dram index (BitVec.ofNat 7 data) }⟩
  else if table = 2 then
    let core : CoreId := BitVec.ofNat 12 index
    let i := index / 2 ^ 12
    let r := coreRec s core
    let d := descOf r i
    let base := data % 2 ^ 12
    let size := data / 2 ^ 12
    let id := descCtx core d
    if 8 ≤ i ∨ isMonitorCore core then ⟨2, data, s⟩
    else if ¬ write then ⟨0, d.shareBase.toNat + d.shareSize.toNat * 2 ^ 12, s⟩
    else if 4096 < base + size + 1
        ∨ (pairedWith r i).any (fun j => sharesMeet base size (descOf r j).shareBase.toNat (descOf r j).shareSize.toNat)
        ∨ (descValid d ∧ (r.setA.ctx = some id ∨ r.setB.ctx = some id)) then ⟨1, data, s⟩
    else
      let new : Desc := { d with shareBase := BitVec.ofNat 12 base, shareSize := BitVec.ofNat 12 size }
      let s1 := setCore s core { r with descs := tabPut {} r.descs i new }
      ⟨0, data, updCtx s1 id (fun c => { c with shareBase := new.shareBase, shareSize := new.shareSize })⟩
  else
    let core : CoreId := BitVec.ofNat 12 data
    let valid := data / 2 ^ 12 % 2 = 1
    if 4096 ≤ index then ⟨2, data, s⟩
    else if ¬ write then
      ⟨0, match tabFind q.coreList index with | none => (tabGet 0 q.coreOld index).toNat | some c => c.toNat + 2 ^ 12, s⟩
    else if 2 ^ 13 ≤ data then ⟨3, data, s⟩
    else if valid ∧ (isMonitorCore core ∨ q.coreList.any (fun e => e.1 ≠ index ∧ e.2 = core)) then ⟨1, data, s⟩
    else ⟨0, data, setPart s p
      (if valid then { (if q.coreList.isEmpty then createPart q else q) with coreList := tabInsert q.coreList index core, coreOld := tabErase q.coreOld index }
       else { q with coreList := tabErase q.coreList index, coreOld := tabPut 0 q.coreOld index core })⟩

/-- A command with its data and status filled in. -/
def mquotaWord (v : Word) (c : Cmd) : Word :=
  BitVec.ofNat 64 ((v.toNat / 16 % 2 ^ 36) * 16 + c.status + (if c.status = 0 then c.data % 2 ^ 24 else (v.toNat / 2 ^ 40)) * 2 ^ 40)

def mquotaOp (s : State) (v : Word) : State :=
  let c := mquotaRun s v
  setMyCore c.st { myCore c.st with mquota := mquotaWord v c }

/-! ## MPART, MSTAGE, MALLOW (16 R367, R368, R371) -/

/-- MPART: select a partition; contain = 1 raises its containment event. -/
def mpartOp (s : State) (v : Word) : State :=
  let p := v.extractLsb' 0 6
  let s1 := setMyCore s { myCore s with mpart := p }
  if v.getLsbD 8 then contain s1 p else s1

def mpartRead (s : State) : Word :=
  let p := (myCore s).mpart
  (BitVec.ofBool (partRec s p).busy ++ 0#3 ++ p).setWidth 64

def mstageOp (s : State) (v : Word) : State :=
  let p := (myCore s).mpart
  setPart s p { partRec s p with mstage := v &&& 0x000FFFFFFFFFFE00#64 }

def mallowOp (s : State) (v : Word) : State :=
  let p := (myCore s).mpart
  setPart s p { partRec s p with allow := v.setWidth 16 }

end Sys2Proof.Machine
end

