-- ==== Sys2Proof/Machine/Control.lean ====
section
/-! DEFINITION. Handler control and selection (06 R132, 13 R308, 15 R342, R343), traps and returns (06 R133, R134),
system registers (05 R100 to R106, 06 R135) and the monitor's context-set instructions (06 R136, R137). -/

namespace Sys2Proof.Machine

/-! ## Waking and selection -/

/-- Does the condition of a WAIT hold (14 R326)? -/
def countersHold (c : Ctx) (l st cp tl : BitVec 5) : Bool :=
  loadsOut c ≤ l.toNat && storesOut c ≤ st.toNat && copiesOut c ≤ cp.toNat && tilesOut c ≤ tl.toNat

/-- Handlers Blocked in WAIT whose condition holds become Runnable (14 R326). -/
def wakeCounters (c : Ctx) : Ctx :=
  { c with htab := c.htab.map (fun e =>
      match e.why with
      | .counters l st cp tl => if countersHold c l st cp tl then wake e else e
      | _ => e) }

/-- An eligible entry is Runnable and not masked (13 R308). -/
def eligible (e : Entry) : Bool := e.st == .runnable && !e.image.getLsbD 60

/-- The entry that selection picks, in the order last+1, last+2, … mod 32 (13 R308). -/
def pickEntry (c : Ctx) : Option (BitVec 5) :=
  let order := (List.range 32).map (fun k => c.last + 1 + BitVec.ofNat 5 k)
  let es := order.filter (fun i => eligible (getEntry c i))
  let starved := es.filter (fun i => 4064 ≤ (getEntry c i).wait.toNat)
  let top := fun (f : BitVec 5 → Nat) (l : List (BitVec 5)) => l.find? (fun i => l.all (fun j => f j ≤ f i))
  if starved.isEmpty then top (fun i => ((getEntry c i).image.extractLsb' 48 3).toNat) es
  else top (fun i => (getEntry c i).wait.toNat) starved

/-- The wait counts after a selection (13 R308). -/
def countWaits (c : Ctx) (pick : BitVec 5) : Ctx :=
  { c with
    htab := Vector.ofFn (fun i : Fin 32 =>
      let e := c.htab[i.val]
      if i.val = pick.toNat then { e with wait := 0 }
      else if eligible e then { e with wait := if e.wait = 4095 then 4095 else e.wait + 1 } else e)
    last := pick }

/-- The registers of a handler that starts from Idle (05 R108). -/
def startRegs (e : Entry) (g3 g4 : Word) : Hregs :=
  { e.block with
    pc := (e.image.extractLsb' 0 48).setWidth 64
    ks := { e.block.ks with priv := e.image.extractLsb' 58 2, ie := true }
    g := (e.block.g.set 3 g3).set 4 g4 }

/-- A start of entry i from Idle: cause word and argument, which for a channel word is the head of the inbox, or the one recorded at the mark
where the inbox has been emptied since (DESIGN CHOICE, log 75), or for entry 0 with an image and a nonempty fault queue the head of the
queue with KCAUSE, KEVAL and KELEM (15 R343, 05 R108). -/
def startEntry (c : Ctx) (i : BitVec 5) : Ctx × Bool :=
  let e := getEntry c i
  match (if i = 0#5 ∧ ¬ zeroImage e then c.faults else []) with
  | f :: fs =>
    let again := !fs.isEmpty || e.cause.isSome
    let e1 := { e with st := .running, pending := e.pending || again, why := .nothing, arrived := [] }
    ({ setEntry c i e1 with
       faults := fs
       run := some i
       regs := startRegs e (5#64 ||| ((f.kcause.extractLsb' 0 8).setWidth 64 <<< 8)) f.value
       sys.kcause := f.kcause.setWidth 64
       sys.keval := f.value
       sys.kelem := f.elem }, false)
  | [] =>
    let k := e.cause.getD { kind := 0, index := 0, arg := 0 }
    let arg := if k.kind = 1#8 then (inboxOf c (k.index.setWidth 6)).headD k.arg else k.arg
    let e1 := { e with st := .running, cause := none, why := .nothing, arrived := [] }
    ({ setEntry c i e1 with run := some i, regs := startRegs e (causeWord k) arg }, k.kind = 4#8)

/-- HANDLER_SELECTION (13 R308): with no Running handler and an eligible entry, the pick becomes Running: a start from
Idle, which is an acquire end of domain scope and drops marked lines for a launch, or the resumption of its block. -/
def selectHandler (s : State) : State :=
  if !isActive s s.me.id || s.me.run.isSome then s
  else match pickEntry s.me with
    | none => s
    | some i =>
      let s1 := countEvent { s with me := countWaits s.me i } 0x0E 1
      let e := getEntry s1.me i
      if e.resume then
        { s1 with me := { setEntry s1.me i { e with st := .running, resume := false, why := .nothing } with
                          run := some i, regs := e.block } }
      else
        let r := startEntry s1.me i
        let s2 := { s1 with me := r.1 }
        let s3 := if r.2 then { s2 with me.l1 := s2.me.l1.filter (fun l => !l.ro) } else s2
        acquireEnd s3 i 3

def execHandlerSelection (s : State) : Host.Outcome State Fault Refusal := .next (selectHandler s)

/-- The pending asynchronous cause of lowest code (05 R101). -/
def lowestAsync (c : Ctx) : Option FaultItem :=
  c.asyncs.find? (fun a => c.asyncs.all (fun b => a.kcause.toNat ≤ b.kcause.toNat))

/-- ASYNC_CAUSE_DELIVERY (05 R101, 15 R342): in place to a running handler with IE = 1, or into the fault queue when no
handler is Running and no entry is eligible. A delivery in place ends IDLE, and a word that had issued and waited issues anew. -/
def deliverAsync (s : State) : State :=
  if !isActive s s.me.id then s
  else match lowestAsync s.me with
    | none => s
    | some a =>
      if s.me.run.isSome then
        if s.me.regs.ks.ie then
          takeTrap { s with me.asyncs := s.me.asyncs.erase a, me.sys.idle := false, me.stalled := false, me.pinWait := none } { cause := a.kcause.setWidth 8, value := a.value }
        else s
      else if (pickEntry s.me).isSome || s.me.faults.any (fun f => f.kcause = a.kcause) then s
      else { s with me := queueFault a { s.me with asyncs := s.me.asyncs.erase a } }

def execAsyncCauseDelivery (s : State) : Host.Outcome State Fault Refusal := .next (deliverAsync s)

/-! ## CTL (06 R132) -/

/-- ILL: major 0x00 is an illegal instruction (04 R78, R83). -/
def execIll (x : BitVec 26) (s : State) : Host.Outcome State Fault Refusal :=
  .next (takeTrap s { cause := 0x01, value := wordOf (.ill x) })

def execNop (s : State) : Host.Outcome State Fault Refusal := .next (nextPc s)

/-- The running entry gives up the sequencer with its block at a PC. -/
def leave (c : Ctx) (i : BitVec 5) (pc : Word) (f : Entry → Entry) : Ctx :=
  let c1 := saveBlock c i pc
  { setEntry c1 i (f (getEntry c1 i)) with run := none }

/-- END: waits for the handler's loads, is a release end of domain scope, and leaves the entry Idle, or Runnable when its
pending bit is set (06 R132, 10 R230). -/
def execEnd (s : State) : Host.Outcome State Fault Refusal :=
  match s.me.run with
  | none => .next s
  | some i =>
    if s.me.pend.any (fun p => p.entry == i && isLoadClass p) then .next (hold s)
    else finish s (regionEnd s true
      (let s1 := endRelease s
       .ok { s1 with me := leave s1.me i ((getEntry s1.me i).image.extractLsb' 0 48 |>.setWidth 64) (fun e =>
         if e.pending then { e with st := .runnable, pending := false, resume := false, wait := 0, why := .nothing }
         else { e with st := .idle, resume := false, why := .nothing }) }))

/-- YIELD: the block with PC + 4, Running → Runnable; this entry counts as the last chosen (06 R132). -/
def execYield (s : State) : Host.Outcome State Fault Refusal :=
  match s.me.run with
  | none => .next s
  | some i =>
    .next { s with me := { leave s.me i (nextPc s).me.regs.pc (fun e => { e with st := .runnable, resume := true, wait := 0 })
                           with last := i } }

/-- A condition that ends IDLE (06 R132). -/
def wakeCondition (c : Ctx) : Bool :=
  c.htab.toList.any (fun e => e.st == .runnable || e.pending) || !c.asyncs.isEmpty || !c.faults.isEmpty

/-- IDLE: stops issue while no wake condition holds; issue resumes at PC + 4 (06 R132). -/
def execIdle (s : State) : Host.Outcome State Fault Refusal :=
  finish s (needPriv s 1 (wordOf .idle)
    (.ok (if wakeCondition s.me then nextPc s else { nextPc s with me.sys.idle := true })))

/-! ## Traps and returns (06 R133, R134) -/

def execTrap (a : Reg) (s : State) : Host.Outcome State Fault Refusal :=
  .next (takeTrap s { cause := 0x16, value := readG s a })

def execHcall (a : Reg) (s : State) : Host.Outcome State Fault Refusal :=
  .next (takeTrap s { cause := 0x17, value := readG s a })

def execBrk (s : State) : Host.Outcome State Fault Refusal := .next (takeTrap s { cause := 0x15, value := 0 })

def execEret (s : State) : Host.Outcome State Fault Refusal :=
  finish s (needPriv s 1 (wordOf .eret) (eretOp s))

/-! ## System registers (05 R100 to R106) -/

/-- The lowest privilege that reads a register. -/
def readLevel (r : BitVec 12) : BitVec 2 :=
  if 0x800#12 ≤ r then 2
  else if [0x000, 0x006, 0x010, 0x011, 0x012, 0x013, 0x019].contains r then 0 else 1

/-- The lowest privilege that writes a register. -/
def writeLevel (r : BitVec 12) : BitVec 2 :=
  if 0x800#12 ≤ r then 2 else if r = 0x006#12 then 0 else if r = 0x012#12 then 2 else 1

/-- KCORE (05 R104). -/
def kcore (s : State) : Word := (coreIndex s s.me ++ 0#4 ++ s.me.id.core).setWidth 64

/-- The value that MFS reads. -/
def readSreg (s : State) (r : BitVec 12) : Word :=
  let y := s.me.sys
  let m := myCore s
  if r = 0x000 then kstate s
  else if r = 0x001 then y.kcause
  else if r = 0x002 then y.kepc
  else if r = 0x003 then y.keval
  else if r = 0x004 then y.kelem
  else if r = 0x005 then y.kvec
  else if r = 0x006 then y.kfpc
  else if r = 0x008 then y.scr0
  else if r = 0x009 then y.scr1
  else if r = 0x00A then y.scr2
  else if r = 0x00B then y.scr3
  else if r = 0x010 then kcore s
  else if r = 0x011 then s.me.id.part.setWidth 64
  else if r = 0x012 then s.me.id.kctx.setWidth 64
  else if r = 0x013 then s.ktime
  else if r = 0x014 then y.xsave
  else if r = 0x015 then y.spill
  else if r = 0x016 then y.spillEnd
  else if r = 0x018 then y.ktt
  else if r = 0x019 then y.trn.setWidth 64
  else if r = 0x020 then y.inj.setWidth 64
  else if r = 0x800 then (partRec s m.mpart).mstage
  else if r = 0x801 then mpartRead s
  else if r = 0x802 then m.mcal
  else if r = 0x803 then (partRec s m.mpart).allow.setWidth 64
  else if r = 0x804 then m.mquota
  else if r = 0x808 then m.mcause
  else if r = 0x809 then m.mepc
  else if r = 0x80A then m.meval
  else if r = 0x80B then mvecOf s m
  else if r = 0x80C then m.mscr0
  else if r = 0x80D then m.mscr1
  else if r = 0x80E then m.mscr2
  else if r = 0x80F then m.mscr3
  else m.mstate

/-- The privilege faults of a write of KSTATE (05 R101, 06 R135). -/
def kstateRefused (s : State) (v : Word) : Bool :=
  v.extractLsb' 0 2 == 3#2 || (priv s).toNat < (v.extractLsb' 0 2).toNat
    || (priv s == 1#2 && 2 ≤ (v.extractLsb' 4 2).toNat)

/-- A write of KSTATE: PRIV, IE, PPRIV, PIE and spine; in a solo slot a spine starts its switch, behind one in progress; in a paired slot it is
only recorded (05 R101, R110; 01 R10). -/
def writeKstate (s : State) (v : Word) : State :=
  let spine := v.extractLsb' 8 3
  let s1 := { s with me.regs.ks := kstOf (v.setWidth 7), me.sys.spine := spine }
  let r := myCore s1
  if r.paired then s1 else setMyCore s1 (switchSpine r spine)

/-- A write of KSPILL: held while the log is not empty (11 R263); an empty log moves with it. -/
def writeKspill (s : State) (v : Word) : State :=
  let w := v &&& ~~~ 0xFFF#64
  if s.me.fab.spillLog.isEmpty then
    { s with me.sys.spill := w, me.sys.spillHeld := none, me.fab.spillHead := w, me.fab.spillTail := w }
  else { s with me.sys.spillHeld := some w }

/-- A write of KSPILLEND re-arms halted logging (11 R263). -/
def writeKspillend (s : State) (v : Word) : State :=
  { s with me.sys.spillEnd := v &&& ~~~ 0xFFF#64, me.fab.spillPorts := [] }

/-- KCTX written by the monitor: the context's id wherever it stands (05 R100). -/
def writeKctx (s : State) (k : BitVec 16) : State :=
  let old := s.me.id
  let new : CtxId := { old with kctx := k }
  let ren := fun (x : SetRec) => if x.ctx = some old then { x with ctx := some new } else x
  let r := myCore s
  let s1 := setMyCore s { r with setA := ren r.setA, setB := ren r.setB }
  { s1 with me.id := new, grains := s1.grains.map (fun g => if g.ctx = old then { g with ctx := new } else g) }

/-- The effect of an MTS on a writable register (05 R100, R106). -/
def writeSreg (s : State) (r : BitVec 12) (v : Word) : State :=
  let m := myCore s
  if r = 0x000 then writeKstate s v
  else if r = 0x001 then { s with me.sys.kcause := v &&& 0x1FF#64 }
  else if r = 0x002 then { s with me.sys.kepc := v &&& ~~~ 3#64 }
  else if r = 0x003 then { s with me.sys.keval := v }
  else if r = 0x004 then { s with me.sys.kelem := v &&& ~~~ 0xF000#64 }
  else if r = 0x005 then { s with me.sys.kvec := v &&& ~~~ 0x3FF#64 }
  else if r = 0x006 then { s with me.sys.kfpc := v &&& 0x1F7F#64 }
  else if r = 0x008 then { s with me.sys.scr0 := v }
  else if r = 0x009 then { s with me.sys.scr1 := v }
  else if r = 0x00A then { s with me.sys.scr2 := v }
  else if r = 0x00B then { s with me.sys.scr3 := v }
  else if r = 0x012 then writeKctx s (v.setWidth 16)
  else if r = 0x014 then { s with me.sys.xsave := v &&& ~~~ 0xFFFF#64 }
  else if r = 0x015 then writeKspill s v
  else if r = 0x016 then writeKspillend s v
  else if r = 0x018 then { s with me.sys.ktt := v &&& 0x0000FFFFFFFFF000#64 }
  else if r = 0x020 then { s with me.sys.inj := v.setWidth 13 &&& 0x1FF7#13 }
  else if r = 0x800 then mstageOp s v
  else if r = 0x801 then mpartOp s v
  else if r = 0x802 then mcalOp s v
  else if r = 0x803 then mallowOp s v
  else if r = 0x804 then mquotaOp s v
  else if r = 0x808 then setMyCore s { m with mcause := v &&& 0x1FF#64 }
  else if r = 0x809 then setMyCore s { m with mepc := v &&& ~~~ 3#64 }
  else if r = 0x80A then setMyCore s { m with meval := v }
  else if r = 0x80B then setMyCore s { m with mvec := some (v &&& ~~~ 0x3FF#64) }
  else if r = 0x80C then setMyCore s { m with mscr0 := v }
  else if r = 0x80D then setMyCore s { m with mscr1 := v }
  else if r = 0x80E then setMyCore s { m with mscr2 := v }
  else if r = 0x80F then setMyCore s { m with mscr3 := v }
  else if r = 0x810 then setMyCore s { m with mstate := v &&& 0x7F#64 }
  else s

/-- A register number that an instruction names but the inventory does not let it name is an illegal instruction: check
4 of 04 R83 comes before privilege. -/
def execMfs (d : Reg) (r : BitVec 12) (s : State) : Host.Outcome State Fault Refusal :=
  if mfsOk r then finish s (needPriv s (readLevel r) (wordOf (.mfs d r)) (.ok (nextPc (writeG s d (readSreg s r)))))
  else .next (takeTrap s { cause := 0x01, value := wordOf (.mfs d r) })

/-- MTS (06 R135): the PC advances first, so that an effect on the running handler's context stands. -/
def mtsOp (a : Reg) (r : BitVec 12) (s : State) : Except Trap State :=
  needPriv s (writeLevel r) (wordOf (.mts a r))
    (if r = 0x000#12 ∧ kstateRefused s (readG s a) then .error { cause := 0x02, value := readG s a }
     else .ok (writeSreg (nextPc s) r (readG s a)))

def execMts (a : Reg) (r : BitVec 12) (s : State) : Host.Outcome State Fault Refusal :=
  if mtsOk r then finish s (mtsOp a r s) else .next (takeTrap s { cause := 0x01, value := wordOf (.mts a r) })

/-! ## The rows of MTS as steps of their own: each is the MTS of its register (and for MCAL and MQUOTA of its command);
on any other command it changes nothing. -/

def execKstateWrite (a : Reg) (s : State) : Host.Outcome State Fault Refusal := finish s (mtsOp a 0x000 s)
def execKinjWrite (a : Reg) (s : State) : Host.Outcome State Fault Refusal := finish s (mtsOp a 0x020 s)
def execKspillWrite (a : Reg) (s : State) : Host.Outcome State Fault Refusal := finish s (mtsOp a 0x015 s)
def execKspillendWrite (a : Reg) (s : State) : Host.Outcome State Fault Refusal := finish s (mtsOp a 0x016 s)

/-- MPART with contain set. -/
def execMpartContain (a : Reg) (s : State) : Host.Outcome State Fault Refusal :=
  if (readG s a).getLsbD 8 then finish s (mtsOp a 0x801 s) else .next s

/-- Is a word an MCAL command of this operation on one of these tables? -/
def isMcal (v : Word) (write : Bool) (tables : List Nat) : Bool :=
  v.getLsbD 27 == write && tables.contains (v.extractLsb' 24 3).toNat

def mcalStep (a : Reg) (write : Bool) (tables : List Nat) (s : State) : Host.Outcome State Fault Refusal :=
  if isMcal (readG s a) write tables then finish s (mtsOp a 0x802 s) else .next s

def execMcalSlotWrite (a : Reg) (s : State) : Host.Outcome State Fault Refusal := mcalStep a true [0] s
def execMcalSlotRead (a : Reg) (s : State) : Host.Outcome State Fault Refusal := mcalStep a false [0] s
def execMcalDescriptorWrite (a : Reg) (s : State) : Host.Outcome State Fault Refusal := mcalStep a true [1] s
def execMcalDescriptorRead (a : Reg) (s : State) : Host.Outcome State Fault Refusal := mcalStep a false [1] s
def execMcalSaveAreaWrite (a : Reg) (s : State) : Host.Outcome State Fault Refusal := mcalStep a true [2] s
def execMcalSaveAreaRead (a : Reg) (s : State) : Host.Outcome State Fault Refusal := mcalStep a false [2] s

/-- MCAL table 3 with run = 1. -/
def execMcalCalendarStart (a : Reg) (s : State) : Host.Outcome State Fault Refusal :=
  if (readG s a).getLsbD 28 then mcalStep a true [3] s else .next s

/-- MCAL table 3 with run = 0. -/
def execMcalCalendarStop (a : Reg) (s : State) : Host.Outcome State Fault Refusal :=
  if (readG s a).getLsbD 28 then .next s else mcalStep a true [3] s

def execMcalRunRead (a : Reg) (s : State) : Host.Outcome State Fault Refusal := mcalStep a false [3] s
def execMcalLinkSlotWrite (a : Reg) (s : State) : Host.Outcome State Fault Refusal := mcalStep a true [4] s
def execMcalLinkSlotRead (a : Reg) (s : State) : Host.Outcome State Fault Refusal := mcalStep a false [4] s
def execMcalLinkChannelWrite (a : Reg) (s : State) : Host.Outcome State Fault Refusal := mcalStep a true [5] s
def execMcalLinkChannelRead (a : Reg) (s : State) : Host.Outcome State Fault Refusal := mcalStep a false [5] s
def execMcalBridgeSlotWrite (a : Reg) (s : State) : Host.Outcome State Fault Refusal := mcalStep a true [6] s
def execMcalBridgeSlotRead (a : Reg) (s : State) : Host.Outcome State Fault Refusal := mcalStep a false [6] s
def execMcalBridgeChannelWrite (a : Reg) (s : State) : Host.Outcome State Fault Refusal := mcalStep a true [7] s
def execMcalBridgeChannelRead (a : Reg) (s : State) : Host.Outcome State Fault Refusal := mcalStep a false [7] s

def mquotaStep (a : Reg) (write : Bool) (table : Nat) (s : State) : Host.Outcome State Fault Refusal :=
  if (readG s a).getLsbD 39 = write ∧ ((readG s a).extractLsb' 36 3).toNat = table then finish s (mtsOp a 0x804 s) else .next s

def execMquotaWayMaskWrite (a : Reg) (s : State) : Host.Outcome State Fault Refusal := mquotaStep a true 0 s
def execMquotaWayMaskRead (a : Reg) (s : State) : Host.Outcome State Fault Refusal := mquotaStep a false 0 s
def execMquotaDramSlotWrite (a : Reg) (s : State) : Host.Outcome State Fault Refusal := mquotaStep a true 1 s
def execMquotaDramSlotRead (a : Reg) (s : State) : Host.Outcome State Fault Refusal := mquotaStep a false 1 s
def execMquotaShareWrite (a : Reg) (s : State) : Host.Outcome State Fault Refusal := mquotaStep a true 2 s
def execMquotaShareRead (a : Reg) (s : State) : Host.Outcome State Fault Refusal := mquotaStep a false 2 s
def execMquotaCoreListWrite (a : Reg) (s : State) : Host.Outcome State Fault Refusal := mquotaStep a true 3 s
def execMquotaCoreListRead (a : Reg) (s : State) : Host.Outcome State Fault Refusal := mquotaStep a false 3 s

/-- PRE_EMPTION_NOTICE: cause 0x18 becomes pending in the context with the calendar time of the stop (15 R356). -/
def execPreEmptionNotice (stop : Word) (s : State) : Host.Outcome State Fault Refusal :=
  .next { s with me := pendAsync 0x18 stop s.me }

/-! ## CTXSW, CTXPARK, CTXLOAD (06 R136, R137) -/

def setCode (x : SetSt) : Nat :=
  match x with
  | .empty => 0 | .loading => 1 | .ready => 2 | .active => 3 | .frozen => 4 | .parking => 5

/-- The checks common to the three, then the action on the named set: a status and the new state. -/
def ctxOp (s : State) (op : Word) (act : CoreId → Bool → SetRec → Nat × State) : Nat × State :=
  let core := op.extractLsb' 0 12
  let b := op.getLsbD 12
  let x := getSet (coreRec s core) b
  if op.extractLsb' 16 48 ≠ 0#48 ∨ op.extractLsb' 13 2 ≠ 0#2 then (5, s)
  else if isMonitorCore core then (2, s)
  else if op.getLsbD 15 then (0x100 + setCode x.st, s)
  else act core b x

def ctxEnd (s : State) (d : Reg) (word : Word) (r : Nat × State) : Host.Outcome State Fault Refusal :=
  finish s (needPriv s 2 word (.ok (nextPc (writeG r.2 d (BitVec.ofNat 64 r.1)))))

/-- CTXSW: with the calendar stopped, the named set becomes Active at the next token boundary. A request for the other set before that
boundary replaces this one (DESIGN CHOICE, log 93). -/
def execCtxsw (d a : Reg) (s : State) : Host.Outcome State Fault Refusal :=
  ctxEnd s d (wordOf (.ctxsw d a)) (ctxOp s (readG s a) (fun core b x =>
    let r := coreRec s core
    if r.running then (3, s)
    else if x.st = .ready ∨ x.st = .frozen then (0, setCore s core { r with swReq := some b })
    else (1, s)))

/-- CTXPARK: a Frozen or Ready set becomes Parking. -/
def execCtxpark (d a : Reg) (s : State) : Host.Outcome State Fault Refusal :=
  ctxEnd s d (wordOf (.ctxpark d a)) (ctxOp s (readG s a) (fun core b x =>
    if x.st = .ready ∨ x.st = .frozen then (0, setCore s core (putSet (coreRec s core) b { x with st := .parking }))
    else (1, s)))

/-- CTXLOAD: an Empty set becomes Loading with the context of the save area. The state of the set is looked at before the alignment of the address,
and address bits [63:52] are dropped (DESIGN CHOICE, log 73). -/
def execCtxload (d a b : Reg) (s : State) : Host.Outcome State Fault Refusal :=
  ctxEnd s d (wordOf (.ctxload d a b)) (ctxOp s (readG s a) (fun core sel x =>
    if x.st ≠ .empty then (1, s)
    else if (readG s b).extractLsb' 0 16 ≠ 0#16 then (4, s)
    else
      let area := (readG s b).toNat % 2 ^ 52
      let id := areaCtx s core area
      let s1 := createCtx s id { save := BitVec.ofNat 52 area }
      let s2 := updCtx s1 id (fun c => { c with sys.xsave := BitVec.ofNat 64 area })
      (0, setCore s2 core (putSet (coreRec s2 core) sel { x with st := .loading, ctx := some id }))))

end Sys2Proof.Machine
end

