-- ==== Sys2Proof/Machine/Memory.lean ====
section
/-! DEFINITION. Loads, stores, atomics, FENCE, cache maintenance and sync words (09 R188 to R200, 10 R237 to R241). -/

namespace Sys2Proof.Machine

/-- Check 4 of 04 R83 on a code field. -/
def codeOk (ok : Bool) (i : Instr) (k : Except Trap State) : Except Trap State :=
  if ok then k else .error { cause := 0x01, value := wordOf i }

/-- A load's value is bound at issue; its register is written at completion (14 R325). -/
def pendValue (s : State) (d : Reg) (v : Word) : State :=
  { s with me.pend := s.me.pend ++ [{ dst := d, entry := runEntry s, op := .value v }] }

/-- An instruction whose outstanding counter stands at 63 stalls issue (14 R325; event 0x0F, R336). -/
def unlessFull (n : Nat) (s : State) (k : Except Trap State) : Except Trap State :=
  if 63 ≤ n then .ok (holdFor s 0x0F) else k

/-- LD (09 R189). -/
def execLd (d a : Reg) (w : BitVec 3) (i : BitVec 7) (s : State) : Host.Outcome State Fault Refusal :=
  let size := widthSize w
  let ea := effAddr (readG s a) i size
  finish s (codeOk (widthOk w) (.ld d a w i) (unlessFull (loadsOut s.me) s
    (withAccess s ea size needRead (fun t pa => plainAccess t ea pa size false (fun u =>
      let r := l1Read u pa size false
      .ok (nextPc (pendValue r.1 d (loadValue w r.2))))))))

/-- The size of a store's two-bit width code: S8, S16, S32, 64-bit (09 R188). -/
def storeSize (w : BitVec 2) : Nat := 2 ^ w.toNat

/-- The virtual address of the line of an address. -/
def lineVa (va : Word) : Word := va &&& ~~~ 127#64

/-- ST (09 R189): the first operand is the register stored. -/
def execSt (d a : Reg) (w : BitVec 2) (i : BitVec 7) (s : State) : Host.Outcome State Fault Refusal :=
  let size := storeSize w
  let ea := effAddr (readG s a) i size
  finish s (unlessFull (storesOut s.me) s
    (withAccess s ea size needWrite (fun t pa => plainAccess t ea pa size true (fun u =>
      .ok (nextPc (noteVa (l1Write u pa size (readG u d).toNat) (pa / 128) (lineVa ea)))))))

/-- The tags that admit LDW and STW (08 R164): plain, line queue, sync-word area. -/
def wordTags : List (BitVec 3) := [0, 1, 2]

/-- LDW (09 R189, R190). -/
def execLdw (d a : Reg) (w : BitVec 3) (i : BitVec 7) (s : State) : Host.Outcome State Fault Refusal :=
  let size := widthSize w
  let ea := effAddr (readG s a) i size
  finish s (codeOk (widthOk w) (.ldw d a w i) (unlessFull (loadsOut s.me) s
    (winAccess s ea size wordTags (fun adr =>
      if winLost s s.me.id.core adr size then .error (winTrap s.me.id.core adr)
      else .ok (nextPc (pendValue s d (loadValue w (winNat s s.me.id.core adr size))))))))

/-- STW (09 R189, R190). -/
def execStw (d a : Reg) (w : BitVec 2) (i : BitVec 7) (s : State) : Host.Outcome State Fault Refusal :=
  let size := storeSize w
  let ea := effAddr (readG s a) i size
  finish s (unlessFull (storesOut s.me) s
    (winAccess s ea size wordTags (fun adr => .ok (nextPc (winPut s s.me.id.core adr size (readG s d).toNat)))))

/-- LDRO (09 R189, R191; 08 R172): the read-only path, outside the race check. -/
def execLdro (d a : Reg) (w : BitVec 3) (i : BitVec 7) (s : State) : Host.Outcome State Fault Refusal :=
  let size := widthSize w
  let ea := effAddr (readG s a) i size
  finish s (codeOk (widthOk w) (.ldro d a w i) (unlessFull (loadsOut s.me) s
    (withAccess s ea size needRead (fun t pa =>
      guardLine t ea (pa / 128) true
        (if readLost t pa size true then .error (lostTrap ea pa)
         else
           let r := l1Read t pa size true
           .ok (nextPc (pendValue r.1 d (loadValue w r.2))))))))

/-- The register of an operation's handler: in the sequencer while it runs, else in its block. -/
def writePend (c : Ctx) (entry : BitVec 5) (r : Reg) (v : Word) : Ctx :=
  if r = 0#6 then c
  else if c.run = some entry then { c with regs.g := c.regs.g.set r.toNat v }
  else
    let e := getEntry c entry
    setEntry c entry { e with block.g := e.block.g.set r.toNat v }

/-- LOAD_COMPLETION of the k-th outstanding operation: its register is written and the counter falls (14 R325). -/
def loadCompletion (k : Nat) (s : State) : State :=
  match s.me.pend[k]? with
  | some { dst := d, entry := e, op := .value v } =>
    { s with me := wakeCounters (writePend { s.me with pend := s.me.pend.eraseIdx k } e d v) }
  | _ => s

def execLoadCompletion (k : Nat) (s : State) : Host.Outcome State Fault Refusal := .next (loadCompletion k s)

/-! ## Atomics (09 R192 to R195) -/

def isRelease (order : BitVec 2) : Bool := order.getLsbD 1
def isAcquire (order : BitVec 2) : Bool := order.getLsbD 0

/-- Does it read? -/
def AtomOp.reads : AtomOp → Bool
  | .store _ => false
  | _ => true

/-- What an atomic of an order and scope meets first as a region end: nothing where it is relaxed (10 R230). -/
def atomEnd (s : State) (order scope : BitVec 2) (k : Except Trap State) : Except Trap State :=
  if order = 0#2 then k else regionEnd s (isRelease order && scope != 0#2) k

/-- An uncorrectable home of a line that no wholly dirty copy of the set repairs first (08 R183). -/
def homeLost (s : State) (pa : Nat) : Bool :=
  badLine s pa && !(match findLine s.me (pa / 128) with
    | some l => l.dirty == ~~~ 0#128
    | none => false)

/-- Issue of an atomic: checks, pinning and race check, registration, the write-backs that its release and its line ask for; it
performs later at the home slice (09 R193, 10 R236 to R238). It reaches the home slice at its issue: that decides which access of a race
is second (DEDUCED, log 44). -/
def issueAtomic (s : State) (d : Reg) (va : Word) (size : Nat) (need : Need) (op : AtomOp) (order scope : BitVec 2) :
    Host.Outcome State Fault Refusal :=
  finish s (unlessFull (if op.reads then loadsOut s.me else storesOut s.me) s
    (withAccess s va size need (fun t pa =>
      if !reachable t pa then .ok (contain t (myPart t))
      else checkedAccess t va pa size op.writes false (fun u =>
        atomEnd t order scope (guardBack t (t.me.l1.filter (fun l => l.num = pa / 128))
          (if op.reads && homeLost t pa then .error (lostTrap va pa)
           else
             let t1 := if isRelease order && scope ≠ 0#2 then cleanL1 u else u
             let t2 := dropLine t1 (pa / 128)
             .ok (nextPc { t2 with me.pend := t2.me.pend ++
               [{ dst := d, entry := runEntry t2,
                  op := .atomic { op := op, va := va, pa := pa, size := size, order := order, scope := scope,
                                  entry := runEntry t2, issued := t2.tick } }] })))))))

/-- A lane-wise floating addition in round-to-nearest-even without flags (03 R65). -/
def addLanes (f : Fmt) (w old x : Nat) : Nat :=
  joinLanes f.width ((List.range (w / f.width)).map (fun i =>
    (fAdd f 0 false (flOf f (lane (BitVec.ofNat 64 old) f.width i)) (flOf f (lane (BitVec.ofNat 64 x) f.width i))).bits))

/-- f(old, x) of 09 R193 on w-bit words. -/
def atomValue (fn : BitVec 4) (w old x : Nat) : Nat :=
  let sgn := fun (v : Nat) => if 2 ^ (w - 1) ≤ v then (v : Int) - 2 ^ w else (v : Int)
  if fn = 0#4 then (old + x) % 2 ^ w
  else if fn = 1#4 then old &&& x
  else if fn = 2#4 then old ||| x
  else if fn = 3#4 then old ^^^ x
  else if fn = 4#4 then (if sgn x < sgn old then x else old)
  else if fn = 5#4 then (if sgn old < sgn x then x else old)
  else if fn = 6#4 then (if x < old then x else old)
  else if fn = 7#4 then (if old < x then x else old)
  else if fn = 8#4 then x
  else if fn = 9#4 then addLanes (fmtOf 1) w old x
  else if fn = 0xA#4 then addLanes (fmtOf 0) w old x
  else addLanes (fmtOf 2) w old x

/-- The word an atomic stores, if it stores. -/
def atomStore (a : Atom) (old : Nat) : Option Nat :=
  match a.op with
  | .rmw fn x => some (atomValue fn (8 * a.size) old (x.toNat % 2 ^ (8 * a.size)))
  | .cas cmp new => if old = cmp.toNat % 2 ^ (8 * a.size) then some (new.toNat % 2 ^ (8 * a.size)) else none
  | .load => none
  | .store x => some (x.toNat % 2 ^ (8 * a.size))

/-- An edge of 10 R238 from an earlier atomic of the same handler forbids this one to perform first. -/
def atomHeld (earlier : List Pend) (a : Atom) : Bool :=
  earlier.any (fun p => match p.op with
    | .atomic x => x.entry == a.entry && (isAcquire x.order || isRelease a.order)
    | _ => false)

/-- Can an atomic perform now: nothing orders it behind an earlier one, and its home can serve it (10 R238, 08 R177, R178)? -/
def atomReady (s : State) (earlier : List Pend) (a : Atom) : Bool :=
  !atomHeld earlier a && (match atomStore a (memNat s.mem a.pa a.size) with
    | some v => writable s a.pa a.size (memPut s.mem a.pa a.size v)
    | none => readState s s.me.id.part (a.pa / 128) == .go)

/-- The read, change and write of an atomic at the home slice, with the order that it closes and opens: its release covers what its
handler registered before it issued, itself not, and its acquire drops clean lines (10 R230, R237). -/
def atomEffect (s : State) (a : Atom) : State :=
  let s1 := match atomStore a (memNat s.mem a.pa a.size) with
    | some v => homeWrite s a.pa a.size v
    | none => homeTouch s (a.pa / 128)
  let s2 := if isRelease a.order then closeGrains s1 a.entry a.issued a.scope.toNat else s1
  if isAcquire a.order then acquireEnd s2 a.entry a.scope.toNat else s2

/-- The closure that an END of the handler has left to an atomic: domain scope, at the moment it performs (DEDUCED, log 66). -/
def closeEnded (a : Atom) (s : State) : State :=
  match a.ended with
  | none => s
  | some t => closeGrains s a.entry t 3

/-- ATOMIC_PERFORM of the k-th outstanding operation, indivisibly (10 R237). -/
def performAtomic (k : Nat) (s : State) : State :=
  match s.me.pend[k]? with
  | some { dst := d, entry := e, op := .atomic a } =>
    if !atomReady s (s.me.pend.take k) a then s
    else
      let old := memNat s.mem a.pa a.size
      let s1 := atomEffect s a
      closeEnded a (if a.op.reads then
        { s1 with me.pend := s1.me.pend.set k { dst := d, entry := e, op := .value (BitVec.ofNat 64 old) } }
      else { s1 with me := wakeCounters { s1.me with pend := s1.me.pend.eraseIdx k } })
  | _ => s

def execAtomicPerform (k : Nat) (s : State) : Host.Outcome State Fault Refusal := .next (performAtomic k s)

/-- A read-modify-write of the ATOM majors (09 R193). -/
def atomRmw (s : State) (d a b : Reg) (fn : BitVec 4) (size : Nat) (o sc : BitVec 2) : Host.Outcome State Fault Refusal :=
  issueAtomic s d (readG s a) size needBoth (.rmw fn (readG s b)) o sc

/-! The ATOM majors 0x25 (8 bytes) and 0x2F (4 bytes). -/

def execAad (d a b : Reg) (o sc : BitVec 2) (s : State) : Host.Outcome State Fault Refusal := atomRmw s d a b 0 8 o sc
def execAand (d a b : Reg) (o sc : BitVec 2) (s : State) : Host.Outcome State Fault Refusal := atomRmw s d a b 1 8 o sc
def execAor (d a b : Reg) (o sc : BitVec 2) (s : State) : Host.Outcome State Fault Refusal := atomRmw s d a b 2 8 o sc
def execAxor (d a b : Reg) (o sc : BitVec 2) (s : State) : Host.Outcome State Fault Refusal := atomRmw s d a b 3 8 o sc
def execAmin (d a b : Reg) (o sc : BitVec 2) (s : State) : Host.Outcome State Fault Refusal := atomRmw s d a b 4 8 o sc
def execAmax (d a b : Reg) (o sc : BitVec 2) (s : State) : Host.Outcome State Fault Refusal := atomRmw s d a b 5 8 o sc
def execAminn (d a b : Reg) (o sc : BitVec 2) (s : State) : Host.Outcome State Fault Refusal := atomRmw s d a b 6 8 o sc
def execAmaxn (d a b : Reg) (o sc : BitVec 2) (s : State) : Host.Outcome State Fault Refusal := atomRmw s d a b 7 8 o sc
def execAswp (d a b : Reg) (o sc : BitVec 2) (s : State) : Host.Outcome State Fault Refusal := atomRmw s d a b 8 8 o sc
def execAfaddF32 (d a b : Reg) (o sc : BitVec 2) (s : State) : Host.Outcome State Fault Refusal := atomRmw s d a b 9 8 o sc
def execAfaddF64 (d a b : Reg) (o sc : BitVec 2) (s : State) : Host.Outcome State Fault Refusal := atomRmw s d a b 10 8 o sc
def execAfaddBf16 (d a b : Reg) (o sc : BitVec 2) (s : State) : Host.Outcome State Fault Refusal := atomRmw s d a b 11 8 o sc
def execAad32 (d a b : Reg) (o sc : BitVec 2) (s : State) : Host.Outcome State Fault Refusal := atomRmw s d a b 0 4 o sc
def execAand32 (d a b : Reg) (o sc : BitVec 2) (s : State) : Host.Outcome State Fault Refusal := atomRmw s d a b 1 4 o sc
def execAor32 (d a b : Reg) (o sc : BitVec 2) (s : State) : Host.Outcome State Fault Refusal := atomRmw s d a b 2 4 o sc
def execAxor32 (d a b : Reg) (o sc : BitVec 2) (s : State) : Host.Outcome State Fault Refusal := atomRmw s d a b 3 4 o sc
def execAmin32 (d a b : Reg) (o sc : BitVec 2) (s : State) : Host.Outcome State Fault Refusal := atomRmw s d a b 4 4 o sc
def execAmax32 (d a b : Reg) (o sc : BitVec 2) (s : State) : Host.Outcome State Fault Refusal := atomRmw s d a b 5 4 o sc
def execAminn32 (d a b : Reg) (o sc : BitVec 2) (s : State) : Host.Outcome State Fault Refusal := atomRmw s d a b 6 4 o sc
def execAmaxn32 (d a b : Reg) (o sc : BitVec 2) (s : State) : Host.Outcome State Fault Refusal := atomRmw s d a b 7 4 o sc
def execAswp32 (d a b : Reg) (o sc : BitVec 2) (s : State) : Host.Outcome State Fault Refusal := atomRmw s d a b 8 4 o sc
def execAfaddF3232 (d a b : Reg) (o sc : BitVec 2) (s : State) : Host.Outcome State Fault Refusal := atomRmw s d a b 9 4 o sc
def execAfaddBf1632 (d a b : Reg) (o sc : BitVec 2) (s : State) : Host.Outcome State Fault Refusal := atomRmw s d a b 11 4 o sc

/-- ACAS (09 R194). -/
def execAcas (d a b : Reg) (w : BitVec 1) (o sc : BitVec 2) (s : State) : Host.Outcome State Fault Refusal :=
  issueAtomic s d (readG s a) (if w = 1#1 then 4 else 8) needBoth (.cas (readG s d) (readG s b)) o sc

/-- An order that 04 R80 forbids is an illegal instruction. -/
def orderOk (ok : Bool) (s : State) (i : Instr) (k : Host.Outcome State Fault Refusal) : Host.Outcome State Fault Refusal :=
  if ok then k else .next (takeTrap s { cause := 0x01, value := wordOf i })

/-- ALD, ALD32: ordered atomic loads (09 R195). -/
def execAld (d a : Reg) (o sc : BitVec 2) (s : State) : Host.Outcome State Fault Refusal :=
  orderOk (o ≠ 2#2) s (.ald d a o sc) (issueAtomic s d (readG s a) 8 needRead .load o sc)

def execAld32 (d a : Reg) (o sc : BitVec 2) (s : State) : Host.Outcome State Fault Refusal :=
  orderOk (o ≠ 2#2) s (.ald32 d a o sc) (issueAtomic s d (readG s a) 4 needRead .load o sc)

/-- AST, AST32: ordered atomic stores (09 R195). -/
def execAst (a b : Reg) (o sc : BitVec 2) (s : State) : Host.Outcome State Fault Refusal :=
  orderOk (o ≠ 1#2) s (.ast a b o sc) (issueAtomic s 0 (readG s a) 8 needWrite (.store (readG s b)) o sc)

def execAst32 (a b : Reg) (o sc : BitVec 2) (s : State) : Host.Outcome State Fault Refusal :=
  orderOk (o ≠ 1#2) s (.ast32 a b o sc) (issueAtomic s 0 (readG s a) 4 needWrite (.store (readG s b)) o sc)

/-! ## FENCE (09 R196, R197) -/

/-- An outstanding atomic that writes is of the store kind too (09 R196). -/
def pendWrites (p : Pend) : Bool :=
  match p.op with
  | .atomic a => a.op.writes
  | _ => false

/-- Drains of the matrix queue: MXACC and MXSORT. -/
def isDrain (m : MxCmd) : Bool :=
  match m.op with
  | .acc _ _ | .sort _ => true
  | _ => false

/-- The accesses of memory nodes that a FENCE waits for: those of the context's graphs, on every core that they span, which the
nodes had accepted when it issued (09 R197). -/
def nodesOut (s : State) : Bool :=
  (allCtxs s).any (fun c => c.id.part == s.me.id.part && c.id.kctx == s.me.id.kctx
    && c.fab.nodes.any (fun n =>
      (c.id == s.me.id || (match tabFind c.fab.marks n.1 with
        | some g => g.core == s.me.id.core
        | none => false))
      && n.2.any (fun o => !o.done && o.age < s.me.first)))

/-- Every earlier operation of a named kind is complete (09 R197): bit 0 loads, 1 stores, 2 copies, 3 transforms, 4 fabric
memory nodes, 5 tile drains. -/
def fenceReady (s : State) (k : BitVec 6) : Bool :=
  let c := s.me
  (!k.getLsbD 0 || loadsOut c = 0)
  && (!k.getLsbD 1 || (storesOut c = 0 && !c.pend.any pendWrites))
  && (!k.getLsbD 2 || c.chans.toList.all (fun h => h.st == .idle))
  && (!k.getLsbD 3 || c.xq.isEmpty)
  && (!k.getLsbD 4 || !nodesOut s)
  && (!k.getLsbD 5 || !c.mx.queue.any isDrain)

/-- FENCE: stalls until its arcs hold; wider than core it writes back for st and drops clean unmarked lines for ld. -/
def execFence (k : BitVec 6) (sc : BitVec 2) (s : State) : Host.Outcome State Fault Refusal :=
  if k = 0#6 then .next (takeTrap s { cause := 0x01, value := wordOf (.fence k sc) })
  else if ¬ fenceReady s k then .next (hold s)
  else if k.getLsbD 1 ∧ sc ≠ 0#2 then
    finish s (guardBack s s.me.l1 (.ok (nextPc (if k.getLsbD 0 then dropClean (cleanL1 s) else cleanL1 s))))
  else .next (nextPc (if k.getLsbD 0 ∧ sc ≠ 0#2 then dropClean s else s))

/-! ## CACHE (09 R198) -/

/-- A write-back that an instruction asks for by address: a fault names that address (15 R361). -/
def atAddress (va : Word) (r : Except Trap State) : Except Trap State :=
  match r with
  | .error t => .error { t with value := va }
  | .ok t => .ok t

/-- CFLUSH: write back the line's dirty bytes; the line stays valid and clean. -/
def execCflush (a : Reg) (s : State) : Host.Outcome State Fault Refusal :=
  finish s (withAccess s (readG s a) 1 needRead (fun t pa =>
    match findLine t.me (pa / 128) with
    | none => .ok (nextPc t)
    | some l =>
      atAddress (readG s a) (guardBack t [l]
        (let t1 := writeBack t l
         .ok (nextPc { t1 with me.l1 := t1.me.l1.map (fun x => if x.num = l.num then { x with dirty := 0 } else x) })))))

/-- CINV: write back, then invalidate the set's copy, marked or not. -/
def execCinv (a : Reg) (s : State) : Host.Outcome State Fault Refusal :=
  finish s (withAccess s (readG s a) 1 needRead (fun t pa =>
    atAddress (readG s a) (guardBack t (t.me.l1.filter (fun l => l.num = pa / 128))
      (.ok (nextPc (dropLine t (pa / 128)))))))

/-- A line of zeros, every byte dirty and good; a marked copy goes first (08 R172), and the line leaves the retirement list (08 R183). It hits or
misses in the L1 as a store does (14 R336). -/
def zeroLine (s : State) (num : Nat) : State :=
  let s0 := countEvent s (if l1Hits s num false then 0x02 else 0x03) 1
  let s1 := match findLine s.me num with
    | some l => if l.ro then dropLine s0 l.num else s0
    | none => s0
  putLine (repairLine s1 num) { num := num, ro := false, data := 0, dirty := ~~~ 0, bad := 0 }

/-- CZERO: 128 zero bytes as a plain store that allocates without fetching. -/
def execCzero (a : Reg) (s : State) : Host.Outcome State Fault Refusal :=
  finish s (unlessFull (storesOut s.me) s (withAccess s (readG s a) 1 needWrite (fun t pa =>
    checkedAccess t (readG s a) (pa / 128 * 128) 128 true true (fun u =>
      guardHome t (some (readG s a)) ((evictees t (pa / 128)).map .back)
        (.ok (nextPc (noteVa (zeroLine u (pa / 128)) (pa / 128) (lineVa (readG s a)))))))))

/-- Does a fill meet nothing that stops it: write-backs that their homes take, and a good line that its home gives? -/
def fillsFreely (s : State) (num : Nat) : Bool :=
  (match guardLine s 0 num false (.ok { s with me.stalled := false }) with
   | .ok t => !t.me.stalled
   | .error _ => false) && !badLine s (num * 128)

/-- PREF: fills the line, needing no read, write or execute permission; does nothing where its translation fails or waits or the program bit
forbids it, and never faults. -/
def execPref (a : Reg) (s : State) : Host.Outcome State Fault Refusal :=
  match access s (priv s) (readG s a) 1 needNone with
  | .ok t pa =>
    .next (nextPc (if (findLine t.me (pa / 128)).isSome || !fillsFreely t (pa / 128) || !reachable t pa then t
                   else (l1Line t (pa / 128) false).1))
  | .trap f => .next (nextPc (f.base.getD s))
  | .stall _ => .next (nextPc s)

/-! ## Sync words (09 R199, R200) -/

/-- The address checks of the SYNCW group, and the word without an uncorrectable error (08 R183). -/
def syncAccess (s : State) (a : Reg) (k : Nat → Except Trap State) : Host.Outcome State Fault Refusal :=
  finish s (winAccess s (readG s a) 16 [2#3] (fun adr =>
    if winLost s s.me.id.core adr 16 then .error (winTrap s.me.id.core adr) else k adr))

def execSwset (a b : Reg) (s : State) : Host.Outcome State Fault Refusal :=
  syncAccess s a (fun adr =>
    let gen := winNat s s.me.id.core adr 8 / 2 ^ 48
    let s1 := winPut s s.me.id.core adr 8 ((readG s b).toNat % 2 ^ 48 + gen * 2 ^ 48)
    .ok (nextPc (winPut s1 s.me.id.core (adr + 8) 8 0)))

def execSwadd (a b : Reg) (s : State) : Host.Outcome State Fault Refusal :=
  syncAccess s a (fun adr => .ok (nextPc (syncArrive s s.me.id adr ((readG s b).toNat % 2 ^ 48))))

/-- SWWAIT: completes when the generation differs from the operand, an acquire end of domain scope; else blocks. -/
def execSwwait (d a b : Reg) (s : State) : Host.Outcome State Fault Refusal :=
  syncAccess s a (fun adr =>
    let gen : BitVec 16 := BitVec.ofNat 16 (winNat s s.me.id.core adr 8 / 2 ^ 48)
    if gen = (readG s b).setWidth 16 then .ok (blockOn s (.sync (BitVec.ofNat 20 adr) gen))
    else regionEnd s false (.ok (nextPc (writeG (acquireEnd s (runEntry s) 3) d (gen.setWidth 64)))))

def execSwget (d a : Reg) (s : State) : Host.Outcome State Fault Refusal :=
  syncAccess s a (fun adr =>
    let gen := winNat s s.me.id.core adr 8 / 2 ^ 48
    let count := winNat s s.me.id.core (adr + 8) 8 % 2 ^ 48
    .ok (nextPc (writeG s d (BitVec.ofNat 64 (gen * 2 ^ 48 + count)))))

end Sys2Proof.Machine
end

