-- ==== Sys2Proof/Machine/Counters.lean ====
section
/-! DEFINITION. Outstanding work, dependence counters, barriers and measurement (14 R324 to R340). -/

namespace Sys2Proof.Machine

/-- A configuration fault with the operand that breaks a rule. -/
def configFault (v : Word) : Except Trap State := .error { cause := 0x0F, value := v }

/-- A region end of the running handler that has not completed: a release or acquire atomic not yet performed. What a
DCNT instruction or a barrier arrival waits for (14 R327). -/
def regionPending (s : State) : Bool :=
  s.me.pend.any (fun p => match p.op with
    | .atomic a => a.entry == runEntry s && (isAcquire a.order || isRelease a.order)
    | _ => false)

/-- An atomic of the running handler has not performed: the arrival of BAR and BARW comes after the release of every earlier access
(14 R333, 10 R234; DEDUCED, log 66). -/
def atomicsOut (s : State) : Bool :=
  s.me.pend.any (fun p => match p.op with
    | .atomic a => a.entry == runEntry s
    | .value _ => false)

/-! ## WAIT (14 R326) -/

/-- WAIT: a region end of domain scope when the outstanding counters are at or below the immediates, else the handler
blocks. -/
def execWait (l st cp tl : BitVec 5) (s : State) : Host.Outcome State Fault Refusal :=
  finish s (if countersHold s.me l st cp tl then regionEnd s true (.ok (nextPc (acquireEnd (releaseEnd s 3) (runEntry s) 3)))
    else .ok (blockOn s (.counters l st cp tl)))

/-! ## Dependence counters (14 R327 to R330) -/

/-- A dependence counter at reset: count 0, flags clear, unbound. -/
def Dc.zero : Dc := { count := 0, underflow := false, bound := false, reached := false, binding := 0, arg := 0 }

def dcGet (s : State) (part : BitVec 7) (i : Nat) : Dc := tabGet Dc.zero (ownerRec s part).dcs i

def dcPut (s : State) (part : BitVec 7) (i : Nat) (d : Dc) : State :=
  let r := ownerRec s part
  setOwner s part { r with dcs := tabPut Dc.zero r.dcs i d }

/-- The core that an index of a core list names, for an owner code. -/
def ownerCore (s : State) (part : BitVec 7) (idx : Nat) : Option CoreId := tabFind (ownerRec s part).coreList idx

/-- The live context that a core-list index and a context id name. -/
def namedCtx (s : State) (part : BitVec 7) (idx : Nat) (kctx : BitVec 16) : Option CtxId :=
  match ownerCore s part idx with
  | none => none
  | some core =>
    let id : CtxId := { core := core, part := part, kctx := kctx }
    if (findCtx s id).isSome then some id else none

/-- COUNTER_FIRE: a bound counter marks the entry of its binding with cause kind 0x02 (14 R330). -/
def dcFire (s : State) (part : BitVec 7) (i : Nat) (d : Dc) : State :=
  if ¬ d.bound then s
  else match namedCtx s part (d.binding.extractLsb' 0 16).toNat (d.binding.extractLsb' 16 16) with
    | none => s
    | some id => updCtx s id (markSlot (d.binding.extractLsb' 32 5) { kind := 2, index := BitVec.ofNat 12 i, arg := d.arg })

/-- A decrement by an amount, as DCDEC makes it (14 R330). -/
def dcDecrement (s : State) (part : BitVec 7) (i : Nat) (a : BitVec 32) : State :=
  let d := dcGet s part i
  let count := if d.count < a then 0 else d.count - a
  let fires := d.count ≠ 0 ∧ count = 0
  let d1 := { d with count := count, underflow := d.underflow || decide (d.count < a), reached := d.reached || decide fires }
  let s1 := dcPut s part i d1
  if fires then dcFire s1 part i d1 else s1

/-- The index check of the DCNT group, after the region ends that it waits for. -/
def withCounter (s : State) (a : Reg) (k : Nat → Except Trap State) : Except Trap State :=
  if (readG s a).extractLsb' 12 52 ≠ 0#52 then configFault (readG s a)
  else if regionPending s then .ok (hold s)
  else k ((readG s a).toNat % 2 ^ 12)

def execDcset (d a b : Reg) (s : State) : Host.Outcome State Fault Refusal :=
  finish s (withCounter s a (fun i =>
    if (readG s b).extractLsb' 32 32 ≠ 0#32 then configFault (readG s b)
    else
      let old := dcGet s s.me.id.part i
      let s1 := dcPut s s.me.id.part i { old with count := (readG s b).setWidth 32, underflow := false, reached := false }
      toSystem s 81 (.ok (nextPc (writeG s1 d (old.count.setWidth 64))))))

def execDcadd (d a b : Reg) (s : State) : Host.Outcome State Fault Refusal :=
  finish s (withCounter s a (fun i =>
    let old := dcGet s s.me.id.part i
    let sum := old.count.toNat + (readG s b).toNat
    let s1 := dcPut s s.me.id.part i { old with count := BitVec.ofNat 32 sum, reached := old.reached && decide (sum = 0) }
    if (readG s b).extractLsb' 32 32 ≠ 0#32 then configFault (readG s b)
    else toSystem s 81
      (if 2 ^ 32 ≤ sum then configFault (readG s b) else .ok (nextPc (writeG s1 d (old.count.setWidth 64))))))

def execDcdec (d a b : Reg) (s : State) : Host.Outcome State Fault Refusal :=
  finish s (withCounter s a (fun i =>
    if (readG s b).extractLsb' 32 32 ≠ 0#32 then configFault (readG s b)
    else
      let old := dcGet s s.me.id.part i
      toSystem s 81 (.ok (nextPc (writeG (dcDecrement s s.me.id.part i ((readG s b).setWidth 32)) d (old.count.setWidth 64))))))

def execDcget (d a : Reg) (s : State) : Host.Outcome State Fault Refusal :=
  finish s (withCounter s a (fun i =>
    let c := dcGet s s.me.id.part i
    toSystem s 81 (.ok (nextPc (writeG s d
      ((BitVec.ofBool c.reached ++ BitVec.ofBool c.bound ++ BitVec.ofBool c.underflow ++ c.count).setWidth 64))))))

/-- DCBIND: gd is read, as the argument. -/
def execDcbind (d a b : Reg) (s : State) : Host.Outcome State Fault Refusal :=
  let w := readG s b
  let part := s.me.id.part
  finish s (needPriv s 1 (wordOf (.dcbind d a b)) (withCounter s a (fun i =>
    if w.extractLsb' 38 26 ≠ 0#26 ∨ (ownerCore s part (w.extractLsb' 0 16).toNat).isNone then configFault w
    else
      let c := dcGet s part i
      let c1 := { c with bound := true, binding := w.setWidth 37, arg := readG s d }
      let s1 := nextPc (dcPut s part i c1)
      toSystem s 81
        (if ¬ w.getLsbD 37 then .ok (nextPc (dcPut s part i { c with bound := false }))
         else if (namedCtx s part (w.extractLsb' 0 16).toNat (w.extractLsb' 16 16)).isNone then .error { cause := 0x10, value := w }
         else .ok (if c.count = 0#32 ∧ c.reached then dcFire s1 part i c1 else s1)))))

/-- ENGINE_DECREMENT of the k-th signal on its way: a decrement by 1, with its acknowledgement; signals that one context
sends to one counter arrive in order (14 R327, R330). One without a path to the system core's die is discarded with a containment event (16 R366). -/
def execEngineDecrement (k : Nat) (s : State) : Host.Outcome State Fault Refusal :=
  match s.decrs[k]? with
  | none => .next s
  | some d =>
    if (s.decrs.take k).any (fun x => x.part = d.part && x.counter = d.counter && x.ctx = d.ctx) then .next s
    else if systemReach s d.part d.ctx.core 81 then .next (dcDecrement { s with decrs := s.decrs.eraseIdx k } d.part d.counter.toNat 1)
    else .next (contain s (d.part.extractLsb' 0 6))

/-! ## Barriers (14 R331 to R333) -/

/-- A barrier at reset: uninitialised. -/
def Bar.zero : Bar := { n := 0, arrived := 0, gen := 0, link := 0 }

def barGet (s : State) (part : BitVec 7) (b : Nat) : Bar := tabGet Bar.zero (ownerRec s part).bars b

def barPut (s : State) (part : BitVec 7) (b : Nat) (x : Bar) : State :=
  let r := ownerRec s part
  setOwner s part { r with bars := tabPut Bar.zero r.bars b x }

/-- Handlers of a partition that are Blocked in BARW on a barrier become Runnable (14 R333). -/
def wakeBarrier (part : BitVec 7) (b : BitVec 6) (c : Ctx) : Ctx :=
  if c.id.part ≠ part then c
  else { c with htab := c.htab.map (fun e =>
    match e.why with
    | .barrier x _ => if x = b then wake e else e
    | _ => e) }

/-- arrive(b) of 14 R333, with BARRIER_GENERATION at the last arrival. -/
def barArrive (s : State) (part : BitVec 7) (b : BitVec 6) : State :=
  let x := barGet s part b.toNat
  if x.arrived + 1 ≠ x.n then barPut s part b.toNat { x with arrived := x.arrived + 1 }
  else
    let s1 := barPut s part b.toNat { x with arrived := 0, gen := x.gen + 1 }
    let s2 := { s1 with me := wakeBarrier part b s1.me, others := s1.others.map (wakeBarrier part b) }
    if x.link.getLsbD 12 then dcDecrement s2 part (x.link.extractLsb' 0 12).toNat 1 else s2

/-- The checks of the BAR group on its barrier operand. -/
def withBarrier (s : State) (a : Reg) (k : BitVec 6 → Except Trap State) : Except Trap State :=
  if (readG s a).extractLsb' 6 58 ≠ 0#58 then configFault (readG s a)
  else if regionPending s then .ok (hold s)
  else k ((readG s a).setWidth 6)

/-- BAR: a release end of domain scope, then the arrival; gd takes the generation it arrived in. -/
def execBar (d a : Reg) (s : State) : Host.Outcome State Fault Refusal :=
  finish s (withBarrier s a (fun b =>
    let x := barGet s s.me.id.part b.toNat
    if x.n = 0#16 then configFault (b.setWidth 64)
    else if atomicsOut s then .ok (hold s)
    else regionEnd s true
      (toSystem s 82 (.ok (nextPc (writeG (barArrive (releaseEnd s 3) s.me.id.part b) d (x.gen.setWidth 64)))))))

/-- The generation for which the BARW at the PC of the running handler has already arrived: it does not arrive again, whatever the handler
has run since (14 R333). -/
def awaited (s : State) (b : BitVec 6) : Option (BitVec 16) :=
  ((getEntry s.me (runEntry s)).arrived.find? (fun x => x.1 = s.me.regs.pc && x.2.1 = b)).map (fun x => x.2.2)

/-- The arrivals of the running handler without that of the BARW at its PC. -/
def otherArrivals (s : State) : List (Word × BitVec 6 × BitVec 16) :=
  (getEntry s.me (runEntry s)).arrived.filter (fun x => x.1 ≠ s.me.regs.pc)

def setArrivals (s : State) (l : List (Word × BitVec 6 × BitVec 16)) : State :=
  { s with me := setEntry s.me (runEntry s) { getEntry s.me (runEntry s) with arrived := l, why := .nothing } }

/-- The end of BARW: blocked while the generation stands, else an acquire end of domain scope and the new generation. -/
def barPass (s : State) (d : Reg) (b : BitVec 6) (gen : BitVec 16) : State :=
  let now := (barGet s s.me.id.part b.toNat).gen
  if now = gen then blockOn (setArrivals s ((s.me.regs.pc, b, gen) :: otherArrivals s)) (.barrier b gen)
  else nextPc (writeG (acquireEnd (setArrivals s (otherArrivals s)) (runEntry s) 3) d (now.setWidth 64))

def execBarw (d a : Reg) (s : State) : Host.Outcome State Fault Refusal :=
  finish s (withBarrier s a (fun b =>
    let x := barGet s s.me.id.part b.toNat
    match awaited s b with
    | some g => regionEnd s false (.ok (barPass s d b g))
    | none =>
      if x.n = 0#16 then configFault (b.setWidth 64)
      else if atomicsOut s then .ok (hold s)
      else regionEnd s true (toSystem s 82 (.ok (barPass (barArrive (releaseEnd s 3) s.me.id.part b) d b x.gen)))))

def execBarinit (d a b : Reg) (s : State) : Host.Outcome State Fault Refusal :=
  let w := readG s b
  finish s (needPriv s 1 (wordOf (.barinit d a b)) (withBarrier s a (fun i =>
    if w.extractLsb' 29 35 ≠ 0#35 ∨ w.extractLsb' 0 16 = 0#16 then configFault w
    else
      let x := barGet s s.me.id.part i.toNat
      toSystem s 82
        (if x.arrived ≠ 0#16 then .ok (nextPc (writeG s d 1))
         else .ok (nextPc (writeG (barPut s s.me.id.part i.toNat
          { x with n := w.extractLsb' 0 16, link := w.extractLsb' 16 13 }) d 0))))))

/-! ## Measurement (14 R334 to R339) -/

/-- Does the allow-list admit an event for the context in focus? A monitor context reads every event (13 R318). -/
def eventAllowed (s : State) (ev : BitVec 8) : Bool :=
  isMonitor s.me || (partRec s (myPart s)).allow.getLsbD ev.toNat

def execPcsel (a b : Reg) (s : State) : Host.Outcome State Fault Refusal :=
  let c := readG s a
  let v := readG s b
  let ev := v.extractLsb' 0 8
  finish s (needPriv s 1 (wordOf (.pcsel a b))
    (if c.extractLsb' 3 61 ≠ 0#61 then configFault c
     else if v.extractLsb' 10 54 ≠ 0#54 ∨ 0x10 ≤ ev.toNat then configFault v
     else
       let ok := eventAllowed s ev
       let p : Perf := { value := 0, sel := v.setWidth 10, allowed := ok, wrapped := false }
       .ok (nextPc (writeC { s with me.perf := s.me.perf.set (c.toNat % 8) p (Nat.mod_lt _ (by decide)) } 7 (!ok)))))

def execPcrd (d a : Reg) (s : State) : Host.Outcome State Fault Refusal :=
  let c := readG s a
  finish s
    (if c.extractLsb' 3 61 ≠ 0#61 then configFault c
     else
       let p := s.me.perf[c.toNat % 8]'(Nat.mod_lt _ (by decide))
       let ok := eventAllowed s (p.sel.extractLsb' 0 8)
       let s1 := { s with me.perf := s.me.perf.set (c.toNat % 8) { p with allowed := ok } (Nat.mod_lt _ (by decide)) }
       .ok (nextPc (writeC (writeG s1 d (if ok then p.value.setWidth 64 else 0)) 7 (!ok))))

def execTime (d : Reg) (s : State) : Host.Outcome State Fault Refusal := .next (nextPc (writeG s d s.ktime))

/-- The energy of the issuing partition; the monitor's own account for a monitor context (DESIGN CHOICE, log 18). -/
def partEnergy (s : State) : Word := if isMonitor s.me then s.monitorEnergy else (partRec s (myPart s)).energy

def execEcnt (d a : Reg) (s : State) : Host.Outcome State Fault Refusal :=
  let x := readG s a
  finish s
    (if x.extractLsb' 2 62 ≠ 0#62 ∨ x = 3#64 then configFault x
     else if x = 2#64 then needPriv s 2 (wordOf (.ecnt d a)) (.ok (nextPc (writeG s d s.monitorEnergy)))
     else .ok (nextPc (writeG s d (if x = 0#64 then partEnergy s else s.me.energy))))

/-- The element addresses of 04 R86. -/
def isElement (e : Nat) : Bool :=
  e < 0x048 || (0x080 ≤ e && e < 0x0C4) || e = 0x0C8 || (0x0D0 ≤ e && e < 0x0E1)

/-- The lines that a partition holds in a slice, in halves. -/
def heldHalves (s : State) (part : BitVec 7) (slice : Nat) : Nat :=
  ((s.l2.filter (fun x => x.part = part ∧ homeSlice x.num = slice)).map (fun x => if x.comp then 1 else 2)).sum

/-- A free ephemeris entry. -/
def Eph.free : Eph :=
  { deadline := 0, work := 0, progress := 0, state := 0, risk := false, slack := 0, owner := 0, ownerIdx := 0, prev := 0,
    rateNum := 0, rateDen := 1, met := none, limit := 0 }

/-- The counter that OCRD reads, by kind and index (14 R339). -/
def ocrdValue (s : State) (kind idx : Nat) : Option Nat :=
  let part := s.me.id.part
  if kind = 0 ∧ idx < 640 then some (heldHalves s part idx)
  else if kind = 1 ∧ idx < 640 then some (pinnedHalves s part idx)
  else if kind = 2 ∧ idx < 8 then some (tabGet 0#32 (ownerRec s part).drops idx).toNat
  else if kind = 3 ∧ isElement idx then some (tabGet 0#32 s.me.fab.badpack idx).toNat
  else if kind = 4 ∧ idx < 64 then
    let e := tabGet Eph.free (ownerRec s part).eph idx
    some (if e.state = 0#2 then 0 else e.progress.toNat)
  else if kind = 5 ∧ idx = 0 then
    some (loadsOut s.me + storesOut s.me * 2 ^ 8 + copiesOut s.me * 2 ^ 16 + tilesOut s.me * 2 ^ 24)
  else none

def execOcrd (d a : Reg) (s : State) : Host.Outcome State Fault Refusal :=
  let x := readG s a
  finish s
    (if x.extractLsb' 8 8 ≠ 0#8 ∨ x.extractLsb' 32 32 ≠ 0#32 then configFault x
     else match ocrdValue s (x.toNat % 2 ^ 8) (x.toNat / 2 ^ 16 % 2 ^ 16) with
       | none => configFault x
       | some v => .ok (nextPc (writeG s d (BitVec.ofNat 64 v))))

/-- PERF_COUNTER_WRAP: the wrap of a counter makes cause 0x19 pending when its overflow interrupt enable is 1 (14 R335). -/
def execPerfCounterWrap (n : BitVec 3) (s : State) : Host.Outcome State Fault Refusal :=
  let p := s.me.perf[n.toNat]
  if ¬ p.wrapped then .next s
  else
    let s1 := { s with me.perf := s.me.perf.set n.toNat { p with wrapped := false } }
    .next (if p.sel.getLsbD 8 then { s1 with me := pendAsync 0x19 (n.setWidth 64) s1.me } else s1)

end Sys2Proof.Machine
end

