-- ==== Sys2Proof/Machine/Copy.lean ====
section
/-! DEFINITION. Copy channels: XCOPY, XCHN, XSTAT, XCANCEL and the steps of the edge engines (09 R206 to R223). -/

namespace Sys2Proof.Machine

/-! ## Outcomes of a record (09 R209 to R213) -/

/-- The status of a halt by its cause (09 R210). -/
def haltStatus (cause : BitVec 8) : Nat :=
  if cause = 0x09#8 then 3 else if cause = 0x0C#8 ∨ cause = 0x0A#8 then 6 else 2

/-- ENGINE_FAULT_HALT: the channel halts, its record holds sum, count and status, and the fault enters the queue of the
context after those writes (09 R213, 21 R402). Where they have to wait, the state s0 before the step stands; a record that they cannot
write keeps what it holds (DEDUCED, log 49). -/
def copyHalt (s0 s : State) (e : BitVec 2) (status : Nat) (cause : BitVec 8) (value : Word) : State :=
  recordStatus s0 s (getChan s.me e) status (fun _ u => copyStop u e cause value) (fun u => copyStop u e cause value)

/-- A fault of a translation, permission, data or packing check, at a data or record address. -/
def copyFault (s0 s : State) (e : BitVec 2) (t : Trap) : State :=
  retiring (counted s t) t.line (fun u => copyHalt s0 u e (haltStatus t.cause) t.cause t.value)

/-- The channel goes idle and the copies counter falls, once every decrement of the chain is applied (09 R211, 14 R327). -/
def chainEnd (s : State) (e : BitVec 2) : State :=
  if s.decrs.any (fun d => d.ctx = s.me.id && d.chan = some (e.setWidth 3)) then s
  else { s with me := wakeCounters (setChan s.me e Chan.zero) }

/-- The signal of a completed record or request: a sync-word arrival of its bytes, or one decrement on its way. -/
def signalTarget (s : State) (kind target bytes : Nat) (chan : BitVec 3) : State :=
  if kind = 1 then syncArrive s s.me.id (target * 16) bytes
  else if kind = 2 then
    { s with decrs := s.decrs ++ [{ part := s.me.id.part, counter := BitVec.ofNat 12 target, ctx := s.me.id,
                                    chan := some chan }] }
  else s

/-- Bit 63 of +0 cleared: the engine writes no other bit of the word (09 R186), so its other bits stay as they are now. -/
def clearOwn (s : State) (pr : BitVec 2) (addr : Word) : Except Stop State := do
  let (t, pa) ← engXlat s pr (addr + 7) 1 needWrite
  engWrite t pr (addr + 7) 1 ((memByte t.mem pa).toNat % 128)

/-- The uncorrectable word of a sync word at which a record or request is to signal an arrival (08 R183). -/
def targetLost (s : State) (kind target : Nat) : Option Trap :=
  if kind = 1 ∧ winLost s s.me.id.core (target * 16) 16 then some (winTrap s.me.id.core (target * 16)) else none

/-- RECORD_COMPLETION (09 R211): +48, +56 and +0 written in this order, the target signalled, and the next record due; a target whose word is
uncorrectable halts the record instead. A step that has to wait leaves the state s0 before it. -/
def completeRecord (s0 s : State) (e : BitVec 2) (r : Rec) : State :=
  let h := getChan s.me e
  let written : Except Stop State := do
    match targetLost s r.kind r.target with
    | some t => .error (.fault t)
    | none =>
      let s1 ← recordWrite s h.priv h.addr h.sum r.count 1
      clearOwn s1 h.priv h.addr
  match written with
  | .error (.hold f) => f s0
  | .error (.fault f) => copyFault s0 s e f
  | .ok t =>
    let next : Word := if h.single then 0 else r.next
    let t1 := { t with me := setChan t.me e { h with addr := next, words := none, first := false, src := none, dst := none,
                                                     n := 0, carry := h.sum } }
    let t2 := signalTarget t1 r.kind r.target (r.count * r.size) (e.setWidth 3)
    if next = 0#64 then chainEnd t2 e else t2

/-- The end of a record's elements: CHECKSUM_MISMATCH under compare last (09 R209), else completion. -/
def endRecord (s0 s : State) (e : BitVec 2) (r : Rec) : State :=
  let h := getChan s.me e
  if r.compare ∧ h.sum ≠ r.sums.extractLsb' 32 32 then
    copyHalt s0 s e 4 0x13 (r.sums.extractLsb' 32 32 ++ h.sum)
  else completeRecord s0 s e r

/-! ## Elements (09 R206 to R209) -/

/-- The digits of five source trits from an address; a trit outside −1 … 1 is a bad-packing fault. -/
def readTrits (s : State) (pr : BitVec 2) (window : Bool) (a : Word) : Nat → Except Stop (State × Bool × List Nat)
  | 0 => .ok (s, false, [])
  | n + 1 => do
    let (t, remote, v) ← spaceRead s pr window plainTags a 1
    match tritDigit (BitVec.ofNat 8 v) with
    | none => .error (.fault { cause := 0x0C, value := a })
    | some d =>
      let (u, more, ds) ← readTrits t pr window (a + 1) n
      .ok (u, remote || more, d :: ds)

/-- The value of destination element n, and whether its source lies on another module. -/
def elementValue (s : State) (pr : BitVec 2) (r : Rec) (n : Nat) : Except Stop (State × Bool × Nat) :=
  match (r.place n).1 with
  | none => .ok (s, false, 0)
  | some a =>
    if r.packing = 1 then do
      let (t, remote, ds) ← readTrits s pr r.srcWin a 5
      .ok (t, remote, t5Pack ds)
    else if r.packing = 2 then do
      let (t, remote, v) ← spaceRead s pr r.srcWin packedTags a 1
      let b : Byte := BitVec.ofNat 8 v
      if ¬ t5Legal b then .error (.fault { cause := 0x0C, value := a })
      else .ok (t, remote, ((tritBytes (t5Digits b)).getD (n % r.wide % 5) 0).toNat)
    else spaceRead s pr r.srcWin plainTags a r.size

/-- An element to be written: destination, whether its source was remote, value. -/
structure Elem where
  dst : Word
  remote : Bool
  val : Nat
  deriving DecidableEq, Repr

/-- k elements from element n. -/
def gather (s : State) (pr : BitVec 2) (r : Rec) : Nat → Nat → Except Stop (State × List Elem)
  | 0, _ => .ok (s, [])
  | k + 1, n => do
    let (t, remote, v) ← elementValue s pr r n
    let (u, rest) ← gather t pr r k (n + 1)
    .ok (u, { dst := (r.place n).2, remote := remote, val := v } :: rest)

def dstTags (r : Rec) : List (BitVec 3) := if r.packing = 1 then packedTags else plainTags

/-- Every destination of a group passes its checks before any of its bytes is written. -/
def checkAll (s : State) (pr : BitVec 2) (r : Rec) : List Elem → Except Stop Unit
  | [] => .ok ()
  | x :: xs => do
    if r.dstWin then
      let _ ← engWin s x.dst r.size (dstTags r)
    else
      let _ ← engXlat s pr x.dst r.size needWrite
    checkAll s pr r xs

def scatter (s : State) (pr : BitVec 2) (r : Rec) : List Elem → Except Stop State
  | [] => .ok s
  | x :: xs => do
    let t ← spaceWrite s pr r.dstWin (dstTags r) x.dst r.size x.val
    scatter t pr r xs

/-- Is a record one remote delivery: does its source base translate to another module (21 R403)? A boundary element without a source
belongs to the delivery like any other. -/
def remoteRecord (s : State) (pr : BitVec 2) (r : Rec) : Bool :=
  !r.srcWin && (match engXlat s pr r.src r.size needRead with
    | .ok (t, pa) => decide (pa / 2 ^ 46 ≠ t.module.toNat)
    | .error _ => false)

/-- KINJ on a group whose first element is n: the armed bit of a remote delivery, the whole record (`far`) or a remote element, is
inverted and KINJ disarmed (05 R105, 21 R403). -/
def inject (c : Ctx) (e : BitVec 2) (far : Bool) (size : Nat) : Nat → List Elem → Ctx × List Elem
  | _, [] => (c, [])
  | n, x :: xs =>
    let bit := (c.sys.inj.extractLsb' 4 9).toNat
    let hit := c.sys.inj.getLsbD 0 && c.sys.inj.extractLsb' 1 2 == e && (far || x.remote)
      && n * size ≤ bit / 8 && bit / 8 < (n + 1) * size
    if hit then ({ c with sys.inj := c.sys.inj &&& 0x1FFE }, { x with val := x.val ^^^ 2 ^ (bit - 8 * (n * size)) } :: xs)
    else
      let r := inject c e far size (n + 1) xs
      (r.1, x :: r.2)

/-- The bytes of a group as a little-endian number. -/
def groupNat (size : Nat) : List Elem → Nat
  | [] => 0
  | x :: xs => x.val % 2 ^ (8 * size) + 2 ^ (8 * size) * groupNat size xs

/-- The running sum after n 32-bit words of a group (09 R209). -/
def sumWords (sum : BitVec 32) (v : Nat) : Nat → BitVec 32
  | 0 => sum
  | n + 1 => sumWords (csumStep sum (BitVec.ofNat 32 v)) (v / 2 ^ 32) n

/-- Elements that commit together: those of one checksum word, else one (09 R207). -/
def groupSize (r : Rec) : Nat := if r.summed ∧ r.size < 4 then 4 / r.size else 1

/-- The physical addresses of the bytes of a record's first n destination elements. -/
def dstBytes (s : State) (pr : BitVec 2) (r : Rec) (n : Nat) : List Nat :=
  (List.range n).flatMap (fun i => match engXlat s pr (r.place i).2 r.size needWrite with
    | .ok (_, pa) => (List.range r.size).map (pa + ·)
    | .error _ => [])

/-- The places in window memory of the same. -/
def dstKeys (s : State) (r : Rec) (n : Nat) : List Nat :=
  (List.range n).flatMap (fun i => (List.range r.size).map (winKey s.me.id.core (r.place i).2.toNat + ·))

/-- A line all of whose 128 bytes are among these. -/
def coversLine (l : Nat) (bytes : List Nat) : Bool := (List.range 128).all (fun i => bytes.contains (128 * l + i))

/-- An uncorrectable line that the record's committed elements now cover wholly is written whole: it is repaired (08 R183). -/
def copyRepair (s : State) (pr : BitVec 2) (r : Rec) (n : Nat) (xs : List Elem) : State :=
  xs.foldl (fun t x =>
    if r.dstWin then
      let a := x.dst.toNat
      if winLost t t.me.id.core a r.size && coversLine (winKey t.me.id.core a / 128) (dstKeys t r n) then winRepair t (winKey t.me.id.core a) else t
    else match engXlat t pr x.dst r.size needWrite with
      | .ok (_, pa) => if badLine t pa && coversLine (pa / 128) (dstBytes t pr r n) then repairLine t (pa / 128) else t
      | .error _ => t) s

/-- COPY_ELEMENT_COMMIT: the next element or checksum group is read, written and committed (09 R207), and a record whose
last element commits ends. -/
def copyCommit (e : BitVec 2) (s : State) : State :=
  let h := getChan s.me e
  match h.st, h.words with
  | .running, some ws =>
    if !isActive s s.me.id then s
    else
      let r := recOf ws h.src h.dst
      let k := Nat.min (groupSize r) (r.count - h.n)
      let moved : Except Stop (State × List Elem) := do
        let (t, xs) ← gather s h.priv r k h.n
        checkAll t h.priv r xs
        let (c, ys) := inject t.me e (remoteRecord t h.priv r) r.size h.n xs
        let u ← scatter { t with me := c } h.priv r ys
        .ok (copyRepair u h.priv r (h.n + k) ys, ys)
      match moved with
      | .error (.hold f) => f s
      | .error (.fault f) => copyFault s s e f
      | .ok (u, ys) =>
        let sum := if r.summed then sumWords h.sum (groupNat r.size ys) (k * r.size / 4) else h.sum
        let u1 := countEvent { u with me := setChan u.me e { h with n := h.n + k, sum := sum } } 0x0A (k * r.size)
        if r.count ≤ h.n + k then endRecord s u1 e r else u1
  | _, _ => s

def execCopyElementCommit (e : BitVec 2) (s : State) : Host.Outcome State Fault Refusal := .next (copyCommit e s)

/-! ## Chains (09 R211, R217, R218) -/

/-- Every copy and transform that the context issued before an age is complete and its targets are signalled (09 R218). -/
def earlierDone (c : Ctx) (age : Nat) : Bool :=
  c.chans.toList.all (fun h => h.st == .idle || age ≤ h.age) && c.xq.all (fun x => age ≤ x.age)

/-- COPY_CHAIN_START: a chain waiting under after starts. -/
def execCopyChainStart (e : BitVec 2) (s : State) : Host.Outcome State Fault Refusal :=
  let h := getChan s.me e
  .next (if h.st = .waiting ∧ isActive s s.me.id ∧ earlierDone s.me h.age then
      { s with me := setChan s.me e { h with st := .running } }
    else s)

/-- The eight words of a record as a number of 64 bytes. -/
def recWords (v : Nat) : List Word := (List.range 8).map (fun i => BitVec.ofNat 64 (v / 2 ^ (64 * i)))

/-- COPY_RECORD_READ (09 R211): a record of the chain is read, a fault of which halts the channel as one of its elements does, with the
sum and count that the channel holds (09 R213, R214; DESIGN CHOICE, log 68); own 0 ends the chain, an invalid record halts it with status 5,
and one without elements is complete at once (R221). -/
def copyRead (e : BitVec 2) (s : State) : State :=
  let h := getChan s.me e
  if h.st ≠ .running ∨ h.words.isSome ∨ ¬ isActive s s.me.id then s
  else if h.addr = 0#64 then chainEnd s e
  else match engRead s h.priv h.addr 64 with
    | .error (.hold f) => f s
    | .error (.fault f) => copyFault s s e { f with value := h.addr }
    | .ok (t, _, v) =>
      let ws := recWords v
      let r := recOf ws h.src h.dst
      let n0 := r.prog.toNat % 2 ^ 48
      let sum := if r.summed ∧ r.carries ∧ ¬ h.first ∧ ¬ h.single then h.carry else r.sums.setWidth 32
      let t1 := { t with me := setChan t.me e { h with words := some ws, n := n0, sum := sum } }
      if ¬ r.own then
        chainEnd { t with me := setChan t.me e { h with addr := 0 } } e
      else if r.invalid t.me h.single then copyHalt s t1 e 5 0x0F h.addr
      else if r.count ≤ n0 then
        endRecord s { t1 with me := setChan t1.me e { getChan t1.me e with n := r.count } } e r
      else t1

def execCopyRecordRead (e : BitVec 2) (s : State) : Host.Outcome State Fault Refusal := .next (copyRead e s)

/-- The operand checks of XCOPY, XCHN and XFORM at issue (09 R215, R216, R224). -/
def recAddress (v : Word) (k : Except Trap State) : Except Trap State :=
  if v.toNat % 64 ≠ 0 then .error { cause := 0x03, value := v }
  else if v.extractLsb' 48 16 ≠ 0#16 then .error { cause := 0x04, value := v }
  else k

/-- XCOPY and XCHN by the state of the channel (09 R217). A resumed chain keeps its age and does not wait under after (DESIGN CHOICE,
log 95). -/
def startChain (s : State) (e : BitVec 2) (addr : Word) (after single : Bool) (src dst : Option Word) : Except Trap State :=
  recAddress addr
    (let h := getChan s.me e
     match h.st with
     | .idle =>
       if 63 ≤ copiesOut s.me then .ok (holdFor s 0x0F)
       else
         let h1 : Chan := { Chan.zero with st := if after then .waiting else .running, addr := addr, priv := priv s,
                                           single := single, src := src, dst := dst, age := s.me.engAge }
         .ok (nextPc { s with me := { setChan s.me e h1 with engAge := s.me.engAge + 1 } })
     | .running | .waiting => .ok (hold s)
     | .halted =>
       if single = false ∧ addr = h.addr then
         .ok (nextPc { s with me := setChan s.me e { h with st := .running, priv := priv s, words := none, first := true, lost := false } })
       else configFault addr)

def execXcopy (a b c : Reg) (f : BitVec 1) (e : BitVec 2) (t src : BitVec 1) (s : State) : Host.Outcome State Fault Refusal :=
  finish s (startChain s e (readG s a) (f = 1#1) true (if src = 1#1 then some (readG s b) else none)
    (if t = 1#1 then some (readG s c) else none))

def execXchn (a : Reg) (f : BitVec 1) (e : BitVec 2) (s : State) : Host.Outcome State Fault Refusal :=
  finish s (startChain s e (readG s a) (f = 1#1) false none none)

/-! ## XSTAT and XCANCEL (09 R219) -/

/-- The state code of a channel or request. -/
def chanCode (h : ChanSt) : Nat :=
  match h with
  | .idle => 0
  | .running => 1
  | .halted => 2
  | .waiting => 3

/-- The state word of a channel or of the transform queue. -/
def stateWord (c : Ctx) (v : Word) : Word :=
  if v.getLsbD 2 then
    match c.xq with
    | [] => 0
    | x :: _ => BitVec.ofNat 64 (chanCode x.st + x.addr.toNat + c.xq.length * 2 ^ 48)
  else
    let h := getChan c (v.setWidth 2)
    BitVec.ofNat 64 (chanCode h.st + h.addr.toNat)

/-- The operand of the XCTL group. -/
def withEngine (s : State) (a : Reg) (k : Word → Except Trap State) : Except Trap State :=
  if (readG s a).extractLsb' 3 61 ≠ 0#61 then configFault (readG s a) else k (readG s a)

def execXstat (d a : Reg) (s : State) : Host.Outcome State Fault Refusal :=
  finish s (withEngine s a (fun v => .ok (nextPc (writeG s d (stateWord s.me v)))))

/-- The record's line leaves the set's L1 before XCANCEL writes the record: of a store still dirty there and the cancel, the
later one stands (21 R402). -/
def ownLine (s : State) (pr : BitVec 2) (addr : Word) : List Line :=
  match engXlat s pr (addr + 48) 8 needWrite with
  | .ok r => s.me.l1.filter (fun l => l.num = r.2 / 128)
  | .error _ => []

/-- Does a completed record of a channel wait for the acknowledgement of its decrement (14 R327)? -/
def decrOut (s : State) (chan : BitVec 3) : Bool := s.decrs.any (fun d => d.ctx = s.me.id && d.chan = some chan)

/-- A write of XCANCEL at its record that faults: the channel halts, the fault is delivered once, and the instruction waits for a write that
can be committed (09 R213, 21 R402; DEDUCED, log 31). -/
def cancelLost (s : State) (e : BitVec 2) (p : Chan) (t : Trap) : State :=
  if p.lost then hold s
  else retiring (counted (hold s) t) t.line (fun u =>
    let v := copyStop { u with me := setChan u.me e p } e t.cause t.value
    { v with me := setChan v.me e { getChan v.me e with lost := true } })

/-- XCANCEL of a copy channel (09 R219, 21 R402). A chain that has ended, or whose next record is not owned, is no longer there to cancel
(09 R211, R228; DEDUCED, log 31). The instruction waits until the decrements of earlier records are applied and until its writes at the
record are committed. -/
def cancelChan (s : State) (d : Reg) (e : BitVec 2) : Except Trap State :=
  let h := getChan s.me e
  let idle := fun (u : State) => { u with me := wakeCounters (setChan u.me e Chan.zero) }
  if h.st = .idle ∨ h.addr = 0#64 then .ok (nextPc (writeG s d 1))
  else if decrOut s (e.setWidth 3) then .ok (hold s)
  else match withProgress s h with
    | .error (.hold f) => .ok (f (hold s))
    | .error (.fault _) => .ok (hold s)
    | .ok (p, own) =>
      if !own then .ok (nextPc (writeG (idle s) d 1))
      else
        let out := ownLine s h.priv h.addr
        guardBack s out
          (let s1 := out.foldl (fun u l => dropLine u l.num) s
           .ok (recordStatus (hold s) s1 p 7 (fun t u => cancelLost u e p t) (fun u => nextPc (writeG (idle u) d 0))))

end Sys2Proof.Machine
end

