-- ==== Sys2Proof/Machine/Xform.lean ====
section
/-! DEFINITION. Spectrograph transforms: XFORM, the request queue, its chunks and completion records (09 R224 to R227),
and XCANCEL over channels and queue (R219). -/

namespace Sys2Proof.Machine

/-! ## Bytes -/

/-- A list cut into pieces of n, with fuel. -/
def pieces {α : Type} (n : Nat) : Nat → List α → List (List α)
  | 0, _ => []
  | _, [] => []
  | fuel + 1, l => l.take n :: pieces n fuel (l.drop n)

/-- Bytes as a little-endian number, and a number as n bytes. -/
def bytesNat : List Byte → Nat
  | [] => 0
  | b :: bs => b.toNat + 256 * bytesNat bs

def natBytes : Nat → Nat → List Byte
  | 0, _ => []
  | n + 1, v => BitVec.ofNat 8 v :: natBytes n (v / 256)

/-! ## Requests (09 R225, R226) -/

/-- A word of a request. -/
def Xreq.word (x : Xreq) (i : Nat) : Word := (x.words.getD []).getD i 0

def Xreq.op (x : Xreq) : Nat := (x.word 0).toNat % 16
def Xreq.fp8 (x : Xreq) : Fmt := fmtOf (if (x.word 0).getLsbD 4 then 5 else 4)
def Xreq.kind (x : Xreq) : Nat := (x.word 0).toNat / 2 ^ 8 % 4
def Xreq.target (x : Xreq) : Nat := (x.word 0).toNat / 2 ^ 16 % 2 ^ 16
def Xreq.len (x : Xreq) : Nat := (x.word 3).toNat % 2 ^ 32

/-- Bytes of the side that the chunks cover. -/
def Xreq.covered (x : Xreq) : Nat :=
  if x.op = 1 then x.len / 5 else if x.op = 3 then x.len / 4 else if x.op = 6 then x.len / 8200 * 4096 else x.len

/-- The number of chunks; an invalid operation has none. -/
def Xreq.chunks (x : Xreq) : Nat := if x.op = 0 ∨ 6 < x.op then 0 else (x.covered + 4095) / 4096

/-- Output bytes that the chunks require (09 R226). -/
def Xreq.needs (x : Xreq) : Nat :=
  if x.op = 1 then x.len / 5 else if x.op = 2 then 5 * x.len else if x.op = 3 then x.len / 4
  else if x.op = 4 then 4 * x.len else if x.op = 5 then 8200 * x.chunks else 4096 * x.chunks

/-- An invalid request (09 R225, R226); so is one whose scale array or completion record is misaligned (DESIGN CHOICE, log 97). -/
def Xreq.invalid (x : Xreq) (c : Ctx) : Bool :=
  let w := (x.word 0)
  let unit := if x.op = 1 then 5 else if x.op = 2 then 1 else if x.op = 3 then 512 else if x.op = 4 then 128
              else if x.op = 5 then 4 else 8200
  let scaled := x.op = 3 || x.op = 4
  w.extractLsb' 5 3 ≠ 0#3 || w.extractLsb' 10 6 ≠ 0#6 || w.extractLsb' 32 32 ≠ 0#32 || (x.word 3).extractLsb' 32 32 ≠ 0#32
  || x.word 7 ≠ 0#64 || (!scaled && x.word 5 ≠ 0#64) || (scaled && (x.word 5).toNat % 4 ≠ 0) || (x.word 6).toNat % 64 ≠ 0
  || x.kind = 3 || (x.kind = 0 && x.target ≠ 0) || (x.kind = 2 && x.target / 2 ^ 12 ≠ 0)
  || (x.kind = 1 && !isSyncAt c (x.target * 16))
  || x.op = 0 || 6 < x.op || x.len % unit ≠ 0 || 256 < x.chunks || (x.word 4).toNat < x.needs

/-! ## Chunks (09 R226) -/

/-- Covered bytes of chunk n. -/
def Xreq.part (x : Xreq) (n : Nat) : Nat := Nat.min 4096 (x.covered - 4096 * n)

/-- Output bytes of chunk n. -/
def Xreq.output (x : Xreq) (n : Nat) : Nat :=
  if x.op = 2 then 5 * x.part n else if x.op = 4 then 4 * x.part n else if x.op = 5 then 8200 else x.part n

/-- Five trits packed; a bad one names its place. -/
def packTrits (a : Word) (bs : List Byte) : Except Stop Byte :=
  match (bs.zipIdx).find? (fun b => (tritDigit b.1).isNone) with
  | some b => .error (.fault { cause := 0x0C, value := a + BitVec.ofNat 64 b.2 })
  | none => .ok (BitVec.ofNat 8 (t5Pack (bs.map (fun b => (tritDigit b).getD 0))))

def packAll (a : Word) : List (List Byte) → Except Stop (List Byte)
  | [] => .ok []
  | p :: ps => do
    let b ← packTrits a p
    let bs ← packAll (a + 5) ps
    .ok (b :: bs)

def unpackAll (a : Word) : List Byte → Except Stop (List Byte)
  | [] => .ok []
  | b :: bs => do
    if ¬ t5Legal b then .error (.fault { cause := 0x0C, value := a })
    else
      let rest ← unpackAll (a + 1) bs
      .ok (tritBytes (t5Digits b) ++ rest)

/-- The magnitude of a finite binary32 value as a multiple of 2^-149. -/
def magnitude (bits : Nat) : Nat :=
  match flOf (fmtOf 1) bits with
  | .fin _ m e => m * 2 ^ (e + 149).toNat
  | _ => 0

/-- The exponent of a block's scale: the smallest e ≥ −149 with amax ≤ largest × 2^e, 0 for amax = 0; as e + 149. -/
def scaleExp (f : Fmt) (vals : List Nat) : Nat :=
  let amax := (vals.map magnitude).foldl Nat.max 0
  let largest := match flOf f (f.largest false) with
    | .fin _ m e => m * 2 ^ e.toNat
    | _ => 0
  if amax = 0 then 149 else ((List.range 300).find? (fun e => amax ≤ largest * 2 ^ e)).getD 299

/-- q = round(x ÷ 2^e) of one value. -/
def quantise (f : Fmt) (e : Int) (bits : Nat) : Nat :=
  match flOf (fmtOf 1) bits with
  | .nan _ => f.nan
  | .inf neg => f.largest neg
  | .fin neg m k => (roundF f 0 false neg m (k - e)).bits

/-- One block of 128 values: its FP8 bytes and its scale. -/
def quantBlock (f : Fmt) (bs : List Byte) : List Byte × Nat :=
  let vals := (pieces 4 128 bs).map bytesNat
  let e := scaleExp f vals
  (vals.map (fun v => BitVec.ofNat 8 (quantise f ((e : Int) - 149) v)), (roundF (fmtOf 1) 0 false false 1 ((e : Int) - 149)).bits)

/-- One FP8 value times its scale, rounded to binary32 (09 R226). -/
def expandValue (f : Fmt) (scale q : Nat) : List Byte :=
  natBytes 4 (fMul (fmtOf 1) 0 false (flOf f q) (flOf (fmtOf 1) scale)).bits

/-- The slot of a fibre-compressed chunk (09 R226). -/
def compressSlot (n : Nat) (bs : List Byte) : List Byte :=
  let vals := ((pieces 4 1024 bs).map bytesNat).zipIdx
  let kept := vals.filter (fun v => v.1 % 2 ^ 31 ≠ 0)
  let body := (kept.map (fun v => natBytes 8 ((1024 * n + v.2) % 2 ^ 32 + v.1 * 2 ^ 32))).flatten
  natBytes 8 kept.length ++ body ++ List.replicate (8192 - body.length) 0

/-- The dense values of a slot, or none when the count or the indices break R226. -/
def expandSlot (n : Nat) (bs : List Byte) : Option (List Byte) :=
  let c := bytesNat (bs.take 8)
  let items := (pieces 8 1024 ((bs.drop 8).take (8 * c))).map (fun p => (bytesNat (p.take 4), bytesNat (p.drop 4)))
  let rising := fun (l : List Nat) => (l.zip (l.drop 1)).all (fun p => p.1 < p.2)
  let idx := items.map (fun i => i.1)
  if 1024 < c ∨ ¬ rising idx ∨ idx.any (fun i => i < 1024 * n || 1024 * n + 1024 ≤ i) then none
  else some (((List.range 1024).map (fun k =>
    natBytes 4 (((items.find? (fun i => i.1 = 1024 * n + k)).map (fun i => i.2)).getD 0))).flatten)

/-- Scales of the blocks of chunk n read from the scale array. -/
def readScales (s : State) (pr : BitVec 2) (a : Word) : Nat → Except Stop (State × List Nat)
  | 0 => .ok (s, [])
  | n + 1 => do
    let (t, _, v) ← engRead s pr a 4
    let (u, vs) ← readScales t pr (a + 4) n
    .ok (u, v :: vs)

def writeScales (s : State) (pr : BitVec 2) (a : Word) : List Nat → Except Stop State
  | [] => .ok s
  | v :: vs => do
    let t ← engWrite s pr a 4 v
    writeScales t pr (a + 4) vs

/-- Chunk n read, transformed and written; a chunk that fails writes nothing. -/
def runChunk (s : State) (x : Xreq) (n : Nat) : Except Stop State :=
  let pr := x.priv
  let src := fun (k : Nat) => x.word 1 + BitVec.ofNat 64 k
  let dst := fun (k : Nat) => x.word 2 + BitVec.ofNat 64 k
  let len := x.part n
  let blocks := (len + 127) / 128
  let scales := x.word 5 + BitVec.ofNat 64 (4 * 32 * n)
  if x.op = 1 then do
    let (t, bs) ← readRange s pr (src (20480 * n)) (5 * len)
    let out ← packAll (src (20480 * n)) (pieces 5 len bs)
    writeRange t pr (dst (4096 * n)) out
  else if x.op = 2 then do
    let (t, bs) ← readRange s pr (src (4096 * n)) len
    let out ← unpackAll (src (4096 * n)) bs
    writeRange t pr (dst (20480 * n)) out
  else if x.op = 3 then do
    let (t, bs) ← readRange s pr (src (16384 * n)) (4 * len)
    let qs := (pieces 512 blocks bs).map (quantBlock x.fp8)
    let u ← writeScales t pr scales (qs.map (fun q => q.2))
    writeRange u pr (dst (4096 * n)) (qs.map (fun q => q.1)).flatten
  else if x.op = 4 then do
    let (t, bs) ← readRange s pr (src (4096 * n)) len
    let (u, sc) ← readScales t pr scales blocks
    let out := (bs.zipIdx).map (fun b => expandValue x.fp8 (sc.getD (b.2 / 128) 0) b.1.toNat)
    writeRange u pr (dst (16384 * n)) out.flatten
  else if x.op = 5 then do
    let (t, bs) ← readRange s pr (src (4096 * n)) len
    writeRange t pr (dst (8200 * n)) (compressSlot n bs)
  else do
    let (t, bs) ← readRange s pr (src (8200 * n)) 8200
    match expandSlot n bs with
    | none => .error (.fault { cause := 0x0C, value := src (8200 * n) })
    | some out => writeRange t pr (dst (4096 * n)) out

/-! ## The queue (09 R224, R227) -/

def writeWords (s : State) (pr : BitVec 2) (a : Word) : List Word → Except Stop State
  | [] => .ok s
  | w :: ws => do
    let t ← engWrite s pr a 8 w.toNat
    writeWords t pr (a + 8) ws

/-- The completion record written (09 R225); a request whose words were never read names none. -/
def xformRecord (s : State) (x : Xreq) (status : Nat) : Except Stop State :=
  let f := x.failed.getD (0xFFFF, 0, 0)
  let bits := fun (i : Nat) => x.done.extractLsb' (64 * i) 64
  let w0 := status + f.1 % 2 ^ 16 * 2 ^ 16 + x.chunks % 2 ^ 16 * 2 ^ 32 + f.2.1.toNat * 2 ^ 48
  if x.words.isNone then .ok s
  else writeWords s x.priv (x.word 6)
      [BitVec.ofNat 64 w0, f.2.2, bits 0, bits 1, bits 2, bits 3, BitVec.ofNat 64 x.bytes, 0]

/-- The head request replaced. -/
def setHead (s : State) (x : Xreq) : State := { s with me.xq := x :: s.me.xq.drop 1 }

/-- The queue halts at its head, and the fault enters the queue of the context (09 R227). -/
def xformStop (s : State) (x : Xreq) : State :=
  let f := x.failed.getD (0xFFFF, 0x0F, x.addr)
  let item : FaultItem := { kcause := 1#1 ++ f.2.1, value := f.2.2, elem := engElem 0x3FF f.1 }
  let s1 := setHead s { x with st := .halted, failed := some f }
  { s1 with me := queueFault item s1.me }

/-- A request that fails: its completion record is written first, and the halt waits for that write; a record that faults keeps what
it holds (DESIGN CHOICE, log 68). -/
def xformHalt (s : State) (x : Xreq) : State :=
  match xformRecord s { x with failed := some (x.failed.getD (0xFFFF, 0x0F, x.addr)) } 2 with
  | .ok t => xformStop t x
  | .error (.hold f) => f (setHead s x)
  | .error (.fault _) => xformStop s x

/-- A completed request leaves the queue and the copies counter falls, once its decrement is applied (14 R327). -/
def xformPop (s : State) : State :=
  match s.me.xq with
  | x :: xs => if x.st = .idle ∧ ¬ decrOut s 4 then { s with me := wakeCounters { s.me with xq := xs } } else s
  | [] => s

/-- A request whose chunks are all written completes: its record, then its signal, which waits until the context is active (15 R352). A
record that has to wait holds it up; one that faults halts the queue as a chunk does (DESIGN CHOICE, log 68). -/
def xformDone (s : State) (x : Xreq) : State :=
  if x.kind = 1 ∧ ¬ isActive s s.me.id then setHead s x
  else match targetLost s x.kind x.target with
    | some t => retiring s t.line (fun u => xformHalt u { x with failed := some (0xFFFF, t.cause, t.value) })
    | none =>
      match xformRecord s x 1 with
      | .ok t => xformPop (setHead (signalTarget t x.kind x.target x.bytes 4) { x with st := .idle })
      | .error (.hold f) => f (setHead s x)
      | .error (.fault t) => retiring (counted s t) t.line (fun u => xformStop u { x with failed := some (0xFFFF, t.cause, t.value) })

/-- Lanes that serve a request at once: eight in each of ten engines (08 R184). -/
def laneCount : Nat := 80

/-- The chunks below k that have neither finished nor failed. -/
def openBelow (x : Xreq) (k : Nat) : Nat := ((List.range k).filter (fun i => !x.ended.getLsbD i)).length

/-- The chunks that have started: lanes take them in ascending order as they fall free (DESIGN CHOICE, log 69). -/
def startedBound (x : Xreq) : Nat :=
  if x.failed.isSome then x.limit else ((List.range x.chunks).filter (fun k => openBelow x k < laneCount)).length

/-- No chunk is in flight and none will start: every chunk is written, or one has failed and those that had started have ended. -/
def xformOver (x : Xreq) : Bool := openBelow x (if x.failed.isSome then x.limit else x.chunks) = 0

/-- The request at the head after a chunk: complete, halted at its lowest failing chunk, or still running (09 R227). -/
def xformSettle (s : State) (x : Xreq) : State :=
  if !xformOver x then setHead s x else if x.failed.isSome then xformHalt s x else xformDone s x

/-- TRANSFORM_REQUEST_START: completed requests leave the head; the next starts in queue order, reads its 64 bytes and
fails at once when they are invalid (09 R224, R226). -/
def xformStart (s : State) : State :=
  let s0 := xformPop s
  match s0.me.xq with
  | [] => s0
  | x :: _ =>
    if x.st ≠ .waiting ∨ (x.after ∧ ¬ earlierDone s0.me x.age) then s0
    else match engRead s0 x.priv x.addr 64 with
      | .error (.hold f) => f s0
      | .error (.fault t) => retiring (counted s0 t) t.line (fun u => xformStop u { x with failed := some (0xFFFF, t.cause, x.addr) })
      | .ok (t, _, v) =>
        let x1 := { x with st := .running, words := some (recWords v) }
        if x1.invalid t.me then xformHalt t { x1 with failed := some (0xFFFF, 0x0F, x.addr) } else xformSettle t x1

def execTransformRequestStart (s : State) : Host.Outcome State Fault Refusal := .next (xformStart s)

/-- The failure of chunk k: the lowest failing chunk is kept, and no further chunk starts. -/
def chunkFailed (x : Xreq) (k : Nat) (t : Trap) : Xreq :=
  { x with ended := x.ended ||| (1#256 <<< k)
           limit := startedBound x
           failed := match x.failed with
             | some f => if f.1 < k then some f else some (k, t.cause, t.value)
             | none => some (k, t.cause, t.value) }

/-- TRANSFORM_CHUNK_COMPLETE (09 R227): chunk n of the running request, which has started, finishes or fails, in any order; a request
with nothing in flight goes on with its record. -/
def xformChunk (n : BitVec 8) (s : State) : State :=
  match s.me.xq with
  | [] => s
  | x :: _ =>
    let k := n.toNat
    if x.st ≠ .running then s
    else if xformOver x then xformSettle s x
    else if startedBound x ≤ k ∨ x.ended.getLsbD k then s
    else match runChunk s x k with
      | .error (.hold f) => f s
      | .error (.fault t) => retiring (counted s t) t.line (fun u => xformSettle u (chunkFailed x k t))
      | .ok t => xformSettle t { x with done := x.done ||| (1#256 <<< k), ended := x.ended ||| (1#256 <<< k),
                                        bytes := x.bytes + x.output k }

def execTransformChunkComplete (n : BitVec 8) (s : State) : Host.Outcome State Fault Refusal := .next (xformChunk n s)

/-- XFORM: one request queued (09 R224); a full queue stalls issue. -/
def execXform (a : Reg) (f : BitVec 1) (s : State) : Host.Outcome State Fault Refusal :=
  finish s (recAddress (readG s a)
    (if 16 ≤ s.me.xq.length then .ok (hold s)
     else if 63 ≤ copiesOut s.me then .ok (holdFor s 0x0F)
     else
       let x : Xreq := { addr := readG s a, after := f = 1#1, priv := priv s, age := s.me.engAge, st := .waiting,
                         words := none, done := 0, ended := 0, bytes := 0, failed := none, limit := 0 }
       .ok (nextPc { s with me.xq := s.me.xq ++ [x], me.engAge := s.me.engAge + 1 })))

/-- XCANCEL of the transform queue: its head request, a completed one apart, ends with status 7, once its record is written
(09 R224, 21 R402). A write of the record that faults halts the queue and is delivered once, and the instruction waits for one that can be
committed (09 R213, DEDUCED, log 31). -/
def cancelXform (s : State) (d : Reg) : State :=
  let done := s.me.xq.takeWhile (fun x => x.st = .idle)
  match s.me.xq.dropWhile (fun x => x.st = .idle) with
  | [] => nextPc (writeG s d 1)
  | x :: xs =>
    let read : Except Stop Xreq := if x.words.isSome then .ok x
              else match engRead s x.priv x.addr 64 with
                | .ok (_, _, v) => .ok { x with words := some (recWords v) }
                | .error (.fault _) => .ok x
                | .error (.hold f) => .error (.hold f)
    let lost := fun (y : Xreq) (t : Trap) =>
      if y.lost then hold s
      else retiring (counted (hold s) t) t.line (fun u =>
        { u with me := queueFault { kcause := 1#1 ++ t.cause, value := t.value, elem := engElem 0x3FF 0xFFFF }
                         { u.me with xq := done ++ { y with st := .halted, lost := true } :: xs } })
    let gone := fun (u : State) => nextPc (writeG { u with me := wakeCounters { u.me with xq := done ++ xs } } d 0)
    match read with
    | .error (.hold f) => f (hold s)
    | .error (.fault _) => s
    | .ok x1 => match xformRecord s x1 7 with
      | .ok t => gone t
      | .error (.fault t) => lost x1 t
      | .error (.hold f) => f (hold s)

/-- XCANCEL (09 R219). -/
def execXcancel (d a : Reg) (s : State) : Host.Outcome State Fault Refusal :=
  finish s (withEngine s a (fun v =>
    if v.getLsbD 2 then .ok (cancelXform s d) else cancelChan s d (v.setWidth 2)))

end Sys2Proof.Machine
end

