-- ==== Sys2Proof/Machine/Net.lean ====
section
/-! DEFINITION. Channels, launches and the packets that carry them (01 R12, R13; 11 R261; 12 R302, R303; 13 R312 to R314;
15 R361; 16 R366, R376). -/

namespace Sys2Proof.Machine

/-! ## Channels (12 R302, R303) -/

/-- The network accepts no further word of a sender while an earlier one still stands at its source, nor one for its own channel while
that inbox is full (12 R302, R304). -/
def sendWaits (s : State) (id : CtxId) (ch : BitVec 6) : Bool :=
  (id = s.me.id && 4 ≤ (inboxOf s.me ch).length) || wordAtSource s s.me.id

/-- SEND: the word travels to a context of the partition; one that is neither Active nor placed on a calendar holds the instruction. -/
def execSend (a b : Reg) (s : State) : Host.Outcome State Fault Refusal :=
  let v := readG s a
  let part := s.me.id.part
  finish s
    (if v.extractLsb' 38 26 ≠ 0#26 ∨ (ownerCore s part (v.toNat % 2 ^ 16)).isNone then configFault v
     else match namedCtx s part (v.toNat % 2 ^ 16) (v.extractLsb' 16 16) with
       | none => .error { cause := 0x10, value := v }
       | some id =>
         if ¬ (isPlaced s id ∨ isActive s id) ∨ sendWaits s id (v.extractLsb' 32 6) then .ok (hold s)
         else .ok (sendPacket (nextPc s) s.me.id part (corePath s.me.id.core id.core)
           (.word id (v.extractLsb' 32 6) (readG s b))))

/-- The channel operand of the RECV group. -/
def withChannel (s : State) (a : Reg) (k : BitVec 6 → Except Trap State) : Except Trap State :=
  if (readG s a).extractLsb' 6 58 ≠ 0#58 then configFault (readG s a) else k ((readG s a).setWidth 6)

/-- The head word of an inbox removed; the oldest held word enters (HELD_WORD_ENTRY, 01 R13). -/
def takeWord (c : Ctx) (ch : BitVec 6) : Ctx := releaseHeld ch (setInbox c ch ((inboxOf c ch).drop 1))

def execRecv (d a : Reg) (s : State) : Host.Outcome State Fault Refusal :=
  finish s (withChannel s a (fun ch =>
    match inboxOf s.me ch with
    | [] => .ok (blockOn s (.inbox ch))
    | w :: _ => .ok (nextPc (writeG { s with me := takeWord s.me ch } d w))))

def execPeek (d a : Reg) (s : State) : Host.Outcome State Fault Refusal :=
  finish s (withChannel s a (fun ch =>
    match inboxOf s.me ch with
    | [] => .ok (blockOn s (.inbox ch))
    | w :: _ => .ok (nextPc (writeG s d w))))

def execRecvk (d a b : Reg) (s : State) : Host.Outcome State Fault Refusal :=
  finish s (withChannel s a (fun ch =>
    match inboxOf s.me ch with
    | [] => .ok (nextPc (writeG s d (readG s b)))
    | w :: _ => .ok (nextPc (writeG { s with me := takeWord s.me ch } d w))))

/-! ## Packets (11 R261, 16 R366) -/

/-- Packets of one flow keep their order: words of one sender to one channel, launches of one source of one id, tokens of
one element to one port (01 R13, 13 R313, 11 R260). -/
def sameFlow (a b : Packet) : Bool :=
  a.src = b.src && a.part = b.part && (match a.load, b.load with
    | .word d c _, .word d' c' _ => d = d' && c = c'
    | .validate p i _ _ _, .validate p' i' _ _ _ => p = p' && i = i'
    | .validate _ i _ _ _, .dispatch _ _ i' _ => i = i'
    | .dispatch _ _ i _, .validate _ i' _ _ _ => i = i'
    | .dispatch d sl i _, .dispatch d' sl' i' _ => d = d' && sl = sl' && i = i'
    | .token x e d p _, .token x' e' d' p' _ => x = x' && e = e' && d = d' && p = p'
    | .umavas m p i _, .umavas m' p' i' _ => m = m' && p = p' && i = i'
    | _, _ => false)

/-- The k-th packet of the network, when it has arrived and no earlier one of its flow is on its way. -/
def arrived (s : State) (k : Nat) : Option Packet :=
  match s.net[k]? with
  | none => none
  | some p => if p.route.isEmpty && !(s.net.take k).any (sameFlow p) then some p else none

def dropPacket (s : State) (k : Nat) : State := { s with net := s.net.eraseIdx k }

/-- Packets that stand in the far buffer of a virtual channel of a link direction. -/
def standing (s : State) (link chan : Nat) : Nat := (s.net.filter (fun p => p.link = some link ∧ p.chan = chan)).length

/-- The virtual channels of a link direction that an owner owns (13 R317). -/
def ownedChans (s : State) (part : BitVec 7) (link : Nat) : List Nat :=
  (List.range 16).filter (fun i => tabGet 0x40#7 s.vcs (link * 16 + i) == part)

/-- The core to which a packet goes, 0 for one that has no core yet. -/
def Load.core : Load → CoreId
  | .word d _ _ => d.core
  | .dispatch d _ _ _ => d.core
  | .token _ _ d _ _ => d.core
  | _ => 0

/-- The virtual channel that a packet takes on a link direction: all packets of a flow take the same (DESIGN CHOICE, log 85). -/
def chanOf (s : State) (p : Packet) (link : Nat) : Option Nat :=
  let cs := ownedChans s p.part link
  cs[Config.flowChannel p.src.core.toNat p.load.core.toNat % cs.length]?

/-- Can the k-th packet cross a link direction over a channel, but for the turns: it is the first of its flow, and the far buffer of the
channel has a free slot by its credits (11 R261)? -/
def canCross (s : State) (k : Nat) (p : Packet) (link chan : Nat) : Bool :=
  p.route.head? == some link && decide (tabGet 0 s.used (link * 16 + chan) < 16)
    && !(s.net.take k).any (fun q => sameFlow p q && decide (p.route.length ≤ q.route.length))

/-- Is it the turn of a channel of an owner: no channel between the one served last and it can use the slot (11 R266)? -/
def chanTurn (s : State) (part : BitVec 7) (link chan : Nat) : Bool :=
  let order := (List.range 16).map (fun i => (tabGet 15 s.vcTurn (link * 128 + part.toNat) + 1 + i) % 16)
  (order.takeWhile (· ≠ chan)).all (fun c => !s.net.zipIdx.any (fun q =>
    q.1.part = part && chanOf s q.1 link == some c && canCross s q.2 q.1 link c))

/-- MESH_TOKEN_FORWARD: the k-th packet crosses its next link direction in a slot of its owner when its virtual channel has a credit and the
turn, behind the earlier packets of its flow; a launch to another module leaves the module. -/
def execMeshTokenForward (k : Nat) (s : State) : Host.Outcome State Fault Refusal :=
  match s.net[k]? with
  | none => .next s
  | some p =>
    match p.load, p.route with
    | .umavas _ _ _ _, [] => .next (dropPacket s k)
    | _, [] => .next s
    | _, l :: rest =>
      match chanOf s p l with
      | none => .next s
      | some c =>
        if tabGet 0x40#7 s.links (l * 64 + s.ktime.toNat % 64) = p.part ∧ canCross s k p l c ∧ chanTurn s p.part l c then
          let key := l * 16 + c
          .next { s with net := s.net.set k { p with route := rest, link := some l, chan := c },
                         used := tabPut 0 s.used key (tabGet 0 s.used key + 1)
                         vcTurn := tabPut 15 s.vcTurn (l * 128 + p.part.toNat) c }
        else .next s

/-- CREDIT_RETURN on a virtual channel (link direction × 16 + channel): a slot freed at the far end is given back (11 R261). -/
def execCreditReturn (k : Nat) (s : State) : Host.Outcome State Fault Refusal :=
  let n := tabGet 0 s.used k
  .next (if standing s (k / 16) (k % 16) < n then { s with used := tabPut 0 s.used k (n - 1) } else s)

/-- The core fabric interface of a context holds one word of a channel behind a full inbox; those behind it wait in the mesh and at
their source (01 R13). -/
def channelFull (s : State) (id : CtxId) (ch : BitVec 6) : Bool :=
  match findCtx s id with
  | some c => c.held.any (fun h => h.ch = ch)
  | none => false

/-- CHANNEL_WORD_ARRIVAL of the k-th packet (01 R13). -/
def execChannelWordArrival (k : Nat) (s : State) : Host.Outcome State Fault Refusal :=
  match arrived s k with
  | some { load := .word d ch v, .. } => .next (if channelFull s d ch then s else updCtx (dropPacket s k) d (postWord ch v))
  | _ => .next s

/-! ## Launches (13 R312 to R314) -/

/-- A dropped launch counted for its partition on a die. -/
def countDrop (s : State) (part : BitVec 7) (die : BitVec 3) : State :=
  let r := ownerRec s part
  setOwner s part { r with drops := tabPut 0 r.drops die.toNat (tabGet 0 r.drops die.toNat + 1) }

/-- A packet that names no partition of the module, counted by the monitor on its die (13 R313). -/
def countMonitorDrop (s : State) (die : BitVec 3) : State :=
  { s with monitorDrops := tabPut 0 s.monitorDrops die.toNat (tabGet 0 s.monitorDrops die.toNat + 1) }

/-- A partition that exists on the module: the monitor has given it a core list and it has not migrated away (DESIGN CHOICE, log 5). -/
def partExists (s : State) (part : BitVec 7) : Bool :=
  !part.getLsbD 6 && !(ownerRec s part).coreList.isEmpty && (ownerRec s part).pstate != 4#3

/-- The four words of a launch-table entry and the checks of 13 R313 on them: where a passing launch goes. -/
def launchTarget (s : State) (part : BitVec 7) (id : BitVec 8) (key : BitVec 16) (path : BitVec 2) (w : Nat → Word) :
    Option (CtxId × BitVec 5) :=
  let e := w 0
  let ok := e.getLsbD 63 && (w 2).extractLsb' 16 8 == id && e.extractLsb' 37 3 == 0#3 && e.extractLsb' 43 20 == 0#20
    && (w 2).extractLsb' 24 40 == 0#40 && w 3 == 0#64 && e.getLsbD (40 + path.toNat) && (w 2).extractLsb' 0 16 == key
  if ok then (namedCtx s part (e.toNat % 2 ^ 16) (e.extractLsb' 16 16)).map (fun c => (c, e.extractLsb' 32 5)) else none

/-- LAUNCH_VALIDATION of the k-th packet at its entry die (13 R313), with LAUNCH_DROP. -/
def execLaunchValidation (k : Nat) (s : State) : Host.Outcome State Fault Refusal :=
  match arrived s k with
  | some { load := .validate part id key path die, src := src, .. } =>
    let s1 := dropPacket s k
    if ¬ partExists s part then .next (countMonitorDrop s1 die)
    else
      let adr := (ownerRec s part).launchBase.toNat + 32 * id.toNat
      match stage2 s (part.setWidth 6) adr with
      | .pull => .next (wantPull s (part.setWidth 6) adr)
      | .leaf l =>
        let pa := l.base + adr % 2 ^ l.bits
        let w := fun (i : Nat) => BitVec.ofNat 64 (memNat s.mem (pa + 8 * i) 8)
        if !l.perm.read || badLine s pa then .next (countDrop s1 part die)
        else if readState s part (pa / 128) ≠ .go then .next s
        else
          let s2 := l2Touch s1 part (pa / 128)
          match launchTarget s part id key path w with
          | some (dest, slot) => .next (sendPacket s2 src part (launchPath die dest.core) (.dispatch dest slot id (w 1)))
          | none => .next (countDrop s2 part die)
      | _ => .next (countDrop s1 part die)
  | _ => .next s

/-- LAUNCH_DISPATCH of the k-th packet: the launch word is posted and its entry marked with cause kind 0x04, or the launch
is dropped on this die (13 R313). -/
def execLaunchDispatch (k : Nat) (s : State) : Host.Outcome State Fault Refusal :=
  match arrived s k with
  | some { load := .dispatch dest slot id arg, part := part, .. } =>
    let s1 := dropPacket s k
    match findCtx s dest with
    | none => .next (countDrop s1 part (dieOf dest.core))
    | some c =>
      let img := (getEntry c slot).image
      if img.getLsbD 57 then
        .next (if channelFull s dest (img.extractLsb' 51 6) then s else updCtx s1 dest (postLaunch (img.extractLsb' 51 6) slot id arg))
      else .next (countDrop s1 part (dieOf dest.core))
  | _ => .next s

/-- LAUNCH (13 R314): gd is 0 when the network accepts the packet. -/
def execLaunch (d a b : Reg) (s : State) : Host.Outcome State Fault Refusal :=
  let v := readG s a
  let key := readG s b
  let remote := v.getLsbD 14
  let id : BitVec 8 := v.extractLsb' 0 8
  let m : BitVec 6 := v.extractLsb' 8 6
  finish s
    (if v.extractLsb' 22 42 ≠ 0#42 ∨ v.getLsbD 15 ∨ (¬ remote ∧ v.extractLsb' 8 14 ≠ 0#14)
        ∨ (remote ∧ (m = s.module ∨ s.modules.toNat ≤ m.toNat)) then configFault v
     else if key.extractLsb' 16 48 ≠ 0#48 then configFault key
     else
       let l : Load := if remote then .umavas m (v.extractLsb' 16 6) id (key.setWidth 16)
         else .validate s.me.id.part id (key.setWidth 16) 1 (dieOf s.me.id.core)
       .ok (sendPacket (nextPc (writeG s d 0)) s.me.id s.me.id.part
         (if remote then modulePath s s.me.id.core m.toNat else unitPath s.me.id.core (dieOf s.me.id.core) 80) l))

/-- The sender that stands for the host's function of a partition. -/
def hostId (p : BitVec 6) : CtxId := { core := 0xFFF, part := 0#1 ++ p, kctx := 0xFFFF }

/-- VF_LAUNCH_WRITE (16 R376): a write of a virtual function's LAUNCH register sends a packet to die 0; a nonzero zero field is
dropped and counted. -/
def execVfLaunchWrite (p : BitVec 6) (v : Word) (s : State) : Host.Outcome State Fault Refusal :=
  let part : BitVec 7 := 0#1 ++ p
  if s.boot.phase ≠ 7#8 then .next s
  else if v.extractLsb' 24 40 ≠ 0#40 then .next (if partExists s part then countDrop s part 0 else countMonitorDrop s 0)
  else .next (sendPacket s (hostId p) part [] (.validate part (v.extractLsb' 0 8) (v.extractLsb' 8 16) 0 0))

/-! ## Failed links (15 R361) -/

/-- Does an access of the context in focus cross a die bridge or an Umavas link? -/
def crossesLink (s : State) (pa : Nat) : Bool := pa / 2 ^ 37 ≠ s.module.toNat * 2 ^ 9 + (dieOf s.me.id.core).toNat

/-- Does an access at a virtual address go to a home across a link? -/
def vaCrosses (s : State) (pr : BitVec 2) (va : Word) (n : Need) : Bool :=
  match (xlate s pr va n).2 with
  | .ok e => crossesLink s (e.pbase + va.toNat % 2 ^ e.bits)
  | _ => false

/-- The address of the next element of a record, source first, whose access crosses a link. -/
def crossedAt (s : State) (pr : BitVec 2) (r : Rec) (n : Nat) : Option Word :=
  let p := r.place n
  match (if r.srcWin then none else p.1).filter (fun a => vaCrosses s pr a needRead) with
  | some a => some a
  | none => if !r.dstWin && vaCrosses s pr p.2 needWrite then some p.2 else none

/-- A copy channel that a failed link stops at its next element, to be read or to be written, halts with status 8 (09 R210, 15 R361). -/
def linkCopy (s : State) (e : BitVec 2) : State :=
  let h := getChan s.me e
  match h.st, h.words with
  | .running, some ws =>
    let r := recOf ws h.src h.dst
    if h.n < r.count ∧ isActive s s.me.id then
      match crossedAt s h.priv r h.n with
      | some a => copyHalt s s e 8 0x13 a
      | none => s
    else s
  | _, _ => s

end Sys2Proof.Machine
end

