-- ==== Sys2Proof/Machine/Tables.lean ====
section
/-! DEFINITION. The handler table (13 R305 to R310), transits (R319 to R322), translation maintenance (R315) with table
walks and page pulls (08 R181, 16 R373). -/

namespace Sys2Proof.Machine

/-! ## HTAB (13 R309, R310) -/

/-- The slot operand of the HTAB group. -/
def withSlot (s : State) (a : Reg) (k : BitVec 5 → Except Trap State) : Except Trap State :=
  if (readG s a).extractLsb' 5 59 ≠ 0#59 then configFault (readG s a) else k ((readG s a).setWidth 5)

/-- An entry image that HSET refuses (13 R306, R310). -/
def imageBad (v : Word) : Bool := v.extractLsb' 61 3 != 0#3 || v.extractLsb' 0 2 != 0#2 || 2 ≤ (v.extractLsb' 58 2).toNat

/-- A slot loaded with an image: its block and state are reset, its channel marks it when the inbox holds words (13 R307),
and entry 0, unless its image is zero, is marked by a nonempty fault queue (15 R343). -/
def installEntry (c : Ctx) (i : BitVec 5) (v : Word) : Ctx :=
  let ch : BitVec 6 := v.extractLsb' 51 6
  let c1 := setEntry c i { Entry.zero with image := v }
  let c2 := if v.getLsbD 57 && !(inboxOf c ch).isEmpty then
      markSlot i { kind := 1, index := ch.setWidth 12, arg := (inboxOf c ch).headD 0 } c1
    else c1
  if i == 0#5 && !c2.faults.isEmpty && !zeroImage (getEntry c2 i) then setEntry c2 i (stirEntry (getEntry c2 i)) else c2

/-- Is a channel bound to an entry other than i? -/
def boundElsewhere (c : Ctx) (ch : BitVec 6) (i : BitVec 5) : Bool :=
  match boundEntry c ch with
  | none => false
  | some j => j != i

def execHset (a b : Reg) (s : State) : Host.Outcome State Fault Refusal :=
  let v := readG s b
  finish s (withSlot s a (fun i =>
    let e := getEntry s.me i
    if imageBad v then configFault v
    else if (priv s).toNat < (v.extractLsb' 58 2).toNat then .error { cause := 0x02, value := v }
    else if e.st = .running ∨ e.st = .blocked then configFault (readG s a)
    else if v.getLsbD 57 && boundElsewhere s.me (v.extractLsb' 51 6) i then configFault v
    else .ok (nextPc { s with me := installEntry s.me i v })))

def execHget (d a : Reg) (s : State) : Host.Outcome State Fault Refusal :=
  finish s (withSlot s a (fun i =>
    .ok (nextPc (writeG s d (entryWord (getEntry s.me i))))))

/-- The masked bit of an entry set or cleared (13 R310). -/
def setMask (c : Ctx) (i : BitVec 5) (m : Bool) : Ctx :=
  let e := getEntry c i
  setEntry c i { e with image := if m then e.image ||| (1#64 <<< 60) else e.image &&& ~~~ (1#64 <<< 60) }

def execHmask (a : Reg) (s : State) : Host.Outcome State Fault Refusal :=
  finish s (withSlot s a (fun i => .ok (nextPc { s with me := setMask s.me i true })))

def execHunmask (a : Reg) (s : State) : Host.Outcome State Fault Refusal :=
  finish s (withSlot s a (fun i => .ok (nextPc { s with me := setMask s.me i false })))

def execHrun (a b : Reg) (s : State) : Host.Outcome State Fault Refusal :=
  finish s (withSlot s a (fun i =>
    .ok (nextPc { s with me := markSlot i { kind := 6, index := 0, arg := readG s b } s.me })))

/-! ## Transits (13 R319 to R322) -/

/-- An 8-byte plain load of the running handler whose value the meaning uses at once. -/
def plainWord (s : State) (va : Word) (k : State → Word → Except Trap State) : Except Trap State :=
  withAccess s va 8 needRead (fun t pa => plainAccess t va pa 8 false (fun u =>
    let r := l1Read u pa 8 false
    k r.1 (BitVec.ofNat 64 r.2)))

def ephGet (s : State) (part : BitVec 7) (i : Nat) : Eph := tabGet Eph.free (ownerRec s part).eph i

def ephPut (s : State) (part : BitVec 7) (i : Nat) (e : Eph) : State :=
  let r := ownerRec s part
  setOwner s part { r with eph := tabPut Eph.free r.eph i e }

/-- The transit opened by an image (13 R321). -/
def openTransit (s : State) (rel work : Word) : Eph :=
  { Eph.free with deadline := s.ktime + rel, work := work, state := 1, slack := rel, owner := s.me.id.kctx,
                  ownerIdx := coreIndex s s.me, rateNum := 1 }

def execTrn (d a : Reg) (s : State) : Host.Outcome State Fault Refusal :=
  let va := readG s a
  finish s (plainWord s va (fun s1 rel => plainWord s1 (va + 8) (fun s2 work => plainWord s2 (va + 16) (fun s3 idx =>
    let i := idx.toNat % 64
    if s.me.sys.trn.getLsbD 6 then configFault (s.me.sys.trn.setWidth 64)
    else if rel = 0#64 ∨ work.extractLsb' 59 5 ≠ 0#5 ∨ idx.extractLsb' 6 58 ≠ 0#58 then configFault va
    else if (ephGet s3 s.me.id.part i).state = 1#2 then .ok (nextPc (writeG s3 d 1))
    else
      let s4 := ephPut s3 s.me.id.part i (openTransit s3 rel work)
      .ok (nextPc (writeG { s4 with me.sys.trn := 1#1 ++ BitVec.ofNat 6 i } d 0))))))

def execTrne (d : Reg) (s : State) : Host.Outcome State Fault Refusal :=
  let t := s.me.sys.trn
  let i := t.toNat % 64
  let e := ephGet s s.me.id.part i
  finish s
    (if ¬ t.getLsbD 6 then configFault 0
     else .ok (nextPc (writeG { ephPut s s.me.id.part i { e with state := 2 } with me.sys.trn := 0 } d (e.deadline - s.ktime))))

def execSlack (d a : Reg) (s : State) : Host.Outcome State Fault Refusal :=
  let x := readG s a
  let t := s.me.sys.trn
  finish s
    (if x.extractLsb' 7 57 ≠ 0#57 ∨ (x.getLsbD 6 ∧ ¬ t.getLsbD 6) then configFault x
     else
       let e := ephGet s s.me.id.part (if x.getLsbD 6 then t.toNat % 64 else x.toNat % 64)
       .ok (nextPc (writeG s d (if e.state = 0#2 then 0 else e.slack))))

/-! ## Translation maintenance (13 R315) -/

/-- TLB entries that answer true removed from every context of the module. -/
def dropTlb (s : State) (gone : Ctx → TlbEntry → Bool) : State :=
  let f := fun (c : Ctx) => { c with tlb := c.tlb.filter (fun e => !gone c e) }
  { s with me := f s.me, others := s.others.map f }

/-- Steps 1 and 2 of 13 R315: the set's dirty bytes are written back, then the entries go. Segments in flight are whole
steps of the model and hold no translation, so that step 4 has nothing to wait for. -/
def tlbOp (s : State) (gone : Ctx → TlbEntry → Bool) (k : State → State) : Except Trap State :=
  guardBack s s.me.l1 (.ok (nextPc (k (dropTlb (cleanL1 s) gone))))

def execTlbi (a : Reg) (s : State) : Host.Outcome State Fault Refusal :=
  let va := readG s a
  finish s (needPriv s 1 (wordOf (.tlbi a))
    (if va.extractLsb' 48 16 ≠ 0#16 then configFault va
     else tlbOp s (fun c e => c.id.part == s.me.id.part && e.vbase == va.toNat / 2 ^ e.bits * 2 ^ e.bits) id))

/-- A written KTT takes effect (05 R100): in every context of the partition, since all its entries go. -/
def adoptKtt (s : State) (part : BitVec 7) : State :=
  let f := fun (c : Ctx) => if c.id.part = part then { c with sys.kttEff := c.sys.ktt } else c
  { s with me := f s.me, others := s.others.map f }

def execTlbia (s : State) : Host.Outcome State Fault Refusal :=
  finish s (needPriv s 1 (wordOf .tlbia)
    (tlbOp s (fun c _ => c.id.part == s.me.id.part) (fun t => adoptKtt t s.me.id.part)))

/-- A partition operand of TLBIP and TLBIS. -/
def withPart (v : Word) (k : BitVec 6 → Except Trap State) : Except Trap State :=
  if v.extractLsb' 6 58 ≠ 0#58 then configFault v else k (v.setWidth 6)

/-- TLBIP: a written MSTAGE base comes into force (16 R368). -/
def execTlbip (a : Reg) (s : State) : Host.Outcome State Fault Refusal :=
  finish s (needPriv s 2 (wordOf (.tlbip a)) (withPart (readG s a) (fun p =>
    tlbOp s (fun c _ => inPart p c.id) (fun t => setPart t p { partRec t p with mstageEff := (partRec t p).mstage }))))

/-- Entries of a partition whose stage-2 page covers a partition address. -/
def coversIpa (p : BitVec 6) (ipa : Nat) (c : Ctx) (e : TlbEntry) : Bool :=
  inPart p c.id && e.ipa / 2 ^ e.s2bits == ipa / 2 ^ e.s2bits

/-- Does a TLBIS for a partition address let the accesses refused at another one go on: it lies in the same stage-2 page as that page was when it
refused them, or as the tables now stand (15 R345)? -/
def sameStage2 (s : State) (p : BitVec 6) (ipa other old : Nat) : Bool :=
  let same := fun (bits : Nat) => other / 2 ^ bits == ipa / 2 ^ bits
  same old || same (s2Size s p ipa)

/-- TLBIS: engine accesses that wait after a stage-2 fault in its page may try again (15 R345). -/
def execTlbis (a b : Reg) (s : State) : Host.Outcome State Fault Refusal :=
  finish s (needPriv s 2 (wordOf (.tlbis a b)) (withPart (readG s a) (fun p =>
    let ipa := (readG s b).toNat
    tlbOp s (coversIpa p ipa) (fun t =>
      { t with refused := t.refused.filter (fun x => !(x.1 == 0#1 ++ p && sameStage2 t p ipa x.2.1 x.2.2)) }))))

/-- The need that a code names: 0 read, 1 write, 2 execute, 3 read and write. -/
def needOf (acc : BitVec 2) : Need :=
  if acc = 0#2 then needRead else if acc = 1#2 then needWrite else if acc = 2#2 then needExec else needBoth

/-- TABLE_WALK_COMPLETE: a walk that passes installs its translation (08 R181); one that faults installs nothing, and its
fault is taken by the access itself, which walks again (DESIGN CHOICE, log 4). -/
def execTableWalkComplete (va : Word) (acc : BitVec 2) (s : State) : Host.Outcome State Fault Refusal :=
  if va.extractLsb' 48 16 ≠ 0#16 || (tlbHit s.me va).isSome then .next s
  else match translate s (priv s) va (needOf acc) with
    | .ok t _ => .next t
    | _ => .next s

/-! ## Page pulls (16 R373) -/

/-- The physical address of the leaf entry of a partition address, if its walk ends in one. -/
def leafAt (s : State) (ipa : Nat) : Nat → Nat → Nat → Option Nat
  | 0, _, _ => none
  | fuel + 1, level, table =>
    let adr := table + 8 * levelIndex level ipa
    let w : Word := BitVec.ofNat 64 (memNat s.mem adr 8)
    if badLine s adr || w.extractLsb' 0 2 == 0#2 then none
    else if w.getLsbD 5 || level == 3 then some adr
    else leafAt s ipa fuel (level + 1) (entryBase w)

/-- Bytes [src, src + n) copied to dst. -/
def memMove (m : List Host.Cell) (src dst n : Nat) : List Host.Cell :=
  (m.filter (fun c => src ≤ c.1 && c.1 < src + n)).foldl (fun t c => memSet t (c.1 - src + dst) c.2)
    (m.filter (fun c => !(dst ≤ c.1 && c.1 < dst + n)))

/-- PAGE_PULL_COMPLETE of a pull that is under way: the page stands in the DRAM of its frame of this module, whose lines are good again (08 R183), the
entry is valid and the stalled accesses may go on. A containment event drops a pull with its partition's work in flight (16 R383). -/
def execPagePullComplete (p : BitVec 6) (pa : Word) (s : State) : Host.Outcome State Fault Refusal :=
  if !s.pulls.contains (p, pa.toNat / 2 ^ 16 * 2 ^ 16) then .next s
  else match stage2 s p pa.toNat, leafAt s pa.toNat 3 1 (partRec s p).mstageEff.toNat with
  | .pull, some adr =>
    let w : Word := BitVec.ofNat 64 (memNat s.mem adr 8)
    let local_ := entryBase w % 2 ^ 46
    let home := s.module.toNat * 2 ^ 46 + local_
    let w1 : Word := (w &&& 0x00003FFFFFFFFFFC#64) ||| 1#64 ||| (s.module.setWidth 64 <<< 46)
    let outside := fun (num : Nat) => !(home / 128 ≤ num && num < home / 128 + 512)
    let s1 := { s with mem := memMove s.mem (entryBase w) home (2 ^ 16), l2 := s.l2.filter (fun x => outside x.num)
                       bad := s.bad.filter outside, retired := s.retired.filter outside
                       pulls := s.pulls.filter (fun x => x ≠ (p, pa.toNat / 2 ^ 16 * 2 ^ 16)) }
    .next (dropTlb (homeCommit s1 0x40 (memPut s1.mem adr 8 w1.toNat) [adr / 128]) (coversIpa p pa.toNat))
  | _, _ => .next s

end Sys2Proof.Machine
end

