-- ==== Sys2Proof/Machine/Governor.lean ====
section
/-! DEFINITION. The meridian governor at an epoch end (17 R384 to R395, 13 R322) and the patrol scrub (08 R183). Frequencies
count in units of 12.5 MHz: 48 is 0.6 GHz, 200 is 2.5 GHz, 240 is 3.0 GHz. -/

namespace Sys2Proof.Machine

/-! ## The contexts of a transit (17 R385) -/

/-- The owner of an ephemeris entry. -/
def ephOwner (s : State) (part : BitVec 7) (e : Eph) : Option CtxId := namedCtx s part e.ownerIdx.toNat e.owner

/-- Declared work, kind and graph of an entry (13 R319). -/
def ephWork (e : Eph) : Nat := e.work.toNat % 2 ^ 48
def ephRows (e : Eph) : Bool := e.work.getLsbD 48
def ephGraph (e : Eph) : BitVec 4 := e.work.extractLsb' 49 4

/-- The contexts that do a transit's work: the owner for tile rows, else every context with an element of the graph. -/
def workers (s : State) (part : BitVec 7) (e : Eph) : List Ctx :=
  match ephOwner s part e with
  | none => []
  | some o =>
    (allCtxs s).filter (fun c =>
      if ephRows e then c.id = o
      else c.id.part = part && c.id.kctx = o.kctx && c.fab.marks.any (fun m => m.2.core = o.core && m.2.gid = ephGraph e))

def slotNames (id : CtxId) (r : CoreRec) (w : BitVec 32) : Bool :=
  (slotNeeds id.core r w).any (fun n => n.2 = id)

/-- The words of a calendar's present slots, one for each slot. -/
def calendarWords (r : CoreRec) : List (BitVec 32) :=
  ((List.range 16).map (fun i => if r.running && r.cur.toNat == i then curWord r else nextWord r i)).filter (fun w => slotLen w != 0)

/-- The length of the slots of a calendar that name a context, and of all its present slots. -/
def duty (s : State) (id : CtxId) : Nat × Nat :=
  let r := coreRec s id.core
  if ¬ r.running then (1, 1)
  else ((((calendarWords r).filter (slotNames id r)).map slotLen).sum, ((calendarWords r).map slotLen).sum)

/-- The least of a list of fractions, 1 for none. -/
def leastDuty : List (Nat × Nat) → Nat × Nat
  | [] => (1, 1)
  | [d] => d
  | d :: ds => let m := leastDuty ds; if d.1 * m.2 ≤ m.1 * d.2 then d else m

/-! ## Prediction (17 R385 to R387) -/

/-- The remaining network cycles at a frequency, ⌈(W − P) × 2.5 ÷ (ρ × f × u)⌉; none when the contexts have no slot. -/
def remaining (e : Eph) (u : Nat × Nat) (f : Nat) : Option Nat :=
  let d := e.rateNum * f * u.1
  if d = 0 then none else some (((ephWork e - e.progress.toNat) * 200 * e.rateDen * u.2 + d - 1) / d)

/-- The predicted finish at a frequency; a met transit has finished when it was first seen met. -/
def finishAt (now : Nat) (e : Eph) (u : Nat × Nat) (f : Nat) : Option Nat :=
  match e.met with
  | some t => some t.toNat
  | none => (remaining e u f).map (now + ·)

/-- The lowest frequency that meets the guard of two epochs, else f_perm; f_perm too while risk is raised (17 R387). -/
def required (now fperm : Nat) (e : Eph) (u : Nat × Nat) : Nat :=
  if e.risk then fperm
  else
    let ok := fun (f : Nat) => match finishAt now e u f with
      | none => false
      | some t => t + 5000 ≤ e.deadline.toNat
    (((List.range (fperm - 47)).map (· + 48)).find? ok).getD fperm

/-- The shutter setting that a transit asks of its graph's ports (17 R393), 0 for open. -/
def transitLimit (now fperm : Nat) (e : Eph) (u : Nat × Nat) : Nat :=
  match finishAt now e u 48 with
  | none => 0
  | some t =>
    let late : Int := (e.deadline.toNat : Int) - 5000
    let left := late - now
    let early := e.met.isSome || (required now fperm e u = 48 && decide (left < 2 * (late - t)))
    if ephRows e || !early then 0
    else if left ≤ 0 then 1
    else
      let l := (64 * ((t : Int) - now) + left - 1) / left
      if l ≤ 1 then 1 else if 64 ≤ l then 64 else l.toNat

/-- The rate of an epoch: progress by the least count of active core cycles; kept where it would be 0 (17 R385). -/
def newRate (e : Eph) (c : Nat) : Nat × Nat :=
  let p := e.progress.toNat - e.prev.toNat
  if p = 0 ∨ c = 0 then (e.rateNum, e.rateDen) else (p, c)

/-- Step 3 of 17 R384 on one open entry: rate, met, slack, shutter setting; true when its risk is to be delivered. -/
def evaluate (s : State) (part : BitVec 7) (now fperm : Nat) (e : Eph) : Eph × Bool :=
  let ws := workers s part e
  let cycles := (ws.map (fun c => c.cyc)).foldl Nat.min ((ws.map (fun c => c.cyc)).headD 0)
  let u := leastDuty (ws.map (fun c => duty s c.id))
  let rate := newRate e cycles
  let met := match e.met with
    | some t => some t
    | none => if ephWork e ≤ e.progress.toNat then some (BitVec.ofNat 64 now) else none
  let e1 := { e with rateNum := rate.1, rateDen := rate.2, prev := e.progress, met := met }
  match finishAt now e1 u fperm with
  | some t =>
    let risky := met.isNone && decide (e.deadline.toNat < t) && !e.risk
    let e2 := { e1 with slack := e.deadline - BitVec.ofNat 64 t, risk := e.risk || risky }
    ({ e2 with limit := transitLimit now fperm e2 u }, risky)
  | none => ({ e1 with slack := Config.endlessSlack s.tick, risk := true }, !e.risk)

/-- DEADLINE_RISK (13 R322): the risk slot of the owning context is marked, or cause 0x14 becomes pending in it. -/
def deliverRisk (s : State) (part : BitVec 7) (i : Nat) (e : Eph) : State :=
  match ephOwner s part e with
  | none => s
  | some id =>
    let v : Word := BitVec.ofNat 64 i
    if e.work.getLsbD 58 then updCtx s id (markSlot (e.work.extractLsb' 53 5) { kind := 5, index := 0x14, arg := v })
    else updCtx s id (pendAsync 0x14 v)

/-- Every open entry of an owner evaluated, in order of index. -/
def evaluateAll (s : State) (part : BitVec 7) (now fperm : Nat) : Tab Eph → State
  | [] => s
  | (i, e) :: rest =>
    if e.state ≠ 1#2 then evaluateAll s part now fperm rest
    else
      let r := evaluate s part now fperm e
      let s1 := ephPut s part i r.1
      evaluateAll (if r.2 then deliverRisk s1 part i r.1 else s1) part now fperm rest

/-! ## Spines, rails and shutters (17 R388 to R393) -/

/-- The spines that a context selects: its own, for its solo slots, and those of the paired slots that name it (17 R388). -/
def selects (s : State) (c : Ctx) : List (BitVec 3) :=
  let r := coreRec s c.id.core
  c.sys.spine :: ((liveWords r).filter (fun w => slotKind w == 2#2 && slotNames c.id r w)).map slotSpine

/-- A spine that a paired slot of two partitions names on a die is held at 2.5 GHz (17 R388). -/
def heldSpine (s : State) (die : BitVec 3) (sp : BitVec 3) : Bool :=
  let two := fun (r : CoreRec) (w : BitVec 32) =>
    let a := descOf r (slotA w)
    let b := descOf r (slotB w)
    slotKind w == 2#2 && slotSpine w == sp && descValid a && descValid b && a.w0.extractLsb' 16 6 != b.w0.extractLsb' 16 6
  s.cores.any (fun k => k.1 / 512 = die.toNat && (liveWords k.2).any (two k.2))

/-- Every open transit: owner code and entry. -/
def openTransits (s : State) : List (BitVec 7 × Eph) :=
  (s.parts.map (fun p => ((p.2.eph.filter (fun e => e.2.state = 1#2)).map (fun e => (BitVec.ofNat 7 p.1, e.2))))).flatten

/-- The frequency of a spine (17 R388). -/
def spineFreq (s : State) (now fperm : Nat) (die sp : BitVec 3) : Nat :=
  if heldSpine s die sp then 200
  else
    let here := (allCtxs s).filter (fun c => dieOf c.id.core = die && (selects s c).contains sp)
    let ts := openTransits s
    let asks := ts.map (fun t =>
      let ws := workers s t.1 t.2
      if t.2.met.isNone && ws.any (fun w => here.any (fun c => c.id = w.id)) then
        required now fperm t.2 (leastDuty (ws.map (fun c => duty s c.id)))
      else 48)
    let idle := here.any (fun c => isPlaced s c.id && !ts.any (fun t => (workers s t.1 t.2).any (fun w => w.id = c.id)))
    asks.foldl Nat.max (if idle then 200 else 48)

/-- The compute rail in millivolts for the fastest selected spine (17 R389). -/
def railLevel (f : Nat) : Nat :=
  if f ≤ 80 then 600 else if f ≤ 120 then 650 else if f ≤ 160 then 700 else if f ≤ 200 then 750 else if f ≤ 220 then 800 else 850

/-- One epoch of the ramp of new work: 8, 16, 32, 64, open (17 R393). -/
def rampNext (l : Nat) : Nat := if l = 0 ∨ 64 ≤ l then 0 else 2 * l

/-- The setting under the rail's share: down by 8 to 8, and back up again to open (17 R393). -/
def shareNext (atShare : Bool) (l : Nat) : Nat :=
  if atShare then (if l = 0 then 56 else if l ≤ 16 then 8 else l - 8)
  else if l = 0 ∨ 56 ≤ l then 0 else l + 8

/-- f_perm after an epoch (17 R390); it does not fall below the grid's lowest frequency. -/
def fpermNext (power f : Nat) : Nat :=
  if 4300000 < power then (if f ≤ 48 then 48 else f - 1) else if power < 4100000 then (if f < 240 then f + 1 else f) else f

/-- The share of the compute rail of a die in milliwatts: 520 W less that of the memory rail (17 R391). -/
def memoryShare (dram stalled : Nat) : Nat := Nat.max 96000 (96000 + 2000 * Nat.min 100 dram - 1000 * Nat.min 100 stalled)
def computeShare (dram stalled : Nat) : Nat := 520000 - memoryShare dram stalled

/-- Would the compute rail of a die pass its share (17 R391)? -/
def atShare (s : State) (die : Nat) : Bool :=
  decide (computeShare (Config.dramPercent s.tick die) (Config.stallPercent s.tick die) < Config.railPower s.tick die)

/-! ## Ballast (17 R394) -/

/-- The cells of a die that no context set has in use. -/
def idleCells (s : State) (die : BitVec 3) : Nat :=
  let used := fun (c : Ctx) => ((List.range 64).filter (fun e => cfgField c e 0 ≠ 0)).length
  512 * 64 - (((allCtxs s).filter (fun c => dieOf c.id.core = die && (setOf s c.id).isSome)).map used).sum

/-- The current of a rail an epoch later, in milliamperes: it changes by at most 25 A. -/
def currentNext (now want : Nat) : Nat := if now + 25000 < want then now + 25000 else if want + 25000 < now then now - 25000 else want

/-- The ballast of a die an epoch later: the cells that run it, those with which it began, and the epochs that it still has. A fall beyond the limit
begins it anew; their number then falls linearly to zero over 20 epochs. -/
def ballastNext (fall : Bool) (fresh idle : Nat) (b : Nat × Nat × Nat) : Nat × Nat × Nat :=
  let left := b.2.2 - 1
  let cells := Nat.min b.1 (b.2.1 * left / 20)
  if fall ∧ cells < fresh then (Nat.min fresh idle, fresh, 20) else (Nat.min cells idle, b.2.1, left)

/-- The ballast and the compute-rail current of a die at an epoch end. -/
def rampDie (s : State) (die : BitVec 3) : State :=
  let d := die.toNat
  let now := tabGet 0 s.gov.current d
  let want := Config.railCurrent s.tick d
  let b := ballastNext (decide (want + 25000 < now)) (Config.ballastCells s.tick d) (idleCells s die)
    (tabGet 0 s.gov.ballast d, tabGet 0 s.gov.ballastTop d, tabGet 0 s.gov.ballastLeft d)
  { s with
    gov.current := tabPut 0 s.gov.current d (currentNext now want)
    gov.ballast := tabPut 0 s.gov.ballast d b.1
    gov.ballastTop := tabPut 0 s.gov.ballastTop d b.2.1
    gov.ballastLeft := tabPut 0 s.gov.ballastLeft d b.2.2 }

/-! ## Energy accounts (17 R395) -/

/-- The part of a context in the paired slots of its core: its issue cycles and element firings, or, where both contexts have none, its
cycles (DESIGN CHOICE, log 10). -/
def pairedEnergy (s : State) (c : Ctx) : Nat :=
  let both := (allCtxs s).filter (fun k => k.id.core = c.id.core && k.pairCyc ≠ 0)
  let work := (both.map (fun k => k.work)).sum
  let q := Config.energyOf s.tick (.paired c.id.core)
  if c.pairCyc = 0 then 0
  else if work = 0 then q * c.pairCyc / (both.map (fun k => k.pairCyc)).sum
  else q * c.work / work

/-- What the epoch charges to a context: its core's energy in solo slots and its part of it in paired ones, its saves and restores, and the traffic
that it issued. -/
def ctxEnergy (s : State) (c : Ctx) : Nat :=
  let q := Config.energyOf s.tick
  (if c.pairCyc < c.cyc then q (.solo c.id) else 0) + pairedEnergy s c + (if c.moved = 0 then 0 else q (.moved c.id)) + q (.traffic c.id)

/-- The charges of an owner's contexts. -/
def ctxsEnergy (s : State) (part : BitVec 7) : Nat := (((allCtxs s).filter (fun c => c.id.part = part)).map (ctxEnergy s)).sum

/-- What the epoch charges to a partition: the sum of its contexts' charges, its traffic that no context issued, and the write-backs of ways that it
lost. -/
def partCharge (s : State) (p : Nat) : Nat :=
  let part : BitVec 7 := 0#1 ++ BitVec.ofNat 6 p
  ctxsEnergy s part + Config.energyOf s.tick (.direct part) + Config.energyOf s.tick (.revoked part)

/-- What the epoch charges to the monitor: its contexts, the scrub, tests, ballast, its traffic, idle cores and idle slots. -/
def monitorCharge (s : State) : Nat :=
  let q := Config.energyOf s.tick
  let ballast := ((List.range 8).map (fun d => if tabGet 0 s.gov.ballast d = 0 then 0 else q (.ballast d))).sum
  ctxsEnergy s 0x40 + q .scrub + q .tests + ballast + q .monitor + q .idleCores + q .idleSlots

/-- ENERGY_CHARGE (17 R395). -/
def chargeEnergy (s : State) : State :=
  let add := fun (c : Ctx) => { c with energy := c.energy + BitVec.ofNat 64 (ctxEnergy s c) }
  { s with
    me := add s.me
    others := s.others.map add
    parts := s.parts.map (fun p => (p.1, { p.2 with energy := p.2.energy + BitVec.ofNat 64 (partCharge s p.1) }))
    monitorEnergy := s.monitorEnergy + BitVec.ofNat 64 (monitorCharge s) }

/-! ## The epoch end (17 R384) -/

/-- The cells of a die that fired in the epoch (17 R393). -/
def firingCells (s : State) (die : BitVec 3) : Nat :=
  (((allCtxs s).filter (fun c => dieOf c.id.core = die)).flatMap (fun c =>
    c.fab.fired.map (fun f => c.id.core.toNat * 64 + f.1))).eraseDups.length

/-- The firing cells of a die exceed those of the previous epoch by more than 256. -/
def firingGrew (s : State) (die : BitVec 3) : Bool := decide (tabGet 0 s.gov.firing die.toNat + 256 < firingCells s die)

/-- The epoch's counts start again, and new work of a die whose firing cells grew is metered (17 R393). -/
def renewCtx (s : State) (c : Ctx) : Ctx :=
  { c with cyc := 0, pairCyc := 0, work := 0, moved := 0, fresh := false, fab.fired := []
           ramp := if c.fresh && firingGrew s (dieOf c.id.core) then 8 else rampNext c.ramp }

/-- The dies of the module. -/
def dieList : List (BitVec 3) := (List.range 8).map (BitVec.ofNat 3)

/-- Step 4 of 17 R384: the frequency of every spine. -/
def setSpines (s : State) (now : Nat) : State :=
  let pairs := (List.range 64).map (fun k => (k, spineFreq s now s.gov.fperm (BitVec.ofNat 3 (k / 8)) (BitVec.ofNat 3 k)))
  { s with gov.spines := pairs.foldl (fun t p => tabPut 48 t p.1 p.2) [] }

/-- The fastest spine of a die that its cores have selected: those on which they stand, and those that the contexts of their calendars and sets
select (17 R389). -/
def fastestSpine (s : State) (die : BitVec 3) : Nat :=
  let freq := fun (sp : BitVec 3) => tabGet 48 s.gov.spines (die.toNat * 8 + sp.toNat)
  let stood := (s.cores.filter (fun k => k.1 / 512 = die.toNat)).map (fun k => k.2.spine)
  let chosen := ((allCtxs s).filter (fun c => dieOf c.id.core = die && (isPlaced s c.id || (setOf s c.id).isSome))).flatMap (selects s)
  ((stood ++ chosen).map freq).foldl Nat.max 48

/-- Step 5 of 17 R384: rails, shutter, ballast. -/
def setRails (s : State) : State :=
  let s1 := { s with
    gov.rail := dieList.foldl (fun t d => tabPut 600 t d.toNat (railLevel (fastestSpine s d))) s.gov.rail
    gov.shutter := dieList.foldl (fun t d => tabPut 0 t d.toNat (shareNext (atShare s d.toNat) (tabGet 0 s.gov.shutter d.toNat))) s.gov.shutter }
  dieList.foldl rampDie s1

/-- EPOCH_END: due at each multiple of 2,500 of KTIME, in the order of 17 R384. -/
def epochEnd (s : State) : State :=
  if s.ktime.toNat < s.epochAt.toNat then s
  else
    let now := s.epochAt.toNat
    let s1 := chargeEnergy s
    let s2 := { s1 with gov.fperm := fpermNext (Config.modulePower s.tick) s1.gov.fperm }
    let s3 := s2.parts.foldl (fun t p => evaluateAll t (BitVec.ofNat 7 p.1) now s2.gov.fperm p.2.eph) s2
    let s4 := setRails (setSpines s3 now)
    { s4 with me := renewCtx s4 s4.me, others := s4.others.map (renewCtx s4), epochAt := s.epochAt + 2500
              gov.firing := dieList.foldl (fun t d => tabPut 0 t d.toNat (firingCells s4 d)) s4.gov.firing }

def execEpochEnd (s : State) : Host.Outcome State Fault Refusal := .next (epochEnd s)

/-! ## Patrol scrub (08 R183) -/

/-- PATROL_SCRUB of a line: a correctable word is repaired, an uncorrectable one is logged and stays until it is read; both
count in the die's error log. -/
def execPatrolScrub (line : BitVec 45) (bad : Bool) (s : State) : Host.Outcome State Fault Refusal :=
  let die := line.toNat / 2 ^ 30 % 8
  let s1 := { s with errlog := tabPut 0 s.errlog die (tabGet 0 s.errlog die + 1) }
  .next (if bad && !s.bad.contains line.toNat then { s1 with bad := line.toNat :: s1.bad } else s1)

end Sys2Proof.Machine
end

