-- ==== Sys2Proof/Machine/Boot.lean ====
section
/-! DEFINITION. Start-up and the host (16 R374 to R382). -/

namespace Sys2Proof.Machine

/-! ## The host's windows (16 R374 to R377) -/

/-- Why a host access does not complete: an Unsupported Request, a page in the pull state, or a home that cannot serve it yet. -/
inductive HostStop where
  | refused
  | pull (ipa : Nat)
  | wait
  deriving DecidableEq, Repr

/-- The physical address of a byte of a host access, when stage 2 admits it; a page in the pull state holds it (16 R373). -/
def hostByte (s : State) (p : BitVec 6) (adr : Nat) (n : Need) : Except HostStop Nat :=
  match stage2 s p adr with
  | .leaf l => if l.allows n then .ok (l.base + adr % 2 ^ l.bits) else .error .refused
  | .pull => .error (.pull adr)
  | _ => .error .refused

/-- The physical addresses of n bytes. -/
def hostRange (s : State) (p : BitVec 6) (adr : Nat) (need : Need) : Nat → Except HostStop (List Nat)
  | 0 => .ok []
  | n + 1 => do
    let a ← hostByte s p adr need
    let rest ← hostRange s p (adr + 1) need n
    .ok (a :: rest)

/-- The lines of a list of addresses. -/
def linesIn (as : List Nat) : List Nat := (as.map (fun a => a / 128)).eraseDups

def answer (s : State) (m : HostMsg) : State := { s with host := s.host ++ [m] }

/-- The bytes at a list of addresses as a little-endian number. -/
def gatherNat (m : List Host.Cell) : List Nat → Nat
  | [] => 0
  | a :: as => (memByte m a).toNat + 256 * gatherNat m as

def scatterNat (m : List Host.Cell) : List Nat → Nat → List Host.Cell
  | [], _ => m
  | a :: as, v => scatterNat (memSet m a (BitVec.ofNat 8 v)) as (v / 256)

/-- An access that the host can make: the monitor runs, the partition exists, and 1 to 8 bytes are named. -/
def hostMay (s : State) (p : BitVec 6) (n : BitVec 4) : Bool :=
  s.boot.phase == 7#8 && partExists s (0#1 ++ p) && n != 0#4 && n.toNat ≤ 8

/-- The addresses that a host read reads, once their homes can serve it (08 R178). -/
def hostRead (s : State) (p : BitVec 6) (addr : Word) (n : BitVec 4) : Except HostStop (List Nat) :=
  if ¬ hostMay s p n then .error .refused
  else match hostRange s p addr.toNat needRead n.toNat with
    | .error x => .error x
    | .ok as =>
      if as.any (badLine s) then .error .refused
      else if (linesIn as).all (fun num => readState s (0#1 ++ p) num == .go) then .ok as else .error .wait

/-- The addresses that a host write writes, once their homes can take it (08 R176 to R178). -/
def hostWrite (s : State) (p : BitVec 6) (addr : Word) (n : BitVec 4) (v : Word) : Except HostStop (List Nat) :=
  if ¬ hostMay s p n then .error .refused
  else match hostRange s p addr.toNat needWrite n.toNat with
    | .error x => .error x
    | .ok as =>
      let m := scatterNat s.mem as v.toNat
      if (linesIn as).all (fun num => homeState s (0#1 ++ p) num (homeLine m num) == .go) then .ok as else .error .wait

/-- A host access that does not complete: an Unsupported Request, or a wait, for which a page in the pull state is pulled (16 R373). -/
def hostStopped (s : State) (p : BitVec 6) (x : HostStop) : State :=
  match x with
  | .refused => answer s .unsupported
  | .pull ipa => wantPull s p ipa
  | .wait => s

/-- HOST_BAR2_READ (16 R377): data, or an Unsupported Request. It belongs to no context and counts no performance event (14 R335). -/
def execHostBar2Read (p : BitVec 6) (addr : Word) (n : BitVec 4) (s : State) : Host.Outcome State Fault Refusal :=
  .next (match hostRead s p addr n with
    | .error x => hostStopped s p x
    | .ok as => answer ((linesIn as).foldl (fun t num => l2Touch t (0#1 ++ p) num) s) (.data (BitVec.ofNat 64 (gatherNat s.mem as))))

/-- HOST_BAR2_WRITE (16 R377): committed at the home slices; a forbidden write changes no byte. -/
def execHostBar2Write (p : BitVec 6) (addr : Word) (n : BitVec 4) (v : Word) (s : State) :
    Host.Outcome State Fault Refusal :=
  .next (match hostWrite s p addr n v with
    | .error x => hostStopped s p x
    | .ok as => homeCommit s (0#1 ++ p) (scatterNat s.mem as v.toNat) (linesIn as))

/-- Does a host access wait (16 R373)? -/
def hostWaits (s : State) (i : Instr) : Bool :=
  let waits := fun (r : Except HostStop (List Nat)) => match r with
    | .error .refused => false
    | .error _ => true
    | .ok _ => false
  match i with
  | .hostBar2Read p addr n => waits (hostRead s p addr n)
  | .hostBar2Write p addr n v => waits (hostWrite s p addr n v)
  | _ => false

/-- The virtual function whose register or window an access names. -/
def hostFunction (i : Instr) : Option (BitVec 6) :=
  match i with
  | .hostBar2Read p _ _ => some p
  | .hostBar2Write p _ _ _ => some p
  | .vfLaunchWrite p _ => some p
  | _ => none

/-! ## The BAR0 registers (16 R375, R376) -/

/-- BOOTSTAT. -/
def bootstat (s : State) : Word :=
  (BitVec.ofBool s.boot.halted ++ s.boot.code ++ s.boot.phase).setWidth 64

/-- A byte of DEVKEY, which has 96 (DESIGN CHOICE, log 70). -/
def devkeyByte (i : BitVec 7) : Byte := if i.toNat < 96 then Config.deviceKey i.toNat else 0

/-- PSTATE of a partition's virtual function. -/
def pstateWord (s : State) (p : BitVec 6) : Word :=
  ((partRec s p).contained ++ 0#13 ++ (partRec s p).pstate).setWidth 64

/-- The monitor shows the host another state of a partition; MSI-X vector 0 fires at a change (16 R376). The spec names no register by
which the monitor does so (DESIGN CHOICE, log 87). -/
def showState (s : State) (p : BitVec 6) (v : BitVec 3) : State :=
  if s.boot.phase ≠ 7#8 ∨ 4 < v.toNat ∨ (partRec s p).pstate = v then s
  else answer (setPart s p { partRec s p with pstate := v }) (.msix p)

/-! ## What the host and the monitor set (16 R365, R378) -/

/-- An address after the module has changed its number from m to n: its own memory keeps its place, and what the module numbered n before takes the
number m. -/
def renumber (m n a : Nat) : Nat :=
  if a / 2 ^ 46 = m then n * 2 ^ 46 + a % 2 ^ 46 else if a / 2 ^ 46 = n then m * 2 ^ 46 + a % 2 ^ 46 else a

def renumberLine (m n l : Nat) : Nat := if l < 2 ^ 45 then renumber m n (l * 128) / 128 else l

/-- The host gives the module its number in a domain of 1 to 64 modules. The model admits it until the monitor starts, when no cache, packet or
partition holds a physical address (DESIGN CHOICE, log 7). -/
def setModule (s : State) (n : BitVec 6) (total : BitVec 7) : State :=
  let f := renumber s.module.toNat n.toNat
  let g := renumberLine s.module.toNat n.toNat
  if s.boot.started ∨ 7#8 ≤ s.boot.phase ∨ 64 < total.toNat ∨ total.toNat ≤ n.toNat then s
  else { s with module := n, modules := total, mem := s.mem.foldl (fun t c => memSet t (f c.1) c.2) [], bad := s.bad.map g,
                retired := s.retired.map g }

/-- The domain route to a module: a link that has trained, set before any partition starts. -/
def setRoute (s : State) (m : BitVec 6) (k : BitVec 5) : State :=
  if ¬ s.trained.getLsbD k.toNat ∨ s.parts.any (fun p => partExists s (BitVec.ofNat 7 p.1)) then s
  else { s with routes := tabPut 0 s.routes m.toNat k.toNat }

/-- The monitor's choice of the system core of a partition, by core-list index (16 R365; DESIGN CHOICE, log 99). -/
def setSystem (s : State) (p : BitVec 6) (index : BitVec 16) : State :=
  if s.boot.phase ≠ 7#8 then s else setPart s p { partRec s p with sysIndex := index }

/-! ## Uncorrectable errors (08 R183, 15 R361) -/

def addOnce (n : Nat) (l : List Nat) : List Nat := if l.contains n then l else n :: l

/-- An uncorrectable error appears: data is found when it is read; an error in the control state of a partition is a containment event of it, one
in shared control state halts the module. When and where one appears is open (DESIGN CHOICE, log 46). -/
def upsetAt (s : State) (u : Upset) : State :=
  match u with
  | .line n => { s with bad := addOnce n s.bad }
  | .window w => { s with winBad := addOnce w s.winBad }
  | .l1 c n w => updCtx s c (fun k =>
      { k with l1 := k.l1.map (fun l => if l.num = n then { l with bad := l.bad ||| (1#16 <<< w.toNat) } else l) })
  | .partition p => if s.boot.phase = 7#8 ∧ partExists s (0#1 ++ p) then contain s p else s
  | .shared => if s.boot.phase = 7#8 then haltModule s 0x0A else s

/-- PF_BAR2_ACCESS of one byte (16 R375): local DRAM of die 0 until the monitor starts; afterwards, also when the module has halted since, the
monitor defines the window, and a read answers a free value. -/
def execPfBar2Access (w : Bool) (addr : BitVec 28) (v : Byte) (s : State) : Host.Outcome State Fault Refusal :=
  let pa := s.module.toNat * 2 ^ 46 + addr.toNat
  if s.boot.started then
    .next (if w then s else answer s (.data ((Config.pfWindow s.tick addr.toNat).setWidth 64)))
  else if w then .next { s with mem := memSet s.mem pa v }
  else .next (answer s (.data ((memByte s.mem pa).setWidth 64)))

/-- FUNCTION_LEVEL_RESET of a partition's virtual function: a containment event (16 R374); ignored without a partition. -/
def execFunctionLevelReset (p : BitVec 6) (s : State) : Host.Outcome State Fault Refusal :=
  .next (if s.boot.phase = 7#8 ∧ partExists s (0#1 ++ p) then contain s p else s)

/-! ## Start-up (16 R379 to R382) -/

/-- DRAM after a cold start: what had been written holds free values (08 R161). -/
def coldMem (tick : Nat) (m : List Host.Cell) : List Host.Cell :=
  m.foldl (fun t c => memSet t c.1 (Config.coldByte tick c.1)) []

/-- DRAM as a warm start keeps it: what stood in the L2 only is lost (08 R161, 16 R382). -/
def warmMem (s : State) : List Host.Cell :=
  s.l2.foldl (fun m x => if x.dirty then memPut m (x.num * 128) 128 x.old.toNat else m) s.mem

/-- Every item in its reset state, at phase 0x01, with a given memory, whose uncorrectable words a warm start keeps too. The module keeps its place
in its domain, by which its own DRAM is addressed; a warm start trains no link (DESIGN CHOICE, log 7). -/
def restart (s : State) (mem : List Host.Cell) (warm : Bool) : State :=
  { State.reset with tick := s.tick, agenda := s.agenda, host := s.host, mem := mem, bad := if warm then s.bad else [],
                     module := s.module, modules := s.modules, trained := if warm then s.trained else 0
                     boot := { phase := 1, code := 0, halted := false, warm := warm } }

/-- BOOTCMD is ignored while phases 0x01 to 0x06 run, but for the second cold start in phase 0x05 (16 R383). -/
def starting (s : State) : Bool := 1#8 ≤ s.boot.phase && s.boot.phase ≤ 6#8

/-- BOOTCMD 1: a cold start, or in phase 0x05 the signal that the image is written. -/
def execBootcmdColdStart (s : State) : Host.Outcome State Fault Refusal :=
  .next (if s.boot.phase = 5#8 then { s with boot.phase := 6 }
    else if starting s then s
    else restart s (coldMem s.tick s.mem) false)

/-- BOOTCMD 2: a warm start, which keeps DRAM (16 R382). -/
def execBootcmdWarmStart (s : State) : Host.Outcome State Fault Refusal :=
  .next (if starting s then s else restart s (warmMem s) true)

/-- A phase passes to the next, or halts with a code (16 R379, R381). -/
def phaseEnd (s : State) (phase next : Byte) (code : Byte) (ok : Bool) : State :=
  if s.boot.phase ≠ phase then s else if ok then { s with boot.phase := next } else haltModule s code

def execPowerSequencing (ok : Bool) (s : State) : Host.Outcome State Fault Refusal := .next (phaseEnd s 1 2 0x01 ok)

/-- CLOCK_LOCK: KTIME starts from 0 at the end of phase 0x02; a warm start goes on to the check of its image. -/
def execClockLock (ok : Bool) (s : State) : Host.Outcome State Fault Refusal :=
  .next (if s.boot.phase ≠ 2#8 then s
    else if ok then { s with ktime := 0, epochAt := 2500, boot.phase := if s.boot.warm then 6 else 3 }
    else haltModule s 0x02)

/-- SELF_TEST: the logic test decides before the SRAM test. -/
def execSelfTest (logic : Bool) (sram : Bool) (s : State) : Host.Outcome State Fault Refusal :=
  .next (phaseEnd s 3 4 (if logic then 0x04 else 0x03) (logic && sram))

/-- DRAM_TRAINING; it fails too when no Umavas link trains while the host has asked for a domain (16 R378). -/
def execDramTraining (dram : Bool) (links : BitVec 24) (s : State) : Host.Outcome State Fault Refusal :=
  let t := if s.boot.phase = 4#8 then { s with trained := links } else s
  .next (phaseEnd t 4 5 (if dram then 0x08 else 0x05) (dram && (links != 0#24 || s.modules == 1#7)))

/-- An 8-byte word of the image at local address 0 of die 0. -/
def imageWord (s : State) (off : Nat) : Word := BitVec.ofNat 64 (memNat s.mem (s.module.toNat * 2 ^ 46 + off) 8)

/-- A well-formed header (16 R380). -/
def headerOk (s : State) : Bool :=
  let len := (imageWord s 8).toNat
  let entry := (imageWord s 16).toNat
  imageWord s 0 == 0x000000004F4A574B#64 && len % 4096 = 0 && len ≤ 2 ^ 28 - 4096 && entry % 4 = 0 && 0x440 ≤ entry
    && (List.range 12).all (fun i => imageWord s (32 + 8 * i) == 0#64)
    && (List.range 4).all (fun i => imageWord s (224 + 8 * i) == 0#64)

/-- Bytes of the image. -/
def imageBytes (s : State) (off n : Nat) : List Byte := memBytes s.mem (s.module.toNat * 2 ^ 46 + off) n

/-- The digest covers header bytes 0 to 127 and the body (16 R380). -/
def imageDigest (s : State) : Nat := sha384 (imageBytes s 0 128 ++ imageBytes s 256 (imageWord s 8).toNat)

/-- Does one of the up to four keys of the boot ROM verify r and s, which stand little-endian at +128 and +176 (16 R380; DEDUCED,
log 101)? -/
def imageVerifies (s : State) : Bool :=
  (Config.bootKeys.take 4).any (fun key =>
    ecdsaVerifies key (imageDigest s) (littleNat (imageBytes s 128 48)) (littleNat (imageBytes s 176 48)))

/-- IMAGE_CHECK (16 R380): phase 0x07 when header, digest and signature pass; a failed warm start goes on as a cold start from
phase 0x03. -/
def execImageCheck (s : State) : Host.Outcome State Fault Refusal :=
  .next (if s.boot.phase ≠ 6#8 then s
    else if headerOk s && imageVerifies s then { s with boot.phase := 7 }
    else if s.boot.warm then { s with boot.phase := 3, boot.warm := false }
    else haltModule s (if headerOk s then 0x07 else 0x06))

/-- The monitor's context of a die as phase 0x07 starts it: entry 0 Running at monitor privilege at the entry offset. -/
def monitorCtx (s : State) (die : BitVec 3) : Ctx :=
  let c := Ctx.create (monitorId die)
  let e := { Entry.zero with st := .running }
  { setEntry c 0 e with run := some 0, regs := { c.regs with pc := imageWord s 16 &&& 0x0000FFFFFFFFFFFC, ks := { priv := 2 } } }

/-- A monitor core with set A Active. -/
def monitorCore (die : BitVec 3) : CoreRec :=
  { CoreRec.zero with setA := { st := .active, ctx := some (monitorId die) } }

/-- MONITOR_START (16 R379): core 511 of every die starts; MVEC of every core is at the vector table of the body. -/
def execMonitorStart (s : State) : Host.Outcome State Fault Refusal :=
  if s.boot.phase ≠ 7#8 ∨ (coreRec s (monitorId 0).core).setA.ctx.isSome then .next s
  else
    let dies := (List.range 8).map (BitVec.ofNat 3)
    let s1 := dies.foldl (fun t d => setCore t (monitorId d).core (monitorCore d)) s
    .next { s1 with me := monitorCtx s 0, others := (dies.drop 1).map (monitorCtx s), mvecInit := 0x100, boot.started := true }

/-- MONITOR_REQUESTED_HALT of a running module (16 R381). -/
def execMonitorRequestedHalt (s : State) : Host.Outcome State Fault Refusal :=
  .next (if s.boot.phase = 7#8 then haltModule s 0x0B else s)

end Sys2Proof.Machine
end

