-- ==== Sys2Proof/Machine/Branch.lean ====
section
/-! DEFINITION. Branches, jumps, calls and LOOP (06 R128 to R131). -/

namespace Sys2Proof.Machine

/-- BR: taken when c equals the sense (06 R129). -/
def execBr (c : CReg) (sense : BitVec 1) (i : BitVec 22) (s : State) : Host.Outcome State Fault Refusal :=
  if readC s c = (sense = 1#1) then
    finish s (checkTarget (target s.me.regs.pc i) (.ok (setPc s (target s.me.regs.pc i))))
  else .next (nextPc s)

/-- JMP (06 R129). -/
def execJmp (i : BitVec 26) (s : State) : Host.Outcome State Fault Refusal :=
  finish s (checkTarget (target s.me.regs.pc i) (.ok (setPc s (target s.me.regs.pc i))))

/-- CALL: g1 := PC + 4 (06 R129). -/
def execCall (i : BitVec 26) (s : State) : Host.Outcome State Fault Refusal :=
  finish s (checkTarget (target s.me.regs.pc i)
    (.ok (setPc (writeG s 1 (s.me.regs.pc + 4#64)) (target s.me.regs.pc i))))

/-- JR (06 R130). -/
def execJr (a : Reg) (s : State) : Host.Outcome State Fault Refusal :=
  finish s (checkTarget (readG s a) (.ok (setPc s (readG s a))))

/-- CALLR: the target is read before g1 is written (06 R130). -/
def execCallr (a : Reg) (s : State) : Host.Outcome State Fault Refusal :=
  finish s (checkTarget (readG s a) (.ok (setPc (writeG s 1 (s.me.regs.pc + 4#64)) (readG s a))))

/-- LOOP: the counter falls, and the branch is taken while it is not 0; its target is checked only then (06 R131). -/
def execLoop (a : Reg) (i : BitVec 14) (s : State) : Host.Outcome State Fault Refusal :=
  let n := readG s a - 1#64
  if n = 0#64 then .next (nextPc (writeG s a n))
  else finish s (checkTarget (target s.me.regs.pc i) (.ok (setPc (writeG s a n) (target s.me.regs.pc i))))

end Sys2Proof.Machine
end

