-- ==== Sys2Proof/Machine/Fabric.lean ====
section
/-! DEFINITION. The fabric's shared part: element addresses and sources (04 R86 to R94), queues and back-pressure (11 R247,
R248), the grammar checker (11 R250 to R252), delay lines (11 R256 to R258), where an output goes (04 R90, 11 R264), the
halt of a graph (15 R344, R347) and the frame of one firing. -/

namespace Sys2Proof.Machine

/-! ## Tokens (04 R96) -/

def tokD (v : Word) : Token := { kind := 0, val := v }
def tokG : Token := { kind := 4, val := 0 }
def tokZ : Token := { kind := 15, val := 0 }
def tokX : Token := { kind := 3, val := 0 }
def tokStop (k : Nat) : Token := { kind := BitVec.ofNat 4 (k + 7), val := 0 }
def tokF (coord v : BitVec 32) : Token := { kind := 1, val := v ++ coord }

/-- The null element (11 R251). -/
def tokNull : Token := tokF 0xFFFFFFFF 0xFFFFFFFF

def Token.isStop (t : Token) : Bool := 8#4 ≤ t.kind && t.kind ≤ 14#4
def Token.level (t : Token) : Nat := t.kind.toNat - 7
def Token.coord (t : Token) : BitVec 32 := t.val.extractLsb' 0 32
def Token.value (t : Token) : BitVec 32 := t.val.extractLsb' 32 32
def Token.isData (t : Token) : Bool := t.kind == 0#4 || t.kind == 1#4
def Token.isNull (t : Token) : Bool := t.kind == 1#4 && t.coord == 0xFFFFFFFF#32

/-! ## Elements, inputs and sources -/

/-- The cells, fibre elements and routers of a core. -/
def elemList : List Nat := List.range 0x48 ++ (List.range 64).map (· + 0x80)

def isCell (e : Nat) : Bool := e < 0x40
def isFibre (e : Nat) : Bool := 0x40 ≤ e && e < 0x48
def isRouter (e : Nat) : Bool := 0x80 ≤ e && e < 0xC0

def opOf (c : Ctx) (e : Nat) : Nat := (cfgField c e 0).toNat

/-- The source code of input A, B or C (0, 1, 2). -/
def sourceOf (c : Ctx) (e slot : Nat) : Nat := (cfgField c e (2 + slot)).toNat

/-- The 64-bit constant or parameter of an element, from four fields. -/
def wideField (c : Ctx) (e f : Nat) : Word :=
  cfgField c e (f + 3) ++ cfgField c e (f + 2) ++ cfgField c e (f + 1) ++ cfgField c e f

/-- The inputs that a cell operation needs (12 R272 to R283). -/
def cellNeeds (op : Nat) : List Nat :=
  if [0x13, 0x14, 0x23].contains op then [0, 1, 2]
  else if [0x01, 0x02, 0x17, 0x18, 0x1A, 0x1C, 0x30, 0x38, 0x39, 0x40, 0x49].contains op then [0]
  else if op = 0x00 ∨ op = 0x48 then []
  else [0, 1]

/-- The inputs that a fibre operation needs; A of SCAN and B of FRED may be absent (12 R290, R293). -/
def fibreNeeds (c : Ctx) (e : Nat) : List Nat :=
  let op := opOf c e
  if op = 0 then []
  else if op = 1 then (if sourceOf c e 0 = 0 then [] else [0])
  else if op = 2 ∨ op = 3 ∨ op = 4 then [0, 1]
  else if op = 6 then (if sourceOf c e 1 = 0 then [0] else [0, 1])
  else [0]

/-- The inputs that an element in use reads. -/
def elemNeeds (c : Ctx) (e : Nat) : List Nat :=
  if isCell e then cellNeeds (opOf c e)
  else if isFibre e then fibreNeeds c e
  else if opOf c e = 0 then [] else if opOf c e ≤ 2 then [0] else [0, 1]

/-- The place of a queue: element and slot (0 A, 1 B, 2 C; 3 + i the i-th tap of WTAP; 64 to 66 tokens not yet sent by a
firing; 67 the input buffer of a cell or fibre element at its router; 68 + direction a router buffer that no element reads). -/
def inKey (e slot : Nat) : Nat := e * 128 + slot

def queueOf (c : Ctx) (key : Nat) : List Token := tabGet [] c.fab.queues key
def setQueue (c : Ctx) (key : Nat) (q : List Token) : Ctx := { c with fab.queues := tabPut [] c.fab.queues key q }

/-- Tokens an input holds: its own slots and, for a stream from a router, the two of the router's input buffer (11 R247). -/
def inputRoom (e code : Nat) : Nat :=
  (if isFibre e then 2 else if isRouter e then (if code / 4096 = 1 then 0 else 1) else 1) + (if code / 4096 = 1 then 2 else 0)

/-- Mode of a stream: 0 off, 1 read, 2 write, 3 gather (09 R201). -/
def streamMode (c : Ctx) (e s : Nat) : Nat := (cfgField c (0x0C0 + e) (16 * s)).toNat % 8

def streamField (c : Ctx) (e s f : Nat) : BitVec 16 := cfgField c (0x0C0 + e) (16 * s + f)

/-- The streams of a core as pairs of engine and stream. -/
def streamList : List (Nat × Nat) := (List.range 16).map (fun i => (i / 4, i % 4))

/-- The taps a WTAP cell lists (12 R283). -/
def tapList (k : Word) : List Nat := (List.range (k.toNat % 8 + 1)).map (fun i => k.toNat / 2 ^ (8 + 7 * i) % 128)

/-- Every input that names a source, with the room of its queue. -/
def readers (c : Ctx) (code : Nat) : List (Nat × Nat) :=
  (elemList.map (fun e => ((elemNeeds c e).filter (fun i => sourceOf c e i = code)).map
    (fun i => (inKey e i, inputRoom e code)))).flatten
  ++ (streamList.filter (fun p => 2 ≤ streamMode c p.1 p.2 && (streamField c p.1 p.2 1).toNat = code)).map
    (fun p => (inKey (0x0C0 + p.1) p.2, 8 + (if code / 4096 = 1 then 2 else 0)))

/-- The inputs that read a tap of the window unit of a cell row. -/
def tapReaders (c : Ctx) (row tap : Nat) : List (Nat × Nat) :=
  (((List.range 8).map (· + 8 * row)).map (fun e =>
    if opOf c e = 0x48 then
      ((tapList (wideField c e 6)).zipIdx.filter (fun t => t.1 = tap)).map (fun t => (inKey e (3 + t.2), 1))
    else ((elemNeeds c e).filter (fun i => sourceOf c e i = 0x4000 + tap)).map (fun i => (inKey e i, 1)))).flatten

/-! ## Where an output goes (04 R90, R91) -/

/-- The router beside an element. -/
def routerOf (e : Nat) : Nat := if isCell e then e else if isFibre e then 8 * (e - 0x40) + 7 else e - 0x80

/-- The router next to router r: 0 north, 1 east, 2 south, 3 west. -/
def neighbour (r d : Nat) : Option Nat :=
  if d = 0 then (if 8 ≤ r then some (r - 8) else none)
  else if d = 1 then (if r % 8 < 7 then some (r + 1) else none)
  else if d = 2 then (if r < 56 then some (r + 8) else none)
  else (if 0 < r % 8 then some (r - 1) else none)

/-- The source code of tokens that arrive over a link: at the next router, from the opposite direction (04 R89). -/
def arrivalCode (r' d : Nat) : Nat := 0x1000 + (d + 2) % 4 * 64 + r'

/-- The fan-out field of an output: a fibre element's secondary port has none, a cell has one output. -/
def fanOf (c : Ctx) (e port : Nat) : BitVec 16 :=
  if port = 0 then cfgField c e 5 else if isRouter e then cfgField c e 6 else 0

/-- The queues behind one link of a router: those of its readers, or the buffer itself when nothing reads it. -/
def linkDests (c : Ctx) (r d : Nat) : List (Nat × Nat) :=
  match neighbour r d with
  | none => []
  | some r' =>
    match readers c (arrivalCode r' d) with
    | [] => [(inKey (0x80 + r') (68 + (d + 2) % 4), 2)]
    | rs => rs

/-- The directions in which an output leaves the router. -/
def fanDirs (c : Ctx) (e port : Nat) : List Nat := (List.range 4).filter (fun d => (fanOf c e port).getLsbD d)

/-- The queues behind every link that an output names. -/
def fanLinks (c : Ctx) (e port : Nat) : List (Nat × Nat) := (fanDirs c e port).flatMap (linkDests c (routerOf e))

/-- The one-token input buffer of a cell or fibre element at its router (04 R91, 11 R247). -/
def bufKey (e : Nat) : Nat := inKey e 67

/-- The input of the matrix array from the row broadcast bus (07 R157). -/
def rowBus : Nat := inKey 0x0C8 0

/-- Every queue of the core that an output feeds: a router's links, or the buffer of a cell or fibre element at its router. -/
def outDests (c : Ctx) (e port : Nat) : List (Nat × Nat) :=
  let fan := fanOf c e port
  (if isRouter e then fanLinks c e port else if (fanDirs c e port).isEmpty then [] else [(bufKey e, 1)])
  ++ (if fan.getLsbD 4 then [(rowBus, 1)] else [])
  ++ (if isFibre e then readers c (0x2000 + 8 * port + (e - 0x40)) else [])

/-- Does an output feed the core fabric interface? -/
def outSends (c : Ctx) (e port : Nat) : Bool := (fanOf c e port).getLsbD 5

/-- The outputs of an element: two for STEER, ISECT and UNION. -/
def outPorts (c : Ctx) (e : Nat) : List Nat :=
  if (isRouter e && opOf c e = 2) || (isFibre e && (opOf c e = 2 || opOf c e = 3)) then [0, 1] else [0]

/-- A comparison that emits control tokens instead of data (12 R273). -/
def isControl (c : Ctx) (e : Nat) : Bool :=
  isCell e && (opOf c e = 0x1B || opOf c e = 0x2C) && (wideField c e 6).getLsbD 15

/-- An output without destination and without reader; fan-out bit 6 is a destination (DESIGN CHOICE, log 24). -/
def outOpen (c : Ctx) (e port : Nat) : Bool := (outDests c e port).isEmpty && fanOf c e port == 0#16

/-- A sink (12 R297): FWRITE, and every element whose outputs all lead nowhere. A comparison in control mode feeds others; the outputs of a window
unit are its taps. -/
def isSink (c : Ctx) (e : Nat) : Bool :=
  !isControl c e && (!(isCell e && opOf c e = 0x49) || (List.range 81).all (fun t => (tapReaders c (e / 8) t).isEmpty))
    && ((isFibre e && opOf c e = 7) || (outPorts c e).all (outOpen c e))

/-- An element at whose send port its stream leaves its core. -/
def endsAtPort (c : Ctx) (e : Nat) : Bool := (outPorts c e).any (outSends c e)

/-! ## Control network (11 R261, 12 R288) -/

/-- The elements whose field 13 names the control network at a router: SEL cells, STEER, MERGE and CARRY. -/
def ctlReaders (c : Ctx) (r : Nat) : List Nat :=
  elemList.filter (fun e => ((isCell e && opOf c e = 3) || (isRouter e && 2 ≤ opOf c e))
    && (cfgField c e 13).toNat = 0x8000 + r)

/-- The tokens of a reader that still stand in the source buffer, and those in its own buffer. -/
def ctlSource (e : Nat) : Nat := 2048 + e
def ctlBuffer (e : Nat) : Nat := 1024 + e

def ctlOf (c : Ctx) (key : Nat) : List Bool := tabGet [] c.fab.ctlq key
def setCtl (c : Ctx) (key : Nat) (q : List Bool) : Ctx := { c with fab.ctlq := tabPut [] c.fab.ctlq key q }

/-- A control token placed in the source buffer of a router for each reader; none without a free slot. -/
def placeCtl (c : Ctx) (r : Nat) (b : Bool) : Option Ctx :=
  let rs := ctlReaders c r
  if rs.all (fun e => (ctlOf c (ctlSource e)).length < 2) then
    some (rs.foldl (fun k e => setCtl k (ctlSource e) (ctlOf k (ctlSource e) ++ [b])) c)
  else none

/-- A reader whose free-slot count is above 0 takes its next control token. -/
def takeCtl (c : Ctx) (e : Nat) : Ctx :=
  match ctlOf c (ctlSource e) with
  | [] => c
  | b :: bs =>
    if (ctlOf c (ctlBuffer e)).length < 2 then setCtl (setCtl c (ctlSource e) bs) (ctlBuffer e) (ctlOf c (ctlBuffer e) ++ [b]) else c

/-- CONTROL_TOKEN_FORWARD at router i: each reader takes its next token where it has a free slot. -/
def execControlTokenForward (i : BitVec 6) (s : State) : Host.Outcome State Fault Refusal :=
  .next (if isActive s s.me.id then { s with me := (ctlReaders s.me i.toNat).foldl takeCtl s.me } else s)

/-! ## Grammar checker (11 R250 to R252, 12 R301) -/

def Check.zero : Check :=
  { phase := 0, fixed := false, kindF := false, last := 0, stop := 0, highest := 0, coord := none }

/-- One token: the next checker state, or the check code of a violation. -/
def checkTok (k : Check) (t : Token) : Except (BitVec 4) Check :=
  if t.kind = 2#4 ∨ t.kind = 5#4 ∨ t.kind = 6#4 ∨ t.kind = 7#4 then .error 9
  else if k.phase = 0#2 then (if t.kind = 4#4 then .ok { k with phase := 1, last := 0 } else .error 1)
  else if k.phase = 2#2 then .error 3
  else if t.kind = 4#4 then .error 2
  else if t.kind = 0#4 then
    if k.fixed ∧ k.kindF then .error 4 else .ok { k with fixed := true, kindF := false, last := 1 }
  else if t.kind = 1#4 then
    if k.fixed ∧ ¬ k.kindF then .error 4
    else
      let rises := match k.coord with | none => true | some c => c.ult t.coord
      if !rises || (t.isNull && (t.value ≠ 0xFFFFFFFF#32 || k.coord.isSome)) then .error 5
      else .ok { k with fixed := true, kindF := true, last := 1, coord := some t.coord }
  else if t.kind = 3#4 then
    if (k.fixed ∧ k.kindF) ∨ k.last = 1#2 then .error 6 else .ok { k with fixed := true, kindF := false }
  else if t.kind = 15#4 then
    if k.last = 0#2 ∨ (k.last = 2#2 ∧ k.stop = k.highest) then .ok { k with phase := 2 } else .error 8
  else
    let l : BitVec 3 := BitVec.ofNat 3 t.level
    if k.last = 2#2 ∧ l.toNat ≤ k.stop.toNat then .error 7
    else .ok { k with last := 2, stop := l, highest := if k.highest.toNat < l.toNat then l else k.highest, coord := none }

def checkOf (c : Ctx) (key : Nat) : Check := tabGet Check.zero c.fab.checks key

/-- A token that has passed its checker moves it on. -/
def moveCheck (c : Ctx) (key : Nat) (t : Token) : Ctx :=
  match checkTok (checkOf c key) t with
  | .error _ => c
  | .ok k => { c with fab.checks := tabPut Check.zero c.fab.checks key k }

/-- Stream position: tokens since G, G excluded (05 R103). -/
def posOf (c : Ctx) (key : Nat) : Nat := tabGet 0 c.fab.counts key

def countTok (c : Ctx) (key : Nat) (t : Token) : Ctx :=
  { c with fab.counts := tabPut 0 c.fab.counts key (if t.kind = 4#4 then 0 else posOf c key + 1) }

/-! ## Delay lines (11 R256 to R258) -/

/-- Length of the delay line of a cell's input A or B. -/
def delayLen (c : Ctx) (e slot : Nat) : Nat := if isCell e && slot < 2 then (cfgField c e (11 + slot)).toNat else 0

/-- The line filled with its preloads (11 R257). -/
def preloads (c : Ctx) (e slot : Nat) : List Word :=
  let sel := (cfgField c e 14).toNat
  let pa := sel % 8
  let p := if slot = 0 then pa else sel / 8 % 8
  let first := if slot = 0 then 0 else pa
  (List.range (delayLen c e slot)).map (fun i => if p = 0 then 0 else wideField c e (16 + 4 * (first + i % p)))

def delayKey (e slot : Nat) : Nat := e * 2 + slot
def lineOf (c : Ctx) (e slot : Nat) : List Word := tabGet [] c.fab.delays (delayKey e slot)
def setLine (c : Ctx) (e slot : Nat) (l : List Word) : Ctx := { c with fab.delays := tabPut [] c.fab.delays (delayKey e slot) l }

/-- Both lines of a cell loaded with their preloads. -/
def loadLines (c : Ctx) (e : Nat) : Ctx := setLine (setLine c e 0 (preloads c e 0)) e 1 (preloads c e 1)

/-- What a line does when a token is consumed at its input. -/
def moveLine (c : Ctx) (e slot : Nat) (t : Token) : Ctx :=
  if delayLen c e slot = 0 then c
  else if t.kind = 0#4 then setLine c e slot ((lineOf c e slot).drop 1 ++ [t.val])
  else if t.kind = 15#4 then setLine c e slot []
  else if t.isStop ∧ cfgField c e 10 ≠ 0#16 ∧ (cfgField c e 10).toNat ≤ t.level then setLine c e slot (preloads c e slot)
  else c

/-! ## Inputs -/

/-- What stands at an input: nothing, a token that its check refuses, or the token as the element sees it. -/
inductive Look where
  | empty
  | bad (t : Token) (check : BitVec 4)
  | tok (t : Token)
  deriving DecidableEq, Repr

/-- Tokens from a port have been checked where they left their context (11 R252). -/
def isChecked (code : Nat) : Bool := code / 4096 ≠ 6

/-- A kind that 04 R96 reserves. -/
def reservedKind (t : Token) : Bool := [2#4, 5#4, 6#4, 7#4].contains t.kind

/-- The check of a token at an input: its grammar, or for one from a port only that its kind is none of the reserved ones, which arrive
nowhere without a fault (04 R96). -/
def checkAt (c : Ctx) (code key : Nat) (t : Token) : Except (BitVec 4) Check :=
  if isChecked code then checkTok (checkOf c key) t else if reservedKind t then .error 9 else .ok Check.zero

def look (c : Ctx) (e slot : Nat) : Look :=
  match queueOf c (inKey e slot) with
  | [] => .empty
  | t :: _ =>
    match checkAt c (sourceOf c e slot) (inKey e slot) t with
    | .error k => .bad t k
    | .ok _ =>
      if delayLen c e slot = 0 then .tok t
      else if t.kind = 1#4 then .bad t 10
      else if t.kind = 0#4 then .tok (tokD ((lineOf c e slot).headD t.val))
      else .tok t

/-- The head of an input is consumed: queue, checker, position and delay line. -/
def takeTok (c : Ctx) (e slot : Nat) : Ctx :=
  match queueOf c (inKey e slot) with
  | [] => c
  | t :: ts =>
    let c1 := countTok (moveLine (setQueue c (inKey e slot) ts) e slot t) (inKey e slot) t
    if isChecked (sourceOf c e slot) then moveCheck c1 (inKey e slot) t else c1

/-- The head of a port queue moves to every input that reads the port, once all have room (04 R89, 12 R289). -/
def pullPort (c : Ctx) (n : Nat) : Ctx :=
  match tabGet [] c.fab.portq n with
  | [] => c
  | t :: ts =>
    let rs := readers c (0x6000 + n)
    if rs.all (fun r => (queueOf c r.1).length < r.2) then
      rs.foldl (fun k r => setQueue k r.1 (queueOf k r.1 ++ [t])) { c with fab.portq := tabPut [] c.fab.portq n ts }
    else c

/-- The ports that the inputs of an element read are pulled. -/
def pullPorts (c : Ctx) (codes : List Nat) : Ctx :=
  codes.foldl (fun k code => if code / 4096 = 6 then pullPort k (code % 64) else k) c

/-! ## Graphs: who owns an element, and its halt (15 R344, R347) -/

/-- The context that issued the GO of a graph that an element of the context in focus serves. -/
def ownerOf (s : State) (g : GRef) : CtxId := { core := g.core, part := s.me.id.part, kctx := s.me.id.kctx }

def graphOf (s : State) (g : GRef) : Option Graph := (findCtx s (ownerOf s g)).bind (fun c => tabFind c.fab.graphs g.gid.toNat)

/-- The graph that an element of the context in focus serves. -/
def graphAt (s : State) (e : Nat) : Option (GRef × Graph) :=
  (tabFind s.me.fab.marks e).bind (fun g => (graphOf s g).map (fun r => (g, r)))

/-- A malformed stream at this core halts every element of the context on it, of whatever graph (11 R253, 15 R347). -/
def streamBroken (s : State) : Bool :=
  ((s.me.fab.marks.map (fun m => m.2)).eraseDups).any (fun ref => match graphOf s ref with
    | some g => g.state == 2#2 && g.cause == 0x0B#8 && g.haltCore == coreIndex s s.me
    | none => false)

/-- An element moves while its context is Active and not on its way out, and its graph runs or drains (01 R28). -/
def moves (s : State) (e : Nat) : Bool :=
  isActive s s.me.id && !leaving s s.me.id && (match graphAt s e with
    | some (_, g) => g.state == 1#2 || g.state == 3#2
    | none => false) && !streamBroken s

/-- The privilege at which a graph's accesses are checked (09 R187). -/
def graphPriv (s : State) (e : Nat) : BitVec 2 := ((graphAt s e).map (fun g => g.2.priv)).getD 0

/-- The element's fault mode: 0 trap, 1 sat, 2 quiet (03 R64). -/
def faultMode (c : Ctx) (e : Nat) : BitVec 16 := cfgField c e 15

/-- A fault at an element: its graph halts and the item enters the queue of the context that issued GO (15 R344). KELEM
names element, input (3 none) and position. A graph that stands halted halts once. -/
def haltGraph (s : State) (e input pos : Nat) (cause : BitVec 8) (value : Word) (check kind : BitVec 4) : State :=
  match graphAt s e with
  | none => s
  | some (ref, g) =>
    if g.state = 2#2 then s else
    let elem : Word := BitVec.ofNat 64 (e + input * 2 ^ 10 + pos % 2 ^ 48 * 2 ^ 16)
    let g' := { g with state := 2, cause := cause, elem := elem, value := value, haltCore := coreIndex s s.me,
                       check := check, kind := kind }
    updCtx s (ownerOf s ref) (fun c =>
      queueFault { kcause := 1#1 ++ cause, value := value, elem := elem }
        { c with fab.graphs := tabInsert c.fab.graphs ref.gid.toNat g' })

/-- Element flags ORed into KFPC of the context (03 R64). -/
def elemFlags (s : State) (fl : BitVec 5) : State := { s with me.sys.kfpc := s.me.sys.kfpc ||| (fl.setWidth 64 <<< 8) }

/-! ## The frame of a firing (11 R248) -/

/-- What an element does with the tokens at hand: nothing yet, a fault with nothing consumed (with the access that it comes from, if one), a wait with its effect, or a
firing with its output tokens by port (2 is the control network). -/
inductive Act where
  | wait
  | stop (input pos : Nat) (cause : BitVec 8) (value : Word) (check kind : BitVec 4) (flags : BitVec 5) (access : Option Trap)
  | hold (f : State → State)
  | fire (s : State) (outs : List (Nat × Token))

/-- A malformed-stream fault at an input: KEVAL is the token's payload (11 R252). -/
def malformed (c : Ctx) (e input : Nat) (t : Token) (check : BitVec 4) : Act :=
  .stop input (posOf c (inKey e input)) 0x0B t.val check t.kind 0 none

/-- A fault of the head of an input. -/
def faultAt (c : Ctx) (e input : Nat) (cause : BitVec 8) (value : Word) : Act :=
  .stop input (posOf c (inKey e input)) cause value 0 0 0 none

/-- An engine access that does not complete. -/
def stopAt (c : Ctx) (e input : Nat) : Stop → Act
  | .fault t => .stop input (posOf c (inKey e input)) t.cause t.value 0 0 0 (some t)
  | .hold f => .hold f

/-- How an output token is placed: done, no room yet, or a fault of the element's output. -/
inductive Place where
  | done (s : State)
  | full
  | bad (a : Act)

/-- A field of a port of the core fabric interface (13 R311). -/
def portField (c : Ctx) (n f : Nat) : Nat := (tabGet 0 c.fab.ports (n * 8 + f)).toNat

/-- The valid send port that an element feeds. -/
def sendPort (c : Ctx) (e : Nat) : Option Nat :=
  (List.range 64).find? (fun n => portField c n 3 / 64 % 4 = 3 ∧ portField c n 4 % 1024 = e)

/-- A valid receive port. -/
def receives (c : Ctx) (n : Nat) : Bool := portField c n 3 / 64 % 4 = 2

/-- Tokens that may still leave a metered port in the present period of 64 network cycles (17 R393): the smallest of the
settings that meter it, 0 open. -/
def meterLimit (s : State) (e : Nat) : Nat :=
  let mine : Eph → Bool := fun x =>
    x.state == 1#2 && match tabFind s.me.fab.marks e with
      | none => false
      | some g => !x.work.getLsbD 48 && x.work.extractLsb' 49 4 == g.gid
          && namedCtx s s.me.id.part x.ownerIdx.toNat x.owner == some (ownerOf s g)
  let ls := (s.me.ramp :: tabGet 0 s.gov.shutter (dieOf s.me.id.core).toNat
    :: ((ownerRec s s.me.id.part).eph.filter (fun x => mine x.2)).map (fun x => x.2.limit)).filter (· ≠ 0)
  ls.foldl (fun a b => if a = 0 ∨ b < a then b else a) 0

/-- May an edge port (streams 0 to 15, send ports 16 + n) emit a token now? -/
def meterOpen (s : State) (e port : Nat) : Bool :=
  let l := meterLimit s e
  let m := tabGet (0, 0) s.me.fab.meters port
  l = 0 || m.1 ≠ s.ktime.toNat / 64 || m.2 < l

def meterCount (s : State) (port : Nat) : State :=
  let m := tabGet (0, 0) s.me.fab.meters port
  let p := s.ktime.toNat / 64
  { s with me.fab.meters := tabPut (0, 0) s.me.fab.meters port (p, if m.1 = p then m.2 + 1 else 1) }

/-- The reception log of an inactive context is full, with the tokens on their way to it: it holds 4,096 records (11 R265). -/
def logFull (s : State) (dst : Ctx) : Bool :=
  let coming := s.net.filter (fun k => match k.load with
    | .token _ _ d _ _ => d = dst.id
    | _ => false)
  4096 ≤ logCount s dst + coming.length

/-- The send port holds one token until it has crossed its first link or arrived. -/
def portBusy (s : State) (e : Nat) : Bool :=
  s.net.any (fun k => k.src = s.me.id && k.link.isNone && (match k.load with
    | .token _ el _ _ _ => el.toNat = e
    | _ => false))

/-- A token leaves through the send port of an element (11 R264); at a port to a channel G, X, stops and Z are checked and not sent (13 R311). -/
def sendToken (s : State) (e : Nat) (t : Token) : Place :=
  match sendPort s.me e with
  | none => .full
  | some n =>
    let part := s.me.id.part
    let closed : Place := .bad (.stop 3 (posOf s.me (inKey e 64)) 0x10 (BitVec.ofNat 64 n) 0 0 0 none)
    let channel := decide (portField s.me n 3 / 256 % 2 = 1)
    let remote : BitVec 6 := BitVec.ofNat 6 (portField s.me n 3)
    if channel && !t.isData then .done s
    else if !meterOpen s e (16 + n) then .full
    else match namedCtx s part (portField s.me n 1) (BitVec.ofNat 16 (portField s.me n 2)) with
      | none => closed
      | some id =>
        match findCtx s id with
        | none => closed
        | some dst =>
          if !isPlaced s id && !isActive s id then .full
          else if channel then
            if wordAtSource s s.me.id then .full
            else .done (meterCount (sendPacket s s.me.id part (corePath s.me.id.core id.core) (.word id remote t.val)) (16 + n))
          else if isActive s id && !receives dst remote.toNat then closed
          else if portBusy s e || (!isActive s id && logFull s dst) then .full
          else .done (meterCount (sendPacket s s.me.id part (corePath s.me.id.core id.core)
            (.token s.me.id (BitVec.ofNat 10 e) id remote t)) (16 + n))

/-- The Z of a stream has ended in a sink, or left through a send port (01 R17). -/
def sinkDone (s : State) (key : Nat) : State := { s with me.fab.sinksDone := tabPut false s.me.fab.sinksDone key true }

/-! ## Turns at a router (11 R260) -/

/-- Has every queue of a list a free slot? -/
def haveRoom (c : Ctx) (ds : List (Nat × Nat)) : Bool := ds.all (fun d => (queueOf c d.1).length < d.2)

/-- The state of an element that has done nothing. -/
def ElemSt.zero : ElemSt :=
  { acc := 0, used := false, isOpen := false, afterG := false, ordinal := 0, last := 0, level := 0, started := false, looping := false, elems := 0,
    fibres := 0, phase := 0, index := 0 }

def elemOf (c : Ctx) (e : Nat) : ElemSt := tabGet ElemSt.zero c.fab.elems e
def setElem (s : State) (e : Nat) (x : ElemSt) : State := { s with me.fab.elems := tabPut ElemSt.zero s.me.fab.elems e x }

/-- The token at the head of an input. -/
def headTok (c : Ctx) (e slot : Nat) : Option Token :=
  match look c e slot with
  | .tok t => some t
  | _ => none

/-- The inputs that the next firing of a router passes on, each with the output that takes its head: those of ROUTE, STEER, MERGE and CARRY (12 R284 to
R287). -/
def routerWants (c : Ctx) (e : Nat) : List (Nat × Nat) :=
  let x := elemOf c e
  let head := headTok c e
  let at_ := fun (slot out : Nat) => if (head slot).isSome then [(slot, out)] else []
  let control := (ctlOf c (ctlBuffer e)).head?
  match opOf c e with
  | 1 => at_ 0 0
  | 2 =>
    match head 0, control with
    | none, _ => []
    | some t, b =>
      if t.kind = 4#4 ∨ t.kind = 15#4 then [(0, 0), (0, 1)] else if t.kind = 3#4 then [(0, 1)]
      else match b with
        | none => []
        | some true => [(0, 0)]
        | some false => [(0, 1)]
  | 3 =>
    if x.phase = 0 then (if (head 0).isSome && (head 1).isSome then [(0, 0), (1, 0)] else [])
    else if (head 1).any (fun t => t.kind = 3#4) then [(1, 0)]
    else if (head 1).any (fun t => t.kind = 15#4) then (if x.phase = 2 then at_ 0 0 ++ at_ 1 0 else [])
    else match control with
      | none => []
      | some true => at_ 0 0
      | some false => at_ 1 0
  | 4 => if x.phase = 0 then at_ 0 0 else if x.phase = 1 then (if x.looping then at_ 1 0 else at_ 0 0) else []
  | _ => []

/-- The direction from whose buffer of the router an input reads, if it reads one. -/
def inputDir (c : Ctx) (e slot : Nat) : Option Nat :=
  let code := sourceOf c e slot
  if code / 4096 = 1 ∧ code % 64 + 0x80 = e then some (code / 64 % 4) else none

/-- Does an input of router r have a token that can leave over link d now: 4 its cell, 5 its fibre element, else the buffer of a direction
that its operation reads? -/
def waitsFor (c : Ctx) (r d i : Nat) : Bool :=
  if i < 4 then
    let e := 0x80 + r
    (routerWants c e).any (fun w => inputDir c e w.1 == some i && (fanDirs c e w.2).contains d && haveRoom c (outDests c e w.2))
  else
    let e := if i = 4 then r else 0x40 + r / 8
    (i = 4 || r % 8 = 7) && (fanDirs c e 0).contains d && !(queueOf c (bufKey e)).isEmpty && haveRoom c (fanLinks c e 0)

/-- Is it the turn of input i at link d: no input between the one served last and it waits for the link? One operation passes on the directions of a
router, so that they do not wait for each other. -/
def isTurn (c : Ctx) (r d i : Nat) : Bool :=
  let order := (List.range 6).map (fun k => (tabGet 5 c.fab.turns (4 * r + d) + 1 + k) % 6)
  (order.takeWhile (· ≠ i)).all (fun j => (i < 4 && j < 4) || !waitsFor c r d j)

/-- The links that served input i. -/
def served (c : Ctx) (r i : Nat) (ds : List Nat) : Ctx :=
  { c with fab.turns := ds.foldl (fun t d => tabPut 5 t (4 * r + d) i) c.fab.turns }

/-- The input of its router that an element's output token comes from: the buffer of the cell or fibre element, or the direction of the input that the
router's operation has passed on last. -/
def routerInput (c : Ctx) (e : Nat) : Option Nat :=
  if isCell e then some 4 else if isFibre e then some 5 else inputDir c e (elemOf c e).index

/-- May an output of a router use its links now? -/
def turnHere (c : Ctx) (e port : Nat) : Bool :=
  !isRouter e || (match routerInput c e with
    | some i => (fanDirs c e port).all (fun d => isTurn c (routerOf e) d i)
    | none => true)

/-- An output of a router has used its links. -/
def countTurn (c : Ctx) (e port : Nat) : Ctx :=
  if !isRouter e then c
  else match routerInput c e with
    | some i => served c (routerOf e) i (fanDirs c e port)
    | none => c

/-- The token in the router buffer of a cell or fibre element leaves over every link of its fan-out, once it is its turn and all have room. -/
def forwardBuf (c : Ctx) (e : Nat) : Ctx :=
  match queueOf c (bufKey e), (if isCell e || isFibre e then routerInput c e else none) with
  | t :: ts, some i =>
    let ds := fanLinks c e 0
    if haveRoom c ds && (fanDirs c e 0).all (fun d => isTurn c (routerOf e) d i) then
      served (ds.foldl (fun k d => setQueue k d.1 (queueOf k d.1 ++ [t])) (setQueue c (bufKey e) ts)) (routerOf e) i (fanDirs c e 0)
    else c
  | _, _ => c

/-- An output token placed in every destination of a port, or refused by the first that has no room. -/
def placeTok (s : State) (e : Nat) (o : Nat × Token) : Place :=
  if o.1 = 2 then
    match placeCtl s.me (routerOf e) (o.2.val == 1#64) with
    | some c => .done { s with me := c }
    | none => .full
  else
    let ds := outDests s.me e o.1
    if !haveRoom s.me ds || !turnHere s.me e o.1 then .full
    else
      let sent : Place :=
        if !outSends s.me e o.1 then .done s
        else match checkTok (checkOf s.me (inKey e 64)) o.2 with
          | .error k => .bad (.stop 3 (posOf s.me (inKey e 64)) 0x0B o.2.val k o.2.kind 0 none)
          | .ok _ =>
            match sendToken s e o.2 with
            | .done t => .done { t with me := countTok (moveCheck t.me (inKey e 64) o.2) (inKey e 64) o.2 }
            | p => p
      match sent with
      | .done t =>
        let t1 := { t with me := countTurn (ds.foldl (fun k d => setQueue k d.1 (queueOf k d.1 ++ [o.2])) t.me) e o.1 }
        .done (if o.2.kind = 15#4 ∧ (isSink s.me e ∨ outSends s.me e o.1) then sinkDone t1 (e * 4) else t1)
      | p => p

/-- The tokens of a firing that are still to be sent, by port. -/
def pendKey (e port : Nat) : Nat := inKey e (64 + port)

/-- Output tokens of a firing: the first of each port is placed, the others follow one at a time (12 R270). -/
def placeAll (s : State) (e : Nat) : List Nat → List (Nat × Token) → Place
  | _, [] => .done s
  | seen, o :: os =>
    if seen.contains o.1 then
      placeAll { s with me := setQueue s.me (pendKey e o.1) (queueOf s.me (pendKey e o.1) ++ [o.2]) } e seen os
    else match placeTok s e o with
      | .done t => placeAll t e (o.1 :: seen) os
      | p => p

/-- Tokens of every kind (04 R96) that a sink has accepted between two states of its context: the inputs of a cell, fibre element or router, the taps
of WTAP, or the write streams of an engine (13 R319; each input counts, DEDUCED, log 82). -/
def accepted (c c' : Ctx) (e : Nat) : Nat :=
  let slots := if 0xC0 ≤ e ∧ e < 0xC4 then (List.range 4).filter (fun n => streamMode c (e - 0xC0) n = 2)
               else if e = 0xC8 then [0] else if isSink c e then List.range 11 else []
  (slots.filter (fun i => (queueOf c' (inKey e i)).length < (queueOf c (inKey e i)).length)).length

/-- Progress of the open transits of kind 0 on the graph that an element serves (13 R319, 14 R324). -/
def sinkProgress (s : State) (e n : Nat) : State :=
  match (if n = 0 then none else tabFind s.me.fab.marks e) with
  | none => s
  | some g =>
    let o := ownerOf s g
    let r := ownerRec s s.me.id.part
    let mine := fun (x : Eph) => x.state = 1#2 ∧ x.work.getLsbD 48 = false ∧ x.work.extractLsb' 49 4 = g.gid
      ∧ namedCtx s s.me.id.part x.ownerIdx.toNat x.owner = some o
    setOwner s s.me.id.part
      { r with eph := r.eph.map (fun x => (x.1, if mine x.2 then { x.2 with progress := x.2.progress + BitVec.ofNat 48 n } else x.2)) }

/-- What an element's act makes of the state; a firing without room changes nothing. -/
def settle (s : State) (e : Nat) : Act → State
  | .wait => s
  | .hold f => f s
  | .stop input pos cause value check kind flags access =>
    retiring ((access.map (counted s)).getD s) (access.bind (fun t => t.line)) (fun u => haltGraph (elemFlags u flags) e input pos cause value check kind)
  | .fire t outs =>
    match placeAll t e [] outs with
    | .done u => sinkProgress u e (accepted s.me u.me e)
    | .full => s
    | .bad (.stop input pos cause value check kind _ _) => haltGraph s e input pos cause value check kind
    | .bad _ => s

/-- The next tokens of an earlier firing are sent where there is room. -/
def drainPort (s : State) (e port : Nat) : State :=
  match queueOf s.me (pendKey e port) with
  | [] => s
  | t :: ts =>
    settle s e (.fire { s with me := setQueue s.me (pendKey e port) ts } [(port, t)])

def pending (c : Ctx) (e : Nat) : Bool := [0, 1, 2].any (fun p => !(queueOf c (pendKey e p)).isEmpty)

/-- A firing of a cell or fibre element counts, with the cycles it had lost to back-pressure (14 R336, DESIGN CHOICE, log 8), and a cell has fired in
the epoch (17 R393). -/
def countFiring (s : State) (e : Nat) : State :=
  if isRouter e then s
  else
    let t := countEvent (countEvent (countWork s) 0x07 1) 0x08 (Config.stallCycles 0x08 s.tick)
    if isCell e then { t with me.fab.fired := tabPut false t.me.fab.fired e true } else t

/-- The further tokens of an earlier firing, which an element sends up to its token boundary though its context is on its way out or its graph
halts (15 R347, R352). -/
def flushElem (s : State) (e : Nat) : State := drainPort (drainPort (drainPort s e 0) e 1) e 2

/-- The token in an element's router buffer goes on while its graph moves; on a halted graph it stays (11 R266, 15 R352). -/
def forwardElem (s : State) (e : Nat) : State := if moves s e then { s with me := forwardBuf s.me e } else s

/-- ONE MOVE OF AN ELEMENT: what an earlier firing still has to send goes first; otherwise the element acts on its heads. -/
def moveElem (s : State) (e : Nat) (codes : List Nat) (act : State → Act) : State :=
  if !isActive s s.me.id || (tabFind s.me.fab.marks e).isNone then s
  else if pending s.me e || !moves s e then flushElem (forwardElem s e) e
  else
    let s1 := { s with me := pullPorts (forwardBuf s.me e) codes }
    forwardElem (match act s1 with
      | .fire t outs => settle s1 e (.fire (countFiring t e) outs)
      | a => settle s1 e a) e

/-- A move of a cell, fibre element or router that is configured with an operation. -/
def moveOp (s : State) (e op : Nat) (act : State → Act) : Host.Outcome State Fault Refusal :=
  .next (if opOf s.me e = op then moveElem s e ((elemNeeds s.me e).map (sourceOf s.me e)) act else s)

/-! ## Heads (11 R249) -/

/-- The heads of the needed inputs in order: a token, or none for the element's constant; a refused head is a fault, an
empty input a wait. -/
def headsOf (c : Ctx) (e : Nat) : List Nat → Except Act (List (Nat × Option Token))
  | [] => .ok []
  | i :: is =>
    if sourceOf c e i / 4096 = 7 then (headsOf c e is).map (fun hs => (i, none) :: hs)
    else match look c e i with
      | .bad t k => .error (malformed c e i t k)
      | .empty =>
        match headsOf c e is with
        | .error (.stop a b cause v k d fl l) => .error (.stop a b cause v k d fl l)
        | _ => .error .wait
      | .tok t => (headsOf c e is).map (fun hs => (i, some t) :: hs)

/-- Every listed input consumed. -/
def takeAll (c : Ctx) (e : Nat) : List Nat → Ctx
  | [] => c
  | i :: is => takeAll (if sourceOf c e i / 4096 = 7 then c else takeTok c e i) e is

/-- The state with the needed inputs of an element consumed. -/
def consume (s : State) (e : Nat) (slots : List Nat) : State := { s with me := takeAll s.me e slots }

/-- The first head whose kind differs from that of the first token. -/
def mismatch (hs : List (Nat × Option Token)) (k : BitVec 4) : Option (Nat × Token) :=
  hs.findSome? (fun h => h.2.bind (fun t => if t.kind = k then none else some (h.1, t)))

/-- Heads paired by 11 R249: all constants wait; kinds that differ, or coordinates of F tokens that differ, are malformed;
otherwise the common head is handed on. -/
def paired (s : State) (e : Nat) (slots : List Nat) (k : List (Nat × Option Token) → Token → Act) : Act :=
  match headsOf s.me e slots with
  | .error a => a
  | .ok hs =>
    match hs.findSome? (fun h => h.2) with
    | none => .wait
    | some t =>
      match mismatch hs t.kind with
      | some (i, u) => malformed s.me e i u 10
      | none =>
        match (if t.kind = 1#4 then hs.findSome? (fun h => h.2.bind (fun u => if u.coord = t.coord then none else some (h.1, u))) else none) with
        | some (i, u) => malformed s.me e i u 10
        | none => k hs t

/-! ## Closing fibres (11 R251) and groups (11 R254) -/

/-- A stop at an output: bare where rule 4 of R250 admits it, else behind the null element. -/
def closeFibre (x : ElemSt) (k : Nat) : List Token :=
  if x.last = 2#2 ∧ k ≤ x.level.toNat then [tokNull, tokStop k] else [tokStop k]

/-- The last class emitted at an output. -/
def ElemSt.emitted (x : ElemSt) (t : Token) : ElemSt :=
  if t.isStop then { x with last := 2, level := BitVec.ofNat 3 t.level } else if t.isData then { x with last := 1 } else { x with last := 0 }

/-- A stop at an element that groups at level l: does it complete a group (the first stop of level l or higher of its run, or
of a run directly after G), and which stop does it emit? -/
def groupStop (x : ElemSt) (l k : Nat) : Bool × List Token :=
  (decide (l ≤ k) && (x.isOpen || x.afterG), if l ≤ k ∧ 1 ≤ k - l then [tokStop (k - l)] else [])

end Sys2Proof.Machine
end

