-- ==== Sys2Proof/Machine/Cells.lean ====
section
/-! DEFINITION. The cells (12 R269 to R279, R283): arithmetic lane by lane, comparisons, conversions, trits, groups and
memory nodes. -/

namespace Sys2Proof.Machine

/-! ## Formats of a cell (04 R88) -/

def fmtField (c : Ctx) (e : Nat) : BitVec 16 := cfgField c e 1
def isInt (c : Ctx) (e : Nat) : Bool := (fmtField c e).getLsbD 8
def fmtCode (c : Ctx) (e : Nat) : BitVec 3 := (fmtField c e).extractLsb' 0 3
def roundMode (c : Ctx) (e : Nat) : BitVec 2 := (fmtField c e).extractLsb' 3 2
def laneNum (c : Ctx) (e : Nat) : Nat := 2 ^ ((fmtField c e).extractLsb' 5 3).toNat
def isSat (c : Ctx) (e : Nat) : Bool := faultMode c e == 1#16

/-- Width of a format by class and code. -/
def codeWidth (int : Bool) (f : BitVec 3) : Nat := if int then intWidth f else (fmtOf f).width

def cellWidth (c : Ctx) (e : Nat) : Nat := codeWidth (isInt c e) (fmtCode c e)

/-- Width of the results: that of fmt2 for FCVT. -/
def outWidth (c : Ctx) (e : Nat) : Nat :=
  if opOf c e = 0x1C then codeWidth ((fmtField c e).getLsbD 12) ((fmtField c e).extractLsb' 9 3) else cellWidth c e

/-- The constant of a cell, fields 6 to 9. -/
def cellConst (c : Ctx) (e : Nat) : Word := wideField c e 6

/-- Lane i of a head: of a D token or the constant, or the value half of an F token (12 R269). -/
def headLane (c : Ctx) (e : Nat) (isF : Bool) (h : Option Token) (i : Nat) : Nat :=
  let w := cellWidth c e
  match h with
  | none => lane (cellConst c e) w i
  | some t => if isF then t.value.toNat % 2 ^ w else lane t.val w i

/-- The arguments of each lane, in input order. -/
def laneArgs (c : Ctx) (e : Nat) (hs : List (Nat × Option Token)) (t : Token) : List (List Nat) :=
  let isF := t.kind == 1#4
  (List.range (if isF then 1 else laneNum c e)).map (fun i => hs.map (fun h => headLane c e isF h.2 i))

def arg (xs : List Nat) (i : Nat) : Nat := xs.getD i 0

/-- A token of results: D lanes, or an F token with the coordinate of the head. -/
def resultTok (w : Nat) (t : Token) (vs : List Nat) : Token :=
  if t.kind = 1#4 then tokF t.coord (BitVec.ofNat 32 (vs.headD 0 % 2 ^ w)) else tokD (BitVec.ofNat 64 (joinLanes w vs))

/-- The first input that holds a token: the input that a floating-point trap names, and a token of a kind the cell does not take
(DESIGN CHOICE, log 92). -/
def firstSlot (hs : List (Nat × Option Token)) : Nat := (hs.findSome? (fun h => h.2.map (fun _ => h.1))).getD 0

/-- Does a raised exception trap under the fault mode (03 R64)? -/
def elemTraps (c : Ctx) (e : Nat) (fl : BitVec 5) : Bool := faultMode c e == 0#16 && fl &&& 7#5 != 0#5

/-- A floating-point trap at an element: KEVAL[4:0] the exceptions. -/
def fpStop (c : Ctx) (e input : Nat) (fl : BitVec 5) : Act :=
  .stop input (posOf c (inKey e input)) 0x0D (fl.setWidth 64) 0 0 fl none

/-- The needed inputs of a cell consumed. -/
def takeCell (s : State) (e : Nat) : State := consume s e (cellNeeds (opOf s.me e))

/-- The frame of a cell without groups: G, X, stops and Z pass; a null element passes; F tokens are refused where the cell
does not take them (12 R269). -/
def cellFrame (s : State) (e : Nat) (takesF : Bool) (data : List (Nat × Option Token) → Token → Act) : Act :=
  paired s e (cellNeeds (opOf s.me e)) (fun hs t =>
    if !t.isData then .fire (takeCell s e) [(0, t)]
    else if t.kind = 1#4 ∧ (¬ takesF ∨ 32 < cellWidth s.me e ∨ 32 < outWidth s.me e) then malformed s.me e (firstSlot hs) t 10
    else if t.isNull then .fire (takeCell s e) [(0, tokNull)]
    else data hs t)

/-- One operation per lane with its exceptions. -/
def arith (e : Nat) (f : Ctx → Nat → List Nat → FRes) (s : State) : Act :=
  cellFrame s e true (fun hs t =>
    let rs := (laneArgs s.me e hs t).map (f s.me e)
    let fl := rs.foldl (fun a r => a ||| r.flags) 0
    if elemTraps s.me e fl then fpStop s.me e (firstSlot hs) fl
    else .fire (elemFlags (takeCell s e) fl) [(0, resultTok (outWidth s.me e) t (rs.map (fun r => r.bits)))])

/-- A float operation of two or three lanes. -/
def floatOp (f : Fmt → BitVec 2 → Bool → Fl → Fl → Fl → FRes) (c : Ctx) (e : Nat) (xs : List Nat) : FRes :=
  let m := fmtOf (fmtCode c e)
  f m (roundMode c e) (isSat c e) (flOf m (arg xs 0)) (flOf m (arg xs 1)) (flOf m (arg xs 2))

/-- An integer operation formed exactly and brought to the type: low bits, or clamped in sat mode (12 R272). -/
def intOp (f : Int → Int → Int → Int) (c : Ctx) (e : Nat) (xs : List Nat) : FRes :=
  let t := fmtCode c e
  ⟨intNarrow t (isSat c e) (f (intOf t (arg xs 0)) (intOf t (arg xs 1)) (intOf t (arg xs 2))), 0⟩

/-- An operation on patterns of the cell's width. -/
def bitOp (f : Nat → Nat → Nat → Nat) (c : Ctx) (e : Nat) (xs : List Nat) : FRes :=
  ⟨f (cellWidth c e) (arg xs 0) (arg xs 1) % 2 ^ cellWidth c e, 0⟩

/-- A move of a cell with an operation. -/
def cellMove (i : BitVec 6) (op : Nat) (act : Nat → State → Act) (s : State) : Host.Outcome State Fault Refusal :=
  moveOp s i.toNat op (act i.toNat)

/-! ## Data operations (12 R272) -/

/-- PASS: the head token of any kind, bit for bit. -/
def actPass (e : Nat) (s : State) : Act :=
  match headsOf s.me e [0] with
  | .error a => a
  | .ok ((_, some t) :: _) => .fire (takeCell s e) [(0, t)]
  | .ok _ => .wait

/-- CONST: the constant for each data token. -/
def actConst (e : Nat) (s : State) : Act :=
  cellFrame s e true (fun _ t =>
    .fire (takeCell s e) [(0, if t.kind = 1#4 then tokF t.coord (BitVec.ofNat 32 ((cellConst s.me e).toNat % 2 ^ cellWidth s.me e))
                              else tokD (cellConst s.me e))])

/-- SEL: A or B by one control token for each data pair, in the lanes of the cell's format (04 R88). -/
def actSel (e : Nat) (s : State) : Act :=
  paired s e [0, 1] (fun hs t =>
    if !t.isData then .fire (takeCell s e) [(0, t)]
    else if t.kind = 1#4 ∧ 32 < cellWidth s.me e then malformed s.me e (firstSlot hs) t 10
    else match ctlOf s.me (ctlBuffer e) with
      | [] => .wait
      | b :: bs =>
        let s1 := takeCell s e
        let s2 := { s1 with me := setCtl s1.me (ctlBuffer e) bs }
        let pick := (hs.find? (fun h => h.1 = (if b then 0 else 1))).bind (fun h => h.2)
        let vals := (laneArgs s.me e [((if b then 0 else 1), pick)] t).map (fun xs => arg xs 0)
        .fire s2 [(0, if t.isNull then tokNull else resultTok (cellWidth s.me e) t vals)])

/-- The order of MXSORT on keys: integers by type; floats with −0 below +0 and every NaN above +∞ (07 R154). -/
def keyBelow (int : Bool) (f : BitVec 3) (a b : Nat) : Bool :=
  if int then decide (intOf f a < intOf f b)
  else
    let x := flOf (fmtOf f) a
    let y := flOf (fmtOf f) b
    if isNan x then false else if isNan y then true else flBelow x y

/-- CMPX: the lane-wise larger, then the lane-wise smaller. -/
def actCmpx (e : Nat) (s : State) : Act :=
  cellFrame s e false (fun hs t =>
    let w := cellWidth s.me e
    let ps := (laneArgs s.me e hs t).map (fun xs =>
      if keyBelow (isInt s.me e) (fmtCode s.me e) (arg xs 0) (arg xs 1) then (arg xs 1, arg xs 0) else (arg xs 0, arg xs 1))
    .fire (takeCell s e) [(0, resultTok w t (ps.map (fun p => p.1))), (0, resultTok w t (ps.map (fun p => p.2)))])

/-- A comparison (12 R273): lanes of ones and zeros, or one control token with lane 0's result; in control mode a stop and a
null element give control 0 (DESIGN CHOICE, log 26), and G, X and Z nothing. -/
def compare (e : Nat) (rel : Ctx → Nat → List Nat → Bool × BitVec 5) (s : State) : Act :=
  if isControl s.me e then
    paired s e [0, 1] (fun hs t =>
      let ctl := fun (b : Bool) => [(2, tokD (if b then 1 else 0))]
      if t.kind = 1#4 ∧ 32 < cellWidth s.me e then malformed s.me e (firstSlot hs) t 10
      else if t.isStop || t.isNull then .fire (takeCell s e) (ctl false)
      else if !t.isData then .fire (takeCell s e) []
      else
        let rs := (laneArgs s.me e hs t).map (rel s.me e)
        let fl := rs.foldl (fun a r => a ||| r.2) 0
        if elemTraps s.me e fl then fpStop s.me e (firstSlot hs) fl
        else .fire (elemFlags (takeCell s e) fl) (ctl ((rs.map (fun r => r.1)).headD false)))
  else arith e (fun c e xs => let r := rel c e xs; ⟨if r.1 then 2 ^ cellWidth c e - 1 else 0, r.2⟩) s

/-- A relation of FCMP, constant [2:0]: 0 EQ, 1 LT, 2 LE, 3 UN. -/
def relF (c : Ctx) (e : Nat) (xs : List Nat) : Bool × BitVec 5 :=
  let m := fmtOf (fmtCode c e)
  fRel ((cellConst c e).extractLsb' 0 2) (flOf m (arg xs 0)) (flOf m (arg xs 1))

/-- A condition of ICMP on w-bit lanes, whatever the type. -/
def relI (c : Ctx) (e : Nat) (xs : List Nat) : Bool × BitVec 5 :=
  (condHolds ((cellConst c e).extractLsb' 0 3) (BitVec.ofNat (cellWidth c e) (arg xs 0)) (BitVec.ofNat (cellWidth c e) (arg xs 1)), 0)

/-- FCVT of one lane from fmt to fmt2 (12 R274). -/
def convertLane (c : Ctx) (e : Nat) (xs : List Nat) : FRes :=
  let src := fmtOf (fmtCode c e)
  let dst := (fmtField c e).extractLsb' 9 3
  if (fmtField c e).getLsbD 12 then fToInt src dst (roundMode c e) (arg xs 0)
  else fConvert src (fmtOf dst) (roundMode c e) (isSat c e) (arg xs 0)

def execCellPass (i : BitVec 6) (s : State) : Host.Outcome State Fault Refusal := cellMove i 0x01 actPass s
def execCellConst (i : BitVec 6) (s : State) : Host.Outcome State Fault Refusal := cellMove i 0x02 actConst s
def execCellSel (i : BitVec 6) (s : State) : Host.Outcome State Fault Refusal := cellMove i 0x03 actSel s
def execCellCmpx (i : BitVec 6) (s : State) : Host.Outcome State Fault Refusal := cellMove i 0x04 actCmpx s

def execCellFadd (i : BitVec 6) (s : State) : Host.Outcome State Fault Refusal :=
  cellMove i 0x10 (fun e => arith e (floatOp (fun m r sat x y _ => fAdd m r sat x y))) s
def execCellFsub (i : BitVec 6) (s : State) : Host.Outcome State Fault Refusal :=
  cellMove i 0x11 (fun e => arith e (floatOp (fun m r sat x y _ => fSub m r sat x y))) s
def execCellFmul (i : BitVec 6) (s : State) : Host.Outcome State Fault Refusal :=
  cellMove i 0x12 (fun e => arith e (floatOp (fun m r sat x y _ => fMul m r sat x y))) s
def execCellFma (i : BitVec 6) (s : State) : Host.Outcome State Fault Refusal :=
  cellMove i 0x13 (fun e => arith e (floatOp (fun m r sat x y z => fFma m r sat x y z))) s
def execCellFms (i : BitVec 6) (s : State) : Host.Outcome State Fault Refusal :=
  cellMove i 0x14 (fun e => arith e (floatOp (fun m r sat x y z => fFma m r sat x y (flNeg z)))) s
def execCellFmin (i : BitVec 6) (s : State) : Host.Outcome State Fault Refusal :=
  cellMove i 0x15 (fun e => arith e (fun c e xs => fMinMax (fmtOf (fmtCode c e)) false (arg xs 0) (arg xs 1))) s
def execCellFmax (i : BitVec 6) (s : State) : Host.Outcome State Fault Refusal :=
  cellMove i 0x16 (fun e => arith e (fun c e xs => fMinMax (fmtOf (fmtCode c e)) true (arg xs 0) (arg xs 1))) s
def execCellFabs (i : BitVec 6) (s : State) : Host.Outcome State Fault Refusal :=
  cellMove i 0x17 (fun e => arith e (fun c e xs => fSignOp (fmtOf (fmtCode c e)) true (arg xs 0))) s
def execCellFneg (i : BitVec 6) (s : State) : Host.Outcome State Fault Refusal :=
  cellMove i 0x18 (fun e => arith e (fun c e xs => fSignOp (fmtOf (fmtCode c e)) false (arg xs 0))) s
def execCellFdiv (i : BitVec 6) (s : State) : Host.Outcome State Fault Refusal :=
  cellMove i 0x19 (fun e => arith e (floatOp (fun m r sat x y _ => fDiv m r sat x y))) s
def execCellFsqrt (i : BitVec 6) (s : State) : Host.Outcome State Fault Refusal :=
  cellMove i 0x1A (fun e => arith e (floatOp (fun m r sat x _ _ => fSqrt m r sat x))) s
def execCellFcmp (i : BitVec 6) (s : State) : Host.Outcome State Fault Refusal := cellMove i 0x1B (fun e => compare e relF) s
def execCellFcvt (i : BitVec 6) (s : State) : Host.Outcome State Fault Refusal := cellMove i 0x1C (fun e => arith e convertLane) s

def execCellIadd (i : BitVec 6) (s : State) : Host.Outcome State Fault Refusal :=
  cellMove i 0x20 (fun e => arith e (intOp (fun x y _ => x + y))) s
def execCellIsub (i : BitVec 6) (s : State) : Host.Outcome State Fault Refusal :=
  cellMove i 0x21 (fun e => arith e (intOp (fun x y _ => x - y))) s
def execCellImul (i : BitVec 6) (s : State) : Host.Outcome State Fault Refusal :=
  cellMove i 0x22 (fun e => arith e (intOp (fun x y _ => x * y))) s
def execCellImac (i : BitVec 6) (s : State) : Host.Outcome State Fault Refusal :=
  cellMove i 0x23 (fun e => arith e (intOp (fun x y z => x * y + z))) s
def execCellIand (i : BitVec 6) (s : State) : Host.Outcome State Fault Refusal :=
  cellMove i 0x24 (fun e => arith e (bitOp (fun _ a b => a &&& b))) s
def execCellIor (i : BitVec 6) (s : State) : Host.Outcome State Fault Refusal :=
  cellMove i 0x25 (fun e => arith e (bitOp (fun _ a b => a ||| b))) s
def execCellIxor (i : BitVec 6) (s : State) : Host.Outcome State Fault Refusal :=
  cellMove i 0x26 (fun e => arith e (bitOp (fun _ a b => a ^^^ b))) s
def execCellIshl (i : BitVec 6) (s : State) : Host.Outcome State Fault Refusal :=
  cellMove i 0x27 (fun e => arith e (bitOp (fun w a b => a * 2 ^ (b % w)))) s
def execCellIshr (i : BitVec 6) (s : State) : Host.Outcome State Fault Refusal :=
  cellMove i 0x28 (fun e => arith e (bitOp (fun w a b => a / 2 ^ (b % w)))) s
def execCellIsha (i : BitVec 6) (s : State) : Host.Outcome State Fault Refusal :=
  cellMove i 0x29 (fun e => arith e (bitOp (fun w a b => ((BitVec.ofNat w a).sshiftRight (b % w)).toNat))) s
def execCellImin (i : BitVec 6) (s : State) : Host.Outcome State Fault Refusal :=
  cellMove i 0x2A (fun e => arith e (intOp (fun x y _ => if y < x then y else x))) s
def execCellImax (i : BitVec 6) (s : State) : Host.Outcome State Fault Refusal :=
  cellMove i 0x2B (fun e => arith e (intOp (fun x y _ => if x < y then y else x))) s
def execCellIcmp (i : BitVec 6) (s : State) : Host.Outcome State Fault Refusal := cellMove i 0x2C (fun e => compare e relI) s

/-! ## Trits (12 R275, 03 R57, R58, 20 R400) -/

/-- The bad-packing count of an element raised by n (14 R339, 20 R400). -/
def countBad (s : State) (e n : Nat) : State :=
  if n = 0 then s else
  { s with me.fab.badpack := tabPut 0 s.me.fab.badpack e (tabGet 0#32 s.me.fab.badpack e + BitVec.ofNat 32 n) }

/-- The trits of a T5 byte as S8 bytes, an illegal code as zeros (03 R58). -/
def byteTrits (b : Byte) : List Byte := if t5Legal b then tritBytes (t5Digits b) else List.replicate 5 0

/-- S8 bytes in tokens of eight lanes. -/
def laneTokens : Nat → List Byte → List Token
  | 0, _ => []
  | n + 1, bs =>
    if bs.isEmpty then [] else tokD (BitVec.ofNat 64 (joinLanes 8 ((bs.take 8).map (fun b => b.toNat)))) :: laneTokens n (bs.drop 8)

/-- UNP3: every byte of the token decoded before the first output. Where several bytes are illegal the fault records that of the lowest
lane (DESIGN CHOICE, log 77). -/
def actUnp3 (e : Nat) (s : State) : Act :=
  cellFrame s e false (fun hs t =>
    let bs : List Byte := (laneArgs s.me e hs t).map (fun xs => BitVec.ofNat 8 (arg xs 0))
    match bs.find? (fun b => !t5Legal b) with
    | some b =>
      if faultMode s.me e = 0#16 then faultAt s.me e 0 0x0C (b.setWidth 64)
      else .fire (countBad (takeCell s e) e ((bs.filter (fun b => !t5Legal b)).length))
        ((laneTokens 5 ((bs.map byteTrits).flatten)).map (fun t => (0, t)))
    | none => .fire (takeCell s e) ((laneTokens 5 ((bs.map byteTrits).flatten)).map (fun t => (0, t))))

def execCellUnp3 (i : BitVec 6) (s : State) : Host.Outcome State Fault Refusal := cellMove i 0x30 actUnp3 s

/-! ## Groups (11 R254, 12 R276, R277) -/

/-- Does GO see that an input carries F tokens (12 R269)? A fibre element, or a read stream of packing 3. -/
def seesF (c : Ctx) (code : Nat) : Bool :=
  code / 4096 = 2 || (code / 4096 = 3 && streamMode c (code % 4) (code / 4 % 4) = 1
    && (streamField c (code % 4) (code / 4 % 4) 0).extractLsb' 7 3 == 3#3)

/-- Is input A a stream of F tokens: by its first data token, or by its source? -/
def groupF (c : Ctx) (e : Nat) : Bool :=
  let k := checkOf c (inKey e 0)
  if k.fixed then k.kindF else seesF c (sourceOf c e 0) || (elemOf c e).phase = 2

/-- THE FRAME OF A GROUPING CELL: data enters the open group; the first stop of level L or higher of a run completes it. -/
def groupFrame (s : State) (e : Nat) (takesF : Bool) (result : ElemSt → Token)
    (data : List (Nat × Option Token) → Token → ElemSt → Except Act (State × ElemSt)) : Act :=
  let needs := cellNeeds (opOf s.me e)
  paired s e needs (fun hs t =>
    let x := elemOf s.me e
    let fire := fun (s1 : State) (y : ElemSt) (ts : List Token) => Act.fire (setElem (consume s1 e needs) e y) (ts.map (fun t => (0, t)))
    if t.kind = 4#4 then fire s { ElemSt.zero with afterG := true } [t]
    else if t.kind = 15#4 then fire s ElemSt.zero ((if x.isOpen then [result x] else []) ++ [t])
    else if t.isStop then
      let (close, stops) := groupStop x (cfgField s.me e 10).toNat t.level
      let y := if close then { x with acc := 0, used := false, isOpen := false, afterG := false, ordinal := x.ordinal + 1 } else x
      fire s (if stops.isEmpty then y else { y with ordinal := 0 }) ((if close then [result x] else []) ++ stops)
    else if !t.isData then fire s x [t]
    else if t.kind = 1#4 ∧ (¬ takesF ∨ 32 < cellWidth s.me e) then malformed s.me e (firstSlot hs) t 10
    else
      let x1 := { x with isOpen := true, afterG := false, phase := if t.kind = 1#4 then 2 else 1 }
      if t.isNull then fire s x1 []
      else match data hs t x1 with
        | .error a => a
        | .ok (s1, y) => fire s1 y [])

/-- TACC: trits of A times activations of B into an S32 accumulator. -/
def actTacc (e : Nat) (s : State) : Act :=
  groupFrame s e false (fun x => tokD ((x.acc.extractLsb' 0 32).setWidth 64)) (fun hs t x =>
    let a := (hs.find? (fun h => h.1 = 0)).bind (fun h => h.2)
    let pairs := (List.range (laneNum s.me e)).map (fun i =>
      (intOf 0 (lane ((a.map (fun u => u.val)).getD (cellConst s.me e)) 8 i),
       intOf (fmtCode s.me e) (arg ((laneArgs s.me e hs t).getD i []) 1)))
    let illegal := fun (p : Int × Int) => decide (p.1 < -1 ∨ 1 < p.1)
    match (if faultMode s.me e = 0#16 then pairs.find? illegal else none) with
    | some p => .error (faultAt s.me e 0 0x0C (BitVec.ofInt 64 p.1))
    | none =>
      let sum := (x.acc.extractLsb' 0 32).toInt + (pairs.map (fun p => if illegal p then 0 else p.1 * p.2)).sum
      .ok (countBad s e (pairs.filter illegal).length,
           { x with acc := BitVec.ofNat 64 (intNarrow 4 (isSat s.me e) sum), used := true }))

/-- One value taken into a lane of RED and FRED: add in stream order with one rounding, min or max (03 R68, R61). -/
def reduce (int : Bool) (f : BitVec 3) (mode : BitVec 2) (sat : Bool) (what : Nat) (acc x : Nat) : FRes :=
  if int then
    let a := intOf f acc
    let b := intOf f x
    if what = 0 then ⟨intNarrow f sat (a + b), 0⟩
    else if what = 1 then ⟨if b < a then x else acc, 0⟩ else ⟨if a < b then x else acc, 0⟩
  else if what = 0 then fAdd (fmtOf f) mode sat (flOf (fmtOf f) acc) (flOf (fmtOf f) x)
  else fMinMax (fmtOf f) (what = 2) acc x

/-- RED: per lane, the first value and then one rounding per value. -/
def actRed (e : Nat) (s : State) : Act :=
  let w := cellWidth s.me e
  let what := (cellConst s.me e).toNat % 4
  let result := fun (x : ElemSt) =>
    if groupF s.me e then tokF x.ordinal (BitVec.ofNat 32 (x.acc.toNat % 2 ^ w)) else tokD x.acc
  groupFrame s e true result (fun hs t x =>
    let vals := (laneArgs s.me e hs t).map (fun xs => arg xs 0)
    let rs : List FRes := if x.used then vals.zipIdx.map (fun v =>
        reduce (isInt s.me e) (fmtCode s.me e) (roundMode s.me e) (isSat s.me e) what (lane x.acc w v.2) v.1)
      else vals.map (fun v => ⟨v, 0⟩)
    let fl := rs.foldl (fun a r => a ||| r.flags) 0
    if elemTraps s.me e fl then .error (fpStop s.me e 0 fl)
    else .ok (elemFlags s fl, { x with acc := BitVec.ofNat 64 (joinLanes w (rs.map (fun r => r.bits))), used := true }))

/-- CSUM: lane 0 and then lane 1 folded into the sum, which starts at the seed. -/
def actCsum (e : Nat) (s : State) : Act :=
  let seed := (cellConst s.me e).extractLsb' 0 32
  let sumOf := fun (x : ElemSt) => if x.used then x.acc.extractLsb' 0 32 else seed
  groupFrame s e false (fun x => tokD ((sumOf x).setWidth 64)) (fun hs t x =>
    let v := fun i => BitVec.ofNat 32 (arg ((laneArgs s.me e hs t).getD i []) 0)
    .ok (s, { x with acc := (csumStep (csumStep (sumOf x) (v 0)) (v 1)).setWidth 64, used := true }))

def execCellTacc (i : BitVec 6) (s : State) : Host.Outcome State Fault Refusal := cellMove i 0x31 actTacc s
def execCellRed (i : BitVec 6) (s : State) : Host.Outcome State Fault Refusal := cellMove i 0x38 actRed s
def execCellCsum (i : BitVec 6) (s : State) : Host.Outcome State Fault Refusal := cellMove i 0x39 actCsum s

/-! ## Memory nodes (12 R278, R279) -/

/-- Window regions that a memory node may access (DEDUCED, log 27). -/
def nodeTags : List (BitVec 3) := [0]

def nodeOps (c : Ctx) (e : Nat) : List NodeOp := tabGet [] c.fab.nodes e
def setNodes (c : Ctx) (e : Nat) (l : List NodeOp) : Ctx := { c with fab.nodes := tabPut [] c.fab.nodes e l }

/-- Store-acknowledge counts by element × 4 + stream (01 R17, 12 R271). -/
def unackOf (c : Ctx) (key : Nat) : Nat := (tabGet 0#16 c.fab.unacked key).toNat
def setUnack (c : Ctx) (key n : Nat) : Ctx := { c with fab.unacked := tabPut 0 c.fab.unacked key (BitVec.ofNat 16 n) }

/-- An operation entered behind the earlier ones of its node. -/
def pushNode (s : State) (e : Nat) (o : NodeOp) : State := { s with me := setNodes s.me e (nodeOps s.me e ++ [o]) }

/-- The frame of a memory node: tokens other than data queue behind earlier results; F tokens are refused. The node holds at
most 16 operations (12 R271). -/
def nodeFrame (s : State) (e : Nat) (data : List (Nat × Option Token) → State → Except Stop (State × NodeOp)) : Act :=
  let needs := cellNeeds (opOf s.me e)
  paired s e needs (fun hs t =>
    if 16 ≤ (nodeOps s.me e).length then .wait
    else if !t.isData then .fire (pushNode (consume s e needs) e { tok := t, emits := true, isStore := false, done := true, age := s.tick }) []
    else if t.kind = 1#4 then malformed s.me e (firstSlot hs) t 10
    else match data hs s with
      | .error x => stopAt s.me e 0 x
      | .ok (s1, o) => .fire (pushNode (consume s1 e needs) e o) [])

/-- Lane 0 of an input of a memory node, as 64 bits. -/
def nodeArg (c : Ctx) (e : Nat) (hs : List (Nat × Option Token)) (slot : Nat) : Word :=
  (((hs.find? (fun h => h.1 = slot)).bind (fun h => h.2)).map (fun t => t.val)).getD (cellConst c e)

def nodeSize (c : Ctx) (e : Nat) : Nat := cellWidth c e / 8
def nodeWindow (c : Ctx) (e : Nat) : Bool := (cellConst c e).getLsbD 0

/-- MLD: reads size bytes; the value follows as a result. -/
def actMld (e : Nat) (s : State) : Act :=
  nodeFrame s e (fun hs s => do
    let (t, _, v) ← spaceRead s (graphPriv s e) (nodeWindow s.me e) nodeTags (nodeArg s.me e hs 0) (nodeSize s.me e)
    .ok (t, { tok := tokD (BitVec.ofNat 64 v), emits := true, isStore := false, done := true, age := s.tick }))

/-- MST: writes lane 0 of B; the acknowledgement emits a token 0. -/
def actMst (e : Nat) (s : State) : Act :=
  nodeFrame s e (fun hs s => do
    let v := (nodeArg s.me e hs 1).toNat % 2 ^ cellWidth s.me e
    let t ← spaceWrite s (graphPriv s e) (nodeWindow s.me e) nodeTags (nodeArg s.me e hs 0) (nodeSize s.me e) v
    .ok ({ t with me := setUnack t.me (e * 4) (unackOf t.me (e * 4) + 1) },
         { tok := tokD 0, emits := !isSink s.me e, isStore := true, done := false, age := s.tick }))

/-- An atomic of a memory node, relaxed at the home slice, or in window memory. -/
def spaceRmw (s : State) (pr : BitVec 2) (window : Bool) (va : Word) (size : Nat) (fn : BitVec 4) (x : Word) :
    Except Stop (State × Nat) := do
  let y := x.toNat % 2 ^ (8 * size)
  if window then
    let a ← engWin s va size nodeTags
    let old := winNat s s.me.id.core a size
    if winLost s s.me.id.core a size then .error (.fault (winTrap s.me.id.core a))
    else .ok (winPut s s.me.id.core a size (atomValue fn (8 * size) old y), old)
  else
    let (t, pa) ← engXlat s pr va size needBoth
    let old := memNat t.mem pa size
    let new := atomValue fn (8 * size) old y
    if badLine t pa then .error (.fault { lostTrap va pa with base := some t })
    else if writable t pa size (memPut t.mem pa size new) then .ok (homeWrite t pa size new, old) else .error (.hold id)

/-- MATOM: constant [7:4] the ATOM code, [8] a 4-byte word; the old value follows as a result. -/
def actMatom (e : Nat) (s : State) : Act :=
  nodeFrame s e (fun hs s => do
    let k := cellConst s.me e
    let (t, old) ← spaceRmw s (graphPriv s e) (nodeWindow s.me e) (nodeArg s.me e hs 0) (if k.getLsbD 8 then 4 else 8)
      (k.extractLsb' 4 4) (nodeArg s.me e hs 1)
    .ok (t, { tok := tokD (BitVec.ofNat 64 old), emits := !isSink s.me e, isStore := false, done := true, age := s.tick }))

def execCellMld (i : BitVec 6) (s : State) : Host.Outcome State Fault Refusal := cellMove i 0x40 actMld s
def execCellMst (i : BitVec 6) (s : State) : Host.Outcome State Fault Refusal := cellMove i 0x41 actMst s
def execCellMatom (i : BitVec 6) (s : State) : Host.Outcome State Fault Refusal := cellMove i 0x42 actMatom s

/-- MEMORY_NODE_RESULT: the oldest operation of a node, once done, leaves it with its token. -/
def actNodeResult (e : Nat) (s : State) : Act :=
  match nodeOps s.me e with
  | o :: os =>
    if o.done then .fire { s with me := setNodes s.me e os } (if o.emits then [(0, o.tok)] else []) else .wait
  | [] => .wait

def execMemoryNodeResult (i : BitVec 6) (s : State) : Host.Outcome State Fault Refusal :=
  .next (moveElem s i.toNat [] (actNodeResult i.toNat))

/-- ORD: the head of B passes once the head of A stands beside it. -/
def actOrd (e : Nat) (s : State) : Act :=
  paired s e [0, 1] (fun hs t =>
    let b := ((hs.find? (fun h => h.1 = 1)).bind (fun h => h.2)).getD (tokD (cellConst s.me e))
    .fire (takeCell s e) [(0, if t.isData then b else t)])

def execCellOrd (i : BitVec 6) (s : State) : Host.Outcome State Fault Refusal := cellMove i 0x43 actOrd s

/-! ## Sums of taps (12 R283) -/

/-- One token taken from every tap of a WTAP cell; the tap tokens count once together (05 R103). -/
def takeTaps (c : Ctx) (e n : Nat) (t : Token) : Ctx :=
  countTok ((List.range n).foldl (fun k i => setQueue k (inKey e (3 + i)) ((queueOf k (inKey e (3 + i))).drop 1)) c) (inKey e 3) t

/-- The sum of the listed taps of a lane, in list order. -/
def tapSum (c : Ctx) (e : Nat) (xs : List Nat) : FRes :=
  (xs.drop 1).foldl (fun r x =>
    let y := reduce (isInt c e) (fmtCode c e) (roundMode c e) (isSat c e) 0 r.bits x
    ⟨y.bits, r.flags ||| y.flags⟩) ⟨arg xs 0, 0⟩

def actWtap (e : Nat) (s : State) : Act :=
  let n := (tapList (cellConst s.me e)).length
  let heads := (List.range n).map (fun i => (queueOf s.me (inKey e (3 + i))).head?)
  match heads.head?.join with
  | none => .wait
  | some t =>
    if heads.any (fun h => h.isNone) then .wait
    else
      let s1 := { s with me := takeTaps s.me e n t }
      if !t.isData then .fire s1 [(0, t)]
      else
        let w := cellWidth s.me e
        let rs := (List.range (laneNum s.me e)).map (fun i =>
          tapSum s.me e (heads.map (fun h => lane ((h.map (fun t => t.val)).getD 0) w i)))
        let fl := rs.foldl (fun a r => a ||| r.flags) 0
        if elemTraps s.me e fl then fpStop s.me e 3 fl
        else .fire (elemFlags s1 fl) [(0, tokD (BitVec.ofNat 64 (joinLanes w (rs.map (fun r => r.bits)))))]

def execCellWtap (i : BitVec 6) (s : State) : Host.Outcome State Fault Refusal := cellMove i 0x48 actWtap s

end Sys2Proof.Machine
end

