-- ==== Sys2Proof/Machine/Routers.lean ====
section
/-! DEFINITION. The routers: ROUTE, STEER, MERGE and CARRY (12 R284 to R288). -/

namespace Sys2Proof.Machine

/-- The element address of a router by cell index. -/
def routerElem (i : BitVec 6) : Nat := 0x80 + i.toNat

def routerMove (i : BitVec 6) (op : Nat) (act : Nat → State → Act) (s : State) : Host.Outcome State Fault Refusal :=
  moveOp s (routerElem i) op (act (routerElem i))

/-- The head of one input of a router: a refused head is a fault, no head (or a constant) a wait. -/
def withHead (s : State) (e slot : Nat) (k : Token → Act) : Act :=
  match headsOf s.me e [slot] with
  | .error a => a
  | .ok ((_, some t) :: _) => k t
  | .ok _ => .wait

/-- The next control token of an element and the state without it. -/
def withControl (s : State) (e : Nat) (k : Bool → State → Act) : Act :=
  match ctlOf s.me (ctlBuffer e) with
  | [] => .wait
  | b :: bs => k b { s with me := setCtl s.me (ctlBuffer e) bs }

/-! ## X tokens on their way to a MERGE -/

/-- The elements that feed a queue. -/
def feeders (c : Ctx) (key : Nat) : List Nat :=
  elemList.filter (fun u => opOf c u ≠ 0 && (outPorts c u).any (fun p => (outDests c u p ++ fanLinks c u p).any (fun d => d.1 = key)))

/-- The queues in which a token on its way to one of these can stand, back to the STEERs that it comes from; n bounds the length of the way. -/
def upstream (c : Ctx) : Nat → List Nat → List Nat
  | 0, ks => ks
  | n + 1, ks =>
    let more := (ks.flatMap (fun k => (feeders c k).flatMap (fun u =>
      [bufKey u, pendKey u 0, pendKey u 1] ++ (if isRouter u && opOf c u = 2 then [] else (elemNeeds c u).map (inKey u))))).filter (fun k => !ks.contains k)
    if more.isEmpty then ks else upstream c n (ks ++ more.eraseDups)

/-- Is an X on its way to an input? -/
def xComing (c : Ctx) (e slot : Nat) : Bool :=
  (upstream c 144 [inKey e slot]).any (fun k => (queueOf c k).any (fun t => t.kind = 3#4))

/-! ## The operations -/

/-- A firing that passes input `slot` of a router on. -/
def passes (s : State) (e slot : Nat) : State := setElem s e { elemOf s.me e with index := slot }

/-- ROUTE: every token of input 0, bit for bit and in order. -/
def actRoute (e : Nat) (s : State) : Act := withHead s e 0 (fun t => .fire (consume s e [0]) [(0, t)])

/-- STEER: one control token for each data token and each stop. -/
def actSteer (e : Nat) (s : State) : Act :=
  withHead s e 0 (fun t =>
    if t.kind = 4#4 then .fire (consume s e [0]) [(0, t), (1, t)]
    else if t.kind = 15#4 then .fire (consume s e [0]) [(0, tokStop 1), (0, t), (1, t)]
    else if t.isStop then
      withControl s e (fun b s1 => if b then malformed s.me e 0 t 10 else .fire (consume s1 e [0]) [(1, t)])
    else if t.isData then withControl s e (fun b s1 => .fire (consume s1 e [0]) [(if b then 0 else 1, t)])
    else .fire (consume s e [0]) [(1, t)])

/-- MERGE by phase: 0 before G, 1 rejoining, 2 the S1 of the flat side has gone. With control 1 the shaped side may be
empty, but for an X on its way there, which comes first (DEDUCED, log 28). -/
def actMerge (e : Nat) (s : State) : Act :=
  let x := elemOf s.me e
  if x.phase = 0 then
    paired s e [0, 1] (fun _ t =>
      if t.kind = 4#4 then .fire (setElem (consume s e [0, 1]) e { x with phase := 1 }) [(0, t)] else malformed s.me e 0 t 10)
  else
    let byControl : Act := withControl s e (fun b s1 =>
      if b then withHead s e 0 (fun d => if d.isData then .fire (passes (consume s1 e [0]) e 0) [(0, d)] else malformed s.me e 0 d 10)
      else withHead s e 1 (fun d =>
        if d.isData || d.isStop then .fire (passes (consume s1 e [1]) e 1) [(0, d)] else malformed s.me e 1 d 10))
    match headsOf s.me e [1] with
    | .error .wait => if xComing s.me e 1 then .wait else byControl
    | .error a => a
    | .ok ((_, some t) :: _) =>
      if t.kind = 3#4 then .fire (passes (consume s e [1]) e 1) [(0, t)]
      else if t.kind = 15#4 then
        withHead s e 0 (fun d =>
          if x.phase = 1 then
            if d = tokStop 1 then .fire (setElem (consume s e [0]) e { x with phase := 2 }) [] else malformed s.me e 0 d 10
          else if d.kind = 15#4 then .fire (setElem (consume s e [0, 1]) e ElemSt.zero) [(0, t)]
          else malformed s.me e 0 d 10)
      else byControl
    | .ok _ => .wait

/-- CARRY by phase: 0 before G, 1 between tokens, 2 waiting for the control token of an emitted data token, 3 of an emitted
stop, which is consumed with that control token, 4 and 5 waiting for S1 and Z of the back edge behind its own Z (DEDUCED, log 28). -/
def actCarry (e : Nat) (s : State) : Act :=
  let x := elemOf s.me e
  let go := fun (s1 : State) (y : ElemSt) (outs : List (Nat × Token)) => Act.fire (setElem s1 e y) outs
  let back : Act := withHead s e 1 (fun t => if t.kind = 4#4 then .fire (consume s e [1]) [] else .wait)
  let entry : Act :=
    if x.phase = 0 then
      withHead s e 0 (fun t => if t.kind = 4#4 then go (consume s e [0]) { x with phase := 1 } [(0, t)] else malformed s.me e 0 t 10)
    else if x.phase = 2 then
      withControl s e (fun b s1 => go s1 { x with phase := 1, looping := b } [])
    else if x.phase = 3 then
      withHead s e 0 (fun t =>
        withControl s e (fun b s1 => if b then malformed s.me e 0 t 10 else go (consume s1 e [0]) { x with phase := 1 } []))
    else if x.phase = 4 then
      withHead s e 1 (fun t => if t = tokStop 1 then go (consume s e [1]) { x with phase := 5 } [] else malformed s.me e 1 t 10)
    else if x.phase = 5 then
      withHead s e 1 (fun t => if t.kind = 15#4 then go (consume s e [1]) ElemSt.zero [] else malformed s.me e 1 t 10)
    else if x.looping then
      withHead s e 1 (fun t => if t.isData then go (consume s e [1]) { x with phase := 2, index := 1 } [(0, t)] else malformed s.me e 1 t 10)
    else
      withHead s e 0 (fun t =>
        if t.kind = 15#4 then go (consume s e [0]) { x with phase := 4 } [(0, t)]
        else if t.isStop then go s { x with phase := 3, index := 0 } [(0, t)]
        else if t.isData then go (consume s e [0]) { x with phase := 2, index := 0 } [(0, t)]
        else go (consume s e [0]) { x with index := 0 } [(0, t)])
  match back with
  | .fire t outs => .fire t outs
  | _ => entry

def execRoute (i : BitVec 6) (s : State) : Host.Outcome State Fault Refusal := routerMove i 1 actRoute s
def execSteer (i : BitVec 6) (s : State) : Host.Outcome State Fault Refusal := routerMove i 2 actSteer s
def execMerge (i : BitVec 6) (s : State) : Host.Outcome State Fault Refusal := routerMove i 3 actMerge s
def execCarry (i : BitVec 6) (s : State) : Host.Outcome State Fault Refusal := routerMove i 4 actCarry s

end Sys2Proof.Machine
end

