-- ==== Sys2Proof/Machine/Fibres.lean ====
section
/-! DEFINITION. The fibre elements: SCAN, ISECT, UNION, REPEAT, LOOKUP, FRED and FWRITE (12 R289 to R294, 11 R255). -/

namespace Sys2Proof.Machine

/-- The element address of a fibre element. -/
def fibreElem (e : BitVec 3) : Nat := 0x40 + e.toNat

def fibreMove (e : BitVec 3) (op : Nat) (act : Nat → State → Act) (s : State) : Host.Outcome State Fault Refusal :=
  moveOp s (fibreElem e) op (act (fibreElem e))

/-- The parameter of a fibre element, fields 16 to 19. -/
def param (c : Ctx) (e : Nat) : Word := wideField c e 16

/-- The head of an input of a fibre element: data is F only (12 R289); an X token has no place in an F stream. -/
def fibreHead (s : State) (e slot : Nat) (k : Token → Act) : Act :=
  withHead s e slot (fun t => if t.kind = 0#4 ∨ t.kind = 3#4 then malformed s.me e slot t 10 else k t)

/-- The window address of bytes at an offset of a region, checked as 12 R290 to R294 ask: 0x05 outside the region, 0x0A
for a tag that is not admitted. -/
def arrayAt (c : Ctx) (n off size : Nat) (tags : List (BitVec 3)) : Except Trap Nat :=
  let r := region c n
  let a := r.base + off
  if r.size < off + size then .error { cause := 0x05, value := BitVec.ofNat 64 a }
  else if tags.contains r.tag then .ok a
  else .error { cause := 0x0A, value := BitVec.ofNat 64 a }

/-- Entry i of an N32 array of a fibre element. -/
def entry32 (s : State) (n i : Nat) : Except Trap Nat := do
  let a ← arrayAt s.me n (4 * i) 4 [3]
  if winLost s s.me.id.core a 4 then .error (winTrap s.me.id.core a) else .ok (winNat s s.me.id.core a 4)

def segRegion (c : Ctx) (e : Nat) : Nat := (cfgField c e 11).toNat
def crdRegion (c : Ctx) (e : Nat) : Nat := (cfgField c e 12).toNat

/-- Either the value of a checked access, or its fault at input A. -/
def atA (s : State) (e : Nat) (r : Except Trap Act) : Act :=
  match r with
  | .ok a => a
  | .error t => stopAt s.me e 0 (.fault t)

/-! ## SCAN (12 R290) -/

/-- What SCAN reads: the heads of A, or the generated stream G, (0, 0) …, S1, Z of a source, which a drain cuts short
(12 R299). -/
def scanHead (s : State) (e : Nat) (k : Token → Act) : Act :=
  if sourceOf s.me e 0 ≠ 0 then fibreHead s e 0 k
  else
    let x := elemOf s.me e
    let n : BitVec 32 := (param s.me e).extractLsb' 0 32
    let draining : Bool := match graphAt s e with | some (_, g) => g.state == 3#2 | none => false
    if x.looping then
      if x.used then k tokZ
      else if (draining && x.phase = 0) || n.ule x.ordinal then k (tokStop 1)
      else k (tokF x.ordinal x.ordinal)
    else if x.started then k tokG
    else .wait

/-- The head of SCAN consumed: of A, or the generated stream moved on. -/
def scanTake (s : State) (e : Nat) (t : Token) : State :=
  if sourceOf s.me e 0 ≠ 0 then consume s e [0]
  else
    let x := elemOf s.me e
    let s1 := { s with me := countTok s.me (inKey e 0) t }
    if t.kind = 4#4 then setElem s1 e { x with looping := true, started := false }
    else if t.kind = 15#4 then setElem s1 e { x with looping := false }
    else if t.isStop then setElem s1 e { x with used := true }
    else setElem s1 e { x with ordinal := x.ordinal + 1 }

/-- SCAN, one output token for each firing: phase 1 walks the fibre of the head from `index` to `acc`. -/
def actScan (e : Nat) (s : State) : Act :=
  let x := elemOf s.me e
  let n := ((param s.me e).extractLsb' 0 32).toNat
  let done := fun (t : Token) (outs : List Token) =>
    let s1 := scanTake s e t
    let y := { elemOf s1.me e with phase := 0, index := 0, acc := 0 }
    Act.fire (setElem s1 e (outs.foldl ElemSt.emitted y)) (outs.map (fun t => (0, t)))
  scanHead s e (fun t =>
    if !t.isData then
      if t.isStop then (if t.level = 7 then malformed s.me e 0 t 10 else done t [tokStop (t.level + 1)]) else done t [t]
    else if t.isNull || t.value == 0xFFFFFFFF#32 then done t (closeFibre x 1)
    else
      let p := t.value.toNat
      let step := fun (j last first : Nat) => (do
        if last ≤ j then .ok (done t (closeFibre x 1))
        else
          let c ← entry32 s (crdRegion s.me e) j
          let before ← if first < j then (entry32 s (crdRegion s.me e) (j - 1)).map (fun b => b + 1) else Except.ok 0
          if c < before then .error { cause := 0x0C, value := BitVec.ofNat 64 j }
          else
            let u := tokF (BitVec.ofNat 32 c) (BitVec.ofNat 32 j)
            let y := { x with phase := 1, index := j + 1, acc := BitVec.ofNat 64 last }
            .ok (Act.fire (setElem s e (y.emitted u)) [(0, u)]) : Except Trap Act)
      atA s e (do
        if x.phase = 1 then
          let first ← entry32 s (segRegion s.me e) p
          step x.index x.acc.toNat first
        else if n ≤ p then .error { cause := 0x0C, value := BitVec.ofNat 64 p }
        else
          let first ← entry32 s (segRegion s.me e) p
          let last ← entry32 s (segRegion s.me e) (p + 1)
          let total ← entry32 s (segRegion s.me e) n
          let have4 := (region s.me (crdRegion s.me e)).size / 4
          if last < first ∨ have4 < total then .error { cause := 0x0C, value := BitVec.ofNat 64 p }
          else step first last first))

def execScan (e : BitVec 3) (s : State) : Host.Outcome State Fault Refusal := fibreMove e 1 actScan s

/-! ## ISECT and UNION (11 R255) -/

def absent : BitVec 32 := 0xFFFFFFFF

/-- One firing of ISECT (union false) or UNION. -/
def actJoin (union : Bool) (e : Nat) (s : State) : Act :=
  let x := elemOf s.me e
  let go := fun (slots : List Nat) (y : ElemSt) (outs : List (Nat × Token)) => Act.fire (setElem (consume s e slots) e y) outs
  let both := fun (ts : List Token) => (ts.map (fun t => [(0, t), (1, t)])).flatten
  let some2 := fun (slots : List Nat) (c a b : BitVec 32) => go slots { x with last := 1 } [(0, tokF c a), (1, tokF c b)]
  fibreHead s e 0 (fun a => fibreHead s e 1 (fun b =>
    if a.isData ∧ b.isData then
      if a.coord.ult b.coord then (if union then some2 [0] a.coord a.value absent else go [0] x [])
      else if b.coord.ult a.coord then (if union then some2 [1] b.coord absent b.value else go [1] x [])
      else if a.isNull then go [0, 1] x []
      else some2 [0, 1] a.coord a.value b.value
    else if a.isData ∧ b.isStop then (if union ∧ ¬ a.isNull then some2 [0] a.coord a.value absent else go [0] x [])
    else if a.isStop ∧ b.isData then (if union ∧ ¬ b.isNull then some2 [1] b.coord absent b.value else go [1] x [])
    else if a.kind ≠ b.kind then malformed s.me e 1 b 10
    else if a.isStop then
      let ts := closeFibre x a.level
      go [0, 1] (ts.foldl ElemSt.emitted x) (both ts)
    else go [0, 1] ElemSt.zero (both [a])))

def execIsect (e : BitVec 3) (s : State) : Host.Outcome State Fault Refusal := fibreMove e 2 (actJoin false) s
def execUnion (e : BitVec 3) (s : State) : Host.Outcome State Fault Refusal := fibreMove e 3 (actJoin true) s

/-! ## REPEAT (12 R291) -/

/-- REPEAT: phase 1 when the element of A has gone and its stop is due. -/
def actRepeat (e : Nat) (s : State) : Act :=
  let x := elemOf s.me e
  fibreHead s e 1 (fun b =>
    if b.isNull then .fire (consume s e [1]) [(0, b)]
    else fibreHead s e 0 (fun a =>
      if b.isData then
        if a.isData ∧ ¬ a.isNull then .fire (consume s e [1]) [(0, tokF b.coord a.value)] else malformed s.me e 0 a 10
      else if b.isStop then
        if x.phase = 0 ∧ a.isData then
          if b.level = 1 then .fire (consume s e [0, 1]) [(0, b)]
          else .fire (setElem (consume s e [0]) e { x with phase := 1 }) []
        else if b.level = 1 then .fire (consume s e [1]) [(0, b)]
        else if a = tokStop (b.level - 1) then .fire (setElem (consume s e [0, 1]) e ElemSt.zero) [(0, b)]
        else malformed s.me e 0 a 10
      else if a.kind = b.kind then .fire (setElem (consume s e [0, 1]) e ElemSt.zero) [(0, b)]
      else malformed s.me e 0 a 10))

def execRepeat (e : BitVec 3) (s : State) : Host.Outcome State Fault Refusal := fibreMove e 4 actRepeat s

/-! ## LOOKUP (12 R292) -/

def actLookup (e : Nat) (s : State) : Act :=
  fibreHead s e 0 (fun t =>
    let pass := fun (u : Token) => Act.fire (consume s e [0]) [(0, u)]
    if !t.isData || t.isNull then pass t
    else if t.value = absent then pass (tokF t.coord 0)
    else
      let size := cellWidth s.me e / 8
      atA s e (do
        let a ← arrayAt s.me (segRegion s.me e) (t.value.toNat * size) size [0, 3]
        if winLost s s.me.id.core a size then .error (winTrap s.me.id.core a)
        else .ok (pass (tokF t.coord (BitVec.ofNat 32 (winNat s s.me.id.core a size))))))

def execLookup (e : BitVec 3) (s : State) : Host.Outcome State Fault Refusal := fibreMove e 5 actLookup s

/-! ## FRED (12 R293) -/

/-- The head of FRED's input B where it has one: `want` says what it must be; with none the default passes. -/
def fredB (s : State) (e : Nat) (want : Token → Bool) (k : Option Token → Act) : Act :=
  if sourceOf s.me e 1 = 0 then k none
  else fibreHead s e 1 (fun b => if want b then k (some b) else malformed s.me e 1 b 10)

/-- FRED: values of A reduced at level L. A completed group takes an element of B; an emitted stop takes the same stop of B. -/
def actFred (e : Nat) (s : State) : Act :=
  let x := elemOf s.me e
  let w := cellWidth s.me e
  let what := (param s.me e).toNat % 4
  let hasB := decide (sourceOf s.me e 1 ≠ 0)
  let slotB := if hasB then [1] else []
  let isElem := fun (b : Token) => b.isData && !b.isNull
  let result := fun (b : Option Token) => tokF ((b.map Token.coord).getD x.ordinal) (BitVec.ofNat 32 (x.acc.toNat % 2 ^ w))
  let closed := { x with acc := 0, used := false, isOpen := false, afterG := false, ordinal := x.ordinal + 1 }
  let go := fun (slots : List Nat) (y : ElemSt) (ts : List Token) =>
    Act.fire (setElem (consume s e slots) e y) (ts.map (fun t => (0, t)))
  fibreHead s e 0 (fun t =>
    if t.kind = 4#4 then fredB s e (fun b => b.kind == 4#4) (fun _ => go (0 :: slotB) { ElemSt.zero with afterG := true } [t])
    else if t.kind = 15#4 then
      if x.isOpen then fredB s e isElem (fun b => go slotB closed [result b])
      else fredB s e (fun b => b.kind == 15#4) (fun _ => go (0 :: slotB) ElemSt.zero [t])
    else if t.isStop then
      let (close, stops) := groupStop x (cfgField s.me e 10).toNat t.level
      if close then fredB s e isElem (fun b => go slotB closed [result b])
      else match stops with
        | [] => go [0] x []
        | u :: _ => fredB s e (fun b => b == u) (fun _ => go (0 :: slotB) { x with ordinal := 0 } [u])
    else if t.isNull then go [0] { x with isOpen := true, afterG := false } []
    else
      let v := t.value.toNat % 2 ^ w
      let r : FRes := if x.used then
          reduce (isInt s.me e) (fmtCode s.me e) (roundMode s.me e) (isSat s.me e) what (x.acc.toNat % 2 ^ w) v
        else ⟨v, 0⟩
      if elemTraps s.me e r.flags then fpStop s.me e 0 r.flags
      else
        .fire (elemFlags (setElem (consume s e [0]) e
          { x with acc := BitVec.ofNat 64 r.bits, used := true, isOpen := true, afterG := false }) r.flags) [])

def execFred (e : BitVec 3) (s : State) : Host.Outcome State Fault Refusal := fibreMove e 6 actFred s

/-! ## FWRITE (12 R294) -/

/-- Window writes of FWRITE, all checked before the first: each raises the store-acknowledge count. -/
def fwriteWords (s : State) (e : Nat) (ws : List (Nat × Nat × Nat)) : Except Trap State := do
  let as ← ws.mapM (fun w => (arrayAt s.me w.1 w.2.1 4 [3]).map (fun a => (a, w.2.2)))
  let s1 := as.foldl (fun t a => winPut t t.me.id.core a.1 4 a.2) s
  .ok { s1 with me := setUnack s1.me (e * 4) (unackOf s1.me (e * 4) + as.length) }

/-- FWRITE: a fibre of the level that field 10 names ends at the first stop of that level or higher of a run, or at Z where one is open; R294 writes
out the case of level 1 (11 R254, DEDUCED, log 84). -/
def actFwrite (e : Nat) (s : State) : Act :=
  let x := elemOf s.me e
  let level := (cfgField s.me e 10).toNat
  let close := [(segRegion s.me e, 4 * (x.fibres.toNat + 1), x.elems.toNat)]
  let seg := segRegion s.me e
  let crd := crdRegion s.me e
  let off := ((param s.me e).extractLsb' 0 32).toNat
  let write := fun (ws : List (Nat × Nat × Nat)) (y : ElemSt) =>
    atA s e ((fwriteWords s e ws).map (fun t => Act.fire (setElem (consume t e [0]) e y) []))
  if 0xFFF0 ≤ unackOf s.me (e * 4) then .wait
  else fibreHead s e 0 (fun t =>
    if t.kind = 4#4 then write [(seg, 0, 0)] ElemSt.zero
    else if t.kind = 15#4 then
      atA s e ((fwriteWords s e (if x.last = 1#2 then close else [])).map (fun u =>
        Act.fire (setElem (sinkDone (consume u e [0]) (e * 4)) e ElemSt.zero) []))
    else if t.isStop then
      if x.last = 2#2 ∨ t.level < level then .fire (consume s e [0]) []
      else write close { x with fibres := x.fibres + 1, last := 2 }
    else if t.isNull then .fire (setElem (consume s e [0]) e { x with last := 1 }) []
    else
      let i := 4 * x.elems.toNat
      write [(crd, i, t.coord.toNat), (crd, off + i, t.value.toNat)] { x with elems := x.elems + 1, last := 1 })

def execFwrite (e : BitVec 3) (s : State) : Host.Outcome State Fault Refusal := fibreMove e 7 actFwrite s

end Sys2Proof.Machine
end

