-- ==== Sys2Proof/Machine/Float.lean ====
section
/-! DEFINITION. Handler floating-point instructions (06 R121 to R127). -/

namespace Sys2Proof.Machine

/-- FADD (06 R121, R122): rounded by KFPC.RM. -/
def execFadd (d a b : Reg) (f : BitVec 2) (s : State) : Host.Outcome State Fault Refusal :=
  let t := fmtOf (f.setWidth 3)
  fpWrite s d (fAdd t (fpMode s) false (flOf t (fpArg s t a)) (flOf t (fpArg s t b)))

/-- FSUB (06 R121, R122): rounded by KFPC.RM. -/
def execFsub (d a b : Reg) (f : BitVec 2) (s : State) : Host.Outcome State Fault Refusal :=
  let t := fmtOf (f.setWidth 3)
  fpWrite s d (fSub t (fpMode s) false (flOf t (fpArg s t a)) (flOf t (fpArg s t b)))

/-- FMUL (06 R121, R122): rounded by KFPC.RM. -/
def execFmul (d a b : Reg) (f : BitVec 2) (s : State) : Host.Outcome State Fault Refusal :=
  let t := fmtOf (f.setWidth 3)
  fpWrite s d (fMul t (fpMode s) false (flOf t (fpArg s t a)) (flOf t (fpArg s t b)))

/-- FDIV (06 R121, R122): rounded by KFPC.RM. -/
def execFdiv (d a b : Reg) (f : BitVec 2) (s : State) : Host.Outcome State Fault Refusal :=
  let t := fmtOf (f.setWidth 3)
  fpWrite s d (fDiv t (fpMode s) false (flOf t (fpArg s t a)) (flOf t (fpArg s t b)))

/-- FSQRT (06 R121, R122). -/
def execFsqrt (d a : Reg) (f : BitVec 2) (s : State) : Host.Outcome State Fault Refusal :=
  let t := fmtOf (f.setWidth 3)
  fpWrite s d (fSqrt t (fpMode s) false (flOf t (fpArg s t a)))

/-- FMIN (06 R122, 03 R61). -/
def execFmin (d a b : Reg) (f : BitVec 2) (s : State) : Host.Outcome State Fault Refusal :=
  let t := fmtOf (f.setWidth 3)
  fpWrite s d (fMinMax t false (fpArg s t a) (fpArg s t b))

/-- FMAX (06 R122, 03 R61). -/
def execFmax (d a b : Reg) (f : BitVec 2) (s : State) : Host.Outcome State Fault Refusal :=
  let t := fmtOf (f.setWidth 3)
  fpWrite s d (fMinMax t true (fpArg s t a) (fpArg s t b))

/-- FABS (06 R122, 03 R61). -/
def execFabs (d a : Reg) (f : BitVec 2) (s : State) : Host.Outcome State Fault Refusal :=
  let t := fmtOf (f.setWidth 3)
  fpWrite s d (fSignOp t true (fpArg s t a))

/-- FNEG (06 R122, 03 R61). -/
def execFneg (d a : Reg) (f : BitVec 2) (s : State) : Host.Outcome State Fault Refusal :=
  let t := fmtOf (f.setWidth 3)
  fpWrite s d (fSignOp t false (fpArg s t a))

/-- FCLASS: the class mask, without flags (06 R123). -/
def execFclass (d a : Reg) (f : BitVec 2) (s : State) : Host.Outcome State Fault Refusal :=
  let t := fmtOf (f.setWidth 3)
  setG s d (BitVec.ofNat 64 (fClass t (fpArg s t a)))

/-- FFMA: x × y + z with one rounding (06 R124). -/
def execFfma (d a b c : Reg) (f : BitVec 2) (s : State) : Host.Outcome State Fault Refusal :=
  let t := fmtOf (f.setWidth 3)
  fpWrite s d (fFma t (fpMode s) false (flOf t (fpArg s t a)) (flOf t (fpArg s t b)) (flOf t (fpArg s t c)))

/-- A comparison into a condition register, trapping as 03 R63 (06 R125). -/
def fpCompare (s : State) (d : CReg) (rel : BitVec 2) (a b : Reg) (f : BitVec 2) : Host.Outcome State Fault Refusal :=
  let t := fmtOf (f.setWidth 3)
  let r := fRel rel (flOf t (fpArg s t a)) (flOf t (fpArg s t b))
  fpEnd s r.2 (fun u => writeC u d r.1)

/-- FCEQ (06 R125). -/
def execFceq (d : CReg) (a b : Reg) (f : BitVec 2) (s : State) : Host.Outcome State Fault Refusal := fpCompare s d 0 a b f

/-- FCLT (06 R125). -/
def execFclt (d : CReg) (a b : Reg) (f : BitVec 2) (s : State) : Host.Outcome State Fault Refusal := fpCompare s d 1 a b f

/-- FCLE (06 R125). -/
def execFcle (d : CReg) (a b : Reg) (f : BitVec 2) (s : State) : Host.Outcome State Fault Refusal := fpCompare s d 2 a b f

/-- FCUN (06 R125). -/
def execFcun (d : CReg) (a b : Reg) (f : BitVec 2) (s : State) : Host.Outcome State Fault Refusal := fpCompare s d 3 a b f

/-- FCVT: float to float in the rounding mode of the word (06 R126, R127; 03 R66). -/
def execFcvt (d a : Reg) (t : BitVec 3) (sat : BitVec 1) (f : BitVec 3) (r : BitVec 2) (s : State) : Host.Outcome State Fault Refusal :=
  fpWrite s d (fConvert (fmtOf f) (fmtOf t) r (sat = 1#1) (fpArg s (fmtOf f) a))

/-- FTOI: float to integer (06 R126, R127; 03 R66). -/
def execFtoi (d a : Reg) (t : BitVec 3) (f : BitVec 3) (r : BitVec 2) (s : State) : Host.Outcome State Fault Refusal :=
  fpWrite s d (fToInt (fmtOf f) t r (fpArg s (fmtOf f) a))

/-- ITOF: integer to float (06 R126, R127; 03 R66). -/
def execItof (d a : Reg) (t : BitVec 3) (sat : BitVec 1) (f : BitVec 3) (r : BitVec 2) (s : State) : Host.Outcome State Fault Refusal :=
  fpWrite s d (intToF f (fmtOf t) r (sat = 1#1) (readG s a).toNat)

end Sys2Proof.Machine
end

