-- ==== Sys2Proof/Machine/Ports.lean ====
section
/-! DEFINITION. Port queues of the core fabric interface, the spill log and the reception log (11 R262 to R265). -/

namespace Sys2Proof.Machine

/-- A fault of the core fabric interface: element 0x0E0, input 3, the port's count of received tokens. -/
def portFault (s : State) (port : Nat) (cause : BitVec 8) (value : Word) : State :=
  let elem : Word := BitVec.ofNat 64 (0x0E0 + 3 * 2 ^ 10 + tabGet 0 s.me.fab.portCount port % 2 ^ 48 * 2 ^ 16)
  { s with me := queueFault { kcause := 1#1 ++ cause, value := value, elem := elem } s.me }

def portQueue (c : Ctx) (port : Nat) : List Token := tabGet [] c.fab.portq port

/-- A token enters a port queue of the context in focus. -/
def enterPort (s : State) (port : Nat) (t : Token) : State :=
  { s with me.fab.portq := tabPut [] s.me.fab.portq port (portQueue s.me port ++ [t])
           me.fab.portCount := tabPut 0 s.me.fab.portCount port (tabGet 0 s.me.fab.portCount port + 1) }

/-- The second word of a record: kind in [3:0] of byte 8, port in byte 9 (11 R262). -/
def recordTail (port : Nat) (t : Token) : Nat := t.kind.toNat + port * 256

/-- Logging halts at a port with a cause (11 R263). -/
def haltSpill (s : State) (port : Nat) (cause : BitVec 8) (value : Word) : State :=
  portFault { s with me.fab.spillPorts := port :: s.me.fab.spillPorts } port cause value

/-- A token of a port is written to the spill log of the context in focus; `kept` stays when it cannot be. -/
def spillToken (s kept : State) (port : Nat) (t : Token) : State :=
  let tail := s.me.fab.spillTail
  if !s.me.fab.spillPorts.isEmpty then kept
  else if s.me.sys.spillEnd.toNat < tail.toNat + 16 then haltSpill kept port 0x12 tail
  else
    let written : Except Stop State := do
      let a ← engWrite s 1 tail 8 t.val.toNat
      engWrite a 1 (tail + 8) 8 (recordTail port t)
    match written with
    | .error (.hold f) => f kept
    | .error (.fault f) => retiring (counted kept f) f.line (fun u => haltSpill u port 0x11 f.value)
    | .ok u =>
      let u1 := countEvent u 0x0D 1
      { u1 with me.fab.spillTail := tail + 16
                me.fab.spillLog := u1.me.fab.spillLog ++ [(port, t)]
                me.fab.portCount := tabPut 0 u1.me.fab.portCount port (tabGet 0 u1.me.fab.portCount port + 1) }

/-- Has the port tokens in the spill log? -/
def spilled (c : Ctx) (port : Nat) : Bool := c.fab.spillLog.any (fun r => r.1 = port)

/-- A token reaches a valid receive port of the context in focus: its queue, the spill log, or it stays (11 R262). -/
def receiveTok (s kept : State) (port : Nat) (t : Token) : State :=
  if s.me.fab.spillPorts.contains port then kept
  else if (portQueue s.me port).length < 8 ∧ ¬ spilled s.me port then enterPort s port t
  else if s.me.sys.spill = 0#64 then kept
  else spillToken s kept port t

/-- A token for an inactive context enters its reception log, 4,096 records at KXSAVE (11 R265); while no set holds the context, its area counts
them. -/
def logTok (s kept : State) (port : Nat) (t : Token) : State :=
  let n := logCount s s.me
  if 4096 ≤ n then kept
  else
    let area := areaOf s.me
    let a := area + 16 * n
    let v := t.val.toNat + 2 ^ 64 * recordTail port t
    if !writable s a 16 (memPut s.mem a 16 v) then kept
    else
      let s1 := homeWrite s a 16 v
      let s2 := if inArea s s.me.id && countsInArea s.mem area then { s1 with mem := memPut s1.mem (area + 0x012008) 8 (n + 1) } else s1
      { s2 with me.fab.recCount := n + 1, me.fab.recLog := s2.me.fab.recLog ++ [(port, n)] }

/-- TOKEN_ARRIVAL_AT_PORT of the k-th packet by the state of its destination (11 R264, R265). -/
def tokenArrival (k : Nat) (s : State) : State :=
  match arrived s k with
  | some { load := .token _ _ dest port t, .. } =>
    match findCtx s dest with
    | none => dropPacket s k
    | some c =>
      let n := port.toNat
      let home := s.me.id
      let there := focus s dest
      let taken := focus (dropPacket s k) dest
      if isActive s dest then
        if !receives c n || c.fab.recLog.any (fun r => r.1 = n) then s
        else focus (receiveTok taken there n t) home
      else if isPlaced s dest then focus (logTok taken there n t) home
      else s
  | _ => s

def execTokenArrivalAtPort (k : Nat) (s : State) : Host.Outcome State Fault Refusal := .next (tokenArrival k s)

/-- The spill log emptied: head and tail return to KSPILL, and a held KSPILL takes effect (11 R262, R263). -/
def resetSpill (c : Ctx) : Ctx :=
  let w := c.sys.spillHeld.getD c.sys.spill
  { c with sys.spill := w, sys.spillHeld := none, fab.spillHead := w, fab.spillTail := w, fab.spillLog := [] }

/-- Records that an abort has emptied (port 64) do not stand at the head of the log; a log of nothing else is empty (11 R266). -/
def stripSpill (c : Ctx) : Ctx :=
  let rest := c.fab.spillLog.dropWhile (fun r => r.1 = 64)
  if rest.isEmpty then resetSpill c
  else { c with fab.spillLog := rest, fab.spillHead := c.fab.spillHead + BitVec.ofNat 64 (16 * (c.fab.spillLog.length - rest.length)) }

/-- The records of some ports emptied in the spill log: they keep their places until the head passes them, or the log is empty and head and
tail return to KSPILL (11 R266). -/
def dropSpill (ports : List Nat) (c : Ctx) : Ctx :=
  if c.fab.spillLog.isEmpty then c
  else stripSpill { c with fab.spillLog := c.fab.spillLog.map (fun r => if ports.contains r.1 then (64, r.2) else r) }

/-- SPILL_REFILL: the oldest logged token returns to its port queue when that has room. -/
def spillRefill (s : State) : State :=
  match s.me.fab.spillLog with
  | [] => s
  | (port, _) :: rest =>
    if !isActive s s.me.id || !s.me.fab.spillPorts.isEmpty || 8 ≤ (portQueue s.me port).length then s
    else
      let head := s.me.fab.spillHead
      let back : Except Stop (State × Token) := do
        let (a, _, v) ← engRead s 1 head 8
        let (b, _, w) ← engRead a 1 (head + 8) 8
        .ok (b, { kind := BitVec.ofNat 4 w, val := BitVec.ofNat 64 v })
      match back with
      | .error (.hold f) => f s
      | .error (.fault f) => retiring (counted s f) f.line (fun u => haltSpill u port 0x11 f.value)
      | .ok (u, t) =>
        let c := { u.me with fab.portq := tabPut [] u.me.fab.portq port (portQueue u.me port ++ [t]), fab.spillLog := rest,
                             fab.spillHead := head + 16 }
        { u with me := stripSpill c }

def execSpillRefill (s : State) : Host.Outcome State Fault Refusal := .next (spillRefill s)

/-- The reception log without its i-th record; empty, it starts afresh. -/
def dropRecord (c : Ctx) (i : Nat) : Ctx :=
  let l := c.fab.recLog.eraseIdx i
  { c with fab.recLog := l, fab.recCount := if l.isEmpty then 0 else c.fab.recCount,
           fab.recStuck := if l.isEmpty then [] else c.fab.recStuck }

/-- May the i-th record be replayed or reported now: it is the first of its port, and the port is closed and unreported, or has
room or a spill log (11 R265)? -/
def recordDue (c : Ctx) (i : Nat) : Bool :=
  match c.fab.recLog[i]? with
  | none => false
  | some (p, _) =>
    !(c.fab.recLog.take i).any (fun r => r.1 = p)
      && (if receives c p then
            !c.fab.spillPorts.contains p && (((portQueue c p).length < 8 && !spilled c p) || (c.sys.spill ≠ 0#64 && c.fab.spillPorts.isEmpty))
          else !c.fab.recStuck.contains p)

/-- The token of a record as the save area holds it (11 R262). -/
def recordTok (s : State) (i : Nat) : Token :=
  let a := areaOf s.me + 16 * i
  { kind := (memByte s.mem (a + 8)).extractLsb' 0 4, val := BitVec.ofNat 64 (memNat s.mem a 8) }

/-- RECEPTION_LOG_REPLAY: the first due record is read from the save area and goes to its port; a closed port raises port closed once. An
uncorrectable record is one of the partition's control state (15 R361, DEDUCED, log 55). -/
def replayRecord (s : State) : State :=
  if !isActive s s.me.id then s
  else match (List.range s.me.fab.recLog.length).find? (recordDue s.me) with
    | none => s
    | some i =>
      match s.me.fab.recLog[i]? with
      | none => s
      | some (p, n) =>
        let a := areaOf s.me + 16 * n
        if receives s.me p then
          if badLine s a then contain s (myPart s)
          else if readState s s.me.id.part (a / 128) ≠ .go then s
          else
            let s1 := { l2Touch s s.me.id.part (a / 128) with me.fab.recStuck := s.me.fab.recStuck.filter (· ≠ p) }
            receiveTok { s1 with me := dropRecord s1.me i } s1 p (recordTok s n)
        else portFault { s with me.fab.recStuck := p :: s.me.fab.recStuck } p 0x10 (BitVec.ofNat 64 p)

def execReceptionLogReplay (s : State) : Host.Outcome State Fault Refusal := .next (replayRecord s)

end Sys2Proof.Machine
end

