-- ==== Sys2Proof/Machine/Lattice.lean ====
section
/-! DEFINITION. Window units of lattice stages: line queues, taps and the order of their output (11 R259, 12 R280 to R282,
18 R398). -/

namespace Sys2Proof.Machine

/-- The shape of a window unit (12 R280), and its level (11 R254). -/
structure Shape where
  rows : Nat
  cols : Nat
  region : Nat
  bound : Nat
  lanes : Nat
  width : Nat
  level : Nat
  deriving DecidableEq, Repr

def shapeOf (c : Ctx) (e : Nat) : Shape :=
  let f := (cfgField c e 6).toNat
  { rows := f % 16, cols := f / 16 % 16, region := f / 256 % 32, bound := f / 8192 % 4, lanes := laneNum c e,
    width := cellWidth c e, level := (cfgField c e 10).toNat }

def Shape.ry (h : Shape) : Nat := (h.rows - 1) / 2
def Shape.rx (h : Shape) : Nat := (h.cols - 1) / 2

/-- Positions by which an output follows the arrival of its row: ⌈rx ÷ lanes⌉. -/
def Shape.lag (h : Shape) : Nat := (h.rx + h.lanes - 1) / h.lanes

def Win.zero : Win :=
  { cols := [], plane := 0, rows := 0, rowOpen := false, ended := true, width := none, held := [], out := [], sent := none,
    lastOut := none, lastIn := none }

def winOf (c : Ctx) (e : Nat) : Win := tabGet Win.zero c.fab.wins e
def setWin (s : State) (e : Nat) (w : Win) : State := { s with me.fab.wins := tabPut Win.zero s.me.fab.wins e w }

/-! ## Taps (12 R281) -/

/-- map of 09 R206 in the codes of the window unit: 0 mirror without repeat, 1 mirror with repeat, 2 constant. -/
def winMap (bound : Nat) (i : Int) (n : Nat) : Option Int := boxMap (bound + 1) i n

/-- The element at a row and column of the plane, from the columns held; the newest row held is `last`. -/
def heldElem (h : Shape) (w : Win) (last : Nat) (row col : Int) : Nat :=
  lane (((w.cols.getD (col.toNat / h.lanes) []).getD (last - row.toNat) 0)) h.width (col.toNat % h.lanes)

/-- The token of tap (dy, dx) at output row y, position p. High rows and columns of the plane are bounded once known. -/
def tapToken (c : Ctx) (e : Nat) (h : Shape) (w : Win) (y p : Nat) (dy dx : Int) : Token :=
  let last := if w.rowOpen then w.rows else w.rows - 1
  let high := if w.ended then w.rows else last + 1
  let wide := h.lanes * (match w.width with | some t => t | none => w.cols.length)
  let elem := fun (i : Nat) =>
    match winMap h.bound ((y : Int) + dy) high, winMap h.bound ((h.lanes * p + i : Nat) + dx) wide with
    | some r, some k => heldElem h w last r k
    | _, _ => lane (wideField c e 16) h.width i
  tokD (BitVec.ofNat 64 (joinLanes h.width ((List.range h.lanes).map elem)))

/-- Every tap of the window with its row and column offsets. -/
def tapsOf (h : Shape) : List (Nat × Int × Int) :=
  (List.range 81).filterMap (fun t =>
    let dy : Int := (t / 9 : Nat) - 4
    let dx : Int := (t % 9 : Nat) - 4
    if dy.natAbs ≤ h.ry ∧ dx.natAbs ≤ h.rx then some (t, dy, dx) else none)

/-- The next output presented on every tap at once, when every cell that reads a tap has a free slot (12 R282). -/
def emitTap (e : Nat) (s : State) : Act :=
  let w := winOf s.me e
  let h := shapeOf s.me e
  let taps := (tapsOf h).map (fun t => (t, tapReaders s.me (e / 8) t.1))
  if taps.any (fun t => t.2.any (fun r => r.2 ≤ (queueOf s.me r.1).length)) then .wait
  else match w.out with
    | [] => .wait
    | (pos, tok) :: rest =>
      let value := fun (t : Nat × Int × Int) => match pos with
        | none => tok
        | some (y, p) => tapToken s.me e h w y p t.2.1 t.2.2
      let c := taps.foldl (fun k t => t.2.foldl (fun k r => setQueue k r.1 (queueOf k r.1 ++ [value t.1])) k) s.me
      let sent := match pos with
        | none => w.sent
        | some (y, p) => some (w.plane, BitVec.ofNat 16 y, BitVec.ofNat 16 (h.lanes * p + h.lanes - 1))
      let s1 := setWin { s with me := c } e { w with out := rest, lastOut := w.sent, sent := sent }
      .fire (if pos.isNone ∧ tok.kind = 15#4 ∧ isSink s.me e then sinkDone s1 (e * 4) else s1) []

/-! ## Input (12 R281, R282, 11 R259) -/

/-- The window address of position x of line queue q. -/
def lineAt (r : Region) (width : Option Nat) (q x : Nat) : Nat := r.base + 8 * (q * width.getD 0 + x)

/-- The address of an uncorrectable word among the tokens that the line queues hold at a position (08 R183). -/
def lineLost (s : State) (r : Region) (h : Shape) (w : Win) (x : Nat) : Option Nat :=
  ((List.range (if w.width.isSome then Nat.min w.rows (h.rows - 1) else 0)).map (fun q => lineAt r w.width q x)).find? (fun a =>
    winLost s s.me.id.core a 8)

/-- The token at a position of each line queue, read before any is moved. -/
def lineRead (s : State) (r : Region) (h : Shape) (w : Win) (x : Nat) : List Word :=
  (List.range (h.rows - 1)).map (fun q => BitVec.ofNat 64 (winNat s s.me.id.core (lineAt r w.width q x) 8))

/-- Each old token moves one queue older, and the new one enters queue 0. In the first row of a plane, whose length is not
known, only queue 0 is written. -/
def lineWrite (s : State) (r : Region) (h : Shape) (w : Win) (x : Nat) (vs : List Word) : State :=
  ((vs.take (if w.width.isSome then h.rows - 1 else Nat.min 1 (h.rows - 1))).zipIdx).foldl (fun t v =>
    let a := lineAt r w.width v.2 x
    if a + 8 ≤ r.base + r.size then winPut t t.me.id.core a 8 v.1.toNat else t) s

/-- A data token of the present row arrives at its next position. -/
def winData (e : Nat) (s : State) (t : Token) : Act :=
  let w0 := winOf s.me e
  let h := shapeOf s.me e
  let r := region s.me h.region
  let w := if w0.ended then { w0 with rows := 0, cols := [], ended := false, rowOpen := true, width := none,
                                      plane := if w0.rows = 0 then w0.plane else w0.plane + 1 }
           else if w0.rowOpen then w0 else { w0 with cols := [], rowOpen := true }
  let x := w.cols.length
  if 1 < h.rows ∧ r.size ≠ 0 ∧ r.tag ≠ 1#3 then faultAt s.me e 0 0x0A (BitVec.ofNat 64 (r.base + 8 * x))
  else match lineLost s r h w x with
  | some a => stopAt s.me e 0 (.fault (winTrap s.me.id.core a))
  | none =>
    let old := lineRead s r h w x
    let s1 := lineWrite s r h w x (t.val :: old)
    let out := if h.ry ≤ w.rows ∧ h.lag ≤ x then [(some (w.rows - h.ry, x - h.lag), tokZ)] else []
    let place := (w.plane, BitVec.ofNat 16 w.rows, BitVec.ofNat 16 (h.lanes * x + h.lanes - 1))
    .fire (setWin (consume s1 e [0]) e { w with cols := w.cols ++ [t.val :: old], out := out, lastIn := some place }) []

/-- What leaves for an input stop Sk: Sk without a level; with level L the stop S(k − L), and nothing up to SL (11 R254; DEDUCED, log 83). -/
def stopOut (h : Shape) (k : Nat) : List (Option (Nat × Nat) × Token) :=
  if h.level = 0 then [(none, tokStop k)] else if h.level < k then [(none, tokStop (k - h.level))] else []

/-- What leaves for a held token: a stop by its level, 0 an X. -/
def heldTok (h : Shape) (k : BitVec 3) : List (Option (Nat × Nat) × Token) := if k = 0#3 then [(none, tokX)] else stopOut h k.toNat

/-- The held tokens of output row y, in order. -/
def heldStops (h : Shape) (w : Win) (y : Nat) : List (Option (Nat × Nat) × Token) :=
  (w.held.filter (fun k => k.1 = y)).flatMap (fun k => heldTok h k.2)

/-- Output row y from position p on, with the stops that close it. -/
def outRow (h : Shape) (w : Win) (width y p : Nat) : List (Option (Nat × Nat) × Token) :=
  ((List.range (width - p)).map (fun i => (some (y, p + i), tokZ))) ++ heldStops h w y

/-- The rows of a plane that are still to leave when it ends: H − ry to H − 1. -/
def lastRows (h : Shape) (w : Win) (width : Nat) : List (Option (Nat × Nat) × Token) :=
  ((List.range w.rows).filter (fun y => w.rows ≤ y + h.ry)).flatMap (fun y => outRow h w width y 0)

/-- A size fault of a window unit: the offending count with its code (12 R281). -/
def sizeFault (s : State) (e code count : Nat) : Act :=
  faultAt s.me e 0 0x0F (BitVec.ofNat 64 (count % 2 ^ 32 + code * 2 ^ 32))

/-- The faults of a row of t tokens that a stop ends. -/
def rowFault (s : State) (e : Nat) (h : Shape) (w : Win) (t : Nat) : Option Act :=
  let n := h.lanes * t
  let r := region s.me h.region
  if w.width.any (· ≠ t) then some (sizeFault s e 1 n)
  else if r.size < (h.rows - 1) * 8 * t then some (sizeFault s e 2 n)
  else if (h.bound = 0 ∧ n < (h.cols + 1) / 2) ∨ (h.bound = 1 ∧ n < (h.cols - 1) / 2) then some (sizeFault s e 4 n)
  else none

/-- The fault of a plane of n rows. -/
def planeFault (s : State) (e : Nat) (h : Shape) (n : Nat) : Option Act :=
  if (h.bound = 0 ∧ n < (h.rows + 1) / 2) ∨ (h.bound = 1 ∧ n < (h.rows - 1) / 2) then some (sizeFault s e 3 n) else none

/-- The end of the plane: its last rows are due; the line queues are discarded. -/
def endPlane (h : Shape) (w : Win) : Win :=
  let w1 := { w with ended := true, rowOpen := false }
  { w1 with out := w1.out ++ lastRows h w1 (w1.width.getD 0), held := [] }

/-- A stop: the first of its run ends a row; level 2 or higher ends the plane (18 R398). -/
def winStop (e : Nat) (s : State) (t : Token) : Act :=
  let w := winOf s.me e
  let h := shapeOf s.me e
  let fire := fun (v : Win) => Act.fire (setWin (consume s e [0]) e v) []
  let level : BitVec 3 := BitVec.ofNat 3 t.level
  let afterRow := w.rowOpen || (w.ended && w.lastIn.isNone && w.rows = 0)
  if afterRow then
    let n := if w.rowOpen then w.cols.length else 0
    match rowFault s e h w n with
    | some a => a
    | none =>
      let r := w.rows
      let w1 := { w with rows := r + 1, rowOpen := false, ended := false, width := some n,
                         held := w.held ++ [(r, level)] }
      let w2 := if h.ry ≤ r then
          { w1 with out := outRow h w1 n (r - h.ry) (n - h.lag), held := w1.held.filter (fun k => k.1 ≠ r - h.ry) } else w1
      if t.level < 2 then fire w2
      else match planeFault s e h w2.rows with
        | some a => a
        | none => fire (endPlane h w2)
  else if w.ended then fire { w with out := stopOut h t.level }
  else
    let w1 := { w with held := w.held ++ [(w.rows - 1, level)] }
    let w2 := if h.ry = 0 then { w1 with out := stopOut h t.level, held := [] } else w1
    if t.level < 2 then fire w2
    else match planeFault s e h w2.rows with
      | some a => a
      | none => fire (endPlane h w2)

/-- An X passes as the stops do: after the output row that its preceding stop closed (12 R282). -/
def winX (e : Nat) (s : State) (t : Token) : Act :=
  let w := winOf s.me e
  let fire := fun (v : Win) => Act.fire (setWin (consume s e [0]) e v) []
  if w.ended ∨ w.rows = 0 ∨ (shapeOf s.me e).ry = 0 then fire { w with out := [(none, t)] }
  else fire { w with held := w.held ++ [(w.rows - 1, 0)] }

/-- One move of a window unit: what is due on the taps goes first, then the next input token is taken. -/
def actLqw (e : Nat) (s : State) : Act :=
  let w := winOf s.me e
  if !w.out.isEmpty then emitTap e s
  else match headsOf s.me e [0] with
    | .error a => a
    | .ok ((_, some t) :: _) =>
      if t.kind = 1#4 then malformed s.me e 0 t 10
      else if t.kind = 0#4 then winData e s t
      else if t.isStop then winStop e s t
      else if t.kind = 4#4 then .fire (setWin (consume s e [0]) e { Win.zero with out := [(none, t)] }) []
      else if t.kind = 15#4 then
        let h := shapeOf s.me e
        if w.ended then .fire (setWin (consume s e [0]) e { w with out := [(none, t)] }) []
        else match planeFault s e h w.rows with
          | some a => a
          | none =>
            let v := endPlane h w
            .fire (setWin (consume s e [0]) e { v with out := v.out ++ [(none, t)] }) []
      else winX e s t
    | .ok _ => .wait

def execCellLqw (i : BitVec 6) (s : State) : Host.Outcome State Fault Refusal := cellMove i 0x49 actLqw s

end Sys2Proof.Machine
end

