-- ==== Sys2Proof/Machine/Streams.lean ====
section
/-! DEFINITION. Edge-engine streams (09 R201 to R203, R208): reads, writes and gathers, their commit positions and the
acknowledgement of stores. -/

namespace Sys2Proof.Machine

/-! ## Shape of a stream (09 R201, R202) -/

def Strm.zero : Strm :=
  { live := false, sentG := false, finished := false, next := 0, run := 0, atStop := false, trits := [], commit := 0, unacked := [] }

def strmOf (c : Ctx) (e n : Nat) : Strm := tabGet Strm.zero c.fab.strms (e * 4 + n)
def setStrm (s : State) (e n : Nat) (x : Strm) : State := { s with me.fab.strms := tabPut Strm.zero s.me.fab.strms (e * 4 + n) x }

/-- The element address of an engine, and the key of a stream among the sinks. -/
def engineElem (e : Nat) : Nat := 0x0C0 + e
def strmKey (e n : Nat) : Nat := engineElem e * 4 + n

/-- The queue of a stream: what a read has fetched, or what a write or gather is given. -/
def strmQueue (e n : Nat) : Nat := inKey (engineElem e) n

def strmFault (c : Ctx) (e n : Nat) : Nat := (streamField c e n 0).toNat / 8 % 4
def strmSize (c : Ctx) (e n : Nat) : Nat := 2 ^ ((streamField c e n 0).toNat / 32 % 4)
def strmPack (c : Ctx) (e n : Nat) : Nat := (streamField c e n 0).toNat / 128 % 8
def strmWindow (c : Ctx) (e n : Nat) : Bool := (streamField c e n 0).getLsbD 10
def strmBase (c : Ctx) (e n : Nat) : Word := wideField c (engineElem e) (16 * n + 2)

/-- The extents of the present levels, level 0 first. -/
def extents (c : Ctx) (e n : Nat) : List Nat :=
  ((List.range 5).map (fun k => (streamField c e n (6 + k)).toNat)).takeWhile (· ≠ 0)

/-- Σ iₖ × strideₖ of the memory element with flat index i. -/
def strideSum (c : Ctx) (e n : Nat) : Nat → List Nat → Nat → Int
  | _, [], _ => 0
  | k, x :: xs, i => ((i % x : Nat) : Int) * (streamField c e n (11 + k)).toInt + strideSum c e n (k + 1) xs (i / x)

/-- The address of the memory element with flat index i. -/
def elemAddr (c : Ctx) (e n i : Nat) : Word :=
  strmBase c e n + BitVec.ofInt 64 ((strmSize c e n : Int) * strideSum c e n 0 (extents c e n) i)

/-- Elements of a level-0 run as the stream counts them: destination elements under packing (09 R208). A read's memory
elements are its source, a write's its destination. -/
def runLength (c : Ctx) (e n : Nat) : Nat :=
  let e0 := (extents c e n).headD 0
  if streamMode c e n = 1 then (if strmPack c e n = 1 then e0 / 5 else if strmPack c e n = 2 then 5 * e0 else e0) else e0

/-- Number of level-0 runs. -/
def runCount (c : Ctx) (e n : Nat) : Nat := ((extents c e n).drop 1).foldl (· * ·) 1

/-- Elements that one token carries: lanes of 8 bytes, or one F token. -/
def strmLanes (c : Ctx) (e n : Nat) : Nat := 8 / strmSize c e n

/-- The elements of the token that starts at element i of a read. -/
def tokenElems (c : Ctx) (e n i : Nat) : Nat := Nat.min (strmLanes c e n) (runLength c e n - i % runLength c e n)

/-- The highest k such that the runs of levels below k are complete after q level-0 runs. -/
def stopLevel : List Nat → Nat → Nat
  | [], _ => 1
  | x :: xs, q => if q % x = 0 then 1 + stopLevel xs (q / x) else 1

/-- A UNP3 cell is the only consumer of a stream (12 R275). -/
def feedsUnp3 (c : Ctx) (e n : Nat) : Bool :=
  match readers c (0x3000 + 4 * n + e) with
  | [r] => isCell (r.1 / 128) && opOf c (r.1 / 128) = 0x30
  | _ => false

/-- The regions that a stream may read or write (08 R164). -/
def strmTags (c : Ctx) (e n : Nat) : List (BitVec 3) :=
  let p := strmPack c e n
  let t5 : Bool := if streamMode c e n = 1 then decide (p = 2) || feedsUnp3 c e n else decide (p = 1)
  if p = 3 then [0, 3] else if t5 then packedTags else plainTags

/-- A fault of a stream: input none, position its commit position (05 R103). -/
def strmStop (c : Ctx) (e n : Nat) (t : Trap) : Act := .stop 3 (strmOf c e n).commit.toNat t.cause t.value 0 0 0 (some t)

def strmEnd (c : Ctx) (e n : Nat) : Stop → Act
  | .fault t => strmStop c e n t
  | .hold f => .hold f

/-- A token that a stream refuses. -/
def strmBad (c : Ctx) (e n : Nat) (t : Token) (check : BitVec 4) : Act :=
  .stop 3 (strmOf c e n).commit.toNat 0x0B t.val check t.kind 0 none

/-! ## Reads -/

/-- One memory element of a stream. -/
def readElem (s : State) (e n i : Nat) : Except Stop (State × Bool × Nat) :=
  spaceRead s (graphPriv s (engineElem e)) (strmWindow s.me e n) (strmTags s.me e n) (elemAddr s.me e n i) (strmSize s.me e n)

/-- The five trits from memory element i on, packed into a T5 byte; a trit outside −1 … 1 is a bad-packing fault. -/
def packFrom (s : State) (e n i : Nat) : Nat → Except Stop (State × Bool × List Nat)
  | 0 => .ok (s, false, [])
  | k + 1 => do
    let (t, far, ds) ← packFrom s e n i k
    let (u, far1, v) ← readElem t e n (i + k)
    match tritDigit (BitVec.ofNat 8 v) with
    | none => .error (.fault { cause := 0x0C, value := BitVec.ofNat 64 v })
    | some d => .ok (u, far || far1, ds ++ [d])

/-- Destination element j of a read: copied, packed from five trits, or one trit of a byte (09 R208, 03 R58). -/
def streamElem (s : State) (e n j : Nat) : Except Stop (State × Bool × Nat) :=
  let r := runLength s.me e n
  let e0 := (extents s.me e n).headD 0
  let at0 := fun (i : Nat) => j / r * e0 + i
  if strmPack s.me e n = 1 then do
    let (t, far, ds) ← packFrom s e n (at0 (5 * (j % r))) 5
    .ok (t, far, t5Pack ds)
  else if strmPack s.me e n = 2 then do
    let (t, far, v) ← readElem s e n (at0 (j % r / 5))
    let b := BitVec.ofNat 8 v
    if t5Legal b then .ok (t, far, ((tritBytes (t5Digits b)).getD (j % r % 5) 0).toNat)
    else if strmFault s.me e n = 0 then .error (.fault { cause := 0x0C, value := b.setWidth 64 })
    else .ok (if j % r % 5 = 0 then countBad t (engineElem e) 1 else t, far, 0)
  else readElem s e n (at0 (j % r))

/-- The lanes of one token, lane 0 first. -/
def streamLanes (s : State) (e n j : Nat) : Nat → Except Stop (State × Bool × List Nat)
  | 0 => .ok (s, false, [])
  | k + 1 => do
    let (t, far, vs) ← streamLanes s e n j k
    let (u, far1, v) ← streamElem t e n (j + k)
    .ok (u, far || far1, vs ++ [v])

/-- A token whose element lies on another module is a remote delivery of 8 bytes: an armed KINJ of the engine inverts its bit
(21 R403, 05 R105). -/
def injectTok (s : State) (e : Nat) (far : Bool) (v : Word) : State × Word :=
  let k := s.me.sys.inj
  let bit := (k.extractLsb' 4 9).toNat
  if far ∧ k.getLsbD 0 ∧ (k.extractLsb' 1 2).toNat = e ∧ bit < 64 then
    ({ s with me.sys.inj := k &&& 0x1FFE#13 }, v ^^^ BitVec.ofNat 64 (2 ^ bit))
  else (s, v)

/-- A token behind the others of a stream's queue. -/
def fetchTok (s : State) (e n : Nat) (t : Token) (x : Strm) : Act :=
  .fire (setStrm { s with me := setQueue s.me (strmQueue e n) (queueOf s.me (strmQueue e n) ++ [t]) } e n x) []

/-- Is the graph of an element draining (12 R299)? -/
def draining (s : State) (e : Nat) : Bool := match graphAt s e with | some (_, g) => g.state == 3#2 | none => false

/-- The next token of a read stream enters its queue: G; a token of elements; the stop of a completed run; after the last
element S_L and Z (09 R202, 18 R397). A draining stream goes on to S_L and Z after its current element. -/
def actFetch (e n : Nat) (s : State) : Act :=
  let x := strmOf s.me e n
  let c := s.me
  let deep := (extents c e n).length
  let total := runLength c e n * runCount c e n
  if !x.live || 8 ≤ (queueOf c (strmQueue e n)).length then .wait
  else if !x.sentG then fetchTok s e n tokG { x with sentG := true }
  else if x.finished then fetchTok s e n tokZ { x with live := false }
  else if x.atStop ∧ x.next < total ∧ ¬ draining s (engineElem e) then
    fetchTok s e n (tokStop (stopLevel ((extents c e n).drop 1) (x.next / runLength c e n))) { x with atStop := false }
  else if total ≤ x.next ∨ draining s (engineElem e) then fetchTok s e n (tokStop deep) { x with finished := true }
  else
    let k := tokenElems c e n x.next
    match streamLanes s e n x.next k with
    | .error p => strmEnd c e n p
    | .ok (t, far, vs) =>
      let raw := BitVec.ofNat 64 (joinLanes (8 * strmSize c e n) vs)
      let (u, v) := injectTok t e far raw
      fetchTok u e n { kind := if strmPack c e n = 3 then 1 else 0, val := v }
        { x with next := x.next + k, atStop := decide ((x.next + k) % runLength c e n = 0) }

/-- The head of a read stream's queue leaves for its readers, at the rate its port is metered to; its elements commit (09
R203, 17 R393). -/
def actDeliver (e n : Nat) (s : State) : Act :=
  match queueOf s.me (strmQueue e n) with
  | [] => .wait
  | t :: ts =>
    let rs := readers s.me (0x3000 + 4 * n + e)
    if rs.any (fun r => r.2 ≤ (queueOf s.me r.1).length) || !meterOpen s (engineElem e) (4 * e + n) then .wait
    else
      let x := strmOf s.me e n
      let k := if t.isData then tokenElems s.me e n x.commit.toNat else 0
      let c := rs.foldl (fun k r => setQueue k r.1 (queueOf k r.1 ++ [t])) (setQueue s.me (strmQueue e n) ts)
      let s1 := meterCount (setStrm { s with me := c } e n { x with commit := x.commit + BitVec.ofNat 48 k }) (4 * e + n)
      .fire (if t.kind = 15#4 ∧ rs.isEmpty then sinkDone s1 (strmKey e n) else s1) []

/-- A move of a stream in its mode. -/
def streamMove (e n : BitVec 2) (mode : Nat) (act : Nat → Nat → State → Act) (s : State) : Host.Outcome State Fault Refusal :=
  if streamMode s.me e.toNat n.toNat = mode ∧ moves s (engineElem e.toNat) then
    let s1 := { s with me := pullPorts s.me [(streamField s.me e.toNat n.toNat 1).toNat] }
    .next (settle s1 (engineElem e.toNat) (act e.toNat n.toNat s1))
  else .next s

def actRead (e n : Nat) (s : State) : Act :=
  match actDeliver e n s with
  | .wait => actFetch e n s
  | a => a

def execStreamRead (e : BitVec 2) (n : BitVec 2) (s : State) : Host.Outcome State Fault Refusal := streamMove e n 1 actRead s

/-! ## Writes -/

/-- The head of a stream's input after its grammar check. -/
def strmHead (s : State) (e n : Nat) (k : Token → Act) : Act :=
  match queueOf s.me (strmQueue e n) with
  | [] => .wait
  | t :: _ =>
    match checkAt s.me (streamField s.me e n 1).toNat (strmQueue e n) t with
    | .error d => strmBad s.me e n t d
    | .ok _ => k t

/-- The head of a stream's input consumed. -/
def strmTake (s : State) (e n : Nat) (t : Token) : State :=
  let c := setQueue s.me (strmQueue e n) ((queueOf s.me (strmQueue e n)).drop 1)
  { s with me := if isChecked (streamField s.me e n 1).toNat then moveCheck c (strmQueue e n) t else c }

/-- The values that a token's lanes are written as, with trits left over for the next byte (09 R208). -/
def writeValues (c : Ctx) (e n : Nat) (x : Strm) (t : Token) : Except Trap (List Nat × List Byte × Nat) :=
  let size := strmSize c e n
  let lanes := (List.range (8 / size)).map (lane t.val (8 * size))
  if strmPack c e n = 1 then
    let all := x.trits ++ lanes.map (BitVec.ofNat 8)
    let groups := (List.range (all.length / 5)).map (fun i => (all.drop (5 * i)).take 5)
    match (groups.take (runLength c e n - x.next)).flatten.find? (fun b => (tritDigit b).isNone) with
    | some b => .error { cause := 0x0C, value := b.setWidth 64 }
    | none => .ok (groups.map (fun g => t5Pack (g.map (fun b => (tritDigit b).getD 0))), all.drop (5 * (all.length / 5)), 0)
  else if strmPack c e n = 2 then
    let used := (lanes.take ((runLength c e n - x.next + 4) / 5)).map (BitVec.ofNat 8)
    match (if strmFault c e n = 0 then used.find? (fun b => !t5Legal b) else none) with
    | some b => .error { cause := 0x0C, value := b.setWidth 64 }
    | none => .ok ((used.map byteTrits).flatten.map (fun b => b.toNat), [], (used.filter (fun b => !t5Legal b)).length)
  else .ok (lanes, [], 0)

/-- Values written at successive memory elements from flat index i. -/
def writeElems (s : State) (e n i : Nat) : List Nat → Except Stop State
  | [] => .ok s
  | v :: vs => do
    let t ← spaceWrite s (graphPriv s (engineElem e)) (strmWindow s.me e n) (strmTags s.me e n) (elemAddr s.me e n i)
      (strmSize s.me e n) v
    writeElems t e n (i + 1) vs

/-- The first run of the level-k fibre that follows the one of run q. -/
def nextRun (exts : List Nat) (k q : Nat) : Nat :=
  let block := (exts.take (k - 1)).foldl (· * ·) 1
  (q / block + 1) * block

/-- A firing of a write stream. A stop behind a lower one counts from the run which that one ended (DESIGN CHOICE, log 96). -/
def actWrite (e n : Nat) (s : State) : Act :=
  let x := strmOf s.me e n
  let c := s.me
  let fire := fun (t : Token) (s1 : State) (y : Strm) => Act.fire (setStrm (strmTake s1 e n t) e n y) []
  let runs := runCount c e n
  let wide := runLength c e n
  strmHead s e n (fun t =>
    if t.kind = 4#4 then fire t s x
    else if t.kind = 15#4 then fire t (sinkDone s (strmKey e n)) { x with live := false }
    else if t.isStop then
      let q := if x.atStop then x.run - 1 else x.run
      if (extents c e n).length < t.level ∨ (runs ≤ x.run ∧ ¬ x.atStop) then strmBad c e n t 10
      else fire t s { x with run := nextRun ((extents c e n).drop 1) t.level q, next := 0, atStop := true, trits := [] }
    else if t.kind ≠ (if strmPack c e n = 3 then 1#4 else 0#4) then strmBad c e n t 10
    else if runs ≤ x.run ∨ (runs = x.run + 1 ∧ wide ≤ x.next) then strmBad c e n t 10
    else if 0xFFF0 ≤ unackOf c (strmKey e n) then .wait
    else match writeValues c e n x t with
      | .error f => strmStop c e n f
      | .ok (vs, rest, bad) =>
        let vs := vs.take (wide - x.next)
        match writeElems s e n (x.run * wide + x.next) vs with
        | .error p => strmEnd c e n p
        | .ok s1 =>
          let y := { x with next := x.next + vs.length, trits := rest, atStop := false }
          if vs.isEmpty then fire t s1 y
          else
            let s2 := countBad { s1 with me := setUnack s1.me (strmKey e n) (unackOf s1.me (strmKey e n) + 1) } (engineElem e) bad
            fire t s2 { y with unacked := y.unacked ++ [vs.length] })

def execStreamWrite (e : BitVec 2) (n : BitVec 2) (s : State) : Host.Outcome State Fault Refusal := streamMove e n 2 actWrite s

/-! ## Gathers -/

def actGather (e n : Nat) (s : State) : Act :=
  let x := strmOf s.me e n
  let c := s.me
  let rs := readers c (0x3000 + 4 * n + e)
  let emit := fun (t out : Token) (s1 : State) (y : Strm) =>
    let s2 := strmTake s1 e n t
    let k := rs.foldl (fun k r => setQueue k r.1 (queueOf k r.1 ++ [out])) s2.me
    let s3 := setStrm { s2 with me := k } e n y
    Act.fire (if t.kind = 15#4 ∧ rs.isEmpty then sinkDone s3 (strmKey e n) else s3) []
  if rs.any (fun r => r.2 ≤ (queueOf c r.1).length) then .wait
  else strmHead s e n (fun t =>
    if t.kind = 0#4 ∨ t.kind = 3#4 then strmBad c e n t 10
    else if t.kind = 1#4 ∧ t.value ≠ absent then
      match spaceRead s (graphPriv s (engineElem e)) (strmWindow c e n) (strmTags c e n)
          (strmBase c e n + BitVec.ofNat 64 (strmSize c e n * t.value.toNat)) (strmSize c e n) with
      | .error p => strmEnd c e n p
      | .ok (s1, _, v) => emit t (tokF t.coord (BitVec.ofNat 32 v)) s1 { x with commit := x.commit + 1 }
    else emit t t s (if t.kind = 15#4 then { x with live := false } else x))

def execStreamGather (e : BitVec 2) (n : BitVec 2) (s : State) : Host.Outcome State Fault Refusal := streamMove e n 3 actGather s

/-! ## Acknowledgements (01 R17, 09 R202, 12 R278) -/

/-- The oldest store of a memory node is acknowledged. -/
def ackNode : List NodeOp → List NodeOp
  | [] => []
  | o :: os => if o.isStore && !o.done then { o with done := true } :: os else o :: ackNode os

def lowerUnack (s : State) (key : Nat) : State := { s with me := setUnack s.me key (unackOf s.me key - 1) }

/-- STORE_ACKNOWLEDGE at an element: a sink's oldest store is acknowledged, its count falls, and a stream's elements commit. -/
def storeAck (e : Nat) (s : State) : State :=
  if engineElem 0 ≤ e ∧ e ≤ engineElem 3 then
    let g := e - engineElem 0
    match (List.range 4).find? (fun n => !(strmOf s.me g n).unacked.isEmpty) with
    | none => s
    | some n =>
      let x := strmOf s.me g n
      let k := x.unacked.headD 0
      lowerUnack (setStrm s g n { x with unacked := x.unacked.drop 1, commit := x.commit + BitVec.ofNat 48 k }) (strmKey g n)
  else if unackOf s.me (e * 4) = 0 then s
  else lowerUnack { s with me := setNodes s.me e (ackNode (nodeOps s.me e)) } (e * 4)

def execStoreAcknowledge (e : BitVec 10) (s : State) : Host.Outcome State Fault Refusal := .next (storeAck e.toNat s)

end Sys2Proof.Machine
end

