-- ==== Sys2Proof/Machine/Graph.lean ====
section
/-! DEFINITION. Configuration words (04 R84 to R95, 07 R142, 08 R163, 09 R201, 13 R311), and the instructions that start,
drain, abort, resume and watch graphs with the completion of a graph (12 R295 to R301, 01 R16 to R19). -/

namespace Sys2Proof.Machine

/-! ## Legal values of one field (04 R87 to R94) -/

/-- A source code of one of the listed kinds with an index inside its kind (04 R89). -/
def sourceOk (kinds : List Nat) (v : Nat) : Bool :=
  let limit := [0, 0xFF, 0xF, 0xF, 80, 0xF, 0x3F, 0, 0x3F]
  kinds.contains (v / 4096) && v % 4096 ≤ limit.getD (v / 4096) 0

def dataKinds : List Nat := [0, 1, 2, 3, 4, 5, 6, 7]

/-- A format code by class: every integer type, or a float format that is not reserved (03 R52). -/
def fmtCodeOk (int : Bool) (code : Nat) : Bool := int || code < 6

/-- Field 1 of a cell or fibre element, taken alone (04 R88, R94; 12 R289). A fibre element has no FCVT, so a nonzero fmt2 or class2 is refused
at its word, where R95 leaves these fields against the operation to GO (DESIGN CHOICE, log 79). -/
def formatOk (fibre : Bool) (v : BitVec 16) : Bool :=
  let int := v.getLsbD 8
  let fmt : BitVec 3 := v.extractLsb' 0 3
  let lanes := (v.extractLsb' 5 3).toNat
  v.extractLsb' 13 3 == 0#3 && fmtCodeOk int fmt.toNat && fmtCodeOk (v.getLsbD 12) (v.extractLsb' 9 3).toNat
    && codeWidth int fmt * 2 ^ lanes ≤ 64
    && (!fibre || (lanes = 0 && v.extractLsb' 9 4 == 0#4 && codeWidth int fmt ≤ 32))

/-- The operation codes of cells (04 R92). -/
def cellCodes : List Nat :=
  [0x00, 0x01, 0x02, 0x03, 0x04, 0x10, 0x11, 0x12, 0x13, 0x14, 0x15, 0x16, 0x17, 0x18, 0x19, 0x1A, 0x1B, 0x1C, 0x20, 0x21,
   0x22, 0x23, 0x24, 0x25, 0x26, 0x27, 0x28, 0x29, 0x2A, 0x2B, 0x2C, 0x30, 0x31, 0x38, 0x39, 0x40, 0x41, 0x42, 0x43, 0x48,
   0x49]

def cellWordOk (f : Nat) (w : BitVec 16) : Bool :=
  let v := w.toNat
  if f = 0 then cellCodes.contains v
  else if f = 1 then formatOk false w
  else if f ≤ 4 then sourceOk dataKinds v
  else if f = 5 then v < 128
  else if f ≤ 9 then true
  else if f = 10 then v ≤ 7
  else if f ≤ 12 then v ≤ 16
  else if f = 13 then sourceOk [0, 8] v
  else if f = 14 then v < 64 && v % 8 + v / 8 ≤ 4
  else if f = 15 then v ≤ 2
  else f < 32

def fibreWordOk (f : Nat) (w : BitVec 16) : Bool :=
  let v := w.toNat
  if f = 0 then v ≤ 7
  else if f = 1 then formatOk true w
  else if f ≤ 4 then sourceOk dataKinds v
  else if f = 5 then v < 128
  else if f = 10 then 1 ≤ v && v ≤ 7
  else if f = 11 ∨ f = 12 then v ≤ 31
  else if f = 15 then v ≤ 2
  else 16 ≤ f && f ≤ 19

def routerWordOk (f : Nat) (w : BitVec 16) : Bool :=
  let v := w.toNat
  if f = 0 then v ≤ 4
  else if f = 2 ∨ f = 3 then sourceOk dataKinds v
  else if f = 5 ∨ f = 6 then v < 128
  else if f = 13 then sourceOk [0, 8] v
  else false

/-- A field of an edge-engine stream (09 R201): the extent of level 0 is at least 1. -/
def streamWordOk (f : Nat) (w : BitVec 16) : Bool :=
  let v := w.toNat
  if f = 0 then v % 8 ≤ 3 && v / 8 % 4 ≤ 2 && v / 128 % 8 ≤ 3 && v < 2 ^ 11
  else if f = 1 then sourceOk [0, 1, 2, 3, 4, 5, 6] v
  else f ≠ 6 || v ≠ 0

/-- The format of the matrix array (07 R142). -/
def mxFormatOk (v : BitVec 16) : Bool :=
  let a := (v.extractLsb' 0 3).toNat
  let b := (v.extractLsb' 9 3).toNat
  v.extractLsb' 12 4 == 0#4 && v.extractLsb' 5 3 == 0#3
    && (if v.getLsbD 8 then a ≤ 1 && b ≤ 1 else ((a = 4 || a = 5) && (b = 4 || b = 5)) || (a = b && a ≤ 3))

def mxWordOk (f : Nat) (w : BitVec 16) : Bool :=
  let v := w.toNat
  if f = 0 then v ≤ 2
  else if f = 1 then mxFormatOk w
  else if f = 2 then v ≤ 1
  else if f = 3 then v < 512
  else f = 15 && v ≤ 2

def bankWordOk (f : Nat) (w : BitVec 16) : Bool :=
  let v := w.toNat
  if f = 0 ∨ f = 8 then v ≤ 4095
  else if f = 1 ∨ f = 9 then v ≤ 4096
  else if f = 2 ∨ f = 10 then v < 32 && v % 8 ≤ 5 && v / 8 ≤ 2
  else false

/-- A field of the core fabric interface (13 R311). -/
def portWordOk (f : Nat) (w : BitVec 16) : Bool :=
  let v := w.toNat
  if f = 0 then v ≤ 63 else if f = 3 then v < 512 else if f = 4 then v < 1024 else f ≤ 2

/-- A word that names an element and field of the machine with a value that is legal for the field alone. -/
def fieldOk (e f : Nat) (v : BitVec 16) : Bool :=
  if e < 0x40 then cellWordOk f v
  else if e < 0x48 then fibreWordOk f v
  else if 0x80 ≤ e ∧ e < 0xC0 then routerWordOk f v
  else if 0xC0 ≤ e ∧ e < 0xC4 then streamWordOk (f % 16) v
  else if e = 0xC8 then mxWordOk f v
  else if 0xD0 ≤ e ∧ e < 0xE0 then bankWordOk f v
  else e = 0xE0 && portWordOk f v

/-! ## The fate of a word (04 R95) -/

/-- Does the configuration of a context put an element of the core to use (01 R25)? -/
def inUse (c : Ctx) (e : Nat) : Bool :=
  if 0xC0 ≤ e ∧ e < 0xC4 then (List.range 4).any (fun n => streamMode c (e - 0xC0) n ≠ 0)
  else (isCell e || isFibre e || isRouter e) && opOf c e ≠ 0

/-- The context in the other set of the core of a context. -/
def otherSet (s : State) (id : CtxId) : Option CtxId :=
  let r := coreRec s id.core
  if r.setA.ctx = some id then r.setB.ctx else if r.setB.ctx = some id then r.setA.ctx else none

/-- The graph that an element of a context serves. -/
def graphOn (s : State) (id : CtxId) (g : GRef) : Option Graph :=
  (findCtx s { id with core := g.core }).bind (fun c => tabFind c.fab.graphs g.gid.toNat)

/-- A word that changes only the fault mode of an element (04 R95). -/
def onlyFault (c : Ctx) (e f : Nat) (v : BitVec 16) : Bool :=
  if 0xC0 ≤ e ∧ e < 0xC4 then f % 16 = 0 && (v ^^^ cfgField c e f) &&& 0xFFE7#16 == 0#16
  else !isRouter e && f = 15

/-- A word that a started graph keeps away from one of its elements. -/
def graphHolds (s : State) (c : Ctx) (e f : Nat) (v : BitVec 16) : Bool :=
  match (tabFind c.fab.marks e).bind (graphOn s c.id) with
  | none => false
  | some g => !(g.state == 2#2 && onlyFault c e f v)

/-- A context with one configuration field written. -/
def putField (c : Ctx) (e f : Nat) (v : BitVec 16) : Ctx := { c with fab.cfg := tabPut 0 c.fab.cfg (e * 64 + f) v }

/-- The conditions on a region's base and size, in place together (08 R163). -/
def regionOk (c : Ctx) (n : Nat) : Bool :=
  let r := region c n
  let lo := c.shareBase.toNat * 256
  r.size = 0 || (r.base + r.size ≤ 2 ^ 20 && lo ≤ r.base && r.base + r.size ≤ lo + (c.shareSize.toNat + 1) * 256
    && (List.range 32).all (fun m => m = n || (region c m).size = 0 || (region c m).base + (region c m).size ≤ r.base
         || r.base + r.size ≤ (region c m).base))

/-- The bytes of a region of a context become undefined: in window memory, or in the share image of its save area while its tables stand there
(19 R399, 15 R349; DESIGN CHOICE, log 9). -/
def scramble (s : State) (c : Ctx) (r : Region) : State :=
  let free := fun (m : List Host.Cell) (base : Nat) =>
    (List.range r.size).foldl (fun m i => memSet m (base + i) (Config.swizzledByte s.tick (r.base + i))) m
  if inArea s c.id then { s with mem := free s.mem (areaOf c + 0x100000 + (r.base - c.shareBase.toNat * 256)) }
  else { s with win := free s.win (winKey c.id.core r.base) }

/-- A word of a region's controller applied: `old` and `c` are the context before and after it. A swizzle changed while the region is absent counts
once the region is present. -/
def applyRegion (s : State) (old c : Ctx) (n : Nat) : State :=
  let changed := old.fab.swizzled.contains n || (region old n).swz != (region c n).swz
  let others := old.fab.swizzled.filter (· ≠ n)
  if (region c n).size = 0 then updCtx s c.id (fun d => { d with fab.cfg := c.fab.cfg, fab.swizzled := if changed then n :: others else others })
  else
    let s1 := updCtx s c.id (fun d => { d with fab.cfg := c.fab.cfg, fab.swizzled := others })
    if changed then scramble s1 c (region c n) else s1

/-- A configuration word that puts an element to use: the step is noted (01 R25), and a cell leaves ballast (17 R394), where it ran it (DESIGN
CHOICE, log 10). -/
def claimElem (s : State) (old c : Ctx) (e : Nat) : State :=
  if inUse old e || !inUse c e then s
  else
    let s1 := updCtx s c.id (fun d => { d with fab.cfgAt := tabPut 0 d.fab.cfgAt e s.tick })
    let die := (dieOf c.id.core).toNat
    let b := tabGet 0 s.gov.ballast die
    if isCell e && b ≠ 0 && Config.ballastRuns s.tick (c.id.core.toNat * 64 + e) then { s1 with gov.ballast := tabPut 0 s.gov.ballast die (b - 1) }
    else s1

/-- The array state of a context at its reset values (07 R141, R142). -/
def mxReset (m : Mx) : Mx :=
  { m with active := [], loading := [], activeTag := [], loadingTag := [], bank := [], held := [] }

/-- A change of claim, class, afmt or bfmt resets the array state; a change of rounding or fault mode keeps it (07 R142). -/
def mxChange (old : Ctx) (c : Ctx) : Ctx :=
  if cfgField old 0xC8 0 = cfgField c 0xC8 0 ∧ (cfgField old 0xC8 1 ^^^ cfgField c 0xC8 1) &&& 0xFFE7#16 = 0#16 then c
  else { c with mx := mxReset c.mx }

/-- Would a claim made now meet a claim of the Active context of the other set, one of the two being whole (07 R140)? -/
def claimMeets (s : State) (id : CtxId) (v : BitVec 16) : Bool :=
  match otherSet s id with
  | none => false
  | some o => isActive s o
      && ((v == 1#16 && claimOf s o != 0#16) || (v == 2#16 && claimOf s o == 1#16 && isActive s id))

/-- What becomes of a configuration word: applied, refused, or kept waiting for the matrix queue. -/
inductive Applied where
  | ok (s : State)
  | bad
  | wait

/-- ONE CONFIGURATION WORD AT A CONTEXT (04 R95). -/
def applyWord (s : State) (id : CtxId) (w : BitVec 32) : Applied :=
  match findCtx s id with
  | none => .bad
  | some c =>
    let e := (w.extractLsb' 22 10).toNat
    let f := (w.extractLsb' 16 6).toNat
    let v : BitVec 16 := w.extractLsb' 0 16
    let shared := match otherSet s id with
      | none => false
      | some o => (match findCtx s o with | none => false | some d => inUse d e)
    if !fieldOk e f v || graphHolds s c e f v || shared then .bad
    else if e = 0xE0 then
      .ok (updCtx s id (fun k =>
        if f = 0 then { k with fab.portSel := v.setWidth 6 }
        else { k with fab.ports := tabPut 0 k.fab.ports (k.fab.portSel.toNat * 8 + f) v }))
    else
      let k := putField c e f v
      if 0xD0 ≤ e then
        let n := 2 * (e - 0xD0) + f / 8
        if f % 8 ≤ 1 ∧ ¬ regionOk k n then .bad else .ok (applyRegion s c k n)
      else if e = 0xC8 ∧ f ≤ 1 ∧ ¬ c.mx.queue.isEmpty then (if c.mx.halted then .bad else .wait)
      else if e = 0xC8 ∧ f = 0 ∧ claimMeets s id v then .bad
      else .ok (claimElem (updCtx s id (fun d => mxChange d (putField d e f v))) c k e)

/-! ## CFG, CFGW (12 R295, R296) -/

/-- The cores of a region word, all in the core list. -/
def regionCores (s : State) (w : Word) : Option (List CoreId) :=
  let first := (w.extractLsb' 0 16).toNat
  let n := (w.extractLsb' 16 16).toNat
  let cores := ((ownerRec s s.me.id.part).coreList.filter (fun e => first ≤ e.1 && e.1 < first + n)).map (fun e => e.2)
  if n = 0 ∨ cores.length ≠ n then none else some cores

/-- The context on a core that the words of the context in focus reach (12 R296). -/
def cfgCtx (s : State) (core : CoreId) : CtxId := { s.me.id with core := core }

/-- A 4-byte plain load of a stream: the word, a fault, or a stall with its effect. -/
inductive Loaded where
  | word (s : State) (w : BitVec 32)
  | trap (t : Trap)
  | stall (s : State)

def streamWord (s : State) (va : Word) : Loaded :=
  match access { s with me.stalled := false } (priv s) va 4 needRead with
  | .trap t => .trap t
  | .stall t => .stall (hold t)
  | .ok t pa =>
    if !(inL1 t pa || reachable t pa) then .stall (contain t (myPart t))
    else match plainAccess t va pa 4 false (fun u => .ok (l1Read u pa 4 false).1) with
    | .error f => .trap f
    | .ok u =>
      if u.me.stalled then .stall u
      else .word u (BitVec.ofNat 32 (((findLine u.me (pa / 128)).map (fun l => lineNat l.data (pa % 128) 4)).getD 0))

/-- The words of a stream from va on, in order: the state they leave, and whether CFG completes, stalls or faults. -/
def applyStream (cores : List CoreId) (va : Word) (i : Nat) (here : CoreId) (s : State) : Nat → State × Option (Option Trap)
  | 0 => (s, none)
  | n + 1 =>
    match streamWord s va with
    | .trap t => (s, some (some t))
    | .stall t => (t, some none)
    | .word t w =>
      let bad : State × Option (Option Trap) :=
        (t, some (some { cause := 0x0F, value := BitVec.ofNat 64 (w.toNat + i * 2 ^ 32) }))
      if w.extractLsb' 16 16 = 0xFFFF#16 then
        match cores[(w.extractLsb' 0 16).toNat]? with
        | none => bad
        | some core => applyStream cores (va + 4) (i + 1) core t n
      else match applyWord t (cfgCtx t here) w with
        | .bad => bad
        | .wait => (hold t, some none)
        | .ok u => applyStream cores (va + 4) (i + 1) here u n

def execCfg (a b : Reg) (s : State) : Host.Outcome State Fault Refusal :=
  let op := readG s b
  match regionCores s op with
  | none => .next (takeTrap s { cause := 0x0F, value := op })
  | some cores =>
    match applyStream cores (readG s a) 0 (cores.headD 0) s (op.extractLsb' 32 32).toNat with
    | (t, none) => .next (nextPc t)
    | (t, some none) => .next t
    | (t, some (some f)) => .next (takeTrap (f.base.getD t) f)

def execCfgw (a b : Reg) (s : State) : Host.Outcome State Fault Refusal :=
  let w : BitVec 32 := (readG s a).setWidth 32
  let op := readG s b
  finish s
    (if op.extractLsb' 16 48 ≠ 0#48 then configFault op
     else match ownerCore s s.me.id.part op.toNat with
      | none => configFault op
      | some core =>
        match applyWord s (cfgCtx s core) w with
        | .bad => configFault (w.setWidth 64)
        | .wait => .ok (hold s)
        | .ok t => .ok (nextPc t))

/-! ## The checks of GO (12 R297) -/

/-- A read stream of packing 3 or a fibre element: what GO knows to carry F tokens (12 R269). -/
def knownF (c : Ctx) (code : Nat) : Bool :=
  code / 4096 = 2 || (code / 4096 = 3 && streamMode c (code % 4) (code / 4 % 4) = 1 && strmPack c (code % 4) (code / 4 % 4) = 3)

/-- Does an element in use drive the link that reaches router r from direction d (04 R91)? -/
def linkDriven (c : Ctx) (r d : Nat) : Bool :=
  match neighbour r d with
  | none => false
  | some r' => elemList.any (fun e => routerOf e = r' && opOf c e ≠ 0
      && (outPorts c e).any (fun p => (fanOf c e p).getLsbD ((d + 2) % 4)))

/-- A source that names an element in use, on a link inside the grid, a port that exists, a window unit of the row (04 R91,
12 R272, R280, R289). -/
def sourceUp (c : Ctx) (e code : Nat) : Bool :=
  let k := code / 4096
  if k = 1 then linkDriven c (code % 64) (code / 64 % 4)
  else if k = 2 then
    let op := opOf c (0x40 + code % 8)
    op ≠ 0 && (code / 8 % 2 = 0 || op = 2 || op = 3)
  else if k = 3 then streamMode c (code % 4) (code / 4 % 4) % 2 = 1
  else if k = 4 then isCell e && (List.range 8).any (fun i => opOf c (8 * (e / 8) + i) = 0x49)
  else true

/-- The fan-out mask of an output names links inside the grid, each with a reader behind it (04 R91, 12 R297). -/
def fanUp (c : Ctx) (e port : Nat) : Bool :=
  (List.range 4).all (fun d => !(fanOf c e port).getLsbD d || (match neighbour (routerOf e) d with
    | none => false
    | some r' => !(readers c (arrivalCode r' d)).isEmpty))

/-- An element that feeds the core fabric interface has a valid send port; that it has one only is a condition on the
interface (13 R311). -/
def sendsUp (c : Ctx) (e : Nat) : Bool :=
  !(outPorts c e).any (outSends c e)
    || (List.range 64).any (fun n => portField c n 3 / 64 % 4 = 3 && portField c n 4 % 1024 = e)

/-- The control network that an element names in field 13, if it names one, has a source (12 R288, R297). -/
def ctlUp (c : Ctx) (e : Nat) : Bool :=
  let v := (cfgField c e 13).toNat
  !((isCell e && opOf c e = 3) || (isRouter e && 2 ≤ opOf c e)) || v < 0x8000 || isControl c (v % 64)

/-- Conditions common to cells, fibre elements and routers: sources, needed inputs, fan-out, outputs and send ports. -/
def commonOk (c : Ctx) (e : Nat) : Bool :=
  (List.range (if isRouter e then 2 else 3)).all (fun i => sourceUp c e (sourceOf c e i))
    && (elemNeeds c e).all (fun i => sourceOf c e i ≠ 0)
    && (outPorts c e).all (fanUp c e)
    && (isSink c e || isControl c e || (isCell e && opOf c e = 0x49) || (outPorts c e).all (fun p => !outOpen c e p))
    && sendsUp c e && ctlUp c e

/-- The window unit of a cell's row, if it has one. -/
def rowUnit (c : Ctx) (e : Nat) : Option Nat := ((List.range 8).map (fun i => 8 * (e / 8) + i)).find? (fun u => opOf c u = 0x49)

/-- A reader of taps has the format and lanes of its window unit (12 R280). -/
def tapFormatOk (c : Ctx) (e : Nat) : Bool :=
  match rowUnit c e with
  | none => false
  | some u => (fmtField c e ^^^ fmtField c u) &&& 0x01E7#16 == 0#16

/-- Does a cell read taps? -/
def readsTaps (c : Ctx) (e : Nat) : Bool :=
  isCell e && (opOf c e = 0x48 || (opOf c e ≠ 0 && (List.range 3).any (fun i => sourceOf c e i / 4096 = 4)))

/-- A tap inside the window of the row's unit. -/
def tapInside (c : Ctx) (e t : Nat) : Bool :=
  match rowUnit c e with
  | none => false
  | some u => (tapsOf (shapeOf c u)).any (fun x => x.1 = t)

/-- Every condition on a window unit alone; its row has no second one (12 R280, R281). Field 10 is its level (11 R254). -/
def unitOk (c : Ctx) (e : Nat) : Bool :=
  let f := fun i => (cfgField c e i).toNat
  let odd := fun n => n % 2 = 1 && n ≤ 9
  let row := (List.range 8).map (fun i => 8 * (e / 8) + i)
  let r := region c (f 6 / 256 % 32)
  let k := wideField c e 16
  odd (f 6 % 16) && odd (f 6 / 16 % 16) && f 6 / 8192 ≤ 2 && f 5 = 0 && f 7 = 0 && f 8 < 64 && f 11 = 0 && f 12 = 0
    && f 14 = 0 && !knownF c (f 2) && r.tag == 1#3 && (f 6 % 16 = 1 || r.size ≠ 0)
    && (List.range (laneNum c e)).all (fun i => lane k (cellWidth c e) i = lane k (cellWidth c e) 0)
    && row.all (fun u => u = e || opOf c u ≠ 0x49)

/-- Float, integer or either class by operation (04 R92). -/
def classOk (op : Nat) (int : Bool) : Bool :=
  if 0x10 ≤ op ∧ op ≤ 0x1C then !int
  else if (0x20 ≤ op ∧ op ≤ 0x2C) ∨ op = 0x30 ∨ op = 0x31 ∨ op = 0x39 then int
  else true

/-- A cell that takes no F tokens: by its operation, or by a format above 32 bits (12 R269 to R278). -/
def refusesF (c : Ctx) (e : Nat) : Bool :=
  let op := opOf c e
  [0x04, 0x30, 0x31, 0x39, 0x40, 0x41, 0x42].contains op
    || 32 < cellWidth c e || 32 < outWidth c e

/-- The conditions of one operation on its constant, format and level (12 R273 to R278, R283). -/
def operationOk (c : Ctx) (e : Nat) : Bool :=
  let op := opOf c e
  let k := (cellConst c e).toNat
  let code := (fmtCode c e).toNat
  let level := (cfgField c e 10).toNat
  if op = 0x1B then k % 8 ≤ 3
  else if op = 0x1C then outWidth c e * laneNum c e ≤ 64
  else if op = 0x30 then code = 1
  else if op = 0x31 then code ≤ 1 && 1 ≤ level
  else if op = 0x38 then 1 ≤ level && k % 4 ≠ 3
  else if op = 0x39 then 1 ≤ level && code = 5 && laneNum c e = 2
  else if op = 0x42 then
    k / 16 % 16 ≤ 0xB && !(k / 256 % 2 = 1 && k / 16 % 16 = 0xA)
  else if op = 0x48 then
    k / 8 % 32 = 0 && (List.range 3).all (fun i => sourceOf c e i = 0)
      && (tapList (cellConst c e)).all (tapInside c e) && tapFormatOk c e
  else if op = 0x49 then unitOk c e
  else true

/-- A UNP3 cell or any other reader of a read stream of packing 0 from a ternary-packed region (12 R275). -/
def ternaryOk (c : Ctx) (e n : Nat) : Bool :=
  !(streamMode c e n = 1 && strmPack c e n = 0 && strmWindow c e n
      && (match regionAt c (strmBase c e n).toNat with | none => false | some r => r.tag == 4#3)) || feedsUnp3 c e n

/-- The streams that an element reads are ternary only for a single UNP3 cell. -/
def readsTernary (c : Ctx) (e : Nat) : Bool :=
  (elemNeeds c e).all (fun i =>
    let code := sourceOf c e i
    code / 4096 ≠ 3 || ternaryOk c (code % 4) (code / 4 % 4))

/-- Every condition on a cell in use. -/
def cellOk (c : Ctx) (e : Nat) : Bool :=
  let op := opOf c e
  let sel := (cfgField c e 14).toNat
  commonOk c e && classOk op (isInt c e) && (op = 0x1C || (fmtField c e).extractLsb' 9 4 == 0#4)
    && (sel % 8 = 0 || delayLen c e 0 ≠ 0) && (sel / 8 = 0 || delayLen c e 1 ≠ 0)
    && (elemNeeds c e).all (fun i => !knownF c (sourceOf c e i) || (!refusesF c e && delayLen c e i = 0))
    && (op ≠ 0x03 || cfgField c e 13 ≠ 0#16)
    && (!isControl c e || (cfgField c e 5 == 0#16 && !(ctlReaders c (routerOf e)).isEmpty))
    && (!readsTaps c e || tapFormatOk c e)
    && (elemNeeds c e).all (fun i => sourceOf c e i / 4096 ≠ 4 || tapInside c e (sourceOf c e i % 4096)) && readsTernary c e && operationOk c e

/-- Every condition on a fibre element in use (12 R289 to R294). -/
def fibreOk (c : Ctx) (e : Nat) : Bool :=
  let op := opOf c e
  let p := (wideField c e 16).toNat
  commonOk c e && readsTernary c e
    && (!(op = 2 || op = 3) || cfgField c e 10 == 1#16)
    && (op ≠ 1 || p < 2 ^ 32)
    && codeWidth (isInt c e) (fmtCode c e) ≤ 32
    && (op ≠ 6 || (p % 4 ≠ 3 && cfgField c e 10 ≠ 0#16))
    && (op ≠ 7 || (p < 2 ^ 32 && p % 4 = 0))

/-- Every condition on a router in use (04 R93, 12 R284 to R287). -/
def routerOk (c : Ctx) (e : Nat) : Bool :=
  let op := opOf c e
  commonOk c e && readsTernary c e && (op ≠ 1 || sourceOf c e 1 = 0) && (op = 2 || cfgField c e 6 == 0#16)
    && (op = 1 || cfgField c e 13 ≠ 0#16)

/-- Every condition on one stream in use (09 R201, R202, R208). -/
def streamOk (c : Ctx) (e n : Nat) : Bool :=
  let mode := streamMode c e n
  let code := (streamField c e n 1).toNat
  let exts := (List.range 5).map (fun k => (streamField c e n (6 + k)).toNat)
  let p := strmPack c e n
  let size := strmSize c e n
  mode = 0
    || ((strmBase c e n).toNat % size = 0
        && (mode % 2 = 0 || !(readers c (0x3000 + e + 4 * n)).isEmpty)
        && (if mode = 1 then code = 0 else code ≠ 0 && sourceUp c (engineElem e) code)
        && (if mode = 3 then size ≤ 4 else exts.headD 0 ≠ 0 && (exts.dropWhile (· ≠ 0)).all (· = 0))
        && (p = 0 || (if p = 3 then size = 8 || mode = 3 else size = 1)) && (mode ≠ 1 || p ≠ 1 || exts.headD 0 % 5 = 0)
        && ternaryOk c e n)

/-- Every condition on the ports of the core fabric interface (13 R311). -/
def portsOk (s : State) (c : Ctx) : Bool :=
  (List.range 64).all (fun n =>
    let m := portField c n 3
    if m / 128 % 2 = 0 then true
    else if m / 64 % 2 = 0 then
      portField c n 1 = 0 && portField c n 2 = 0 && portField c n 4 = 0 && m / 256 = 0 && !(readers c (0x6000 + n)).isEmpty
    else
      let src := portField c n 4
      (ownerCore s c.id.part (portField c n 1)).isSome && inUse c src && (outPorts c src).any (outSends c src)
        && (List.range n).all (fun k => !(portField c k 3 / 64 % 4 = 3 && portField c k 4 = src)))

/-- The elements of a context that a graph takes: those in use, the array when it takes rows from the bus, and the interface
when a port is valid. -/
def usedElems (c : Ctx) : List Nat :=
  (elemList ++ [0xC0, 0xC1, 0xC2, 0xC3]).filter (inUse c)
    ++ (if cfgField c 0xC8 2 = 1#16 then [0xC8] else [])
    ++ (if (List.range 64).any (fun n => portField c n 3 / 128 % 2 = 1) then [0xE0] else [])

/-- The whole configuration of one element. -/
def elementOk (s : State) (c : Ctx) (e : Nat) : Bool :=
  (tabFind c.fab.marks e).isNone
    && (if isCell e then cellOk c e
        else if isFibre e then fibreOk c e
        else if isRouter e then routerOk c e
        else if e < 0xC8 then (List.range 4).all (streamOk c (e - 0xC0))
        else if e = 0xE0 then portsOk s c
        else true)

/-- The first failure on one core: an element address, 0x3FF for a core without the context. -/
def coreFailure (s : State) (core : CoreId) : Option Nat :=
  match findCtx s (cfgCtx s core) with
  | none => some 0x3FF
  | some c => (usedElems c).find? (fun e => !elementOk s c e)

/-- The first failure of a region, core by core, as KEVAL of the fault. -/
def regionFailure (s : State) (cores : List CoreId) : Option Word :=
  cores.findSome? (fun core => (coreFailure s core).map (fun e =>
    BitVec.ofNat 64 (e + listIndex (ownerRec s s.me.id.part).coreList core * 2 ^ 16)))

/-! ## GO (12 R298, 01 R16) -/

/-- The queues of a context's elements without those whose tokens come from elsewhere: column buses and ports. -/
def freshQueues (c : Ctx) : Tab (List Token) :=
  c.fab.queues.filter (fun q =>
    let e := q.1 / 128
    let slot := q.1 % 128
    let code := if 0xC0 ≤ e ∧ e < 0xC4 then (streamField c (e - 0xC0) slot 1).toNat
                else if slot < 3 then sourceOf c e slot else 0
    code / 4096 = 5 || code / 4096 = 6)

/-- A context whose elements begin a graph: their states, checkers, positions and queues afresh, the delay lines loaded, a
stream in every mode live with its commit position 0, the G of each source still to come. -/
def beginElems (ref : GRef) (c : Ctx) : Ctx :=
  let used := usedElems c
  let scans := used.filter (fun e => isFibre e && opOf c e = 1 && sourceOf c e 0 = 0)
  let strms := streamList.filter (fun p => streamMode c p.1 p.2 ≠ 0)
  let c1 : Ctx := { c with
    fresh := true
    mx.graphRow := (cfgField c 0xC8 3).toNat
    mx.graphToks := []
    fab.queues := freshQueues c
    fab.ctlq := []
    fab.checks := []
    fab.counts := []
    fab.elems := scans.map (fun e => (e, { ElemSt.zero with started := true }))
    fab.delays := []
    fab.nodes := []
    fab.unacked := []
    fab.wins := []
    fab.strms := (strms.foldl (fun t p => tabInsert t (p.1 * 4 + p.2) { Strm.zero with live := true }) [])
    fab.sinksDone := []
    fab.marks := used.foldl (fun t e => tabInsert t e ref) c.fab.marks }
  (used.filter isCell).foldl loadLines c1

/-- The completion word (12 R298). -/
def completionOk (w : Word) : Bool :=
  if w.extractLsb' 0 2 = 0#2 then w.extractLsb' 7 25 == 0#25
  else w.extractLsb' 0 2 == 1#2 && w.extractLsb' 14 18 == 0#18

/-- The lowest free graph id. -/
def freeGraph (c : Ctx) : BitVec 4 :=
  BitVec.ofNat 4 (((List.range 16).find? (fun i => (tabFind c.fab.graphs i).isNone)).getD 0)

def execGo (d a b : Reg) (s : State) : Host.Outcome State Fault Refusal :=
  let op := readG s a
  let w := readG s b
  finish s
    (if op.extractLsb' 32 32 ≠ 0#32 then configFault op
     else match regionCores s op with
      | none => configFault op
      | some cores =>
        match regionFailure s cores with
        | some v => configFault v
        | none =>
          if 16 ≤ s.me.fab.graphs.length then configFault 16
          else if ¬ completionOk w then configFault w
          else
            let gid := freeGraph s.me
            let g : Graph :=
              { first := (op.extractLsb' 0 16).toNat, count := cores.length, completion := w, priv := priv s, state := 1,
                cause := 0, elem := 0, value := 0, haltCore := 0, check := 0, kind := 0, completed := false, drained := false }
            let ref : GRef := { core := s.me.id.core, gid := gid }
            let s1 := cores.foldl (fun t core => updCtx t (cfgCtx t core) (beginElems ref)) s
            let s2 := { s1 with me.fab.graphs := tabInsert s1.me.fab.graphs gid.toNat g }
            .ok (nextPc (writeG s2 d (gid.setWidth 64))))

/-! ## The end of a graph (01 R17 to R19, 12 R298, R299) -/

/-- The graph of the context in focus that a number names. -/
def myGraph (s : State) (g : BitVec 4) : Option Graph := tabFind s.me.fab.graphs g.toNat

def graphRef (s : State) (g : BitVec 4) : GRef := { core := s.me.id.core, gid := g }

/-- The contexts on which a graph of the context in focus has elements. -/
def graphCtxs (s : State) (ref : GRef) : List Ctx :=
  ((allCtxs s).filter (fun c => c.id.part = s.me.id.part && c.id.kctx = s.me.id.kctx
    && c.fab.marks.any (fun m => m.2 = ref))).map (asStands s)

/-- The sinks of a graph on one context, as keys (12 R297): its sink elements, its write streams, a stream that nothing follows, and the array that
takes rows from the bus, whose output leads nowhere (DEDUCED, log 25). -/
def sinkKeys (c : Ctx) (ref : GRef) : List Nat :=
  let mine := fun e => tabFind c.fab.marks e == some ref
  ((elemList.filter (fun e => mine e && opOf c e ≠ 0 && isSink c e)).map (· * 4))
    ++ (streamList.filter (fun p => mine (engineElem p.1)
          && (streamMode c p.1 p.2 = 2 || (streamMode c p.1 p.2 ≠ 0 && (readers c (0x3000 + 4 * p.2 + p.1)).isEmpty)))).map
        (fun p => strmKey p.1 p.2)
    ++ (if mine 0xC8 then [0xC8 * 4] else [])

/-- The elements of a graph on one context whose streams leave through send ports, as keys. -/
def portKeys (c : Ctx) (ref : GRef) : List Nat :=
  (elemList.filter (fun e => tabFind c.fab.marks e == some ref && opOf c e ≠ 0 && endsAtPort c e)).map (· * 4)

/-- The end condition of a graph (01 R17): every sink holds Z with every store acknowledged. A graph without any sink ends when every stream has left
through its send port (DESIGN CHOICE, log 100). -/
def graphEnded (s : State) (ref : GRef) : Bool :=
  let cs := graphCtxs s ref
  let done := fun (keys : Ctx → GRef → List Nat) =>
    cs.all (fun c => (keys c ref).all (fun k => tabGet false c.fab.sinksDone k && unackOf c k = 0))
  if cs.all (fun c => (sinkKeys c ref).isEmpty) then done portKeys else done sinkKeys

/-- A graph's id and elements freed. -/
def freeElems (ref : GRef) (c : Ctx) : Ctx := { c with fab.marks := c.fab.marks.filter (fun m => m.2 ≠ ref) }

/-- A change of every context that a graph of the context in focus may stand on. -/
def onGraph (s : State) (f : Ctx → Ctx) : State :=
  let g := fun (c : Ctx) => if c.id.part = s.me.id.part ∧ c.id.kctx = s.me.id.kctx then f c else c
  { s with me := g s.me, others := s.others.map g }

def freeGraphId (s : State) (g : BitVec 4) : State :=
  let s1 := onGraph s (freeElems (graphRef s g))
  { s1 with me.fab.graphs := tabErase s1.me.fab.graphs g.toNat }

/-- The report of a completion: a handler entry with cause kind 0x03, or a decrement, whose acknowledgement is awaited before the id is
free (01 R17, R18; 14 R327). -/
def reportGraph (s : State) (g : BitVec 4) (r : Graph) : State :=
  let w := r.completion
  if w.extractLsb' 0 2 = 0#2 then
    let s1 := freeGraphId s g
    updCtx s1 s1.me.id (markSlot (w.extractLsb' 2 5) { kind := 3, index := g.setWidth 12, arg := w >>> 32 })
  else if ¬ r.reported then
    { s with me.fab.graphs := tabInsert s.me.fab.graphs g.toNat { r with completed := true, reported := true, state := 1 }
             decrs := s.decrs ++ [{ part := s.me.id.part, counter := w.extractLsb' 2 12, ctx := s.me.id, chan := none, graph := some g }] }
  else if s.decrs.any (fun d => d.ctx = s.me.id && d.graph = some g) then s
  else freeGraphId s g

/-- GRAPH_COMPLETION: the barrier units agree the end condition, then report it (12 R301). -/
def completeGraph (s : State) (g : BitVec 4) : State :=
  match myGraph s g with
  | none => s
  | some r =>
    if r.completed then reportGraph s g r
    else if r.state ≠ 2#2 ∧ graphEnded s (graphRef s g) then
      { s with me.fab.graphs := tabInsert s.me.fab.graphs g.toNat { r with completed := true, state := 1 } }
    else s

def execGraphCompletion (g : BitVec 4) (s : State) : Host.Outcome State Fault Refusal := .next (completeGraph s g)

/-- The ports that the elements of a graph read. -/
def graphPorts (c : Ctx) : List Nat := (List.range 64).filter (fun n => receives c n && !(readers c (0x6000 + n)).isEmpty)

/-- An aborted context: tokens, positions and states of its elements go, delay lines are refilled, streams stop where they have
committed, the logs of its ports are emptied (01 R19, 11 R266, 12 R299). -/
def abortElems (ref : GRef) (c : Ctx) : Ctx :=
  if !c.fab.marks.any (fun m => m.2 = ref) then c
  else
    let ports := graphPorts c
    let c1 : Ctx := { c with
      mx.items := c.mx.items.filter (fun x => !x.fromGraph || x.isX)
      mx.graphToks := []
      fab.queues := []
      fab.ctlq := []
      fab.checks := []
      fab.counts := []
      fab.elems := []
      fab.delays := []
      fab.nodes := []
      fab.unacked := []
      fab.wins := []
      fab.strms := c.fab.strms.map (fun x => (x.1, { Strm.zero with commit := x.2.commit }))
      fab.sinksDone := []
      fab.portq := c.fab.portq.filter (fun q => !ports.contains q.1)
      fab.recLog := c.fab.recLog.filter (fun r => !ports.contains r.1) }
    let c2 := (elemList.filter (fun e => isCell e && opOf c e ≠ 0)).foldl loadLines c1
    let c3 := dropSpill ports c2
    { c3 with fab.recCount := if c3.fab.recLog.isEmpty then 0 else c3.fab.recCount }

def abortGraph (s : State) (g : BitVec 4) : State := freeGraphId (onGraph s (abortElems (graphRef s g))) g

/-! ## DRAIN, ABORT, REPLAY, GSTAT (12 R299 to R301) -/

/-- A graph operand: a graph id, or the matrix queue (12 R295). -/
def withGraph (s : State) (a : Reg) (matrix : Except Trap State) (graph : BitVec 4 → Except Trap State) : Except Trap State :=
  let x := readG s a
  if x.extractLsb' 5 59 ≠ 0#59 then configFault x else if x.getLsbD 4 then matrix else graph (x.setWidth 4)

/-- A graph whose end condition is met completes before the instruction acts on it (12 R304). -/
def settled (s : State) (g : BitVec 4) : State :=
  match myGraph s g with
  | none => s
  | some r =>
    if r.completed then reportGraph s g r
    else if r.state ≠ 2#2 ∧ graphEnded s (graphRef s g) then reportGraph s g r else s

def setGraph (s : State) (g : BitVec 4) (r : Graph) : State := { s with me.fab.graphs := tabInsert s.me.fab.graphs g.toNat r }

def execDrain (d a : Reg) (s : State) : Host.Outcome State Fault Refusal :=
  finish s (withGraph s a (.ok (nextPc (writeG s d 2))) (fun g =>
    let s1 := settled s g
    .ok (nextPc (match myGraph s1 g with
      | none => writeG s1 d 1
      | some r =>
        if r.completed then writeG s1 d 1
        else if r.state = 2#2 then writeG s1 d 2 else writeG (setGraph s1 g { r with state := 3, drained := true }) d 0))))

/-- The matrix queue emptied: every command is discarded and its rows in the array with it; an X token that has entered goes on
through the array (07 R156, DEDUCED, log 29). The flags of rows that a discarded command had committed are dropped with it (DESIGN CHOICE,
log 91). -/
def abortQueue (s : State) : State :=
  { s with me := wakeCounters { s.me with
      mx.queue := []
      mx.halted := false
      mx.cause := 0
      mx.items := (s.me.mx.items.filter (fun x => x.fromGraph || x.isX)).map (fun x => { x with fromGraph := true }) } }

def execAbort (d a : Reg) (s : State) : Host.Outcome State Fault Refusal :=
  finish s (withGraph s a
    (.ok (nextPc (if s.me.mx.queue.isEmpty then writeG s d 1 else writeG (abortQueue s) d 0)))
    (fun g =>
      let s1 := settled s g
      .ok (nextPc (match myGraph s1 g with
        | none => writeG s1 d 1
        | some r => if r.completed then writeG s1 d 1 else writeG (abortGraph s1 g) d 0))))

/-- The state in which a resumed graph goes on: running, or draining when its sources had been told to end. -/
def resumed (r : Graph) : Graph :=
  { r with state := if r.drained then 3 else 1, cause := 0, elem := 0, value := 0, haltCore := 0, check := 0, kind := 0 }

def execReplay (d a : Reg) (s : State) : Host.Outcome State Fault Refusal :=
  finish s (withGraph s a
    (.ok (nextPc (if s.me.mx.queue.isEmpty then writeG s d 1
                  else if s.me.mx.halted then writeG { s with me.mx.halted := false, me.mx.cause := 0 } d 0 else writeG s d 2)))
    (fun g => .ok (nextPc (match myGraph s g with
      | none => writeG s d 1
      | some r => if r.state = 2#2 then writeG (setGraph s g (resumed r)) d 0 else writeG s d 2))))

/-- The status word of a graph (12 R301). -/
def statusWord (cause : BitVec 8) (core : BitVec 16) (check kind : BitVec 4) (completed : Bool) (state : BitVec 2) : Word :=
  (cause ++ core ++ 0#4 ++ check ++ kind ++ BitVec.ofBool false ++ BitVec.ofBool completed ++ state).setWidth 64

def graphStatus (r : Graph) : Word :=
  let malformed := r.cause == 0x0B#8
  statusWord r.cause r.haltCore (if malformed then r.check else 0) (if malformed then r.kind else 0) r.completed r.state

/-- The status word of the matrix queue (07 R156, 12 R299). -/
def queueStatus (s : State) : Word :=
  if s.me.mx.queue.isEmpty then 0
  else if s.me.mx.halted then statusWord s.me.mx.cause (coreIndex s s.me) 0 0 false 2 else statusWord 0 0 0 0 false 1

def execGstat (d a : Reg) (s : State) : Host.Outcome State Fault Refusal :=
  finish s (withGraph s a (.ok (nextPc (writeG s d (queueStatus s))))
    (fun g => .ok (nextPc (writeG s d (match myGraph s g with
      | none => 0
      | some r => graphStatus r)))))

end Sys2Proof.Machine
end

