-- ==== Sys2Proof/Machine/Links.lean ====
section
/-! DEFINITION. The events of elements by their operations (12 R272 to R294), and LINK_RETRY (15 R361), which one of them may meet. -/

namespace Sys2Proof.Machine

/-- A move of a unit: the meaning of one of its events. -/
abbrev UnitMove := State → Host.Outcome State Fault Refusal

/-- The event of a cell that is configured with an operation (12 R272). -/
def cellEvent (i : BitVec 6) (op : Nat) : Option UnitMove :=
  match op with
  | 0x01 => some (execCellPass i) | 0x02 => some (execCellConst i) | 0x03 => some (execCellSel i) | 0x04 => some (execCellCmpx i)
  | 0x10 => some (execCellFadd i) | 0x11 => some (execCellFsub i) | 0x12 => some (execCellFmul i) | 0x13 => some (execCellFma i)
  | 0x14 => some (execCellFms i) | 0x15 => some (execCellFmin i) | 0x16 => some (execCellFmax i) | 0x17 => some (execCellFabs i)
  | 0x18 => some (execCellFneg i) | 0x19 => some (execCellFdiv i) | 0x1A => some (execCellFsqrt i) | 0x1B => some (execCellFcmp i)
  | 0x1C => some (execCellFcvt i)
  | 0x20 => some (execCellIadd i) | 0x21 => some (execCellIsub i) | 0x22 => some (execCellImul i) | 0x23 => some (execCellImac i)
  | 0x24 => some (execCellIand i) | 0x25 => some (execCellIor i) | 0x26 => some (execCellIxor i) | 0x27 => some (execCellIshl i)
  | 0x28 => some (execCellIshr i) | 0x29 => some (execCellIsha i) | 0x2A => some (execCellImin i) | 0x2B => some (execCellImax i)
  | 0x2C => some (execCellIcmp i)
  | 0x30 => some (execCellUnp3 i) | 0x31 => some (execCellTacc i) | 0x38 => some (execCellRed i) | 0x39 => some (execCellCsum i)
  | 0x40 => some (execCellMld i) | 0x41 => some (execCellMst i) | 0x42 => some (execCellMatom i) | 0x43 => some (execCellOrd i)
  | 0x48 => some (execCellWtap i) | 0x49 => some (execCellLqw i)
  | _ => none

/-- The event of a router by its operation (12 R284 to R287). -/
def routerEvent (i : BitVec 6) (op : Nat) : Option UnitMove :=
  match op with
  | 1 => some (execRoute i) | 2 => some (execSteer i) | 3 => some (execMerge i) | 4 => some (execCarry i)
  | _ => none

/-- The event of a fibre element by its operation (12 R289 to R294). -/
def fibreEvent (i : BitVec 3) (op : Nat) : Option UnitMove :=
  match op with
  | 1 => some (execScan i) | 2 => some (execIsect i) | 3 => some (execUnion i) | 4 => some (execRepeat i)
  | 5 => some (execLookup i) | 6 => some (execFred i) | 7 => some (execFwrite i)
  | _ => none

/-- The events of an element that load from memory. -/
def elementLoads (c : Ctx) (e : Nat) : List UnitMove :=
  if isCell e then (cellEvent (BitVec.ofNat 6 e) (opOf c e)).toList ++ [execMemoryNodeResult (BitVec.ofNat 6 e)]
  else if isFibre e then (fibreEvent (BitVec.ofNat 3 e) (opOf c e)).toList
  else if 0xC0 ≤ e ∧ e < 0xC4 then
    (List.range 4).flatMap (fun n => [execStreamRead (BitVec.ofNat 2 e) (BitVec.ofNat 2 n), execStreamGather (BitVec.ofNat 2 e) (BitVec.ofNat 2 n)])
  else []

/-- Is the graph of an element of the context in focus halted with cause 0x09? -/
def lostElement (s : State) (e : Nat) : Bool :=
  match graphAt s e with
  | some (_, g) => g.state == 2#2 && g.cause == 0x09#8
  | none => false

/-- The load of an element at a virtual address whose flits a failed link loses: the element faults as on an uncorrectable word, and no line is
retired. An element that does not load there now changes nothing. -/
def linkElement (s : State) (e : Nat) (va : Word) : State :=
  match (xlate s (graphPriv s e) va needRead).2 with
  | .ok x =>
    let pa := x.pbase + va.toNat % 2 ^ x.bits
    let trial := { s with bad := (pa / 128) :: s.bad, retired := [] }
    let ends := (elementLoads s.me e).filterMap (fun f => match f trial with
      | .next t => if lostElement t e then some { t with bad := s.bad, retired := s.retired } else none
      | _ => none)
    if crossesLink s pa && !lostElement s e then ends.headD s else s
  | _ => s

/-- LINK_RETRY: retry that succeeds changes nothing. When it fails, by what the flit carried: u = 0 the n-th packet, a
containment event of its owner (the monitor's packets are shared control state, and the module halts); 1 the record of engine n;
2 the load of the running handler at virtual address n, cause 0x09; 3 the page pull of partition n (16 R373); 4 the load of element n mod 1024
of the context in focus at virtual address n ÷ 1024, cause 0x09. -/
def execLinkRetry (u : BitVec 3) (n : Nat) (ok : Bool) (s : State) : Host.Outcome State Fault Refusal :=
  if ok then .next s
  else if u = 0#3 then
    match s.net[n]? with
    | some { part := part, link := some l, .. } =>
      if l < 16384 then .next s
      else if part.getLsbD 6 then .next (haltModule (dropPacket s n) 0x0A)
      else .next (contain (dropPacket s n) (part.setWidth 6))
    | _ => .next s
  else if u = 1#3 then .next (linkCopy s (BitVec.ofNat 2 n))
  else if u = 2#3 then
    let va : Word := BitVec.ofNat 64 n
    if s.me.run.isSome && isActive s s.me.id && vaCrosses s (priv s) va needRead then
      .next (takeTrap s { cause := 0x09, value := va })
    else .next s
  else if u = 3#3 then .next (if partExists s (BitVec.ofNat 7 (n % 64)) then contain s (BitVec.ofNat 6 n) else s)
  else .next (linkElement s (n % 1024) (BitVec.ofNat 64 (n / 1024)))

end Sys2Proof.Machine
end

