-- ==== Sys2Proof/Machine/Matrix.lean ====
section
/-! DEFINITION. The matrix array (07 R139 to R160, 03 R69 to R73): claims and formats, the command queue, the flow of rows and X
tokens through the owned array rows, row commits, drains and sorts, faults, and rows from a graph. -/

namespace Sys2Proof.Machine

/-! ## Geometry (07 R139, R145) -/

/-- Which arithmetic a format takes. -/
inductive MxKind where
  | float | fp8 | int
  deriving DecidableEq, Repr

/-- The array of a context by its controller fields. -/
structure Geo where
  kind : MxKind
  a : BitVec 3
  b : BitVec 3
  rnd : BitVec 2
  claim : Nat
  mode : Nat
  deriving DecidableEq, Repr

def geoOf (c : Ctx) : Geo :=
  let v := cfgField c 0xC8 1
  let a : BitVec 3 := v.extractLsb' 0 3
  { kind := if v.getLsbD 8 then .int else if 4 ≤ a.toNat then .fp8 else .float, a := a, b := v.extractLsb' 9 3,
    rnd := v.extractLsb' 3 2, claim := (cfgField c 0xC8 0).toNat, mode := (cfgField c 0xC8 15).toNat }

/-- Owned array rows. -/
def Geo.rows (g : Geo) : Nat := if g.claim = 2 then 8 else 16

/-- Bytes of one operand, and weights in an element. -/
def Geo.size (g : Geo) : Nat := if g.kind = .float then (fmtOf g.a).width / 8 else 1
def Geo.w (g : Geo) : Nat := if g.kind = .float then (if (fmtOf g.a).width = 16 then 4 else 1) else 8

/-- Depth of the tile of the share. -/
def Geo.depth (g : Geo) : Nat := g.rows * g.w

/-- Bytes of an A-row image and of a tile image. -/
def Geo.image (g : Geo) : Nat := g.depth * g.size + (if g.kind = .fp8 then 8 else 0)
def Geo.tile (g : Geo) : Nat := 16 * g.depth * g.size

/-- Binary64 accumulates in pairs of bank rows. -/
def Geo.wide (g : Geo) : Bool := g.kind = .float && g.a == 0#3
def Geo.limit (g : Geo) : Nat := if g.wide then 256 else 512
def Geo.drainRow (g : Geo) : Nat := if g.wide then 128 else 64

/-- The accumulator format of float operands (03 R69). -/
def Geo.acc (g : Geo) : Fmt := if g.wide then fmtOf 0 else fmtOf 1

def Geo.sat (g : Geo) : Bool := g.mode = 1

/-! ## Accumulators and tiles (07 R139, R141) -/

def mxKey (row col : Nat) : Nat := row * 16 + col

def accOf (m : Mx) (g : Geo) (row col : Nat) : Nat :=
  if g.wide then (tabGet 0 m.bank (mxKey (2 * row) col)).toNat + (tabGet 0 m.bank (mxKey (2 * row + 1) col)).toNat * 2 ^ 32
  else (tabGet 0 m.bank (mxKey row col)).toNat

def setAcc (m : Mx) (g : Geo) (row col v : Nat) : Mx :=
  if g.wide then
    { m with bank := tabPut 0 (tabPut 0 m.bank (mxKey (2 * row) col) (BitVec.ofNat 32 v)) (mxKey (2 * row + 1) col)
                       (BitVec.ofNat 32 (v / 2 ^ 32)) }
  else { m with bank := tabPut 0 m.bank (mxKey row col) (BitVec.ofNat 32 v) }

/-- The tags of a tile register at reset: part full, sb 1.0. -/
def Tag.zero : Tag := { part := 0, sb := 0x3F800000 }

/-- The active and loading registers and tags of one local row exchanged as an X token passes. -/
def swapRow (m : Mx) (r : Nat) : Mx :=
  let cols := (List.range 16).map (mxKey r)
  let put := fun (t from' : Tab Word) => cols.foldl (fun u k => tabPut 0 u k (tabGet 0 from' k)) t
  { m with active := put m.active m.loading, loading := put m.loading m.active,
           activeTag := tabPut Tag.zero m.activeTag r (tabGet Tag.zero m.loadingTag r),
           loadingTag := tabPut Tag.zero m.loadingTag r (tabGet Tag.zero m.activeTag r) }

/-! ## Window images (07 R145, R147) -/

/-- The checks on an extent of n bytes: alignment, and one region of tag plain or FP8-block around all of it. -/
def extentCheck (c : Ctx) (va : Word) (n align : Nat) : Option Trap :=
  if va.toNat % align ≠ 0 then some { cause := 0x03, value := va }
  else if n = 0 then none
  else if 2 ^ 20 ≤ va.toNat then some { cause := 0x05, value := va }
  else winCheck c va.toNat n [0, 5]

def imageBytesAt (s : State) (a n : Nat) : List Byte := memBytes s.win (winKey s.me.id.core a) n

/-- The low part of a number from bytes, little-endian, from an offset. -/
def bytesAt (bs : List Byte) (off n : Nat) : Nat := ((bs.drop off).take n).foldr (fun b v => b.toNat + 256 * v) 0

/-! ## Issue (07 R143, R147 to R155) -/

/-- A graph takes rows from the bus into this array and has not ended. -/
def busGraph (s : State) : Option Graph := (graphAt s 0xC8).map (fun g => g.2)

/-- A command behind the others; a full queue stalls issue. -/
def enqueue (s : State) (op : MxOp) (a b c : Word) : Except Trap State :=
  if 16 ≤ s.me.mx.queue.length then .ok (hold s)
  else
    let cmd : MxCmd := { op := op, a := a, b := b, c := c, entered := 0, done := 0, skipped := 0, flags := 0, started := false, pairs := [],
                         serial := s.tick }
    .ok (nextPc { s with me.mx.queue := s.me.mx.queue ++ [cmd] })

/-- The claim that every MX instruction but MXCFG needs. -/
def withClaim (s : State) (k : Geo → Except Trap State) : Except Trap State :=
  let g := geoOf s.me
  if g.claim = 0 then configFault 0 else k g

/-- Base and count of a range word (07 R147). -/
def rangeBase (w : Word) : Nat := (w.extractLsb' 0 9).toNat
def rangeCount (w : Word) : Nat := (w.extractLsb' 16 10).toNat

def rangeOk (g : Geo) (w : Word) : Bool :=
  w.extractLsb' 26 38 == 0#38 && w.extractLsb' 9 7 == 0#7 && rangeCount w ≤ 512 && rangeBase w + rangeCount w ≤ g.limit

def withRange (g : Geo) (w : Word) (k : Except Trap State) : Except Trap State := if rangeOk g w then k else configFault w

/-- The first fault of a list of extents. -/
def withExtents (c : Ctx) (es : List (Word × Nat × Nat)) (k : Except Trap State) : Except Trap State :=
  match es.findSome? (fun e => extentCheck c e.1 e.2.1 e.2.2) with
  | some t => .error t
  | none => k

/-- The claim, format and fault mode of a configuration image written, with the resets of 07 R142. -/
def writeMxcfg (c : Ctx) (v : Word) : Ctx :=
  mxChange c (putField (putField (putField c 0xC8 0 (v.extractLsb' 20 2 |>.setWidth 16)) 0xC8 1 (v.setWidth 16)) 0xC8 15
    (v.extractLsb' 16 2 |>.setWidth 16))

/-- MXCFG what=fault (07 R148). -/
def mxcfgFault (s : State) (v : Word) : Except Trap State :=
  let runs : Bool := match busGraph s with | some g => g.state != 2#2 | none => false
  if runs then configFault v
  else if ¬ s.me.mx.queue.isEmpty ∧ ¬ s.me.mx.halted then .ok (hold s)
  else if (geoOf s.me).claim = 0 ∨ v.extractLsb' 16 2 = 3#2 then configFault v
  else .ok (nextPc { s with me := putField s.me 0xC8 15 (v.extractLsb' 16 2 |>.setWidth 16) })

/-- MXCFG what=all (07 R148). -/
def mxcfgAll (s : State) (v : Word) : Except Trap State :=
  if s.me.mx.halted ∨ (busGraph s).isSome then configFault v
  else if ¬ s.me.mx.queue.isEmpty then .ok (hold s)
  else if v.extractLsb' 22 42 ≠ 0#42 ∨ v.extractLsb' 18 2 ≠ 0#2 ∨ v.extractLsb' 20 2 = 3#2 ∨ v.extractLsb' 16 2 = 3#2
      ∨ ¬ mxFormatOk (v.setWidth 16) then configFault v
  else if claimMeets s s.me.id (v.extractLsb' 20 2 |>.setWidth 16) then configFault v
  else .ok (nextPc { s with me := writeMxcfg s.me v })

def execMxcfg (a : Reg) (w : BitVec 1) (s : State) : Host.Outcome State Fault Refusal :=
  finish s (if w = 1#1 then mxcfgFault s (readG s a) else mxcfgAll s (readG s a))

/-- The parts that MXLW may load (07 R149). -/
def partOk (g : Geo) (p : BitVec 2) : Bool := if g.kind ≠ .float ∧ g.claim = 2 then p == 1#2 || p == 2#2 else p == 0#2

/-- Part 0b11 names nothing: check 4 of 04 R83. -/
def execMxlw (a b : Reg) (p : BitVec 2) (s : State) : Host.Outcome State Fault Refusal :=
  if p = 3#2 then .next (takeTrap s { cause := 0x01, value := wordOf (.mxlw a b p) })
  else finish s (withClaim s (fun g =>
    if ¬ partOk g p then configFault (p.setWidth 64)
    else withExtents s.me [(readG s a, g.tile, 8)] (enqueue s (.lw p) (readG s a) (readG s b) 0)))

def execMxswp (s : State) : Host.Outcome State Fault Refusal :=
  finish s (withClaim s (fun _ => enqueue s .swp 0 0 0))

/-- The row stride of MXRUN: 0 means one image. -/
def strideOf (g : Geo) (c : Word) : Nat := if c = 0#64 then g.image else c.toNat

/-- The address of row image i of MXRUN. -/
def rowImage (g : Geo) (a c : Word) (i : Nat) : Word := a + BitVec.ofNat 64 (i * strideOf g c)

/-- The extents of MXRUN are those of its n rows: with n = 0 there is none, and g[ga] is not checked (DESIGN CHOICE, log 80). -/
def execMxrun (a b c : Reg) (i : BitVec 1) (s : State) : Host.Outcome State Fault Refusal :=
  let base := readG s a
  let st := readG s c
  finish s (withClaim s (fun g => withRange g (readG s b)
    (if st ≠ 0#64 ∧ (st.toNat % 8 ≠ 0 ∨ st.toNat < g.image ∨ 65536 < st.toNat) then configFault st
     else withExtents s.me ((List.range (rangeCount (readG s b))).map (fun k => (rowImage g base st k, g.image, 8)))
       (enqueue s (.run (i == 1#1)) base (readG s b) st))))

def execMxrung (a b c : Reg) (i : BitVec 1) (s : State) : Host.Outcome State Fault Refusal :=
  finish s (withClaim s (fun g => withRange g (readG s b)
    (withExtents s.me [(readG s c, 2 * rangeCount (readG s b), 2)]
      (enqueue s (.rung (i == 1#1)) (readG s a) (readG s b) (readG s c)))))

/-- The readers of a column bus (07 R153). -/
def busReaders (c : Ctx) (j : Nat) : List (Nat × Nat) := readers c (0x5000 + j)

/-- Columns without a reader, as a mask. -/
def unreadMask (c : Ctx) (cols : List Nat) : Nat := ((cols.filter (fun j => (busReaders c j).isEmpty)).map (2 ^ ·)).sum

def execMxacc (a b : Reg) (t k : BitVec 1) (s : State) : Host.Outcome State Fault Refusal :=
  let bus := t == 1#1
  finish s (withClaim s (fun g => withRange g (readG s b)
    (let open_ := unreadMask s.me (List.range 16)
     if bus ∧ open_ ≠ 0 then configFault (BitVec.ofNat 64 open_)
     else withExtents s.me (if bus then [] else [(readG s a, rangeCount (readG s b) * g.drainRow, 8)])
       (enqueue s (.acc bus (k == 1#1)) (readG s a) (readG s b) 0))))

/-- Count of keys and of pairs in the operand of MXSORT (07 R154). -/
def sortKeys (w : Word) : Nat := (w.extractLsb' 0 16).toNat
def sortPairs (w : Word) : Nat := (w.extractLsb' 16 5).toNat

def execMxsort (a b c : Reg) (t : BitVec 1) (s : State) : Host.Outcome State Fault Refusal :=
  let w := readG s b
  let bus := t == 1#1
  finish s (withClaim s (fun g =>
    if w.extractLsb' 21 43 ≠ 0#43 ∨ sortPairs w = 0 ∨ 16 < sortPairs w ∨ g.wide then configFault w
    else if bus ∧ unreadMask s.me [0] ≠ 0 then configFault (BitVec.ofNat 64 (unreadMask s.me [0]))
    else withExtents s.me
      ((readG s a, sortKeys w * g.size, g.size) :: (if bus then [] else [(readG s c, 8 * Nat.min (sortPairs w) (sortKeys w), 8)]))
      (enqueue s (.sort bus) (readG s a) w (readG s c))))

/-- A what-mask outside the six values is refused by check 4 of 04 R83. -/
def execMxzero (b : Reg) (w : BitVec 4) (s : State) : Host.Outcome State Fault Refusal :=
  if mxzeroOk w then
    finish s (withClaim s (fun g => withRange g (readG s b) (enqueue s (.zero w) 0 (readG s b) 0)))
  else .next (takeTrap s { cause := 0x01, value := wordOf (.mxzero b w) })

/-! ## Faults (07 R156) -/

/-- The place in the queue of the command that an item belongs to. -/
def ownerPlace (q : List MxCmd) (x : MxItem) : Nat := (q.findIdx? (fun m => m.serial = x.owner)).getD q.length

/-- A fault of the i-th command: the queue halts, the flags that its rows and those of the commands before it have raised reach KFPC, the
line of the trap is retired (15 R361), and the item enters the fault queue. -/
def haltQueue (s : State) (i : Nat) (t : Trap) (flags : BitVec 5) : State :=
  match s.me.mx.queue[i]? with
  | none => s
  | some m =>
    let elem : Word := BitVec.ofNat 64 (0x0C8 + 3 * 2 ^ 10 + m.done % 2 ^ 48 * 2 ^ 16)
    let raised := (s.me.mx.queue.take (i + 1)).foldl (fun f c => f ||| c.flags) flags
    let told := s.me.mx.queue.zipIdx.map (fun p => if p.2 ≤ i then { p.1 with flags := 0 } else p.1)
    retiring (elemFlags { s with me.mx.queue := told } raised) t.line (fun u =>
      { u with me := queueFault { kcause := 1#1 ++ t.cause, value := t.value, elem := elem }
                       { u.me with mx.halted := true, mx.cause := t.cause } })

/-! ## Start of a command (07 R143, R149, R154, R155, R157) -/

/-- Rows, items or pairs that a command has to complete. -/
def cmdTotal (m : MxCmd) : Nat :=
  match m.op with
  | .lw _ | .swp | .zero _ => 1
  | .run _ | .rung _ | .acc _ _ => rangeCount m.b
  | .sort bus => Nat.min (sortPairs m.b) (sortKeys m.b) + (if bus then 1 else 0)

/-- Commands whose items pipeline. -/
def flows (m : MxCmd) : Bool :=
  match m.op with
  | .run _ | .rung _ | .swp => true
  | _ => false

/-- Commands that wait while a graph uses the row bus. -/
def waitsGraph (m : MxCmd) : Bool :=
  match m.op with
  | .run _ | .rung _ | .sort _ => true
  | _ => false

/-- The weight register of element (r, j): w weights of the tile image from byte a (07 R145, R149). -/
def tileWord (s : State) (g : Geo) (a r j : Nat) : Word :=
  BitVec.ofNat 64 (joinLanes (8 * g.size) ((List.range g.w).map (fun q => winNat s s.me.id.core (a + (16 * (r * g.w + q) + j) * g.size) g.size)))

/-- The loading tile and its tags from an image (07 R149). -/
def loadTile (s : State) (g : Geo) (a : Nat) (tag : Tag) : Mx :=
  let cells := (List.range g.rows).flatMap (fun r => (List.range 16).map (fun j => (r, j)))
  let m := s.me.mx
  { m with loading := cells.foldl (fun t p => tabPut 0 t (mxKey p.1 p.2) (tileWord s g a p.1 p.2)) m.loading
           loadingTag := (List.range g.rows).foldl (fun t r => tabPut Tag.zero t r tag) m.loadingTag }

/-- Keys by which MXSORT inserts: greater first, ties to the smaller index. -/
def insertKey (below : Nat → Nat → Bool) (x : Nat × Nat) : List (Nat × Nat) → List (Nat × Nat)
  | [] => [x]
  | y :: ys => if below y.1 x.1 then x :: y :: ys else y :: insertKey below x ys

/-- The pairs of MXSORT, largest key first (07 R154). -/
def sortOut (s : State) (g : Geo) (m : MxCmd) : List Word :=
  let below := keyBelow (g.kind == .int) g.a
  let key := fun i => winNat s s.me.id.core ((m.a.toNat + i * g.size) % 2 ^ 20) g.size
  let top := (List.range (sortKeys m.b)).foldl (fun t i => (insertKey below (key i, i) t).take (sortPairs m.b)) []
  top.map (fun p => BitVec.ofNat 64 (p.1 * 2 ^ 32 + p.2))

/-- State of the named parts at reset (07 R155). -/
def zeroParts (m : Mx) (g : Geo) (what : BitVec 4) (base n : Nat) : Mx :=
  let rows := (List.range n).map (· + base)
  let keys := rows.flatMap (fun r => (List.range 16).map (mxKey r))
  let m1 := if what.getLsbD 0 then rows.foldl (fun m r => (List.range 16).foldl (fun m j => setAcc m g r j 0) m) m else m
  let m2 := if what.getLsbD 1 then { m1 with loading := [], loadingTag := [] } else m1
  let m3 := if what.getLsbD 2 then { m2 with active := [], activeTag := [] } else m2
  if what.getLsbD 3 then { m3 with held := keys.foldl tabErase m3.held } else m3

/-- A command begun: MXLW and MXZERO act at once, MXSORT reads its keys. -/
def beginCmd (s : State) (m : MxCmd) : Mx × MxCmd :=
  let g := geoOf s.me
  match m.op with
  | .lw p => (loadTile s g m.a.toNat { part := p, sb := m.b.setWidth 32 }, { m with started := true, done := 1 })
  | .zero w => (zeroParts s.me.mx g w (rangeBase m.b) (rangeCount m.b), { m with started := true, done := 1 })
  | .sort _ => (s.me.mx, { m with started := true, pairs := sortOut s g m })
  | _ => (s.me.mx, { m with started := true })

/-- May the command behind `before` begin (07 R143): rows and X tokens when all of the earlier ones have entered, the others
when every earlier command has completed and no row is in the array or half read from the bus? -/
def mayBegin (s : State) (before : List MxCmd) (m : MxCmd) : Bool :=
  (if flows m then before.all (fun x => flows x && x.started && decide (x.entered = cmdTotal x))
   else before.isEmpty && s.me.mx.items.isEmpty && s.me.mx.graphToks.isEmpty)
    && !(waitsGraph m && (busGraph s).isSome)

/-- The first uncorrectable 64-bit word of n bytes of window memory from a (08 R183). -/
def lostWord (s : State) (a n : Nat) : Option Nat :=
  ((List.range ((a + n + 7) / 8 - a / 8)).map (fun i => Nat.max a (8 * (a / 8 + i)))).find? (fun x => winLost s s.me.id.core x 1)

/-- The uncorrectable word that a command reads as it begins: in the tile image or among the keys. -/
def beginLost (s : State) (m : MxCmd) : Option Nat :=
  match m.op with
  | .lw _ => lostWord s m.a.toNat (geoOf s.me).tile
  | .sort _ => lostWord s m.a.toNat (sortKeys m.b * (geoOf s.me).size)
  | _ => none

/-- MX_COMMAND_START: the first command that has not begun. -/
def startCommand (s : State) : State :=
  let q := s.me.mx.queue
  let before := q.takeWhile (fun m => m.started)
  match q.drop before.length with
  | [] => s
  | m :: rest =>
    if !isActive s s.me.id || leaving s s.me.id || s.me.mx.halted || !mayBegin s before m then s
    else match beginLost s m with
      | some x => haltQueue s before.length (winTrap s.me.id.core x) 0
      | none =>
        let r := beginCmd s m
        { s with me.mx := { r.1 with queue := before ++ r.2 :: rest } }

def execMxCommandStart (s : State) : Host.Outcome State Fault Refusal := .next (startCommand s)

/-- A change of the command at a place of the queue. -/
def updCmd (s : State) (i : Nat) (f : MxCmd → MxCmd) : State :=
  { s with me.mx.queue := s.me.mx.queue.zipIdx.map (fun p => if p.2 = i then f p.1 else p.1) }

/-! ## The flow of rows (07 R144, R151, R157, R159) -/

/-- What an item does on its arrival at an array row: an A row meets the active tile, an X token swaps. -/
def arriveAt (m : Mx) (x : MxItem) (r : Nat) : Mx × MxItem :=
  if x.isX then (swapRow m r, { x with row := r })
  else
    let cols := (List.range 16).map (mxKey r)
    (m, { x with row := r, met := cols.foldl (fun t k => tabPut 0 t k (tabGet 0 m.active k)) x.met,
                 tag := if r = 0 then some (tabGet Tag.zero m.activeTag 0) else x.tag })

/-- An item enters the first owned array row behind the others. -/
def enterItem (s : State) (x : MxItem) : State :=
  let r := arriveAt s.me.mx x 0
  { s with me.mx := { r.1 with items := r.1.items ++ [r.2] } }

/-- Is the first owned array row free? -/
def rowFree (m : Mx) : Bool := m.items.all (fun x => x.row ≠ 0)

/-- An item may leave its array row: the next is free, or is the write port. -/
def movable (n : Nat) (items : List MxItem) (x : MxItem) : Bool :=
  x.row < n && (x.row + 1 = n || items.all (fun y => y.row ≠ x.row + 1))

/-- The i-th item moves to the next row; an X token that leaves the last row is done. -/
def moveItem (s : State) (n i : Nat) (x : MxItem) : State :=
  let m := s.me.mx
  if x.row + 1 < n then
    let r := arriveAt m x (x.row + 1)
    { s with me.mx := { r.1 with items := r.1.items.set i r.2 } }
  else if x.isX then
    let s1 := { s with me.mx.items := m.items.eraseIdx i }
    if x.fromGraph then s1 else updCmd s1 (ownerPlace m.queue x) (fun c => { c with done := c.done + 1 })
  else { s with me.mx.items := m.items.set i { x with row := n } }

/-- An A row of a command or of the graph, ready to enter. -/
def rowItem (image : List Byte) (pos : Nat) (zero graph : Bool) (owner : Nat) : MxItem :=
  { isX := false, row := 0, zero := zero, image := image, pos := pos, met := [], tag := none, fromGraph := graph, owner := owner }

def xItem (graph : Bool) (owner : Nat) : MxItem := { rowItem [] 0 false graph owner with isX := true }

/-- The next row of MXRUN or MXRUNG: its image address, none when its index is absent. -/
def rowAddress (s : State) (g : Geo) (m : MxCmd) : Option Word :=
  match m.op with
  | .rung _ =>
    let x := winNat s s.me.id.core ((m.c.toNat + 2 * m.entered) % 2 ^ 20) 2
    if x = 0xFFFF then none else some (m.a + BitVec.ofNat 64 (x * g.image))
  | _ => some (rowImage g m.a m.c m.entered)

/-- The next item of the i-th command enters. A row whose image cannot be read faults once the rows before it have committed. -/
def enterNext (s : State) (i : Nat) (m : MxCmd) : State :=
  let g := geoOf s.me
  let entered := fun (t : State) => updCmd t i (fun c => { c with entered := c.entered + 1 })
  match m.op with
  | .swp => entered (enterItem s (xItem false m.serial))
  | .run z | .rung z =>
    match rowAddress s g m with
    | none => updCmd s i (fun c => { c with entered := c.entered + 1, skipped := c.skipped + 1 })
    | some a =>
      match (extentCheck s.me a g.image 8).or ((lostWord s a.toNat g.image).map (winTrap s.me.id.core)) with
      | some t => if s.me.mx.items.isEmpty then haltQueue s i t 0 else s
      | none => entered (enterItem s (rowItem (imageBytesAt s a.toNat g.image) (rangeBase m.b + m.entered) z false m.serial))
  | _ => s

/-- A token of the row bus that breaks the rules of the row stream. -/
def busBad (s : State) (t : Token) (check : BitVec 4) : State :=
  haltGraph s 0xC8 3 (posOf s.me rowBus) 0x0B t.val check t.kind

/-- The head of the row bus consumed. -/
def busTake (s : State) (t : Token) : State :=
  { s with me := moveCheck (countTok (setQueue s.me rowBus ((queueOf s.me rowBus).drop 1)) rowBus t) rowBus t }

/-- The graph row index after a stop or G. -/
def busIndex (c : Ctx) (t : Token) : Nat :=
  if t.kind = 8#4 then c.mx.graphRow + 1 else (cfgField c 0xC8 3).toNat

/-- A stop ends the row of the tokens before it; with any other count of tokens than a row's, none among them, it is malformed (07 R157). -/
def busStop (s : State) (g : Geo) (t : Token) : State :=
  let toks := s.me.mx.graphToks
  let closed := fun (u : State) => { busTake u t with me.mx.graphRow := busIndex u.me t, me.mx.graphToks := [] }
  if 8 * toks.length ≠ g.image ∨ g.limit ≤ s.me.mx.graphRow then busBad s t 10
  else if !rowFree s.me.mx then s
  else
    let image := toks.flatMap (fun w => (List.range 8).map (fun i => BitVec.ofNat 8 (w.toNat / 2 ^ (8 * i))))
    closed (enterItem s (rowItem image s.me.mx.graphRow false true 0))

/-- One token of the row bus (07 R157). Z waits for the rows in the array, whose flags come before the graph's report (03 R64). -/
def busToken (s : State) (g : Geo) (t : Token) : State :=
  match checkTok (checkOf s.me rowBus) t with
  | .error k => busBad s t k
  | .ok _ =>
    if t.kind = 0#4 then
      if g.image ≤ 8 * s.me.mx.graphToks.length then busBad s t 10
      else busTake { s with me.mx.graphToks := s.me.mx.graphToks ++ [t.val] } t
    else if t.kind = 1#4 then busBad s t 10
    else if t.kind = 3#4 then (if rowFree s.me.mx then busTake (enterItem s (xItem true 0)) t else s)
    else if t.kind = 4#4 then { busTake s t with me.mx.graphRow := busIndex s.me t }
    else if t.kind = 15#4 then
      if s.me.mx.items.any (fun x => x.fromGraph && !x.isX) then s else sinkDone (busTake s t) (0xC8 * 4)
    else busStop s g t

/-- The array stands still: its queue is halted, or the graph whose rows it holds. -/
def arrayHeld (s : State) : Bool :=
  s.me.mx.halted || (s.me.mx.items.any (fun x => x.fromGraph && !x.isX) && (match busGraph s with
    | some g => g.state == 2#2
    | none => false))

/-- A command that takes effect between rows has begun and not completed (07 R157). -/
def betweenRows (m : Mx) : Bool := m.queue.any (fun c => c.started && !flows c)

/-- ARRAY_ROW_ADVANCE: the oldest item that can move on does; else the next item of a command enters the first row; else the
row bus gives its next token. What has entered goes on to a token boundary, and nothing new enters there (07 R159). -/
def advanceArray (s : State) : State :=
  let g := geoOf s.me
  let m := s.me.mx
  if arrayHeld s || g.claim = 0 || !isActive s s.me.id then s
  else match m.items.zipIdx.find? (fun p => movable g.rows m.items p.1) with
    | some (x, i) => moveItem s g.rows i x
    | none =>
      if leaving s s.me.id then s
      else match m.queue.zipIdx.find? (fun p => flows p.1 && p.1.started && decide (p.1.entered < cmdTotal p.1)) with
        | some (c, i) => if rowFree m then enterNext s i c else s
        | none =>
          match queueOf s.me rowBus with
          | [] => s
          | t :: _ =>
            if cfgField s.me 0xC8 2 = 1#16 ∧ moves s 0xC8 ∧ ¬ betweenRows m then
              let u := busToken s g t
              sinkProgress u 0xC8 (accepted s.me u.me 0xC8)
            else s

def execArrayRowAdvance (s : State) : Host.Outcome State Fault Refusal := .next (advanceArray s)

/-! ## Arithmetic of a row (03 R69 to R73, 07 R151, R152) -/

/-- An exactly zero result is +0. -/
def plusZero (f : Fmt) (r : FRes) : FRes := if r.bits % f.signBit = 0 then ⟨0, r.flags⟩ else r

/-- The k-ascending chain of 03 R69 from c over pairs of operands. -/
def chain (f : Fmt) (g : Geo) : List (Nat × Nat) → FRes → FRes
  | [], c => c
  | (x, y) :: ps, c =>
    let r := plusZero f (fFma f g.rnd g.sat (flOf (fmtOf g.a) x) (flOf (fmtOf g.b) y) (flOf f c.bits))
    chain f g ps ⟨r.bits, c.flags ||| r.flags⟩

/-- One product of an 8-bit block added to its exact sum, in units of 2^−32 for FP8 and 1 for integers (03 R70, R71, R73). -/
def blockStep (g : Geo) (h : Held) (p : Nat × Nat) : Held :=
  if g.kind = .int then { h with num := h.num + intOf g.a p.1 * intOf g.b p.2 }
  else match flOf (fmtOf g.a) p.1, flOf (fmtOf g.b) p.2 with
    | .nan _, _ => { h with nan := true }
    | _, .nan _ => { h with nan := true }
    | .inf a, .inf b => if a = b then { h with posInf := true } else { h with negInf := true }
    | .inf a, .fin b m _ => if m = 0 then { h with nan := true } else if a = b then { h with posInf := true } else { h with negInf := true }
    | .fin b m _, .inf a => if m = 0 then { h with nan := true } else if a = b then { h with posInf := true } else { h with negInf := true }
    | .fin n1 m1 e1, .fin n2 m2 e2 => { h with num := h.num + dyInt (n1 ^^ n2) (m1 * m2) (e1 + e2) (-32) }

def Held.zero : Held := { num := 0, nan := false, posInf := false, negInf := false }

def Held.plus (a b : Held) : Held :=
  { num := a.num + b.num, nan := a.nan || b.nan, posInf := a.posInf || b.posInf, negInf := a.negInf || b.negInf }

/-- The contribution of an FP8 block with its scales, none for the default NaN with invalid (03 R71). -/
def contribution (h : Held) (sa sb : Fl) : Option Fl :=
  let zeroScale : Fl → Bool := fun x => match x with
    | .fin _ m _ => m = 0
    | _ => false
  let infScale : Fl → Bool := fun x => match x with
    | .inf _ => true
    | _ => false
  let neg := flSign sa ^^ flSign sb
  if h.nan || (h.posInf && h.negInf) || isNan sa || isNan sb then none
  else if h.posInf || h.negInf then (if zeroScale sa || zeroScale sb then none else some (.inf (h.negInf ^^ neg)))
  else if h.num = 0 then (if infScale sa || infScale sb then none else some (.fin false 0 0))
  else if (infScale sa || infScale sb) && (zeroScale sa || zeroScale sb) then none
  else if infScale sa || infScale sb then some (.inf (decide (h.num < 0) ^^ neg))
  else match sa, sb with
    | .fin _ m1 e1, .fin _ m2 e2 => some (.fin (decide (h.num < 0) ^^ neg) (h.num.natAbs * m1 * m2) (e1 + e2 - 32))
    | _, _ => none

/-- An 8-bit block promoted into an accumulator entry (03 R70, R71, R73). -/
def promote (g : Geo) (h : Held) (sa sb c : Nat) : FRes :=
  if g.kind = .int then ⟨intNarrow 4 g.sat (intOf 4 c + h.num), 0⟩
  else
    let f := fmtOf 1
    match contribution h (flOf f sa) (flOf f sb) with
    | none => nanRes f true
    | some t => plusZero f (fAdd f g.rnd g.sat (flOf f c) t)

/-- The operand pairs of a column: a[k] of the image with the weight that the row met, k ascending. -/
def rowPairs (g : Geo) (x : MxItem) (j : Nat) : List (Nat × Nat) :=
  let off := if g.kind = .fp8 then 8 else 0
  (List.range g.depth).map (fun k =>
    (bytesAt x.image (off + k * g.size) g.size, lane (tabGet 0 x.met (mxKey (k / g.w) j)) (8 * g.size) (k % g.w)))

/-- What a row makes of one column: held state, or an accumulator entry with its flags. -/
inductive ColOut where
  | hold (h : Held)
  | entry (r : FRes)

def column (m : Mx) (g : Geo) (x : MxItem) (j : Nat) : ColOut :=
  let tag := x.tag.getD Tag.zero
  let lo := g.kind ≠ .float && tag.part == 1#2
  let c := if x.zero && !lo then 0 else accOf m g x.pos j
  let ps := rowPairs g x j
  if g.kind = .float then .entry (chain g.acc g ps ⟨c, 0⟩)
  else
    let h := ps.foldl (blockStep g) Held.zero
    if lo then .hold h
    else
      let h1 := if tag.part = 2#2 then ((tabFind m.held (mxKey x.pos j)).getD Held.zero).plus h else h
      .entry (promote g h1 (bytesAt x.image 0 4) tag.sb.toNat c)

/-- One column written at the commit of its row. -/
def writeColumn (m : Mx) (g : Geo) (x : MxItem) (j : Nat) : ColOut → Mx
  | .hold h => { m with held := tabInsert m.held (mxKey x.pos j) h }
  | .entry r =>
    let m1 := setAcc m g x.pos j r.bits
    if (x.tag.getD Tag.zero).part = 2#2 then { m1 with held := tabErase m1.held (mxKey x.pos j) } else m1

def colFlags : ColOut → BitVec 5
  | .hold _ => 0
  | .entry r => r.flags

/-- The lowest column whose exception traps under the fault mode (03 R64, 07 R156). -/
def trapColumn (g : Geo) (outs : List ColOut) : Option Nat :=
  if g.mode ≠ 0 then none else outs.findIdx? (fun o => colFlags o &&& 7#5 ≠ 0#5)

/-- Progress of the open transits of kind 1 that the context owns rises by one row (22 R404). -/
def rowProgress (s : State) : State :=
  let r := ownerRec s s.me.id.part
  let mine := fun (e : Eph) => e.state = 1#2 ∧ e.work.getLsbD 48 = true ∧ e.owner = s.me.id.kctx ∧ e.ownerIdx = coreIndex s s.me
  setOwner s s.me.id.part { r with eph := r.eph.map (fun e => (e.1, if mine e.2 then { e.2 with progress := e.2.progress + 1 } else e.2)) }

/-- MATRIX_ROW_COMMIT: the oldest row that has left the last owned array row writes all 16 entries or, on a fault, none. KEVAL[4:0] and the
flags of a row that traps are those of all its columns, where KEVAL[31:28] names the lowest that traps (DESIGN CHOICE, log 76). -/
def commitRow (s : State) : State :=
  let g := geoOf s.me
  match s.me.mx.items with
  | [] => s
  | x :: rest =>
    if x.row < g.rows || x.isX || arrayHeld s || !isActive s s.me.id then s
    else
      let outs := (List.range 16).map (column s.me.mx g x)
      let fl := outs.foldl (fun a o => a ||| colFlags o) 0
      let owner := ownerPlace s.me.mx.queue x
      match trapColumn g outs with
      | some j =>
        let v : Word := BitVec.ofNat 64 (fl.toNat + x.pos * 2 ^ 16 + j * 2 ^ 28)
        if x.fromGraph then haltGraph (elemFlags s fl) 0xC8 3 (posOf s.me rowBus) 0x0D v 0 0
        else haltQueue s owner { cause := 0x0D, value := v } fl
      | none =>
        let m1 := outs.zipIdx.foldl (fun m p => writeColumn m g x p.2 p.1) s.me.mx
        let s1 := countEvent { s with me.mx := { m1 with items := rest } } 0x09 1
        let s2 := if g.kind ≠ .float ∧ (x.tag.getD Tag.zero).part = 1#2 then s1 else rowProgress s1
        if x.fromGraph then elemFlags s2 fl
        else updCmd s2 owner (fun c => { c with done := c.done + 1, flags := c.flags ||| fl })

def execMatrixRowCommit (s : State) : Host.Outcome State Fault Refusal := .next (commitRow s)

/-! ## Drains and completion (07 R143, R153, R154) -/

/-- Tokens placed on column buses together, or none when a consumer has no free slot. -/
def placeBus (s : State) (toks : List (Nat × Token)) : Option State :=
  let rs := toks.map (fun t => (busReaders s.me t.1, t.2))
  if rs.any (fun r => r.1.isEmpty || r.1.any (fun d => d.2 ≤ (queueOf s.me d.1).length)) then none
  else some { s with me := rs.foldl (fun c r => r.1.foldl (fun k d => setQueue k d.1 (queueOf k d.1 ++ [r.2])) c) s.me }

/-- One accumulator row drained to window memory or the column buses, cleared if asked. -/
def drainRow (s : State) (g : Geo) (m : MxCmd) (bus clr : Bool) : Option State :=
  let ar := rangeBase m.b + m.done
  let vals := (List.range 16).map (accOf s.me.mx g ar)
  let sent := if bus then placeBus s (vals.zipIdx.map (fun v => (v.2, tokD (BitVec.ofNat 64 v.1))))
              else some (winPutRow s s.me.id.core ((m.a.toNat + m.done * g.drainRow) % 2 ^ 20) g.drainRow
                          (joinLanes (g.drainRow / 2) vals))
  sent.map (fun t => if clr then { t with me.mx := (List.range 16).foldl (fun m j => setAcc m g ar j 0) t.me.mx } else t)

/-- One pair of MXSORT, or the S1 behind the last one on the bus. -/
def drainPair (s : State) (m : MxCmd) (bus : Bool) : Option State :=
  match m.pairs[m.done]? with
  | some v => if bus then placeBus s [(0, { kind := 1, val := v })]
              else some (winPut s s.me.id.core ((m.c.toNat + 8 * m.done) % 2 ^ 20) 8 v.toNat)
  | none => placeBus s [(0, tokStop 1)]

/-- Has a command nothing left to do? -/
def cmdDone (m : MxCmd) : Bool := m.started && decide (cmdTotal m ≤ m.done + m.skipped)

/-- MX_COMMAND_COMPLETE: the first command with nothing left completes, its flags reach KFPC and the tiles counter falls; an X may so leave
the queue before the rows ahead of it have committed. Else a started drain or sort moves by one row or pair. -/
def completeCommand (s : State) : State :=
  let q := s.me.mx.queue
  if s.me.mx.halted || !isActive s s.me.id then s
  else match q.find? cmdDone, q with
  | some m, _ =>
    let s1 := elemFlags { s with me.mx.queue := q.erase m } m.flags
    { s1 with me := wakeCounters s1.me }
  | none, [] => s
  | none, m :: _ =>
    if !m.started || leaving s s.me.id then s
    else
      let moved := match m.op with
        | .acc bus clr => drainRow s (geoOf s.me) m bus clr
        | .sort bus => drainPair s m bus
        | _ => none
      match moved with
      | none => s
      | some t => updCmd t 0 (fun c => { c with done := c.done + 1 })

def execMxCommandComplete (s : State) : Host.Outcome State Fault Refusal := .next (completeCommand s)

end Sys2Proof.Machine
end

