-- ==== Sys2Proof/Machine/Swap.lean ====
section
/-! DEFINITION. The swap of the context sets of a core at a token boundary (01 R25 to R30, 06 R137, 07 R159, 15 R352, R355). -/

namespace Sys2Proof.Machine

/-! ## The token boundary (01 R28) -/

/-- Is the context in focus part-way through nothing: no element can send a further token of a firing, and no row or X token is in the
array but one that a halt holds there? -/
def atBoundary (s : State) : Bool :=
  s.me.fab.marks.all (fun m => [0, 1, 2].all (fun p => drainPort s m.1 p = s)) && (s.me.mx.items.isEmpty || arrayHeld s)

/-- Every context of a core that is on its way out stands at a token boundary. -/
def boundaryHere (s : State) (c : CoreId) : Bool :=
  let r := coreRec s c
  [r.setA.ctx, r.setB.ctx].all (fun x => match x with
    | some id => !leaving s id || atBoundary (focus s id)
    | none => true)

/-! ## What a swap does to the contexts -/

/-- A context stopped at a token boundary: a stalled access is abandoned without effect and issues again (15 R352). -/
def freezeCtx (c : Ctx) : Ctx := { c with stalled := false, pinWait := none }

/-- A context made Active: its waits are examined again (01 R32, 15 R352), and it begins new work (17 R393). -/
def wakeCtx (s : State) (id : CtxId) : State := updCtx s id (fun c => { reexamine s c with fresh := true })

/-- The elements that two contexts of a core both have in use (01 R25). -/
def sharedElems (s : State) (a b : CtxId) : List Nat :=
  match findCtx s a, findCtx s b with
  | some x, some y => (elemList ++ [0xC0, 0xC1, 0xC2, 0xC3]).filter (fun e => inUse x e && inUse y e)
  | _, _ => []

/-- An element taken out of use: its operation is off, or every stream of its engine. -/
def offElem (e : Nat) (c : Ctx) : Ctx :=
  (if 0xC0 ≤ e then [0, 16, 32, 48] else [0]).foldl (fun k f => putField k e f 0) c

/-- An element that another Active context has in use: a configuration fault in this context, whose graph halts where one has the element,
and the element serves the other context only (01 R25; DEDUCED, log 86). -/
def refuseShared (id : CtxId) (s : State) (e : Nat) : State :=
  let t := focus s id
  let v := BitVec.ofNat 64 (e + (coreIndex t t.me).toNat * 2 ^ 16)
  let u := if (graphAt t e).isSome then haltGraph t e 3 0 0x0F v 0 0
           else { t with me := queueFault { kcause := 1#1 ++ 0x0F#8, value := v, elem := BitVec.ofNat 64 (e + 3 * 2 ^ 10) } t.me }
  focus { u with me := offElem e u.me } s.me.id

/-- Of two Active contexts that both have an element in use, the one whose configuration reached it second loses it (01 R25). -/
def splitElem (a b : CtxId) (s : State) (e : Nat) : State :=
  let since := fun (id : CtxId) => match findCtx s id with
    | some c => tabGet 0 c.fab.cfgAt e
    | none => 0
  refuseShared (if since b < since a then a else b) s e

/-- Two contexts of a core that run together: each element serves one of them. -/
def splitElems (s : State) (c : CoreId) : State :=
  let r := coreRec s c
  match r.setA.ctx, r.setB.ctx with
  | some a, some b => if isActive s a ∧ isActive s b then (sharedElems s a b).foldl (splitElem a b) s else s
  | _, _ => s

/-- Contexts that a swap has frozen and that are to go, or that no present slot of the running calendar names any more, are parked (16 R372). -/
def parkLeft (s : State) (c : CoreId) (out : List CtxId) : State :=
  let r := coreRec s c
  let park := fun (x : SetRec) => match x.ctx with
    | some id => if x.st = .frozen ∧ (x.gone ∨ (out.contains id ∧ r.running ∧ ¬ isPlaced s id)) then { x with st := .parking } else x
    | none => x
  setCore s c { r with setA := park r.setA, setB := park r.setB }

/-- A swap made: `out` freeze, `fresh` begin, the ways of the L1 are split and shared elements go to one context. -/
def settleSwap (s : State) (c : CoreId) (out fresh : List CtxId) : State :=
  let s1 := out.foldl (fun t id => updCtx t id freezeCtx) s
  let s2 := fresh.foldl wakeCtx s1
  let s3 := (setCtxs (coreRec s2 c)).foldl trimL1 s2
  let s4 := if fresh.isEmpty then s3 else splitElems s3 c
  dropNotices (parkLeft s4 c out) c

/-- The contexts of the sets of a core in a state. -/
def ctxsIn (r : CoreRec) (st : SetSt) : List CtxId :=
  ([r.setA, r.setB].filter (fun x => x.st == st)).filterMap (fun x => x.ctx)

/-- The record of a core after its sets have changed from those of r0: who froze and who became Active. -/
def withSets (s : State) (c : CoreId) (r0 r : CoreRec) : State :=
  settleSwap (setCore s c r) c ((ctxsIn r0 .active).filter (fun id => !(ctxsIn r .active).contains id))
    ((ctxsIn r .active).filter (fun id => !(ctxsIn r0 .active).contains id))

/-! ## The swap -/

/-- TOKEN_BOUNDARY_SWAP (01 R28 to R30, R355): the swap is made when every set that the current slot needs is loaded, until
then the outgoing context runs on; where a needed set can be parked and loaded only after the boundary, it is made at once with
the contexts that are ready (DEDUCED, log 32). It waits for the token boundary of the contexts on their way out. With the calendar stopped, an
accepted CTXSW is done; one whose set has been parked since is dropped (06 R137; DESIGN CHOICE, log 74). -/
def tokenSwap (s : State) (c : CoreId) : State :=
  let r := coreRec s c
  match swapRecord s c with
  | some n => if boundaryHere s c then withSets s c r n else s
  | none => if r.boundary || r.running || (ctxswSet r).isSome then s else setCore s c { r with swReq := none }

/-- A swap can be made at a core now. -/
def swapDue (s : State) (c : CoreId) : Bool := (swapRecord s c).isSome && boundaryHere s c

def execTokenBoundarySwap (c : CoreId) (s : State) : Host.Outcome State Fault Refusal := .next (tokenSwap s c)

end Sys2Proof.Machine
end

