-- ==== Sys2Proof/Machine/Dispatch.lean ====
section
/-! DEFINITION. The dispatcher: one arm per constructor of Instr, each one direct call of its meaning. -/

namespace Sys2Proof.Machine

open Sys2Proof

def exec (i : Instr) (s : State) : Host.Outcome State Fault Refusal :=
  match i with
  | .ill x => Sys2Proof.Machine.execIll x s
  | .add d a b => Sys2Proof.Machine.execAdd d a b s
  | .sub d a b => Sys2Proof.Machine.execSub d a b s
  | .and d a b => Sys2Proof.Machine.execAnd d a b s
  | .or d a b => Sys2Proof.Machine.execOr d a b s
  | .xor d a b => Sys2Proof.Machine.execXor d a b s
  | .andn d a b => Sys2Proof.Machine.execAndn d a b s
  | .orn d a b => Sys2Proof.Machine.execOrn d a b s
  | .shl d a b => Sys2Proof.Machine.execShl d a b s
  | .shr d a b => Sys2Proof.Machine.execShr d a b s
  | .sha d a b => Sys2Proof.Machine.execSha d a b s
  | .rol d a b => Sys2Proof.Machine.execRol d a b s
  | .min d a b => Sys2Proof.Machine.execMin d a b s
  | .max d a b => Sys2Proof.Machine.execMax d a b s
  | .minn d a b => Sys2Proof.Machine.execMinn d a b s
  | .maxn d a b => Sys2Proof.Machine.execMaxn d a b s
  | .adds d a b => Sys2Proof.Machine.execAdds d a b s
  | .subs d a b => Sys2Proof.Machine.execSubs d a b s
  | .add32 d a b => Sys2Proof.Machine.execAdd32 d a b s
  | .sub32 d a b => Sys2Proof.Machine.execSub32 d a b s
  | .sel d a b c => Sys2Proof.Machine.execSel d a b c s
  | .mul d a b => Sys2Proof.Machine.execMul d a b s
  | .mulh d a b => Sys2Proof.Machine.execMulh d a b s
  | .mulhn d a b => Sys2Proof.Machine.execMulhn d a b s
  | .div d a b => Sys2Proof.Machine.execDiv d a b s
  | .divn d a b => Sys2Proof.Machine.execDivn d a b s
  | .rem d a b => Sys2Proof.Machine.execRem d a b s
  | .remn d a b => Sys2Proof.Machine.execRemn d a b s
  | .mul32 d a b => Sys2Proof.Machine.execMul32 d a b s
  | .clz d a => Sys2Proof.Machine.execClz d a s
  | .ctz d a => Sys2Proof.Machine.execCtz d a s
  | .popc d a => Sys2Proof.Machine.execPopc d a s
  | .brev d a => Sys2Proof.Machine.execBrev d a s
  | .bswap d a => Sys2Proof.Machine.execBswap d a s
  | .abs d a => Sys2Proof.Machine.execAbs d a s
  | .neg d a => Sys2Proof.Machine.execNeg d a s
  | .ext d a b => Sys2Proof.Machine.execExt d a b s
  | .extn d a b => Sys2Proof.Machine.execExtn d a b s
  | .ins d a b => Sys2Proof.Machine.execIns d a b s
  | .csum d a => Sys2Proof.Machine.execCsum d a s
  | .ceq c a b => Sys2Proof.Machine.execCeq c a b s
  | .cne c a b => Sys2Proof.Machine.execCne c a b s
  | .clt c a b => Sys2Proof.Machine.execClt c a b s
  | .cle c a b => Sys2Proof.Machine.execCle c a b s
  | .cltn c a b => Sys2Proof.Machine.execCltn c a b s
  | .clen c a b => Sys2Proof.Machine.execClen c a b s
  | .ctst c a b => Sys2Proof.Machine.execCtst c a b s
  | .cand c a b => Sys2Proof.Machine.execCand c a b s
  | .cor c a b => Sys2Proof.Machine.execCor c a b s
  | .cxor c a b => Sys2Proof.Machine.execCxor c a b s
  | .cnot c a => Sys2Proof.Machine.execCnot c a s
  | .addi d a im => Sys2Proof.Machine.execAddi d a im s
  | .andi d a im => Sys2Proof.Machine.execAndi d a im s
  | .ori d a im => Sys2Proof.Machine.execOri d a im s
  | .xori d a im => Sys2Proof.Machine.execXori d a im s
  | .shli d a n => Sys2Proof.Machine.execShli d a n s
  | .shri d a n => Sys2Proof.Machine.execShri d a n s
  | .shai d a n => Sys2Proof.Machine.execShai d a n s
  | .roli d a n => Sys2Proof.Machine.execRoli d a n s
  | .li d im => Sys2Proof.Machine.execLi d im s
  | .lis d im => Sys2Proof.Machine.execLis d im s
  | .cmpi c n a im => Sys2Proof.Machine.execCmpi c n a im s
  | .lea d im => Sys2Proof.Machine.execLea d im s
  | .fadd d a b f => Sys2Proof.Machine.execFadd d a b f s
  | .fsub d a b f => Sys2Proof.Machine.execFsub d a b f s
  | .fmul d a b f => Sys2Proof.Machine.execFmul d a b f s
  | .fdiv d a b f => Sys2Proof.Machine.execFdiv d a b f s
  | .fsqrt d a f => Sys2Proof.Machine.execFsqrt d a f s
  | .fmin d a b f => Sys2Proof.Machine.execFmin d a b f s
  | .fmax d a b f => Sys2Proof.Machine.execFmax d a b f s
  | .fabs d a f => Sys2Proof.Machine.execFabs d a f s
  | .fneg d a f => Sys2Proof.Machine.execFneg d a f s
  | .fclass d a f => Sys2Proof.Machine.execFclass d a f s
  | .ffma d a b c f => Sys2Proof.Machine.execFfma d a b c f s
  | .fceq c a b f => Sys2Proof.Machine.execFceq c a b f s
  | .fclt c a b f => Sys2Proof.Machine.execFclt c a b f s
  | .fcle c a b f => Sys2Proof.Machine.execFcle c a b f s
  | .fcun c a b f => Sys2Proof.Machine.execFcun c a b f s
  | .fcvt d a t sc f r => Sys2Proof.Machine.execFcvt d a t sc f r s
  | .ftoi d a t f r => Sys2Proof.Machine.execFtoi d a t f r s
  | .itof d a t sc f r => Sys2Proof.Machine.execItof d a t sc f r s
  | .br c sc im => Sys2Proof.Machine.execBr c sc im s
  | .jmp im => Sys2Proof.Machine.execJmp im s
  | .call im => Sys2Proof.Machine.execCall im s
  | .jr a => Sys2Proof.Machine.execJr a s
  | .callr a => Sys2Proof.Machine.execCallr a s
  | .loop a im => Sys2Proof.Machine.execLoop a im s
  | .nop => Sys2Proof.Machine.execNop s
  | .endH => Sys2Proof.Machine.execEnd s
  | .yield => Sys2Proof.Machine.execYield s
  | .idle => Sys2Proof.Machine.execIdle s
  | .trap a => Sys2Proof.Machine.execTrap a s
  | .hcall a => Sys2Proof.Machine.execHcall a s
  | .eret => Sys2Proof.Machine.execEret s
  | .brk => Sys2Proof.Machine.execBrk s
  | .ctxsw d a => Sys2Proof.Machine.execCtxsw d a s
  | .ctxpark d a => Sys2Proof.Machine.execCtxpark d a s
  | .ctxload d a b => Sys2Proof.Machine.execCtxload d a b s
  | .mfs d sc => Sys2Proof.Machine.execMfs d sc s
  | .mts a sc => Sys2Proof.Machine.execMts a sc s
  | .ld d a w im => Sys2Proof.Machine.execLd d a w im s
  | .st d a w im => Sys2Proof.Machine.execSt d a w im s
  | .ldw d a w im => Sys2Proof.Machine.execLdw d a w im s
  | .stw d a w im => Sys2Proof.Machine.execStw d a w im s
  | .ldro d a w im => Sys2Proof.Machine.execLdro d a w im s
  | .aad d a b o sc => Sys2Proof.Machine.execAad d a b o sc s
  | .aand d a b o sc => Sys2Proof.Machine.execAand d a b o sc s
  | .aor d a b o sc => Sys2Proof.Machine.execAor d a b o sc s
  | .axor d a b o sc => Sys2Proof.Machine.execAxor d a b o sc s
  | .amin d a b o sc => Sys2Proof.Machine.execAmin d a b o sc s
  | .amax d a b o sc => Sys2Proof.Machine.execAmax d a b o sc s
  | .aminn d a b o sc => Sys2Proof.Machine.execAminn d a b o sc s
  | .amaxn d a b o sc => Sys2Proof.Machine.execAmaxn d a b o sc s
  | .aswp d a b o sc => Sys2Proof.Machine.execAswp d a b o sc s
  | .afaddF32 d a b o sc => Sys2Proof.Machine.execAfaddF32 d a b o sc s
  | .afaddF64 d a b o sc => Sys2Proof.Machine.execAfaddF64 d a b o sc s
  | .afaddBf16 d a b o sc => Sys2Proof.Machine.execAfaddBf16 d a b o sc s
  | .acas d a b w o sc => Sys2Proof.Machine.execAcas d a b w o sc s
  | .ald d a o sc => Sys2Proof.Machine.execAld d a o sc s
  | .ast a b o sc => Sys2Proof.Machine.execAst a b o sc s
  | .ald32 d a o sc => Sys2Proof.Machine.execAld32 d a o sc s
  | .ast32 a b o sc => Sys2Proof.Machine.execAst32 a b o sc s
  | .fence k sc => Sys2Proof.Machine.execFence k sc s
  | .cflush a => Sys2Proof.Machine.execCflush a s
  | .cinv a => Sys2Proof.Machine.execCinv a s
  | .czero a => Sys2Proof.Machine.execCzero a s
  | .pref a => Sys2Proof.Machine.execPref a s
  | .swset a b => Sys2Proof.Machine.execSwset a b s
  | .swadd a b => Sys2Proof.Machine.execSwadd a b s
  | .swwait d a b => Sys2Proof.Machine.execSwwait d a b s
  | .swget d a => Sys2Proof.Machine.execSwget d a s
  | .xcopy a b c f e t sc => Sys2Proof.Machine.execXcopy a b c f e t sc s
  | .xchn a f e => Sys2Proof.Machine.execXchn a f e s
  | .xstat d a => Sys2Proof.Machine.execXstat d a s
  | .xcancel d a => Sys2Proof.Machine.execXcancel d a s
  | .xform a f => Sys2Proof.Machine.execXform a f s
  | .aad32 d a b o sc => Sys2Proof.Machine.execAad32 d a b o sc s
  | .aand32 d a b o sc => Sys2Proof.Machine.execAand32 d a b o sc s
  | .aor32 d a b o sc => Sys2Proof.Machine.execAor32 d a b o sc s
  | .axor32 d a b o sc => Sys2Proof.Machine.execAxor32 d a b o sc s
  | .amin32 d a b o sc => Sys2Proof.Machine.execAmin32 d a b o sc s
  | .amax32 d a b o sc => Sys2Proof.Machine.execAmax32 d a b o sc s
  | .aminn32 d a b o sc => Sys2Proof.Machine.execAminn32 d a b o sc s
  | .amaxn32 d a b o sc => Sys2Proof.Machine.execAmaxn32 d a b o sc s
  | .aswp32 d a b o sc => Sys2Proof.Machine.execAswp32 d a b o sc s
  | .afaddF3232 d a b o sc => Sys2Proof.Machine.execAfaddF3232 d a b o sc s
  | .afaddBf1632 d a b o sc => Sys2Proof.Machine.execAfaddBf1632 d a b o sc s
  | .send a b => Sys2Proof.Machine.execSend a b s
  | .recv d a => Sys2Proof.Machine.execRecv d a s
  | .peek d a => Sys2Proof.Machine.execPeek d a s
  | .recvk d a b => Sys2Proof.Machine.execRecvk d a b s
  | .cfg a b => Sys2Proof.Machine.execCfg a b s
  | .cfgw a b => Sys2Proof.Machine.execCfgw a b s
  | .go d a b => Sys2Proof.Machine.execGo d a b s
  | .drain d a => Sys2Proof.Machine.execDrain d a s
  | .abort d a => Sys2Proof.Machine.execAbort d a s
  | .replay d a => Sys2Proof.Machine.execReplay d a s
  | .gstat d a => Sys2Proof.Machine.execGstat d a s
  | .mxcfg a w => Sys2Proof.Machine.execMxcfg a w s
  | .mxlw a b p => Sys2Proof.Machine.execMxlw a b p s
  | .mxswp => Sys2Proof.Machine.execMxswp s
  | .mxrun a b c im => Sys2Proof.Machine.execMxrun a b c im s
  | .mxrung a b c im => Sys2Proof.Machine.execMxrung a b c im s
  | .mxacc a b t k => Sys2Proof.Machine.execMxacc a b t k s
  | .mxsort a b c t => Sys2Proof.Machine.execMxsort a b c t s
  | .mxzero b w => Sys2Proof.Machine.execMxzero b w s
  | .hset a b => Sys2Proof.Machine.execHset a b s
  | .hget d a => Sys2Proof.Machine.execHget d a s
  | .hmask a => Sys2Proof.Machine.execHmask a s
  | .hunmask a => Sys2Proof.Machine.execHunmask a s
  | .hrun a b => Sys2Proof.Machine.execHrun a b s
  | .launch d a b => Sys2Proof.Machine.execLaunch d a b s
  | .trn d a => Sys2Proof.Machine.execTrn d a s
  | .trne d => Sys2Proof.Machine.execTrne d s
  | .slack d a => Sys2Proof.Machine.execSlack d a s
  | .tlbi a => Sys2Proof.Machine.execTlbi a s
  | .tlbia => Sys2Proof.Machine.execTlbia s
  | .tlbip a => Sys2Proof.Machine.execTlbip a s
  | .tlbis a b => Sys2Proof.Machine.execTlbis a b s
  | .wait l sc c t => Sys2Proof.Machine.execWait l sc c t s
  | .dcset d a b => Sys2Proof.Machine.execDcset d a b s
  | .dcadd d a b => Sys2Proof.Machine.execDcadd d a b s
  | .dcdec d a b => Sys2Proof.Machine.execDcdec d a b s
  | .dcget d a => Sys2Proof.Machine.execDcget d a s
  | .dcbind d a b => Sys2Proof.Machine.execDcbind d a b s
  | .bar d a => Sys2Proof.Machine.execBar d a s
  | .barw d a => Sys2Proof.Machine.execBarw d a s
  | .barinit d a b => Sys2Proof.Machine.execBarinit d a b s
  | .pcsel a b => Sys2Proof.Machine.execPcsel a b s
  | .pcrd d a => Sys2Proof.Machine.execPcrd d a s
  | .time d => Sys2Proof.Machine.execTime d s
  | .ecnt d a => Sys2Proof.Machine.execEcnt d a s
  | .ocrd d a => Sys2Proof.Machine.execOcrd d a s
  | .kstateWrite a => Sys2Proof.Machine.execKstateWrite a s
  | .kinjWrite a => Sys2Proof.Machine.execKinjWrite a s
  | .kspillWrite a => Sys2Proof.Machine.execKspillWrite a s
  | .kspillendWrite a => Sys2Proof.Machine.execKspillendWrite a s
  | .mpartContain a => Sys2Proof.Machine.execMpartContain a s
  | .containmentComplete p => Sys2Proof.Machine.execContainmentComplete p s
  | .mcalSlotWrite a => Sys2Proof.Machine.execMcalSlotWrite a s
  | .mcalSlotRead a => Sys2Proof.Machine.execMcalSlotRead a s
  | .mcalDescriptorWrite a => Sys2Proof.Machine.execMcalDescriptorWrite a s
  | .mcalDescriptorRead a => Sys2Proof.Machine.execMcalDescriptorRead a s
  | .mcalSaveAreaWrite a => Sys2Proof.Machine.execMcalSaveAreaWrite a s
  | .mcalSaveAreaRead a => Sys2Proof.Machine.execMcalSaveAreaRead a s
  | .mcalCalendarStart a => Sys2Proof.Machine.execMcalCalendarStart a s
  | .mcalCalendarStop a => Sys2Proof.Machine.execMcalCalendarStop a s
  | .mcalRunRead a => Sys2Proof.Machine.execMcalRunRead a s
  | .mcalLinkSlotWrite a => Sys2Proof.Machine.execMcalLinkSlotWrite a s
  | .mcalLinkSlotRead a => Sys2Proof.Machine.execMcalLinkSlotRead a s
  | .mcalLinkChannelWrite a => Sys2Proof.Machine.execMcalLinkChannelWrite a s
  | .mcalLinkChannelRead a => Sys2Proof.Machine.execMcalLinkChannelRead a s
  | .mcalBridgeSlotWrite a => Sys2Proof.Machine.execMcalBridgeSlotWrite a s
  | .mcalBridgeSlotRead a => Sys2Proof.Machine.execMcalBridgeSlotRead a s
  | .mcalBridgeChannelWrite a => Sys2Proof.Machine.execMcalBridgeChannelWrite a s
  | .mcalBridgeChannelRead a => Sys2Proof.Machine.execMcalBridgeChannelRead a s
  | .mquotaWayMaskWrite a => Sys2Proof.Machine.execMquotaWayMaskWrite a s
  | .mquotaWayMaskRead a => Sys2Proof.Machine.execMquotaWayMaskRead a s
  | .mquotaDramSlotWrite a => Sys2Proof.Machine.execMquotaDramSlotWrite a s
  | .mquotaDramSlotRead a => Sys2Proof.Machine.execMquotaDramSlotRead a s
  | .mquotaShareWrite a => Sys2Proof.Machine.execMquotaShareWrite a s
  | .mquotaShareRead a => Sys2Proof.Machine.execMquotaShareRead a s
  | .mquotaCoreListWrite a => Sys2Proof.Machine.execMquotaCoreListWrite a s
  | .mquotaCoreListRead a => Sys2Proof.Machine.execMquotaCoreListRead a s
  | .channelWordArrival k => Sys2Proof.Machine.execChannelWordArrival k s
  | .launchValidation k => Sys2Proof.Machine.execLaunchValidation k s
  | .launchDispatch k => Sys2Proof.Machine.execLaunchDispatch k s
  | .vfLaunchWrite p v => Sys2Proof.Machine.execVfLaunchWrite p v s
  | .handlerSelection => Sys2Proof.Machine.execHandlerSelection s
  | .asyncCauseDelivery => Sys2Proof.Machine.execAsyncCauseDelivery s
  | .loadCompletion k => Sys2Proof.Machine.execLoadCompletion k s
  | .atomicPerform k => Sys2Proof.Machine.execAtomicPerform k s
  | .tableWalkComplete va acc => Sys2Proof.Machine.execTableWalkComplete va acc s
  | .pagePullComplete p pa => Sys2Proof.Machine.execPagePullComplete p pa s
  | .calendarSlotBoundary c => Sys2Proof.Machine.execCalendarSlotBoundary c s
  | .contextLoadStart c => Sys2Proof.Machine.execContextLoadStart c s
  | .tokenBoundarySwap c => Sys2Proof.Machine.execTokenBoundarySwap c s
  | .contextLoadComplete c b => Sys2Proof.Machine.execContextLoadComplete c b s
  | .contextParkComplete c b => Sys2Proof.Machine.execContextParkComplete c b s
  | .receptionLogReplay => Sys2Proof.Machine.execReceptionLogReplay s
  | .spineSwitchComplete c => Sys2Proof.Machine.execSpineSwitchComplete c s
  | .epochEnd => Sys2Proof.Machine.execEpochEnd s
  | .patrolScrub line bad => Sys2Proof.Machine.execPatrolScrub line bad s
  | .perfCounterWrap n => Sys2Proof.Machine.execPerfCounterWrap n s
  | .cellPass im => Sys2Proof.Machine.execCellPass im s
  | .cellConst im => Sys2Proof.Machine.execCellConst im s
  | .cellSel im => Sys2Proof.Machine.execCellSel im s
  | .cellCmpx im => Sys2Proof.Machine.execCellCmpx im s
  | .cellFadd im => Sys2Proof.Machine.execCellFadd im s
  | .cellFsub im => Sys2Proof.Machine.execCellFsub im s
  | .cellFmul im => Sys2Proof.Machine.execCellFmul im s
  | .cellFma im => Sys2Proof.Machine.execCellFma im s
  | .cellFms im => Sys2Proof.Machine.execCellFms im s
  | .cellFmin im => Sys2Proof.Machine.execCellFmin im s
  | .cellFmax im => Sys2Proof.Machine.execCellFmax im s
  | .cellFabs im => Sys2Proof.Machine.execCellFabs im s
  | .cellFneg im => Sys2Proof.Machine.execCellFneg im s
  | .cellFdiv im => Sys2Proof.Machine.execCellFdiv im s
  | .cellFsqrt im => Sys2Proof.Machine.execCellFsqrt im s
  | .cellFcmp im => Sys2Proof.Machine.execCellFcmp im s
  | .cellFcvt im => Sys2Proof.Machine.execCellFcvt im s
  | .cellIadd im => Sys2Proof.Machine.execCellIadd im s
  | .cellIsub im => Sys2Proof.Machine.execCellIsub im s
  | .cellImul im => Sys2Proof.Machine.execCellImul im s
  | .cellImac im => Sys2Proof.Machine.execCellImac im s
  | .cellIand im => Sys2Proof.Machine.execCellIand im s
  | .cellIor im => Sys2Proof.Machine.execCellIor im s
  | .cellIxor im => Sys2Proof.Machine.execCellIxor im s
  | .cellIshl im => Sys2Proof.Machine.execCellIshl im s
  | .cellIshr im => Sys2Proof.Machine.execCellIshr im s
  | .cellIsha im => Sys2Proof.Machine.execCellIsha im s
  | .cellImin im => Sys2Proof.Machine.execCellImin im s
  | .cellImax im => Sys2Proof.Machine.execCellImax im s
  | .cellIcmp im => Sys2Proof.Machine.execCellIcmp im s
  | .cellUnp3 im => Sys2Proof.Machine.execCellUnp3 im s
  | .cellTacc im => Sys2Proof.Machine.execCellTacc im s
  | .cellRed im => Sys2Proof.Machine.execCellRed im s
  | .cellCsum im => Sys2Proof.Machine.execCellCsum im s
  | .cellMld im => Sys2Proof.Machine.execCellMld im s
  | .cellMst im => Sys2Proof.Machine.execCellMst im s
  | .cellMatom im => Sys2Proof.Machine.execCellMatom im s
  | .memoryNodeResult im => Sys2Proof.Machine.execMemoryNodeResult im s
  | .storeAcknowledge e => Sys2Proof.Machine.execStoreAcknowledge e s
  | .cellOrd im => Sys2Proof.Machine.execCellOrd im s
  | .cellWtap im => Sys2Proof.Machine.execCellWtap im s
  | .cellLqw im => Sys2Proof.Machine.execCellLqw im s
  | .route im => Sys2Proof.Machine.execRoute im s
  | .steer im => Sys2Proof.Machine.execSteer im s
  | .merge im => Sys2Proof.Machine.execMerge im s
  | .carry im => Sys2Proof.Machine.execCarry im s
  | .scan e => Sys2Proof.Machine.execScan e s
  | .isect e => Sys2Proof.Machine.execIsect e s
  | .union e => Sys2Proof.Machine.execUnion e s
  | .repeatF e => Sys2Proof.Machine.execRepeat e s
  | .lookup e => Sys2Proof.Machine.execLookup e s
  | .fred e => Sys2Proof.Machine.execFred e s
  | .fwrite e => Sys2Proof.Machine.execFwrite e s
  | .streamRead e n => Sys2Proof.Machine.execStreamRead e n s
  | .streamWrite e n => Sys2Proof.Machine.execStreamWrite e n s
  | .streamGather e n => Sys2Proof.Machine.execStreamGather e n s
  | .controlTokenForward im => Sys2Proof.Machine.execControlTokenForward im s
  | .meshTokenForward k => Sys2Proof.Machine.execMeshTokenForward k s
  | .creditReturn k => Sys2Proof.Machine.execCreditReturn k s
  | .tokenArrivalAtPort k => Sys2Proof.Machine.execTokenArrivalAtPort k s
  | .spillRefill => Sys2Proof.Machine.execSpillRefill s
  | .graphCompletion g => Sys2Proof.Machine.execGraphCompletion g s
  | .engineDecrement k => Sys2Proof.Machine.execEngineDecrement k s
  | .copyChainStart e => Sys2Proof.Machine.execCopyChainStart e s
  | .copyRecordRead e => Sys2Proof.Machine.execCopyRecordRead e s
  | .copyElementCommit e => Sys2Proof.Machine.execCopyElementCommit e s
  | .transformRequestStart => Sys2Proof.Machine.execTransformRequestStart s
  | .transformChunkComplete n => Sys2Proof.Machine.execTransformChunkComplete n s
  | .mxCommandStart => Sys2Proof.Machine.execMxCommandStart s
  | .arrayRowAdvance => Sys2Proof.Machine.execArrayRowAdvance s
  | .matrixRowCommit => Sys2Proof.Machine.execMatrixRowCommit s
  | .mxCommandComplete => Sys2Proof.Machine.execMxCommandComplete s
  | .linkRetry u n ok => Sys2Proof.Machine.execLinkRetry u n ok s
  | .hostBar2Read p addr n => Sys2Proof.Machine.execHostBar2Read p addr n s
  | .hostBar2Write p addr n v => Sys2Proof.Machine.execHostBar2Write p addr n v s
  | .pfBar2Access w addr v => Sys2Proof.Machine.execPfBar2Access w addr v s
  | .functionLevelReset p => Sys2Proof.Machine.execFunctionLevelReset p s
  | .bootcmdColdStart => Sys2Proof.Machine.execBootcmdColdStart s
  | .bootcmdWarmStart => Sys2Proof.Machine.execBootcmdWarmStart s
  | .powerSequencing ok => Sys2Proof.Machine.execPowerSequencing ok s
  | .clockLock ok => Sys2Proof.Machine.execClockLock ok s
  | .selfTest logic sram => Sys2Proof.Machine.execSelfTest logic sram s
  | .dramTraining dram links => Sys2Proof.Machine.execDramTraining dram links s
  | .imageCheck => Sys2Proof.Machine.execImageCheck s
  | .monitorStart => Sys2Proof.Machine.execMonitorStart s
  | .preEmptionNotice stop => Sys2Proof.Machine.execPreEmptionNotice stop s
  | .monitorRequestedHalt => Sys2Proof.Machine.execMonitorRequestedHalt s

end Sys2Proof.Machine
end

