-- ==== Sys2Proof/Machine/Auto.lean ====
section
/-! DEFINITION. How the module moves: fetch and issue of a sequencer (04 R83, 06 R128), the stalls of issue, the moves that the
agenda names, the ticks that fall due, and the moves of the other units (DESIGN CHOICE, log 1). -/

namespace Sys2Proof.Machine

/-! ## The clock -/

/-- The cycles that pass in a step at a context: an Active one's epoch counts and performance event 0x00 advance by the core
cycles of its core (14 R336, 17 R385, R395). -/
def clockCtx (s : State) (c : Ctx) : Ctx :=
  if isActive s c.id then
    let n := Config.coreCycles s.tick c.id.core.toNat
    { c with cyc := c.cyc + n, pairCyc := if (coreRec s c.id.core).paired then c.pairCyc + n else c.pairCyc
             perf := c.perf.map (fun p => countIn p 0x00 n) }
  else c

/-- The end of every step: the step counter, KTIME, which rises with each step, and the cycles at every context (DESIGN CHOICE, log 8). -/
def clock (s : State) : State :=
  { s with tick := s.tick + 1
           ktime := s.ktime + 1 + BitVec.ofNat 64 (Config.stepCycles s.tick)
           me := clockCtx s s.me
           others := s.others.map (clockCtx s) }

/-- The clock after a move. -/
def clocked (r : Host.Outcome State Fault Refusal) : Host.Outcome State Fault Refusal :=
  match r with
  | .next t => .next (clock t)
  | .fault f => .fault f
  | .refused f => .refused f

/-! ## Fetch (04 R83 check 1, 10 R244, 15 R346) -/

/-- How a fetch ends: a word, a fault, a packet without a path, or a wait on its home. -/
inductive Fetched where
  | word (s : State) (w : BitVec 32)
  | trap (t : Trap)
  | discard (s : State)
  | wait (s : State)

/-- The fetch of the word at PC: translated with execute permission, read through the read-only path of the L1. A request whose
path the partition does not own is discarded with a containment event (16 R366). -/
def fetch (s : State) : Fetched :=
  let s0 := { s with me.stalled := false, me.pinWait := none }
  match access s0 (priv s) s.me.regs.pc 4 needExec with
  | .trap t => .trap t
  | .stall t => .wait { t with me.stalled := s.me.stalled }
  | .ok t pa =>
    if !(inL1 t pa || reachable t pa) then .discard (contain t (myPart t))
    else match guardLine t s.me.regs.pc (pa / 128) true
        (if readLost t pa 4 true then .error (lostTrap s.me.regs.pc pa) else .ok t) with
      | .error f => .trap f
      | .ok u =>
        let u1 := { u with me.stalled := s.me.stalled }
        if u.me.stalled then .wait u1
        else
          let r := l1Read u1 pa 4 true
          .word r.1 (BitVec.ofNat 32 r.2)

/-- A fault of the fetch of a vector's first word: a containment event of the partition, or at monitor privilege a halt of the
module (15 R346). -/
def vectorFault (s : State) : State :=
  if priv s = 2#2 || isMonitor s.me then haltModule s 0x09 else contain s (myPart s)

/-- A fault of a fetch: KEVAL is the PC (04 R83); a stage-2 fault keeps its partition address. -/
def fetchTrap (s : State) (t : Trap) : State :=
  let u := t.base.getD s
  let v := { u with me.stalled := false }
  if s.me.atVector then vectorFault v
  else takeTrap v (if t.cause = 0x06#8 then t else { t with value := s.me.regs.pc })

/-! ## Stalls of issue -/

/-- The register that an instruction writes without naming it: g1, the link of CALL and CALLR (06 R130). -/
def linkRegs (w : BitVec 32) : List Reg :=
  match decode w with
  | .ok (.call _) => [1]
  | .ok (.callr _) => [1]
  | _ => []

/-- The register fields of a word, with its link. -/
def wordRegs (w : BitVec 32) : List Reg :=
  linkRegs w ++ [w.extractLsb' 20 6, w.extractLsb' 14 6, w.extractLsb' 8 6, w.extractLsb' 2 6]

/-- The address of a plain cached access: LD, ST, LDRO or one of the cache operations. -/
def plainAddr (w : BitVec 32) (s : State) : Option Word :=
  match decode w with
  | .ok (.ld _ a k i) => some (effAddr (readG s a) i (widthSize k))
  | .ok (.st _ a k i) => some (effAddr (readG s a) i (storeSize k))
  | .ok (.ldro _ a k i) => some (effAddr (readG s a) i (widthSize k))
  | .ok (.cflush a) => some (readG s a)
  | .ok (.cinv a) => some (readG s a)
  | .ok (.czero a) => some (readG s a)
  | .ok (.pref a) => some (readG s a)
  | _ => none

/-- The physical line that such an access touches, where its address translates. -/
def plainLine (w : BitVec 32) (s : State) : Option Nat :=
  (plainAddr w s).bind (fun va => match access s (priv s) va 1 needNone with
    | .ok _ pa => some (pa / 128)
    | _ => none)

/-- An atomic of the running entry that a later instruction waits for: an acquire or seq one orders what follows it; one of the
line of a plain access keeps its place before it (10 R238). -/
def atomHolds (w : BitVec 32) (s : State) (p : Pend) : Bool :=
  match p.op with
  | .value _ => false
  | .atomic a => a.entry == runEntry s
      && (isAcquire a.order || plainLine w s == some (a.pa / 128))

/-- The word waits: a register it names is the destination of an outstanding load or atomic of the running entry, or an atomic
holds it. A stall is a matter of time and changes no value (14 R324, R325). -/
def stalls (w : BitVec 32) (s : State) : Bool :=
  s.me.pend.any (fun p => (p.entry == runEntry s && p.dst != 0#6 && (wordRegs w).contains p.dst) || atomHolds w s p)

/-! ## The moves of units other than sequencers -/

/-- The events of the elements of the context in focus. -/
def elementMoves (c : Ctx) : List UnitMove :=
  (List.range 64).filterMap (fun i => cellEvent (BitVec.ofNat 6 i) (opOf c i))
  ++ (List.range 8).filterMap (fun i => fibreEvent (BitVec.ofNat 3 i) (opOf c (0x40 + i)))
  ++ (List.range 64).filterMap (fun i => routerEvent (BitVec.ofNat 6 i) (opOf c (0x80 + i)))
  ++ (List.range 16).flatMap (fun k =>
      let e := BitVec.ofNat 2 (k / 4)
      let n := BitVec.ofNat 2 k
      [execStreamRead e n, execStreamWrite e n, execStreamGather e n])
  ++ (List.range 64).flatMap (fun i =>
      [execMemoryNodeResult (BitVec.ofNat 6 i), execControlTokenForward (BitVec.ofNat 6 i)])
  ++ (c.fab.unacked.map (fun u => execStoreAcknowledge (BitVec.ofNat 10 (u.1 / 4))))
  ++ (List.range 4).map (fun i => execStoreAcknowledge (BitVec.ofNat 10 (0x0C0 + i)))

/-- The events of the engines, transforms and the matrix queue of the context in focus. -/
def engineMoves : List UnitMove :=
  (List.range 4).flatMap (fun e =>
      [execCopyChainStart (BitVec.ofNat 2 e), execCopyRecordRead (BitVec.ofNat 2 e), execCopyElementCommit (BitVec.ofNat 2 e)])
  ++ [execTransformRequestStart]
  ++ (List.range 256).map (fun n => execTransformChunkComplete (BitVec.ofNat 8 n))
  ++ [execMxCommandComplete, execMatrixRowCommit, execArrayRowAdvance, execMxCommandStart]

/-- The events of the network, of the die barrier unit and of the ports of the context in focus, Active or not (01 R17, R31). -/
def networkMoves (s : State) : List UnitMove :=
  (List.range 16).map (fun g => execGraphCompletion (BitVec.ofNat 4 g)) ++
  (List.range s.net.length).flatMap (fun k =>
      [execChannelWordArrival k, execLaunchValidation k, execLaunchDispatch k, execTokenArrivalAtPort k, execMeshTokenForward k])
  ++ s.used.map (fun u => execCreditReturn u.1)
  ++ (List.range s.decrs.length).map (fun k => execEngineDecrement k)
  ++ [execReceptionLogReplay, execSpillRefill]

/-- The events of the calendars and of the containment of partitions. -/
def calendarMoves (s : State) : List UnitMove :=
  s.cores.flatMap (fun r =>
      let c : CoreId := BitVec.ofNat 12 r.1
      [execContextLoadStart c, execContextParkComplete c false, execContextParkComplete c true, execContextLoadComplete c false,
       execContextLoadComplete c true, execTokenBoundarySwap c, execSpineSwitchComplete c])
  ++ s.parts.map (fun p => execContainmentComplete (BitVec.ofNat 6 p.1))
  ++ s.pulls.map (fun x => execPagePullComplete x.1 (BitVec.ofNat 64 x.2))
  ++ (List.range 8).map (fun n => execPerfCounterWrap (BitVec.ofNat 3 n))

/-- The moves that a step tries when the sequencer in focus does not issue, in the order in which it tries them. -/
def unitMoves (s : State) : List UnitMove :=
  (List.range s.me.pend.length).flatMap (fun k => [execLoadCompletion k, execAtomicPerform k])
  ++ (if isActive s s.me.id then elementMoves s.me ++ engineMoves else [])
  ++ networkMoves s ++ calendarMoves s

/-- The first move of a list that changes the state. -/
def firstMove (s : State) : List UnitMove → State
  | [] => s
  | i :: is =>
    match i s with
    | .next t => if t = s then firstMove s is else t
    | _ => firstMove s is

/-- One move of another unit, if one is enabled. -/
def autoMove (s : State) : State := firstMove s (unitMoves s)

/-! ## Issue -/

/-- The state in which a word issues: performance event 0x01 counts it once, whether it then waits or fails check 6 or 7 of 04 R83, and not one that
decode refuses (14 R336; DESIGN CHOICE, log 78). -/
def issued (s : State) : State :=
  let t := { s with me.stalled := false, me.pinWait := none, me.first := if s.me.stalled then s.me.first else s.tick }
  if s.me.stalled then t else countEvent (countWork t) 0x01 1

/-- A word that has issued and waits lets another unit move. -/
def orMove (r : Host.Outcome State Fault Refusal) : Host.Outcome State Fault Refusal :=
  match r with
  | .next t => if t.me.stalled then .next (autoMove t) else .next t
  | x => x

/-- The instruction boundary after a fetch: decode, issue or fault (04 R83). -/
def issueWord (s : State) (w : BitVec 32) : Host.Outcome State Fault Refusal :=
  if stalls w s then .next (autoMove (countEvent s 0x0F (Config.stallCycles 0x0F s.tick)))
  else
    let t := { s with me.atVector := false }
    match decode w with
    | .error _ => .next (takeTrap t { cause := 0x01, value := w.setWidth 64 })
    | .ok i => orMove (exec i (issued t))

/-- Fetch and issue at the PC of the running handler. -/
def issue (s : State) : Host.Outcome State Fault Refusal :=
  match fetch s with
  | .word t w => issueWord t w
  | .trap t => .next (fetchTrap s t)
  | .discard t => .next t
  | .wait t => .next (autoMove t)

/-- May the sequencer of the context in focus act: the module runs, the context's set is Active (01 R26), its core has switched to the spine on
which it runs (15 R355), and it does not stand at an instruction boundary on its way out (01 R28)? -/
def mayAct (s : State) : Bool :=
  s.boot.phase == 7#8 && !s.boot.halted && isActive s s.me.id && !(myCore s).entering && !leaving s s.me.id

/-- IDLE ends once one of its conditions holds (06 R132). -/
def wakeIdle (s : State) : State :=
  if s.me.sys.idle && wakeCondition s.me then { s with me.sys.idle := false } else s

/-- Does an asynchronous cause come before the next instruction (05 R101)? -/
def asyncFirst (s : State) : Bool := s.me.regs.ks.ie && !s.me.asyncs.isEmpty

/-- The move of the sequencer in focus: an asynchronous cause, the next instruction, or the selection of a handler; without any,
another unit moves. Outstanding memory operations complete before the next handler is chosen (DESIGN CHOICE, log 1). -/
def sequence (s : State) : Host.Outcome State Fault Refusal :=
  if !mayAct s then .next (autoMove s)
  else
    let t := wakeIdle s
    if t.me.run.isSome then
      if t.me.sys.idle then .next (autoMove t)
      else if asyncFirst t then .next (deliverAsync t)
      else issue t
    else if !t.me.pend.isEmpty then .next (autoMove t)
    else if (pickEntry t.me).isSome then .next (selectHandler t)
    else if deliverAsync t = t then .next (autoMove t)
    else .next (deliverAsync t)

/-! ## The agenda and what falls due (DESIGN CHOICE, log 1) -/

/-- The rows of MTS as steps of their own: only a sequencer takes them, by the word of its MTS. -/
def isMtsRow : Instr → Bool
  | .kstateWrite _ | .kinjWrite _ | .kspillWrite _ | .kspillendWrite _ | .mpartContain _ => true
  | .mcalSlotWrite _ | .mcalSlotRead _ | .mcalDescriptorWrite _ | .mcalDescriptorRead _ => true
  | .mcalSaveAreaWrite _ | .mcalSaveAreaRead _ | .mcalCalendarStart _ | .mcalCalendarStop _ | .mcalRunRead _ => true
  | .mcalLinkSlotWrite _ | .mcalLinkSlotRead _ | .mcalLinkChannelWrite _ | .mcalLinkChannelRead _ => true
  | .mcalBridgeSlotWrite _ | .mcalBridgeSlotRead _ | .mcalBridgeChannelWrite _ | .mcalBridgeChannelRead _ => true
  | .mquotaWayMaskWrite _ | .mquotaWayMaskRead _ | .mquotaDramSlotWrite _ | .mquotaDramSlotRead _ => true
  | .mquotaShareWrite _ | .mquotaShareRead _ | .mquotaCoreListWrite _ | .mquotaCoreListRead _ => true
  | _ => false

/-- What a halted module still admits: the host's accesses (16 R381). -/
def isHostMove : Instr → Bool
  | .bootcmdColdStart | .bootcmdWarmStart => true
  | .pfBar2Access _ _ _ | .hostBar2Read _ _ _ | .hostBar2Write _ _ _ _ => true
  | .vfLaunchWrite _ _ | .functionLevelReset _ => true
  | _ => false

/-- A host access that waits stands in the agenda behind what other functions and agents do, and before what its own function does after it
(16 R373, R377); another unit moves. -/
def waitHost (s : State) (m : Move) (i : Instr) : State :=
  let later := fun (k : Move) => match k with
    | .event _ j => hostFunction j == hostFunction i
    | _ => false
  autoMove { s with agenda := s.agenda.filter (fun k => !later k) ++ m :: s.agenda.filter later }

/-- A move that the agenda names, with the rest of the agenda already in place; a move at a context that does not exist is
dropped. -/
def agendaMove (s : State) (m : Move) : Host.Outcome State Fault Refusal :=
  match m with
  | .issue c =>
    if (findCtx s c).isNone || s.boot.halted then .next s else sequence (focus s c)
  | .event c i =>
    if !i.isEvent || isMtsRow i then .refused .notAnEvent
    else if (findCtx s c).isNone || (s.boot.halted && !isHostMove i) then .next s
    else if hostWaits s i then
      match exec i (focus s c) with
      | .next t => .next (waitHost t m i)
      | x => x
    else exec i (focus s c)
  | .upset u => .next (upsetAt s u)
  | .readBootstat => .next (answer s (.data (bootstat s)))
  | .readDevkey i => .next (answer s (.data ((devkeyByte i).setWidth 64)))
  | .readPstate p => .next (if s.boot.phase = 7#8 then answer s (.data (pstateWord s p)) else s)
  | .setPstate p v => .next (showState s p v)
  | .setModule n total => .next (setModule s n total)
  | .setRoute m k => .next (setRoute s m k)
  | .setSystem p index => .next (setSystem s p index)

/-- Does the sequencer in focus issue TRNE next? -/
def issuesTrne (s : State) : Bool :=
  mayAct s && s.me.run.isSome && !s.me.sys.idle && !asyncFirst s
    && (match fetch s with
      | .word t w => !stalls w t && (match decode w with
        | .ok (.trne _) => true
        | _ => false)
      | _ => false)

/-- Does the next move issue TRNE? One in the cycle of an epoch end is served before it (13 R323). -/
def trneNext (s : State) : Bool :=
  match s.agenda with
  | .issue c :: _ => issuesTrne (focus s c)
  | [] => issuesTrne s
  | _ => false

/-- What has fallen due with KTIME, before any other move: the end of an epoch, while KTIME counts (17 R384, R396), and the slot boundaries of
calendars (01 R24). -/
def timed (s : State) : Option UnitMove :=
  if s.boot.halted ∨ s.boot.phase < 3#8 then none
  else if s.epochAt.toNat ≤ s.ktime.toNat ∧ ¬ (s.ktime = s.epochAt ∧ trneNext s) then some execEpochEnd
  else (s.cores.find? (fun r => boundaryDue s (BitVec.ofNat 12 r.1))).map (fun r => execCalendarSlotBoundary (BitVec.ofNat 12 r.1))

/-- The swap of a core at a token boundary that has fallen due (01 R28). -/
def due (s : State) : Option UnitMove :=
  if s.boot.phase ≠ 7#8 then none
  else (s.cores.find? (fun r => swapDue s (BitVec.ofNat 12 r.1))).map (fun r => execTokenBoundarySwap (BitVec.ofNat 12 r.1))

/-- ONE STEP before its clock: what KTIME makes due, else the head of the agenda, else a swap, else the sequencer in focus. -/
def move (s : State) : Host.Outcome State Fault Refusal :=
  match timed s with
  | some i => i s
  | none =>
    match s.agenda with
    | m :: rest => agendaMove { s with agenda := rest } m
    | [] =>
      if s.boot.halted then .fault .moduleHalted
      else match due s with
        | some i => i s
        | none => sequence s

/-! ## A program placed at the fetch (DESIGN CHOICE, log 30) -/

/-- The monitor's context of die 0 Running at monitor privilege at the first word behind the monitor's vector table. -/
def placedCtx (c : Ctx) : Ctx :=
  let m := { c with id := monitorId 0, run := some 0, atVector := false, sys.idle := false, asyncs := [], pend := [], l1 := [],
                    stalled := false, pinWait := none }
  { setEntry m 0 { getEntry m 0 with st := .running } with
    regs := { m.regs with pc := 0x440, ks := { m.regs.ks with priv := 2 } } }

/-- The module running with that context in focus and Active, no tick due, and bytes from the local address 0x440. -/
def placed (s : State) (bytes : List Byte) : State :=
  let c := (monitorId 0).core
  let r := coreRec s c
  let rest := s.cores.map (fun x => (x.1, { x.2 with running := false, boundary := false, swReq := none }))
  let s1 := setCore { s with cores := rest } c
    { r with setA := { st := .active, ctx := some (monitorId 0) }, setB := {}, running := false, boundary := false, swReq := none,
             entering := false }
  let line := (s.module.toNat * 2 ^ 46 + 0x440) / 128
  { s1 with
    me := placedCtx s.me
    others := s.others.filter (fun k => k.id ≠ monitorId 0)
    agenda := []
    boot := { phase := 7, code := 0, halted := false, warm := false, started := true }
    epochAt := s.ktime + 2500
    bad := s.bad.filter (fun n => n ≠ line)
    retired := s.retired.filter (fun n => n ≠ line)
    l2 := s.l2.filter (fun x => homeSlice x.num ≠ homeSlice line || homeSet x.num ≠ homeSet line)
    mem := memPutBytes s.mem (s.module.toNat * 2 ^ 46 + 0x440) bytes }

end Sys2Proof.Machine
end

