-- ==== Sys2Proof/Machine/Step.lean ====
section
/-! DEFINITION. The step function of the module, and a word placed where it fetches next. -/

namespace Sys2Proof.Machine

/-- One step: one move of one agent of the module, then its cycles (01 R24 to R33; DESIGN CHOICE, log 1, DESIGN CHOICE, log 8). -/
def step (s : State) : Host.Outcome State Fault Refusal := clocked (move s)

/-- The state with an instruction of the opcode table as the next word that step fetches (DESIGN CHOICE, log 30). -/
def State.withFetchWord (s : State) (nbits w : Nat) : State :=
  placed s (wordBytes (BitVec.ofNat 32 (w % 2 ^ nbits)))

end Sys2Proof.Machine
end

