-- ==== Sys2Proof/Safety.lean ====
section
/-! DEFINITION. What counts as a safe run, in the terms that the statements use. -/

namespace Sys2Proof.Safety

open Sys2Proof.Machine

/-- The invariant of the state: DRAM and window memory stand in their canonical form, so that equal memories are equal data. -/
def memoriesCanonical (s : State) : Bool := Memory.wf s.mem && Memory.wf s.win

/-- A step is safe when the machine goes on: the module has not halted and the agenda names an event. -/
def goesOn (s : State) : Prop := ∃ t, step s = .next t

/-- A run of k steps is safe when each of them goes on. -/
def safeRun : Nat → State → Prop
  | 0, _ => True
  | k + 1, s => ∃ t, step s = .next t ∧ safeRun k t

end Sys2Proof.Safety
end

