-- ==== Sys2Proof/Certificates/Slice0/Obligations.lean ====
section
/-! DEFINITION. The statements for the provers, from the numbered rules of the spec: frames and results by family. -/

namespace Sys2Proof.Claims

open Sys2Proof Sys2Proof.Machine

/-! ## What the statements say of a step: frames of one shape each -/

/-- PC + 4, wherever that stands below 2^48 (05 R99). -/
def Advances (s t : State) : Prop :=
  s.me.regs.pc.toNat % 4 = 0 → s.me.regs.pc.toNat + 4 < 2 ^ 48 → t.me.regs.pc = s.me.regs.pc + 4#64

/-- Every general register, or every condition register, reads as before. -/
def KeepsG (s t : State) : Prop := ∀ r, readG t r = readG s r
def KeepsC (s t : State) : Prop := ∀ c, readC t c = readC s c

/-- Every byte of DRAM and of window memory reads as before. -/
def KeepsMemory (s t : State) : Prop := ∀ a, memByte t.mem a = memByte s.mem a ∧ memByte t.win a = memByte s.win a

/-- Nothing but g, c and PC of the running handler has changed: its status, every special register, accumulator and exception
register, every other context and all memory stand as before. -/
def OnlyRegs (s t : State) : Prop :=
  { t with me.regs.g := s.me.regs.g, me.regs.c := s.me.regs.c, me.regs.pc := s.me.regs.pc } = s ∧ KeepsMemory s t

/-- The instruction completes: g[d] holds a value that p describes (g0 keeps 0), every other register reads as before, the PC
advances, and nothing else changes. -/
def WritesG (i : Instr) (s : State) (d : Reg) (p : Word → Prop) : Prop :=
  ∃ t v, exec i s = .next t ∧ p v ∧ readG t d = (if d = 0#6 then 0#64 else v) ∧ (∀ r, r ≠ d → readG t r = readG s r)
    ∧ KeepsC s t ∧ Advances s t ∧ OnlyRegs s t

/-- The instruction completes with c[d] = b (c0 keeps 1), every other register as before, and nothing else changed. -/
def WritesC (i : Instr) (s : State) (d : CReg) (b : Bool) : Prop :=
  ∃ t, exec i s = .next t ∧ readC t d = (if d = 0#3 then true else b) ∧ (∀ c, c ≠ d → readC t c = readC s c)
    ∧ KeepsG s t ∧ Advances s t ∧ OnlyRegs s t

/-- A fault was delivered in place at system privilege (05 R107): what is saved, where the PC goes (48 bits, 05 R99), and that nothing
else changed. -/
def TrapTaken (s t : State) (cause : BitVec 8) (value : Word) : Prop :=
  t.me.sys.kepc = s.me.regs.pc ∧ t.me.sys.kcause = cause.setWidth 64 ∧ t.me.sys.keval = value ∧ t.me.sys.kelem = 0#64
  ∧ t.me.regs.ks = { priv := 1, ie := false, ppriv := s.me.regs.ks.priv, pie := s.me.regs.ks.ie }
  ∧ t.me.regs.pc = (s.me.sys.kvec + 32#64 * cause.setWidth 64) &&& 0x0000FFFFFFFFFFFC#64
  ∧ KeepsG s t ∧ KeepsC s t ∧ KeepsMemory s t
  ∧ { t with me.sys.kepc := s.me.sys.kepc, me.sys.kcause := s.me.sys.kcause, me.sys.keval := s.me.sys.keval,
             me.sys.kelem := s.me.sys.kelem, me.regs := s.me.regs, me.atVector := s.me.atVector } = s

/-- The instruction takes that fault. -/
def Traps (i : Instr) (s : State) (cause : BitVec 8) (value : Word) : Prop :=
  ∃ t, exec i s = .next t ∧ TrapTaken s t cause value

/-- The fault of causes 0x06 and 0x17, delivered at monitor privilege (05 R107). -/
def MonitorTrapTaken (s t : State) (cause : BitVec 8) (value : Word) : Prop :=
  (myCore t).mepc = s.me.regs.pc ∧ (myCore t).mcause = cause.setWidth 64 ∧ (myCore t).meval = value
  ∧ (myCore t).mstate = kstate s &&& 0x7F#64
  ∧ t.me.regs.ks = { s.me.regs.ks with priv := 2, ie := false }
  ∧ t.me.regs.pc = (mvecOf s (myCore s) + 32#64 * cause.setWidth 64) &&& 0x0000FFFFFFFFFFFC#64
  ∧ KeepsG s t ∧ KeepsC s t ∧ KeepsMemory s t
  ∧ t.me.sys = s.me.sys ∧ (∀ c, c ≠ s.me.id.core → coreRec t c = coreRec s c)
  ∧ { myCore t with mepc := (myCore s).mepc, mcause := (myCore s).mcause, meval := (myCore s).meval,
                    mstate := (myCore s).mstate } = myCore s
  ∧ { t with cores := s.cores, me.regs := s.me.regs, me.atVector := s.me.atVector } = s

/-- The word of an A-format instruction: its major part, the three registers and fn (04 R75). -/
def WordA (major : Nat) (d a b : Reg) (fn : Nat) (i : Instr) : Prop :=
  (encode i).map BitVec.toNat = some (major + d.toNat * 2 ^ 20 + a.toNat * 2 ^ 14 + b.toNat * 2 ^ 8 + fn)

/-- The rotation of a 32-bit sum by five (06 R116). -/
def rot5 (x : Nat) : Nat := x * 32 % 2 ^ 32 + x / 2 ^ 27

/-- A target that passes the checks of 06 R128. -/
def LegalTarget (x : Nat) : Prop := x % 4 = 0 ∧ x < 2 ^ 48

/-- The target of a word at the present PC: its own address plus 4 × a signed count, modulo 2^64 (04 R76). -/
def targetOf (s : State) (disp : Int) : Nat := (((s.me.regs.pc.toNat : Int) + 4 * disp) % 2 ^ 64).toNat

end Sys2Proof.Claims

open Sys2Proof Sys2Proof.Machine Sys2Proof.Claims

/-! ## Integer instructions (06 R112 to R120) -/

/-- 06 R112: the results of the ALU group, as numbers and as bits, and its words; an unassigned function is no instruction. -/
def Obligations.AluGroupResults : Prop :=
  ∀ (s : State) (d a b : Reg) (c : CReg),
    let x := readG s a
    let y := readG s b
    let sh := y.toNat % 64
    WritesG (.add d a b) s d (fun v => v.toNat = (x.toNat + y.toNat) % 2 ^ 64)
    ∧ WritesG (.sub d a b) s d (fun v => (v.toNat : Int) = ((x.toNat : Int) - y.toNat) % 2 ^ 64)
    ∧ WritesG (.and d a b) s d (fun v => ∀ i < 64, v.getLsbD i = (x.getLsbD i && y.getLsbD i))
    ∧ WritesG (.or d a b) s d (fun v => ∀ i < 64, v.getLsbD i = (x.getLsbD i || y.getLsbD i))
    ∧ WritesG (.xor d a b) s d (fun v => ∀ i < 64, v.getLsbD i = (x.getLsbD i != y.getLsbD i))
    ∧ WritesG (.andn d a b) s d (fun v => ∀ i < 64, v.getLsbD i = (x.getLsbD i && !y.getLsbD i))
    ∧ WritesG (.orn d a b) s d (fun v => ∀ i < 64, v.getLsbD i = (x.getLsbD i || !y.getLsbD i))
    ∧ WritesG (.shl d a b) s d (fun v => v.toNat = x.toNat * 2 ^ sh % 2 ^ 64)
    ∧ WritesG (.shr d a b) s d (fun v => v.toNat = x.toNat / 2 ^ sh)
    ∧ WritesG (.sha d a b) s d (fun v => v.toInt = x.toInt / 2 ^ sh)
    ∧ WritesG (.rol d a b) s d (fun v => ∀ i < 64, v.getLsbD ((i + sh) % 64) = x.getLsbD i)
    ∧ WritesG (.min d a b) s d (fun v => v.toInt = min x.toInt y.toInt)
    ∧ WritesG (.max d a b) s d (fun v => v.toInt = max x.toInt y.toInt)
    ∧ WritesG (.minn d a b) s d (fun v => v.toNat = min x.toNat y.toNat)
    ∧ WritesG (.maxn d a b) s d (fun v => v.toNat = max x.toNat y.toNat)
    ∧ WritesG (.adds d a b) s d (fun v => v.toInt = max (-(2 ^ 63)) (min (2 ^ 63 - 1) (x.toInt + y.toInt)))
    ∧ WritesG (.subs d a b) s d (fun v => v.toInt = max (-(2 ^ 63)) (min (2 ^ 63 - 1) (x.toInt - y.toInt)))
    ∧ WritesG (.add32 d a b) s d (fun v => v.toNat = (x.toNat % 2 ^ 32 + y.toNat % 2 ^ 32) % 2 ^ 32)
    ∧ WritesG (.sub32 d a b) s d (fun v => (v.toNat : Int) = ((x.toNat : Int) - y.toNat) % 2 ^ 32)
    ∧ WritesG (.sel d a b c) s d (fun v => v = if readC s c = true then x else y)
    ∧ (∀ p ∈ [(0x00, Instr.add d a b), (0x01, .sub d a b), (0x02, .and d a b), (0x03, .or d a b), (0x04, .xor d a b), (0x05, .andn d a b),
        (0x06, .orn d a b), (0x07, .shl d a b), (0x08, .shr d a b), (0x09, .sha d a b), (0x0A, .rol d a b), (0x0B, .min d a b),
        (0x0C, .max d a b), (0x0D, .minn d a b), (0x0E, .maxn d a b), (0x0F, .adds d a b), (0x10, .subs d a b), (0x11, .add32 d a b),
        (0x12, .sub32 d a b), (0x18 + c.toNat, .sel d a b c)], WordA 0x04000000 d a b p.1 p.2)
    ∧ (∀ w : BitVec 32, w.toNat / 2 ^ 26 = 1 → (0x13 ≤ w.toNat % 256 ∧ w.toNat % 256 ≤ 0x17 ∨ 0x20 ≤ w.toNat % 256) →
        decode w = .error .unassignedFunction)

/-- 06 R113: products modulo 2^64, their high halves, and quotients and remainders for a divisor that is not 0. 06 R113: only a zero divisor faults,
with cause 0x0E and KEVAL the dividend; gd stays. 06 R113: the words of the group; a function above 7 is unassigned. -/
def Obligations.MultiplyAndDivideResults : Prop :=
  (∀ (s : State) (d a b : Reg),
      let x := readG s a
      let y := readG s b
      WritesG (.mul d a b) s d (fun v => v.toNat = x.toNat * y.toNat % 2 ^ 64)
      ∧ WritesG (.mulh d a b) s d (fun v => v.toInt = x.toInt * y.toInt / 2 ^ 64)
      ∧ WritesG (.mulhn d a b) s d (fun v => v.toNat = x.toNat * y.toNat / 2 ^ 64)
      ∧ WritesG (.mul32 d a b) s d (fun v => v.toNat = (x.toNat % 2 ^ 32) * (y.toNat % 2 ^ 32) % 2 ^ 32)
      ∧ (y ≠ 0#64 →
          WritesG (.div d a b) s d (fun v => (v.toNat : Int) = Int.tdiv x.toInt y.toInt % 2 ^ 64)
          ∧ WritesG (.divn d a b) s d (fun v => v.toNat = x.toNat / y.toNat)
          ∧ WritesG (.rem d a b) s d (fun v => v.toInt = x.toInt - Int.tdiv x.toInt y.toInt * y.toInt)
          ∧ WritesG (.remn d a b) s d (fun v => v.toNat = x.toNat % y.toNat)))
  ∧ (∀ (s : State) (d a b : Reg), readG s b = 0#64 →
      Traps (.div d a b) s 0x0E (readG s a) ∧ Traps (.divn d a b) s 0x0E (readG s a)
      ∧ Traps (.rem d a b) s 0x0E (readG s a) ∧ Traps (.remn d a b) s 0x0E (readG s a))
  ∧ ((∀ d a b : Reg, ∀ p ∈ [(0, Instr.mul d a b), (1, .mulh d a b), (2, .mulhn d a b), (3, .div d a b), (4, .divn d a b), (5, .rem d a b),
        (6, .remn d a b), (7, .mul32 d a b)], WordA 0x08000000 d a b p.1 p.2)
    ∧ ∀ w : BitVec 32, w.toNat / 2 ^ 26 = 2 → 0x08 ≤ w.toNat % 256 → decode w = .error .unassignedFunction)

/-- 06 R114: counts of leading and trailing zeros and of ones, reversals, absolute value and negation. 06 R115, R116: the field of position pos and
length n = min(len, 64 − pos) extracted with its sign, with zeros, or inserted; and the rotate-add checksum. INS and CSUM read gd before they write
it. -/
def Obligations.BitAndFieldResults : Prop :=
  (∀ (s : State) (d a : Reg),
      let x := readG s a
      WritesG (.clz d a) s d (fun v => v.toNat ≤ 64 ∧ (∀ i < v.toNat, x.getLsbD (63 - i) = false)
        ∧ (v.toNat < 64 → x.getLsbD (63 - v.toNat) = true))
      ∧ WritesG (.ctz d a) s d (fun v => v.toNat ≤ 64 ∧ (∀ i < v.toNat, x.getLsbD i = false)
        ∧ (v.toNat < 64 → x.getLsbD v.toNat = true))
      ∧ WritesG (.popc d a) s d (fun v => v.toNat = ∑ i ∈ Finset.range 64, (x.getLsbD i).toNat)
      ∧ WritesG (.brev d a) s d (fun v => ∀ i < 64, v.getLsbD i = x.getLsbD (63 - i))
      ∧ WritesG (.bswap d a) s d (fun v => ∀ i < 8, v.extractLsb' (8 * i) 8 = x.extractLsb' (8 * (7 - i)) 8)
      ∧ WritesG (.abs d a) s d (fun v => v.toNat = x.toInt.natAbs)
      ∧ WritesG (.neg d a) s d (fun v => (v.toNat + x.toNat) % 2 ^ 64 = 0))
  ∧ (∀ (s : State) (d a b : Reg),
      let x := readG s a
      let pos := (readG s b).toNat % 64
      let n := min ((readG s b).toNat / 256 % 128) (64 - pos)
      WritesG (.ext d a b) s d (fun v => (n = 0 → v = 0#64)
        ∧ ∀ i < 64, n ≠ 0 → v.getLsbD i = x.getLsbD (pos + if i < n then i else n - 1))
      ∧ WritesG (.extn d a b) s d (fun v => ∀ i < 64, v.getLsbD i = (decide (i < n) && x.getLsbD (pos + i)))
      ∧ WritesG (.ins d a b) s d (fun v => ∀ i < 64,
          v.getLsbD i = if pos ≤ i ∧ i < pos + n then x.getLsbD (i - pos) else (readG s d).getLsbD i)
      ∧ WritesG (.csum d a) s d (fun v => v.toNat = (rot5 ((readG s d).toNat % 2 ^ 32) + x.toNat % 2 ^ 32) % 2 ^ 32))

/-- 06 R117, R118: the forms with an immediate: sign-extended for ADDI and LI, zero-extended for the logical forms and LIS, a count of words from the
PC for LEA. 06 R119, R120, 04 R77: comparisons into a condition register, signed and unsigned, and its logic. -/
def Obligations.ImmediateAndConditionResults : Prop :=
  (∀ (s : State) (d a : Reg) (i : BitVec 14) (n : BitVec 6) (k : BitVec 20),
      let x := readG s a
      WritesG (.addi d a i) s d (fun v => (v.toNat : Int) = ((x.toNat : Int) + i.toInt) % 2 ^ 64)
      ∧ WritesG (.andi d a i) s d (fun v => ∀ j < 64, v.getLsbD j = (x.getLsbD j && i.getLsbD j))
      ∧ WritesG (.ori d a i) s d (fun v => ∀ j < 64, v.getLsbD j = (x.getLsbD j || i.getLsbD j))
      ∧ WritesG (.xori d a i) s d (fun v => ∀ j < 64, v.getLsbD j = (x.getLsbD j != i.getLsbD j))
      ∧ WritesG (.shli d a n) s d (fun v => v.toNat = x.toNat * 2 ^ n.toNat % 2 ^ 64)
      ∧ WritesG (.shri d a n) s d (fun v => v.toNat = x.toNat / 2 ^ n.toNat)
      ∧ WritesG (.shai d a n) s d (fun v => v.toInt = x.toInt / 2 ^ n.toNat)
      ∧ WritesG (.roli d a n) s d (fun v => ∀ j < 64, v.getLsbD ((j + n.toNat) % 64) = x.getLsbD j)
      ∧ WritesG (.li d k) s d (fun v => v.toInt = k.toInt)
      ∧ WritesG (.lis d k) s d (fun v => v.toNat = (readG s d).toNat * 2 ^ 20 % 2 ^ 64 + k.toNat)
      ∧ WritesG (.lea d k) s d (fun v => v.toNat = targetOf s k.toInt))
  ∧ (∀ (s : State) (d : CReg) (a b : Reg) (p q : CReg) (i : BitVec 14),
      let x := readG s a
      let y := readG s b
      let k : Int := i.toInt
      let kn : Int := i.toInt % 2 ^ 64
      WritesC (.ceq d a b) s d (decide (x.toNat = y.toNat)) ∧ WritesC (.cne d a b) s d (decide (x.toNat ≠ y.toNat))
      ∧ WritesC (.clt d a b) s d (decide (x.toInt < y.toInt)) ∧ WritesC (.cle d a b) s d (decide (x.toInt ≤ y.toInt))
      ∧ WritesC (.cltn d a b) s d (decide (x.toNat < y.toNat)) ∧ WritesC (.clen d a b) s d (decide (x.toNat ≤ y.toNat))
      ∧ WritesC (.ctst d a b) s d (decide (x.toNat &&& y.toNat ≠ 0))
      ∧ WritesC (.cand d p q) s d (readC s p && readC s q) ∧ WritesC (.cor d p q) s d (readC s p || readC s q)
      ∧ WritesC (.cxor d p q) s d (readC s p != readC s q) ∧ WritesC (.cnot d p) s d (!readC s p)
      ∧ WritesC (.cmpi d 0 a i) s d (decide (x.toInt = k)) ∧ WritesC (.cmpi d 1 a i) s d (decide (x.toInt ≠ k))
      ∧ WritesC (.cmpi d 2 a i) s d (decide (x.toInt < k)) ∧ WritesC (.cmpi d 3 a i) s d (decide (x.toInt ≤ k))
      ∧ WritesC (.cmpi d 4 a i) s d (decide ((x.toNat : Int) < kn)) ∧ WritesC (.cmpi d 5 a i) s d (decide ((x.toNat : Int) ≤ kn))
      ∧ WritesC (.cmpi d 6 a i) s d (decide (k < x.toInt)) ∧ WritesC (.cmpi d 7 a i) s d (decide (k ≤ x.toInt)))

/-! ## Floating point (03 R51 to R66, 06 R121 to R127) -/

namespace Sys2Proof.Claims

/-- KFPC with raised exceptions ORed into its sticky flags [12:8] (03 R62). -/
def withFlags (s : State) (fl : BitVec 5) : State := { s with me.sys.kfpc := s.me.sys.kfpc ||| (fl.setWidth 64 <<< 8) }

/-- No raised exception is enabled in KFPC[6:2]. -/
def NoTrap (s : State) (fl : BitVec 5) : Prop := fl &&& s.me.sys.kfpc.extractLsb' 2 5 = 0#5

/-- A floating-point instruction with destination g[d] and result r (03 R63). -/
def FloatToG (i : Instr) (s : State) (d : Reg) (r : FRes) : Prop :=
  (NoTrap s r.flags → ∃ t, exec i s = .next t ∧ readG t d = (if d = 0#6 then 0#64 else BitVec.ofNat 64 r.bits)
      ∧ (∀ k, k ≠ d → readG t k = readG s k) ∧ KeepsC s t ∧ Advances s t ∧ OnlyRegs (withFlags s r.flags) t)
  ∧ (¬ NoTrap s r.flags → ∃ t, exec i s = .next t ∧ TrapTaken (withFlags s r.flags) t 0x0D (r.flags.setWidth 64))

/-- A floating-point comparison into c[d] that raises fl (06 R125, 03 R63). -/
def FloatToC (i : Instr) (s : State) (d : CReg) (b : Bool) (fl : BitVec 5) : Prop :=
  (NoTrap s fl → ∃ t, exec i s = .next t ∧ readC t d = (if d = 0#3 then true else b)
      ∧ (∀ c, c ≠ d → readC t c = readC s c) ∧ KeepsG s t ∧ Advances s t ∧ OnlyRegs (withFlags s fl) t)
  ∧ (¬ NoTrap s fl → ∃ t, exec i s = .next t ∧ TrapTaken (withFlags s fl) t 0x0D (fl.setWidth 64))

/-- The operand of a format in the low bits of a register. -/
def operand (s : State) (f : BitVec 3) (r : Reg) : Fl := flOf (fmtOf f) (fpArg s (fmtOf f) r)

/-- The real value of a finite operand. -/
def flVal : Fl → ℚ
  | .fin neg m e => (if neg then -1 else 1) * (m : ℚ) * (2 : ℚ) ^ e
  | _ => 0

/-- A finite operand. -/
def isFin : Fl → Bool
  | .fin _ _ _ => true
  | _ => false

/-- The width of a format by its code, the pattern of its largest finite value, and the pattern that an infinite result has, which is the NaN 0x7F in
E4M3 (03 R51, R59). -/
def widthOf (code : BitVec 3) : Nat := [64, 32, 16, 16, 8, 8].getD code.toNat 8
def largestOf (code : BitVec 3) (neg : Bool) : Nat :=
  [0x7FEFFFFFFFFFFFFF, 0x7F7FFFFF, 0x7F7F, 0x7BFF, 0x7E, 0x7B].getD code.toNat 0 + if neg then 2 ^ (widthOf code - 1) else 0
def infiniteOf (code : BitVec 3) (neg : Bool) : Nat :=
  if code = 4#3 then 0x7F
  else [0x7FF0000000000000, 0x7F800000, 0x7F80, 0x7C00, 0, 0x7C].getD code.toNat 0 + if neg then 2 ^ (widthOf code - 1) else 0

/-- The default NaN of a format by its code (03 R53). -/
def nanOf (code : BitVec 3) : Nat := [0x7FF8000000000000, 0x7FC00000, 0x7FC0, 0x7E00, 0x7F, 0x7E].getD code.toNat 0

/-- The result of a finite value ± m × 2^e rounded once to a format: the pattern and the flags (03 R59, R60). -/
def RoundsTo (code : BitVec 3) (mode : BitVec 2) (sat neg : Bool) (m : Nat) (e : Int) (r : FRes) : Prop :=
  let f := fmtOf code
  let free := leadExp m e - f.mw
  let q := max free (f.emin - f.mw)
  let k := (roundAt mode neg m e q).1
  let unbounded := ((roundAt mode neg m e free).1 : ℚ) * (2 : ℚ) ^ free
  let beyond := flVal (flOf f (largestOf code false)) < unbounded
  let toInf := mode = 0 ∨ (mode = 2 ∧ neg = false) ∨ (mode = 3 ∧ neg = true)
  (m = 0 → r.bits = (if neg then 2 ^ (widthOf code - 1) else 0) ∧ r.flags = 0)
  ∧ (m ≠ 0 → beyond → r.flags = 0x14 ∧ r.bits = if sat = false ∧ toInf then infiniteOf code neg else largestOf code neg)
  ∧ (m ≠ 0 → ¬ beyond → r.flags.extractLsb' 0 3 = 0 ∧ r.flags.getLsbD 4 = (roundAt mode neg m e q).2
      ∧ (r.flags.getLsbD 3 = true ↔ unbounded < (2 : ℚ) ^ f.emin ∧ (roundAt mode neg m e q).2 = true)
      ∧ r.bits < 2 ^ widthOf code ∧ isFin (flOf f r.bits) = true ∧ flSign (flOf f r.bits) = neg
      ∧ flVal (flOf f r.bits) = (if neg then -1 else 1) * (k : ℚ) * (2 : ℚ) ^ q)

/-- The class of a pattern by its sign, exponent and mantissa fields, as a bit number of 06 R123. -/
def classOf (f : Fmt) (a : Nat) : Nat :=
  let neg := a / 2 ^ (f.ew + f.mw) % 2 = 1
  let e := a / 2 ^ f.mw % 2 ^ f.ew
  let m := a % 2 ^ f.mw
  if e = 2 ^ f.ew - 1 then (if m = 0 then (if neg then 0 else 7) else if m < 2 ^ (f.mw - 1) then 8 else 9)
  else if e = 0 then (if m = 0 then (if neg then 3 else 4) else if neg then 2 else 5)
  else if neg then 1 else 6

end Sys2Proof.Claims

/-- 03 R63 for every handler floating-point instruction: raised exceptions whose enables are clear set their flags and the result
is written; an enabled one sets all the flags raised, leaves the destination unwritten and traps with cause 0x0D. The results
are those of the operation in the format of the word, in the mode of KFPC or, for conversions, of the word. -/
def Obligations.FloatInstructionsCompleteOrTrap : Prop :=
  ∀ (s : State) (d a b c : Reg) (cd : CReg) (f : BitVec 2) (t u : BitVec 3) (sat : BitVec 1) (r : BitVec 2),
    let k : BitVec 3 := f.setWidth 3
    let F := fmtOf k
    let m := s.me.sys.kfpc.extractLsb' 0 2
    let x := operand s k a
    let y := operand s k b
    let z := operand s k c
    FloatToG (.fadd d a b f) s d (fAdd F m false x y) ∧ FloatToG (.fsub d a b f) s d (fSub F m false x y)
    ∧ FloatToG (.fmul d a b f) s d (fMul F m false x y) ∧ FloatToG (.fdiv d a b f) s d (fDiv F m false x y)
    ∧ FloatToG (.fsqrt d a f) s d (fSqrt F m false x) ∧ FloatToG (.ffma d a b c f) s d (fFma F m false x y z)
    ∧ FloatToG (.fmin d a b f) s d (fMinMax F false (fpArg s F a) (fpArg s F b))
    ∧ FloatToG (.fmax d a b f) s d (fMinMax F true (fpArg s F a) (fpArg s F b))
    ∧ FloatToG (.fabs d a f) s d (fSignOp F true (fpArg s F a)) ∧ FloatToG (.fneg d a f) s d (fSignOp F false (fpArg s F a))
    ∧ FloatToC (.fceq cd a b f) s cd (fRel 0 x y).1 (fRel 0 x y).2 ∧ FloatToC (.fclt cd a b f) s cd (fRel 1 x y).1 (fRel 1 x y).2
    ∧ FloatToC (.fcle cd a b f) s cd (fRel 2 x y).1 (fRel 2 x y).2 ∧ FloatToC (.fcun cd a b f) s cd (fRel 3 x y).1 (fRel 3 x y).2
    ∧ (floatCodeOk t = true → floatCodeOk u = true →
        FloatToG (.fcvt d a t sat u r) s d (fConvert (fmtOf u) (fmtOf t) r (sat = 1#1) (fpArg s (fmtOf u) a)))
    ∧ (floatCodeOk u = true → FloatToG (.ftoi d a t u r) s d (fToInt (fmtOf u) t r (fpArg s (fmtOf u) a)))
    ∧ (floatCodeOk t = true → FloatToG (.itof d a t sat u r) s d (intToF u (fmtOf t) r (sat = 1#1) (readG s a).toNat))

/-- 06 R123: FCLASS writes the one bit of the operand's class into gd and raises no flag. -/
def Obligations.ClassMaskIsOneHot : Prop :=
  ∀ (s : State) (d a : Reg) (f : BitVec 2),
    WritesG (.fclass d a f) s d (fun v => v.toNat = 2 ^ classOf (fmtOf (f.setWidth 3)) (fpArg s (fmtOf (f.setWidth 3)) a))

/-- 03 R59: the rounded multiple of 2^q beside m × 2^e is the nearest, with ties to even, or the neighbour on the side that the mode names, and the
discarded part decides inexact. 03 R59, R60: a value rounded to a format holds exactly the rounded multiple, in the precision that its magnitude
leaves (down to the subnormals); underflow is raised where it is tiny and inexact; one beyond the largest finite value overflows, with inexact, to the
result that the mode names, or to the largest finite value under saturation. 03 R66: conversions between floats round once in their mode, and infinite
and NaN operands give what its table says; a float becomes the integer to which it rounds, or the nearest limit, with invalid; an integer becomes the float
to which it rounds. That saturation clamps an infinite operand of a conversion to its own format too is the model's choice (log 81). -/
def Obligations.RoundingIsCorrect : Prop :=
  (∀ (mode : BitVec 2) (neg : Bool) (m : Nat) (e q : Int),
      let w : Nat := 2 ^ (q - e).toNat
      let n := (roundAt mode neg m e q).1
      (q ≤ e → roundAt mode neg m e q = (m * 2 ^ (e - q).toNat, false))
      ∧ (e < q → ((roundAt mode neg m e q).2 = true ↔ m % w ≠ 0)
        ∧ (mode = 0 → 2 * ((n * w : Nat) - (m : Int)).natAbs ≤ w ∧ (2 * ((n * w : Nat) - (m : Int)).natAbs = w → n % 2 = 0))
        ∧ ((mode = 1 ∨ (mode = 2 ∧ neg = true) ∨ (mode = 3 ∧ neg = false)) → n * w ≤ m ∧ m < n * w + w)
        ∧ ((mode = 2 ∧ neg = false) ∨ (mode = 3 ∧ neg = true) → m ≤ n * w ∧ n * w < m + w)))
  ∧ (∀ (code : BitVec 3) (mode : BitVec 2) (sat neg : Bool) (m : Nat) (e : Int), floatCodeOk code = true →
      RoundsTo code mode sat neg m e (roundF (fmtOf code) mode sat neg m e))
  ∧ (∀ (src dst t : BitVec 3) (mode : BitVec 2) (sat neg : Bool) (m a : Nat) (e : Int), floatCodeOk src = true → floatCodeOk dst = true →
      let r := fConvert (fmtOf src) (fmtOf dst) mode sat a
      let i := fToInt (fmtOf src) t mode a
      let lo : Int := if t.toNat % 2 = 0 then -(2 ^ (8 * 2 ^ (t.toNat / 2) - 1)) else 0
      let hi : Int := if t.toNat % 2 = 0 then 2 ^ (8 * 2 ^ (t.toNat / 2) - 1) - 1 else 2 ^ (8 * 2 ^ (t.toNat / 2)) - 1
      let w : Int := 2 ^ (8 * 2 ^ (t.toNat / 2))
      let put := fun (x : Int) => (i.bits : Int) = x % w
      (∀ sig, flOf (fmtOf src) a = .nan sig → r.bits = nanOf dst ∧ r.flags = (if sig then 1 else 0) ∧ i.bits = 0 ∧ i.flags = 1)
      ∧ (flOf (fmtOf src) a = .inf neg →
          (sat = true → r.bits = largestOf dst neg ∧ r.flags = 0)
          ∧ (sat = false → r.bits = infiniteOf dst neg ∧ r.flags = if dst = 4#3 then 1 else 0)
          ∧ i.flags = 1 ∧ put (if neg then lo else hi))
      ∧ (flOf (fmtOf src) a = .fin neg m e →
          RoundsTo dst mode sat neg m e r
          ∧ (let k := (roundAt mode neg m e 0).1
             let v : Int := if neg then -(k : Int) else k
             put (max lo (min hi v)) ∧ i.flags.getLsbD 4 = (roundAt mode neg m e 0).2
             ∧ i.flags.extractLsb' 0 4 = if v < lo ∨ hi < v then 1 else 0))
      ∧ (∀ (x : Int) (b : Nat), lo ≤ x → x ≤ hi → (b : Int) % w = x % w →
          RoundsTo dst mode sat (decide (x < 0)) x.natAbs 0 (intToF t (fmtOf dst) mode sat b)))

/-- 03 R59: a result that raises no flag is the exact sum, difference, product, fused sum, quotient or root of its finite operands. 03 R61, 06 R122:
the results for NaN operands, infinities and zeros that the tables of the rules list. -/
def Obligations.ExactAndSpecialResults : Prop :=
  (∀ (code : BitVec 3) (mode : BitVec 2) (sat : Bool) (x y z : Fl), floatCodeOk code = true →
      isFin x = true → isFin y = true → isFin z = true →
      let f := fmtOf code
      let V := fun (r : FRes) => flVal (flOf f r.bits)
      ((fAdd f mode sat x y).flags = 0 → V (fAdd f mode sat x y) = flVal x + flVal y)
      ∧ ((fSub f mode sat x y).flags = 0 → V (fSub f mode sat x y) = flVal x - flVal y)
      ∧ ((fMul f mode sat x y).flags = 0 → V (fMul f mode sat x y) = flVal x * flVal y)
      ∧ ((fFma f mode sat x y z).flags = 0 → V (fFma f mode sat x y z) = flVal x * flVal y + flVal z)
      ∧ ((fDiv f mode sat x y).flags = 0 → V (fDiv f mode sat x y) * flVal y = flVal x)
      ∧ ((fSqrt f mode sat x).flags = 0 → V (fSqrt f mode sat x) * V (fSqrt f mode sat x) = flVal x))
  ∧ (∀ (code : BitVec 3) (mode : BitVec 2) (x y : Fl) (g h : Bool) (m : Nat) (e : Int) (a b : Nat), m ≠ 0 →
      let f := fmtOf code
      (isNan x = true ∨ isNan y = true →
          ∀ r ∈ [fAdd f mode false x y, fSub f mode false x y, fMul f mode false x y, fDiv f mode false x y],
            r.bits = f.nan ∧ r.flags = (if isSig x || isSig y then 1 else 0))
      ∧ (isNan x = true → (fSqrt f mode false x).bits = f.nan ∧ (fSqrt f mode false x).flags = if isSig x then 1 else 0)
      ∧ fAdd f mode false (.inf g) (.inf (!g)) = ⟨f.nan, 1⟩ ∧ fSub f mode false (.inf g) (.inf g) = ⟨f.nan, 1⟩
      ∧ fMul f mode false (.fin g 0 e) (.inf h) = ⟨f.nan, 1⟩ ∧ fMul f mode false (.inf h) (.fin g 0 e) = ⟨f.nan, 1⟩
      ∧ fDiv f mode false (.fin g 0 e) (.fin h 0 e) = ⟨f.nan, 1⟩ ∧ fDiv f mode false (.inf g) (.inf h) = ⟨f.nan, 1⟩
      ∧ fDiv f mode false (.fin g m e) (.fin h 0 e) = ⟨f.inf (g ^^ h), 2⟩
      ∧ fSqrt f mode false (.fin true m e) = ⟨f.nan, 1⟩ ∧ fSqrt f mode false (.inf true) = ⟨f.nan, 1⟩
      ∧ fSqrt f mode false (.fin g 0 e) = ⟨f.zero g, 0⟩ ∧ fSqrt f mode false (.inf false) = ⟨f.inf false, 0⟩
      ∧ (isNan (flOf f a) = true → ∀ k, fSignOp f k a = ⟨f.nan, if isSig (flOf f a) then 1 else 0⟩)
      ∧ (isNan (flOf f a) = false → a < 2 ^ f.width →
          fSignOp f true a = ⟨a % f.signBit, 0⟩ ∧ fSignOp f false a = ⟨a ^^^ f.signBit, 0⟩)
      ∧ (isSig (flOf f a) = true ∨ isSig (flOf f b) = true → ∀ k, fMinMax f k a b = ⟨f.nan, 1⟩)
      ∧ (isSig (flOf f a) = false → isNan (flOf f a) = true → isNan (flOf f b) = false →
          ∀ k, fMinMax f k a b = ⟨b, 0⟩ ∧ fMinMax f k b a = ⟨b, 0⟩))

/-- 03 R61, 06 R122, R125: the order of two finite operands: comparisons go by value, so −0 equals +0; FMIN and FMAX pick the
lesser and the greater pattern, with −0 below +0. -/
def Obligations.FloatOrderGoesByValue : Prop :=
  ∀ (code : BitVec 3) (a b : Nat),
    let f := fmtOf code
    let x := flOf f a
    let y := flOf f b
    (isFin x = true → isFin y = true →
      (fRel 0 x y = (decide (flVal x = flVal y), 0) ∧ fRel 1 x y = (decide (flVal x < flVal y), 0)
        ∧ fRel 2 x y = (decide (flVal x ≤ flVal y), 0) ∧ fRel 3 x y = (false, 0))
      ∧ (flVal x < flVal y → fMinMax f false a b = ⟨a, 0⟩ ∧ fMinMax f true a b = ⟨b, 0⟩
          ∧ fMinMax f false b a = ⟨a, 0⟩ ∧ fMinMax f true b a = ⟨b, 0⟩)
      ∧ (flVal x = flVal y → flSign x = true → flSign y = false → fMinMax f false a b = ⟨a, 0⟩ ∧ fMinMax f true a b = ⟨b, 0⟩
          ∧ fMinMax f false b a = ⟨a, 0⟩ ∧ fMinMax f true b a = ⟨b, 0⟩))
    ∧ (isNan x = true ∨ isNan y = true →
        (fRel 0 x y).1 = false ∧ (fRel 1 x y) = (false, 1) ∧ (fRel 2 x y) = (false, 1) ∧ (fRel 3 x y).1 = true
        ∧ (fRel 0 x y).2 = (if isSig x || isSig y then 1 else 0) ∧ (fRel 3 x y).2 = (if isSig x || isSig y then 1 else 0))

/-! ## Branches (06 R128 to R131) -/

namespace Sys2Proof.Claims

/-- The instruction completes at an address: PC := x, g1 := link where it links, nothing else. -/
def JumpsTo (i : Instr) (s : State) (x : Nat) (link : Bool) : Prop :=
  ∃ t, exec i s = .next t ∧ t.me.regs.pc.toNat = x ∧ readG t 1#6 = (if link then s.me.regs.pc + 4#64 else readG s 1#6)
    ∧ (∀ r, r ≠ 1#6 → readG t r = readG s r) ∧ KeepsC s t ∧ OnlyRegs s t

/-- The instruction goes on behind its own word with every register as it was. -/
def GoesOn (i : Instr) (s : State) : Prop := ∃ t, exec i s = .next t ∧ KeepsG s t ∧ KeepsC s t ∧ Advances s t ∧ OnlyRegs s t

end Sys2Proof.Claims

/-- 06 R128 to R131: taken branches, jumps and calls go to their target, calls link the word behind them (CALLR reads its target first), a branch not
taken goes on, and LOOP counts down and branches while its counter is not 0. 06 R128: a target with bits [1:0] not 0 raises cause 0x03, one with bits
[63:48] not 0 cause 0x04, KEVAL the target; no link is written and no counter falls. LOOP checks its target only when it would branch. -/
def Obligations.BranchesReachTheirTargets : Prop :=
  (∀ (s : State) (c : CReg) (sense : BitVec 1) (i22 : BitVec 22) (i26 : BitVec 26) (i14 : BitVec 14) (a : Reg),
      (readC s c = decide (sense = 1#1) → LegalTarget (targetOf s i22.toInt) → JumpsTo (.br c sense i22) s (targetOf s i22.toInt) false)
      ∧ (readC s c ≠ decide (sense = 1#1) → GoesOn (.br c sense i22) s)
      ∧ (LegalTarget (targetOf s i26.toInt) → JumpsTo (.jmp i26) s (targetOf s i26.toInt) false
          ∧ JumpsTo (.call i26) s (targetOf s i26.toInt) true)
      ∧ (LegalTarget (readG s a).toNat → JumpsTo (.jr a) s (readG s a).toNat false ∧ JumpsTo (.callr a) s (readG s a).toNat true)
      ∧ (readG s a = 1#64 → WritesG (.loop a i14) s a (fun v => v = 0#64))
      ∧ (readG s a ≠ 1#64 → LegalTarget (targetOf s i14.toInt) →
          ∃ t, exec (.loop a i14) s = .next t ∧ readG t a = (if a = 0#6 then 0#64 else readG s a - 1#64)
            ∧ (∀ r, r ≠ a → readG t r = readG s r) ∧ KeepsC s t ∧ t.me.regs.pc.toNat = targetOf s i14.toInt ∧ OnlyRegs s t))
  ∧ (∀ (s : State) (c : CReg) (sense : BitVec 1) (i22 : BitVec 22) (i26 : BitVec 26) (i14 : BitVec 14) (a : Reg),
      let taken := readC s c = decide (sense = 1#1)
      let loops := readG s a ≠ 1#64
      let T := fun (n : Nat) (i : Instr) =>
        (n % 4 ≠ 0 → Traps i s 0x03 (BitVec.ofNat 64 n)) ∧ (n % 4 = 0 → 2 ^ 48 ≤ n → Traps i s 0x04 (BitVec.ofNat 64 n))
      (taken → T (targetOf s i22.toInt) (.br c sense i22)) ∧ (loops → T (targetOf s i14.toInt) (.loop a i14))
      ∧ T (targetOf s i26.toInt) (.jmp i26) ∧ T (targetOf s i26.toInt) (.call i26)
      ∧ T (readG s a).toNat (.jr a) ∧ T (readG s a).toNat (.callr a))

/-! ## Handler control, traps and returns (06 R132 to R134, 05 R107) -/

namespace Sys2Proof.Claims

/-- A byte of home memory that no dirty byte of the L1 of the context in focus covers. -/
def CleanAt (s : State) (a : Nat) : Prop := ∀ l ∈ s.me.l1, ¬ (l.num = a / 128 ∧ l.dirty.getLsbD (a % 128) = true)

/-- Bytes of memory without a dirty copy in the L1 stand as before, window memory too: what a write-back leaves alone (08 R170). -/
def KeepsCleanMemory (s t : State) : Prop :=
  (∀ a, CleanAt s a → memByte t.mem a = memByte s.mem a) ∧ (∀ a, memByte t.win a = memByte s.win a)

/-- Every entry of the handler table but i stands as before. -/
def KeepsOtherEntries (s t : State) (i : BitVec 5) : Prop := ∀ j, j ≠ i → getEntry t.me j = getEntry s.me j

/-- The word of an instruction raises this cause as a value: checks 2 to 6 of 04 R83. -/
def TrapsWithWord (i : Instr) (s : State) (cause : BitVec 8) : Prop :=
  ∃ w, encode i = some w ∧ Traps i s cause (w.setWidth 64)

/-- The record of every core but the one in focus stands as before. -/
def KeepsOtherCores (s t : State) : Prop := ∀ c, c ≠ s.me.id.core → coreRec t c = coreRec s c

/-- The homes take the write-backs of these lines, one after another, and none of them loses a word (08 R176 to R178, 15 R361). -/
def Takes (t : State) (ls : List Line) : Prop := firstStop t (ls.map .back) = none

/-- The dirty bytes of these lines stand at their homes (08 R170), of each line that alone holds its number. -/
def Written (t : State) (ls : List Line) : Prop :=
  ∀ l ∈ ls, (∀ k ∈ ls, k.num = l.num → k = l) →
    ∀ j < 128, l.dirty.getLsbD j = true → memByte t.mem (l.num * 128 + j) = l.data.extractLsb' (8 * j) 8

end Sys2Proof.Claims

/-- 06 R132: NOP goes on; END ends the handler once its loads are complete (its entry Idle, or Runnable when pending) with its
registers in its block and the PC at the entry, and its dirty bytes written back to their homes (10 R230, 08 R170); YIELD leaves it Runnable at
PC + 4, counted as the last chosen; IDLE goes on at PC + 4 and waits unless one of its conditions holds. -/
def Obligations.HandlerControlCompletes : Prop :=
  ∀ (s : State) (i : BitVec 5),
    GoesOn .nop s
    ∧ (s.me.run = some i → (∃ p ∈ s.me.pend, p.entry = i ∧ isLoadClass p = true) → exec .endH s = .next (hold s))
    ∧ (s.me.run = some i → (∀ p ∈ s.me.pend, p.entry = i → isLoadClass p = false) → s.me.lateBad = [] → Takes s s.me.l1 →
        ∃ t, exec .endH s = .next t ∧ t.me.run = none
          ∧ (getEntry t.me i).st = (if (getEntry s.me i).pending then .runnable else .idle)
          ∧ (getEntry t.me i).pending = false ∧ (getEntry t.me i).resume = false
          ∧ (getEntry t.me i).image = (getEntry s.me i).image
          ∧ (getEntry t.me i).block
              = { s.me.regs with pc := ((getEntry s.me i).image.extractLsb' 0 48).setWidth 64 }
          ∧ KeepsOtherEntries s t i ∧ t.me.regs = s.me.regs ∧ t.me.sys = s.me.sys
          ∧ (∀ l ∈ t.me.l1, l.dirty = 0#128) ∧ Written t s.me.l1 ∧ KeepsCleanMemory s t)
    ∧ (s.me.run = some i →
        ∃ t, exec .yield s = .next t ∧ t.me.run = none ∧ t.me.last = i
          ∧ (getEntry t.me i).st = .runnable ∧ (getEntry t.me i).resume = true
          ∧ (getEntry t.me i).pending = (getEntry s.me i).pending
          ∧ (getEntry t.me i).block.g = s.me.regs.g ∧ (getEntry t.me i).block.c = s.me.regs.c
          ∧ (getEntry t.me i).block.ks = s.me.regs.ks
          ∧ (s.me.regs.pc.toNat % 4 = 0 → s.me.regs.pc.toNat + 4 < 2 ^ 48 → (getEntry t.me i).block.pc = s.me.regs.pc + 4#64)
          ∧ KeepsOtherEntries s t i ∧ KeepsMemory s t
          ∧ { t with me.run := s.me.run, me.last := s.me.last, me.htab := s.me.htab } = s)
    ∧ (1 ≤ (priv s).toNat →
        ∃ t, exec .idle s = .next t ∧ Advances s t ∧ KeepsG s t ∧ KeepsC s t ∧ KeepsMemory s t
          ∧ (wakeCondition s.me = true → t.me.sys.idle = s.me.sys.idle)
          ∧ (wakeCondition s.me = false → t.me.sys.idle = true)
          ∧ { t with me.sys.idle := s.me.sys.idle, me.regs.pc := s.me.regs.pc } = s)

/-- 05 R107, 06 R133, 04 R78: the system call, the breakpoint and the illegal word are delivered at system privilege with their cause and value, the
monitor call at monitor privilege. 06 R134: ERET restores privilege, interrupt enable and PC: at system privilege from KSTATE and KEPC, at monitor
privilege all of KSTATE[6:0] from MSTATE and the PC from MEPC. It may not return into the monitor from system privilege, and its target is checked as
R128 says. -/
def Obligations.SoftwareTrapsAndTheReturn : Prop :=
  (∀ (s : State) (a : Reg) (x : BitVec 26),
      Traps (.trap a) s 0x16 (readG s a) ∧ Traps .brk s 0x15 0#64
      ∧ Traps (.ill x) s 0x01 (x.setWidth 64)
      ∧ ∃ t, exec (.hcall a) s = .next t ∧ MonitorTrapTaken s t 0x17 (readG s a))
  ∧ (∀ (s : State),
      (priv s = 1#2 → s.me.regs.ks.ppriv.toNat < 2 → LegalTarget s.me.sys.kepc.toNat →
        ∃ t, exec .eret s = .next t ∧ t.me.regs.pc = s.me.sys.kepc
          ∧ t.me.regs.ks = { s.me.regs.ks with priv := s.me.regs.ks.ppriv, ie := s.me.regs.ks.pie }
          ∧ KeepsMemory s t ∧ { t with me.regs.pc := s.me.regs.pc, me.regs.ks := s.me.regs.ks } = s)
      ∧ (priv s = 2#2 → LegalTarget (myCore s).mepc.toNat →
        ∃ t, exec .eret s = .next t ∧ t.me.regs.pc = (myCore s).mepc
          ∧ t.me.regs.ks.priv = (myCore s).mstate.extractLsb' 0 2 ∧ t.me.regs.ks.ie = (myCore s).mstate.getLsbD 3
          ∧ t.me.regs.ks.ppriv = (myCore s).mstate.extractLsb' 4 2 ∧ t.me.regs.ks.pie = (myCore s).mstate.getLsbD 6
          ∧ KeepsMemory s t ∧ { t with me.regs.pc := s.me.regs.pc, me.regs.ks := s.me.regs.ks } = s)
      ∧ (priv s = 1#2 → 2 ≤ s.me.regs.ks.ppriv.toNat → Traps .eret s 0x02 (kstate s))
      ∧ (priv s = 1#2 → s.me.regs.ks.ppriv.toNat < 2 →
          (s.me.sys.kepc.toNat % 4 ≠ 0 → Traps .eret s 0x03 s.me.sys.kepc)
          ∧ (s.me.sys.kepc.toNat % 4 = 0 → 2 ^ 48 ≤ s.me.sys.kepc.toNat → Traps .eret s 0x04 s.me.sys.kepc))
      ∧ (priv s = 2#2 →
          ((myCore s).mepc.toNat % 4 ≠ 0 → Traps .eret s 0x03 (myCore s).mepc)
          ∧ ((myCore s).mepc.toNat % 4 = 0 → 2 ^ 48 ≤ (myCore s).mepc.toNat → Traps .eret s 0x04 (myCore s).mepc)))

/-- 04 R82, R83: an instruction below its least privilege raises a privilege fault, cause 0x02, with KEVAL its word. -/
def Obligations.PrivilegeIsChecked : Prop :=
  ∀ (s : State) (d a b : Reg) (r : BitVec 12),
    (priv s = 0#2 → ∀ i ∈ [Instr.eret, .idle, .tlbi a, .tlbia, .dcbind d a b, .barinit d a b, .pcsel a b], TrapsWithWord i s 0x02)
    ∧ ((priv s).toNat < 2 → ∀ i ∈ [Instr.ctxsw d a, .ctxpark d a, .ctxload d a b, .tlbip a, .tlbis a b], TrapsWithWord i s 0x02)
    ∧ ((priv s).toNat < 2 → r ∈ monitorSregs → TrapsWithWord (.mfs d r) s 0x02 ∧ TrapsWithWord (.mts a r) s 0x02)
    ∧ (priv s = 0#2 → r ∈ [0x001#12, 0x002#12, 0x003#12, 0x004#12, 0x005#12, 0x008#12, 0x009#12, 0x00A#12, 0x00B#12,
        0x014#12, 0x015#12, 0x016#12, 0x018#12, 0x020#12] →
        TrapsWithWord (.mfs d r) s 0x02 ∧ TrapsWithWord (.mts a r) s 0x02)
    ∧ (priv s = 0#2 → TrapsWithWord (.mts a 0x000) s 0x02)
    ∧ ((priv s).toNat < 2 → TrapsWithWord (.mts a 0x012) s 0x02)

/-! ## System registers (05 R100 to R106, 06 R135) -/

namespace Sys2Proof.Claims

/-- The registers that MFS reads, each with the least privilege that reads it and its value (05 R100 to R106). -/
def sregTable (s : State) : List (BitVec 12 × Nat × Nat) :=
  let y := s.me.sys
  let k := s.me.regs.ks
  let m := myCore s
  let set := if (setOf s s.me.id) = some true then 1 else 0
  let bit := fun (b : Bool) => if b then 1 else 0
  let p := partRec s m.mpart
  [(0x000, 0, k.priv.toNat + 4 * set + 8 * bit k.ie + 16 * k.ppriv.toNat + 64 * bit k.pie + 256 * y.spine.toNat),
   (0x001, 1, y.kcause.toNat), (0x002, 1, y.kepc.toNat), (0x003, 1, y.keval.toNat), (0x004, 1, y.kelem.toNat),
   (0x005, 1, y.kvec.toNat), (0x006, 0, y.kfpc.toNat), (0x008, 1, y.scr0.toNat), (0x009, 1, y.scr1.toNat),
   (0x00A, 1, y.scr2.toNat), (0x00B, 1, y.scr3.toNat),
   (0x010, 0, s.me.id.core.toNat + 2 ^ 16 * (coreIndex s s.me).toNat), (0x011, 0, s.me.id.part.toNat),
   (0x012, 0, s.me.id.kctx.toNat), (0x013, 0, s.ktime.toNat), (0x014, 1, y.xsave.toNat), (0x015, 1, y.spill.toNat),
   (0x016, 1, y.spillEnd.toNat), (0x018, 1, y.ktt.toNat), (0x019, 0, y.trn.toNat), (0x020, 1, y.inj.toNat),
   (0x800, 2, p.mstage.toNat), (0x801, 2, m.mpart.toNat + 2 ^ 9 * bit p.busy), (0x802, 2, m.mcal.toNat),
   (0x803, 2, p.allow.toNat), (0x804, 2, m.mquota.toNat), (0x808, 2, m.mcause.toNat), (0x809, 2, m.mepc.toNat),
   (0x80A, 2, m.meval.toNat), (0x80B, 2, (mvecOf s m).toNat), (0x80C, 2, m.mscr0.toNat), (0x80D, 2, m.mscr1.toNat),
   (0x80E, 2, m.mscr2.toNat), (0x80F, 2, m.mscr3.toNat), (0x810, 2, m.mstate.toNat)]

/-- The registers whose write is only their writable bits: the least privilege, and the first and last writable bit with the bits
within them that discard (05 R100, R105, R106; 16 R368, R371). -/
def plainWrites : List (BitVec 12 × Nat × Word) :=
  [(0x001, 1, 0x1FF), (0x002, 1, 0xFFFFFFFFFFFFFFFC), (0x003, 1, 0xFFFFFFFFFFFFFFFF), (0x004, 1, 0xFFFFFFFFFFFF0FFF),
   (0x005, 1, 0xFFFFFFFFFFFFFC00), (0x006, 0, 0x1F7F), (0x008, 1, 0xFFFFFFFFFFFFFFFF), (0x009, 1, 0xFFFFFFFFFFFFFFFF),
   (0x00A, 1, 0xFFFFFFFFFFFFFFFF), (0x00B, 1, 0xFFFFFFFFFFFFFFFF), (0x014, 1, 0xFFFFFFFFFFFF0000),
   (0x016, 1, 0xFFFFFFFFFFFFF000), (0x018, 1, 0x0000FFFFFFFFF000), (0x020, 1, 0x1FF7),
   (0x800, 2, 0x000FFFFFFFFFFE00), (0x803, 2, 0xFFFF), (0x808, 2, 0x1FF), (0x809, 2, 0xFFFFFFFFFFFFFFFC),
   (0x80A, 2, 0xFFFFFFFFFFFFFFFF), (0x80B, 2, 0xFFFFFFFFFFFFFC00), (0x80C, 2, 0xFFFFFFFFFFFFFFFF),
   (0x80D, 2, 0xFFFFFFFFFFFFFFFF), (0x80E, 2, 0xFFFFFFFFFFFFFFFF), (0x80F, 2, 0xFFFFFFFFFFFFFFFF), (0x810, 2, 0x7F)]

/-- The instruction completes with special register r reading v, and every other special register, every register of the handler
and all memory as before. -/
def WritesSreg (i : Instr) (s : State) (r : BitVec 12) (v : Word) : Prop :=
  ∃ t, exec i s = .next t ∧ readSreg t r = v ∧ (∀ q ∈ contextSregs ++ monitorSregs, q ≠ r → readSreg t q = readSreg s q)
    ∧ KeepsG s t ∧ KeepsC s t ∧ t.me.regs.ks = s.me.regs.ks ∧ Advances s t ∧ KeepsMemory s t ∧ t.others = s.others

end Sys2Proof.Claims

/-- 06 R135, 05 R100 to R106: MFS writes the value of any register of the inventory that the privilege may read, its zero bits 0. 06 R135, 05 R100,
R105, R106: MTS writes the writable bits of a register and discards the rest; so does the KINJ row, and the KSPILLEND row, which also re-arms halted
logging (11 R263). A KSPILL write moves an empty log, and is held while the log is not empty. 05 R101, 06 R135: a write of KSTATE sets PRIV, IE,
PPRIV, PIE and spine, never above the current privilege, never PRIV 0b11 and from system privilege no monitor PPRIV: those raise a privilege fault
with the written value and KSTATE stays (that KEVAL is the written value is the model's reading, log 41). The monitor writes the context id KCTX; that the
context goes by it from then on, in its core's sets and its registrations, is the model's reading (log 60). In a solo slot a spine starts a switch of the core, or follows the one in progress; in a paired slot it is only
recorded (01 R10, 05 R110). -/
def Obligations.SystemRegistersReadAndWrite : Prop :=
  (∀ (s : State) (d : Reg), ∀ e ∈ sregTable s, e.2.1 ≤ (priv s).toNat → WritesG (.mfs d e.1) s d (fun v => v.toNat = e.2.2))
  ∧ (∀ (s : State) (a : Reg), let v := readG s a
      (∀ e ∈ plainWrites, e.2.1 ≤ (priv s).toNat → WritesSreg (.mts a e.1) s e.1 (v &&& e.2.2))
      ∧ (1 ≤ (priv s).toNat → WritesSreg (.kinjWrite a) s 0x020 (v &&& 0x1FF7#64))
      ∧ (1 ≤ (priv s).toNat → WritesSreg (.kspillendWrite a) s 0x016 (v &&& 0xFFFFFFFFFFFFF000#64)
          ∧ ∃ t, exec (.kspillendWrite a) s = .next t ∧ t.me.fab.spillPorts = [])
      ∧ (1 ≤ (priv s).toNat → s.me.fab.spillLog = [] → ∀ i ∈ [Instr.mts a 0x015, .kspillWrite a],
          WritesSreg i s 0x015 (v &&& 0xFFFFFFFFFFFFF000#64)
          ∧ ∃ t, exec i s = .next t ∧ t.me.fab.spillHead = t.me.sys.spill ∧ t.me.fab.spillTail = t.me.sys.spill)
      ∧ (1 ≤ (priv s).toNat → s.me.fab.spillLog ≠ [] → ∀ i ∈ [Instr.mts a 0x015, .kspillWrite a],
          ∃ t, exec i s = .next t ∧ t.me.sys.spillHeld = some (v &&& 0xFFFFFFFFFFFFF000#64) ∧ Advances s t ∧ KeepsMemory s t
            ∧ { t with me.sys.spillHeld := s.me.sys.spillHeld, me.regs.pc := s.me.regs.pc } = s))
  ∧ (∀ (s : State) (a : Reg), let v := readG s a
      let bad := v.extractLsb' 0 2 = 3#2 ∨ (priv s).toNat < (v.extractLsb' 0 2).toNat
        ∨ (priv s = 1#2 ∧ 2 ≤ (v.extractLsb' 4 2).toNat)
      1 ≤ (priv s).toNat → ∀ i ∈ [Instr.mts a 0x000, .kstateWrite a],
        (bad → Traps i s 0x02 v)
        ∧ (¬ bad → ∃ t, exec i s = .next t
            ∧ t.me.regs.ks = { priv := v.extractLsb' 0 2, ie := v.getLsbD 3, ppriv := v.extractLsb' 4 2, pie := v.getLsbD 6 }
            ∧ t.me.sys.spine = v.extractLsb' 8 3
            ∧ ((myCore s).paired = true → myCore t = myCore s)
            ∧ ((myCore s).paired = false → (myCore s).spineNew = none →
                (myCore t).spineNext = (myCore s).spineNext
                ∧ (myCore t).spineNew = if v.extractLsb' 8 3 = (myCore s).spine then none else some (v.extractLsb' 8 3))
            ∧ ((myCore s).paired = false → (myCore s).spineNew ≠ none →
                (myCore t).spineNew = (myCore s).spineNew ∧ (myCore t).spineNext = some (v.extractLsb' 8 3))
            ∧ { myCore t with spineNew := (myCore s).spineNew, spineNext := (myCore s).spineNext } = myCore s ∧ KeepsOtherCores s t
            ∧ KeepsG s t ∧ KeepsC s t ∧ Advances s t ∧ KeepsMemory s t
            ∧ { t with cores := s.cores, me.regs.ks := s.me.regs.ks, me.regs.pc := s.me.regs.pc, me.sys.spine := s.me.sys.spine } = s))
  ∧ (∀ (s : State) (a : Reg), priv s = 2#2 →
      let new : CtxId := { s.me.id with kctx := (readG s a).setWidth 16 }
      let named := fun (x : SetRec) => { x with ctx := if x.ctx = some s.me.id then some new else x.ctx }
      ∃ t, exec (.mts a 0x012) s = .next t ∧ (readSreg t 0x012).toNat = (readG s a).toNat % 2 ^ 16 ∧ t.me.id = new
        ∧ myCore t = { myCore s with setA := named (myCore s).setA, setB := named (myCore s).setB } ∧ KeepsOtherCores s t
        ∧ t.grains = s.grains.map (fun g => { g with ctx := if g.ctx = s.me.id then new else g.ctx })
        ∧ KeepsG s t ∧ KeepsC s t ∧ Advances s t ∧ KeepsMemory s t
        ∧ { t with cores := s.cores, grains := s.grains, me.id := s.me.id, me.regs.pc := s.me.regs.pc } = s)

/-! ## The monitor's commands (16 R367 to R371) and context sets (06 R136, R137) -/

namespace Sys2Proof.Claims

/-- A context after a containment event of its partition: at its values at creation, but for energy, save area and share (15 R358), and for what the epoch
has counted of it (17 R385, R396). -/
def contained (c : Ctx) : Ctx :=
  { Ctx.create c.id with
    energy := c.energy, sys.xsave := c.sys.xsave, shareBase := c.shareBase, shareSize := c.shareSize
    cyc := c.cyc, pairCyc := c.pairCyc, work := c.work, moved := c.moved, fab.fired := c.fab.fired }

end Sys2Proof.Claims

/-- 15 R357, R358, 16 R367: MPART selects its partition; with contain = 1 it contains it: its counters, barriers and transits go, its contexts, the one
in focus too, return to their values at creation (but for energy, save area and share), its packets and registrations go, busy reads 1, the containment is
counted and its interrupt raised (16 R376, 15 R360), and committed memory and every other context stand. That PSTATE reads 3 then is the model's choice
(log 87), and that the tables in the save areas of its contexts are cleared is its reading (log 33). -/
def Obligations.ContainmentDiscardsTheWorkInFlight : Prop :=
  ∀ (s : State) (a : Reg), let v := readG s a
    let p : BitVec 6 := v.extractLsb' 0 6
    priv s = 2#2 →
      (v.getLsbD 8 = false → ∃ t, exec (.mts a 0x801) s = .next t ∧ (myCore t).mpart = p ∧ t.parts = s.parts ∧ KeepsG s t
        ∧ Advances s t ∧ { myCore t with mpart := (myCore s).mpart } = myCore s
        ∧ { t with cores := s.cores, me.regs.pc := s.me.regs.pc } = s)
      ∧ (v.getLsbD 8 = true → ∀ i ∈ [Instr.mts a 0x801, .mpartContain a],
          ∃ t, exec i s = .next t ∧ (myCore t).mpart = p
            ∧ (partRec t p).busy = true ∧ (partRec t p).pstate = 3#3 ∧ (partRec t p).contained = (partRec s p).contained + 1
            ∧ (partRec t p).dcs = [] ∧ (partRec t p).bars = [] ∧ (partRec t p).eph = []
            ∧ (partRec t p).coreList = (partRec s p).coreList ∧ (∀ q, q ≠ p → partRec t q = partRec s q)
            ∧ t.others = s.others.map (fun c => if c.id.part = 0#1 ++ p then contained c else c)
            ∧ (s.me.id.part = 0#1 ++ p → t.me = contained s.me)
            ∧ (s.me.id.part ≠ 0#1 ++ p → Advances s t ∧ { t.me with regs.pc := s.me.regs.pc } = s.me)
            ∧ (∀ k ∈ t.net, k.part ≠ 0#1 ++ p ∧ k ∈ s.net) ∧ (∀ g ∈ t.grains, g.ctx.part ≠ 0#1 ++ p ∧ g ∈ s.grains)
            ∧ t.host = s.host ++ [.msix p] ∧ t.win = s.win
            ∧ (∀ x, (∀ area ∈ resetAreas s p, ¬ (area + 0x10000 ≤ x ∧ x < area + 0x100000)) → memByte t.mem x = memByte s.mem x))

namespace Sys2Proof.Claims

/-- A command word of MCAL (16 R369). -/
def mcalCmd (write : Bool) (table dir : Nat) (target : CoreId) (index data : Nat) : Word :=
  BitVec.ofNat 64 (index * 2 ^ 4 + target.toNat * 2 ^ 10 + dir * 2 ^ 22 + table * 2 ^ 24 + (if write then 2 ^ 27 else 0) + data * 2 ^ 28)

/-- A command word of MQUOTA (16 R370). -/
def mquotaCmd (write : Bool) (table index data : Nat) : Word :=
  BitVec.ofNat 64 (index * 2 ^ 20 + table * 2 ^ 36 + (if write then 2 ^ 39 else 0) + data * 2 ^ 40)

/-- The MTS of a command register completes with a result, the PC behind it, and the handler's registers and all memory as before. -/
def Commands (is : List Instr) (s : State) (p : State → Prop) : Prop :=
  ∀ i ∈ is, ∃ t, exec i s = .next t ∧ p t ∧ KeepsG s t ∧ KeepsC s t ∧ Advances s t ∧ KeepsMemory s t

/-- Core records but for the command registers of the monitor. -/
def SameCore (x y : CoreRec) : Prop := { x with mcal := y.mcal, mquota := y.mquota } = y

end Sys2Proof.Claims

/-- 16 R369: the commands of MCAL on the tables of a core that the monitor rents out: a write of a slot, a descriptor, a save area or
the run bit is in place for the next beginning of the slot, and a read returns what stands there; the command reads back with status
0 and its data. A stop takes effect at the boundary that follows the command; one that is due takes place first (16 R383). A slot write takes from other
contexts at most the pre-emption notices of contexts that have left the calendar (15 R362). That the context a descriptor names exists from then on is the
model's choice (log 16). -/
def Obligations.CalendarCommandsOfACore : Prop :=
  ∀ (s : State) (a : Reg) (c : CoreId) (k : Nat) (x : Nat),
    priv s = 2#2 → isMonitorCore c = false → k < 16 → x < 2 ^ 36 →
    let r := coreRec s c
    let V := fun (t : State) (w : Word) => (myCore t).mcal = w
    (readG s a = mcalCmd true 0 0 c k x → x < 2 ^ 27 → slotRefused r (BitVec.ofNat 32 x) = false →
        Commands [.mts a 0x802, .mcalSlotWrite a] s (fun t => V t (mcalCmd true 0 0 c k x)
          ∧ nextWord (coreRec t c) k = BitVec.ofNat 32 x ∧ (∀ j < 16, j ≠ k → nextWord (coreRec t c) j = nextWord r j)
          ∧ (r.running = true → (coreRec t c).slots = r.slots)
          ∧ (∀ k ∈ t.others, ∃ k0 ∈ s.others, k0.id = k.id ∧ k0.regs = k.regs ∧ k0.sys = k.sys ∧ k0.pend = k.pend ∧ k0.fab.queues = k.fab.queues ∧ ∀ x ∈ k0.asyncs, x.kcause ≠ 0x18#9 → x ∈ k.asyncs)))
    ∧ (readG s a = mcalCmd false 0 0 c k x →
        Commands [.mts a 0x802, .mcalSlotRead a] s (fun t => V t (mcalCmd false 0 0 c k (nextWord r k).toNat)
          ∧ ∀ c, SameCore (coreRec t c) (coreRec s c)))
    ∧ (readG s a = mcalCmd true 1 0 c k x → k < 8 → x < 2 ^ 23 →
        Commands [.mts a 0x802, .mcalDescriptorWrite a] s (fun t => V t (mcalCmd true 1 0 c k x)
          ∧ (descOf (coreRec t c) k).w0.toNat = x ∧ (descOf (coreRec t c) k).save = (descOf r k).save
          ∧ (2 ^ 22 ≤ x → (findCtx t { core := c, part := BitVec.ofNat 7 (x / 2 ^ 16 % 64), kctx := BitVec.ofNat 16 x }).isSome)))
    ∧ (readG s a = mcalCmd false 1 0 c k x → k < 8 →
        Commands [.mts a 0x802, .mcalDescriptorRead a] s (fun t => V t (mcalCmd false 1 0 c k (descOf r k).w0.toNat)
          ∧ ∀ c, SameCore (coreRec t c) (coreRec s c)))
    ∧ (readG s a = mcalCmd true 2 0 c k x → k < 8 → x / 2 ^ 30 = s.module.toNat →
        Commands [.mts a 0x802, .mcalSaveAreaWrite a] s (fun t => V t (mcalCmd true 2 0 c k x)
          ∧ (descOf (coreRec t c) k).save.toNat = x * 2 ^ 16 ∧ (descOf (coreRec t c) k).w0 = (descOf r k).w0))
    ∧ (readG s a = mcalCmd false 2 0 c k x → k < 8 →
        Commands [.mts a 0x802, .mcalSaveAreaRead a] s (fun t => V t (mcalCmd false 2 0 c k ((descOf r k).save.toNat / 2 ^ 16))
          ∧ ∀ c, SameCore (coreRec t c) (coreRec s c)))
    ∧ (readG s a = mcalCmd true 3 0 c 0 1 →
        Commands [.mts a 0x802, .mcalCalendarStart a] s (fun t => V t (mcalCmd true 3 0 c 0 1)
          ∧ (coreRec t c).running = true ∧ (coreRec t c).stopReq = false ∧ t.others = s.others))
    ∧ (readG s a = mcalCmd true 3 0 c 0 0 →
        Commands [.mts a 0x802, .mcalCalendarStop a] s (fun t => V t (mcalCmd true 3 0 c 0 0)
          ∧ t.others = s.others
          ∧ (boundaryDue s c = false → (coreRec t c).running = r.running ∧ (coreRec t c).stopReq = r.running)
          ∧ (boundaryDue s c = true → r.stopReq = false →
              (coreRec t c).running = true ∧ (coreRec t c).stopReq = true ∧ (coreRec t c).boundary = true)
          ∧ (boundaryDue s c = true → r.stopReq = true → (coreRec t c).running = false ∧ (coreRec t c).stopReq = false)))
    ∧ (readG s a = mcalCmd false 3 0 c 0 x →
        Commands [.mts a 0x802, .mcalRunRead a] s (fun t => V t (mcalCmd false 3 0 c 0 (if r.running then 2 else 0))
          ∧ ∀ c, SameCore (coreRec t c) (coreRec s c)))

/-- 16 R369, 13 R317: the commands of MCAL on the slots and virtual channels of mesh links, bridges and Umavas links: an owner code written stands in
its place alone, a read returns it; slot 0 and channel 0 stay the monitor's. A refused command changes nothing but the command register. 16 R370: the
commands of MQUOTA for the partition that MPART selects: way masks, DRAM slots, window shares and the core list; a write stands in its place, a read
returns what stands there, and the command reads back with status 0 and its data. The first valid entry of a core list creates the partition, with its
counters, barriers and ephemeris at their reset values (13 R305, 14 R331; that the core list does so is the model's choice, log 5). -/
def Obligations.LinkAndQuotaCommands : Prop :=
  (∀ (s : State) (a : Reg) (c : CoreId) (d k x : Nat), priv s = 2#2 → x < 2 ^ 36 → d < 4 → k < 64 →
      let V := fun (t : State) (w : Word) => (myCore t).mcal = w
      let outer := c.toNat < 10 ∨ (16 ≤ c.toNat ∧ c.toNat < 40)
      let mesh := c.toNat * 4 + d
      let far := 16384 + c.toNat * 2 + d
      let good := x ≤ 0x40 ∨ x = 0x7F
      let first := k = 0 → x = 0x40
      let slots := fun (t : State) (l : Nat) => tabGet 0x40#7 t.links (l * 64 + k) = BitVec.ofNat 7 x
        ∧ (∀ j, j ≠ l * 64 + k → tabGet 0x40#7 t.links j = tabGet 0x40#7 s.links j) ∧ t.vcs = s.vcs
      let chans := fun (t : State) (l : Nat) => tabGet 0x40#7 t.vcs (l * 16 + k) = BitVec.ofNat 7 x
        ∧ (∀ j, j ≠ l * 16 + k → tabGet 0x40#7 t.vcs j = tabGet 0x40#7 s.vcs j) ∧ t.links = s.links
      (readG s a = mcalCmd true 4 d c k x → good → first →
          Commands [.mts a 0x802, .mcalLinkSlotWrite a] s (fun t => V t (mcalCmd true 4 d c k x) ∧ slots t mesh))
      ∧ (readG s a = mcalCmd false 4 d c k x →
          Commands [.mts a 0x802, .mcalLinkSlotRead a] s (fun t =>
            V t (mcalCmd false 4 d c k (tabGet 0x40#7 s.links (mesh * 64 + k)).toNat) ∧ t.links = s.links))
      ∧ (readG s a = mcalCmd true 5 d c k x → k < 16 → good → first →
          Commands [.mts a 0x802, .mcalLinkChannelWrite a] s (fun t => V t (mcalCmd true 5 d c k x) ∧ chans t mesh))
      ∧ (readG s a = mcalCmd false 5 d c k x → k < 16 →
          Commands [.mts a 0x802, .mcalLinkChannelRead a] s (fun t =>
            V t (mcalCmd false 5 d c k (tabGet 0x40#7 s.vcs (mesh * 16 + k)).toNat) ∧ t.vcs = s.vcs))
      ∧ (readG s a = mcalCmd true 6 d c k x → outer → d < 2 → good → first →
          Commands [.mts a 0x802, .mcalBridgeSlotWrite a] s (fun t => V t (mcalCmd true 6 d c k x) ∧ slots t far))
      ∧ (readG s a = mcalCmd false 6 d c k x → outer → d < 2 →
          Commands [.mts a 0x802, .mcalBridgeSlotRead a] s (fun t =>
            V t (mcalCmd false 6 d c k (tabGet 0x40#7 s.links (far * 64 + k)).toNat) ∧ t.links = s.links))
      ∧ (readG s a = mcalCmd true 7 d c k x → outer → d < 2 → k < 16 → good → first →
          Commands [.mts a 0x802, .mcalBridgeChannelWrite a] s (fun t => V t (mcalCmd true 7 d c k x) ∧ chans t far))
      ∧ (readG s a = mcalCmd false 7 d c k x → outer → d < 2 → k < 16 →
          Commands [.mts a 0x802, .mcalBridgeChannelRead a] s (fun t =>
            V t (mcalCmd false 7 d c k (tabGet 0x40#7 s.vcs (far * 16 + k)).toNat) ∧ t.vcs = s.vcs))
      ∧ (∀ w, readG s a = w → (mcalRun s w).status ≠ 0 → ∃ t, exec (.mts a 0x802) s = .next t
          ∧ (myCore t).mcal.toNat % 16 = (mcalRun s w).status % 16 ∧ (∀ c, SameCore (coreRec t c) (coreRec s c))
          ∧ { t with cores := s.cores, me.regs.pc := s.me.regs.pc } = s))
  ∧ (∀ (s : State) (a : Reg) (k x : Nat), priv s = 2#2 → k < 2 ^ 16 → x < 2 ^ 24 →
      let p := (myCore s).mpart
      let V := fun (t : State) (w : Word) => (myCore t).mquota = w
      let core : CoreId := BitVec.ofNat 12 k
      let r := coreRec s core
      let e := k / 2 ^ 12
      let id := descCtx core (descOf r e)
      let last := (List.range 64).all (fun i => i = k % 64 || tabGet 0x40#7 s.dram (k / 64 * 64 + i) ≠ 0x40#7)
      (readG s a = mquotaCmd true 0 k x → k < 640 → x < 2 ^ 20 →
          Commands [.mts a 0x804, .mquotaWayMaskWrite a] s (fun t => V t (mquotaCmd true 0 k x)
            ∧ tabGet 0#20 (partRec t p).ways k = BitVec.ofNat 20 x
            ∧ (∀ j, j ≠ k → tabGet 0#20 (partRec t p).ways j = tabGet 0#20 (partRec s p).ways j)
            ∧ (∀ q, q ≠ p → partRec t q = partRec s q)))
      ∧ (readG s a = mquotaCmd false 0 k x → k < 640 →
          Commands [.mts a 0x804, .mquotaWayMaskRead a] s (fun t =>
            V t (mquotaCmd false 0 k (tabGet 0#20 (partRec s p).ways k).toNat) ∧ t.parts = s.parts))
      ∧ (readG s a = mquotaCmd true 1 k x → k < 512 → x ≤ 0x40 → (x = 0x40 ∨ last = false) →
          Commands [.mts a 0x804, .mquotaDramSlotWrite a] s (fun t => V t (mquotaCmd true 1 k x)
            ∧ tabGet 0x40#7 t.dram k = BitVec.ofNat 7 x
            ∧ (∀ j, j ≠ k → tabGet 0x40#7 t.dram j = tabGet 0x40#7 s.dram j) ∧ t.parts = s.parts))
      ∧ (readG s a = mquotaCmd false 1 k x → k < 512 →
          Commands [.mts a 0x804, .mquotaDramSlotRead a] s (fun t =>
            V t (mquotaCmd false 1 k (tabGet 0x40#7 s.dram k).toNat) ∧ t.dram = s.dram))
      ∧ (readG s a = mquotaCmd true 2 k x → e < 8 → isMonitorCore core = false → x % 2 ^ 12 + x / 2 ^ 12 < 4096 →
          (pairedWith r e).all (fun j => !sharesMeet (x % 2 ^ 12) (x / 2 ^ 12) (descOf r j).shareBase.toNat (descOf r j).shareSize.toNat) = true →
          (descValid (descOf r e) = true → r.setA.ctx ≠ some id ∧ r.setB.ctx ≠ some id) →
          Commands [.mts a 0x804, .mquotaShareWrite a] s (fun t => V t (mquotaCmd true 2 k x)
            ∧ (descOf (coreRec t core) e).shareBase.toNat = x % 2 ^ 12 ∧ (descOf (coreRec t core) e).shareSize.toNat = x / 2 ^ 12
            ∧ (descOf (coreRec t core) e).w0 = (descOf r e).w0 ∧ (descOf (coreRec t core) e).save = (descOf r e).save))
      ∧ (readG s a = mquotaCmd false 2 k x → e < 8 → isMonitorCore core = false →
          Commands [.mts a 0x804, .mquotaShareRead a] s (fun t =>
            V t (mquotaCmd false 2 k ((descOf r e).shareBase.toNat + (descOf r e).shareSize.toNat * 2 ^ 12))
            ∧ ∀ c, SameCore (coreRec t c) (coreRec s c)))
      ∧ (readG s a = mquotaCmd true 3 k x → k < 4096 → x < 2 ^ 13 →
          (2 ^ 12 ≤ x → isMonitorCore (BitVec.ofNat 12 x) = false
            ∧ ∀ y ∈ (partRec s p).coreList, y.1 ≠ k → y.2 ≠ (BitVec.ofNat 12 x : CoreId)) →
          Commands [.mts a 0x804, .mquotaCoreListWrite a] s (fun t => V t (mquotaCmd true 3 k x)
            ∧ listCore t p k = (if 2 ^ 12 ≤ x then some (BitVec.ofNat 12 x) else none)
            ∧ (x < 2 ^ 12 → tabGet 0 (partRec t p).coreOld k = BitVec.ofNat 12 x)
            ∧ (2 ^ 12 ≤ x → (partRec s p).coreList = [] →
                (partRec t p).dcs = [] ∧ (partRec t p).bars = [] ∧ (partRec t p).eph = [] ∧ (partRec t p).contained = 0)
            ∧ (x < 2 ^ 12 ∨ (partRec s p).coreList ≠ [] →
                { partRec t p with coreList := (partRec s p).coreList, coreOld := (partRec s p).coreOld } = partRec s p)
            ∧ (∀ j, j ≠ k → listCore t p j = listCore s p j) ∧ (∀ q, q ≠ p → partRec t q = partRec s q)))
      ∧ (readG s a = mquotaCmd false 3 k x → k < 4096 →
          Commands [.mts a 0x804, .mquotaCoreListRead a] s (fun t =>
            V t (mquotaCmd false 3 k (match listCore s p k with | none => (tabGet 0 (partRec s p).coreOld k).toNat | some c => c.toNat + 2 ^ 12))
            ∧ t.parts = s.parts)))

/-- 06 R137: the three context-set instructions answer a status in gd and never fault on an operand: 5 for a bad operand, 2 for a monitor
core, 0x100 with the state for a query, 3 for a CTXSW while the calendar runs, 1 where the set is not in the state they need, else 0
with the set Parking, Loading, or due to become Active at the next token boundary. That CTXLOAD looks at the set before its address, of which it takes 52
bits, is the model's choice (log 73), and so is the context that it takes a save area to hold (log 15). -/
def Obligations.ContextSetInstructionsAnswerAStatus : Prop :=
  ∀ (s : State) (d a b : Reg), priv s = 2#2 →
    let op := readG s a
    let core : CoreId := op.extractLsb' 0 12
    let sel := op.getLsbD 12
    let r := coreRec s core
    let x := getSet r sel
    let good := op.toNat / 2 ^ 16 = 0 ∧ op.extractLsb' 13 2 = 0#2
    let acts := good ∧ isMonitorCore core = false ∧ op.getLsbD 15 = false
    let rest := x.st = .ready ∨ x.st = .frozen
    let all := [Instr.ctxsw d a, .ctxpark d a, .ctxload d a b]
    (¬ good → ∀ i ∈ all, WritesG i s d (fun v => v = 5#64))
    ∧ (good → isMonitorCore core = true → ∀ i ∈ all, WritesG i s d (fun v => v = 2#64))
    ∧ (good → isMonitorCore core = false → op.getLsbD 15 = true →
        ∀ i ∈ all, WritesG i s d (fun v => v.toNat = 0x100 + setCode x.st))
    ∧ (acts → r.running = true → WritesG (.ctxsw d a) s d (fun v => v = 3#64))
    ∧ (acts → r.running = false → ¬ rest → WritesG (.ctxsw d a) s d (fun v => v = 1#64))
    ∧ (acts → ¬ rest → WritesG (.ctxpark d a) s d (fun v => v = 1#64))
    ∧ (acts → x.st ≠ .empty → WritesG (.ctxload d a b) s d (fun v => v = 1#64))
    ∧ (acts → x.st = .empty → (readG s b).toNat % 2 ^ 16 ≠ 0 → WritesG (.ctxload d a b) s d (fun v => v = 4#64))
    ∧ (acts → r.running = false → rest → ∃ t, exec (.ctxsw d a) s = .next t ∧ readG t d = 0#64
        ∧ (coreRec t core).swReq = some sel ∧ { coreRec t core with swReq := r.swReq } = r
        ∧ (∀ c, c ≠ core → coreRec t c = coreRec s c) ∧ (∀ k, k ≠ d → readG t k = readG s k) ∧ KeepsMemory s t ∧ Advances s t)
    ∧ (acts → rest → ∃ t, exec (.ctxpark d a) s = .next t ∧ readG t d = 0#64
        ∧ getSet (coreRec t core) sel = { x with st := .parking } ∧ getSet (coreRec t core) (!sel) = getSet r (!sel)
        ∧ (∀ c, c ≠ core → coreRec t c = coreRec s c) ∧ (∀ k, k ≠ d → readG t k = readG s k) ∧ KeepsMemory s t ∧ Advances s t)
    ∧ (acts → x.st = .empty → (readG s b).toNat % 2 ^ 16 = 0 → ∃ t, exec (.ctxload d a b) s = .next t ∧ readG t d = 0#64
        ∧ getSet (coreRec t core) sel = { x with st := .loading, ctx := some (areaCtx s core ((readG s b).toNat % 2 ^ 52)) }
        ∧ getSet (coreRec t core) (!sel) = getSet r (!sel) ∧ (∀ k, k ≠ d → readG t k = readG s k) ∧ KeepsMemory s t ∧ Advances s t)

/-! ## Loads, stores, atomics, fences and sync words (09 R187 to R200, 08 R168 to R173, 10, 14 R325) -/

namespace Sys2Proof.Claims

/-- The access passes the checks of 09 R187 at a physical address; t is the state with its translation installed. -/
def Reaches (s : State) (va : Word) (size : Nat) (n : Need) (t : State) (pa : Nat) : Prop :=
  access s (priv s) va size n = .ok t pa ∧ (inL1 t pa = true ∨ reachable t pa = true)

/-- The homes serve an access through the L1 at once: they take the write-backs it asks for, and give its line where the set does not hold it
(08 R172, R176 to R178). -/
def Served (t : State) (num : Nat) (ro : Bool) : Prop := firstStop t (fillReqs t num ro) = none

/-- A plain access there takes no fault and does not wait: pinning, the race check, its homes, and for a read an uncorrectable word (10 R232, R236;
08 R183). -/
def PlainOk (t : State) (pa size : Nat) (write : Bool) : Prop :=
  pastPin t pa = false ∧ races t pa size write true = false ∧ Served t (pa / 128) false ∧ (write = false → readLost t pa size false = false)

/-- Data and dirty mask of a line as a plain access (ro false) or the read-only path (ro true) finds it: the L1's copy of its own
kind, else the bytes of its home after the copy of the other kind has gone (08 R172). -/
def lineFor (t : State) (num : Nat) (ro : Bool) : BitVec 1024 × BitVec 128 :=
  match findLine t.me num with
  | some l => if l.ro = ro then (l.data, l.dirty) else (homeLine (dropLine t num).mem num, 0)
  | none => (homeLine t.mem num, 0)

/-- The other contexts stand as before, but for a translation that the other set of the core may have lost (08 R181). -/
def SameButTlb (s u : State) : Prop :=
  u.others.map (fun c => { c with tlb := [] }) = s.others.map (fun c => { c with tlb := [] })

/-- What a memory access of a handler may change besides its own effect: L1 (other lines at most leave it), TLB, counters,
registrations, the order and contents of the L2, the lists of lines, and home memory at dirty bytes that are written back: another line stays in the L1,
or its dirty bytes stand at their home. -/
def MemoryFrame (s u : State) (num : Nat) : Prop :=
  (∀ l ∈ u.me.l1, l.num ≠ num → l ∈ s.me.l1) ∧ Written u (s.me.l1.filter (fun l => l.num ≠ num && !u.me.l1.contains l)) ∧ KeepsCleanMemory s u ∧ KeepsG s u ∧ KeepsC s u ∧ SameButTlb s u
  ∧ { u with mem := s.mem, bad := s.bad, retired := s.retired, grains := s.grains, l2 := s.l2, others := s.others, me.l1 := s.me.l1,
             me.tlb := s.me.tlb, me.perf := s.me.perf, me.pend := s.me.pend, me.regs.pc := s.me.regs.pc } = s

/-- The operation is outstanding behind the earlier ones, with its register, handler and value. -/
def LoadPends (s u : State) (d : Reg) (v : Word) : Prop :=
  u.me.pend = s.me.pend ++ [{ dst := d, entry := runEntry s, op := .value v }] ∧ Advances s u

/-- The value of a load of a width from n bytes (09 R189): sign-extended for the codes 0, 2 and 4, else zero-extended. -/
def Extends (w : BitVec 3) (n : Nat) (v : Word) : Prop :=
  if w = 0#3 ∨ w = 2#3 ∨ w = 4#3 then
    v.toInt = (if 2 ^ (8 * widthSize w - 1) ≤ n then (n : Int) - 2 ^ (8 * widthSize w) else n)
  else v.toNat = n

end Sys2Proof.Claims

/-- 09 R189, R191, 14 R325: LD, LDRO and LDW bind their value, read through the L1 (or the window), to their register and go on; no register changes
before LOAD_COMPLETION writes it and lets the counter fall. 09 R189, R198, 08 R170: ST puts the low bytes of its register into the line of its address
in the L1 and marks them dirty, every other byte of the line as it was; CZERO makes the whole line zero and dirty; STW writes window memory,
little-endian, and no other byte. That plain stores complete in their own step is the model's choice (DESIGN CHOICE, log 8). -/
def Obligations.LoadsAndStores : Prop :=
  (∀ (s : State) (d a : Reg) (w : BitVec 3) (i : BitVec 7), widthOk w = true → loadsOut s.me < 63 →
      let size := widthSize w
      let ea := readG s a + i.signExtend 64 * BitVec.ofNat 64 size
      (∀ t pa, Reaches s ea size needRead t pa → PlainOk t pa size false →
          ∃ u v, exec (.ld d a w i) s = .next u ∧ LoadPends s u d v ∧ Extends w (lineNat (lineFor t (pa / 128) false).1 (pa % 128) size) v
            ∧ MemoryFrame s u (pa / 128))
      ∧ (∀ t pa, Reaches s ea size needRead t pa → Served t (pa / 128) true → readLost t pa size true = false →
          ∃ u v, exec (.ldro d a w i) s = .next u ∧ LoadPends s u d v ∧ Extends w (lineNat (lineFor t (pa / 128) true).1 (pa % 128) size) v
            ∧ MemoryFrame s u (pa / 128) ∧ u.grains = s.grains)
      ∧ (ea.toNat < 2 ^ 20 → ea.toNat % size = 0 → winCheck s.me ea.toNat size [0, 1, 2] = none →
          winLost s s.me.id.core ea.toNat size = false →
          ∃ u v, exec (.ldw d a w i) s = .next u ∧ LoadPends s u d v
            ∧ Extends w (memNat s.win (s.me.id.core.toNat * 2 ^ 20 + ea.toNat) size) v ∧ KeepsG s u ∧ KeepsMemory s u
            ∧ { u with me.pend := s.me.pend, me.regs.pc := s.me.regs.pc } = s)
      ∧ (∀ (k : Nat) (r : Reg) (e : BitVec 5) (v : Word), s.me.pend[k]? = some { dst := r, entry := e, op := .value v } →
          ∃ u, exec (.loadCompletion k) s = .next u ∧ u.me.pend = s.me.pend.eraseIdx k ∧ KeepsMemory s u
            ∧ (∀ q, q ≠ r → readG u q = readG s q) ∧ u.me.regs.pc = s.me.regs.pc ∧ KeepsC s u ∧ u.me.regs.ks = s.me.regs.ks
            ∧ (s.me.run = some e → readG u r = if r = 0#6 then 0#64 else v)
            ∧ (s.me.run ≠ some e → KeepsG s u ∧ (r ≠ 0#6 → (getEntry u.me e).block.g = (getEntry s.me e).block.g.set r.toNat v))
            ∧ { u with me.pend := s.me.pend, me.regs := s.me.regs, me.htab := s.me.htab } = s))
  ∧ (∀ (s : State) (d a : Reg) (w : BitVec 2) (i : BitVec 7), storesOut s.me < 63 →
      let size := 2 ^ w.toNat
      let ea := readG s a + i.signExtend 64 * BitVec.ofNat 64 size
      (∀ t pa, Reaches s ea size needWrite t pa → PlainOk t pa size true → pa % 128 + size ≤ 128 →
          ∃ u l, exec (.st d a w i) s = .next u ∧ findLine u.me (pa / 128) = some l ∧ l.ro = false
            ∧ (∀ j < 128, l.data.extractLsb' (8 * j) 8 =
                if pa % 128 ≤ j ∧ j < pa % 128 + size then (readG s d).extractLsb' (8 * (j - pa % 128)) 8
                else (lineFor t (pa / 128) false).1.extractLsb' (8 * j) 8)
            ∧ (∀ j < 128, l.dirty.getLsbD j =
                if pa % 128 ≤ j ∧ j < pa % 128 + size then true else (lineFor t (pa / 128) false).2.getLsbD j)
            ∧ Advances s u ∧ u.me.pend = s.me.pend ∧ MemoryFrame s u (pa / 128))
      ∧ (∀ t pa, Reaches s (readG s a) 1 needWrite t pa → pastPin t (pa / 128 * 128) = false →
          races t (pa / 128 * 128) 128 true true = false → Takes t (evictees t (pa / 128)) →
          ∃ u l, exec (.czero a) s = .next u ∧ findLine u.me (pa / 128) = some l ∧ l.ro = false ∧ l.data = 0#1024
            ∧ (∀ j < 128, l.dirty.getLsbD j = true) ∧ Advances s u ∧ u.me.pend = s.me.pend ∧ MemoryFrame s u (pa / 128))
      ∧ (ea.toNat < 2 ^ 20 → ea.toNat % size = 0 → winCheck s.me ea.toNat size [0, 1, 2] = none →
          ∃ u, exec (.stw d a w i) s = .next u ∧ Advances s u ∧ KeepsG s u
            ∧ (∀ x, memByte u.win x =
                let base := s.me.id.core.toNat * 2 ^ 20 + ea.toNat
                if base ≤ x ∧ x < base + size then (readG s d).extractLsb' (8 * (x - base)) 8 else memByte s.win x)
            ∧ (∀ x, memByte u.mem x = memByte s.mem x) ∧ { u with win := s.win, winBad := s.winBad, me.regs.pc := s.me.regs.pc } = s))

/-- 09 R187: an access that is not aligned to its size raises cause 0x03 with its address before anything else, one beyond 48 bits
cause 0x04, and one beyond the window cause 0x05; at monitor privilege an aligned access to DRAM of the module is granted at its
own address (DEDUCED, log 13). -/
def Obligations.AccessChecksInOrder : Prop :=
  ∀ (s : State) (d a b : Reg) (w : BitVec 3) (sw : BitVec 2) (i : BitVec 7) (o sc : BitVec 2),
    loadsOut s.me < 63 → storesOut s.me < 63 → widthOk w = true →
    let base := readG s a
    let ea := base + i.signExtend 64 * BitVec.ofNat 64 (widthSize w)
    let es := base + i.signExtend 64 * BitVec.ofNat 64 (2 ^ sw.toNat)
    (ea.toNat % widthSize w ≠ 0 → ∀ x ∈ [Instr.ld d a w i, .ldro d a w i, .ldw d a w i], Traps x s 0x03 ea)
    ∧ (es.toNat % 2 ^ sw.toNat ≠ 0 → ∀ x ∈ [Instr.st d a sw i, .stw d a sw i], Traps x s 0x03 es)
    ∧ (base.toNat % 8 ≠ 0 → ∀ x ∈ [Instr.aad d a b o sc, .aswp d a b o sc, .acas d a b 0 o sc], Traps x s 0x03 base)
    ∧ (base.toNat % 16 ≠ 0 → ∀ x ∈ [Instr.swset a b, .swadd a b, .swwait d a b, .swget d a], Traps x s 0x03 base)
    ∧ (ea.toNat % widthSize w = 0 → 2 ^ 48 ≤ ea.toNat → Traps (.ld d a w i) s 0x04 ea ∧ Traps (.ldro d a w i) s 0x04 ea)
    ∧ (ea.toNat % widthSize w = 0 → 2 ^ 20 ≤ ea.toNat → Traps (.ldw d a w i) s 0x05 ea)
    ∧ (∀ (va : Word) (size : Nat) (n : Need), priv s = 2#2 → size ∣ 128 → va.toNat % size = 0 →
        isUnbacked va.toNat = false → va.toNat < 2 ^ 46 →
        access s (priv s) va size n = .ok s (s.module.toNat * 2 ^ 46 + va.toNat)
        ∧ (s.module.toNat * 2 ^ 46 + va.toNat) % 128 + size ≤ 128)

namespace Sys2Proof.Claims

/-- The read-modify-write forms with their function code and size (09 R193, 04 R80). -/
def rmwForms (d a b : Reg) (o sc : BitVec 2) : List (Instr × BitVec 4 × Nat) :=
  [(.aad d a b o sc, 0, 8), (.aand d a b o sc, 1, 8), (.aor d a b o sc, 2, 8), (.axor d a b o sc, 3, 8), (.amin d a b o sc, 4, 8),
   (.amax d a b o sc, 5, 8), (.aminn d a b o sc, 6, 8), (.amaxn d a b o sc, 7, 8), (.aswp d a b o sc, 8, 8),
   (.afaddF32 d a b o sc, 9, 8), (.afaddF64 d a b o sc, 10, 8), (.afaddBf16 d a b o sc, 11, 8),
   (.aad32 d a b o sc, 0, 4), (.aand32 d a b o sc, 1, 4), (.aor32 d a b o sc, 2, 4), (.axor32 d a b o sc, 3, 4),
   (.amin32 d a b o sc, 4, 4), (.amax32 d a b o sc, 5, 4), (.aminn32 d a b o sc, 6, 4), (.amaxn32 d a b o sc, 7, 4),
   (.aswp32 d a b o sc, 8, 4), (.afaddF3232 d a b o sc, 9, 4), (.afaddBf1632 d a b o sc, 11, 4)]

/-- An atomic issues: it is outstanding with its operands, the handler's copy of its line has gone, its dirty bytes home, a release wider than core has
written back every line, and no register of the handler has changed. -/
def AtomicIssues (i : Instr) (s : State) (d : Reg) (va : Word) (size : Nat) (n : Need) (op : AtomOp) (o sc : BitVec 2) : Prop :=
  (if op.reads then loadsOut s.me else storesOut s.me) < 63 → ∀ t pa, Reaches s va size n t pa → reachable t pa = true →
    pastPin t pa = false → races t pa size op.writes false = false → (op.reads = true → homeLost t pa = false) →
    Takes t (t.me.l1.filter (fun l => l.num = pa / 128)) →
    (o ≠ 0#2 → t.me.lateBad = [] ∧ (isRelease o = true → sc ≠ 0#2 → Takes t t.me.l1)) →
    let e := runEntry s
    let at1 : Atom := { op := op, va := va, pa := pa, size := size, order := o, scope := sc, entry := e, issued := s.tick }
    ∃ u, exec i s = .next u ∧ Advances s u ∧ u.me.pend = s.me.pend ++ [{ dst := d, entry := e, op := .atomic at1 }]
      ∧ findLine u.me (pa / 128) = none ∧ Written u (t.me.l1.filter (fun l => l.num = pa / 128))
      ∧ (isRelease o = true → sc ≠ 0#2 → (∀ l ∈ u.me.l1, l.dirty = 0#128) ∧ Written u t.me.l1)
      ∧ KeepsCleanMemory s u ∧ KeepsG s u ∧ KeepsC s u ∧ SameButTlb s u
      ∧ { u with mem := s.mem, bad := s.bad, retired := s.retired, grains := s.grains, l2 := s.l2, others := s.others, me.l1 := s.me.l1,
                 me.tlb := s.me.tlb, me.perf := s.me.perf, me.pend := s.me.pend, me.regs.pc := s.me.regs.pc } = s

end Sys2Proof.Claims

/-- 09 R193 to R195, 10 R237, R238: every atomic issues with its operands read, to be performed at the home slice; ACAS compares with its destination
register, AST and AST32 count as stores. The orders that 04 R80 forbids are illegal instructions. 09 R193, R194, 10 R238: an atomic performs
indivisibly at the home slice: its word becomes f(old, x), no other byte changes, and the old value is bound to its register; a compare and swap
stores only where old equals the operand; an edge of the memory model from an earlier atomic of its handler holds it, and a home that cannot serve it. 09 R193: the functions of the
ATOM majors on w-bit words. -/
def Obligations.AtomicsIssueAndPerform : Prop :=
  (∀ (s : State) (d a b : Reg) (o sc : BitVec 2) (w : BitVec 1),
      let va := readG s a
      let x := readG s b
      (∀ f ∈ rmwForms d a b o sc, AtomicIssues f.1 s d va f.2.2 needBoth (.rmw f.2.1 x) o sc)
      ∧ AtomicIssues (.acas d a b w o sc) s d va (if w = 1#1 then 4 else 8) needBoth (.cas (readG s d) x) o sc
      ∧ (o ≠ 2#2 → AtomicIssues (.ald d a o sc) s d va 8 needRead .load o sc ∧ AtomicIssues (.ald32 d a o sc) s d va 4 needRead .load o sc)
      ∧ (o ≠ 1#2 → AtomicIssues (.ast a b o sc) s 0 va 8 needWrite (.store x) o sc
          ∧ AtomicIssues (.ast32 a b o sc) s 0 va 4 needWrite (.store x) o sc)
      ∧ TrapsWithWord (.ald d a 2 sc) s 0x01 ∧ TrapsWithWord (.ald32 d a 2 sc) s 0x01
      ∧ TrapsWithWord (.ast a b 1 sc) s 0x01 ∧ TrapsWithWord (.ast32 a b 1 sc) s 0x01)
  ∧ (∀ (s : State) (k : Nat) (d : Reg) (e : BitVec 5) (a : Atom),
      s.me.pend[k]? = some { dst := d, entry := e, op := .atomic a } →
      let old := memNat s.mem a.pa a.size
      let W := 2 ^ (8 * a.size)
      (atomReady s (s.me.pend.take k) a = false → exec (.atomicPerform k) s = .next s)
      ∧ (atomHeld (s.me.pend.take k) a = true → atomReady s (s.me.pend.take k) a = false)
      ∧ (atomReady s (s.me.pend.take k) a = true →
          ∃ u, exec (.atomicPerform k) s = .next u ∧ KeepsG s u ∧ KeepsC s u ∧ u.me.regs = s.me.regs ∧ u.win = s.win
            ∧ (∀ x, ¬ (a.pa ≤ x ∧ x < a.pa + a.size) → memByte u.mem x = memByte s.mem x)
            ∧ (a.op.reads = true → u.me.pend = s.me.pend.set k { dst := d, entry := e, op := .value (BitVec.ofNat 64 old) })
            ∧ (a.op.reads = false → u.me.pend = s.me.pend.eraseIdx k)
            ∧ (∀ f y, a.op = .rmw f y → memNat u.mem a.pa a.size = atomValue f (8 * a.size) old (y.toNat % W) % W)
            ∧ (∀ c n, a.op = .cas c n → memNat u.mem a.pa a.size = if old = c.toNat % W then n.toNat % W else old)
            ∧ (a.op = .load → memNat u.mem a.pa a.size = old)
            ∧ (∀ y, a.op = .store y → memNat u.mem a.pa a.size = y.toNat % W)))
  ∧ (∀ (w old x : Nat), (w = 32 ∨ w = 64) → old < 2 ^ w → x < 2 ^ w →
      let S := fun (v : Nat) => (BitVec.ofNat w v).toInt
      atomValue 0 w old x = (old + x) % 2 ^ w
      ∧ (∀ i, (atomValue 1 w old x).testBit i = (old.testBit i && x.testBit i))
      ∧ (∀ i, (atomValue 2 w old x).testBit i = (old.testBit i || x.testBit i))
      ∧ (∀ i, (atomValue 3 w old x).testBit i = (old.testBit i != x.testBit i))
      ∧ S (atomValue 4 w old x) = min (S old) (S x) ∧ S (atomValue 5 w old x) = max (S old) (S x)
      ∧ atomValue 6 w old x = min old x ∧ atomValue 7 w old x = max old x ∧ atomValue 8 w old x = x
      ∧ (∀ i, 32 * i < w → atomValue 9 w old x / 2 ^ (32 * i) % 2 ^ 32 =
          (fAdd (fmtOf 1) 0 false (flOf (fmtOf 1) (old / 2 ^ (32 * i) % 2 ^ 32)) (flOf (fmtOf 1) (x / 2 ^ (32 * i) % 2 ^ 32))).bits % 2 ^ 32)
      ∧ (w = 64 → atomValue 10 w old x = (fAdd (fmtOf 0) 0 false (flOf (fmtOf 0) old) (flOf (fmtOf 0) x)).bits % 2 ^ 64)
      ∧ (∀ i, 16 * i < w → atomValue 11 w old x / 2 ^ (16 * i) % 2 ^ 16 =
          (fAdd (fmtOf 2) 0 false (flOf (fmtOf 2) (old / 2 ^ (16 * i) % 2 ^ 16)) (flOf (fmtOf 2) (x / 2 ^ (16 * i) % 2 ^ 16))).bits % 2 ^ 16))

namespace Sys2Proof.Claims

/-- A register names a sync word of the context that holds no uncorrectable error (08 R167, R183; 09 R199). -/
def SyncAt (s : State) (a : Reg) (adr : Nat) : Prop :=
  (readG s a).toNat = adr ∧ adr < 2 ^ 20 ∧ adr % 16 = 0 ∧ winCheck s.me adr 16 [2] = none ∧ winLost s s.me.id.core adr 16 = false

/-- The fields of a sync word (08 R167): target and generation in the low word, count and flags in the high one. -/
def syncTarget (s : State) (adr : Nat) : Nat := memNat s.win (s.me.id.core.toNat * 2 ^ 20 + adr) 8 % 2 ^ 48
def syncGen (s : State) (adr : Nat) : Nat := memNat s.win (s.me.id.core.toNat * 2 ^ 20 + adr) 8 / 2 ^ 48
def syncCount (s : State) (adr : Nat) : Nat := memNat s.win (s.me.id.core.toNat * 2 ^ 20 + adr + 8) 8 % 2 ^ 48

def syncFlags (s : State) (adr : Nat) : Nat := memNat s.win (s.me.id.core.toNat * 2 ^ 20 + adr + 8) 8 / 2 ^ 48

/-- Every byte of memory but the 16 of a sync word reads as before, and so do the handler's registers. -/
def SyncFrame (s u : State) (adr : Nat) : Prop :=
  (∀ x, memByte u.mem x = memByte s.mem x) ∧ KeepsC s u ∧ u.me.sys = s.me.sys ∧ u.me.pend = s.me.pend
  ∧ (∀ x, ¬ (s.me.id.core.toNat * 2 ^ 20 + adr ≤ x ∧ x < s.me.id.core.toNat * 2 ^ 20 + adr + 16) → memByte u.win x = memByte s.win x)

end Sys2Proof.Claims

/-- 09 R196 to R198, 08 R171, R172: FENCE waits until the earlier operations of its kinds are complete, then writes back for stores and drops clean
unmarked lines for loads when it is wider than core; CFLUSH writes its line back and keeps it clean; CINV writes back and drops it; PREF brings it in
and never faults. 09 R199, R200, 08 R167, R168: SWSET gives a sync word a target and count 0; SWADD adds arrivals, and where the count reaches the
target the generation rises and the count starts again; SWGET reads generation and count; SWWAIT goes on once the generation differs from its operand
and blocks while it does not. That the count is cut to its 48 bits only behind the comparison is the model's reading (DEDUCED, log 67). -/
def Obligations.FencesAndSyncWords : Prop :=
  (∀ (s : State) (k : BitVec 6) (sc : BitVec 2) (a : Reg),
      let F := fun (u : State) => Advances s u ∧ KeepsG s u ∧ KeepsC s u ∧ KeepsCleanMemory s u ∧ u.me.pend = s.me.pend ∧ u.me.sys = s.me.sys
      TrapsWithWord (.fence 0 sc) s 0x01
      ∧ (k ≠ 0#6 → fenceReady s k = false → exec (.fence k sc) s = .next (hold s))
      ∧ (k ≠ 0#6 → fenceReady s k = true → (k.getLsbD 1 = true → sc ≠ 0#2 → Takes s s.me.l1) →
          ∃ u, exec (.fence k sc) s = .next u ∧ F u
          ∧ (k.getLsbD 1 = true → sc ≠ 0#2 → (∀ l ∈ u.me.l1, l.dirty = 0#128) ∧ Written u s.me.l1)
          ∧ (k.getLsbD 0 = true → sc ≠ 0#2 → ∀ l ∈ u.me.l1, l.ro = true ∨ l.dirty ≠ 0#128)
          ∧ (sc = 0#2 → u.me.l1 = s.me.l1 ∧ KeepsMemory s u))
      ∧ (∀ t pa, Reaches s (readG s a) 1 needRead t pa → Takes t (t.me.l1.filter (fun l => l.num = pa / 128)) →
          (∃ u, exec (.cflush a) s = .next u ∧ F u
            ∧ (∀ l, findLine s.me (pa / 128) = some l → findLine u.me (pa / 128) = some { l with dirty := 0 }
                ∧ ∀ j < 128, l.dirty.getLsbD j = true → memByte u.mem (pa / 128 * 128 + j) = l.data.extractLsb' (8 * j) 8)
            ∧ (findLine s.me (pa / 128) = none → KeepsMemory s u ∧ u.me.l1 = s.me.l1))
          ∧ (∃ u, exec (.cinv a) s = .next u ∧ F u ∧ findLine u.me (pa / 128) = none
            ∧ (∀ l, findLine s.me (pa / 128) = some l →
                ∀ j < 128, l.dirty.getLsbD j = true → memByte u.mem (pa / 128 * 128 + j) = l.data.extractLsb' (8 * j) 8)))
      ∧ (∃ u, exec (.pref a) s = .next u ∧ F u)
      ∧ (∀ t pa, access s (priv s) (readG s a) 1 needNone = .ok t pa → reachable t pa = true → fillsFreely t (pa / 128) = true →
          ∃ u, exec (.pref a) s = .next u ∧ (findLine u.me (pa / 128)).isSome))
  ∧ (∀ (s : State) (d a b : Reg) (adr : Nat), SyncAt s a adr → inArea s s.me.id = false →
      let n := (readG s b).toNat % 2 ^ 48
      let sum := syncCount s adr + n
      (∃ u, exec (.swset a b) s = .next u ∧ Advances s u ∧ KeepsG s u ∧ SyncFrame s u adr
          ∧ syncTarget u adr = n ∧ syncGen u adr = syncGen s adr ∧ syncCount u adr = 0 ∧ syncFlags u adr = 0)
      ∧ (sum < syncTarget s adr → ∃ u, exec (.swadd a b) s = .next u ∧ Advances s u ∧ KeepsG s u ∧ SyncFrame s u adr
          ∧ syncTarget u adr = syncTarget s adr ∧ syncGen u adr = syncGen s adr ∧ syncCount u adr = sum ∧ syncFlags u adr = syncFlags s adr
          ∧ u.me.htab = s.me.htab)
      ∧ (syncTarget s adr ≤ sum → ∃ u, exec (.swadd a b) s = .next u ∧ Advances s u ∧ KeepsG s u ∧ SyncFrame s u adr
          ∧ syncTarget u adr = syncTarget s adr ∧ syncGen u adr = (syncGen s adr + 1) % 2 ^ 16
          ∧ syncCount u adr = (sum - syncTarget s adr) % 2 ^ 48
          ∧ syncFlags u adr = (if sum = syncTarget s adr then syncFlags s adr else syncFlags s adr ||| 1)
          ∧ ∀ j g, (getEntry s.me j).why = .sync (BitVec.ofNat 20 adr) g → (getEntry s.me j).st = .blocked →
              (getEntry u.me j).st = .runnable ∧ (getEntry u.me j).resume = true)
      ∧ WritesG (.swget d a) s d (fun v => v.toNat = syncGen s adr * 2 ^ 48 + syncCount s adr)
      ∧ ((readG s b).toNat % 2 ^ 16 ≠ syncGen s adr → s.me.lateBad = [] → ∃ u, exec (.swwait d a b) s = .next u ∧ Advances s u
          ∧ readG u d = (if d = 0#6 then 0#64 else BitVec.ofNat 64 (syncGen s adr)) ∧ (∀ r, r ≠ d → readG u r = readG s r)
          ∧ KeepsMemory s u ∧ (∀ l ∈ u.me.l1, l.ro = true ∨ l.dirty ≠ 0#128))
      ∧ (∀ i, (readG s b).toNat % 2 ^ 16 = syncGen s adr → s.me.run = some i → ∃ u, exec (.swwait d a b) s = .next u
          ∧ u.me.run = none ∧ (getEntry u.me i).st = .blocked ∧ (getEntry u.me i).block = s.me.regs
          ∧ (getEntry u.me i).why = .sync (BitVec.ofNat 20 adr) (BitVec.ofNat 16 (syncGen s adr)) ∧ KeepsMemory s u))

/-! ## Channels, launches and handler entries (01 R12 to R15, 12 R302, R303, 13 R305 to R314, 05 R108) -/

namespace Sys2Proof.Claims

/-- The instruction completes, the PC advances, no register but those of the handler's own result changes, memory stands: the frame of
instructions that act on tables outside the handler. -/
def TableFrame (s t : State) : Prop := Advances s t ∧ KeepsG s t ∧ KeepsC s t ∧ KeepsMemory s t ∧ t.me.regs.ks = s.me.regs.ks

/-- The running handler blocks: its entry is Blocked with its registers and the PC of the instruction (01 R14, 05 R98). -/
def Blocks (i : Instr) (s : State) (w : WaitFor) : Prop :=
  ∀ e, s.me.run = some e → ∃ t, exec i s = .next t ∧ t.me.run = none ∧ (getEntry t.me e).st = .blocked ∧ (getEntry t.me e).why = w
    ∧ (getEntry t.me e).block = s.me.regs ∧ KeepsOtherEntries s t e ∧ KeepsMemory s t
    ∧ { t with me.run := s.me.run, me.htab := s.me.htab } = s

/-- The context that a packet or a signal reaches, as it stands before and after (its tables in its save area while no set holds it). -/
def Reached (s t : State) (id : CtxId) (f : Ctx → Ctx) : Prop := ∀ c, findCtx s id = some c → rawCtx t id = some (f c)

end Sys2Proof.Claims

/-- 12 R302, 16 R366: SEND puts its word on the network towards a live context of the partition, Active or placed on a calendar; one that is neither holds it, and so does an earlier word of the sender that still
stands at its source, or the sender's own full inbox (12 R304); an operand
that names no core or breaks a zero field is a configuration fault, one that names no live context a closed port; a path that the partition does not
own is a containment event. 12 R303, 01 R13, R14: RECV takes the oldest word of its inbox, and the oldest word held behind a full inbox enters; PEEK
leaves the word; RECVK answers its operand from an empty inbox, on which RECV and PEEK block; a channel above 63 is a configuration fault. 01 R12 to
R14, 13 R307: CHANNEL_WORD_ARRIVAL gives the word of an arrived packet to its context: into the inbox while it holds fewer than four words and none is
held, else behind the held words; the bound entry is marked with cause kind 0x01 (Idle becomes Runnable, Running gets its pending bit), and a handler
blocked on the inbox resumes. -/
def Obligations.ChannelsCarryWords : Prop :=
  (∀ (s : State) (a b : Reg), let v := readG s a
      let part := s.me.id.part
      let core := ownerCore s part (v.toNat % 2 ^ 16)
      let ok := v.toNat < 2 ^ 38 ∧ core.isSome
      (¬ ok → Traps (.send a b) s 0x0F v)
      ∧ (ok → namedCtx s part (v.toNat % 2 ^ 16) (v.extractLsb' 16 16) = none → Traps (.send a b) s 0x10 v)
      ∧ ∀ id, ok → namedCtx s part (v.toNat % 2 ^ 16) (v.extractLsb' 16 16) = some id →
          ((isPlaced s id = false ∧ isActive s id = false) ∨ sendWaits s id (v.extractLsb' 32 6) = true → exec (.send a b) s = .next (hold s))
          ∧ (isPlaced s id = true ∨ isActive s id = true → sendWaits s id (v.extractLsb' 32 6) = false → pathOwned s part (corePath s.me.id.core id.core) = true →
              ∃ t, exec (.send a b) s = .next t ∧ TableFrame s t
                ∧ t.net = s.net ++ [Packet.mk s.me.id part (.word id (v.extractLsb' 32 6) (readG s b)) (corePath s.me.id.core id.core) none 0]
                ∧ { t with net := s.net, me.regs.pc := s.me.regs.pc } = s)
          ∧ (isPlaced s id = true ∨ isActive s id = true → sendWaits s id (v.extractLsb' 32 6) = false → pathOwned s part (corePath s.me.id.core id.core) = false →
              ∃ t, exec (.send a b) s = .next t ∧ (partRec t (myPart s)).busy = true ∧ t.win = s.win ∧ ∀ k ∈ t.net, k ∈ s.net))
  ∧ (∀ (s : State) (d a b : Reg) (ch : BitVec 6),
      (2 ^ 6 ≤ (readG s a).toNat → ∀ i ∈ [Instr.recv d a, .peek d a, .recvk d a b], Traps i s 0x0F (readG s a))
      ∧ ((readG s a).toNat = ch.toNat →
          (inboxOf s.me ch = [] → Blocks (.recv d a) s (.inbox ch) ∧ Blocks (.peek d a) s (.inbox ch)
            ∧ WritesG (.recvk d a b) s d (fun v => v = readG s b))
          ∧ (∀ w ws, inboxOf s.me ch = w :: ws → WritesG (.peek d a) s d (fun v => v = w))
          ∧ (∀ w ws, inboxOf s.me ch = w :: ws → ws.length < 4 → ∀ i ∈ [Instr.recv d a, .recvk d a b],
              ∃ t, exec i s = .next t ∧ readG t d = (if d = 0#6 then 0#64 else w) ∧ (∀ r, r ≠ d → readG t r = readG s r)
                ∧ inboxOf t.me ch = ws ++ ((s.me.held.find? (fun h => h.ch = ch)).map (fun h => h.val)).toList
                ∧ (∀ x, x ≠ ch → inboxOf t.me x = inboxOf s.me x)
                ∧ (∀ h, s.me.held.find? (fun h => h.ch = ch) = some h → t.me.held = s.me.held.erase h)
                ∧ (s.me.held.find? (fun h => h.ch = ch) = none → t.me.held = s.me.held ∧ t.me.htab = s.me.htab)
                ∧ Advances s t ∧ KeepsMemory s t ∧ KeepsC s t
                ∧ { t with me.inbox := s.me.inbox, me.held := s.me.held, me.htab := s.me.htab, me.regs := s.me.regs } = s)))
  ∧ ((∀ (s : State) (k : Nat) (src : CtxId) (part : BitVec 7) (route : List Nat) (l : Option Nat) (vc : Nat) (id : CtxId) (ch : BitVec 6)
        (v : Word), arrived s k = some ⟨src, part, .word id ch v, route, l, vc⟩ →
      (channelFull s id ch = true → exec (.channelWordArrival k) s = .next s)
      ∧ (channelFull s id ch = false → ∃ t, exec (.channelWordArrival k) s = .next t ∧ t.net = s.net.eraseIdx k ∧ Reached s t id (postWord ch v)
        ∧ t.me.regs = s.me.regs ∧ t.win = s.win ∧ (∀ x, x ≠ id → rawCtx t x = rawCtx s x)
        ∧ (inArea s id = false → t.mem = s.mem)))
    ∧ ∀ (c : Ctx) (ch : BitVec 6) (v : Word) (i : BitVec 5),
      ((inboxOf c ch).length < 4 → (∀ h ∈ c.held, h.ch ≠ ch) →
        inboxOf (postWord ch v c) ch = inboxOf c ch ++ [v] ∧ (postWord ch v c).held = c.held
        ∧ (∀ x, x ≠ ch → inboxOf (postWord ch v c) x = inboxOf c x)
        ∧ (boundEntry c ch = some i → (getEntry c i).st = .idle → (getEntry c i).cause = none →
            (getEntry (postWord ch v c) i).st = .runnable
            ∧ (getEntry (postWord ch v c) i).cause = some ⟨1, ch.setWidth 12, (inboxOf c ch ++ [v]).headD v⟩)
        ∧ (boundEntry c ch = some i → (getEntry c i).st = .running → (getEntry (postWord ch v c) i).pending = true
            ∧ (getEntry (postWord ch v c) i).st = .running)
        ∧ ((getEntry c i).st = .blocked → (getEntry c i).why = .inbox ch →
            (getEntry (postWord ch v c) i).st = .runnable ∧ (getEntry (postWord ch v c) i).resume = true))
      ∧ (4 ≤ (inboxOf c ch).length ∨ (∃ h ∈ c.held, h.ch = ch) →
          (postWord ch v c).held = c.held ++ [{ ch := ch, val := v, launch := none }] ∧ (postWord ch v c).inbox = c.inbox ∧ (postWord ch v c).htab = c.htab))

/-- 13 R312 to R314, 16 R376: LAUNCH and a write of a virtual function's LAUNCH register send a launch packet; at its entry die the entry
read from the launch table decides: a passing packet goes on to the die of its core, any other is dropped and counted; the
dispatcher posts the launch word, which marks the entry with cause kind 0x04 as it enters the inbox, or drops and counts where the slot is not bound. A
launch word held behind a full inbox marks, as it enters, the entry that its channel is bound to then, and none where it is bound to none (13 R307). The
places of the mesh between which a launch travels on a die are the model's (log 17). -/
def Obligations.LaunchesAreValidatedAndDispatched : Prop :=
  ∀ (s : State) (d a b : Reg) (p : BitVec 6) (k : Nat) (src dest : CtxId) (part : BitVec 7) (route : List Nat) (l : Option Nat) (vc : Nat)
    (id : BitVec 8) (key : BitVec 16) (path : BitVec 2) (die : BitVec 3) (slot : BitVec 5) (arg : Word) (leaf : Leaf),
    let v := readG s a
    let adr := (ownerRec s part).launchBase.toNat + 32 * id.toNat
    let pa := leaf.base + adr % 2 ^ leaf.bits
    let w := fun (i : Nat) => (BitVec.ofNat 64 (memNat s.mem (pa + 8 * i) 8) : Word)
    let drops := fun (t : State) (q : BitVec 7) (x : BitVec 3) => tabGet 0#32 (ownerRec t q).drops x.toNat
    let passes := (w 0).getLsbD 63 = true ∧ (w 2).extractLsb' 16 8 = id ∧ (w 2).extractLsb' 0 16 = key
      ∧ (w 0).getLsbD (40 + path.toNat) = true ∧ (w 0).extractLsb' 37 3 = 0#3 ∧ (w 0).extractLsb' 43 20 = 0#20
      ∧ (w 2).extractLsb' 24 40 = 0#40 ∧ w 3 = 0#64
      ∧ namedCtx s part ((w 0).toNat % 2 ^ 16) ((w 0).extractLsb' 16 16) = some dest ∧ (w 0).extractLsb' 32 5 = slot
    let here := unitPath s.me.id.core (dieOf s.me.id.core) 80
    let there := modulePath s s.me.id.core (v.extractLsb' 8 6).toNat
    (v.toNat < 2 ^ 8 → (readG s b).toNat < 2 ^ 16 → pathOwned s s.me.id.part here = true → ∃ t, exec (.launch d a b) s = .next t ∧ readG t d = 0#64
        ∧ t.net = s.net ++ [⟨s.me.id, s.me.id.part,
            .validate s.me.id.part (v.setWidth 8) ((readG s b).setWidth 16) 1 (dieOf s.me.id.core), here, none, 0⟩]
        ∧ (∀ r, r ≠ d → readG t r = readG s r) ∧ Advances s t ∧ KeepsMemory s t)
    ∧ (v.toNat < 2 ^ 22 → v.getLsbD 14 = true → v.getLsbD 15 = false → v.extractLsb' 8 6 ≠ s.module →
        (v.extractLsb' 8 6).toNat < s.modules.toNat → (readG s b).toNat < 2 ^ 16 →
        pathOwned s s.me.id.part there = true →
        ∃ t, exec (.launch d a b) s = .next t ∧ readG t d = 0#64
          ∧ t.net = s.net ++ [⟨s.me.id, s.me.id.part,
              .umavas (v.extractLsb' 8 6) (v.extractLsb' 16 6) (v.setWidth 8) ((readG s b).setWidth 16),
              there, none, 0⟩]
          ∧ (∀ r, r ≠ d → readG t r = readG s r) ∧ Advances s t ∧ KeepsMemory s t)
    ∧ (2 ^ 22 ≤ v.toNat → Traps (.launch d a b) s 0x0F v)
    ∧ (s.boot.phase = 7#8 → arg.toNat < 2 ^ 24 → ∃ t, exec (.vfLaunchWrite p arg) s = .next t
        ∧ t.net = s.net ++ [⟨hostId p, 0#1 ++ p, .validate (0#1 ++ p) (arg.setWidth 8) (arg.extractLsb' 8 16) 0 0, [], none, 0⟩]
        ∧ { t with net := s.net } = s)
    ∧ (arrived s k = some ⟨src, part, .validate part id key path die, route, l, vc⟩ →
        (partExists s part = false → ∃ t, exec (.launchValidation k) s = .next t ∧ t.net = s.net.eraseIdx k
          ∧ tabGet 0#32 t.monitorDrops die.toNat = tabGet 0#32 s.monitorDrops die.toNat + 1 ∧ { t with net := s.net, monitorDrops := s.monitorDrops } = s)
        ∧ (partExists s part = true → stage2 s (part.setWidth 6) adr = .leaf leaf → leaf.perm.read = true → badLine s pa = false →
            (readState s part (pa / 128) ≠ .go → exec (.launchValidation k) s = .next s) ∧ (readState s part (pa / 128) = .go →
            (passes → pathOwned s part (launchPath die dest.core) = true → ∃ t, exec (.launchValidation k) s = .next t
              ∧ t.net = s.net.eraseIdx k ++ [⟨src, part, .dispatch dest slot id (w 1), launchPath die dest.core, none, 0⟩]
              ∧ { t with net := s.net, l2 := s.l2 } = s)
            ∧ ((∀ x y, launchTarget s part id key path w ≠ some (x, y)) → ∃ t, exec (.launchValidation k) s = .next t
              ∧ t.net = s.net.eraseIdx k ∧ drops t part die = drops s part die + 1 ∧ t.me = s.me ∧ t.mem = s.mem))))
    ∧ (arrived s k = some ⟨src, part, .dispatch dest slot id arg, route, l, vc⟩ → ∀ c, findCtx s dest = some c →
        let ch : BitVec 6 := (getEntry c slot).image.extractLsb' 51 6
        ((getEntry c slot).image.getLsbD 57 = true → channelFull s dest ch = true → exec (.launchDispatch k) s = .next s)
        ∧ ((getEntry c slot).image.getLsbD 57 = true → channelFull s dest ch = false → ∃ t, exec (.launchDispatch k) s = .next t ∧ t.net = s.net.eraseIdx k
          ∧ Reached s t dest (postLaunch ch slot id arg) ∧ t.me.regs = s.me.regs
          ∧ ((inboxOf c ch).length < 4 → (∀ h ∈ c.held, h.ch ≠ ch) → (getEntry c slot).st = .idle → (getEntry c slot).cause = none →
              let e := getEntry (postLaunch ch slot id arg c) slot
              inboxOf (postLaunch ch slot id arg c) ch = inboxOf c ch ++ [arg] ∧ e.st = .runnable ∧ e.cause = some ⟨4, id.setWidth 12, arg⟩))
        ∧ ((getEntry c slot).image.getLsbD 57 = false → ∃ t, exec (.launchDispatch k) s = .next t ∧ t.net = s.net.eraseIdx k
          ∧ drops t part (dieOf dest.core) = drops s part (dieOf dest.core) + 1 ∧ t.me = s.me))
    ∧ (∀ (c : Ctx) (ch : BitVec 6), c.held.find? (fun h => h.ch = ch) = some { ch := ch, val := arg, launch := some (slot, id) } →
        (inboxOf c ch).length < 4 →
        let c1 := releaseHeld ch c
        inboxOf c1 ch = inboxOf c ch ++ [arg]
        ∧ (boundEntry c ch = none → ∀ i, (getEntry c i).why ≠ .inbox ch → getEntry c1 i = getEntry c i)
        ∧ (∀ i, boundEntry c ch = some i → (∀ j, (getEntry c j).image.getLsbD 57 = true → (getEntry c j).image.extractLsb' 51 6 = ch → j = i) →
            (getEntry c i).st = .idle → (getEntry c i).cause = none → (getEntry c1 i).st = .runnable ∧ (getEntry c1 i).cause = some ⟨4, id.setWidth 12, arg⟩))

/-- 13 R309, R310: HSET loads an image into an entry that is not running or blocked, with its state, block and cause reset; its checks in
order; HGET reads image, pending bit and state; HMASK and HUNMASK change bit 60; HRUN marks with cause kind 0x06. 15 R343: entry 0 with a zero image
holds the items of the fault queue. -/
def Obligations.HandlerTableInstructions : Prop :=
  ∀ (s : State) (d a b : Reg) (i : BitVec 5), let v := readG s b
    let e := getEntry s.me i
    let bad := v.extractLsb' 61 3 ≠ 0#3 ∨ v.extractLsb' 0 2 ≠ 0#2 ∨ 2 ≤ (v.extractLsb' 58 2).toNat
    let busy := e.st = .running ∨ e.st = .blocked
    (2 ^ 5 ≤ (readG s a).toNat →
      ∀ x ∈ [Instr.hset a b, .hget d a, .hmask a, .hunmask a, .hrun a b], Traps x s 0x0F (readG s a))
    ∧ ((readG s a).toNat = i.toNat →
        (bad → Traps (.hset a b) s 0x0F v)
        ∧ (¬ bad → (priv s).toNat < (v.extractLsb' 58 2).toNat → Traps (.hset a b) s 0x02 v)
        ∧ (¬ bad → (v.extractLsb' 58 2).toNat ≤ (priv s).toNat → busy → Traps (.hset a b) s 0x0F (readG s a))
        ∧ (¬ bad → (v.extractLsb' 58 2).toNat ≤ (priv s).toNat → ¬ busy →
            (v.getLsbD 57 = true → boundElsewhere s.me (v.extractLsb' 51 6) i = false) →
            ∃ t, exec (.hset a b) s = .next t ∧ TableFrame s t ∧ (getEntry t.me i).image = v ∧ (getEntry t.me i).block = Hregs.zero
              ∧ (getEntry t.me i).pending = false ∧ KeepsOtherEntries s t i ∧ t.me.inbox = s.me.inbox
              ∧ ((v.getLsbD 57 = false ∨ inboxOf s.me (v.extractLsb' 51 6) = []) → (i ≠ 0#5 ∨ s.me.faults = [] ∨ v.toNat % 2 ^ 60 = 0) →
                  (getEntry t.me i).st = .idle ∧ (getEntry t.me i).cause = none)
              ∧ (v.getLsbD 57 = true → inboxOf s.me (v.extractLsb' 51 6) ≠ [] → (getEntry t.me i).st = .runnable
                  ∧ ∃ k, (getEntry t.me i).cause = some k ∧ k.kind = 1#8 ∧ k.index = (v.extractLsb' 51 6).setWidth 12)
              ∧ { t with me.htab := s.me.htab, me.regs.pc := s.me.regs.pc } = s)
        ∧ WritesG (.hget d a) s d (fun x => x.toNat = e.image.toNat % 2 ^ 61 + (if e.pending then 2 ^ 61 else 0)
            + (match e.st with | .idle => 0 | .runnable => 1 | .running => 2 | .blocked => 3) * 2 ^ 62)
        ∧ (∃ t, exec (.hmask a) s = .next t ∧ TableFrame s t ∧ (getEntry t.me i).image.getLsbD 60 = true
            ∧ (∀ j, j ≠ 60 → (getEntry t.me i).image.getLsbD j = e.image.getLsbD j) ∧ KeepsOtherEntries s t i
            ∧ { getEntry t.me i with image := e.image } = e ∧ { t with me.htab := s.me.htab, me.regs.pc := s.me.regs.pc } = s)
        ∧ (∃ t, exec (.hunmask a) s = .next t ∧ TableFrame s t ∧ (getEntry t.me i).image.getLsbD 60 = false
            ∧ (∀ j, j ≠ 60 → (getEntry t.me i).image.getLsbD j = e.image.getLsbD j) ∧ KeepsOtherEntries s t i
            ∧ { getEntry t.me i with image := e.image } = e ∧ { t with me.htab := s.me.htab, me.regs.pc := s.me.regs.pc } = s)
        ∧ (∃ t, exec (.hrun a b) s = .next t ∧ TableFrame s t ∧ KeepsOtherEntries s t i
            ∧ (e.st = .idle → (getEntry t.me i).st = .runnable)
            ∧ (busy → (getEntry t.me i).st = e.st ∧ (getEntry t.me i).pending = true)
            ∧ (e.cause = none → (getEntry t.me i).cause = some ⟨6, 0, v⟩) ∧ (e.cause ≠ none → (getEntry t.me i).cause = e.cause)
            ∧ { t with me.htab := s.me.htab, me.regs.pc := s.me.regs.pc } = s))

/-- 13 R308, 05 R101, R108, 15 R342, R343: with no handler Running, selection takes an eligible entry (Runnable, not masked); a start from
Idle has the entry's PC and privilege, IE 1, and cause word and argument in g3 and g4; a resumed entry has its block.
An asynchronous cause is delivered in place to a running handler with IE 1, the lowest code first, which ends its IDLE, and waits while IE is 0. -/
def Obligations.SelectionAndAsynchronousCauses : Prop :=
  ∀ (s : State) (i : BitVec 5) (f : FaultItem), isActive s s.me.id = true →
    (s.me.run = none → pickEntry s.me = none → exec .handlerSelection s = .next s)
    ∧ (s.me.run = none → pickEntry s.me = some i →
        let e := getEntry s.me i
        let k := e.cause.getD ⟨0, 0, 0⟩
        e.st = .runnable ∧ e.image.getLsbD 60 = false
        ∧ ∃ t, exec .handlerSelection s = .next t ∧ t.me.run = some i ∧ t.me.last = i ∧ (getEntry t.me i).st = .running ∧ KeepsMemory s t
          ∧ (e.resume = true → t.me.regs = e.block)
          ∧ (e.resume = false → t.me.regs.pc = (e.image.extractLsb' 0 48).setWidth 64 ∧ t.me.regs.ks.ie = true
              ∧ t.me.regs.ks.priv = e.image.extractLsb' 58 2 ∧ t.me.regs.c = e.block.c
              ∧ (∀ r, r ≠ 3#6 → r ≠ 4#6 → readG t r = if r = 0#6 then 0#64 else e.block.g[r.toNat]))
          ∧ (e.resume = false → (i ≠ 0#5 ∨ s.me.faults = [] ∨ e.image.toNat % 2 ^ 60 = 0) →
              (readG t 3#6).toNat = k.kind.toNat + k.index.toNat * 2 ^ 8 ∧ (getEntry t.me i).cause = none
              ∧ (k.kind ≠ 1#8 → readG t 4#6 = k.arg))
          ∧ (e.resume = false → i = 0#5 → e.image.toNat % 2 ^ 60 = 0 → t.me.faults = s.me.faults)
          ∧ (e.resume = false → i = 0#5 → e.image.toNat % 2 ^ 60 ≠ 0 → ∀ q qs, s.me.faults = q :: qs → t.me.faults = qs ∧ t.me.sys.kcause = q.kcause.setWidth 64
              ∧ t.me.sys.keval = q.value ∧ t.me.sys.kelem = q.elem ∧ readG t 4#6 = q.value
              ∧ (readG t 3#6).toNat = 5 + q.kcause.toNat % 2 ^ 8 * 2 ^ 8))
    ∧ (lowestAsync s.me = some f → (∀ g ∈ s.me.asyncs, f.kcause.toNat ≤ g.kcause.toNat) ∧ f ∈ s.me.asyncs
        ∧ (s.me.run.isSome → s.me.regs.ks.ie = false → exec .asyncCauseDelivery s = .next s)
        ∧ (s.me.run.isSome → s.me.regs.ks.ie = true → f.kcause.toNat ∈ [0x14, 0x18, 0x19] →
            ∃ t, exec .asyncCauseDelivery s = .next t
              ∧ TrapTaken { s with
                  me.asyncs := s.me.asyncs.erase f, me.sys.idle := false, me.stalled := false, me.pinWait := none } t (f.kcause.setWidth 8)
                  f.value)
        ∧ (s.me.run = none → pickEntry s.me = none → (∀ g ∈ s.me.faults, g.kcause ≠ f.kcause) →
            ∃ t, exec .asyncCauseDelivery s = .next t ∧ t.me.asyncs = s.me.asyncs.erase f ∧ t.me.faults = s.me.faults ++ [f]
              ∧ t.me.regs = s.me.regs ∧ KeepsMemory s t))

/-! ## Transits and translation (13 R315 to R322, 08 R181, 16 R373) -/

/-- 13 R319 to R322: TRNE closes the handler's transit and answers the time left; SLACK answers a slack, 0 for a free entry; each refuses where the
handler has no transit. 13 R321: TRN opens a transit from its image of three words: deadline KTIME plus the relative deadline, its work, state open,
owner the issuing context; the handler's KTRN names it; an entry in use answers 1 and changes nothing. 13 R319: n tokens accepted by a sink raise the
progress of the open kind 0 entries of its graph by n; which tokens a sink counts is the model's reading (DEDUCED, log 82). -/
def Obligations.TransitsOpenAndClose : Prop :=
  (∀ (s : State) (d a : Reg), let t := s.me.sys.trn
      let i := t.toNat % 64
      let e := ephGet s s.me.id.part i
      (t.getLsbD 6 = false → Traps (.trne d) s 0x0F 0#64)
      ∧ (t.getLsbD 6 = true → ∃ u, exec (.trne d) s = .next u ∧ readG u d = (if d = 0#6 then 0#64 else e.deadline - s.ktime)
          ∧ (∀ r, r ≠ d → readG u r = readG s r) ∧ u.me.sys.trn = 0#7 ∧ (ephGet u s.me.id.part i).state = 2#2
          ∧ { ephGet u s.me.id.part i with state := e.state } = e
          ∧ (∀ j, j ≠ i → ephGet u s.me.id.part j = ephGet s s.me.id.part j) ∧ Advances s u ∧ KeepsMemory s u)
      ∧ ((readG s a).toNat < 2 ^ 6 → WritesG (.slack d a) s d (fun v =>
          v = if (ephGet s s.me.id.part (readG s a).toNat).state = 0#2 then 0#64 else (ephGet s s.me.id.part (readG s a).toNat).slack))
      ∧ ((readG s a).getLsbD 6 = true → (readG s a).toNat < 2 ^ 7 → t.getLsbD 6 = true → WritesG (.slack d a) s d (fun v =>
          v = if e.state = 0#2 then 0#64 else e.slack))
      ∧ (2 ^ 7 ≤ (readG s a).toNat ∨ ((readG s a).getLsbD 6 = true ∧ t.getLsbD 6 = false) → Traps (.slack d a) s 0x0F (readG s a)))
  ∧ (∀ (s s1 s2 s3 : State) (d a : Reg) (rel work idx : Word), let va := readG s a
      (∀ k u, k s1 rel = .ok u → plainWord s va k = .ok u) → (∀ k u, k s2 work = .ok u → plainWord s1 (va + 8) k = .ok u) →
      (∀ k u, k s3 idx = .ok u → plainWord s2 (va + 16) k = .ok u) →
      s.me.sys.trn.getLsbD 6 = false → rel ≠ 0#64 → work.extractLsb' 59 5 = 0#5 → idx.toNat < 64 →
      let e := ephGet s3 s.me.id.part idx.toNat
      (e.state = 1#2 → ∃ u, exec (.trn d a) s = .next u ∧ readG u d = (if d = 0#6 then 0#64 else 1#64) ∧ u.parts = s3.parts
          ∧ (∀ r, r ≠ d → readG u r = readG s3 r))
      ∧ (e.state ≠ 1#2 → ∃ u, exec (.trn d a) s = .next u ∧ readG u d = 0#64 ∧ (∀ r, r ≠ d → readG u r = readG s3 r)
          ∧ u.me.sys.trn.toNat = 64 + idx.toNat
          ∧ (ephGet u s.me.id.part idx.toNat).deadline = s3.ktime + rel ∧ (ephGet u s.me.id.part idx.toNat).work = work
          ∧ (ephGet u s.me.id.part idx.toNat).state = 1#2 ∧ (ephGet u s.me.id.part idx.toNat).owner = s3.me.id.kctx
          ∧ (ephGet u s.me.id.part idx.toNat).progress = 0#48 ∧ (ephGet u s.me.id.part idx.toNat).risk = false
          ∧ (∀ j, j ≠ idx.toNat → ephGet u s.me.id.part j = ephGet s3 s.me.id.part j)))
  ∧ (∀ (s : State) (e n i : Nat) (g : GRef), n ≠ 0 → tabFind s.me.fab.marks e = some g →
      let x := ephGet s s.me.id.part i
      let y := ephGet (sinkProgress s e n) s.me.id.part i
      let counts := x.state = 1#2 ∧ x.work.getLsbD 48 = false ∧ x.work.extractLsb' 49 4 = g.gid
        ∧ namedCtx s s.me.id.part x.ownerIdx.toNat x.owner = some (ownerOf s g)
      (counts → y = { x with progress := x.progress + BitVec.ofNat 48 n }) ∧ (¬ counts → y = x))

/-- 13 R315, 05 R100, 16 R368: a TLB instruction writes the set's dirty bytes back to their homes and drops the entries it names, at every context of its
partition: one address, all (and a written KTT comes into force, which the model takes to hold in every context of the partition, log 50), all of a partition (and a written MSTAGE comes into force), or those of one partition address
(and engine accesses that wait after a stage-2 fault in that page may try again). 08 R180, R181: TABLE_WALK_COMPLETE puts the translation of a walk
that passes into the TLB, in front, and nothing else changes but the count of walks, the L2 through which it reads the tables, and an entry of the
other set that leaves a full TLB; for an address that the TLB holds, and while a home cannot serve the walk, nothing changes. 16 R373:
PAGE_PULL_COMPLETE of a pull that is under way makes the page valid at its frame of this module: its entry names this module and is valid, and the page's
bytes stand there; without one, as after a containment (16 R383), nothing changes. A walk is one step of the model (DESIGN CHOICE, log 4), and which
entry leaves a full TLB is its choice (DESIGN CHOICE, log 63). -/
def Obligations.TranslationsComeAndGo : Prop :=
  (∀ (s : State) (a b : Reg) (p : BitVec 6), let x := readG s a
      let F := fun (u : State) => Advances s u ∧ KeepsG s u ∧ KeepsC s u ∧ KeepsCleanMemory s u ∧ (∀ l ∈ u.me.l1, l.dirty = 0#128)
        ∧ Written u s.me.l1
      let mine := fun (c : Ctx) => c.id.part = s.me.id.part
      let of := fun (c : Ctx) => c.id.part = 0#1 ++ p
      (1 ≤ (priv s).toNat → x.toNat < 2 ^ 48 → Takes s s.me.l1 → ∃ u, exec (.tlbi a) s = .next u ∧ F u
          ∧ (∀ c ∈ allCtxs u, mine c → ∀ e ∈ c.tlb, e.vbase ≠ x.toNat / 2 ^ e.bits * 2 ^ e.bits)
          ∧ u.others = s.others.map (fun c => if c.id.part = s.me.id.part then
              { c with tlb := c.tlb.filter (fun e => e.vbase ≠ x.toNat / 2 ^ e.bits * 2 ^ e.bits) } else c))
      ∧ (1 ≤ (priv s).toNat → 2 ^ 48 ≤ x.toNat → Traps (.tlbi a) s 0x0F x)
      ∧ (1 ≤ (priv s).toNat → Takes s s.me.l1 → ∃ u, exec .tlbia s = .next u ∧ F u ∧ u.me.tlb = [] ∧ u.me.sys.kttEff = s.me.sys.ktt
          ∧ u.others = s.others.map (fun c => if c.id.part = s.me.id.part then { c with tlb := [], sys.kttEff := c.sys.ktt } else c))
      ∧ (priv s = 2#2 → x.toNat = p.toNat → Takes s s.me.l1 → ∃ u, exec (.tlbip a) s = .next u ∧ F u
          ∧ (partRec u p).mstageEff = (partRec s p).mstage ∧ (∀ q, q ≠ p → partRec u q = partRec s q)
          ∧ (∀ c ∈ allCtxs u, of c → c.tlb = []) ∧ u.others.map (fun c => c.id) = s.others.map (fun c => c.id))
      ∧ (priv s = 2#2 → x.toNat = p.toNat → Takes s s.me.l1 → ∃ u, exec (.tlbis a b) s = .next u ∧ F u
          ∧ (∀ c ∈ allCtxs u, of c → ∀ e ∈ c.tlb, e.ipa / 2 ^ e.s2bits ≠ (readG s b).toNat / 2 ^ e.s2bits)
          ∧ u.refused = s.refused.filter (fun y => !(y.1 == 0#1 ++ p && sameStage2 u p (readG s b).toNat y.2.1 y.2.2)))
      ∧ (priv s = 2#2 → 2 ^ 6 ≤ x.toNat → Traps (.tlbip a) s 0x0F x ∧ Traps (.tlbis a b) s 0x0F x))
  ∧ (∀ (s : State) (va : Word) (acc : BitVec 2) (e : TlbEntry) (p : BitVec 6) (pa : Word) (adr : Nat),
      ((tlbHit s.me va).isSome → exec (.tableWalkComplete va acc) s = .next s)
      ∧ (va.toNat < 2 ^ 48 → tlbHit s.me va = none → isMonitor s.me = false → priv s ≠ 2#2 → walk s s.me (priv s) va (needOf acc) = .ok e →
          (¬ (walkLines s s.me (priv s) va (needOf acc)).all (fun n => readState s s.me.id.part n == .go) →
            exec (.tableWalkComplete va acc) s = .next s)
          ∧ ((walkLines s s.me (priv s) va (needOf acc)).all (fun n => readState s s.me.id.part n == .go) →
            ∃ u, exec (.tableWalkComplete va acc) s = .next u ∧ u.me.tlb.head? = some e ∧ (∀ x ∈ u.me.tlb, x = e ∨ x ∈ s.me.tlb)
              ∧ (otherCtx s = none → u.me.tlb = (e :: s.me.tlb).take 256 ∧ u.others = s.others)
              ∧ u.others.map (fun c => { c with tlb := [] }) = s.others.map (fun c => { c with tlb := [] }) ∧ KeepsMemory s u
              ∧ { u with me.tlb := s.me.tlb, me.perf := s.me.perf, l2 := s.l2, others := s.others } = s))
      ∧ ((p, pa.toNat / 2 ^ 16 * 2 ^ 16) ∉ s.pulls → exec (.pagePullComplete p pa) s = .next s)
      ∧ (Memory.wf s.mem = true → (p, pa.toNat / 2 ^ 16 * 2 ^ 16) ∈ s.pulls → stage2 s p pa.toNat = .pull → leafAt s pa.toNat 3 1 (partRec s p).mstageEff.toNat = some adr →
          let w : Word := BitVec.ofNat 64 (memNat s.mem adr 8)
          let home := s.module.toNat * 2 ^ 46 + entryBase w % 2 ^ 46
          ∃ u, exec (.pagePullComplete p pa) s = .next u
            ∧ memNat u.mem adr 8 % 4 = 1 ∧ u.me.regs = s.me.regs ∧ u.win = s.win
            ∧ (∀ i < 2 ^ 16, ¬ (adr ≤ home + i ∧ home + i < adr + 8) → memByte u.mem (home + i) = memByte s.mem (entryBase w + i))))

/-! ## Outstanding work, dependence counters and barriers (14 R324 to R333) -/

namespace Sys2Proof.Claims

/-- The fields of a dependence counter. -/
def dcIs (s : State) (part : BitVec 7) (i count : Nat) (under reached : Bool) : Prop :=
  (dcGet s part i).count.toNat = count ∧ (dcGet s part i).underflow = under ∧ (dcGet s part i).reached = reached

end Sys2Proof.Claims

/-- 14 R326: WAIT goes on as a region end with release and acquire when the outstanding counters stand at or below its immediates (dirty bytes written
back to their homes, clean unmarked lines gone; the registration of an atomic still outstanding stays open, under the region that follows: that of its issue,
by the model's reading, logs 44 and 66), and blocks with its own PC while one stands above. A DCNT instruction whose partition has no path to its system core's
die is discarded with a containment event (16 R366; where the units stand on the mesh is the model's, logs 17 and 99). 14 R330: the dependence counters: DCSET, DCADD and DCDEC answer
the old count and set the new one with its flags, DCGET reads count and flags, DCBIND binds; a count above 2^32 − 1 and an index above 4,095 are
configuration faults. A decrement below zero sets underflow; one that reaches zero from above marks the bound entry with cause kind 0x02. -/
def Obligations.WaitsAndDependenceCounters : Prop :=
  (∀ (s : State) (l st cp tl : BitVec 5),
      let holds := loadsOut s.me ≤ l.toNat ∧ storesOut s.me ≤ st.toNat ∧ copiesOut s.me ≤ cp.toNat ∧ tilesOut s.me ≤ tl.toNat
      (holds → s.me.lateBad = [] → Takes s s.me.l1 → ∃ t, exec (.wait l st cp tl) s = .next t ∧ Advances s t ∧ KeepsG s t ∧ KeepsC s t
          ∧ KeepsCleanMemory s t ∧ (∀ x ∈ t.me.l1, x.ro = true) ∧ t.me.run = s.me.run ∧ t.me.pend = s.me.pend ∧ t.others = s.others
          ∧ Written t s.me.l1 ∧ (∀ g ∈ s.grains, stillOut s g = true → g ∈ t.grains))
      ∧ (¬ holds → Blocks (.wait l st cp tl) s (.counters l st cp tl)))
  ∧ (∀ (s : State) (d a b : Reg) (i : Nat), regionPending s = false → let part := s.me.id.part
      let reach := systemReach s part s.me.id.core 81
      let c := dcGet s part i
      let y := (readG s b).toNat
      let R := fun (x : Instr) (p : State → Prop) => ∃ t, exec x s = .next t ∧ p t
        ∧ readG t d = (if d = 0#6 then 0#64 else c.count.setWidth 64) ∧ (∀ r, r ≠ d → readG t r = readG s r) ∧ Advances s t ∧ KeepsC s t
        ∧ (∀ j, j ≠ i → dcGet t part j = dcGet s part j)
      (2 ^ 12 ≤ (readG s a).toNat → ∀ x ∈ [Instr.dcset d a b, .dcadd d a b, .dcdec d a b, .dcget d a], Traps x s 0x0F (readG s a))
      ∧ ((readG s a).toNat = i → i < 2 ^ 12 →
          (2 ^ 32 ≤ y → ∀ x ∈ [Instr.dcset d a b, .dcadd d a b, .dcdec d a b], Traps x s 0x0F (readG s b))
          ∧ (reach = false → y < 2 ^ 32 → ∀ x ∈ [Instr.dcset d a b, .dcadd d a b, .dcdec d a b, .dcget d a],
              ∃ t, exec x s = .next t ∧ (partRec t (myPart s)).busy = true ∧ t.win = s.win)
          ∧ (reach = true → 2 ^ 32 ≤ c.count.toNat + y → Traps (.dcadd d a b) s 0x0F (readG s b))
          ∧ (reach = true → y < 2 ^ 32 → R (.dcset d a b) (fun t => dcIs t part i y false false ∧ KeepsMemory s t))
          ∧ (reach = true → c.count.toNat + y < 2 ^ 32 → R (.dcadd d a b) (fun t =>
              dcIs t part i (c.count.toNat + y) c.underflow (c.reached && decide (c.count.toNat + y = 0)) ∧ KeepsMemory s t))
          ∧ (reach = true → y < 2 ^ 32 → R (.dcdec d a b) (fun t =>
              dcIs t part i (c.count.toNat - y) (c.underflow || decide (c.count.toNat < y))
                (c.reached || decide (c.count.toNat ≠ 0 ∧ c.count.toNat ≤ y))))
          ∧ (reach = true → WritesG (.dcget d a) s d (fun v => v.toNat = c.count.toNat + (if c.underflow then 2 ^ 32 else 0)
              + (if c.bound then 2 ^ 33 else 0) + (if c.reached then 2 ^ 34 else 0)))))

/-- 14 R327, R330: binding and firing: DCBIND binds a counter to an entry of a live context of the partition (at once marked where the counter has
already reached zero) or unbinds it; a decrement that brings a bound counter to zero marks the entry with cause kind 0x02, the counter's number and
its argument; ENGINE_DECREMENT is such a decrement by 1, in order for each sender. 14 R331 to R333: a barrier below its last arrival counts up and
BARW blocks, and one that has arrived does not arrive again; at the last arrival its generation rises, arrivals start again and blocked handlers of
the partition become Runnable, and a linked counter falls by 1; both answer a generation; both wait for the atomics of their handler (the model's reading of
10 R234, log 66); without a path to the barrier unit the partition is contained (16 R366, logs 17 and 99); BARINIT sets participants and link of a barrier not in use; an uninitialised barrier and a number above 63 are configuration faults. -/
def Obligations.CountersAndBarriersRelease : Prop :=
  ((∀ (s : State) (d a b : Reg) (i : Nat), regionPending s = false → 1 ≤ (priv s).toNat → (readG s a).toNat = i → i < 2 ^ 12 →
      let part := s.me.id.part
      let w := readG s b
      let core := ownerCore s part (w.toNat % 2 ^ 16)
      let named := namedCtx s part (w.toNat % 2 ^ 16) (w.extractLsb' 16 16)
      let reach := systemReach s part s.me.id.core 81
      (2 ^ 38 ≤ w.toNat ∨ core = none → Traps (.dcbind d a b) s 0x0F w)
      ∧ (reach = false → w.toNat < 2 ^ 38 → core ≠ none →
          ∃ t, exec (.dcbind d a b) s = .next t ∧ (partRec t (myPart s)).busy = true ∧ t.win = s.win)
      ∧ (reach = true → w.toNat < 2 ^ 38 → core ≠ none → w.getLsbD 37 = true → named = none → Traps (.dcbind d a b) s 0x10 w)
      ∧ (reach = true → w.toNat < 2 ^ 38 → core ≠ none → w.getLsbD 37 = false → ∃ t, exec (.dcbind d a b) s = .next t ∧ TableFrame s t
          ∧ (dcGet t part i).bound = false ∧ (dcGet t part i).count = (dcGet s part i).count
          ∧ (∀ j, j ≠ i → dcGet t part j = dcGet s part j))
      ∧ (reach = true → w.toNat < 2 ^ 38 → core ≠ none → w.getLsbD 37 = true → named ≠ none → ∃ t, exec (.dcbind d a b) s = .next t ∧ Advances s t
          ∧ KeepsG s t ∧ (dcGet t part i).bound = true ∧ (dcGet t part i).binding = w.setWidth 37 ∧ (dcGet t part i).arg = readG s d
          ∧ (dcGet t part i).count = (dcGet s part i).count
          ∧ ((dcGet s part i).count = 0#32 → (dcGet s part i).reached = true → ∀ id, named = some id → ∀ c, findCtx s id = some c →
              ∃ x, rawCtx t id = some x ∧ x.htab = (markSlot (w.extractLsb' 32 5) ⟨2, BitVec.ofNat 12 i, readG s d⟩ c).htab)))
    ∧ ∀ (s : State) (k : Nat) (p : Decr), s.decrs[k]? = some p →
      (∀ q ∈ s.decrs.take k, ¬ (q.part = p.part ∧ q.counter = p.counter ∧ q.ctx = p.ctx)) →
      let c := dcGet s p.part p.counter.toNat
      (systemReach s p.part p.ctx.core 81 = false →
        ∃ t, exec (.engineDecrement k) s = .next t ∧ (partRec t (p.part.extractLsb' 0 6)).busy = true ∧ t.win = s.win)
      ∧ (systemReach s p.part p.ctx.core 81 = true → ∃ t, exec (.engineDecrement k) s = .next t ∧ t.decrs = s.decrs.eraseIdx k ∧ t.me.regs = s.me.regs ∧ t.win = s.win
        ∧ dcIs t p.part p.counter.toNat (c.count.toNat - 1) (c.underflow || decide (c.count.toNat = 0)) (c.reached || decide (c.count.toNat = 1))
        ∧ (c.count.toNat = 1 → c.bound = true → ∀ id, namedCtx s p.part (c.binding.extractLsb' 0 16).toNat (c.binding.extractLsb' 16 16) = some id →
            Reached s t id (markSlot (c.binding.extractLsb' 32 5) ⟨2, p.counter, c.arg⟩))
        ∧ (c.count.toNat ≠ 1 ∨ c.bound = false → t.me = s.me ∧ t.others = s.others ∧ t.mem = s.mem)))
  ∧ (∀ (s : State) (d a b : Reg) (i : BitVec 6), regionPending s = false →
      let part := s.me.id.part
      let x := barGet s part i.toNat
      let w := readG s b
      let last := x.arrived + 1 = x.n
      let reach := systemReach s part s.me.id.core 82
      let due := s.me.lateBad = [] ∧ Takes s s.me.l1 ∧ atomicsOut s = false
      let fit := due ∧ reach = true
      let c := dcGet s part (x.link.toNat % 2 ^ 12)
      (2 ^ 6 ≤ (readG s a).toNat → Traps (.bar d a) s 0x0F (readG s a) ∧ Traps (.barw d a) s 0x0F (readG s a))
      ∧ ((readG s a).toNat = i.toNat →
          (x.n = 0#16 → Traps (.bar d a) s 0x0F (readG s a) ∧ (awaited s i = none → Traps (.barw d a) s 0x0F (readG s a)))
          ∧ (atomicsOut s = true → x.n ≠ 0#16 →
              exec (.bar d a) s = .next (hold s) ∧ (awaited s i = none → exec (.barw d a) s = .next (hold s)))
          ∧ (due → reach = false → x.n ≠ 0#16 → ∃ t, exec (.bar d a) s = .next t ∧ (partRec t (myPart s)).busy = true ∧ t.win = s.win)
          ∧ (fit → x.n ≠ 0#16 → last → x.link.getLsbD 12 = true → ∃ t, exec (.bar d a) s = .next t
              ∧ readG t d = (if d = 0#6 then 0#64 else x.gen.setWidth 64) ∧ (∀ r, r ≠ d → readG t r = readG s r) ∧ Advances s t
              ∧ barGet t part i.toNat = { x with arrived := 0, gen := x.gen + 1 }
              ∧ dcIs t part (x.link.toNat % 2 ^ 12) (c.count.toNat - 1) (c.underflow || decide (c.count.toNat = 0))
                  (c.reached || decide (c.count.toNat = 1)))
          ∧ (fit → x.n ≠ 0#16 → ¬ last → ∃ t, exec (.bar d a) s = .next t ∧ Written t s.me.l1 ∧ readG t d = (if d = 0#6 then 0#64 else x.gen.setWidth 64)
              ∧ (∀ r, r ≠ d → readG t r = readG s r) ∧ Advances s t ∧ barGet t part i.toNat = { x with arrived := x.arrived + 1 }
              ∧ (∀ j, j ≠ i.toNat → barGet t part j = barGet s part j) ∧ KeepsCleanMemory s t)
          ∧ (fit → x.n ≠ 0#16 → last → x.link.getLsbD 12 = false → ∃ t, exec (.bar d a) s = .next t
              ∧ readG t d = (if d = 0#6 then 0#64 else x.gen.setWidth 64) ∧ (∀ r, r ≠ d → readG t r = readG s r) ∧ Advances s t
              ∧ barGet t part i.toNat = { x with arrived := 0, gen := x.gen + 1 }
              ∧ ∀ c ∈ s.others, c.id.part = part → ∀ j g, (getEntry c j).why = .barrier i g → (getEntry c j).st = .blocked →
                  ∃ c' ∈ t.others, c'.id = c.id ∧ (getEntry c' j).st = .runnable ∧ (getEntry c' j).resume = true)
          ∧ (∀ e, fit → x.n ≠ 0#16 → ¬ last → awaited s i = none → s.me.run = some e → ∃ t, exec (.barw d a) s = .next t ∧ t.me.run = none
              ∧ (getEntry t.me e).st = .blocked ∧ (getEntry t.me e).why = .barrier i x.gen ∧ (getEntry t.me e).block = s.me.regs
              ∧ (s.me.regs.pc, i, x.gen) ∈ (getEntry t.me e).arrived
              ∧ barGet t part i.toNat = { x with arrived := x.arrived + 1 } ∧ KeepsCleanMemory s t)
          ∧ (fit → x.n ≠ 0#16 → last → awaited s i = none → x.link.getLsbD 12 = false → ∃ t, exec (.barw d a) s = .next t ∧ Advances s t
              ∧ readG t d = (if d = 0#6 then 0#64 else (x.gen + 1).setWidth 64) ∧ (∀ r, r ≠ d → readG t r = readG s r)
              ∧ barGet t part i.toNat = { x with arrived := 0, gen := x.gen + 1 } ∧ ∀ l ∈ t.me.l1, l.ro = true)
          ∧ (∀ g, awaited s i = some g → s.me.lateBad = [] → x.gen ≠ g → ∃ t, exec (.barw d a) s = .next t ∧ Advances s t
              ∧ readG t d = (if d = 0#6 then 0#64 else x.gen.setWidth 64) ∧ barGet t part i.toNat = x)
          ∧ (∀ e, awaited s i = some x.gen → s.me.lateBad = [] → s.me.run = some e → ∃ t, exec (.barw d a) s = .next t ∧ t.me.run = none
              ∧ (getEntry t.me e).st = .blocked ∧ (getEntry t.me e).block = s.me.regs ∧ barGet t part i.toNat = x ∧ KeepsMemory s t)
          ∧ (1 ≤ (priv s).toNat → 2 ^ 29 ≤ w.toNat ∨ w.toNat % 2 ^ 16 = 0 → Traps (.barinit d a b) s 0x0F w)
          ∧ (1 ≤ (priv s).toNat → reach = true → w.toNat < 2 ^ 29 → w.toNat % 2 ^ 16 ≠ 0 → x.arrived ≠ 0#16 → WritesG (.barinit d a b) s d (fun v => v = 1#64))
          ∧ (1 ≤ (priv s).toNat → reach = true → w.toNat < 2 ^ 29 → w.toNat % 2 ^ 16 ≠ 0 → x.arrived = 0#16 → ∃ t, exec (.barinit d a b) s = .next t
              ∧ readG t d = 0#64 ∧ (∀ r, r ≠ d → readG t r = readG s r) ∧ Advances s t ∧ KeepsMemory s t
              ∧ barGet t part i.toNat = { x with n := w.extractLsb' 0 16, link := w.extractLsb' 16 13 })))

/-- 14 R334 to R339: PCSEL clears and selects a performance counter, PCRD reads it or answers 0 with c7 where the allow-list forbids its
event; TIME reads KTIME; ECNT reads an energy account; OCRD reads the counters of its table: half frames held and pinned in a slice, launches dropped, bad
packings, a transit's progress, and work outstanding; a wrap makes cause 0x19 pending. The cycles that counters see pass are free (DESIGN CHOICE, log
8). -/
def Obligations.MeasurementInstructions : Prop :=
  ∀ (s : State) (d a b : Reg) (n : BitVec 3),
    let c := readG s a
    let v := readG s b
    let allowed := fun (e : Nat) => isMonitor s.me = true ∨ (partRec s (myPart s)).allow.getLsbD e = true
    let p := s.me.perf[n.toNat]
    WritesG (.time d) s d (fun x => x = s.ktime)
    ∧ (1 ≤ (priv s).toNat → 2 ^ 3 ≤ c.toNat → Traps (.pcsel a b) s 0x0F c)
    ∧ (1 ≤ (priv s).toNat → c.toNat = n.toNat → (2 ^ 10 ≤ v.toNat ∨ 16 ≤ v.toNat % 2 ^ 8) → Traps (.pcsel a b) s 0x0F v)
    ∧ (1 ≤ (priv s).toNat → c.toNat = n.toNat → v.toNat < 2 ^ 10 → v.toNat % 2 ^ 8 < 16 → ∃ t, exec (.pcsel a b) s = .next t
        ∧ (t.me.perf[n.toNat]).value = 0#48 ∧ (t.me.perf[n.toNat]).sel = v.setWidth 10
        ∧ (∀ j : Fin 8, j.val ≠ n.toNat → t.me.perf[j.val] = s.me.perf[j.val])
        ∧ (readC t 7#3 = true ↔ ¬ allowed (v.toNat % 2 ^ 8)) ∧ (∀ k, k ≠ 7#3 → readC t k = readC s k)
        ∧ KeepsG s t ∧ Advances s t ∧ KeepsMemory s t ∧ { t with me.perf := s.me.perf, me.regs := s.me.regs } = s)
    ∧ (2 ^ 3 ≤ c.toNat → Traps (.pcrd d a) s 0x0F c)
    ∧ (c.toNat = n.toNat → ∃ t, exec (.pcrd d a) s = .next t ∧ (t.me.perf[n.toNat]).value = p.value
        ∧ (allowed (p.sel.toNat % 2 ^ 8) → readG t d = (if d = 0#6 then 0#64 else p.value.setWidth 64) ∧ readC t 7#3 = false)
        ∧ (¬ allowed (p.sel.toNat % 2 ^ 8) → readG t d = 0#64 ∧ readC t 7#3 = true)
        ∧ (∀ r, r ≠ d → readG t r = readG s r) ∧ (∀ k, k ≠ 7#3 → readC t k = readC s k) ∧ Advances s t ∧ KeepsMemory s t
        ∧ { t with me.perf := s.me.perf, me.regs := s.me.regs } = s)
    ∧ (c = 0#64 → isMonitor s.me = false → WritesG (.ecnt d a) s d (fun x => x = (partRec s (myPart s)).energy))
    ∧ (c = 1#64 → WritesG (.ecnt d a) s d (fun x => x = s.me.energy))
    ∧ (c = 2#64 → 2 ≤ (priv s).toNat → WritesG (.ecnt d a) s d (fun x => x = s.monitorEnergy))
    ∧ (c = 2#64 → (priv s).toNat < 2 → TrapsWithWord (.ecnt d a) s 0x02)
    ∧ (3 ≤ c.toNat → Traps (.ecnt d a) s 0x0F c)
    ∧ (∀ slice < 640, c.toNat = slice * 2 ^ 16 → WritesG (.ocrd d a) s d (fun x => x = BitVec.ofNat 64
        ((s.l2.filter (fun y => y.part = s.me.id.part ∧ homeSlice y.num = slice)).map (fun y => if y.comp then 1 else 2)).sum))
    ∧ (∀ slice < 640, c.toNat = 1 + slice * 2 ^ 16 → WritesG (.ocrd d a) s d (fun x => x = BitVec.ofNat 64
        (∑ l ∈ ((s.grains.filter (fun g => isOpen g = true ∧ g.ctx.part = s.me.id.part ∧ homeSlice (g.grain / 16) = slice)).map
          (fun g => g.grain / 16)).toFinset, if compressible (homeLine s.mem l) then 1 else 2)))
    ∧ (∀ k < 64, c.toNat = 4 + k * 2 ^ 16 → WritesG (.ocrd d a) s d (fun x =>
        x.toNat = if (ephGet s s.me.id.part k).state = 0#2 then 0 else (ephGet s s.me.id.part k).progress.toNat))
    ∧ (∀ die < 8, c.toNat = 2 + die * 2 ^ 16 → WritesG (.ocrd d a) s d (fun x =>
        x = (tabGet 0#32 (ownerRec s s.me.id.part).drops die).setWidth 64))
    ∧ (∀ e < 0x48, c.toNat = 3 + e * 2 ^ 16 → WritesG (.ocrd d a) s d (fun x => x = (tabGet 0#32 s.me.fab.badpack e).setWidth 64))
    ∧ (c.toNat = 5 → WritesG (.ocrd d a) s d (fun x => x = BitVec.ofNat 64
        (loadsOut s.me + storesOut s.me * 2 ^ 8 + copiesOut s.me * 2 ^ 16 + tilesOut s.me * 2 ^ 24)))
    ∧ (6 ≤ c.toNat % 2 ^ 8 → Traps (.ocrd d a) s 0x0F c)
    ∧ (p.wrapped = false → exec (.perfCounterWrap n) s = .next s)
    ∧ (p.wrapped = true → ∃ t, exec (.perfCounterWrap n) s = .next t ∧ t.me.regs = s.me.regs ∧ KeepsMemory s t
        ∧ (t.me.perf[n.toNat]).wrapped = false ∧ (t.me.perf[n.toNat]).value = p.value
        ∧ (p.sel.getLsbD 8 = false → t.me.asyncs = s.me.asyncs)
        ∧ (p.sel.getLsbD 8 = true → (∀ x ∈ s.me.asyncs, x.kcause ≠ 0x19#9) → t.me.asyncs = s.me.asyncs ++ [⟨0x19, n.setWidth 64, 0⟩]))

/-! ## Reset, decoding and the step (16 R379, 04 R74 to R83, 01 R24 to R33) -/

/-- 16 R379, 05 R99, R100, 13 R305, R306, R316, 14 R329, R331: what reset leaves: start-up phase 0x01, no calendar running and every slot
idle, every context set Empty, every counter and barrier at 0, every link slot the monitor's; and what a new context holds: every
register 0, KSTATE 0x1, an empty handler table and idle copy channels. -/
def Obligations.ResetLeaves : Prop :=
  (let s := State.reset
   s.boot.phase = 1#8 ∧ s.boot.halted = false ∧ s.net = [] ∧ s.decrs = []
   ∧ (∀ c : CoreId, let r := coreRec s c
      r.running = false ∧ r.setA = { st := .empty, ctx := none } ∧ r.setB = { st := .empty, ctx := none } ∧ (∀ i, tabGet 0#32 r.slots i = 0#32)
      ∧ (∀ i, descValid (descOf r i) = false))
   ∧ (∀ part i, (dcGet s part i).count = 0#32 ∧ (dcGet s part i).bound = false ∧ (dcGet s part i).underflow = false
      ∧ (barGet s part i).n = 0#16)
   ∧ (∀ l, tabGet 0x40#7 s.links l = 0x40#7) ∧ ∀ p, partExists s p = false)
  ∧ ∀ id : CtxId, let c := Ctx.create id
    c.regs.pc = 0#64 ∧ kstBits c.regs.ks false = 1#7 ∧ (∀ i : Fin 64, c.regs.g[i.val] = 0#64) ∧ (∀ i : Fin 8, c.regs.c[i.val] = false)
    ∧ c.run = none ∧ (∀ i, (getEntry c i).image = 0#64 ∧ (getEntry c i).st = .idle ∧ (getEntry c i).pending = false)
    ∧ c.sys.kfpc = 0#64 ∧ c.sys.kvec = 0#64 ∧ c.sys.ktt = 0#64 ∧ c.tlb = [] ∧ c.l1 = [] ∧ c.faults = []
    ∧ ∀ i : Fin 4, (c.chans[i.val]).st = .idle

/-- 04 R74 to R81: words written out from the formats decode to the instructions that they stand for: ADD g1, g2, g3; ADDI g4, g5, −1;
BR c2 = 1 back by one word; LD g6, [g7 + 2 × 8]; WAIT 1, 2, 3, 4; MTS KVEC, g9; ILL; and a word with a nonzero field is none. -/
def Obligations.DecodeWords : Prop :=
  decode 0b000001_000001_000010_000011_00000000#32 = .ok (.add 1 2 3)
  ∧ decode 0b000101_000100_000101_11111111111111#32 = .ok (.addi 4 5 0x3FFF)
  ∧ decode 0b011000_010_1_1111111111111111111111#32 = .ok (.br 2 1 0x3FFFFF)
  ∧ decode 0b100000_000110_000111_0000_110_0000010#32 = .ok (.ld 6 7 6 2)
  ∧ decode 0b111100_00001_00010_00011_00100_000000#32 = .ok (.wait 1 2 3 4)
  ∧ decode 0b011111_000000_001001_1_0_000000000101#32 = .ok (.mts 9 5)
  ∧ decode 0#32 = .ok (.ill 0)
  ∧ decode 0b111100_00001_00010_00011_00100_000001#32 = .error .nonzeroField

/-- 04 R75 to R81: DECODE AND ENCODE AGREE. The word of every well-formed handler instruction decodes to it with every operand at every
value that its field admits; and a word decodes to an instruction only if it is that instruction's word. -/
def Obligations.DecodeEncodeRoundTrip : Prop :=
  (∀ (i : Instr) (w : BitVec 32), i.wf = true → encode i = some w → decode w = .ok i)
  ∧ ∀ (i : Instr) (w : BitVec 32), decode w = .ok i → i.wf = true ∧ encode i = some w

/-- 04 R83, 01 R24 to R33: A STEP RUNS THE DECODED INSTRUCTION. Where the agenda is empty, nothing is due and the context in focus may act
with a running handler, no asynchronous cause comes first and the fetched word need not wait, a word that decodes to i makes step
exec of i at the state after the fetch (with the issue counted), and then the clock; a word that has issued and waits lets another unit
move before the clock; a word that decodes to none traps with cause 0x01 and KEVAL the word. A fetch past a line that the L1 does not
hold, where homes serve it, reads the four bytes at its physical address, the lowest first. KTIME rises at every step, by one network cycle at least.
The empty agenda and which agent moves next are the model's choice (DESIGN CHOICE, log 1), as is the rise of KTIME at every step (DESIGN CHOICE, log
8). -/
def Obligations.StepRunsDecodedInstruction : Prop :=
  (∀ (s t : State) (w : BitVec 32), s.agenda = [] → s.boot.phase = 7#8 → s.boot.halted = false →
    (∀ c, boundaryDue s c = false) → (∀ c, swapDue s c = false) → s.ktime.toNat < s.epochAt.toNat → isActive s s.me.id = true →
    (myCore s).entering = false → leaving s s.me.id = false → s.me.run.isSome = true → s.me.sys.idle = false → (s.me.regs.ks.ie = false ∨ s.me.asyncs = []) → fetch s = .word t w → stalls w t = false →
    let t1 := issued { t with me.atVector := false }
    (∀ i u, decode w = .ok i → exec i t1 = .next u → step s = .next (clock (if u.me.stalled then autoMove u else u)))
    ∧ (∀ i x, decode w = .ok i → exec i t1 = .fault x → step s = .fault x)
    ∧ (∀ i x, decode w = .ok i → exec i t1 = .refused x → step s = .refused x)
    ∧ ((∀ i, decode w ≠ .ok i) → ∃ u, step s = .next (clock u) ∧ u.me.regs.pc = (t.me.sys.kvec + 32#64) &&& 0x0000FFFFFFFFFFFC#64
        ∧ u.me.sys.kcause = 1#64 ∧ u.me.sys.keval = w.setWidth 64 ∧ u.me.sys.kepc = t.me.regs.pc ∧ u.me.regs.ks.priv = 1#2))
  ∧ (∀ (s t : State) (pa : Nat), access { s with me.stalled := false, me.pinWait := none } (priv s) s.me.regs.pc 4 needExec = .ok t pa →
      findLine t.me (pa / 128) = none → badLine t pa = false → reachable t pa = true → pa % 4 = 0 → Served t (pa / 128) true →
      ∃ u, fetch s = .word u (BitVec.ofNat 32 (memNat s.mem pa 4)) ∧ u.me.regs = s.me.regs ∧ u.me.sys = s.me.sys ∧ u.me.run = s.me.run
        ∧ KeepsCleanMemory s u ∧ (otherCtx s = none → u.others = s.others))
  ∧ ∀ u : State, (clock u).ktime = u.ktime + 1#64 + BitVec.ofNat 64 (Config.stepCycles u.tick) ∧ (clock u).tick = u.tick + 1
      ∧ (clock u).mem = u.mem ∧ (clock u).win = u.win ∧ (clock u).me.regs = u.me.regs ∧ (clock u).me.sys = u.me.sys
      ∧ (clock u).me.htab = u.me.htab ∧ (clock u).me.fab = u.me.fab ∧ (clock u).parts = u.parts ∧ (clock u).cores = u.cores

/-- AN INVARIANT THAT EVERY STEP KEEPS (the model's own form of the memories, DESIGN CHOICE, log 2): DRAM and window memory stand in canonical form, so that
states that read alike are equal data. -/
def Obligations.StepKeepsMemoriesCanonical : Prop :=
  ∀ s t : State, Safety.memoriesCanonical s = true → step s = .next t → Safety.memoriesCanonical t = true

/-- The invariant of StepKeepsMemoriesCanonical holds at reset. The form itself is the model's choice (DESIGN CHOICE, log 2). -/
def Obligations.ResetMemoriesAreCanonical : Prop := Safety.memoriesCanonical State.reset = true

/-! ## The fabric (11 R247 to R266, 12 R269 to R301, 04 R84 to R96) -/

namespace Sys2Proof.Claims

/-- The context in which an element acts: its router buffer forwarded where that has room (04 R91), and the ports that it reads pulled into
its inputs (04 R89). -/
def pulled (s : State) (e : Nat) : Ctx := pullPorts (forwardBuf s.me e) ((elemNeeds s.me e).map (sourceOf s.me e))

/-- An element may act: its graph moves it, it has the operation, and nothing of an earlier firing waits to be sent. -/
def Stands (s : State) (e op : Nat) : Prop := moves s e = true ∧ opOf s.me e = op ∧ pending s.me e = false

/-- Room behind outputs that feed no send port: every queue fed has a free slot, and no queue is fed by two outputs. -/
def Roomy (c : Ctx) (e : Nat) (ports : List Nat) : Prop :=
  ∀ p ∈ ports, outSends c e p = false ∧ ∀ d ∈ outDests c e p, (queueOf c d.1).length < d.2
    ∧ ∀ q ∈ ports, q ≠ p → ∀ x ∈ outDests c e q, x.1 ≠ d.1

/-- The heads of an element pair (11 R249): t is the first token, every other is of its kind, F tokens of its coordinate. -/
def Pairs (c : Ctx) (e : Nat) (slots : List Nat) (hs : List (Nat × Option Token)) (t : Token) : Prop :=
  headsOf c e slots = .ok hs ∧ hs.findSome? (fun h => h.2) = some t
  ∧ ∀ h ∈ hs, ∀ u, h.2 = some u → u.kind = t.kind ∧ (t.kind = 1#4 → u.coord = t.coord)

/-- The queues of a context as they stand once a firing has placed its tokens and the element's router buffer has gone on over its links, where
those have room and it is its turn (04 R91, 11 R260): `q` is what they hold before that buffer moves. The last argument holds of the
context at that point. -/
def Forwarded (c : Ctx) (e : Nat) (q : Nat → List Token) (u : State) (p : Ctx → Prop := fun _ => True) : Prop :=
  ∃ (qs : Tab (List Token)) (ts : Tab Nat), let m := { u.me with fab.queues := qs, fab.turns := ts }
    (∀ k, queueOf m k = q k) ∧ (isRouter e = false → ts = c.fab.turns) ∧ u.me = forwardBuf m e ∧ p m

/-- WHAT A FIRING LEAVES (11 R248): the tokens at the inputs taken are gone, each output token stands behind every queue that its port
feeds, `rest` waits to be sent behind it, x and cq are the element's own state and the control buffers, and nothing else of
the module changes but checkers, positions, delay lines, turns at routers, performance counters and float flags, the marks and counts of what has
fired (17 R393, R395), and the progress of open transits on a graph whose sink has accepted tokens (13 R319; of each input, log 82). -/
def Fired (s : State) (e : Nat) (taken : List Nat) (outs rest : List (Nat × Token)) (x : ElemSt) (cq : Tab (List Bool)) (u : State) : Prop :=
  let c := pulled s e
  Forwarded c e (fun k => (queueOf c k).drop (if taken.any (fun i => k = inKey e i && sourceOf c e i / 4096 ≠ 7) then 1 else 0)
      ++ outs.flatMap (fun o => List.replicate ((outDests c e o.1).countP (fun d => d.1 = k)) o.2)
      ++ (rest.filter (fun o => k = pendKey e o.1)).map (fun o => o.2)) u
    (fun m => u.parts = (sinkProgress s e (accepted c m e)).parts)
  ∧ (∀ k, elemOf u.me k = if k = e then x else elemOf c k) ∧ u.me.fab.ctlq = cq
  ∧ { u with me.fab := s.me.fab, me.perf := s.me.perf, me.sys.kfpc := s.me.sys.kfpc, me.work := s.me.work, parts := s.parts } = s
  ∧ { u.me.fab with queues := c.fab.queues, turns := c.fab.turns, checks := c.fab.checks, counts := c.fab.counts, delays := c.fab.delays,
                    elems := c.fab.elems, ctlq := c.fab.ctlq, sinksDone := c.fab.sinksDone, fired := c.fab.fired } = c.fab

/-- A firing that leaves the element's own state and every control buffer as they were. -/
def Fires (i : Instr) (s : State) (e : Nat) (taken : List Nat) (outs : List (Nat × Token)) (fl : BitVec 5) : Prop :=
  ∃ u, exec i s = .next u ∧ Fired s e taken outs [] (elemOf (pulled s e) e) (pulled s e).fab.ctlq u
    ∧ u.me.sys.kfpc = s.me.sys.kfpc ||| (fl.setWidth 64 <<< 8)

/-- The graph of an element halts with a cause and value, and the tokens stay (15 R344, R347). -/
def HaltsGraph (i : Instr) (s : State) (e : Nat) (cause : BitVec 8) (value : Word) : Prop :=
  ∃ u ref g, exec i s = .next u ∧ graphAt u e = some (ref, g) ∧ g.state = 2#2 ∧ g.cause = cause ∧ g.value = value
    ∧ (∀ k, queueOf u.me k = queueOf (pulled s e) k) ∧ u.win = s.win ∧ u.me.regs = s.me.regs

/-- A data head that a cell with computed results takes: D, or an F token with an element under formats of at most 32 bits (12 R269). -/
def TakesData (c : Ctx) (e : Nat) (t : Token) : Prop :=
  t.kind = 0#4 ∨ (t.kind = 1#4 ∧ t.isNull = false ∧ cellWidth c e ≤ 32 ∧ outWidth c e ≤ 32)

/-- Lanes of a data token under a cell's format. -/
def lanesOf (c : Ctx) (e : Nat) (t : Token) : Nat := if t.kind = 1#4 then 1 else laneNum c e

/-- Operand j of lane i: of the token, or of the constant. -/
def opnd (c : Ctx) (e : Nat) (t : Token) (hs : List (Nat × Option Token)) (i j : Nat) : Nat :=
  (hs.map (fun h => headLane c e (t.kind == 1#4) h.2 i)).getD j 0

/-- The result token v of a data head t: lane i holds a value that R describes, and nothing stands above the lanes. -/
def Lanes (c : Ctx) (e : Nat) (t v : Token) (R : Nat → Nat → Prop) : Prop :=
  v.kind = t.kind
  ∧ (t.kind = 0#4 → v.val.toNat < 2 ^ (outWidth c e * laneNum c e) ∧ ∀ i < laneNum c e, R i (lane v.val (outWidth c e) i))
  ∧ (t.kind = 1#4 → v.coord = t.coord ∧ v.value.toNat < 2 ^ outWidth c e ∧ R 0 v.value.toNat)

/-- An exact integer brought to a cell's integer type: its low bits, or clamped in sat mode (12 R272, 03 R55, R64). -/
def Brought (c : Ctx) (e : Nat) (z : Int) (r : Nat) : Prop :=
  let w := cellWidth c e
  let signed := (fmtCode c e).getLsbD 0 = false
  let lo : Int := if signed then -(2 ^ (w - 1)) else 0
  let hi : Int := if signed then 2 ^ (w - 1) - 1 else 2 ^ w - 1
  (r : Int) = (if faultMode c e = 1#16 then max lo (min hi z) else z) % 2 ^ w

/-- The value of a lane in a cell's integer type. -/
def laneInt (c : Ctx) (e : Nat) (a : Nat) : Int :=
  if (fmtCode c e).getLsbD 0 = false ∧ 2 ^ (cellWidth c e - 1) ≤ a then (a : Int) - 2 ^ cellWidth c e else a

/-- The conditions of ICMP by code on w-bit patterns (04 R77). -/
def icmpHolds (w k a b : Nat) : Prop :=
  let x : Int := if 2 ^ (w - 1) ≤ a then (a : Int) - 2 ^ w else a
  let y : Int := if 2 ^ (w - 1) ≤ b then (b : Int) - 2 ^ w else b
  (k = 0 ∧ a = b) ∨ (k = 1 ∧ a ≠ b) ∨ (k = 2 ∧ x < y) ∨ (k = 3 ∧ x ≤ y) ∨ (k = 4 ∧ a < b) ∨ (k = 5 ∧ a ≤ b) ∨ (k = 6 ∧ y < x) ∨ (k = 7 ∧ y ≤ x)

end Sys2Proof.Claims

/-- 12 R272, R273, 11 R248, R249: the integer cells on a pair of data heads: each lane holds the exact sum, difference, product, lesser or
greater brought to the type, the bitwise result, the shift by the second operand modulo the width, or all ones where the condition
holds; the heads are gone and the result stands behind every queue that the output feeds. -/
def Obligations.IntegerCellResults : Prop :=
  ∀ (s : State) (i : BitVec 6) (hs : List (Nat × Option Token)) (t : Token),
    let e := i.toNat
    let c := pulled s e
    let w := cellWidth c e
    isInt c e = true → w * laneNum c e ≤ 64 → TakesData c e t → Roomy c e [0] →
    let does := fun (x : Instr) (op : Nat) (R : Nat → Nat → Nat → Nat → Prop) =>
      Stands s e op → Pairs c e (cellNeeds op) hs t → ∃ v, Fires x s e (cellNeeds op) [(0, v)] 0
        ∧ Lanes c e t v (fun j r => R (opnd c e t hs j 0) (opnd c e t hs j 1) (opnd c e t hs j 2) r)
    let z := laneInt c e
    does (.cellIadd i) 0x20 (fun a b _ r => Brought c e (z a + z b) r)
    ∧ does (.cellIsub i) 0x21 (fun a b _ r => Brought c e (z a - z b) r)
    ∧ does (.cellImul i) 0x22 (fun a b _ r => Brought c e (z a * z b) r)
    ∧ does (.cellImac i) 0x23 (fun a b d r => Brought c e (z a * z b + z d) r)
    ∧ does (.cellImin i) 0x2A (fun a b _ r => Brought c e (min (z a) (z b)) r)
    ∧ does (.cellImax i) 0x2B (fun a b _ r => Brought c e (max (z a) (z b)) r)
    ∧ does (.cellIand i) 0x24 (fun a b _ r => r = a &&& b)
    ∧ does (.cellIor i) 0x25 (fun a b _ r => r = a ||| b)
    ∧ does (.cellIxor i) 0x26 (fun a b _ r => r = a ^^^ b)
    ∧ does (.cellIshl i) 0x27 (fun a b _ r => r = a * 2 ^ (b % w) % 2 ^ w)
    ∧ does (.cellIshr i) 0x28 (fun a b _ r => r = a / 2 ^ (b % w))
    ∧ does (.cellIsha i) 0x29 (fun a b _ r => (r : Int) = (if 2 ^ (w - 1) ≤ a then (a : Int) - 2 ^ w else a) / 2 ^ (b % w) % 2 ^ w)
    ∧ ((cellConst c e).getLsbD 15 = false → does (.cellIcmp i) 0x2C (fun a b _ r =>
        (icmpHolds w ((cellConst c e).toNat % 8) a b → r = 2 ^ w - 1) ∧ (¬ icmpHolds w ((cellConst c e).toNat % 8) a b → r = 0)))

/-- 12 R272 to R274, 03 R59 to R68: the float cells on data heads: lane by lane the operation of 03 in the cell's format, rounding and mode; an
exception that traps under fault mode 0 halts the graph with cause 0x0D and the exceptions in KEVAL, and otherwise the flags of all
lanes are ORed into KFPC. The values of the operations on every operand are those of RoundingIsCorrect and ExactAndSpecialResults. -/
def Obligations.FloatCellResults : Prop :=
  ∀ (s : State) (i : BitVec 6) (hs : List (Nat × Option Token)) (t : Token),
    let e := i.toNat
    let c := pulled s e
    let f := fmtOf (fmtCode c e)
    let m := roundMode c e
    let sat := faultMode c e = 1#16
    isInt c e = false → cellWidth c e * laneNum c e ≤ 64 → outWidth c e * laneNum c e ≤ 64 → TakesData c e t → Roomy c e [0] →
    let does := fun (x : Instr) (op : Nat) (F : Nat → Nat → Nat → FRes) =>
      let rs := fun (j : Nat) => F (opnd c e t hs j 0) (opnd c e t hs j 1) (opnd c e t hs j 2)
      let fl := (List.range (lanesOf c e t)).foldl (fun a j => a ||| (rs j).flags) 0#5
      Stands s e op → Pairs c e (cellNeeds op) hs t →
        (faultMode c e ≠ 0#16 ∨ fl &&& 7#5 = 0#5 → ∃ v, Fires x s e (cellNeeds op) [(0, v)] fl
            ∧ Lanes c e t v (fun j r => r = (rs j).bits % 2 ^ outWidth c e))
        ∧ (faultMode c e = 0#16 → fl &&& 7#5 ≠ 0#5 → HaltsGraph x s e 0x0D (fl.setWidth 64))
    let x := flOf f
    let rel := fun (a b : Nat) => fRel ((cellConst c e).extractLsb' 0 2) (x a) (x b)
    does (.cellFadd i) 0x10 (fun a b _ => fAdd f m sat (x a) (x b)) ∧ does (.cellFsub i) 0x11 (fun a b _ => fSub f m sat (x a) (x b))
    ∧ does (.cellFmul i) 0x12 (fun a b _ => fMul f m sat (x a) (x b)) ∧ does (.cellFma i) 0x13 (fun a b d => fFma f m sat (x a) (x b) (x d))
    ∧ does (.cellFms i) 0x14 (fun a b d => fFma f m sat (x a) (x b) (flNeg (x d)))
    ∧ does (.cellFmin i) 0x15 (fun a b _ => fMinMax f false a b) ∧ does (.cellFmax i) 0x16 (fun a b _ => fMinMax f true a b)
    ∧ does (.cellFabs i) 0x17 (fun a _ _ => fSignOp f true a) ∧ does (.cellFneg i) 0x18 (fun a _ _ => fSignOp f false a)
    ∧ does (.cellFdiv i) 0x19 (fun a b _ => fDiv f m sat (x a) (x b)) ∧ does (.cellFsqrt i) 0x1A (fun a _ _ => fSqrt f m sat (x a))
    ∧ ((cellConst c e).getLsbD 15 = false →
        does (.cellFcmp i) 0x1B (fun a b _ => ⟨if (rel a b).1 then 2 ^ cellWidth c e - 1 else 0, (rel a b).2⟩))
    ∧ ((fmtField c e).getLsbD 12 = false →
        does (.cellFcvt i) 0x1C (fun a _ _ => fConvert f (fmtOf ((fmtField c e).extractLsb' 9 3)) m sat a))
    ∧ ((fmtField c e).getLsbD 12 = true →
        does (.cellFcvt i) 0x1C (fun a _ _ => fToInt f ((fmtField c e).extractLsb' 9 3) m a))

namespace Sys2Proof.Claims

/-- A control token stands behind the source buffer of every reader of a router's control network (11 R261). -/
def ControlPlaced (c : Ctx) (r : Nat) (b : Bool) (cq : Tab (List Bool)) : Prop :=
  ∀ k, tabGet [] cq k = ctlOf c k ++ List.replicate ((ctlReaders c r).countP (fun e => ctlSource e = k)) b

/-- Each reader of the control network has a free slot in the source buffer. -/
def ControlRoom (c : Ctx) (r : Nat) : Prop := ∀ e ∈ ctlReaders c r, (ctlOf c (ctlSource e)).length < 2

/-- The order of CMPX and MXSORT on keys (12 R272, 07 R154): by integer value, or by float value with −0 below +0 and every NaN on top. -/
def keyLess (c : Ctx) (e a b : Nat) : Bool := keyBelow (isInt c e) (fmtCode c e) a b

/-- Trit m of a row of T5 bytes, as an S8 byte (03 R56). -/
def tritOf (b m : Nat) : Nat := ((b / 3 ^ m % 3 : Nat) + 255) % 256

end Sys2Proof.Claims

/-- 12 R269, R272, R273, R275, 11 R249: tokens that carry no data pass a cell; PASS passes every token bit for bit; CONST gives its constant
for each data token; SEL gives the lanes of the head that its control token picks; CMPX gives the larger and then the smaller, lane by lane; a
comparison in control mode gives one control token to each reader; UNP3 gives the five trits of each legal byte in order. The model's readings among
them: that tokens of one class without data, X among them, pass as R249 has G, stops and Z do (DEDUCED, log 35), and that KEVAL of UNP3's fault is
the illegal byte of the lowest lane (DESIGN CHOICE, log 77). -/
def Obligations.TokenCellResults : Prop :=
  ∀ (s : State) (i : BitVec 6) (hs : List (Nat × Option Token)) (t h : Token) (b : Bool) (bs : List Bool),
    let e := i.toNat
    let c := pulled s e
    let w := cellWidth c e
    let x := elemOf c e
    let cq := c.fab.ctlq
    let at_ := fun (op : Nat) => Stands s e op ∧ Pairs c e (cellNeeds op) hs t
    Roomy c e [0] →
    (t.isData = false → isControl c e = false →
      (∀ p ∈ [(Instr.cellConst i, 0x02), (.cellCmpx i, 0x04), (.cellFadd i, 0x10), (.cellFsub i, 0x11), (.cellFmul i, 0x12), (.cellFma i, 0x13),
          (.cellFms i, 0x14), (.cellFmin i, 0x15), (.cellFmax i, 0x16), (.cellFabs i, 0x17), (.cellFneg i, 0x18), (.cellFdiv i, 0x19),
          (.cellFsqrt i, 0x1A), (.cellFcmp i, 0x1B), (.cellFcvt i, 0x1C), (.cellIadd i, 0x20), (.cellIsub i, 0x21), (.cellImul i, 0x22),
          (.cellImac i, 0x23), (.cellIand i, 0x24), (.cellIor i, 0x25), (.cellIxor i, 0x26), (.cellIshl i, 0x27), (.cellIshr i, 0x28),
          (.cellIsha i, 0x29), (.cellImin i, 0x2A), (.cellImax i, 0x2B), (.cellIcmp i, 0x2C), (.cellUnp3 i, 0x30), (.cellSel i, 0x03),
          (.cellOrd i, 0x43)],
        at_ p.2 → Fires p.1 s e (cellNeeds p.2) [(0, t)] 0))
    ∧ (Stands s e 0x01 → headsOf c e [0] = .ok [(0, some h)] → Fires (.cellPass i) s e [0] [(0, h)] 0)
    ∧ (at_ 0x02 → t.kind = 0#4 → Fires (.cellConst i) s e [0] [(0, tokD (cellConst c e))] 0)
    ∧ (at_ 0x02 → TakesData c e t → t.kind = 1#4 →
        Fires (.cellConst i) s e [0] [(0, tokF t.coord (BitVec.ofNat 32 ((cellConst c e).toNat % 2 ^ w)))] 0)
    ∧ (at_ 0x03 → t.kind = 0#4 ∨ (t.kind = 1#4 ∧ t.isNull = false ∧ w ≤ 32) → w * laneNum c e ≤ 64 → ctlOf c (ctlBuffer e) = b :: bs →
        ∃ u v, exec (.cellSel i) s = .next u ∧ Fired s e [0, 1] [(0, v)] [] x (tabPut [] cq (ctlBuffer e) bs) u
          ∧ Lanes c e t v (fun j r => r = opnd c e t hs j (if b then 0 else 1)))
    ∧ (at_ 0x03 → t.isNull = true → w ≤ 32 → ctlOf c (ctlBuffer e) = b :: bs →
        ∃ u, exec (.cellSel i) s = .next u ∧ Fired s e [0, 1] [(0, tokNull)] [] x (tabPut [] cq (ctlBuffer e) bs) u)
    ∧ (at_ 0x03 → t.kind = 0#4 → ctlOf c (ctlBuffer e) = [] → exec (.cellSel i) s = .next { s with me := forwardBuf c e })
    ∧ (at_ 0x43 → hs = [(0, some t), (1, some h)] → t.isData = true → Fires (.cellOrd i) s e [0, 1] [(0, h)] 0)
    ∧ (at_ 0x04 → t.kind = 0#4 → w * laneNum c e ≤ 64 → ∃ u v1 v2, exec (.cellCmpx i) s = .next u
        ∧ Fired s e [0, 1] [(0, v1)] [(0, v2)] x cq u
        ∧ Lanes c e t v1 (fun j r => r = if keyLess c e (opnd c e t hs j 0) (opnd c e t hs j 1) then opnd c e t hs j 1 else opnd c e t hs j 0)
        ∧ Lanes c e t v2 (fun j r => r = if keyLess c e (opnd c e t hs j 0) (opnd c e t hs j 1) then opnd c e t hs j 0 else opnd c e t hs j 1))
    ∧ (at_ 0x2C → isControl c e = true → TakesData c e t → ControlRoom c (routerOf e) → ∃ u q, exec (.cellIcmp i) s = .next u
        ∧ Fired s e [0, 1] [] [] x q u
        ∧ ControlPlaced c (routerOf e) (condHolds ((cellConst c e).extractLsb' 0 3) (BitVec.ofNat w (opnd c e t hs 0 0))
            (BitVec.ofNat w (opnd c e t hs 0 1))) q)
    ∧ (at_ 0x30 → t.kind = 0#4 → w = 8 → laneNum c e ≤ 8 → (∀ j < laneNum c e, opnd c e t hs j 0 < 243) →
        ∃ u v vs, exec (.cellUnp3 i) s = .next u ∧ Fired s e [0] [(0, v)] (vs.map (fun y => (0, y))) x cq u
          ∧ (v :: vs).length = (5 * laneNum c e + 7) / 8
          ∧ ∀ m < 5 * laneNum c e, lane (((v :: vs).getD (m / 8) v).val) 8 (m % 8) = tritOf (opnd c e t hs (m / 5) 0) (m % 5))
    ∧ (at_ 0x30 → t.kind = 0#4 → w = 8 → ∀ j < laneNum c e, 243 ≤ opnd c e t hs j 0 → (∀ k < j, opnd c e t hs k 0 < 243) →
        faultMode c e = 0#16 → HaltsGraph (.cellUnp3 i) s e 0x0C (BitVec.ofNat 64 (opnd c e t hs j 0)))

namespace Sys2Proof.Claims

/-- The sum of the listed integers brought to S32 as an accumulator holds it (12 R275). -/
def sumS32 (sat : Bool) (z : Int) (r : BitVec 32) : Prop :=
  r.toInt = if sat then max (-(2 ^ 31)) (min (2 ^ 31 - 1) z) else (z + 2 ^ 31) % 2 ^ 32 - 2 ^ 31

/-- The element state after a completed group (11 R254). -/
def closedGroup (x : ElemSt) : ElemSt := { x with acc := 0, used := false, isOpen := false, afterG := false, ordinal := x.ordinal + 1 }

end Sys2Proof.Claims

/-- 12 R275 to R277, 11 R254, 03 R68: the grouping cells: G opens, data enters the group and gives nothing (TACC adds the products of trits and
activations to its S32 sum, RED takes a first value and then one rounded sum, minimum or maximum a value, of integers or of floats with their
exceptions, CSUM folds lane 0 and then lane 1), and the stop of the group's level gives its result, an F token with the group's number where
RED reads F tokens; a higher stop passes lowered by the level behind it, and a null element opens the group only. -/
def Obligations.GroupingCellResults : Prop :=
  ∀ (s : State) (i : BitVec 6) (hs : List (Nat × Option Token)) (t : Token),
    let e := i.toNat
    let c := pulled s e
    let w := cellWidth c e
    let x := elemOf c e
    let cq := c.fab.ctlq
    let l := (cfgField c e 10).toNat
    let opened := { x with isOpen := true, afterG := false, phase := if t.kind = 1#4 then 2 else 1 }
    let at_ := fun (op : Nat) => Stands s e op ∧ Pairs c e (cellNeeds op) hs t
    let result := fun (op : Nat) =>
      if op = 0x31 then tokD ((x.acc.extractLsb' 0 32).setWidth 64)
      else if op = 0x38 then (if groupF c e then tokF x.ordinal (BitVec.ofNat 32 (x.acc.toNat % 2 ^ w)) else tokD x.acc)
      else tokD ((if x.used then x.acc.extractLsb' 0 32 else (cellConst c e).extractLsb' 0 32).setWidth 64)
    let f := fmtOf (fmtCode c e)
    let what := (cellConst c e).toNat % 4
    let summed := fun (j : Nat) =>
      let a := lane x.acc w j
      let b := opnd c e t hs j 0
      if what = 0 then fAdd f (roundMode c e) (faultMode c e = 1#16) (flOf f a) (flOf f b) else fMinMax f (what = 2) a b
    let raised := (List.range (lanesOf c e t)).foldl (fun a j => a ||| (summed j).flags) 0#5
    let ops : List (Instr × Nat) := [(.cellTacc i, 0x31), (.cellRed i, 0x38), (.cellCsum i, 0x39)]
    Roomy c e [0] → 1 ≤ l → l ≤ 7 → w * laneNum c e ≤ 64 →
    (∀ p ∈ ops, at_ p.2 → t.kind = 4#4 → ∃ u, exec p.1 s = .next u
        ∧ Fired s e (cellNeeds p.2) [(0, t)] [] { ElemSt.zero with afterG := true } cq u)
    ∧ (∀ p ∈ ops, at_ p.2 → t = tokStop l → x.isOpen = true ∨ x.afterG = true →
        ∃ u, exec p.1 s = .next u ∧ Fired s e (cellNeeds p.2) [(0, result p.2)] [] (closedGroup x) cq u)
    ∧ (∀ p ∈ ops, ∀ k, at_ p.2 → l < k → k ≤ 7 → t = tokStop k → x.isOpen = true →
        ∃ u, exec p.1 s = .next u
          ∧ Fired s e (cellNeeds p.2) [(0, result p.2)] [(0, tokStop (k - l))] { closedGroup x with ordinal := 0 } cq u)
    ∧ (at_ 0x31 → t.kind = 0#4 → isInt c e = true → w = 8 → (∀ j < laneNum c e, opnd c e t hs j 0 ∈ [0, 1, 255]) →
        ∃ u y, exec (.cellTacc i) s = .next u ∧ Fired s e [0, 1] [] [] { opened with acc := y, used := true } cq u
          ∧ sumS32 (isSat c e) ((x.acc.extractLsb' 0 32).toInt
              + ((List.range (laneNum c e)).map (fun j =>
                  (if opnd c e t hs j 0 = 255 then -1 else (opnd c e t hs j 0 : Int)) * laneInt c e (opnd c e t hs j 1))).sum)
              (y.extractLsb' 0 32))
    ∧ (at_ 0x38 → TakesData c e t → x.used = false → ∃ u y, exec (.cellRed i) s = .next u
        ∧ Fired s e [0] [] [] { opened with acc := y, used := true } cq u
        ∧ ∀ j < lanesOf c e t, lane y w j = opnd c e t hs j 0)
    ∧ (at_ 0x38 → TakesData c e t → x.used = true → isInt c e = true → ∃ u y, exec (.cellRed i) s = .next u
        ∧ Fired s e [0] [] [] { opened with acc := y, used := true } cq u
        ∧ ∀ j < lanesOf c e t,
            let a := lane x.acc w j
            let b := opnd c e t hs j 0
            let z := laneInt c e
            (what = 0 → Brought c e (z a + z b) (lane y w j)) ∧ (what = 1 → lane y w j = if z b < z a then b else a)
            ∧ (what = 2 → lane y w j = if z a < z b then b else a))
    ∧ (at_ 0x38 → TakesData c e t → x.used = true → isInt c e = false → what ≤ 2 →
        (faultMode c e ≠ 0#16 ∨ raised &&& 7#5 = 0#5 → ∃ u y, exec (.cellRed i) s = .next u
          ∧ Fired s e [0] [] [] { opened with acc := y, used := true } cq u ∧ u.me.sys.kfpc = s.me.sys.kfpc ||| (raised.setWidth 64 <<< 8)
          ∧ ∀ j < lanesOf c e t, lane y w j = (summed j).bits % 2 ^ w)
        ∧ (faultMode c e = 0#16 → raised &&& 7#5 ≠ 0#5 → HaltsGraph (.cellRed i) s e 0x0D (raised.setWidth 64)))
    ∧ (at_ 0x38 → t = tokNull → w ≤ 32 → ∃ u, exec (.cellRed i) s = .next u ∧ Fired s e [0] [] [] opened cq u)
    ∧ (at_ 0x39 → t.kind = 0#4 → isInt c e = true → w = 32 → laneNum c e = 2 → ∃ u y, exec (.cellCsum i) s = .next u
        ∧ Fired s e [0] [] [] { opened with acc := y, used := true } cq u
        ∧ let sum := if x.used then x.acc.toNat % 2 ^ 32 else (cellConst c e).toNat % 2 ^ 32
          let first := (rot5 sum + opnd c e t hs 0 0) % 2 ^ 32
          y.toNat = (rot5 first + opnd c e t hs 1 0) % 2 ^ 32)

namespace Sys2Proof.Claims

/-- The state in which an element acts: its ports pulled. -/
def acting (s : State) (e : Nat) : State := { s with me := pulled s e }

/-- The tokens at the inputs taken are gone from their queues, and v stands behind every queue that output 0 feeds. -/
def QueuesMove (s : State) (e : Nat) (taken : List Nat) (outs : List Token) (u : State) : Prop :=
  let c := pulled s e
  Forwarded c e (fun k => (queueOf c k).drop (if taken.any (fun i => k = inKey e i && sourceOf c e i / 4096 ≠ 7) then 1 else 0)
    ++ outs.flatMap (fun t => List.replicate ((outDests c e 0).countP (fun d => d.1 = k)) t)) u

/-- An operation stands behind the earlier ones of its node, and the others stand as before. -/
def NodeEnters (s : State) (e : Nat) (taken : List Nat) (o : NodeOp) (u : State) : Prop :=
  QueuesMove s e taken [] u ∧ nodeOps u.me e = nodeOps (pulled s e) e ++ [o] ∧ (∀ k, k ≠ e → nodeOps u.me k = nodeOps (pulled s e) k)
  ∧ u.me.regs = s.me.regs ∧ (isSink (pulled s e) e = false → u.parts = s.parts)

/-- The bytes from a hold the low n bytes of v, and every other byte of a memory stands as before. -/
def BytesWritten (m m' : List Host.Cell) (a n v : Nat) : Prop :=
  memNat m' a n = v % 2 ^ (8 * n) ∧ ∀ b, ¬ (a ≤ b ∧ b < a + n) → memByte m' b = memByte m b

end Sys2Proof.Claims

/-- 09 R187, 08 R162, R164, 10 R243: an access of an engine, a memory node or a log: in window space at an aligned address inside a region
that admits it, it reads or writes the bytes there; in cached space, where the home serves it, it reads the bytes at their home and writes them
there, past the L1; a misaligned, an outside or a refused access is the fault 0x03, 0x05 or 0x0A, and an uncorrectable word 0x09 (08 R183). Where an
engine has no stated tag list the model's tags apply (DEDUCED, log 19). -/
def Obligations.EngineAccesses : Prop :=
  ∀ (s t : State) (pr : BitVec 2) (tags : List (BitVec 3)) (va : Word) (k : Nat) (v pa : Nat), k < 4 → let size := 2 ^ k
    let key := winKey s.me.id.core va.toNat
    let fault := fun (cause : BitVec 8) => Stop.fault { cause := cause, value := va }
    let lost := fun (line : Nat) (base : Option State) => Stop.fault { cause := 0x09, value := va, line := some line, base := base }
    (va.toNat % size = 0 → va.toNat < 2 ^ 20 → winCheck s.me va.toNat size tags = none →
      (winLost s s.me.id.core va.toNat size = false → spaceRead s pr true tags va size = .ok (s, false, memNat s.win key size))
      ∧ (winLost s s.me.id.core va.toNat size = true → spaceRead s pr true tags va size = .error (lost (winLine key) none))
      ∧ ∃ u, spaceWrite s pr true tags va size v = .ok u ∧ BytesWritten s.win u.win key size v ∧ { u with win := s.win } = s)
    ∧ (va.toNat % size ≠ 0 → ∀ w, spaceRead s pr w tags va size = .error (fault 0x03)
        ∧ spaceWrite s pr w tags va size v = .error (fault 0x03))
    ∧ (va.toNat % size = 0 → (2 ^ 20 ≤ va.toNat ∨ regionAt s.me va.toNat = none) → spaceRead s pr true tags va size = .error (fault 0x05))
    ∧ (va.toNat % size = 0 → va.toNat < 2 ^ 20 → ∀ r, regionAt s.me va.toNat = some r → va.toNat + size ≤ r.base + r.size →
        r.tag ∉ tags → spaceRead s pr true tags va size = .error (fault 0x0A))
    ∧ (va.toNat % size = 0 → 2 ^ 48 ≤ va.toNat → spaceRead s pr false tags va size = .error (fault 0x04))
    ∧ (engXlat s pr va size needRead = .ok (t, pa) → badLine t pa = false → readState t s.me.id.part (pa / 128) = .go →
        ∃ u, spaceRead s pr false tags va size = .ok (u, decide (pa / 2 ^ 46 ≠ s.module.toNat), memNat s.mem pa size)
          ∧ { u with me.perf := t.me.perf, l2 := t.l2 } = t ∧ t.mem = s.mem ∧ t.win = s.win ∧ t.me.regs = s.me.regs ∧ t.me.fab = s.me.fab)
    ∧ (engXlat s pr va size needRead = .ok (t, pa) → badLine t pa = true → spaceRead s pr false tags va size = .error (lost (pa / 128) (some t)))
    ∧ (engXlat s pr va size needWrite = .ok (t, pa) → pa % size = 0 → writable t pa size (memPut s.mem pa size v) = true →
        ∃ u, spaceWrite s pr false tags va size v = .ok u
        ∧ BytesWritten s.mem u.mem pa size v ∧ { u with me.perf := t.me.perf, l2 := t.l2, mem := s.mem } = t)

/-- 12 R278, R271, 01 R17: memory nodes: MLD reads at the address of A and MATOM combines there, each with its value as the result; MST writes
B's lane 0 and counts one store to be acknowledged; results leave in the order of the operations, a store's once it is
acknowledged; a token without data takes its place among them. That memory nodes admit window tag plain only is the model's reading (DEDUCED, log 27). -/
def Obligations.MemoryNodeResults : Prop :=
  ∀ (s s1 : State) (i : BitVec 6) (hs : List (Nat × Option Token)) (t : Token) (far : Bool) (v pa : Nat) (o : NodeOp) (os : List NodeOp),
    let e := i.toNat
    let c := pulled s e
    let p := acting s e
    let at_ := fun (op : Nat) => Stands s e op ∧ Pairs c e (cellNeeds op) hs t ∧ (nodeOps c e).length < 16
    let size := nodeSize c e
    let k := cellConst c e
    let arg := nodeArg c e hs
    (∀ q ∈ [(Instr.cellMld i, 0x40), (.cellMst i, 0x41), (.cellMatom i, 0x42)], at_ q.2 → t.isData = false → ∃ u, exec q.1 s = .next u
        ∧ NodeEnters s e (cellNeeds q.2) ⟨t, true, false, true, s.tick⟩ u ∧ u.mem = s.mem ∧ u.win = s.win)
    ∧ (at_ 0x40 → t.kind = 0#4 → spaceRead p (graphPriv p e) (nodeWindow c e) [0] (arg 0) size = .ok (s1, far, v) →
        ∃ u, exec (.cellMld i) s = .next u ∧ u.mem = s1.mem ∧ u.win = s1.win
          ∧ (s1 = { p with me.perf := s1.me.perf, me.tlb := s1.me.tlb, l2 := s1.l2, others := s1.others } →
              NodeEnters s e [0] ⟨tokD (BitVec.ofNat 64 v), true, false, true, s.tick⟩ u))
    ∧ (at_ 0x41 → t.kind = 0#4 → unackOf c (e * 4) < 65535 →
        spaceWrite p (graphPriv p e) (nodeWindow c e) [0] (arg 0) size ((arg 1).toNat % 2 ^ cellWidth c e) = .ok s1 →
        ∃ u, exec (.cellMst i) s = .next u ∧ u.mem = s1.mem ∧ u.win = s1.win
          ∧ (s1.me.fab = c.fab → s1.me.regs = s.me.regs → s1.parts = s.parts →
              NodeEnters s e [0, 1] ⟨tokD 0, !isSink c e, true, false, s.tick⟩ u ∧ unackOf u.me (e * 4) = unackOf c (e * 4) + 1))
    ∧ (let n := if k.getLsbD 8 then 4 else 8
       let new := fun (old : Nat) => atomValue (k.extractLsb' 4 4) (8 * n) old ((arg 1).toNat % 2 ^ (8 * n))
       let enters := fun (old : Nat) (u : State) => NodeEnters s e [0, 1] ⟨tokD (BitVec.ofNat 64 old), !isSink c e, false, true, s.tick⟩ u
       at_ 0x42 → t.kind = 0#4 →
        (let key := winKey s.me.id.core (arg 0).toNat
         let old := memNat s.win key n
         nodeWindow c e = true → (arg 0).toNat % n = 0 → (arg 0).toNat < 2 ^ 20 → winCheck c (arg 0).toNat n [0] = none →
          winLost s s.me.id.core (arg 0).toNat n = false → ∃ u, exec (.cellMatom i) s = .next u ∧ BytesWritten s.win u.win key n (new old) ∧ u.mem = s.mem ∧ enters old u)
        ∧ (let old := memNat s.mem pa n
           nodeWindow c e = false → engXlat p (graphPriv p e) (arg 0) n needBoth = .ok (s1, pa) → badLine p pa = false →
          writable s1 pa n (memPut s.mem pa n (new old)) = true → ∃ u, exec (.cellMatom i) s = .next u ∧ BytesWritten s.mem u.mem pa n (new old) ∧ u.win = s.win ∧ enters old u))
    ∧ (let c0 := forwardBuf s.me e
       moves s e = true → pending s.me e = false → nodeOps s.me e = o :: os → o.done = true → Roomy c0 e [0] →
        ∃ u, exec (.memoryNodeResult i) s = .next u ∧ nodeOps u.me e = os
          ∧ Forwarded c0 e (fun x => queueOf c0 x ++ List.replicate (if o.emits then (outDests c0 e 0).countP (fun d => d.1 = x) else 0) o.tok) u
          ∧ u.mem = s.mem ∧ u.win = s.win ∧ u.me.regs = s.me.regs)
    ∧ (nodeOps s.me e = o :: os → o.isStore = true → o.done = false → unackOf s.me (e * 4) ≠ 0 →
        ∃ u, exec (.storeAcknowledge (e : BitVec 10)) s = .next u ∧ nodeOps u.me e = ({ o with done := true } :: os)
          ∧ unackOf u.me (e * 4) = unackOf s.me (e * 4) - 1 ∧ u.mem = s.mem ∧ u.win = s.win ∧ u.me.regs = s.me.regs)

namespace Sys2Proof.Claims

/-- A context's window units but e stand as before. -/
def KeepsOtherUnits (c c' : Ctx) (e : Nat) : Prop := ∀ k, k ≠ e → winOf c' k = winOf c k

/-- A row or column of a plane of n of them, by the boundary code of a window unit: none is the boundary constant (09 R206, 12 R281). -/
def edgeOf (bound : Nat) (i : Int) (n : Nat) : Option Int :=
  if 0 ≤ i ∧ i < n then some i
  else if bound = 0 then some (if i < 0 then -i else 2 * ((n : Int) - 1) - i)
  else if bound = 1 then some (if i < 0 then -i - 1 else 2 * (n : Int) - 1 - i)
  else none

/-- The token of tap (dy, dx) at output row y and position p, from the columns that the unit holds, the newest row first: the high edges are those of
what has arrived, where the plane is still open (12 R281, R282). -/
def TapValue (c : Ctx) (e : Nat) (h : Shape) (w : Win) (y p : Nat) (dy dx : Int) (v : Token) : Prop :=
  let newest := if w.rowOpen then w.rows else w.rows - 1
  let high := if w.ended then w.rows else newest + 1
  let wide := h.lanes * w.width.getD w.cols.length
  v.kind = 0#4 ∧ ∀ i < h.lanes, lane v.val h.width i =
    match edgeOf h.bound (y + dy) high, edgeOf h.bound ((h.lanes * p + i : Nat) + dx) wide with
    | some r, some k => lane ((w.cols.getD (k.toNat / h.lanes) []).getD (newest - r.toNat) 0) h.width (k.toNat % h.lanes)
    | _, _ => lane (cfgField c e 19 ++ cfgField c e 18 ++ cfgField c e 17 ++ cfgField c e 16) h.width i

/-- An exact integer as a cell's integer type holds it: clamped in sat mode, wrapped otherwise (12 R272, 03 R55). -/
def broughtTo (c : Ctx) (e : Nat) (z : Int) : Int :=
  let w := cellWidth c e
  let signed := (fmtCode c e).getLsbD 0 = false
  if faultMode c e = 1#16 then (if signed then max (-(2 ^ (w - 1))) (min (2 ^ (w - 1) - 1) z) else max 0 (min (2 ^ w - 1) z))
  else laneInt c e (z % 2 ^ w).toNat

end Sys2Proof.Claims

/-- 12 R280 to R283, 11 R259: a window unit in an open row takes the next token of the row into its columns and moves every line queue one row on at
its position, the new token into queue 0, inside its region only (queue 0 alone in the first row of a plane), and makes the output due that its window then covers; an
uncorrectable word there is cause 0x09 at the unit. What is due goes to every reader of every tap at once: the token itself, or in each lane the
element at the tap's row and column, bounded at the edges. A WTAP cell takes one token from every listed tap and gives their sum in list
order, of integers or of floats with their exceptions. The layout of the line queues beyond 11 R259 is the model's reading (DEDUCED, log 35). -/
def Obligations.WindowUnitsAndTaps : Prop :=
  ∀ (s : State) (i : BitVec 6) (t : Token) (rest : List (Option (Nat × Nat) × Token)) (pos : Option (Nat × Nat)) (ts : List Token),
    let e := i.toNat
    let c := pulled s e
    let w := winOf c e
    let h := shapeOf c e
    let r := region c h.region
    let x := w.cols.length
    let taps := tapList (cellConst c e)
    let queue := fun (q : Nat) => r.base + 8 * (q * w.width.getD 0 + x)
    let put := fun (q : Nat) => q < (if w.width.isSome then h.rows - 1 else min 1 (h.rows - 1)) ∧ queue q + 8 ≤ r.base + r.size
    let f := fmtOf (fmtCode c e)
    let added := fun (j : Nat) => ((ts.drop 1).map (fun y => lane y.val (cellWidth c e) j)).foldl (fun (a : FRes) (b : Nat) =>
      let z := fAdd f (roundMode c e) (faultMode c e = 1#16) (flOf f a.bits) (flOf f b)
      ⟨z.bits, a.flags ||| z.flags⟩) ⟨((ts.map (fun y => lane y.val (cellWidth c e) j)).headD 0), 0⟩
    let raised := (List.range (laneNum c e)).foldl (fun a j => a ||| (added j).flags) 0#5
    let tapped := fun (fl : BitVec 5) (v : Token) => ∃ u, exec (.cellWtap i) s = .next u ∧ v.kind = 0#4
      ∧ Forwarded c e (fun k => (queueOf c k).drop (if (List.range taps.length).any (fun m => k = inKey e (3 + m)) then 1 else 0)
          ++ List.replicate ((outDests c e 0).countP (fun d => d.1 = k)) v) u
      ∧ u.me.sys.kfpc = s.me.sys.kfpc ||| (fl.setWidth 64 <<< 8) ∧ u.mem = s.mem ∧ u.win = s.win ∧ u.me.regs = s.me.regs
    (Stands s e 0x49 → w.out = [] → w.ended = false → w.rowOpen = true → headsOf c e [0] = .ok [(0, some t)] → t.kind = 0#4 →
      (h.rows ≤ 1 ∨ r.size = 0 ∨ r.tag = 1#3) → lineLost (acting s e) r h w x = none → ∃ u old, exec (.cellLqw i) s = .next u ∧ QueuesMove s e [0] [] u
        ∧ winOf u.me e = { w with cols := w.cols ++ [t.val :: old],
                                  out := if h.ry ≤ w.rows ∧ h.lag ≤ x then [(some (w.rows - h.ry, x - h.lag), tokZ)] else [],
                                  lastIn := some (w.plane, BitVec.ofNat 16 w.rows, BitVec.ofNat 16 (h.lanes * x + h.lanes - 1)) }
        ∧ old = (List.range (h.rows - 1)).map (fun q => BitVec.ofNat 64 (memNat s.win (winKey s.me.id.core (queue q)) 8))
        ∧ KeepsOtherUnits c u.me e ∧ u.mem = s.mem
        ∧ (w.width ≠ some 0 → ∀ q, put q → memNat u.win (winKey s.me.id.core (queue q)) 8 = ((t.val :: old).getD q 0).toNat)
        ∧ ∀ a, (∀ q, put q → ¬ (winKey s.me.id.core (queue q) ≤ a ∧ a < winKey s.me.id.core (queue q) + 8)) → memByte u.win a = memByte s.win a)
    ∧ (∀ a, Stands s e 0x49 → w.out = [] → w.ended = false → w.rowOpen = true → headsOf c e [0] = .ok [(0, some t)] → t.kind = 0#4 →
      (h.rows ≤ 1 ∨ r.size = 0 ∨ r.tag = 1#3) → lineLost (acting s e) r h w x = some a →
      retireOverflow s (some (winLine (winKey s.me.id.core a))) = false → HaltsGraph (.cellLqw i) s e 0x09 (BitVec.ofNat 64 a))
    ∧ (Stands s e 0x49 → w.out = (pos, t) :: rest →
        (∀ p ∈ tapsOf h, ∀ d ∈ tapReaders c (e / 8) p.1, (queueOf c d.1).length < d.2) → h.lanes * h.width ≤ 64 →
        ∃ u, ∃ value : Nat × Int × Int → Token, exec (.cellLqw i) s = .next u
          ∧ (winOf u.me e).out = rest ∧ KeepsOtherUnits c u.me e ∧ u.mem = s.mem ∧ u.win = s.win
          ∧ Forwarded c e (fun k => queueOf c k ++ (tapsOf h).flatMap (fun p =>
              List.replicate ((tapReaders c (e / 8) p.1).countP (fun d => d.1 = k)) (value p))) u
          ∧ ∀ p ∈ tapsOf h, (pos = none → value p = t) ∧ ∀ y, pos = some y → TapValue c e h w y.1 y.2 p.2.1 p.2.2 (value p))
    ∧ (Stands s e 0x48 → Roomy c e [0] → ts.length = taps.length → (∀ m < ts.length, (queueOf c (inKey e (3 + m))).head? = ts[m]?) →
        (∀ y ∈ ts, y.kind = 0#4) → cellWidth c e * laneNum c e ≤ 64 →
        (isInt c e = true → ∃ v, tapped 0 v ∧ ∀ j < laneNum c e, (lane v.val (cellWidth c e) j : Int)
          = ((ts.drop 1).map (fun y => laneInt c e (lane y.val (cellWidth c e) j))).foldl (fun a b => broughtTo c e (a + b))
              (laneInt c e (lane ((ts.map (fun y => y.val)).headD 0) (cellWidth c e) j)) % 2 ^ cellWidth c e)
        ∧ (isInt c e = false → faultMode c e ≠ 0#16 ∨ raised &&& 7#5 = 0#5 → ∃ v, tapped raised v
          ∧ ∀ j < laneNum c e, lane v.val (cellWidth c e) j = (added j).bits % 2 ^ cellWidth c e)
        ∧ (isInt c e = false → faultMode c e = 0#16 → raised &&& 7#5 ≠ 0#5 → HaltsGraph (.cellWtap i) s e 0x0D (raised.setWidth 64)))

namespace Sys2Proof.Claims

/-- Input j of an element has t at its head. -/
def Head (c : Ctx) (e j : Nat) (t : Token) : Prop := headsOf c e [j] = .ok [(j, some t)]

/-- An instruction is a firing that takes the heads at `taken`, sends `outs` and leaves y as the element's own state. -/
def Goes (i : Instr) (s : State) (e : Nat) (taken : List Nat) (outs rest : List (Nat × Token)) (y : ElemSt) (cq : Tab (List Bool)) : Prop :=
  ∃ u, exec i s = .next u ∧ Fired s e taken outs rest y cq u

/-- The control buffers once an element has taken its next control token. -/
def controlTaken (c : Ctx) (e : Nat) (bs : List Bool) : Tab (List Bool) := tabPut [] c.fab.ctlq (ctlBuffer e) bs

/-- It is the turn, at every link of the outputs named, of the direction that a router's firing passes on: `taken` are the inputs that it consumes and y
the element's state after it. Two outputs do not share a link (11 R260). -/
def InTurn (c : Ctx) (e : Nat) (taken ports : List Nat) (y : ElemSt) : Prop :=
  let k := takeAll c e taken
  (∀ p ∈ ports, turnHere { k with fab.elems := tabPut ElemSt.zero k.fab.elems e y } e p = true)
  ∧ (0 ∈ ports → 1 ∈ ports → ∀ d ∈ fanDirs c e 0, d ∉ fanDirs c e 1)

end Sys2Proof.Claims

/-- 12 R284 to R288, 11 R248, R260: the routers, each firing in its turn at the links: ROUTE passes every token, and waits while it is not its turn; STEER sends a
data token where its control token says, closes output 0 with S1 before Z, and halts on a stop with control 1; MERGE passes G, takes a data
token of input 0 for control 1 and the next token of input 1 for control 0, an X on its way to input 1 first (DEDUCED, log 28), and consumes S1
and Z of input 0 behind Z of input 1; CARRY passes G, data and stops of input 0, takes a control token behind each, which consumes a stop with
it, while that is 1 passes data of input 1, and behind its own Z consumes S1 and Z of the back edge (DEDUCED, log 28). -/
def Obligations.RouterResults : Prop :=
  ∀ (s : State) (i : BitVec 6) (hs : List (Nat × Option Token)) (t d : Token) (b : Bool) (bs : List Bool),
    let e := 0x80 + i.toNat
    let c := pulled s e
    let x := elemOf c e
    let cq := c.fab.ctlq
    let cq' := controlTaken c e bs
    let ctl := ctlOf c (ctlBuffer e)
    let fires := fun (j : Instr) (taken : List Nat) (outs rest : List (Nat × Token)) (y : ElemSt) (q : Tab (List Bool)) =>
      InTurn c e taken (outs.map (fun o => o.1)) y → Goes j s e taken outs rest y q
    Roomy c e [0, 1] →
    (Stands s e 1 → Head c e 0 t → fires (.route i) [0] [(0, t)] [] x cq
      ∧ (turnHere (takeAll c e [0]) e 0 = false → exec (.route i) s = .next (acting s e)))
    ∧ (Stands s e 2 → Head c e 0 t →
        (t.kind = 4#4 → fires (.steer i) [0] [(0, t), (1, t)] [] x cq)
        ∧ (t.kind = 15#4 → fires (.steer i) [0] [(0, tokStop 1), (1, t)] [(0, t)] x cq)
        ∧ (t.isData = true → ctl = b :: bs → fires (.steer i) [0] [(if b then 0 else 1, t)] [] x cq')
        ∧ (t.isStop = true → ctl = false :: bs → fires (.steer i) [0] [(1, t)] [] x cq')
        ∧ (t.isStop = true → ctl = true :: bs → HaltsGraph (.steer i) s e 0x0B t.val)
        ∧ (t.kind = 3#4 → fires (.steer i) [0] [(1, t)] [] x cq))
    ∧ (Stands s e 3 →
        (x.phase = 0 → Pairs c e [0, 1] hs t → t.kind = 4#4 → fires (.merge i) [0, 1] [(0, t)] [] { x with phase := 1 } cq)
        ∧ (x.phase ≠ 0 → headsOf c e [1] = .error .wait → xComing c e 1 = true → exec (.merge i) s = .next (acting s e))
        ∧ (x.phase ≠ 0 → ((headsOf c e [1] = .error .wait ∧ xComing c e 1 = false) ∨ ∃ g, Head c e 1 g ∧ g.kind ≠ 3#4 ∧ g.kind ≠ 15#4) → ctl = b :: bs →
            (b = true → Head c e 0 d → d.isData = true → fires (.merge i) [0] [(0, d)] [] { x with index := 0 } cq')
            ∧ (b = false → Head c e 1 d → d.isData = true ∨ d.isStop = true → fires (.merge i) [1] [(0, d)] [] { x with index := 1 } cq'))
        ∧ (x.phase ≠ 0 → Head c e 1 t → t.kind = 3#4 → fires (.merge i) [1] [(0, t)] [] { x with index := 1 } cq)
        ∧ (x.phase = 1 → Head c e 1 t → t.kind = 15#4 → Head c e 0 (tokStop 1) →
            fires (.merge i) [0] [] [] { x with phase := 2 } cq)
        ∧ (x.phase = 2 → Head c e 1 t → t.kind = 15#4 → Head c e 0 d → d.kind = 15#4 →
            fires (.merge i) [0, 1] [(0, t)] [] ElemSt.zero cq))
    ∧ (Stands s e 4 →
        (Head c e 1 t → t.kind = 4#4 → fires (.carry i) [1] [] [] x cq)
        ∧ ((∀ g, Head c e 1 g → g.kind ≠ 4#4) →
            (x.phase = 0 → Head c e 0 t → t.kind = 4#4 → fires (.carry i) [0] [(0, t)] [] { x with phase := 1 } cq)
            ∧ (x.phase = 1 → x.looping = false → Head c e 0 t →
                (t.isData = true → fires (.carry i) [0] [(0, t)] [] { x with phase := 2, index := 0 } cq)
                ∧ (t.isStop = true → fires (.carry i) [] [(0, t)] [] { x with phase := 3, index := 0 } cq)
                ∧ (t.kind = 3#4 → fires (.carry i) [0] [(0, t)] [] { x with index := 0 } cq)
                ∧ (t.kind = 15#4 → fires (.carry i) [0] [(0, t)] [] { x with phase := 4 } cq))
            ∧ (x.phase = 1 → x.looping = true → Head c e 1 d → d.isData = true →
                fires (.carry i) [1] [(0, d)] [] { x with phase := 2, index := 1 } cq)
            ∧ (x.phase = 2 → ctl = b :: bs → fires (.carry i) [] [] [] { x with phase := 1, looping := b } cq')
            ∧ (x.phase = 3 → Head c e 0 t → ctl = false :: bs → fires (.carry i) [0] [] [] { x with phase := 1 } cq')
            ∧ (x.phase = 3 → Head c e 0 t → ctl = true :: bs → HaltsGraph (.carry i) s e 0x0B t.val)
            ∧ (x.phase = 4 → Head c e 1 (tokStop 1) → fires (.carry i) [1] [] [] { x with phase := 5 } cq)
            ∧ (x.phase = 5 → Head c e 1 t → t.kind = 15#4 → fires (.carry i) [1] [] [] ElemSt.zero cq)))

namespace Sys2Proof.Claims

/-- t is the head that SCAN works on, and y its own state once t is consumed: a token of A, or the next of the stream that a source makes:
G, (0, 0), (1, 1) …, S1, Z; a drain cuts it short (12 R290, R299). -/
def ScanReads (s : State) (e : Nat) (t : Token) (y : ElemSt) : Prop :=
  let c := pulled s e
  let x := elemOf c e
  let n := (param c e).extractLsb' 0 32
  let cut := (draining s e = true ∧ x.phase = 0) ∨ n.toNat ≤ x.ordinal.toNat
  (sourceOf c e 0 ≠ 0 ∧ Head c e 0 t ∧ t.kind ≠ 0#4 ∧ t.kind ≠ 3#4 ∧ y = x)
  ∨ (sourceOf c e 0 = 0 ∧
    ((x.looping = false ∧ x.started = true ∧ t = tokG ∧ y = { x with looping := true, started := false })
     ∨ (x.looping = true ∧ x.used = true ∧ t = tokZ ∧ y = { x with looping := false })
     ∨ (x.looping = true ∧ x.used = false ∧ cut ∧ t = tokStop 1 ∧ y = { x with used := true })
     ∨ (x.looping = true ∧ x.used = false ∧ ¬ cut ∧ t = tokF x.ordinal x.ordinal ∧ y = { x with ordinal := x.ordinal + 1 })))

/-- A fibre element sends ts at output 0, one now and the others behind it, and has y moved on by them. -/
def Emits (i : Instr) (s : State) (e : Nat) (taken : List Nat) (ts : List Token) (y : ElemSt) : Prop :=
  let outs := ts.map (fun t => (0, t))
  Goes i s e taken (outs.take 1) (outs.drop 1) (ts.foldl ElemSt.emitted y) (pulled s e).fab.ctlq

/-- Input B of a fibre element is absent, or has at its head a token that passes. -/
def MayTake (c : Ctx) (e : Nat) (b : Token) (ok : Token → Prop) : Prop :=
  sourceOf c e 1 = 0 ∨ (sourceOf c e 1 ≠ 0 ∧ Head c e 1 b ∧ b.kind ≠ 0#4 ∧ b.kind ≠ 3#4 ∧ ok b)

end Sys2Proof.Claims

/-- 12 R289 to R294, 11 R251, R255: the fibre elements: SCAN replaces an element with position p by the fibre from seg[p] to seg[p + 1], one element
(crd[j], j) at a time with rising coordinates, raises each stop by one level and closes with S1; a position past the array is the fault
0x0C; REPEAT repeats the value of A over the fibre of B; LOOKUP reads val at the element's value. The pass of tokens that are no data follows the
model's readings (DEDUCED, log 35). -/
def Obligations.FibreWalks : Prop :=
  ∀ (s : State) (i : BitVec 3) (t y0 : Token) (y : ElemSt) (first last total cc before a : Nat),
    let e := 0x40 + i.toNat
    let c := pulled s e
    let p := acting s e
    let x := elemOf c e
    let cq := c.fab.ctlq
    let n := ((param c e).extractLsb' 0 32).toNat
    let taken := if sourceOf c e 0 = 0 then [] else [0]
    let rest := { y with phase := 0, index := 0, acc := 0 }
    let segs := segRegion c e
    let crd := crdRegion c e
    Roomy c e [0] →
    (Stands s e 1 → ScanReads s e t y →
        ((t.kind = 4#4 ∨ t.kind = 15#4) → Emits (.scan i) s e taken [t] rest)
        ∧ (t.isStop = true → t.level < 7 → Emits (.scan i) s e taken [tokStop (t.level + 1)] rest)
        ∧ (t = tokStop 7 → HaltsGraph (.scan i) s e 0x0B t.val)
        ∧ (t.kind = 1#4 → t.isNull = true ∨ t.value = 0xFFFFFFFF#32 → Emits (.scan i) s e taken (closeFibre x 1) rest)
        ∧ (t.kind = 1#4 → t.isNull = false → t.value.toNat < n → x.phase = 0 → entry32 p segs t.value.toNat = .ok first →
            entry32 p segs (t.value.toNat + 1) = .ok last → entry32 p segs n = .ok total → first ≤ last →
            total ≤ (region c crd).size / 4 →
            (first = last → Emits (.scan i) s e taken (closeFibre x 1) rest)
            ∧ (first < last → entry32 p crd first = .ok cc →
                Emits (.scan i) s e [] [tokF (BitVec.ofNat 32 cc) (BitVec.ofNat 32 first)]
                  { x with phase := 1, index := first + 1, acc := BitVec.ofNat 64 last }))
        ∧ (t.kind = 1#4 → t.isNull = false → t.value ≠ 0xFFFFFFFF#32 → n ≤ t.value.toNat → x.phase = 0 →
            HaltsGraph (.scan i) s e 0x0C (BitVec.ofNat 64 t.value.toNat))
        ∧ (t.kind = 1#4 → t.isNull = false → t.value ≠ 0xFFFFFFFF#32 → x.phase = 1 →
            entry32 p segs t.value.toNat = .ok first → first < x.index →
            (x.acc.toNat ≤ x.index → Emits (.scan i) s e taken (closeFibre x 1) rest)
            ∧ (x.index < x.acc.toNat → entry32 p crd x.index = .ok cc → entry32 p crd (x.index - 1) = .ok before →
                (before < cc → Emits (.scan i) s e [] [tokF (BitVec.ofNat 32 cc) (BitVec.ofNat 32 x.index)] { x with index := x.index + 1 })
                ∧ (cc ≤ before → HaltsGraph (.scan i) s e 0x0C (BitVec.ofNat 64 x.index)))))
    ∧ (Stands s e 4 → Head c e 1 t → t.kind ≠ 0#4 → t.kind ≠ 3#4 →
        (t.isNull = true → Goes (.repeatF i) s e [1] [(0, t)] [] x cq)
        ∧ (t.isNull = false → Head c e 0 y0 → y0.kind ≠ 0#4 → y0.kind ≠ 3#4 →
            (t.kind = 1#4 → y0.kind = 1#4 → y0.isNull = false → Goes (.repeatF i) s e [1] [(0, tokF t.coord y0.value)] [] x cq)
            ∧ (t.kind = 1#4 → y0.kind ≠ 1#4 ∨ y0.isNull = true → HaltsGraph (.repeatF i) s e 0x0B y0.val)
            ∧ (t = tokStop 1 → x.phase = 0 → y0.kind = 1#4 → Goes (.repeatF i) s e [0, 1] [(0, t)] [] x cq)
            ∧ (t = tokStop 1 → ¬ (x.phase = 0 ∧ y0.kind = 1#4) → Goes (.repeatF i) s e [1] [(0, t)] [] x cq)
            ∧ (t.isStop = true → 1 < t.level → x.phase = 0 → y0.kind = 1#4 → Goes (.repeatF i) s e [0] [] [] { x with phase := 1 } cq)
            ∧ (t.isStop = true → 1 < t.level → y0 = tokStop (t.level - 1) → Goes (.repeatF i) s e [0, 1] [(0, t)] [] ElemSt.zero cq)
            ∧ (t.kind = 4#4 ∨ t.kind = 15#4 → y0.kind = t.kind → Goes (.repeatF i) s e [0, 1] [(0, t)] [] ElemSt.zero cq)))
    ∧ (Stands s e 5 → Head c e 0 t → t.kind ≠ 0#4 → t.kind ≠ 3#4 →
        (t.kind ≠ 1#4 ∨ t.isNull = true → Goes (.lookup i) s e [0] [(0, t)] [] x cq)
        ∧ (t.kind = 1#4 → t.isNull = false → t.value = 0xFFFFFFFF#32 → Goes (.lookup i) s e [0] [(0, tokF t.coord 0)] [] x cq)
        ∧ (t.kind = 1#4 → t.isNull = false → t.value ≠ 0xFFFFFFFF#32 →
            arrayAt c segs (t.value.toNat * (cellWidth c e / 8)) (cellWidth c e / 8) [0, 3] = .ok a →
            winLost s s.me.id.core a (cellWidth c e / 8) = false → Goes (.lookup i) s e [0] [(0, tokF t.coord (BitVec.ofNat 32 (memNat s.win (winKey s.me.id.core a) (cellWidth c e / 8))))] [] x cq))

/-- 12 R289, R293, R294, 11 R251, R254, R255: ISECT keeps the coordinates of both inputs and UNION those of either, with the absent value
where one has none; FRED reduces the values of a group, integers or floats with their exceptions, and gives one element with the coordinate of B,
or its ordinal; FWRITE writes segments, coordinates and values into its arrays, and each write raises the store-acknowledge count, its fibres
ended at the level of field 10 (DEDUCED, log 84). That the fault of heads that do not pair names the head of B is the model's reading
(DEDUCED, log 35). -/
def Obligations.FibreJoinsAndSinks : Prop :=
  ∀ (s : State) (i : BitVec 3) (t b : Token) (a a2 : Nat),
    let e := 0x40 + i.toNat
    let c := pulled s e
    let x := elemOf c e
    let cq := c.fab.ctlq
    let w := cellWidth c e
    let both := fun (u : Token) => [((0 : Nat), u), (1, u)]
    let pair := fun (k p q : BitVec 32) => [((0 : Nat), tokF k p), (1, tokF k q)]
    let none32 : BitVec 32 := 0xFFFFFFFF
    (∀ j ∈ [(Instr.isect i, 2, false), (.union i, 3, true)], Stands s e j.2.1 → Roomy c e [0, 1] → Head c e 0 t → Head c e 1 b →
        t.kind ≠ 0#4 → t.kind ≠ 3#4 → b.kind ≠ 0#4 → b.kind ≠ 3#4 →
        (t.kind = 1#4 → b.kind = 1#4 →
            (t.coord = b.coord → t.isNull = false → Goes j.1 s e [0, 1] (pair t.coord t.value b.value) [] { x with last := 1 } cq)
            ∧ (t.coord = b.coord → t.isNull = true → Goes j.1 s e [0, 1] [] [] x cq)
            ∧ (t.coord.toNat < b.coord.toNat → if j.2.2 then Goes j.1 s e [0] (pair t.coord t.value none32) [] { x with last := 1 } cq
                else Goes j.1 s e [0] [] [] x cq)
            ∧ (b.coord.toNat < t.coord.toNat → if j.2.2 then Goes j.1 s e [1] (pair b.coord none32 b.value) [] { x with last := 1 } cq
                else Goes j.1 s e [1] [] [] x cq))
        ∧ (t.kind = 1#4 → b.isStop = true → if j.2.2 && !t.isNull then Goes j.1 s e [0] (pair t.coord t.value none32) [] { x with last := 1 } cq
            else Goes j.1 s e [0] [] [] x cq)
        ∧ (t.isStop = true → b.kind = 1#4 → if j.2.2 && !b.isNull then Goes j.1 s e [1] (pair b.coord none32 b.value) [] { x with last := 1 } cq
            else Goes j.1 s e [1] [] [] x cq)
        ∧ (t.isStop = true → b.kind = t.kind → let ts := closeFibre x t.level
            Goes j.1 s e [0, 1] ((ts.take 1).flatMap both) ((ts.drop 1).flatMap both) (ts.foldl ElemSt.emitted x) cq)
        ∧ (t.kind = 4#4 ∨ t.kind = 15#4 → b.kind = t.kind → Goes j.1 s e [0, 1] (both t) [] ElemSt.zero cq)
        ∧ (t.kind ≠ b.kind → ¬ (t.kind = 1#4 ∧ b.isStop = true) → ¬ (t.isStop = true ∧ b.kind = 1#4) → HaltsGraph j.1 s e 0x0B b.val))
    ∧ (let hasB := if sourceOf c e 1 = 0 then [] else [1]
       let isElem := fun (u : Token) => u.kind = 1#4 ∧ u.isNull = false
       let l := (cfgField c e 10).toNat
       let what := (param c e).toNat % 4
       let key := if sourceOf c e 1 = 0 then x.ordinal else b.coord
       let taking := { x with used := true, isOpen := true, afterG := false }
       Stands s e 6 → Roomy c e [0] → Head c e 0 t → t.kind ≠ 0#4 → t.kind ≠ 3#4 →
        (t.kind = 4#4 → MayTake c e b (fun u => u.kind = 4#4) → Goes (.fred i) s e (0 :: hasB) [(0, t)] [] { ElemSt.zero with afterG := true } cq)
        ∧ (t.kind = 15#4 → x.isOpen = false → MayTake c e b (fun u => u.kind = 15#4) → Goes (.fred i) s e (0 :: hasB) [(0, t)] [] ElemSt.zero cq)
        ∧ ((t.kind = 15#4 ∧ x.isOpen = true) ∨ (t.isStop = true ∧ l ≤ t.level ∧ (x.isOpen = true ∨ x.afterG = true)) → MayTake c e b isElem →
            Goes (.fred i) s e hasB [(0, tokF key (BitVec.ofNat 32 (x.acc.toNat % 2 ^ w)))] [] (closedGroup x) cq)
        ∧ (t.isStop = true → x.isOpen = false → x.afterG = false →
            (t.level ≤ l → Goes (.fred i) s e [0] [] [] x cq)
            ∧ (l < t.level → MayTake c e b (fun u => u = tokStop (t.level - l)) →
                Goes (.fred i) s e (0 :: hasB) [(0, tokStop (t.level - l))] [] { x with ordinal := 0 } cq))
        ∧ (t.isStop = true → t.level < l → Goes (.fred i) s e [0] [] [] x cq)
        ∧ (t.isNull = true → Goes (.fred i) s e [0] [] [] { x with isOpen := true, afterG := false } cq)
        ∧ (t.kind = 1#4 → t.isNull = false → x.used = false →
            Goes (.fred i) s e [0] [] [] { taking with acc := BitVec.ofNat 64 (t.value.toNat % 2 ^ w) } cq)
        ∧ (t.kind = 1#4 → t.isNull = false → x.used = true → isInt c e = true → ∃ y, Goes (.fred i) s e [0] [] [] { taking with acc := y } cq
            ∧ let za := laneInt c e (x.acc.toNat % 2 ^ w)
              let zb := laneInt c e (t.value.toNat % 2 ^ w)
              (what = 0 → Brought c e (za + zb) y.toNat)
              ∧ (what = 1 → y.toNat = if zb < za then t.value.toNat % 2 ^ w else x.acc.toNat % 2 ^ w)
              ∧ (what = 2 → y.toNat = if za < zb then t.value.toNat % 2 ^ w else x.acc.toNat % 2 ^ w))
        ∧ (t.kind = 1#4 → t.isNull = false → x.used = true → isInt c e = false → what ≤ 2 →
            let f := fmtOf (fmtCode c e)
            let p := x.acc.toNat % 2 ^ w
            let v := t.value.toNat % 2 ^ w
            let r := if what = 0 then fAdd f (roundMode c e) (faultMode c e = 1#16) (flOf f p) (flOf f v) else fMinMax f (what = 2) p v
            (faultMode c e ≠ 0#16 ∨ r.flags &&& 7#5 = 0#5 → ∃ u, exec (.fred i) s = .next u
              ∧ Fired s e [0] [] [] { taking with acc := BitVec.ofNat 64 r.bits } cq u
              ∧ u.me.sys.kfpc = s.me.sys.kfpc ||| (r.flags.setWidth 64 <<< 8))
            ∧ (faultMode c e = 0#16 → r.flags &&& 7#5 ≠ 0#5 → HaltsGraph (.fred i) s e 0x0D (r.flags.setWidth 64))))
    ∧ (let segs := segRegion c e
       let crd := crdRegion c e
       let off := ((param c e).extractLsb' 0 32).toNat
       let level := (cfgField c e 10).toNat
       let put := fun (m : List Host.Cell) (q : Nat) (v : Nat) => memPut m (winKey s.me.id.core q) 4 v
       let writes := fun (win : List Host.Cell) (k : Nat) (y : ElemSt) => ∃ u, exec (.fwrite i) s = .next u ∧ QueuesMove s e [0] [] u
         ∧ u.win = win ∧ unackOf u.me (e * 4) = unackOf c (e * 4) + k ∧ elemOf u.me e = y ∧ u.mem = s.mem ∧ u.me.regs = s.me.regs
       Stands s e 7 → Head c e 0 t → t.kind ≠ 0#4 → t.kind ≠ 3#4 → unackOf c (e * 4) < 0xFFF0 →
        (t.kind = 4#4 → arrayAt c segs 0 4 [3] = .ok a → writes (put s.win a 0) 1 ElemSt.zero)
        ∧ (t.isStop = true → x.last ≠ 2 → level ≤ t.level → arrayAt c segs (4 * (x.fibres.toNat + 1)) 4 [3] = .ok a →
            writes (put s.win a x.elems.toNat) 1 { x with fibres := x.fibres + 1, last := 2 })
        ∧ (t.isStop = true → x.last = 2 ∨ t.level < level → writes s.win 0 x)
        ∧ (t.isNull = true → writes s.win 0 { x with last := 1 })
        ∧ (t.kind = 1#4 → t.isNull = false → arrayAt c crd (4 * x.elems.toNat) 4 [3] = .ok a →
            arrayAt c crd (off + 4 * x.elems.toNat) 4 [3] = .ok a2 →
            writes (put (put s.win a t.coord.toNat) a2 t.value.toNat) 2 { x with elems := x.elems + 1, last := 1 })
        ∧ (t.kind = 15#4 → x.last ≠ 1 ∨ arrayAt c segs (4 * (x.fibres.toNat + 1)) 4 [3] = .ok a → ∃ u, exec (.fwrite i) s = .next u
            ∧ QueuesMove s e [0] [] u ∧ elemOf u.me e = ElemSt.zero ∧ tabGet false u.me.fab.sinksDone (e * 4) = true
            ∧ u.win = (if x.last = 1 then put s.win a x.elems.toNat else s.win) ∧ u.mem = s.mem ∧ u.me.regs = s.me.regs))

namespace Sys2Proof.Claims

/-- A token stands at the end of a port's queue, and the queues of the other ports stand as before. -/
def PortTakes (s u : State) (port : Nat) (t : Token) : Prop :=
  ∀ k, tabGet [] u.me.fab.portq k = if k = port then tabGet [] s.me.fab.portq port ++ [t] else tabGet [] s.me.fab.portq k

/-- The fault queue of the context in focus gains one item of a unit: error 1, the cause, and KEVAL's value (15 R343). -/
def Queued (s u : State) (cause : BitVec 8) (v : Word) : Prop :=
  u.me.faults.map (fun a => (a.kcause, a.value)) = s.me.faults.map (fun a => (a.kcause, a.value)) ++ [(1#1 ++ cause, v)]

/-- Two words of a log record: the payload, and the kind with the port (11 R262). -/
def RecordAt (m m' : List Host.Cell) (a port : Nat) (t : Token) : Prop :=
  memNat m' a 8 = t.val.toNat ∧ memNat m' (a + 8) 8 = t.kind.toNat + port * 256 ∧ ∀ b, ¬ (a ≤ b ∧ b < a + 16) → memByte m' b = memByte m b

end Sys2Proof.Claims

/-- 11 R261: each reader of a router's control network takes its next token where its buffer has a free slot; a packet crosses its next link direction
in a slot of its owner over a virtual channel of its owner with a credit, in that channel's turn (11 R266), and not past an earlier packet of its
flow; a launch for another module leaves; a freed slot returns its credit.
04 R90, 11 R260 to R264, 13 R311, 18 R398: an element that feeds a send port puts its token on the network beside its links, or its value on a
channel, when the port is free, unmetered or within its meter (17 R393), and the receiver is Active or placed on a calendar, with room in its reception log
while it is not Active (11 R265); one that is neither holds the token; at a port to a channel tokens without data are done once checked; no such
receiver, or a closed one, halts the graph; a firing without room in a queue waits and takes nothing. The model's choices and readings among these: KEVAL of a closed
port is the number of the sending port (DEDUCED, log 35), a launch for another module is gone at the port (log 58), the order of a flow over its links
(log 61), one channel for each flow (DESIGN CHOICE, log 85), and a crossing as a step of its own (DESIGN CHOICE, log 1). -/
def Obligations.TokensLeaveAndCross : Prop :=
  (∀ (s : State) (i : BitVec 6) (k l vc : Nat) (rest : List Nat) (p : Packet), vc < 16 →
      (isActive s s.me.id = true → ∃ u, exec (.controlTokenForward i) s = .next u ∧ { u with me.fab.ctlq := s.me.fab.ctlq } = s
          ∧ ∀ e < 1024, (∀ b bs, e ∈ ctlReaders s.me i.toNat → ctlOf s.me (ctlSource e) = b :: bs → (ctlOf s.me (ctlBuffer e)).length < 2 →
                ctlOf u.me (ctlSource e) = bs ∧ ctlOf u.me (ctlBuffer e) = ctlOf s.me (ctlBuffer e) ++ [b])
              ∧ (e ∉ ctlReaders s.me i.toNat ∨ ctlOf s.me (ctlSource e) = [] ∨ 2 ≤ (ctlOf s.me (ctlBuffer e)).length →
                ctlOf u.me (ctlSource e) = ctlOf s.me (ctlSource e) ∧ ctlOf u.me (ctlBuffer e) = ctlOf s.me (ctlBuffer e)))
      ∧ (s.net[k]? = some p → p.route = l :: rest → chanOf s p l = none → exec (.meshTokenForward k) s = .next s)
      ∧ (∀ ch, s.net[k]? = some p → p.route = l :: rest → chanOf s p l = some ch →
          let key := l * 16 + ch
          let mine := tabGet 0x40#7 s.links (l * 64 + s.ktime.toNat % 64) = p.part
          let behind := ∃ q ∈ s.net.take k, sameFlow p q = true ∧ p.route.length ≤ q.route.length
          (mine → tabGet 0 s.used key < 16 → ¬ behind → chanTurn s p.part l ch = true → ∃ u, exec (.meshTokenForward k) s = .next u
              ∧ u.net = s.net.set k { p with route := rest, link := some l, chan := ch }
              ∧ (∀ x, tabGet 0 u.used x = if x = key then tabGet 0 s.used key + 1 else tabGet 0 s.used x)
              ∧ tabGet 15 u.vcTurn (l * 128 + p.part.toNat) = ch
              ∧ { u with net := s.net, used := s.used, vcTurn := s.vcTurn } = s)
          ∧ (¬ mine ∨ 16 ≤ tabGet 0 s.used key ∨ behind ∨ chanTurn s p.part l ch = false → exec (.meshTokenForward k) s = .next s)
          ∧ ((∀ q ∈ s.net, q.part = p.part → q.route.head? = some l → chanOf s q l = some ch) → chanTurn s p.part l ch = true))
      ∧ (∀ m q d y, s.net[k]? = some p → p.load = .umavas m q d y → p.route = [] →
          exec (.meshTokenForward k) s = .next { s with net := s.net.eraseIdx k })
      ∧ (let key := l * 16 + vc
         let n := tabGet 0 s.used key
         (standing s l vc < n → ∃ u, exec (.creditReturn key) s = .next u ∧ { u with used := s.used } = s
            ∧ ∀ x, tabGet 0 u.used x = if x = key then n - 1 else tabGet 0 s.used x)
         ∧ (n ≤ standing s l vc → exec (.creditReturn key) s = .next s)))
  ∧ (∀ (s : State) (i : BitVec 6) (t : Token) (n : Nat) (id : CtxId) (dst : Ctx) (chk : Check),
      ∀ j ∈ [(Instr.route i, 0x80 + i.toNat), (.cellPass i, i.toNat)],
      let e := j.2
      let c := pulled s e
      let p := acting s e
      let part := s.me.id.part
      let path := corePath s.me.id.core id.core
      let remote : BitVec 6 := BitVec.ofNat 6 (portField c n 3)
      let taken := fun (u : State) => { u with me.fab := s.me.fab, me.perf := s.me.perf, me.work := s.me.work, net := s.net, parts := s.parts } = s
        ∧ Forwarded c e (fun k => (queueOf c k).drop (if k = inKey e 0 then 1 else 0)
            ++ List.replicate ((outDests c e 0).countP (fun d => d.1 = k)) t) u
      let held := { p with me := forwardBuf c e }
      Stands s e 1 → headsOf c e [0] = .ok [(0, some t)] → sourceOf c e 0 / 4096 ≠ 7 →
      ((∃ d ∈ outDests c e 0, d.1 ≠ inKey e 0 ∧ d.2 ≤ (queueOf c d.1).length) → exec j.1 s = .next held)
      ∧ ((∀ d ∈ outDests c e 0, (queueOf c d.1).length < d.2) → turnHere (takeAll c e [0]) e 0 = true → outSends c e 0 = true → sendPort c e = some n →
          checkTok (checkOf c (inKey e 64)) t = .ok chk → let channel := portField c n 3 / 256 % 2 = 1
          (channel → t.isData = false → ∃ u, exec j.1 s = .next u ∧ taken u ∧ u.net = s.net)
          ∧ ((¬ channel ∨ t.isData = true) → (meterOpen p e (16 + n) = false → exec j.1 s = .next held)
            ∧ (meterOpen p e (16 + n) = true →
              (namedCtx s part (portField c n 1) (BitVec.ofNat 16 (portField c n 2)) = none → HaltsGraph j.1 s e 0x10 (BitVec.ofNat 64 n))
              ∧ (namedCtx s part (portField c n 1) (BitVec.ofNat 16 (portField c n 2)) = some id → findCtx s id = some dst →
                let there := isPlaced s id = true ∨ isActive s id = true
                (¬ there → exec j.1 s = .next held)
                ∧ (there → ¬ channel → (isActive s id = true → portField dst remote.toNat 3 / 64 % 4 = 2) → portBusy s e = false →
                    (isActive s id = false → logFull s dst = false) → pathOwned s part path = true → ∃ u, exec j.1 s = .next u ∧ taken u
                      ∧ u.net = s.net ++ [Packet.mk s.me.id part (.token s.me.id (BitVec.ofNat 10 e) id remote t) path none 0])
                ∧ (¬ channel → isActive s id = true → portField dst remote.toNat 3 / 64 % 4 ≠ 2 → HaltsGraph j.1 s e 0x10 (BitVec.ofNat 64 n))
                ∧ (there → channel → wordAtSource s s.me.id = false → pathOwned s part path = true → ∃ u, exec j.1 s = .next u ∧ taken u
                    ∧ u.net = s.net ++ [Packet.mk s.me.id part (.word id remote t.val) path none 0])
                ∧ (there → channel → wordAtSource s s.me.id = true → exec j.1 s = .next held))))))

/-- 11 R262 to R265, 16 R366: a token that arrives at a receive port of an Active context enters the port's queue of 8; when that is full, or
the port has tokens in the spill log, it is logged at the tail, or it stays where no log is set; for a context that is placed but not
Active it enters the reception log of its save area, 4,096 records deep, which an area that no set holds counts in its second opaque word (DESIGN
CHOICE, log 15); the refill brings the oldest logged token back, and the replay the due records as the area holds them, in order; the head
passes records that an abort has emptied (11 R266); a closed port is reported once; an uncorrectable record is a containment event (15 R361;
DEDUCED, log 55). -/
def Obligations.TokensReachPorts : Prop :=
  ∀ (s w1 w2 : State) (k : Nat) (src : CtxId) (part : BitVec 7) (route : List Nat) (l : Option Nat) (x : CtxId) (el : BitVec 10) (id : CtxId)
    (vc : Nat) (port : BitVec 6) (t : Token) (dst : Ctx) (pa pb v w i q m : Nat) (rest : List (Nat × Token)),
    let n := port.toNat
    let f := s.me.fab
    let s0 := { s with net := s.net.eraseIdx k }
    let go := exec (.tokenArrivalAtPort k) s
    let head := (portQueue s.me n).length
    let qs := s.me.sys
    (arrived s k = some ⟨src, part, .token x el id port t, route, l, vc⟩ →
      (id = s.me.id → isActive s id = true → receives s.me n = true → (∀ r ∈ f.recLog, r.1 ≠ n) →
        (n ∉ f.spillPorts → head < 8 → (∀ r ∈ f.spillLog, r.1 ≠ n) → ∃ u, go = .next u ∧ PortTakes s u n t
            ∧ { u with net := s.net, me.fab.portq := f.portq, me.fab.portCount := f.portCount } = s ∧ u.net = s.net.eraseIdx k)
        ∧ ((8 ≤ head ∨ ∃ r ∈ f.spillLog, r.1 = n) → qs.spill = 0 → go = .next s)
        ∧ ((8 ≤ head ∨ ∃ r ∈ f.spillLog, r.1 = n) → qs.spill ≠ 0 → f.spillPorts = [] → f.spillTail.toNat + 16 ≤ qs.spillEnd.toNat →
            engWrite s0 1 f.spillTail 8 t.val.toNat = .ok w1 → engWrite w1 1 (f.spillTail + 8) 8 (t.kind.toNat + n * 256) = .ok w2 →
            ∃ u, go = .next u ∧ u.mem = w2.mem ∧ u.me.fab.spillLog = w2.me.fab.spillLog ++ [(n, t)] ∧ u.me.fab.spillTail = f.spillTail + 16
              ∧ u.me.fab.portq = w2.me.fab.portq ∧ u.win = w2.win ∧ u.me.regs = w2.me.regs ∧ u.net = w2.net)
        ∧ ((8 ≤ head ∨ ∃ r ∈ f.spillLog, r.1 = n) → qs.spill ≠ 0 → f.spillPorts = [] → qs.spillEnd.toNat < f.spillTail.toNat + 16 →
            ∃ u, go = .next u ∧ u.net = s.net ∧ u.me.fab.spillPorts = [n] ∧ u.mem = s.mem
              ∧ Queued s u 0x12 f.spillTail))
      ∧ (id = s.me.id → isActive s id = true → (receives s.me n = false ∨ ∃ r ∈ f.recLog, r.1 = n) → go = .next s)
      ∧ (id ≠ s.me.id → isActive s id = false → isPlaced s id = true → rawCtx s id = some dst →
          let held := logCount s dst
          let area := areaOf dst
          let a := area + 16 * held
          let counts := inArea s id = true ∧ countsInArea s.mem area = true
          let fits := writable (focus s id) a 16 (memPut s.mem a 16 (t.val.toNat + 2 ^ 64 * (t.kind.toNat + n * 256)))
          (held < 4096 → fits = true → ∃ u c', go = .next u ∧ u.net = s.net.eraseIdx k ∧ u.me = s.me ∧ u.win = s.win ∧ rawCtx u id = some c'
            ∧ memNat u.mem a 8 = t.val.toNat ∧ memNat u.mem (a + 8) 8 = t.kind.toNat + n * 256
            ∧ (counts → memNat u.mem (area + 0x012008) 8 = held + 1)
            ∧ (∀ b, ¬ (a ≤ b ∧ b < a + 16) → ¬ (counts ∧ area + 0x012008 ≤ b ∧ b < area + 0x012010) → memByte u.mem b = memByte s.mem b)
            ∧ c'.fab.recLog = dst.fab.recLog ++ [(n, held)] ∧ c'.fab.recCount = held + 1 ∧ c'.fab.portq = dst.fab.portq)
          ∧ (4096 ≤ held ∨ fits = false → ∃ u, go = .next u ∧ u.net = s.net ∧ u.me = s.me ∧ u.mem = s.mem ∧ rawCtx u id = some dst)))
    ∧ (f.spillLog = (q, t) :: rest → isActive s s.me.id = true → f.spillPorts = [] → (portQueue s.me q).length < 8 →
        engRead s 1 f.spillHead 8 = .ok (w1, pa, v) → engRead w1 1 (f.spillHead + 8) 8 = .ok (w2, pb, w) →
        let kept := rest.dropWhile (fun r => r.1 = 64)
        ∃ u, exec .spillRefill s = .next u ∧ PortTakes w2 u q ⟨BitVec.ofNat 4 w, BitVec.ofNat 64 v⟩ ∧ u.me.fab.spillLog = kept
          ∧ u.mem = w2.mem ∧ u.win = w2.win ∧ u.me.regs = w2.me.regs
          ∧ (kept ≠ [] → u.me.fab.spillHead = f.spillHead + BitVec.ofNat 64 (16 + 16 * (rest.length - kept.length))
              ∧ u.me.fab.spillTail = w2.me.fab.spillTail ∧ u.me.sys = w2.me.sys)
          ∧ (kept = [] → let base := w2.me.sys.spillHeld.getD w2.me.sys.spill
              u.me.fab.spillHead = base ∧ u.me.fab.spillTail = base ∧ u.me.sys.spill = base ∧ u.me.sys.spillHeld = none))
    ∧ (isActive s s.me.id = true → f.recLog[i]? = some (q, m) → recordDue s.me i = true → (∀ j < i, recordDue s.me j = false) →
        let left := f.recLog.eraseIdx i
        let a := areaOf s.me + 16 * m
        (receives s.me q = true → badLine s a = false → readState s s.me.id.part (a / 128) = .go → q ∉ f.spillPorts → (portQueue s.me q).length < 8 →
          (∀ r ∈ f.spillLog, r.1 ≠ q) → ∃ u, exec .receptionLogReplay s = .next u
            ∧ PortTakes s u q ⟨(memByte s.mem (a + 8)).extractLsb' 0 4, BitVec.ofNat 64 (memNat s.mem a 8)⟩ ∧ u.me.fab.recLog = left
            ∧ u.me.fab.recCount = (if left = [] then 0 else f.recCount) ∧ u.mem = s.mem ∧ u.win = s.win ∧ u.me.regs = s.me.regs)
        ∧ (receives s.me q = true → badLine s a = true → exec .receptionLogReplay s = .next (contain s (myPart s)))
        ∧ (receives s.me q = false → ∃ u, exec .receptionLogReplay s = .next u ∧ u.me.fab.recLog = f.recLog ∧ u.me.fab.recStuck = q :: f.recStuck
            ∧ u.me.fab.portq = f.portq ∧ u.mem = s.mem
            ∧ Queued s u 0x10 (BitVec.ofNat 64 q)))

namespace Sys2Proof.Claims

/-- A stream in its mode, with its port pulled; its graph runs or drains. -/
def strmActing (s : State) (e n : Nat) : State := { s with me := pullPorts s.me [(streamField s.me e n 1).toNat] }
def StrmStands (s : State) (e n : BitVec 2) (mode : Nat) : Prop :=
  streamMode s.me e.toNat n.toNat = mode ∧ moves s (engineElem e.toNat) = true

/-- The graph of an engine halts. -/
def HaltsEngine (i : Instr) (s : State) (e : Nat) (cause : BitVec 8) (value : Word) : Prop :=
  ∃ u ref g, exec i s = .next u ∧ graphAt u (engineElem e) = some (ref, g) ∧ g.state = 2#2 ∧ g.cause = cause ∧ g.value = value

/-- A stream took `took` tokens off its queue, put `own` behind the rest (a read) and `toReaders` behind the queues of its readers, and stands at
y; window and memory are as given. -/
def StrmGoes (i : Instr) (s : State) (e n : Nat) (took : Nat) (own toReaders : List Token) (y : Strm) (win mem : List Host.Cell) : Prop :=
  let c := (strmActing s e n).me
  ∃ u, exec i s = .next u ∧ (∀ k, strmOf u.me (k / 4) (k % 4) = if k = e * 4 + n then y else strmOf c (k / 4) (k % 4))
    ∧ (∀ k, queueOf u.me k = (if k = strmQueue e n then (queueOf c k).drop took ++ own else queueOf c k)
        ++ toReaders.flatMap (fun t => List.replicate ((readers c (0x3000 + 4 * n + e)).countP (fun r => r.1 = k)) t))
    ∧ u.win = win ∧ u.mem = mem ∧ u.me.regs = s.me.regs ∧ u.net = s.net ∧ u.others = s.others
    ∧ u.parts = (sinkProgress s (engineElem e) (accepted c u.me (engineElem e))).parts

/-- The head of a stream's input passes its grammar check. -/
def StrmHead (c : Ctx) (e n : Nat) (t : Token) : Prop :=
  ∃ ts, queueOf c (strmQueue e n) = t :: ts ∧ ∃ k, checkAt c (streamField c e n 1).toNat (strmQueue e n) t = .ok k

end Sys2Proof.Claims

/-- 09 R201 to R203, R208, 18 R397: the streams of an edge engine: a read sends G, its elements eight bytes or one F element to a token, the
stop of each completed run, S_L and Z, and commits what it delivers; a write stores its tokens' lanes in its runs, ends runs by stops and is done
by Z; a gather replaces each position by the element there. The readings of extents and incomplete groups are the model's (DEDUCED, log 35). -/
def Obligations.StreamResults : Prop :=
  ∀ (s s1 : State) (e n : BitVec 2) (t : Token) (ts : List Token) (vs : List Nat) (v : Nat) (far : Bool) (tr : Trap),
    let a := e.toNat
    let b := n.toNat
    let p := strmActing s a b
    let c := p.me
    let x := strmOf c a b
    let rs := readers c (0x3000 + 4 * b + a)
    let roomy := ∀ r ∈ rs, (queueOf c r.1).length < r.2
    let total := runLength c a b * runCount c a b
    let q := queueOf c (strmQueue a b)
    let drains := draining p (engineElem a) = true
    let goes := fun (i : Instr) (own : List Token) (y : Strm) => StrmGoes i s a b 0 own [] y s.win s.mem
    let pr := graphPriv p (engineElem a)
    let size := strmSize c a b
    (StrmStands s e n 1 →
      (q = t :: ts → roomy → meterOpen p (engineElem a) (4 * a + b) = true →
        StrmGoes (.streamRead e n) s a b 1 [] [t]
          { x with commit := x.commit + BitVec.ofNat 48 (if t.isData then tokenElems c a b x.commit.toNat else 0) } s.win s.mem)
      ∧ ((q = [] ∨ (q.length < 8 ∧ ¬ roomy)) → x.live = true →
        (x.sentG = false → goes (.streamRead e n) [tokG] { x with sentG := true })
        ∧ (x.sentG = true → x.finished = true → goes (.streamRead e n) [tokZ] { x with live := false })
        ∧ (x.sentG = true → x.finished = false → x.atStop = true → x.next < total → ¬ drains →
            goes (.streamRead e n) [tokStop (stopLevel ((extents c a b).drop 1) (x.next / runLength c a b))] { x with atStop := false })
        ∧ (x.sentG = true → x.finished = false → total ≤ x.next ∨ drains →
            goes (.streamRead e n) [tokStop (extents c a b).length] { x with finished := true })
        ∧ (x.sentG = true → x.finished = false → x.atStop = false → x.next < total → ¬ drains →
            let k := tokenElems c a b x.next
            let y := { x with next := x.next + k, atStop := decide ((x.next + k) % runLength c a b = 0) }
            (streamLanes p a b x.next k = .ok (s1, far, vs) → far = false ∨ s.me.sys.inj.getLsbD 0 = false →
              s1 = { p with me.perf := s1.me.perf, me.tlb := s1.me.tlb, me.fab.badpack := s1.me.fab.badpack, l2 := s1.l2 } →
              StrmGoes (.streamRead e n) s a b 0 [⟨if strmPack c a b = 3 then 1 else 0, BitVec.ofNat 64 (joinLanes (8 * size) vs)⟩] [] y s.win s.mem)
            ∧ (streamLanes p a b x.next k = .error (.fault tr) → retireOverflow s tr.line = false → HaltsEngine (.streamRead e n) s a tr.cause tr.value))))
    ∧ (StrmStands s e n 2 → StrmHead c a b t →
        (t.kind = 4#4 → StrmGoes (.streamWrite e n) s a b 1 [] [] x s.win s.mem)
        ∧ (t.kind = 15#4 → StrmGoes (.streamWrite e n) s a b 1 [] [] { x with live := false } s.win s.mem)
        ∧ (t.isStop = true → t.level ≤ (extents c a b).length → x.run < runCount c a b ∨ x.atStop = true →
            StrmGoes (.streamWrite e n) s a b 1 [] []
              { x with run := nextRun ((extents c a b).drop 1) t.level (if x.atStop then x.run - 1 else x.run), next := 0, atStop := true, trits := [] }
              s.win s.mem)
        ∧ (t.isStop = true → (extents c a b).length < t.level → HaltsEngine (.streamWrite e n) s a 0x0B t.val)
        ∧ (t.kind = (if strmPack c a b = 3 then 1#4 else 0#4) → strmPack c a b = 0 ∨ strmPack c a b = 3 →
            x.run < runCount c a b → x.run + 1 < runCount c a b ∨ x.next < runLength c a b → unackOf c (strmKey a b) < 0xFFF0 →
            let lanes := ((List.range (8 / size)).map (fun j => t.val.toNat / 2 ^ (8 * size * j) % 2 ^ (8 * size))).take (runLength c a b - x.next)
            writeElems p a b (x.run * runLength c a b + x.next) lanes = .ok s1 →
            s1 = { p with me.perf := s1.me.perf, me.tlb := s1.me.tlb, l2 := s1.l2, win := s1.win, winBad := s1.winBad, mem := s1.mem } → lanes ≠ [] →
            StrmGoes (.streamWrite e n) s a b 1 [] []
              { x with next := x.next + lanes.length, trits := [], atStop := false, unacked := x.unacked ++ [lanes.length] } s1.win s1.mem))
    ∧ (StrmStands s e n 3 → StrmHead c a b t → roomy →
        (t.kind ≠ 0#4 → t.kind ≠ 3#4 → t.kind ≠ 1#4 ∨ t.value = 0xFFFFFFFF#32 →
          StrmGoes (.streamGather e n) s a b 1 [] [t] (if t.kind = 15#4 then { x with live := false } else x) s.win s.mem)
        ∧ (t.kind = 1#4 → t.value ≠ 0xFFFFFFFF#32 →
            spaceRead p pr (strmWindow c a b) (strmTags c a b) (strmBase c a b + BitVec.ofNat 64 (size * t.value.toNat)) size = .ok (s1, far, v) →
            s1 = { p with me.perf := s1.me.perf, me.tlb := s1.me.tlb, l2 := s1.l2 } →
            StrmGoes (.streamGather e n) s a b 1 [] [tokF t.coord (BitVec.ofNat 32 v)] { x with commit := x.commit + 1 } s.win s.mem)
        ∧ (t.kind = 0#4 → HaltsEngine (.streamGather e n) s a 0x0B t.val))

/-! ## Copies, transforms, graphs and the matrix array (09 R204 to R227, 12 R295 to R301, 07 R141 to R160) -/

namespace Sys2Proof.Claims

/-- The other channels of the context stand as before. -/
def KeepsOtherChans (s u : State) (e : BitVec 2) : Prop := ∀ k, k ≠ e → getChan u.me k = getChan s.me k

/-- A decrement of a channel's or the queue's signal is on its way (14 R327). -/
def Signalling (s : State) (chan : BitVec 3) : Prop := ∃ d ∈ s.decrs, d.ctx = s.me.id ∧ d.chan = some chan

end Sys2Proof.Claims

/-- 09 R215 to R219, R224: XCOPY, XCHN and XFORM check their record address, start on an idle channel or queue with the privilege of
the issuer and advance, hold issue while the channel runs, the queue is full or 63 copies are outstanding, and XCHN resumes a halted
channel at its own record, with the age it had (DESIGN CHOICE, log 95); XSTAT reads state and address; XCANCEL ends the work, with sum and progress in
the record, and answers 0, or 1 where there is none; it waits for the decrements of earlier records (14 R327). The model's readings and choices: the
record's line leaves the issuer's L1 first, a record not yet read gives its own progress, and one that is not owned ends the chain, with the
answer 1 (DEDUCED, log 31); a write of the record that faults halts the channel or the queue, is delivered once, and holds the instruction until
the record can be written (09 R213; DEDUCED, log 31), and the record keeps what it held (DEDUCED, log 49). A record that cannot be read or written is
settled by the model (DESIGN CHOICE, log 68). -/
def Obligations.CopyAndTransformCommands : Prop :=
  ∀ (s w1 w2 : State) (d a b c : Reg) (f : BitVec 1) (e : BitVec 2) (t src : BitVec 1) (y : Xreq) (tr : Trap),
    let v := readG s a
    let h := getChan s.me e
    let xcopy := Instr.xcopy a b c f e t src
    let xchn := Instr.xchn a f e
    let xform := Instr.xform a f
    let good := v.toNat % 64 = 0 ∧ v.toNat < 2 ^ 48
    let started := fun (i : Instr) (single : Bool) (sa da : Option Word) => ∃ u, exec i s = .next u ∧ Advances s u
      ∧ getChan u.me e = { Chan.zero with st := if f = 1#1 then .waiting else .running, addr := v, priv := priv s, single := single,
                                          src := sa, dst := da, age := s.me.engAge }
      ∧ KeepsOtherChans s u e ∧ u.me.engAge = s.me.engAge + 1
      ∧ { u with me.chans := s.me.chans, me.engAge := s.me.engAge, me.regs.pc := s.me.regs.pc } = s
    (v.toNat % 64 ≠ 0 → Traps xcopy s 0x03 v ∧ Traps xchn s 0x03 v ∧ Traps xform s 0x03 v)
    ∧ (v.toNat % 64 = 0 → 2 ^ 48 ≤ v.toNat → Traps xcopy s 0x04 v ∧ Traps xchn s 0x04 v ∧ Traps xform s 0x04 v)
    ∧ (good → h.st = .idle → copiesOut s.me < 63 →
        started xcopy true (if src = 1#1 then some (readG s b) else none) (if t = 1#1 then some (readG s c) else none)
        ∧ started xchn false none none)
    ∧ (good → h.st = .idle → 63 ≤ copiesOut s.me → exec xcopy s = .next (holdFor s 0x0F) ∧ exec xchn s = .next (holdFor s 0x0F))
    ∧ (good → h.st = .running ∨ h.st = .waiting → exec xcopy s = .next (hold s) ∧ exec xchn s = .next (hold s))
    ∧ (good → h.st = .halted → Traps xcopy s 0x0F v
        ∧ (h.addr ≠ v → Traps xchn s 0x0F v)
        ∧ (h.addr = v → ∃ u, exec xchn s = .next u ∧ Advances s u ∧ KeepsOtherChans s u e
            ∧ getChan u.me e = { h with st := .running, priv := priv s, words := none, first := true, lost := false }
            ∧ { u with me.chans := s.me.chans, me.regs.pc := s.me.regs.pc } = s))
    ∧ (good → s.me.xq.length < 16 → ∃ u, exec xform s = .next u ∧ Advances s u
        ∧ u.me.xq = s.me.xq ++ [{ addr := v, after := f = 1#1, priv := priv s, age := s.me.engAge, st := .waiting, words := none, done := 0,
                                  ended := 0, bytes := 0, failed := none, limit := 0 }]
        ∧ { u with me.xq := s.me.xq, me.engAge := s.me.engAge, me.regs.pc := s.me.regs.pc } = s)
    ∧ (good → 16 ≤ s.me.xq.length → exec xform s = .next (hold s))
    ∧ (8 ≤ v.toNat → Traps (.xstat d a) s 0x0F v ∧ Traps (.xcancel d a) s 0x0F v)
    ∧ (v = e.setWidth 64 →
        WritesG (.xstat d a) s d (fun r => r = h.addr + BitVec.ofNat 64 (chanCode h.st))
        ∧ (h.st = .idle ∨ h.addr = 0 → WritesG (.xcancel d a) s d (fun r => r = 1))
        ∧ (h.st ≠ .idle → h.addr ≠ 0 → decrOut s (e.setWidth 3) = true → exec (.xcancel d a) s = .next (hold s))
        ∧ (h.st ≠ .idle → h.addr ≠ 0 → decrOut s (e.setWidth 3) = false → ∀ p own, withProgress s h = .ok (p, own) →
            let out := ownLine s h.priv h.addr
            let s1 := out.foldl (fun u l => dropLine u l.num) s
            let done := fun (m : List Host.Cell) => ∃ u, exec (.xcancel d a) s = .next u ∧ Advances s u ∧ readG u d = 0
              ∧ (∀ r, r ≠ d → readG u r = readG s r) ∧ getChan u.me e = Chan.zero ∧ KeepsOtherChans s u e ∧ u.win = s.win ∧ u.mem = m
            ((h.words.isSome = true ∨ h.st = .halted) → p = h ∧ own = true)
            ∧ (h.words = none → h.st ≠ .halted → ∀ x pa v, engRead s h.priv h.addr 64 = .ok (x, pa, v) →
                p = { h with sum := BitVec.ofNat 32 (v / 2 ^ 384), n := v / 2 ^ 448 % 2 ^ 48 } ∧ own = v.testBit 63)
            ∧ (own = false → ∃ u, exec (.xcancel d a) s = .next u ∧ Advances s u ∧ readG u d = (if d = 0#6 then 0#64 else 1)
              ∧ (∀ r, r ≠ d → readG u r = readG s r) ∧ getChan u.me e = Chan.zero ∧ KeepsOtherChans s u e ∧ u.win = s.win ∧ u.mem = s.mem)
            ∧ (own = true → Takes s out →
              (recordWrite s1 p.priv p.addr p.sum p.n 7 = .ok w2 → done w2.mem)
              ∧ (recordWrite s1 p.priv p.addr p.sum p.n 7 = .error (.fault tr) →
                (p.lost = true → exec (.xcancel d a) s = .next (hold s1))
                ∧ (p.lost = false → retireOverflow s tr.line = false → ∃ u, exec (.xcancel d a) s = .next u ∧ u.me.stalled = true
                  ∧ u.me.regs = s.me.regs ∧ getChan u.me e = { p with st := .halted, words := none, lost := true } ∧ KeepsOtherChans s u e
                  ∧ Queued s u tr.cause tr.value ∧ u.win = s.win ∧ u.mem = s1.mem))
              ∧ (engWrite s1 p.priv (p.addr + 48) 4 p.sum.toNat = .ok w1 → engWrite w1 p.priv (p.addr + 56) 8 (p.n % 2 ^ 48 + 7 * 2 ^ 48) = .ok w2 →
                recordWrite s1 p.priv p.addr p.sum p.n 7 = .ok w2))))
    ∧ (4 ≤ v.toNat → v.toNat < 8 →
        WritesG (.xstat d a) s d (fun r => r = match s.me.xq with
          | [] => 0
          | x :: _ => x.addr + BitVec.ofNat 64 (chanCode x.st + s.me.xq.length * 2 ^ 48))
        ∧ ((∀ x ∈ s.me.xq, x.st = .idle) → WritesG (.xcancel d a) s d (fun r => r = 1))
        ∧ (s.me.xq.find? (fun x => x.st ≠ .idle) = some y → ∀ y1, (y.words.isSome = true ∧ y1 = y)
              ∨ (y.words = none ∧ ∃ x, engRead s y.priv y.addr 64 = .ok x ∧ y1 = { y with words := some (recWords x.2.2) }) →
            (xformRecord s y1 7 = .ok w1 → ∃ u, exec (.xcancel d a) s = .next u ∧ Advances s u ∧ readG u d = 0
              ∧ (∀ r, r ≠ d → readG u r = readG s r) ∧ u.me.xq = s.me.xq.erase y ∧ u.me.chans = s.me.chans ∧ u.win = s.win ∧ u.mem = w1.mem)
            ∧ (xformRecord s y1 7 = .error (.fault tr) →
              (y1.lost = true → exec (.xcancel d a) s = .next (hold s))
              ∧ (y1.lost = false → retireOverflow s tr.line = false → ∃ u, exec (.xcancel d a) s = .next u ∧ u.me.stalled = true ∧ u.me.regs = s.me.regs
                ∧ (∀ done xs, s.me.xq = done ++ y :: xs → (∀ x ∈ done, x.st = .idle) → u.me.xq = done ++ { y1 with st := .halted, lost := true } :: xs)
                ∧ u.me.chans = s.me.chans ∧ Queued s u tr.cause tr.value ∧ u.win = s.win ∧ u.mem = s.mem))))

/-- 09 R206 to R213, R217, R218, 14 R327: a chain under `after` starts once the earlier work is done; a record that the engine reads and owns
becomes current, one with own 0 ends the chain, an invalid one halts it with 0x0F; each element commits from its source to its
destination in order and enters the checksum; the last one writes sum, count and ownership (bit 63 of +0 alone, 09 R186) and moves to the next
record or ends the chain; an uncorrectable line that the committed elements cover wholly is good again (08 R183); a fault halts the channel once its
record holds sum, count and status, and reaches the context. The reserved parts of records follow the model's readings (DEDUCED, log 31, log 35), a
record that cannot be written its choice (DESIGN CHOICE, log 68). -/
def Obligations.CopyChannelsRun : Prop :=
  ∀ (s t w w1 w2 w3 w4 : State) (e : BitVec 2) (pa v : Nat) (ws : List Word) (a : Word) (far : Bool) (tr : Trap),
    let h := getChan s.me e
    let keeps := fun (x u : State) => KeepsOtherChans x u e ∧ u.me.regs = s.me.regs ∧ u.win = x.win
    isActive s s.me.id = true →
    (h.st = .waiting → earlierDone s.me h.age = true → ∃ u, exec (.copyChainStart e) s = .next u
        ∧ getChan u.me e = { h with st := .running } ∧ KeepsOtherChans s u e ∧ { u with me.chans := s.me.chans } = s)
    ∧ (h.st = .running → h.words = none → h.addr ≠ 0 → engRead s h.priv h.addr 64 = .ok (t, pa, v) →
        let r := recOf (recWords v) h.src h.dst
        let n0 := r.prog.toNat % 2 ^ 48
        let sum := if r.summed ∧ r.carries ∧ ¬ h.first ∧ ¬ h.single then h.carry else r.sums.extractLsb' 0 32
        (r.own = true → r.invalid s.me h.single = false → n0 < r.count → ∃ u, exec (.copyRecordRead e) s = .next u ∧ keeps s u ∧ u.mem = s.mem
            ∧ getChan u.me e = { h with words := some (recWords v), n := n0, sum := sum })
        ∧ (r.own = false → ¬ Signalling s (e.setWidth 3) → ∃ u, exec (.copyRecordRead e) s = .next u ∧ keeps s u ∧ u.mem = s.mem
            ∧ getChan u.me e = Chan.zero)
        ∧ (r.own = true → r.invalid s.me h.single = true →
            recordWrite { t with me := setChan t.me e { h with words := some (recWords v), n := n0, sum := sum } } h.priv h.addr sum n0 5 = .ok w →
            ∃ u, exec (.copyRecordRead e) s = .next u ∧ KeepsOtherChans s u e ∧ (getChan u.me e).st = .halted ∧ Queued s u 0x0F h.addr
              ∧ u.win = s.win ∧ u.mem = w.mem))
    ∧ (h.st = .running → h.words = none → h.addr = 0 → ¬ Signalling s (e.setWidth 3) → ∃ u, exec (.copyRecordRead e) s = .next u
        ∧ keeps s u ∧ u.mem = s.mem ∧ getChan u.me e = Chan.zero)
    ∧ (let r := recOf ws h.src h.dst
       h.st = .running → h.words = some ws → r.packing = 0 → (r.place h.n).1 = some a → r.summed = false ∨ r.size = 4 →
       s.me.sys.inj.getLsbD 0 = false → h.n < r.count →
        (spaceRead s h.priv r.srcWin [0, 5] a r.size = .error (.fault tr) → retireOverflow s tr.line = false →
            recordWrite (retire (counted s tr) tr.line) h.priv h.addr h.sum h.n (haltStatus tr.cause) = .ok w → ∃ u, exec (.copyElementCommit e) s = .next u
            ∧ (getChan u.me e).st = .halted ∧ KeepsOtherChans s u e ∧ Queued s u tr.cause tr.value ∧ u.win = s.win ∧ u.mem = w.mem)
        ∧ (spaceRead s h.priv r.srcWin [0, 5] a r.size = .ok (t, far, v) → t = { s with me.perf := t.me.perf, me.tlb := t.me.tlb, l2 := t.l2 } →
            spaceWrite t h.priv r.dstWin [0, 5] (r.place h.n).2 r.size v = .ok w →
            let sum := if r.summed then BitVec.ofNat 32 ((rot5 h.sum.toNat + v) % 2 ^ 32) else h.sum
            let good := copyRepair w h.priv r (h.n + 1) [⟨(r.place h.n).2, far, v⟩]
            let moved := countEvent { good with me := setChan good.me e { h with n := h.n + 1, sum := sum } } 0x0A r.size
            (h.n + 1 < r.count → ∃ u, exec (.copyElementCommit e) s = .next u ∧ u.mem = w.mem ∧ u.win = w.win ∧ KeepsOtherChans w u e
                ∧ getChan u.me e = { h with n := h.n + 1, sum := sum } ∧ u.me.regs = w.me.regs
                ∧ (r.dstWin = false → ∀ w5, engXlat w h.priv (r.place h.n).2 r.size needWrite = .ok (w5, pa) → badLine w pa = true →
                    (coversLine (pa / 128) (dstBytes w h.priv r (h.n + 1)) = true → badLine u pa = false)
                    ∧ (coversLine (pa / 128) (dstBytes w h.priv r (h.n + 1)) = false → badLine u pa = true)))
            ∧ (h.n + 1 = r.count → r.compare = false ∨ sum = r.sums.extractLsb' 32 32 → r.kind = 0 →
                w = { s with me.perf := w.me.perf, me.tlb := w.me.tlb, l2 := w.l2, mem := w.mem, win := w.win, winBad := w.winBad } →
                engWrite moved h.priv (h.addr + 48) 4 sum.toNat = .ok w1 →
                engWrite w1 h.priv (h.addr + 56) 8 (r.count % 2 ^ 48 + 2 ^ 48) = .ok w2 →
                engXlat w2 h.priv (h.addr + 7) 1 needWrite = .ok (w3, pa) →
                engWrite w3 h.priv (h.addr + 7) 1 ((memByte w3.mem pa).toNat % 128) = .ok w4 → ¬ Signalling s (e.setWidth 3) →
                ∃ u, exec (.copyElementCommit e) s = .next u ∧ u.mem = w4.mem ∧ u.win = w.win ∧ u.me.regs = s.me.regs
                  ∧ getChan u.me e = (if h.single = true ∨ r.next = 0 then Chan.zero
                      else { h with addr := r.next, words := none, first := false, src := none, dst := none, n := 0, sum := sum, carry := sum }))
            ∧ (h.n + 1 = r.count → r.compare = true → sum ≠ r.sums.extractLsb' 32 32 →
                recordWrite moved h.priv h.addr sum r.count 4 = .ok w1 → ∃ u, exec (.copyElementCommit e) s = .next u
                ∧ (getChan u.me e).st = .halted ∧ u.win = w.win
                ∧ Queued w u 0x13 (r.sums.extractLsb' 32 32 ++ sum))))

/-- 09 R224 to R227, 03 R56: the head request of the transform queue starts in order, under `after` once the earlier work is done, and an invalid
one halts the queue with 0x0F; chunks start in ascending order, at most 80 in flight, and complete in any order, each leaving its output, and the
last one completes the request; unpacking the T5 bytes of packed trits gives the trits. Which chunks have started is the model's choice (a chunk starts
when fewer than 80 below it are unfinished: DESIGN CHOICE, log 69), and so is the reading that an invalid request's completion record holds its
halt status (DEDUCED, log 48). -/
def Obligations.TransformsRun : Prop :=
  (∀ (s t t2 : State) (n : BitVec 8) (x : Xreq) (xs : List Xreq) (pa v : Nat),
    let k := n.toNat
    s.me.xq = x :: xs →
    (x.st = .waiting → (x.after = true → earlierDone s.me x.age = true) → engRead s x.priv x.addr 64 = .ok (t, pa, v) →
        let x1 := { x with st := .running, words := some (recWords v) }
        (x1.invalid s.me = false → 0 < x1.chunks → x.failed = none → x.ended = 0 → ∃ u, exec .transformRequestStart s = .next u ∧ u.me.xq = x1 :: xs
            ∧ u.mem = s.mem ∧ u.win = s.win ∧ u.me.regs = s.me.regs ∧ u.me.chans = s.me.chans)
        ∧ (x1.invalid s.me = true → x.failed = none → xformRecord t { x1 with failed := some (0xFFFF, 0x0F, x.addr) } 2 = .ok t2 →
            ∃ u, exec .transformRequestStart s = .next u ∧ Queued s u 0x0F x.addr ∧ u.win = s.win ∧ u.mem = t2.mem
            ∧ u.me.xq = { x1 with st := .halted, failed := some (0xFFFF, 0x0F, x.addr) } :: xs))
    ∧ (x.st = .running → x.failed = none → k < x.chunks → x.ended.getLsbD k = false →
        ((List.range k).filter (fun j => !x.ended.getLsbD j)).length < 80 → runChunk s x k = .ok t →
        let x1 := { x with done := x.done ||| (1#256 <<< k), ended := x.ended ||| (1#256 <<< k), bytes := x.bytes + x.output k }
        ((∃ j < x.chunks, x1.ended.getLsbD j = false) → ∃ u, exec (.transformChunkComplete n) s = .next u ∧ u.me.xq = x1 :: t.me.xq.drop 1
            ∧ u.mem = t.mem ∧ u.win = t.win ∧ u.me.regs = t.me.regs)
        ∧ ((∀ j < x.chunks, x1.ended.getLsbD j = true) → x.kind = 0 → ¬ Signalling t 4 → t.me.xq = s.me.xq → x.words.isSome = true →
            let bits := fun (i : Nat) => x1.done.extractLsb' (64 * i) 64
            writeWords t x.priv (x.word 6) [BitVec.ofNat 64 (1 + 0xFFFF * 2 ^ 16 + x.chunks % 2 ^ 16 * 2 ^ 32), 0, bits 0, bits 1, bits 2, bits 3,
              BitVec.ofNat 64 x1.bytes, 0] = .ok t2 →
            ∃ u, exec (.transformChunkComplete n) s = .next u ∧ u.me.xq = xs ∧ u.mem = t2.mem ∧ u.win = t.win)))
  ∧ ∀ (a b : Word) (ps : List (List Byte)) (bs : List Byte), (∀ p ∈ ps, p.length = 5) → packAll a ps = .ok bs → unpackAll b bs = .ok ps.flatten

namespace Sys2Proof.Claims

/-- A status answered in g[d]; every other register reads as before and the PC advances. -/
def Status (s u : State) (d : Reg) (v : Word) : Prop :=
  readG u d = (if d = 0#6 then 0#64 else v) ∧ (∀ r, r ≠ d → readG u r = readG s r) ∧ KeepsC s u ∧ Advances s u

/-- The graph of the context in focus by its id. -/
def graphIs (s : State) (g : BitVec 4) : Option Graph := tabFind s.me.fab.graphs g.toNat

/-- A graph as GO leaves it (12 R298). -/
def startedGraph (first count : Nat) (w : Word) (pr : BitVec 2) : Graph :=
  { first := first, count := count, completion := w, priv := pr, state := 1, cause := 0, elem := 0, value := 0, haltCore := 0, check := 0,
    kind := 0, completed := false, drained := false }

/-- No element of a context serves a graph any more. -/
def Freed (c : Ctx) (ref : GRef) : Prop := ∀ m ∈ c.fab.marks, m.2 ≠ ref

end Sys2Proof.Claims

/-- 04 R84 to R95, 12 R295 to R298: CFGW writes one legal field of an element of the context that no graph and no other set holds; an illegal
word, core or region is a configuration fault; a word that waits for the matrix queue holds issue; a word that puts an element to use is noted with its
step (01 R25) and may take a cell out of ballast (17 R394; which cells run it is free, DESIGN CHOICE, log 10); a changed swizzle leaves the
bytes of its region undefined, once it is present, and no others (19 R399; DESIGN CHOICE, log 9); CFG applies the words of its stream in order
with plain loads; GO checks the region, takes its elements, starts them afresh and answers the lowest free id. The relations of a configuration that
GO checks beyond those the rules word exactly are the model's readings (DEDUCED, log 36). -/
def Obligations.GraphsAreConfiguredAndStarted : Prop :=
  ∀ (s t u0 : State) (d a b : Reg) (cores : List CoreId) (w : BitVec 32),
    let op := readG s b
    let e := (w.extractLsb' 22 10).toNat
    let f := (w.extractLsb' 16 6).toNat
    let v : BitVec 16 := w.extractLsb' 0 16
    let mine := s.me.id.core
    isActive s s.me.id = true →
    (2 ^ 16 ≤ op.toNat ∨ ownerCore s s.me.id.part op.toNat = none → Traps (.cfgw a b) s 0x0F op)
    ∧ (op.toNat < 2 ^ 16 → ownerCore s s.me.id.part op.toNat = some mine → (readG s a).setWidth 32 = w →
        (fieldOk e f v = false ∨ graphHolds s s.me e f v = true → Traps (.cfgw a b) s 0x0F (w.setWidth 64))
        ∧ (applyWord s s.me.id w = .wait → exec (.cfgw a b) s = .next (hold s))
        ∧ (fieldOk e f v = true → graphHolds s s.me e f v = false → otherSet s s.me.id = none →
            (e < 0xC8 → ∃ u, exec (.cfgw a b) s = .next u ∧ Advances s u
                ∧ { u with me.fab.cfg := s.me.fab.cfg, me.fab.cfgAt := s.me.fab.cfgAt, gov.ballast := s.gov.ballast, me.regs.pc := s.me.regs.pc } = s
                ∧ (∀ e' f', f' < 64 → cfgField u.me e' f' = if e' = e ∧ f' = f then v else cfgField s.me e' f')
                ∧ (let taken := inUse s.me e = false ∧ inUse u.me e = true
                   (∀ k, tabGet 0 u.me.fab.cfgAt k = if k = e ∧ taken then s.tick else tabGet 0 s.me.fab.cfgAt k)
                   ∧ (¬ (taken ∧ isCell e = true) → u.gov.ballast = s.gov.ballast)
                   ∧ ∀ k, tabGet 0 u.gov.ballast k = tabGet 0 s.gov.ballast k
                      ∨ (k = (dieOf mine).toNat ∧ tabGet 0 u.gov.ballast k + 1 = tabGet 0 s.gov.ballast k)))
            ∧ (e = 0xE0 → f = 0 → ∃ u, exec (.cfgw a b) s = .next u ∧ Advances s u ∧ u.me.fab.portSel = v.setWidth 6
                ∧ { u with me.fab.portSel := s.me.fab.portSel, me.regs.pc := s.me.regs.pc } = s)
            ∧ (e = 0xE0 → f ≠ 0 → ∃ u, exec (.cfgw a b) s = .next u ∧ Advances s u ∧ portField u.me s.me.fab.portSel.toNat f = v.toNat
                ∧ { u with me.fab.ports := s.me.fab.ports, me.regs.pc := s.me.regs.pc } = s)
            ∧ (0xD0 ≤ e → e < 0xE0 → f % 8 ≤ 1 → regionOk (putField s.me e f v) (2 * (e - 0xD0) + f / 8) = false →
                Traps (.cfgw a b) s 0x0F (w.setWidth 64))
            ∧ (0xD0 ≤ e → e < 0xE0 → (2 ≤ f % 8 ∨ regionOk (putField s.me e f v) (2 * (e - 0xD0) + f / 8) = true) →
                ∃ u, exec (.cfgw a b) s = .next u ∧ Advances s u ∧ cfgField u.me e f = v ∧ u.mem = s.mem ∧ KeepsG s u
                  ∧ (let n := 2 * (e - 0xD0) + f / 8
                     let r := region u.me n
                     (r.size = 0 ∨ (n ∉ s.me.fab.swizzled ∧ r.swz = (region s.me n).swz) → u.win = s.win)
                     ∧ ∀ k, ¬ (winKey mine r.base ≤ k ∧ k < winKey mine (r.base + r.size)) → memByte u.win k = memByte s.win k))))
    ∧ (regionCores s op = none → Traps (.cfg a b) s 0x0F op)
    ∧ (regionCores s op = some cores → (op.extractLsb' 32 32).toNat = 0 → ∃ u, exec (.cfg a b) s = .next u ∧ Advances s u
        ∧ { u with me.regs.pc := s.me.regs.pc } = s)
    ∧ (regionCores s op = some cores → (op.extractLsb' 32 32).toNat = 1 → streamWord s (readG s a) = .word t w →
        (w.extractLsb' 16 16 ≠ 0xFFFF#16 → applyWord t (cfgCtx t (cores.headD 0)) w = .ok u0 →
            ∃ u, exec (.cfg a b) s = .next u ∧ { u with me.regs.pc := u0.me.regs.pc } = u0 ∧ Advances u0 u)
        ∧ (w.extractLsb' 16 16 = 0xFFFF#16 → (w.extractLsb' 0 16).toNat < cores.length → ∃ u, exec (.cfg a b) s = .next u
            ∧ { u with me.regs.pc := t.me.regs.pc } = t ∧ Advances t u)
        ∧ ((w.extractLsb' 16 16 ≠ 0xFFFF#16 ∧ applyWord t (cfgCtx t (cores.headD 0)) w = .bad)
            ∨ (w.extractLsb' 16 16 = 0xFFFF#16 ∧ cores.length ≤ (w.extractLsb' 0 16).toNat) →
            ∃ u, exec (.cfg a b) s = .next u ∧ TrapTaken t u 0x0F (BitVec.ofNat 64 w.toNat))
        ∧ (w.extractLsb' 16 16 ≠ 0xFFFF#16 → applyWord t (cfgCtx t (cores.headD 0)) w = .wait → exec (.cfg a b) s = .next (hold t)))
    ∧ (let op := readG s a
       let c := readG s b
       (2 ^ 32 ≤ op.toNat ∨ regionCores s op = none → Traps (.go d a b) s 0x0F op)
       ∧ (op.toNat < 2 ^ 32 → regionCores s op = some cores →
        (∀ x, regionFailure s cores = some x → Traps (.go d a b) s 0x0F x)
        ∧ (regionFailure s cores = none →
            (16 ≤ s.me.fab.graphs.length → Traps (.go d a b) s 0x0F 16)
            ∧ (s.me.fab.graphs.length < 16 → completionOk c = false → Traps (.go d a b) s 0x0F c)
            ∧ (s.me.fab.graphs.length < 16 → completionOk c = true → ∃ (u : State) (gid : BitVec 4), exec (.go d a b) s = .next u
                ∧ Status s u d (gid.setWidth 64) ∧ KeepsMemory s u
                ∧ graphIs s gid = none ∧ (∀ j : BitVec 4, j.toNat < gid.toNat → graphIs s j ≠ none)
                ∧ graphIs u gid = some (startedGraph (op.toNat % 2 ^ 16) cores.length c (priv s))
                ∧ (∀ j : BitVec 4, j ≠ gid → graphIs u j = graphIs s j)
                ∧ (mine ∈ cores → ∀ x ∈ usedElems s.me, tabFind u.me.fab.marks x = some ⟨mine, gid⟩)
                ∧ (mine ∈ cores → ∀ x n, strmOf u.me x n = (if x < 4 ∧ n < 4 ∧ streamMode s.me x n ≠ 0 then { Strm.zero with live := true } else strmOf u.me x n))))))

/-- 12 R299 to R301, R304, 01 R16 to R19, 14 R327: DRAIN tells a running graph's sources to end; ABORT discards a graph or the matrix queue; REPLAY lets a
halted one go on; GSTAT reads state and cause; each answers 1 where there is none and 2 where it cannot act; a graph whose sinks hold Z with
every store acknowledged completes, and marks its entry with cause kind 3 or decrements its counter; its id and elements are free then, once the
decrement has been acknowledged. The model's choices: a graph without sinks ends at its send ports (DESIGN CHOICE, log 100), and ABORT drops the flags of
the rows that a discarded command has committed (DESIGN CHOICE, log 91). That an empty matrix queue counts as no such graph is the model's reading
(DEDUCED, log 37). -/
def Obligations.GraphsEndAndReport : Prop :=
  ∀ (s : State) (d a : Reg) (g : BitVec 4) (r : Graph),
    let x := readG s a
    let ref : GRef := ⟨s.me.id.core, g⟩
    let q := s.me.mx.queue
    let running := graphIs s g = some r ∧ r.completed = false ∧ (r.state = 2#2 ∨ graphEnded s ref = false)
    let w := r.completion
    let slot : BitVec 5 := w.extractLsb' 2 5
    isActive s s.me.id = true →
    (32 ≤ x.toNat → ∀ i ∈ [Instr.drain d a, .abort d a, .replay d a, .gstat d a], Traps i s 0x0F x)
    ∧ (x = g.setWidth 64 → graphIs s g = none →
        (∀ i ∈ [Instr.drain d a, .abort d a, .replay d a], WritesG i s d (fun v => v = 1)) ∧ WritesG (.gstat d a) s d (fun v => v = 0))
    ∧ (x = g.setWidth 64 → running →
        (r.state ≠ 2#2 → ∃ u, exec (.drain d a) s = .next u ∧ Status s u d 0 ∧ graphIs u g = some { r with state := 3, drained := true }
            ∧ (∀ j, j ≠ g → graphIs u j = graphIs s j) ∧ KeepsMemory s u)
        ∧ (r.state = 2#2 → WritesG (.drain d a) s d (fun v => v = 2))
        ∧ (∃ u, exec (.abort d a) s = .next u ∧ Status s u d 0 ∧ graphIs u g = none ∧ (∀ j, j ≠ g → graphIs u j = graphIs s j)
            ∧ Freed u.me ref ∧ KeepsMemory s u
            ∧ ((∃ m ∈ s.me.fab.marks, m.2 = ref) → u.me.fab.elems = [] ∧ u.me.fab.ctlq = [] ∧ ∀ k, queueOf u.me k = [])))
    ∧ (x = g.setWidth 64 → graphIs s g = some r →
        (r.state = 2#2 → ∃ u, exec (.replay d a) s = .next u ∧ Status s u d 0 ∧ KeepsMemory s u ∧ (∀ j, j ≠ g → graphIs u j = graphIs s j)
            ∧ graphIs u g = some { r with state := if r.drained then 3 else 1, cause := 0, elem := 0, value := 0, haltCore := 0, check := 0, kind := 0 })
        ∧ (r.state ≠ 2#2 → WritesG (.replay d a) s d (fun v => v = 2))
        ∧ WritesG (.gstat d a) s d (fun v => v.extractLsb' 0 2 = r.state ∧ v.getLsbD 2 = r.completed ∧ v.extractLsb' 32 8 = r.cause
            ∧ v.extractLsb' 16 16 = r.haltCore ∧ (r.cause ≠ 0x0B#8 → v.extractLsb' 4 12 = 0#12)
            ∧ (r.cause = 0x0B#8 → v.extractLsb' 4 4 = r.kind ∧ v.extractLsb' 8 4 = r.check)))
    ∧ (16 ≤ x.toNat → x.toNat < 32 → WritesG (.drain d a) s d (fun v => v = 2)
        ∧ (q = [] → WritesG (.abort d a) s d (fun v => v = 1) ∧ WritesG (.replay d a) s d (fun v => v = 1) ∧ WritesG (.gstat d a) s d (fun v => v = 0))
        ∧ (q ≠ [] → (∃ u, exec (.abort d a) s = .next u ∧ Status s u d 0 ∧ u.me.mx.queue = [] ∧ u.me.mx.halted = false ∧ u.me.mx.bank = s.me.mx.bank
              ∧ u.me.mx.active = s.me.mx.active ∧ KeepsMemory s u)
            ∧ (s.me.mx.halted = true → (∃ u, exec (.replay d a) s = .next u ∧ Status s u d 0 ∧ u.me.mx.queue = q ∧ u.me.mx.halted = false
                  ∧ KeepsMemory s u)
                ∧ WritesG (.gstat d a) s d (fun v => v.extractLsb' 0 2 = 2#2 ∧ v.extractLsb' 32 8 = s.me.mx.cause))
            ∧ (s.me.mx.halted = false → WritesG (.replay d a) s d (fun v => v = 2) ∧ WritesG (.gstat d a) s d (fun v => v = 1))))
    ∧ (graphIs s g = some r →
        (r.completed = false → r.state ≠ 2#2 → graphEnded s ref = true → ∃ u, exec (.graphCompletion g) s = .next u
            ∧ graphIs u g = some { r with completed := true, state := 1 } ∧ { u with me.fab.graphs := s.me.fab.graphs } = s)
        ∧ (r.completed = false → r.state = 2#2 ∨ graphEnded s ref = false → exec (.graphCompletion g) s = .next s)
        ∧ (r.completed = true → w.extractLsb' 0 2 ≠ 0#2 → r.reported = false → ∃ u, exec (.graphCompletion g) s = .next u
            ∧ graphIs u g = some { r with reported := true, state := 1 } ∧ u.decrs = s.decrs ++ [⟨s.me.id.part, w.extractLsb' 2 12, s.me.id, none, some g⟩]
            ∧ { u with me.fab.graphs := s.me.fab.graphs, decrs := s.decrs } = s)
        ∧ (r.completed = true → w.extractLsb' 0 2 ≠ 0#2 → r.reported = true → (∃ x ∈ s.decrs, x.ctx = s.me.id ∧ x.graph = some g) →
            exec (.graphCompletion g) s = .next s)
        ∧ (r.completed = true → w.extractLsb' 0 2 = 0#2 ∨ (r.reported = true ∧ ∀ x ∈ s.decrs, x.ctx = s.me.id → x.graph ≠ some g) →
            ∃ u, exec (.graphCompletion g) s = .next u ∧ graphIs u g = none ∧ (∀ j, j ≠ g → graphIs u j = graphIs s j)
              ∧ Freed u.me ref ∧ u.mem = s.mem ∧ u.win = s.win ∧ u.me.regs = s.me.regs ∧ u.decrs = s.decrs
              ∧ u.me.htab = (if w.extractLsb' 0 2 = 0#2 then (markSlot slot ⟨3, g.setWidth 12, w >>> 32⟩ s.me).htab else s.me.htab)))

namespace Sys2Proof.Claims

/-- A command waits behind the others, and nothing else of the module changes. -/
def Enqueues (i : Instr) (s : State) (op : MxOp) (a b c : Word) : Prop :=
  (s.me.mx.queue.length < 16 → ∃ u, exec i s = .next u ∧ Advances s u
    ∧ u.me.mx.queue = s.me.mx.queue ++ [⟨op, a, b, c, 0, 0, 0, 0, false, [], s.tick⟩]
    ∧ { u with me.mx.queue := s.me.mx.queue, me.regs.pc := s.me.regs.pc } = s)
  ∧ (16 ≤ s.me.mx.queue.length → exec i s = .next (hold s))

/-- n bytes from an aligned address stand in one region of tag plain or FP8-block (07 R145). -/
def Fits (c : Ctx) (va : Word) (n align : Nat) : Prop := extentCheck c va n align = none

/-- A range word: base in [8:0], count in [25:16], zero elsewhere, inside the accumulator bank (07 R147). -/
def RangeOk (g : Geo) (w : Word) : Prop :=
  w.toNat = w.toNat % 2 ^ 9 + w.toNat / 2 ^ 16 * 2 ^ 16 ∧ w.toNat / 2 ^ 16 ≤ 512 ∧ w.toNat % 2 ^ 9 + w.toNat / 2 ^ 16 ≤ g.limit

/-- The 32-bit word of a value in [0, 2^32) read as a signed integer. -/
def s32 (n : Nat) : Int := if n < 2 ^ 31 then n else (n : Int) - 2 ^ 32

end Sys2Proof.Claims

/-- 07 R142, R143, R147 to R155: the MX instructions: without a claim each is a configuration fault; MXCFG writes claim, format and fault
mode while the queue is empty, and resets the array; the others check their operands and enter the queue of 16 in order, or hold
issue while it is full. The model's readings: KEVAL of a refused binary64 MXSORT is its word of counts (DEDUCED, log 37), and a half claim beside the
whole claim of an Active context faults as a whole one does (DEDUCED, log 36). That MXRUN with no rows checks no address is the model's choice (DESIGN
CHOICE, log 80). -/
def Obligations.MatrixCommandsEnterTheQueue : Prop :=
  ∀ (s : State) (a b c : Reg) (p : BitVec 2) (i t k : BitVec 1) (w : BitVec 4),
    let g := geoOf s.me
    let m := s.me.mx
    let x := readG s a
    let y := readG s b
    let z := readG s c
    let claimed := cfgField s.me 0xC8 0 ≠ 0#16
    let count := y.toNat / 2 ^ 16
    let stride := if z = 0 then g.image else z.toNat
    let all := [Instr.mxlw a b 0, .mxswp, .mxrun a b c i, .mxrung a b c i, .mxacc a b t k, .mxsort a b c t, .mxzero b 1]
    let idle := m.halted = false ∧ busGraph s = none
    let okCfg := x.toNat < 2 ^ 22 ∧ x.extractLsb' 18 2 = 0#2 ∧ x.extractLsb' 20 2 ≠ 3#2 ∧ x.extractLsb' 16 2 ≠ 3#2 ∧ mxFormatOk (x.setWidth 16) = true
    (¬ claimed → ∀ j ∈ all, Traps j s 0x0F 0)
    ∧ (idle → m.queue = [] → okCfg → claimMeets s s.me.id ((x.extractLsb' 20 2).setWidth 16) = true → Traps (.mxcfg a 0) s 0x0F x)
    ∧ (idle → m.queue = [] → ¬ okCfg → Traps (.mxcfg a 0) s 0x0F x)
    ∧ (idle → m.queue ≠ [] → exec (.mxcfg a 0) s = .next (hold s))
    ∧ (¬ idle → Traps (.mxcfg a 0) s 0x0F x)
    ∧ (idle → m.queue = [] → okCfg → claimMeets s s.me.id ((x.extractLsb' 20 2).setWidth 16) = false → ∃ u, exec (.mxcfg a 0) s = .next u ∧ Advances s u
        ∧ cfgField u.me 0xC8 0 = (x.extractLsb' 20 2).setWidth 16 ∧ cfgField u.me 0xC8 1 = x.setWidth 16
        ∧ cfgField u.me 0xC8 15 = (x.extractLsb' 16 2).setWidth 16
        ∧ (cfgField u.me 0xC8 0 ≠ cfgField s.me 0xC8 0 → u.me.mx.active = [] ∧ u.me.mx.loading = [] ∧ u.me.mx.bank = [] ∧ u.me.mx.held = [])
        ∧ { u with me.fab.cfg := s.me.fab.cfg, me.mx := s.me.mx, me.regs.pc := s.me.regs.pc } = s)
    ∧ (busGraph s = none → m.queue ≠ [] → m.halted = false → exec (.mxcfg a 1) s = .next (hold s))
    ∧ (busGraph s = none → m.queue = [] ∨ m.halted = true → ¬ claimed ∨ x.extractLsb' 16 2 = 3#2 → Traps (.mxcfg a 1) s 0x0F x)
    ∧ (busGraph s = none → m.queue = [] ∨ m.halted = true → claimed → x.extractLsb' 16 2 ≠ 3#2 → ∃ u, exec (.mxcfg a 1) s = .next u ∧ Advances s u
        ∧ cfgField u.me 0xC8 15 = (x.extractLsb' 16 2).setWidth 16
        ∧ { u with me.fab.cfg := s.me.fab.cfg, me.regs.pc := s.me.regs.pc } = s)
    ∧ (claimed → Enqueues .mxswp s .swp 0 0 0)
    ∧ (claimed → p ≠ 3#2 → partOk g p = true → Fits s.me x g.tile 8 → Enqueues (.mxlw a b p) s (.lw p) x y 0)
    ∧ (claimed → p ≠ 3#2 → partOk g p = false → Traps (.mxlw a b p) s 0x0F (p.setWidth 64))
    ∧ (∀ j ∈ [Instr.mxrun a b c i, .mxrung a b c i, .mxacc a b t k, .mxzero b 1], claimed → ¬ RangeOk g y → Traps j s 0x0F y)
    ∧ (claimed → RangeOk g y →
        (z = 0 ∨ (z.toNat % 8 = 0 ∧ g.image ≤ z.toNat ∧ z.toNat ≤ 65536) → (∀ n < count, Fits s.me (x + BitVec.ofNat 64 (n * stride)) g.image 8) →
            Enqueues (.mxrun a b c i) s (.run (i == 1#1)) x y z)
        ∧ (z ≠ 0 → z.toNat % 8 ≠ 0 ∨ z.toNat < g.image ∨ 65536 < z.toNat → Traps (.mxrun a b c i) s 0x0F z)
        ∧ (Fits s.me z (2 * count) 2 → Enqueues (.mxrung a b c i) s (.rung (i == 1#1)) x y z)
        ∧ (t = 0#1 → Fits s.me x (count * g.drainRow) 8 → Enqueues (.mxacc a b t k) s (.acc false (k == 1#1)) x y 0)
        ∧ (t = 1#1 → (∀ j < 16, busReaders s.me j ≠ []) → Enqueues (.mxacc a b t k) s (.acc true (k == 1#1)) x y 0)
        ∧ (∀ v : BitVec 4, mxzeroOk v = true → Enqueues (.mxzero b v) s (.zero v) 0 y 0))
    ∧ (claimed → y.toNat < 2 ^ 21 → 1 ≤ count → count ≤ 16 → g.wide = false → Fits s.me x (y.toNat % 2 ^ 16 * g.size) g.size →
        (t = 0#1 → Fits s.me z (8 * min count (y.toNat % 2 ^ 16)) 8 → Enqueues (.mxsort a b c t) s (.sort false) x y z)
        ∧ (t = 1#1 → busReaders s.me 0 ≠ [] → Enqueues (.mxsort a b c t) s (.sort true) x y z))
    ∧ (claimed → 2 ^ 21 ≤ y.toNat ∨ count = 0 ∨ 16 < count ∨ g.wide = true → Traps (.mxsort a b c t) s 0x0F y)
    ∧ TrapsWithWord (.mxlw a b 3) s 0x01
    ∧ (mxzeroOk w = false → TrapsWithWord (.mxzero b w) s 0x01)

namespace Sys2Proof.Claims

/-- What the array's commands may change: the array, counters, float flags, open progress and, where they drain, window memory and queues. -/
def ArrayFrame (s u : State) : Prop :=
  u.me.regs = s.me.regs ∧ u.mem = s.mem ∧ u.others = s.others ∧ u.net = s.net ∧ u.me.fab.cfg = s.me.fab.cfg ∧ u.me.faults = s.me.faults

/-- The weight that column j of local row r holds for k = r·w + q of the active tile, w weights in an element (07 R145, R149). -/
def weightAt (g : Geo) (t : Tab Word) (k j : Nat) : Nat := lane (tabGet 0 t (mxKey (k / g.w) j)) (8 * g.size) (k % g.w)

/-- The operand a[k] of an A-row image (07 R145). -/
def operandAt (g : Geo) (image : List Byte) (k : Nat) : Nat := bytesAt image ((if g.kind = .fp8 then 8 else 0) + k * g.size) g.size

/-- What a block of FP8 pairs contributes with its scales, none for the default NaN: the cases of 03 R71 in their order, and else the exact sum of
the products times both scales (03 R70). -/
def Contributes (ps : List (Fl × Fl)) (sa sb : Fl) (t : Option Fl) : Prop :=
  let inf := fun (x : Fl) => x = .inf true ∨ x = .inf false
  let zero := fun (x : Fl) => isFin x = true ∧ flVal x = 0
  let infinite := fun (n : Bool) => ∃ p ∈ ps, (inf p.1 ∨ inf p.2) ∧ (flSign p.1 ^^ flSign p.2) = n
  let sum := (ps.map (fun p => flVal p.1 * flVal p.2)).sum
  let bad := (∃ p ∈ ps, isNan p.1 = true ∨ isNan p.2 = true ∨ (zero p.1 ∧ inf p.2) ∨ (inf p.1 ∧ zero p.2)) ∨ (infinite true ∧ infinite false)
    ∨ isNan sa = true ∨ isNan sb = true
  let scaled := fun (n : Bool) => if zero sa ∨ zero sb then t = none else t = some (.inf (n ^^ (flSign sa ^^ flSign sb)))
  let finite := ¬ bad ∧ (∀ n, ¬ infinite n)
  (bad → t = none) ∧ (¬ bad → ∀ n, infinite n → scaled n)
  ∧ (finite → sum = 0 → if inf sa ∨ inf sb then t = none else ∃ v, t = some v ∧ isFin v = true ∧ flVal v = 0)
  ∧ (finite → sum ≠ 0 → if inf sa ∨ inf sb then scaled (sum < 0) else ∃ v, t = some v ∧ isFin v = true ∧ flVal v = sum * flVal sa * flVal sb)

/-- An 8-bit integer of the class's formats: signed, or unsigned where the code is odd. -/
def int8 (f : BitVec 3) (n : Nat) : Int := if f.getLsbD 0 = false ∧ 128 ≤ n then (n : Int) - 256 else n

end Sys2Proof.Claims

/-- 07 R143 to R145, R149 to R157, 03 R69 to R73: the array at work: a command starts in order (MXLW fills the loading tile from its image, MXZERO
clears); rows and X tokens enter and pass row by row, an A row meeting the weights of the active tile and an X token swapping the tiles; a row
that leaves commits all 16 columns: integer rows the exact sum of products brought to S32, float rows their products in order with one rounding each,
FP8 rows the exact sum of the block with its scales, promoted with one rounding; the first pass of a split row only holds its sum, which the second
continues (03 R72); a drain writes rows; a finished command leaves. MXSORT reads its keys when it starts (DEDUCED, log 37). What ABORT leaves of rows
in the array is the model's reading (DEDUCED, log 29). -/
def Obligations.MatrixArrayRuns : Prop :=
  ∀ (s : State) (c : MxCmd) (x : MxItem) (q : List MxCmd) (rest : List MxItem) (a : Word) (part : BitVec 2) (j : Nat) (bus clr z : Bool),
    let g := geoOf s.me
    let m := s.me.mx
    let core := s.me.id.core
    isActive s s.me.id = true → m.halted = false → j < 16 →
    (m.queue = c :: q → c.started = false → m.items = [] → m.graphToks = [] → busGraph s = none → leaving s s.me.id = false → beginLost s c = none →
        (c.op = .lw part → ∃ u, exec .mxCommandStart s = .next u ∧ ArrayFrame s u ∧ u.win = s.win
            ∧ u.me.mx.queue = { c with started := true, done := 1 } :: q ∧ u.me.mx.active = m.active ∧ u.me.mx.bank = m.bank
            ∧ (∀ k < g.depth, weightAt g u.me.mx.loading k j = memNat s.win (winKey core (c.a.toNat + (16 * k + j) * g.size)) g.size)
            ∧ (∀ y < g.rows, tabGet Tag.zero u.me.mx.loadingTag y = ⟨part, c.b.setWidth 32⟩))
        ∧ (∀ v : BitVec 4, c.op = .zero v → ∃ u, exec .mxCommandStart s = .next u ∧ ArrayFrame s u ∧ u.win = s.win
            ∧ u.me.mx.queue = { c with started := true, done := 1 } :: q
            ∧ (v.getLsbD 0 = true → ∀ y, rangeBase c.b ≤ y → y < rangeBase c.b + rangeCount c.b → accOf u.me.mx g y j = 0)
            ∧ (v.getLsbD 0 = false → u.me.mx.bank = m.bank) ∧ (v.getLsbD 1 = true → u.me.mx.loading = []) ∧ (v.getLsbD 2 = true → u.me.mx.active = []))
        ∧ (c.op = .run z ∨ c.op = .rung z ∨ c.op = .acc bus clr ∨ c.op = .swp → ∃ u, exec .mxCommandStart s = .next u ∧ u.win = s.win ∧ ArrayFrame s u
            ∧ u.me.mx = { m with queue := { c with started := true } :: q })
        ∧ (c.op = .sort bus → g.wide = false → ∃ u ps, exec .mxCommandStart s = .next u ∧ ArrayFrame s u ∧ u.win = s.win
            ∧ u.me.mx = { m with queue := { c with started := true, pairs := ps } :: q } ∧ ps.length = min (sortPairs c.b) (sortKeys c.b)
            ∧ (∀ w ∈ ps, w.toNat % 2 ^ 32 < sortKeys c.b
                ∧ w.toNat / 2 ^ 32 = memNat s.win (winKey core ((c.a.toNat + w.toNat % 2 ^ 32 * g.size) % 2 ^ 20)) g.size)))
    ∧ (g.claim ≠ 0 → m.items = [x] → (x.fromGraph = true → x.isX = false → ∀ y, busGraph s = some y → y.state ≠ 2#2) →
        (x.isX = false → x.row + 1 < g.rows → ∃ u y, exec .arrayRowAdvance s = .next u ∧ ArrayFrame s u ∧ u.win = s.win ∧ u.me.mx = { m with items := [y] }
            ∧ { y with met := x.met, row := x.row } = x ∧ y.row = x.row + 1
            ∧ (∀ k, k / 16 = x.row + 1 → tabGet 0 y.met k = tabGet 0 m.active k) ∧ (∀ k, k / 16 ≠ x.row + 1 → tabGet 0 y.met k = tabGet 0 x.met k))
        ∧ (x.isX = true → x.row + 1 < g.rows → ∃ u, exec .arrayRowAdvance s = .next u ∧ ArrayFrame s u ∧ u.win = s.win
            ∧ u.me.mx.items = [{ x with row := x.row + 1 }] ∧ u.me.mx.bank = m.bank ∧ u.me.mx.queue = m.queue
            ∧ (∀ k, tabGet 0 u.me.mx.active k = if k / 16 = x.row + 1 then tabGet 0 m.loading k else tabGet 0 m.active k)
            ∧ (∀ k, tabGet 0 u.me.mx.loading k = if k / 16 = x.row + 1 then tabGet 0 m.active k else tabGet 0 m.loading k))
        ∧ (x.isX = true → x.row + 1 = g.rows → ∃ u, exec .arrayRowAdvance s = .next u ∧ ArrayFrame s u ∧ u.win = s.win ∧ u.me.mx.items = []
            ∧ u.me.mx.active = m.active ∧ u.me.mx.loading = m.loading ∧ u.me.mx.bank = m.bank
            ∧ (x.fromGraph = false → m.queue = c :: q → c.serial = x.owner → u.me.mx.queue = { c with done := c.done + 1 } :: q))
        ∧ (x.isX = false → x.row + 1 = g.rows → ∃ u, exec .arrayRowAdvance s = .next u ∧ ArrayFrame s u ∧ u.win = s.win
            ∧ u.me.mx = { m with items := [{ x with row := g.rows }] }))
    ∧ (g.claim ≠ 0 → m.items = [] → m.queue = c :: q → c.started = true → leaving s s.me.id = false →
        (c.op = .run z → c.entered < rangeCount c.b → Fits s.me (a + BitVec.ofNat 64 (c.entered * (if c.c = 0 then g.image else c.c.toNat))) g.image 8 →
          lostWord s (a + BitVec.ofNat 64 (c.entered * (if c.c = 0 then g.image else c.c.toNat))).toNat g.image = none →
          c.a = a → ∃ u y, exec .arrayRowAdvance s = .next u ∧ ArrayFrame s u ∧ u.win = s.win
            ∧ u.me.mx = { m with items := [y], queue := { c with entered := c.entered + 1 } :: q }
            ∧ y.isX = false ∧ y.row = 0 ∧ y.zero = z ∧ y.pos = rangeBase c.b + c.entered ∧ y.fromGraph = false ∧ y.owner = c.serial
            ∧ y.image = memBytes s.win (winKey core (a + BitVec.ofNat 64 (c.entered * (if c.c = 0 then g.image else c.c.toNat))).toNat) g.image
            ∧ y.tag = some (tabGet Tag.zero m.activeTag 0) ∧ (∀ k < 16, tabGet 0 y.met k = tabGet 0 m.active k))
        ∧ (c.op = .swp → c.entered = 0 → ∃ u y, exec .arrayRowAdvance s = .next u ∧ ArrayFrame s u ∧ u.win = s.win ∧ u.me.mx.items = [y] ∧ y.isX = true
            ∧ y.row = 0 ∧ y.owner = c.serial ∧ u.me.mx.queue = { c with entered := 1 } :: q
            ∧ (∀ k < 16, tabGet 0 u.me.mx.active k = tabGet 0 m.loading k ∧ tabGet 0 u.me.mx.loading k = tabGet 0 m.active k)))
    ∧ (m.items = x :: rest → g.rows ≤ x.row → x.isX = false → (m.items.any (fun y => y.fromGraph && !y.isX) = false) →
        let at_ := accOf m g x.pos
        let tag := x.tag.getD Tag.zero
        let products := ((List.range g.depth).map (fun k => int8 g.a (operandAt g x.image k) * int8 g.b (weightAt g x.met k j))).sum
        let pairs := (List.range g.depth).map (fun k => (flOf (fmtOf g.a) (operandAt g x.image k), flOf (fmtOf g.b) (weightAt g x.met k j)))
        let good := mxFormatOk (cfgField s.me 0xC8 1) = true
        let old := if x.zero then 0 else at_ j
        (g.kind = .int → good → tag.part ≠ 1#2 → ∃ u, exec .matrixRowCommit s = .next u ∧ ArrayFrame s u ∧ u.win = s.win ∧ u.me.mx.items = rest
            ∧ (let sum := s32 old + (if tag.part = 2#2 then ((tabFind m.held (mxKey x.pos j)).getD Held.zero).num else 0) + products
               s32 (accOf u.me.mx g x.pos j) = if g.mode = 1 then max (-(2 ^ 31)) (min (2 ^ 31 - 1) sum) else (sum + 2 ^ 31) % 2 ^ 32 - 2 ^ 31)
            ∧ (∀ y, y ≠ x.pos → accOf u.me.mx g y j = accOf m g y j))
        ∧ (g.kind ≠ .float → good → tag.part = 1#2 → ∃ u h, exec .matrixRowCommit s = .next u ∧ ArrayFrame s u ∧ u.win = s.win ∧ u.me.mx.items = rest
            ∧ u.me.mx.bank = m.bank ∧ tabFind u.me.mx.held (mxKey x.pos j) = some h ∧ (g.kind = .int → h.num = products)
            ∧ (g.kind = .fp8 → (∀ p ∈ pairs, isFin p.1 = true ∧ isFin p.2 = true) →
                (h.num : ℚ) = (pairs.map (fun p => flVal p.1 * flVal p.2)).sum * 2 ^ 32))
        ∧ (g.kind = .fp8 → good → tag.part = 0#2 → trapColumn g ((List.range 16).map (column m g x)) = none → ∃ u t, exec .matrixRowCommit s = .next u
            ∧ ArrayFrame s u ∧ u.win = s.win ∧ u.me.mx.items = rest ∧ (∀ y, y ≠ x.pos → accOf u.me.mx g y j = accOf m g y j)
            ∧ Contributes pairs (flOf (fmtOf 1) (bytesAt x.image 0 4)) (flOf (fmtOf 1) tag.sb.toNat) t
            ∧ accOf u.me.mx g x.pos j = (match t with
              | none => nanOf 1
              | some v =>
                let r := fAdd (fmtOf 1) g.rnd g.sat (flOf (fmtOf 1) old) v
                if r.bits % 2 ^ 31 = 0 then 0 else r.bits))
        ∧ (g.kind = .float → trapColumn g ((List.range 16).map (column m g x)) = none → ∃ u, exec .matrixRowCommit s = .next u ∧ ArrayFrame s u
            ∧ u.win = s.win ∧ u.me.mx.items = rest ∧ (∀ y, y ≠ x.pos → accOf u.me.mx g y j = accOf m g y j)
            ∧ accOf u.me.mx g x.pos j = (((List.range g.depth).foldl (fun v k =>
                let o := fFma g.acc g.rnd g.sat (flOf (fmtOf g.a) (operandAt g x.image k)) (flOf (fmtOf g.b) (weightAt g x.met k j)) (flOf g.acc v)
                if o.bits % g.acc.signBit = 0 then 0 else o.bits) (if x.zero then 0 else at_ j)))))
    ∧ (m.queue = c :: q → c.started = true →
        (cmdTotal c ≤ c.done + c.skipped → ∃ u, exec .mxCommandComplete s = .next u ∧ ArrayFrame s u ∧ u.win = s.win ∧ u.me.mx = { m with queue := q }
            ∧ u.me.sys.kfpc = s.me.sys.kfpc ||| (c.flags.setWidth 64 <<< 8))
        ∧ (c.op = .acc false clr → c.done + c.skipped < rangeCount c.b → (∀ x ∈ q, cmdDone x = false) → leaving s s.me.id = false →
            let row := rangeBase c.b + c.done
            let size := g.drainRow / 16
            let dst := winKey core ((c.a.toNat + c.done * g.drainRow) % 2 ^ 20)
            ∃ u, exec .mxCommandComplete s = .next u ∧ ArrayFrame s u ∧ u.me.mx.queue = { c with done := c.done + 1 } :: q
              ∧ memNat u.win (dst + j * size) size = accOf m g row j
              ∧ (∀ b, ¬ (dst ≤ b ∧ b < dst + g.drainRow) → memByte u.win b = memByte s.win b)
              ∧ accOf u.me.mx g row j = (if clr then 0 else accOf m g row j) ∧ (∀ y, y ≠ row → accOf u.me.mx g y j = accOf m g y j)))

/-! ## Calendars, the governor, the host and start-up (01 R24 to R31, 13 R316, 15 R349 to R358, 16 R374 to R382, 17 R384 to R390) -/

namespace Sys2Proof.Claims

/-- Memory as before but for the save areas that a containment event of a partition clears (15 R358). -/
def KeepsButAreas (s u : State) (p : BitVec 6) : Prop :=
  ∀ a, (∀ area ∈ resetAreas s p, ¬ (area + 0x10000 ≤ a ∧ a < area + 0x100000)) → memByte u.mem a = memByte s.mem a

/-- Only the record of one core changes. -/
def OnlyCore (s u : State) (c : CoreId) : Prop := { u with cores := s.cores } = s ∧ ∀ k, k ≠ c → coreRec u k = coreRec s k

/-- A swap may make this of a core's record: the lines that leave where its sets then have fewer ways can be written back (log 98). -/
def WaysDivide (s : State) (c : CoreId) (n : CoreRec) : Prop := trimsGo (setCore s c n) (setCtxs n) = true

/-- A swap at a core: its set b is Active; the other one, where it was, is Frozen, or Parking when its context is to go or the running calendar names it
no more (16 R372); registers, window memory and other cores stay. -/
def Swapped (s u : State) (c : CoreId) (b : Bool) : Prop :=
  let r := coreRec s c
  let y := getSet r (!b)
  let z := getSet (coreRec u c) (!b)
  getSet (coreRec u c) b = { getSet r b with st := .active } ∧ u.me.regs = s.me.regs ∧ u.win = s.win ∧ (∀ k, k ≠ c → coreRec u k = coreRec s k)
  ∧ (y.st = .active → (∀ o, y.ctx = some o → y.gone = false ∧ (r.running = true → isPlaced s o = true)) → z = { y with st := .frozen })
  ∧ (y.st = .active → ∀ o, y.ctx = some o → y.gone = true ∨ (r.running = true ∧ isPlaced s o = false) → z = { y with st := .parking })
  ∧ (y.st ≠ .active → y.st ≠ .frozen ∨ y.gone = false → z = y)

end Sys2Proof.Claims

/-- 01 R10, R26 to R30, 06 R137, 08 R183, 13 R316, 15 R349, R353, R361, 16 R367, R369, R370, R372: a calendar moves to its next present slot when the time
has come, or stops; the set that the slot needs is loaded or parked, and one whose window share is in its way parked first; the swap waits for the token
boundary, then makes it Active and the outgoing set Frozen, and a CTXSW swaps only while the calendar is stopped; a park stops the copy channels, writes
the context's open regions and empties the set; a load reads them back and makes the set Ready, with the uncorrectable words of the window share, or
finds one in another region, which is a containment event; the spine switches, and again where another value was written meanwhile; a containment
event ends. The model's choices (DESIGN CHOICE, log 98): a calendar without a present slot stands still until one is written, which begins
at once; a swap waits for the write-backs that fewer ways need; and a load waits for a context with an overlapping share that still runs. Which parts
of a save area hold opaque items, and the pairing of a swap, are the model's (DESIGN CHOICE, log 15; DEDUCED, log 32); that a started calendar and a
park drop a waiting CTXSW are its choices (DESIGN CHOICE, log 72, log 74). -/
def Obligations.CalendarSlotsTurn : Prop :=
  ∀ (s s1 : State) (c : CoreId) (b : Bool) (k : Nat) (id : CtxId) (x : Ctx) (p : BitVec 6) (sp : BitVec 3),
    let r := coreRec s c
    let due := r.running = true ∧ r.nextAt.toNat ≤ s.ktime.toNat
    let at_ := fun (m : Nat) => (r.cur.toNat + 1 + m) % 16
    let w := nextWord r (at_ k)
    let mine := getSet r b
    let other := getSet r (!b)
    let slotSwap := slotRecord s r (slotNeeds c r (curWord r))
    let atRest := mine.st = .ready ∨ mine.st = .frozen
    (due → r.stopReq = false → k < 16 → (∀ m < k, slotLen (nextWord r (at_ m)) = 0) → slotLen w ≠ 0 →
        ∃ u, exec (.calendarSlotBoundary c) s = .next u ∧ OnlyCore s u c ∧ (coreRec u c).cur.toNat = at_ k ∧ (coreRec u c).boundary = true
          ∧ tabGet 0 (coreRec u c).slots (at_ k) = w
          ∧ (coreRec u c).nextAt = (if slotLen (curWord r) = 0 then s.ktime else r.nextAt) + BitVec.ofNat 64 (slotLen w * 25000)
          ∧ (coreRec u c).setA = r.setA ∧ (coreRec u c).setB = r.setB)
    ∧ (due → r.stopReq = false → (∀ m < 16, slotLen (nextWord r (at_ m)) = 0) →
        (slotLen (curWord r) = 0 → exec (.calendarSlotBoundary c) s = .next s)
        ∧ (slotLen (curWord r) ≠ 0 → ∃ u, exec (.calendarSlotBoundary c) s = .next u ∧ OnlyCore s u c ∧ slotLen (curWord (coreRec u c)) = 0
            ∧ (coreRec u c).boundary = true ∧ (coreRec u c).nextAt = r.nextAt))
    ∧ (due → r.stopReq = true → ∃ u, exec (.calendarSlotBoundary c) s = .next u ∧ OnlyCore s u c
        ∧ coreRec u c = { r with running := false, stopReq := false })
    ∧ (¬ due → exec (.calendarSlotBoundary c) s = .next s)
    ∧ (r.boundary = true → slotKind (curWord r) = 1#2 → descValid (descOf r (slotA (curWord r))) = true →
        id = descCtx c (descOf r (slotA (curWord r))) → b = soloSet r id →
        (mine.st = .empty → mine.ctx ≠ some id → other.ctx ≠ some id → inTheWay s other id = false → ∃ u, exec (.contextLoadStart c) s = .next u
            ∧ OnlyCore s u c ∧ getSet (coreRec u c) b = { mine with st := .loading, ctx := some id } ∧ getSet (coreRec u c) (!b) = other)
        ∧ (mine.st = .empty → mine.ctx ≠ some id → other.ctx ≠ some id → inTheWay s other id = true → other.st = .frozen ∨ other.st = .ready →
            ∃ u, exec (.contextLoadStart c) s = .next u
              ∧ OnlyCore s u c ∧ getSet (coreRec u c) b = mine ∧ getSet (coreRec u c) (!b) = { other with st := .parking })
        ∧ (atRest → mine.ctx ≠ some id → ∃ u, exec (.contextLoadStart c) s = .next u
            ∧ OnlyCore s u c ∧ getSet (coreRec u c) b = { mine with st := .parking } ∧ getSet (coreRec u c) (!b) = other)
        ∧ (mine.ctx = some id → atRest → boundaryHere s c = false ∨ ¬ WaysDivide s c slotSwap → exec (.tokenBoundarySwap c) s = .next s)
        ∧ (mine.ctx = some id → atRest → other.ctx ≠ some id → boundaryHere s c = true → WaysDivide s c slotSwap →
            ∃ u, exec (.tokenBoundarySwap c) s = .next u ∧ Swapped s u c b ∧ (coreRec u c).boundary = false)
        ∧ (mine.ctx = some id → mine.st = .loading → exec (.tokenBoundarySwap c) s = .next s))
    ∧ (r.boundary = false → r.running = true → exec (.tokenBoundarySwap c) s = .next s)
    ∧ (r.boundary = false → r.running = false → r.swReq = some b → atRest → mine.ctx = some id → other.ctx ≠ some id →
        (boundaryHere s c = false ∨ ¬ WaysDivide s c (ctxswRecord s r b) → exec (.tokenBoundarySwap c) s = .next s)
        ∧ (boundaryHere s c = true → WaysDivide s c (ctxswRecord s r b) →
            ∃ u, exec (.tokenBoundarySwap c) s = .next u ∧ Swapped s u c b ∧ (coreRec u c).swReq = none))
    ∧ (mine.st = .parking → mine.ctx = some id → rawCtx s id = some x → other.ctx ≠ some id → id.core = c → parkChannels (focus s id) = .ok s1 → parkReady s1 = true →
        let k := s1.me
        let area := areaOf k
        let len := (k.shareSize.toNat + 1) * 256
        ((∀ e, (getChan x e).st ≠ .running) → k = x)
        ∧ ∃ u, exec (.contextParkComplete c b) s = .next u ∧ getSet (coreRec u c) b = { owed := mine.owed + 1 } ∧ getSet (coreRec u c) (!b) = other
          ∧ u.win = s.win
          ∧ areaWord u.mem area 0x010018 = k.sys.keval ∧ areaWord u.mem area 0x010028 = k.sys.kvec ∧ areaWord u.mem area 0x010040 = k.sys.scr0
          ∧ (∀ i : BitVec 5, areaWord u.mem area (0x011000 + 64 * i.toNat) = (getEntry k i).image)
          ∧ (∀ n < len, memByte u.mem (area + 0x100000 + n) = memByte s.win (winKey c (k.shareBase.toNat * 256 + n)))
          ∧ (∀ n ∈ s1.winBad, winKey c (k.shareBase.toNat * 256) ≤ 8 * n → 8 * n < winKey c (k.shareBase.toNat * 256) + len →
              (area + 0x100000 + (8 * n - winKey c (k.shareBase.toNat * 256))) / 128 ∈ u.bad)
          ∧ (mine.gone = false → ∃ y, rawCtx u id = some y ∧ y.l1 = [] ∧ y.tlb = [] ∧ y.regs = k.regs)
          ∧ (mine.gone = true → s.me.id ≠ id → rawCtx u id = none))
    ∧ (mine.st = .loading → mine.ctx = some id → rawCtx s id = some x → other.ctx ≠ some id → id.core = c →
        let area := areaOf x
        let len := (x.shareSize.toNat + 1) * 256
        let key := winKey c (x.shareBase.toNat * 256)
        let lost := (s.bad ++ s.retired).any (fun n => inSpan x n && decide (n * 128 < area + 0x100000))
        (inTheWay s other id = true → other.st = .frozen ∨ other.st = .ready → ∃ u, exec (.contextLoadComplete c b) s = .next u ∧ OnlyCore s u c
            ∧ getSet (coreRec u c) b = mine ∧ getSet (coreRec u c) (!b) = { other with st := .parking })
        ∧ (inTheWay s other id = true → other.st = .active ∨ other.st = .parking → exec (.contextLoadComplete c b) s = .next s)
        ∧ (inTheWay s other id = false → dramOk s id.part (area / 128) = false → exec (.contextLoadComplete c b) s = .next s)
        ∧ (inTheWay s other id = false → dramOk s id.part (area / 128) = true → lost = true → ∃ u, exec (.contextLoadComplete c b) s = .next u
            ∧ (partRec u (id.part.extractLsb' 0 6)).busy = true ∧ u.win = s.win)
        ∧ (inTheWay s other id = false → dramOk s id.part (area / 128) = true → lost = false →
            ∃ u y, exec (.contextLoadComplete c b) s = .next u ∧ getSet (coreRec u c) b = { mine with st := .ready, owed := 0 }
              ∧ getSet (coreRec u c) (!b) = other ∧ u.mem = s.mem ∧ rawCtx u id = some y ∧ y.l1 = [] ∧ y.tlb = []
              ∧ y.sys.keval = areaWord s.mem area 0x010018 ∧ y.sys.kvec = areaWord s.mem area 0x010028 &&& ~~~ 0x3FF#64
              ∧ y.sys.scr0 = areaWord s.mem area 0x010040 ∧ y.moved = x.moved + 1 + mine.owed
              ∧ (∀ i : BitVec 5, (getEntry y i).image = areaWord s.mem area (0x011000 + 64 * i.toNat)) ∧ y.faults = loadFaults s.mem area
              ∧ (∀ n < len, memByte u.win (key + n) = memByte s.mem (area + 0x100000 + n))
              ∧ (∀ a, ¬ (key ≤ a ∧ a < key + len) → memByte u.win a = memByte s.win a)
              ∧ (area % 128 = 0 → ∀ n, key ≤ 8 * n → 8 * n < key + len →
                  (n ∈ u.winBad ↔ (area + 0x100000 + (8 * n - key)) / 128 ∈ s.bad ++ s.retired))))
    ∧ (r.spineNew = some sp → r.spineNext = none ∨ r.spineNext = some sp → ∃ u, exec (.spineSwitchComplete c) s = .next u ∧ OnlyCore s u c
        ∧ coreRec u c = { r with spine := sp, spineNew := none, spineNext := none, entering := false })
    ∧ (∀ last, r.spineNew = some sp → r.spineNext = some last → last ≠ sp → ∃ u, exec (.spineSwitchComplete c) s = .next u ∧ OnlyCore s u c
        ∧ coreRec u c = { r with spine := sp, spineNew := some last, spineNext := none })
    ∧ (r.spineNew = none → exec (.spineSwitchComplete c) s = .next s)
    ∧ ((partRec s p).busy = true → ∃ u, exec (.containmentComplete p) s = .next u ∧ partRec u p = { partRec s p with busy := false }
        ∧ (∀ q, q ≠ p → partRec u q = partRec s q) ∧ { u with parts := s.parts } = s)

/-- 08 R183, 10 R238, 15 R356, R361, 17 R384, R388, R390: an epoch ends at each multiple of 2,500 of KTIME: f_perm moves by one step against the
module's power, a spine shared by two partitions holds 2.5 GHz, and the counts start again; a scrub counts each error and keeps an
uncorrectable line; a retry that succeeds changes nothing, and a packet or a page pull lost on a link contains its owner; a pre-emption
notice becomes pending with the time of the stop. The model's choices: f_perm does not fall below 48 steps of 12.5 MHz (DESIGN CHOICE, log 51), and a second
notice beside a pending one changes nothing (DEDUCED, log 39). Measured power is a free value (DESIGN CHOICE, log 10); the bounds hold for every value
of it. -/
def Obligations.EpochsScrubsAndRetries : Prop :=
  ∀ (s : State) (line : BitVec 45) (bad : Bool) (m : BitVec 3) (n l : Nat) (stop : Word) (p : Packet) (die sp : BitVec 3),
    let power := Config.modulePower s.tick
    let f := s.gov.fperm
    (s.ktime.toNat < s.epochAt.toNat → exec .epochEnd s = .next s)
    ∧ (s.epochAt.toNat ≤ s.ktime.toNat → ∃ u, exec .epochEnd s = .next u ∧ u.epochAt = s.epochAt + 2500 ∧ u.ktime = s.ktime
        ∧ (4300000 < power → u.gov.fperm = max 48 (f - 1)) ∧ (power < 4100000 → f < 240 → u.gov.fperm = f + 1)
        ∧ (4100000 ≤ power → power ≤ 4300000 → u.gov.fperm = f)
        ∧ (heldSpine s die sp = true → tabGet 48 u.gov.spines (die.toNat * 8 + sp.toNat) = 200)
        ∧ (∀ c ∈ u.me :: u.others, c.cyc = 0 ∧ c.pairCyc = 0 ∧ c.work = 0 ∧ c.moved = 0 ∧ c.fresh = false ∧ c.fab.fired = [])
        ∧ u.me.regs = s.me.regs ∧ u.win = s.win ∧ u.cores = s.cores ∧ u.net = s.net)
    ∧ (∃ u, exec (.patrolScrub line bad) s = .next u ∧ { u with errlog := s.errlog, bad := s.bad } = s
        ∧ (∀ d, tabGet 0 u.errlog d = if d = line.toNat / 2 ^ 30 % 8 then tabGet 0 s.errlog d + 1 else tabGet 0 s.errlog d)
        ∧ (∀ a, a ∈ u.bad ↔ a ∈ s.bad ∨ (bad = true ∧ a = line.toNat)))
    ∧ exec (.linkRetry m n true) s = .next s
    ∧ (s.net[n]? = some p → p.link = some l → 16384 ≤ l →
        (p.part.getLsbD 6 = true → ∃ u, exec (.linkRetry 0 n false) s = .next u ∧ u.boot = { s.boot with phase := 0xFF, code := 0x0A, halted := true }
            ∧ u.net = s.net.eraseIdx n)
        ∧ (p.part.getLsbD 6 = false → ∃ u, exec (.linkRetry 0 n false) s = .next u ∧ (partRec u (p.part.setWidth 6)).busy = true
            ∧ u.win = s.win ∧ KeepsButAreas s u (p.part.setWidth 6)))
    ∧ (partExists s (BitVec.ofNat 7 (n % 64)) = true → ∃ u, exec (.linkRetry 3 n false) s = .next u ∧ (partRec u (BitVec.ofNat 6 n)).busy = true
        ∧ u.win = s.win ∧ KeepsButAreas s u (BitVec.ofNat 6 n))
    ∧ (∃ u, exec (.preEmptionNotice stop) s = .next u ∧ { u with me.asyncs := s.me.asyncs } = s
        ∧ ((∀ a ∈ s.me.asyncs, a.kcause ≠ 0x18#9) → u.me.asyncs = s.me.asyncs ++ [⟨0x18#9, stop, 0⟩])
        ∧ ((∃ a ∈ s.me.asyncs, a.kcause = 0x18#9) → u = s))

/-- 16 R374, R375, R377, R379 to R382: the host reads and writes a partition's memory through stage 2, or gets an Unsupported Request, or waits
for a page or for its home; until the monitor starts it reads and writes die 0 through PF BAR2; a function-level reset contains the partition; BOOTCMD
restarts the module, warm with DRAM kept, where a dirty line of the L2 had not reached it as it was there; each start phase leads to the next or halts with its code; the monitor starts on
core 511 of every die. The model's reading: a host read of an uncorrectable line gets an Unsupported Request (DEDUCED, log 55). The signature check is
the one of the standards that 16 R380 names (PRESUMED, log 11) with keys that are free (DESIGN CHOICE, log 102); the outcome of a start-up test is an
input (DESIGN CHOICE, log 30). -/
def Obligations.TheHostStartsAndReadsTheModule : Prop :=
  ∀ (s : State) (p : BitVec 6) (addr v : Word) (n : BitVec 4) (a : Nat) (ad : BitVec 28) (y : Byte) (ok : Bool) (links : BitVec 24),
    let ph := s.boot.phase
    let serves := fun (num : Nat) => readState s (0#1 ++ p) num = .go
    let takes := fun (num : Nat) => homeState s (0#1 ++ p) num (homeLine (memPut s.mem a n.toNat v.toNat) num) = .go
    let inside := fun (num : Nat) => a / 128 ≤ num ∧ num ≤ (a + n.toNat - 1) / 128
    let reach := fun (need : Need) => ∀ k < n.toNat, hostByte s p (addr.toNat + k) need = .ok (a + k)
    let may := ph = 7#8 ∧ partExists s (0#1 ++ p) = true ∧ 1 ≤ n.toNat ∧ n.toNat ≤ 8
    let read := exec (.hostBar2Read p addr n) s
    let write := exec (.hostBar2Write p addr n v) s
    let local_ := s.module.toNat * 2 ^ 46 + ad.toNat
    let dies := fun (t : State) (code : Byte) => { t with boot := { s.boot with phase := 0xFF, code := code, halted := true } }
    let passes := fun (i : Bool → Instr) (k next code : Byte) => (ph = k → (∃ u, exec (i true) s = .next u ∧ { u with boot := s.boot } = s
        ∧ u.boot = { s.boot with phase := next }) ∧ exec (i false) s = .next (dies s code))
      ∧ (ph ≠ k → exec (i ok) s = .next s)
    let verified := headerOk s = true ∧ imageVerifies s = true
    (may → reach needRead → (∀ k < n.toNat, badLine s (a + k) = false) → (∀ num, inside num → serves num) → ∃ u, read = .next u
        ∧ u.host = s.host ++ [.data (BitVec.ofNat 64 (memNat s.mem a n.toNat))] ∧ { u with host := s.host, l2 := s.l2 } = s)
    ∧ (may → reach needRead → (∃ k < n.toNat, badLine s (a + k) = true) → read = .next { s with host := s.host ++ [.unsupported] })
    ∧ (may → reach needRead → (∀ k < n.toNat, badLine s (a + k) = false) → (∃ num, inside num ∧ ¬ serves num) → read = .next s)
    ∧ (may → hostByte s p addr.toNat needRead = .error .refused → read = .next { s with host := s.host ++ [.unsupported] })
    ∧ (∀ x, may → hostByte s p addr.toNat needRead = .error (.pull x) → read = .next (wantPull s p x))
    ∧ (¬ may → read = .next { s with host := s.host ++ [.unsupported] } ∧ write = .next { s with host := s.host ++ [.unsupported] })
    ∧ (may → reach needWrite → (∀ num, inside num → takes num) → ∃ u, write = .next u ∧ BytesWritten s.mem u.mem a n.toNat v.toNat
        ∧ { u with mem := s.mem, l2 := s.l2 } = s)
    ∧ (may → hostByte s p addr.toNat needWrite = .error .refused → write = .next { s with host := s.host ++ [.unsupported] })
    ∧ (s.boot.started = false → (∃ u, exec (.pfBar2Access true ad y) s = .next u ∧ BytesWritten s.mem u.mem local_ 1 y.toNat ∧ { u with mem := s.mem } = s)
        ∧ exec (.pfBar2Access false ad y) s = .next { s with host := s.host ++ [.data ((memByte s.mem local_).setWidth 64)] })
    ∧ (s.boot.started = true → exec (.pfBar2Access true ad y) s = .next s
        ∧ ∃ v, exec (.pfBar2Access false ad y) s = .next { s with host := s.host ++ [.data v] })
    ∧ (ph = 7#8 → partExists s (0#1 ++ p) = true → ∃ u, exec (.functionLevelReset p) s = .next u ∧ (partRec u p).busy = true ∧ (partRec u p).dcs = []
        ∧ KeepsButAreas s u p ∧ u.win = s.win)
    ∧ (ph ≠ 7#8 ∨ partExists s (0#1 ++ p) = false → exec (.functionLevelReset p) s = .next s)
    ∧ (ph = 5#8 → exec .bootcmdColdStart s = .next { s with boot := { s.boot with phase := 6 } })
    ∧ (1 ≤ ph.toNat → ph.toNat ≤ 6 → (ph ≠ 5#8 → exec .bootcmdColdStart s = .next s) ∧ exec .bootcmdWarmStart s = .next s)
    ∧ (ph = 7#8 ∨ ph = 0xFF#8 → (∃ u, exec .bootcmdColdStart s = .next u ∧ u.boot = ⟨1, 0, false, false, false⟩ ∧ u.module = s.module ∧ u.parts = [] ∧ u.cores = [] ∧ u.others = [] ∧ u.win = [])
        ∧ (∃ u, exec .bootcmdWarmStart s = .next u ∧ u.boot = ⟨1, 0, false, true, false⟩ ∧ u.module = s.module ∧ u.parts = [] ∧ u.cores = [] ∧ u.others = [] ∧ u.win = []
            ∧ (∀ i, (∀ x ∈ s.l2, x.dirty = true → x.num ≠ i / 128) → memByte u.mem i = memByte s.mem i)
            ∧ (∀ x ∈ s.l2, x.dirty = true → (∀ z ∈ s.l2, z.num = x.num → z = x) → ∀ k < 128,
                memByte u.mem (x.num * 128 + k) = x.old.extractLsb' (8 * k) 8)))
    ∧ passes .powerSequencing 1 2 0x01
    ∧ (ph = 2#8 → (∃ u, exec (.clockLock true) s = .next u ∧ u.ktime = 0 ∧ u.boot = { s.boot with phase := if s.boot.warm then 6 else 3 } ∧ u.mem = s.mem)
        ∧ exec (.clockLock false) s = .next (dies s 0x02))
    ∧ (ph ≠ 2#8 → exec (.clockLock ok) s = .next s)
    ∧ passes (fun x => .selfTest true x) 3 4 0x04 ∧ (ph = 3#8 → exec (.selfTest false ok) s = .next (dies s 0x03))
    ∧ (ph = 4#8 → exec (.dramTraining false links) s = .next (dies { s with trained := links } 0x05)
        ∧ (links = 0#24 → s.modules ≠ 1#7 → exec (.dramTraining true links) s = .next (dies { s with trained := links } 0x08))
        ∧ (links ≠ 0#24 ∨ s.modules = 1#7 →
            exec (.dramTraining true links) s = .next { s with trained := links, boot := { s.boot with phase := 5 } }))
    ∧ (ph ≠ 4#8 → exec (.dramTraining ok links) s = .next s)
    ∧ (ph = 6#8 → (verified → exec .imageCheck s = .next { s with boot := { s.boot with phase := 7 } })
        ∧ (¬ verified → s.boot.warm = true → exec .imageCheck s = .next { s with boot := { s.boot with phase := 3, warm := false } })
        ∧ (¬ verified → s.boot.warm = false →
            exec .imageCheck s = .next (dies s (if headerOk s then 0x07 else 0x06))))
    ∧ (ph = 7#8 → (coreRec s 511).setA.ctx = none → ∃ u, exec .monitorStart s = .next u ∧ u.boot.started = true ∧ u.mem = s.mem ∧ u.me.id = monitorId 0 ∧ u.others.length = 7
        ∧ (∀ c ∈ u.me :: u.others, c.id.core.toNat % 512 = 511 ∧ c.run = some 0 ∧ c.regs.ks.priv = 2#2 ∧ c.regs.pc = BitVec.ofNat 64 (memNat s.mem (s.module.toNat * 2 ^ 46 + 16) 8) &&& 0x0000FFFFFFFFFFFC#64)
        ∧ (∀ d : BitVec 3, mvecOf u (coreRec u (d ++ 511#9)) = 0x100 ∧ (coreRec u (d ++ 511#9)).setA = { st := .active, ctx := some (monitorId d) })
        ∧ (∀ c, (coreRec s c).mvec = none → mvecOf u (coreRec u c) = 0x100))
    ∧ (ph = 7#8 → exec .monitorRequestedHalt s = .next (dies s 0x0B))
end

