-- ==== Sys2Proof/Laws/Tables.lean ====
section
/-! SUPPORT. The laws of tables and of memories: what a read finds after a write, that every memory operation keeps the
canonical form, and that canonical memories which read alike are equal. -/

namespace Sys2Proof.Machine

/-! ## Tables -/

variable {α : Type}

@[simp] theorem tabFind_nil (k : Nat) : tabFind ([] : Tab α) k = none := rfl

theorem tabFind_cons (p : Nat × α) (t : Tab α) (k : Nat) :
    tabFind (p :: t) k = if p.1 = k then some p.2 else tabFind t k := rfl

@[simp] theorem tabFind_erase_self (t : Tab α) (k : Nat) : tabFind (tabErase t k) k = none := by
  induction t with
  | nil => rfl
  | cons p t ih => by_cases h : p.1 = k <;> simp [tabErase, tabFind_cons, h, ih]

theorem tabFind_erase_ne (t : Tab α) {k j : Nat} (h : j ≠ k) : tabFind (tabErase t k) j = tabFind t j := by
  induction t with
  | nil => rfl
  | cons p t ih =>
    by_cases hp : p.1 = k
    · simp [tabErase, tabFind_cons, hp, ih, Ne.symm h]
    · simp [tabErase, tabFind_cons, hp, ih]

@[simp] theorem tabFind_insert_self (t : Tab α) (k : Nat) (v : α) : tabFind (tabInsert t k v) k = some v := by
  induction t with
  | nil => simp [tabInsert, tabFind_cons]
  | cons p t ih =>
    simp only [tabInsert]
    split_ifs with h1 h2
    · simp [tabFind_cons]
    · simp [tabFind_cons]
    · simp [tabFind_cons, Ne.symm h2, ih]

theorem tabFind_insert_ne (t : Tab α) {k j : Nat} (v : α) (h : j ≠ k) : tabFind (tabInsert t k v) j = tabFind t j := by
  induction t with
  | nil => simp [tabInsert, tabFind_cons, Ne.symm h]
  | cons p t ih =>
    simp only [tabInsert]
    split_ifs with h1 h2
    · simp [tabFind_cons, Ne.symm h]
    · subst h2; simp [tabFind_cons, Ne.symm h]
    · simp [tabFind_cons, ih]

@[simp] theorem tabGet_nil (d : α) (k : Nat) : tabGet d [] k = d := rfl

/-- A read after a write of the same number gives the value written. -/
@[simp] theorem tabGet_put_self [DecidableEq α] (d : α) (t : Tab α) (k : Nat) (v : α) : tabGet d (tabPut d t k v) k = v := by
  unfold tabGet tabPut; split_ifs with h <;> simp [h]

/-- A write leaves every other number alone. -/
theorem tabGet_put_ne [DecidableEq α] (d : α) (t : Tab α) {k j : Nat} (v : α) (h : j ≠ k) :
    tabGet d (tabPut d t k v) j = tabGet d t j := by
  unfold tabGet tabPut; split_ifs with hv
  · rw [tabFind_erase_ne t h]
  · rw [tabFind_insert_ne t v h]

theorem tabGet_put [DecidableEq α] (d : α) (t : Tab α) (k j : Nat) (v : α) :
    tabGet d (tabPut d t k v) j = if j = k then v else tabGet d t j := by
  split_ifs with h
  · subst h; exact tabGet_put_self d t j v
  · exact tabGet_put_ne d t v h

/-! ## Rising order -/

/-- A table whose numbers rise above b also rises above a lower bound. -/
theorem tabSorted_weaken {t : Tab α} {b : Nat} (h : tabSorted (some b) t = true) (c : Option Nat) (hc : ∀ n, c = some n → n ≤ b) :
    tabSorted c t = true := by
  cases t with
  | nil => rfl
  | cons p t =>
    simp only [tabSorted, Bool.and_eq_true, decide_eq_true_eq] at h ⊢
    refine ⟨?_, h.2⟩
    cases c with
    | none => rfl
    | some n => simpa using lt_of_le_of_lt (hc n rfl) h.1

theorem tabSorted_tail {t : Tab α} {b : Option Nat} {k : Nat} {v : α} (h : tabSorted b ((k, v) :: t) = true) : tabSorted b t = true := by
  cases b with
  | none =>
    simp only [tabSorted, Bool.true_and] at h
    exact tabSorted_weaken h none (by simp)
  | some n =>
    simp only [tabSorted, Bool.and_eq_true, decide_eq_true_eq] at h
    exact tabSorted_weaken h.2 (some n) (by simp; omega)

/-- What stands at or below the bound of a rising table is not listed. -/
theorem tabFind_below {t : Tab α} {b k : Nat} (h : tabSorted (some b) t = true) (hk : k ≤ b) : tabFind t k = none := by
  induction t with
  | nil => rfl
  | cons p t ih =>
    have ht := tabSorted_tail h
    simp only [tabSorted, Bool.and_eq_true, decide_eq_true_eq] at h
    rw [tabFind_cons, if_neg (by omega), ih ht]

theorem tabSorted_erase {t : Tab α} {b : Option Nat} (h : tabSorted b t = true) (k : Nat) : tabSorted b (tabErase t k) = true := by
  induction t generalizing b with
  | nil => rfl
  | cons p t ih =>
    have ht := tabSorted_tail h
    simp only [tabErase]
    split_ifs
    · exact ih ht
    · simp only [tabSorted, Bool.and_eq_true] at h ⊢
      exact ⟨h.1, ih h.2⟩

theorem tabSorted_insert {t : Tab α} {b : Option Nat} (h : tabSorted b t = true) (k : Nat) (v : α) (hk : ∀ n, b = some n → n < k) :
    tabSorted b (tabInsert t k v) = true := by
  induction t generalizing b with
  | nil => cases b <;> simp_all [tabInsert, tabSorted]
  | cons p t ih =>
    simp only [tabInsert]
    split_ifs with h1 h2
    · simp only [tabSorted, Bool.and_eq_true] at h ⊢
      refine ⟨?_, by simpa using h1, h.2⟩
      cases b <;> simp_all
    · subst h2; simpa [tabSorted] using h
    · simp only [tabSorted, Bool.and_eq_true] at h ⊢
      exact ⟨h.1, ih h.2 (by simp; omega)⟩

theorem tabSorted_put [DecidableEq α] {t : Tab α} (h : tabSorted none t = true) (d : α) (k : Nat) (v : α) :
    tabSorted none (tabPut d t k v) = true := by
  unfold tabPut; split_ifs
  · exact tabSorted_erase h k
  · exact tabSorted_insert h k v (by simp)

/-! ## Membership -/

theorem mem_erase {t : Tab α} {k : Nat} {x : Nat × α} (h : x ∈ tabErase t k) : x ∈ t := by
  induction t with
  | nil => exact h
  | cons p t ih =>
    simp only [tabErase] at h
    split_ifs at h
    · exact List.mem_cons_of_mem _ (ih h)
    · rcases List.mem_cons.mp h with h | h
      · exact List.mem_cons.mpr (.inl h)
      · exact List.mem_cons_of_mem _ (ih h)

theorem mem_insert {t : Tab α} {k : Nat} {v : α} {x : Nat × α} (h : x ∈ tabInsert t k v) : x = (k, v) ∨ x ∈ t := by
  induction t with
  | nil => simpa [tabInsert] using h
  | cons p t ih =>
    simp only [tabInsert] at h
    split_ifs at h <;> simp only [List.mem_cons] at h ⊢
    · tauto
    · tauto
    · rcases h with h | h
      · exact .inr (.inl h)
      · exact (ih h).imp id .inr

/-! ## Memories -/

theorem Memory.wf_iff (m : List Host.Cell) :
    Memory.wf m = true ↔ tabSorted none m = true ∧ ∀ c ∈ m, c.2 ≠ 0#8 := by
  simp [Memory.wf]

@[simp] theorem wf_nil : Memory.wf [] = true := rfl

/-- One byte written keeps the canonical form. -/
theorem wf_memSet {m : List Host.Cell} (h : Memory.wf m = true) (a : Nat) (b : Byte) : Memory.wf (memSet m a b) = true := by
  rw [Memory.wf_iff] at h ⊢
  refine ⟨tabSorted_put h.1 0#8 a b, fun c hc => ?_⟩
  unfold memSet tabPut at hc
  split_ifs at hc with hb
  · exact h.2 c (mem_erase hc)
  · rcases mem_insert hc with rfl | hc
    · exact hb
    · exact h.2 c hc

theorem wf_memPut {m : List Host.Cell} (h : Memory.wf m = true) (a n v : Nat) : Memory.wf (memPut m a n v) = true := by
  induction n generalizing m a v with
  | zero => exact h
  | succ n ih => exact ih (wf_memSet h a _) (a + 1) (v / 256)

theorem wf_memPutBytes {m : List Host.Cell} (h : Memory.wf m = true) (a : Nat) (bs : List Byte) :
    Memory.wf (memPutBytes m a bs) = true := by
  induction bs generalizing m a with
  | nil => exact h
  | cons b bs ih => exact ih (wf_memSet h a b) (a + 1)

theorem wf_putWords {m : List Host.Cell} (h : Memory.wf m = true) (area : Nat) (ws : List (Nat × Word)) :
    Memory.wf (putWords m area ws) = true := by
  unfold putWords
  induction ws generalizing m with
  | nil => exact h
  | cons w ws ih => exact ih (wf_memPut h _ _ _)

theorem wf_putCfg {m : List Host.Cell} (h : Memory.wf m = true) (area k : Nat) (v : BitVec 16) :
    Memory.wf (putCfg m area k v) = true := wf_memPut h _ _ _

/-- Reading a byte after writing one: the value written there, and every other byte as before. -/
theorem memByte_memSet (m : List Host.Cell) (a j : Nat) (b : Byte) :
    memByte (memSet m a b) j = if j = a then b else memByte m j := tabGet_put 0#8 m a j b

@[simp] theorem memByte_memSet_self (m : List Host.Cell) (a : Nat) (b : Byte) : memByte (memSet m a b) a = b := by
  rw [memByte_memSet, if_pos rfl]

/-- A store leaves every byte outside its own alone. -/
theorem memByte_memPut_outside (m : List Host.Cell) (a n v j : Nat) (h : ¬ (a ≤ j ∧ j < a + n)) :
    memByte (memPut m a n v) j = memByte m j := by
  induction n generalizing m a v with
  | zero => rfl
  | succ n ih =>
    rw [memPut, ih _ _ _ (by omega), memByte_memSet, if_neg (by omega)]

/-- Byte j of a store of n bytes. -/
theorem memByte_memPut (m : List Host.Cell) (a n v i : Nat) (h : i < n) :
    memByte (memPut m a n v) (a + i) = BitVec.ofNat 8 (v / 256 ^ i) := by
  induction n generalizing m a v i with
  | zero => omega
  | succ n ih =>
    cases i with
    | zero => rw [memPut, memByte_memPut_outside _ _ _ _ _ (by omega)]; simp
    | succ i =>
      rw [memPut, show a + (i + 1) = (a + 1) + i by omega, ih _ _ _ _ (by omega), Nat.div_div_eq_div_mul, pow_succ']

theorem memByte_memPutBytes_outside (m : List Host.Cell) (a : Nat) (bs : List Byte) (j : Nat)
    (h : ¬ (a ≤ j ∧ j < a + bs.length)) : memByte (memPutBytes m a bs) j = memByte m j := by
  induction bs generalizing m a with
  | nil => rfl
  | cons b bs ih =>
    simp only [List.length_cons] at h
    rw [memPutBytes, ih _ _ (by omega), memByte_memSet, if_neg (by omega)]

/-- A number read depends on its own bytes only. -/
theorem memNat_congr {m m' : List Host.Cell} {a n : Nat} (h : ∀ j, a ≤ j → j < a + n → memByte m j = memByte m' j) :
    memNat m a n = memNat m' a n := by
  induction n generalizing a with
  | zero => rfl
  | succ n ih =>
    rw [memNat, memNat, h a (by omega) (by omega), ih fun j h1 h2 => h j (by omega) (by omega)]

theorem memNat_lt (m : List Host.Cell) (a n : Nat) : memNat m a n < 256 ^ n := by
  induction n generalizing a with
  | zero => simp [memNat]
  | succ n ih =>
    have h1 := (memByte m a).isLt
    have h2 := ih (a + 1)
    rw [memNat, pow_succ']; omega

/-- A read after a store at the same place gives the number stored (00 R4). -/
theorem memNat_memPut_self (m : List Host.Cell) (a n v : Nat) : memNat (memPut m a n v) a n = v % 256 ^ n := by
  induction n generalizing m a v with
  | zero => simp [memNat, Nat.mod_one]
  | succ n ih =>
    rw [memPut, memNat, memByte_memPut_outside _ _ _ _ _ (by omega), memByte_memSet_self, ih, pow_succ', Nat.mod_mul]
    simp

theorem memNat_memPut_outside (m : List Host.Cell) (a n v b k : Nat) (h : b + k ≤ a ∨ a + n ≤ b) :
    memNat (memPut m a n v) b k = memNat m b k :=
  memNat_congr fun _ h1 h2 => memByte_memPut_outside _ _ _ _ _ (by omega)

/-- CANONICAL MEMORIES WHICH READ ALIKE ARE EQUAL. -/
theorem Memory.ext {m m' : List Host.Cell} (h : Memory.wf m = true) (h' : Memory.wf m' = true)
    (e : ∀ a, memByte m a = memByte m' a) : m = m' := by
  rw [Memory.wf_iff] at h h'
  suffices H : ∀ (b : Option Nat) (m m' : List Host.Cell), tabSorted b m = true → tabSorted b m' = true →
      (∀ c ∈ m, c.2 ≠ 0#8) → (∀ c ∈ m', c.2 ≠ 0#8) → (∀ a, memByte m a = memByte m' a) → m = m' from
    H none m m' h.1 h'.1 h.2 h'.2 e
  clear h h' e m m'
  intro b m
  induction m generalizing b with
  | nil =>
    intro m' _ h' _ n' e
    cases m' with
    | nil => rfl
    | cons p t =>
      have := e p.1
      simp only [memByte, tabGet, tabFind_cons, if_true, Option.getD_some] at this
      exact absurd this.symm (n' p (List.mem_cons_self ..))
  | cons q s ih =>
    intro m' h h' n n' e
    cases m' with
    | nil =>
      have := e q.1
      simp only [memByte, tabGet, tabFind_cons, if_true, Option.getD_some] at this
      exact absurd this (n q (List.mem_cons_self ..))
    | cons p t =>
      have hs : tabSorted (some q.1) s = true := by simp only [tabSorted, Bool.and_eq_true] at h; exact h.2
      have ht : tabSorted (some p.1) t = true := by simp only [tabSorted, Bool.and_eq_true] at h'; exact h'.2
      have key : p.1 = q.1 := by
        rcases lt_trichotomy p.1 q.1 with hl | hl | hl
        · have := e p.1
          simp only [memByte, tabGet, tabFind_cons, if_true, Option.getD_some] at this
          rw [if_neg (by omega), tabFind_below hs (by omega)] at this
          exact absurd this.symm (n' p (List.mem_cons_self ..))
        · exact hl
        · have := e q.1
          simp only [memByte, tabGet, tabFind_cons, if_true, Option.getD_some] at this
          rw [if_neg (by omega), tabFind_below ht (by omega)] at this
          exact absurd this (n q (List.mem_cons_self ..))
      have hv : q.2 = p.2 := by
        have := e q.1
        simpa [memByte, tabGet, tabFind_cons, key] using this
      have hr : s = t := by
        refine ih (some q.1) t hs (key ▸ ht) (fun c hc => n c (List.mem_cons_of_mem _ hc))
          (fun c hc => n' c (List.mem_cons_of_mem _ hc)) fun a => ?_
        by_cases ha : a = q.1
        · subst ha
          simp only [memByte, tabGet]
          rw [tabFind_below hs le_rfl, tabFind_below ht (by omega)]
        · have := e a
          simpa [memByte, tabGet, tabFind_cons, key, Ne.symm ha] using this
      obtain ⟨q1, q2⟩ := q
      obtain ⟨p1, p2⟩ := p
      simp only at key hv
      rw [hr, key, hv]

end Sys2Proof.Machine
end

