-- ==== Sys2Proof/Laws/Memories.lean ====
section
/-! SUPPORT. Every operation that writes DRAM or window memory keeps the canonical form, and what the line operations of
the L1 leave alone. -/

namespace Sys2Proof.Machine

/-! ## Rising order as pairs -/

theorem tabSorted_some_iff {α : Type} (b : Nat) (t : Tab α) :
    tabSorted (some b) t = true ↔ (∀ c ∈ t, b < c.1) ∧ t.Pairwise (fun x y => x.1 < y.1) := by
  induction t generalizing b with
  | nil => simp [tabSorted]
  | cons p t ih =>
    simp only [tabSorted, Bool.and_eq_true, decide_eq_true_eq, ih, List.mem_cons, forall_eq_or_imp, List.pairwise_cons]
    constructor
    · rintro ⟨h1, h2, h3⟩; exact ⟨⟨h1, fun c hc => lt_trans h1 (h2 c hc)⟩, h2, h3⟩
    · rintro ⟨⟨h1, _⟩, h2, h3⟩; exact ⟨h1, h2, h3⟩

theorem tabSorted_iff {α : Type} (t : Tab α) : tabSorted none t = true ↔ t.Pairwise (fun x y => x.1 < y.1) := by
  cases t with
  | nil => simp [tabSorted]
  | cons p t => simp only [tabSorted, Bool.true_and, tabSorted_some_iff, List.pairwise_cons]

theorem Memory.wf_iff_pairwise (m : List Host.Cell) :
    Memory.wf m = true ↔ m.Pairwise (fun x y => x.1 < y.1) ∧ ∀ c ∈ m, c.2 ≠ 0#8 := by
  rw [Memory.wf_iff, tabSorted_iff]

/-! ## Operations on ranges -/

theorem wf_filter {m : List Host.Cell} (h : Memory.wf m = true) (p : Host.Cell → Bool) : Memory.wf (m.filter p) = true := by
  rw [Memory.wf_iff_pairwise] at h ⊢
  exact ⟨h.1.filter p, fun c hc => h.2 c (List.mem_of_mem_filter hc)⟩

theorem wf_replaceRange {m cells : List Host.Cell} (h : Memory.wf m = true) (h' : Memory.wf cells = true) (base len : Nat) :
    Memory.wf (replaceRange m base len cells) = true := by
  rw [Memory.wf_iff_pairwise] at h h' ⊢
  unfold replaceRange
  refine ⟨?_, ?_⟩
  · refine List.pairwise_append.mpr ⟨List.pairwise_append.mpr ⟨h.1.filter _, h'.1.filter _, ?_⟩, h.1.filter _, ?_⟩
    · intro a ha b hb
      simp only [List.mem_filter, decide_eq_true_eq] at ha hb
      omega
    · intro a ha b hb
      simp only [List.mem_append, List.mem_filter, decide_eq_true_eq] at ha hb
      rcases ha with ha | ha <;> omega
  · intro c hc
    simp only [List.mem_append, List.mem_filter] at hc
    rcases hc with (hc | hc) | hc
    · exact h.2 c hc.1
    · exact h'.2 c hc.1
    · exact h.2 c hc.1

theorem wf_moveRange {m : List Host.Cell} (h : Memory.wf m = true) (base len dst : Nat) :
    Memory.wf (moveRange m base len dst) = true := by
  rw [Memory.wf_iff_pairwise] at h ⊢
  unfold moveRange
  refine ⟨List.pairwise_map.mpr ?_, ?_⟩
  · refine (h.1.filter _).imp_of_mem fun {a b} ha hb hab => ?_
    simp only [List.mem_filter, decide_eq_true_eq] at ha hb
    show a.1 - base + dst < b.1 - base + dst
    omega
  · intro c hc
    obtain ⟨d, hd, rfl⟩ := List.mem_map.mp hc
    exact h.2 d (List.mem_of_mem_filter hd)

theorem wf_foldl {β : Type} (f : List Host.Cell → β → List Host.Cell) (hf : ∀ m b, Memory.wf m = true → Memory.wf (f m b) = true)
    (l : List β) {m : List Host.Cell} (h : Memory.wf m = true) : Memory.wf (l.foldl f m) = true := by
  induction l generalizing m with
  | nil => exact h
  | cons b l ih => exact ih (hf m b h)

theorem wf_memMove {m : List Host.Cell} (h : Memory.wf m = true) (src dst n : Nat) : Memory.wf (memMove m src dst n) = true :=
  wf_foldl _ (fun _ _ h => wf_memSet h _ _) _ (wf_filter h _)

theorem wf_scatterNat {m : List Host.Cell} (h : Memory.wf m = true) (as : List Nat) (v : Nat) : Memory.wf (scatterNat m as v) = true := by
  induction as generalizing m v with
  | nil => exact h
  | cons a as ih => exact ih (wf_memSet h _ _) _

theorem wf_coldMem (tick : Nat) (m : List Host.Cell) : Memory.wf (coldMem tick m) = true :=
  wf_foldl _ (fun _ _ h => wf_memSet h _ _) _ wf_nil

theorem wf_mergeLine {m : List Host.Cell} (h : Memory.wf m = true) (l : Line) (n : Nat) : Memory.wf (mergeLine m l n) = true := by
  induction n with
  | zero => exact h
  | succ n ih => simp only [mergeLine]; split_ifs <;> first | exact wf_memSet ih _ _ | exact ih

theorem wf_warmMem {s : State} (h : Memory.wf s.mem = true) : Memory.wf (warmMem s) = true :=
  wf_foldl _ (fun _ _ h => by split_ifs <;> first | exact wf_memPut h _ _ _ | exact h) _ h

theorem wf_scramble {s : State} (h : Memory.wf s.mem = true) (h' : Memory.wf s.win = true) (c : Ctx) (r : Region) :
    Memory.wf (scramble s c r).mem = true ∧ Memory.wf (scramble s c r).win = true := by
  unfold scramble
  split_ifs
  · exact ⟨wf_foldl _ (fun _ _ h => wf_memSet h _ _) _ h, h'⟩
  · exact ⟨h, wf_foldl _ (fun _ _ h => wf_memSet h _ _) _ h'⟩

theorem wf_putGraph {m : List Host.Cell} (h : Memory.wf m = true) (area gid : Nat) (g : Graph) : Memory.wf (putGraph m area gid g) = true := by
  unfold putGraph
  dsimp only
  split_ifs
  all_goals first | exact wf_putWords h _ _ | exact h

theorem wf_writeView {m : List Host.Cell} (h : Memory.wf m = true) (c0 c1 : Ctx) : Memory.wf (writeView m c0 c1) = true := by
  unfold writeView
  refine wf_foldl _ (fun m k hm => ?_) _ (wf_foldl _ (fun m i hm => ?_) _ ?_)
  · split_ifs
    · exact hm
    · exact wf_putCfg hm _ _ _
  · split_ifs
    · exact hm
    · exact wf_putWords hm _ _
  · have hg : Memory.wf (if c0.fab.graphs = c1.fab.graphs then m
        else c1.fab.graphs.foldl (fun m g => if tabFind c0.fab.graphs g.1 = some g.2 then m else putGraph m (areaOf c1) g.1 g.2) m) = true := by
      split_ifs
      · exact h
      · exact wf_foldl _ (fun m g hm => by split_ifs <;> first | exact hm | exact wf_putGraph hm _ _ _) _ h
    split_ifs at hg ⊢
    all_goals first | exact hg | exact wf_putWords hg _ _

theorem wf_writeArea {s : State} (h : Memory.wf s.mem = true) (h' : Memory.wf s.win = true) (c : Ctx) :
    Memory.wf (writeArea s c) = true := by
  unfold writeArea
  refine wf_replaceRange ?_ (wf_moveRange h' _ _ _) _ _
  refine wf_foldl _ (fun m f hm => wf_putCfg hm _ _ _) _ (wf_putWords ?_ _ _)
  exact wf_replaceRange h wf_nil _ _

/-- The memories have their canonical form at reset. -/
theorem reset_wf : Memory.wf State.reset.mem = true ∧ Memory.wf State.reset.win = true := ⟨rfl, rfl⟩

/-! ## Lines -/

/-- A write-back changes no byte that is not dirty in the line, and the dirty bytes take the line's value (08 R170). -/
theorem memByte_mergeLine (m : List Host.Cell) (l : Line) (n a : Nat) :
    memByte (mergeLine m l n) a =
      if l.num * 128 ≤ a ∧ a < l.num * 128 + n ∧ l.dirty.getLsbD (a - l.num * 128) = true
      then l.data.extractLsb' (8 * (a - l.num * 128)) 8 else memByte m a := by
  induction n with
  | zero => rw [if_neg (by omega)]; rfl
  | succ n ih =>
    simp only [mergeLine]
    by_cases ha : a = l.num * 128 + n
    · subst ha
      have e : l.num * 128 + n - l.num * 128 = n := by omega
      simp only [e] at ih ⊢
      by_cases hd : l.dirty.getLsbD n = true
      · rw [if_pos hd, memByte_memSet_self, if_pos ⟨by omega, by omega, hd⟩]
      · rw [if_neg hd, ih, if_neg (by omega), if_neg (by tauto)]
    · have key : memByte (if l.dirty.getLsbD n = true then memSet (mergeLine m l n) (l.num * 128 + n) (l.data.extractLsb' (8 * n) 8)
          else mergeLine m l n) a = memByte (mergeLine m l n) a := by
        split_ifs
        · rw [memByte_memSet, if_neg ha]
        · rfl
      rw [key, ih]
      by_cases hc : l.num * 128 ≤ a ∧ a < l.num * 128 + n ∧ l.dirty.getLsbD (a - l.num * 128) = true
      · rw [if_pos hc, if_pos ⟨hc.1, by omega, hc.2.2⟩]
      · rw [if_neg hc, if_neg (fun h => hc ⟨h.1, by omega, h.2.2⟩)]

end Sys2Proof.Machine
end

