-- ==== Sys2Proof/Laws/State.lean ====
section
/-! SUPPORT. One lemma per field per update of the state: what each named update leaves alone and what it sets, each true by
computation, so that no later proof unfolds a record update. -/

namespace Sys2Proof.Machine


/-! ## The program counter -/

@[simp] theorem nextPc_others (s : State) : (nextPc s).others = s.others := rfl
@[simp] theorem nextPc_agenda (s : State) : (nextPc s).agenda = s.agenda := rfl
@[simp] theorem nextPc_tick (s : State) : (nextPc s).tick = s.tick := rfl
@[simp] theorem nextPc_ktime (s : State) : (nextPc s).ktime = s.ktime := rfl
@[simp] theorem nextPc_mem (s : State) : (nextPc s).mem = s.mem := rfl
@[simp] theorem nextPc_win (s : State) : (nextPc s).win = s.win := rfl
@[simp] theorem nextPc_bad (s : State) : (nextPc s).bad = s.bad := rfl
@[simp] theorem nextPc_retired (s : State) : (nextPc s).retired = s.retired := rfl
@[simp] theorem nextPc_errlog (s : State) : (nextPc s).errlog = s.errlog := rfl
@[simp] theorem nextPc_cores (s : State) : (nextPc s).cores = s.cores := rfl
@[simp] theorem nextPc_parts (s : State) : (nextPc s).parts = s.parts := rfl
@[simp] theorem nextPc_monitorDrops (s : State) : (nextPc s).monitorDrops = s.monitorDrops := rfl
@[simp] theorem nextPc_monitorEnergy (s : State) : (nextPc s).monitorEnergy = s.monitorEnergy := rfl
@[simp] theorem nextPc_links (s : State) : (nextPc s).links = s.links := rfl
@[simp] theorem nextPc_vcs (s : State) : (nextPc s).vcs = s.vcs := rfl
@[simp] theorem nextPc_dram (s : State) : (nextPc s).dram = s.dram := rfl
@[simp] theorem nextPc_grains (s : State) : (nextPc s).grains = s.grains := rfl
@[simp] theorem nextPc_l2 (s : State) : (nextPc s).l2 = s.l2 := rfl
@[simp] theorem nextPc_net (s : State) : (nextPc s).net = s.net := rfl
@[simp] theorem nextPc_used (s : State) : (nextPc s).used = s.used := rfl
@[simp] theorem nextPc_decrs (s : State) : (nextPc s).decrs = s.decrs := rfl
@[simp] theorem nextPc_refused (s : State) : (nextPc s).refused = s.refused := rfl
@[simp] theorem nextPc_saved (s : State) : (nextPc s).saved = s.saved := rfl
@[simp] theorem nextPc_winBad (s : State) : (nextPc s).winBad = s.winBad := rfl
@[simp] theorem nextPc_vcTurn (s : State) : (nextPc s).vcTurn = s.vcTurn := rfl
@[simp] theorem nextPc_pulls (s : State) : (nextPc s).pulls = s.pulls := rfl
@[simp] theorem nextPc_mvecInit (s : State) : (nextPc s).mvecInit = s.mvecInit := rfl
@[simp] theorem nextPc_boot (s : State) : (nextPc s).boot = s.boot := rfl
@[simp] theorem nextPc_module (s : State) : (nextPc s).module = s.module := rfl
@[simp] theorem nextPc_modules (s : State) : (nextPc s).modules = s.modules := rfl
@[simp] theorem nextPc_routes (s : State) : (nextPc s).routes = s.routes := rfl
@[simp] theorem nextPc_trained (s : State) : (nextPc s).trained = s.trained := rfl
@[simp] theorem nextPc_gov (s : State) : (nextPc s).gov = s.gov := rfl
@[simp] theorem nextPc_epochAt (s : State) : (nextPc s).epochAt = s.epochAt := rfl
@[simp] theorem nextPc_host (s : State) : (nextPc s).host = s.host := rfl
@[simp] theorem nextPc_me_id (s : State) : (nextPc s).me.id = s.me.id := rfl
@[simp] theorem nextPc_me_run (s : State) : (nextPc s).me.run = s.me.run := rfl
@[simp] theorem nextPc_me_atVector (s : State) : (nextPc s).me.atVector = s.me.atVector := rfl
@[simp] theorem nextPc_me_htab (s : State) : (nextPc s).me.htab = s.me.htab := rfl
@[simp] theorem nextPc_me_last (s : State) : (nextPc s).me.last = s.me.last := rfl
@[simp] theorem nextPc_me_sys (s : State) : (nextPc s).me.sys = s.me.sys := rfl
@[simp] theorem nextPc_me_asyncs (s : State) : (nextPc s).me.asyncs = s.me.asyncs := rfl
@[simp] theorem nextPc_me_faults (s : State) : (nextPc s).me.faults = s.me.faults := rfl
@[simp] theorem nextPc_me_inbox (s : State) : (nextPc s).me.inbox = s.me.inbox := rfl
@[simp] theorem nextPc_me_held (s : State) : (nextPc s).me.held = s.me.held := rfl
@[simp] theorem nextPc_me_stalled (s : State) : (nextPc s).me.stalled = s.me.stalled := rfl
@[simp] theorem nextPc_me_first (s : State) : (nextPc s).me.first = s.me.first := rfl
@[simp] theorem nextPc_me_pinWait (s : State) : (nextPc s).me.pinWait = s.me.pinWait := rfl
@[simp] theorem nextPc_me_lateBad (s : State) : (nextPc s).me.lateBad = s.me.lateBad := rfl
@[simp] theorem nextPc_me_serial (s : State) : (nextPc s).me.serial = s.me.serial := rfl
@[simp] theorem nextPc_me_pend (s : State) : (nextPc s).me.pend = s.me.pend := rfl
@[simp] theorem nextPc_me_l1 (s : State) : (nextPc s).me.l1 = s.me.l1 := rfl
@[simp] theorem nextPc_me_tlb (s : State) : (nextPc s).me.tlb = s.me.tlb := rfl
@[simp] theorem nextPc_me_perf (s : State) : (nextPc s).me.perf = s.me.perf := rfl
@[simp] theorem nextPc_me_energy (s : State) : (nextPc s).me.energy = s.me.energy := rfl
@[simp] theorem nextPc_me_cyc (s : State) : (nextPc s).me.cyc = s.me.cyc := rfl
@[simp] theorem nextPc_me_pairCyc (s : State) : (nextPc s).me.pairCyc = s.me.pairCyc := rfl
@[simp] theorem nextPc_me_work (s : State) : (nextPc s).me.work = s.me.work := rfl
@[simp] theorem nextPc_me_moved (s : State) : (nextPc s).me.moved = s.me.moved := rfl
@[simp] theorem nextPc_me_fresh (s : State) : (nextPc s).me.fresh = s.me.fresh := rfl
@[simp] theorem nextPc_me_ramp (s : State) : (nextPc s).me.ramp = s.me.ramp := rfl
@[simp] theorem nextPc_me_shareBase (s : State) : (nextPc s).me.shareBase = s.me.shareBase := rfl
@[simp] theorem nextPc_me_shareSize (s : State) : (nextPc s).me.shareSize = s.me.shareSize := rfl
@[simp] theorem nextPc_me_engAge (s : State) : (nextPc s).me.engAge = s.me.engAge := rfl
@[simp] theorem nextPc_me_chans (s : State) : (nextPc s).me.chans = s.me.chans := rfl
@[simp] theorem nextPc_me_xq (s : State) : (nextPc s).me.xq = s.me.xq := rfl
@[simp] theorem nextPc_me_mx (s : State) : (nextPc s).me.mx = s.me.mx := rfl
@[simp] theorem nextPc_me_fab (s : State) : (nextPc s).me.fab = s.me.fab := rfl
@[simp] theorem nextPc_regs_g (s : State) : (nextPc s).me.regs.g = s.me.regs.g := rfl
@[simp] theorem nextPc_regs_c (s : State) : (nextPc s).me.regs.c = s.me.regs.c := rfl
@[simp] theorem nextPc_regs_ks (s : State) : (nextPc s).me.regs.ks = s.me.regs.ks := rfl
@[simp] theorem nextPc_regs_pc (s : State) : (nextPc s).me.regs.pc = (s.me.regs.pc + 4#64) &&& 0x0000FFFFFFFFFFFC#64 := rfl
@[simp] theorem setPc_others (s : State) (t : Word) : (setPc s t).others = s.others := rfl
@[simp] theorem setPc_agenda (s : State) (t : Word) : (setPc s t).agenda = s.agenda := rfl
@[simp] theorem setPc_tick (s : State) (t : Word) : (setPc s t).tick = s.tick := rfl
@[simp] theorem setPc_ktime (s : State) (t : Word) : (setPc s t).ktime = s.ktime := rfl
@[simp] theorem setPc_mem (s : State) (t : Word) : (setPc s t).mem = s.mem := rfl
@[simp] theorem setPc_win (s : State) (t : Word) : (setPc s t).win = s.win := rfl
@[simp] theorem setPc_bad (s : State) (t : Word) : (setPc s t).bad = s.bad := rfl
@[simp] theorem setPc_retired (s : State) (t : Word) : (setPc s t).retired = s.retired := rfl
@[simp] theorem setPc_errlog (s : State) (t : Word) : (setPc s t).errlog = s.errlog := rfl
@[simp] theorem setPc_cores (s : State) (t : Word) : (setPc s t).cores = s.cores := rfl
@[simp] theorem setPc_parts (s : State) (t : Word) : (setPc s t).parts = s.parts := rfl
@[simp] theorem setPc_monitorDrops (s : State) (t : Word) : (setPc s t).monitorDrops = s.monitorDrops := rfl
@[simp] theorem setPc_monitorEnergy (s : State) (t : Word) : (setPc s t).monitorEnergy = s.monitorEnergy := rfl
@[simp] theorem setPc_links (s : State) (t : Word) : (setPc s t).links = s.links := rfl
@[simp] theorem setPc_vcs (s : State) (t : Word) : (setPc s t).vcs = s.vcs := rfl
@[simp] theorem setPc_dram (s : State) (t : Word) : (setPc s t).dram = s.dram := rfl
@[simp] theorem setPc_grains (s : State) (t : Word) : (setPc s t).grains = s.grains := rfl
@[simp] theorem setPc_l2 (s : State) (t : Word) : (setPc s t).l2 = s.l2 := rfl
@[simp] theorem setPc_net (s : State) (t : Word) : (setPc s t).net = s.net := rfl
@[simp] theorem setPc_used (s : State) (t : Word) : (setPc s t).used = s.used := rfl
@[simp] theorem setPc_decrs (s : State) (t : Word) : (setPc s t).decrs = s.decrs := rfl
@[simp] theorem setPc_refused (s : State) (t : Word) : (setPc s t).refused = s.refused := rfl
@[simp] theorem setPc_saved (s : State) (t : Word) : (setPc s t).saved = s.saved := rfl
@[simp] theorem setPc_winBad (s : State) (t : Word) : (setPc s t).winBad = s.winBad := rfl
@[simp] theorem setPc_vcTurn (s : State) (t : Word) : (setPc s t).vcTurn = s.vcTurn := rfl
@[simp] theorem setPc_pulls (s : State) (t : Word) : (setPc s t).pulls = s.pulls := rfl
@[simp] theorem setPc_mvecInit (s : State) (t : Word) : (setPc s t).mvecInit = s.mvecInit := rfl
@[simp] theorem setPc_boot (s : State) (t : Word) : (setPc s t).boot = s.boot := rfl
@[simp] theorem setPc_module (s : State) (t : Word) : (setPc s t).module = s.module := rfl
@[simp] theorem setPc_modules (s : State) (t : Word) : (setPc s t).modules = s.modules := rfl
@[simp] theorem setPc_routes (s : State) (t : Word) : (setPc s t).routes = s.routes := rfl
@[simp] theorem setPc_trained (s : State) (t : Word) : (setPc s t).trained = s.trained := rfl
@[simp] theorem setPc_gov (s : State) (t : Word) : (setPc s t).gov = s.gov := rfl
@[simp] theorem setPc_epochAt (s : State) (t : Word) : (setPc s t).epochAt = s.epochAt := rfl
@[simp] theorem setPc_host (s : State) (t : Word) : (setPc s t).host = s.host := rfl
@[simp] theorem setPc_me_id (s : State) (t : Word) : (setPc s t).me.id = s.me.id := rfl
@[simp] theorem setPc_me_run (s : State) (t : Word) : (setPc s t).me.run = s.me.run := rfl
@[simp] theorem setPc_me_atVector (s : State) (t : Word) : (setPc s t).me.atVector = s.me.atVector := rfl
@[simp] theorem setPc_me_htab (s : State) (t : Word) : (setPc s t).me.htab = s.me.htab := rfl
@[simp] theorem setPc_me_last (s : State) (t : Word) : (setPc s t).me.last = s.me.last := rfl
@[simp] theorem setPc_me_sys (s : State) (t : Word) : (setPc s t).me.sys = s.me.sys := rfl
@[simp] theorem setPc_me_asyncs (s : State) (t : Word) : (setPc s t).me.asyncs = s.me.asyncs := rfl
@[simp] theorem setPc_me_faults (s : State) (t : Word) : (setPc s t).me.faults = s.me.faults := rfl
@[simp] theorem setPc_me_inbox (s : State) (t : Word) : (setPc s t).me.inbox = s.me.inbox := rfl
@[simp] theorem setPc_me_held (s : State) (t : Word) : (setPc s t).me.held = s.me.held := rfl
@[simp] theorem setPc_me_stalled (s : State) (t : Word) : (setPc s t).me.stalled = s.me.stalled := rfl
@[simp] theorem setPc_me_first (s : State) (t : Word) : (setPc s t).me.first = s.me.first := rfl
@[simp] theorem setPc_me_pinWait (s : State) (t : Word) : (setPc s t).me.pinWait = s.me.pinWait := rfl
@[simp] theorem setPc_me_lateBad (s : State) (t : Word) : (setPc s t).me.lateBad = s.me.lateBad := rfl
@[simp] theorem setPc_me_serial (s : State) (t : Word) : (setPc s t).me.serial = s.me.serial := rfl
@[simp] theorem setPc_me_pend (s : State) (t : Word) : (setPc s t).me.pend = s.me.pend := rfl
@[simp] theorem setPc_me_l1 (s : State) (t : Word) : (setPc s t).me.l1 = s.me.l1 := rfl
@[simp] theorem setPc_me_tlb (s : State) (t : Word) : (setPc s t).me.tlb = s.me.tlb := rfl
@[simp] theorem setPc_me_perf (s : State) (t : Word) : (setPc s t).me.perf = s.me.perf := rfl
@[simp] theorem setPc_me_energy (s : State) (t : Word) : (setPc s t).me.energy = s.me.energy := rfl
@[simp] theorem setPc_me_cyc (s : State) (t : Word) : (setPc s t).me.cyc = s.me.cyc := rfl
@[simp] theorem setPc_me_pairCyc (s : State) (t : Word) : (setPc s t).me.pairCyc = s.me.pairCyc := rfl
@[simp] theorem setPc_me_work (s : State) (t : Word) : (setPc s t).me.work = s.me.work := rfl
@[simp] theorem setPc_me_moved (s : State) (t : Word) : (setPc s t).me.moved = s.me.moved := rfl
@[simp] theorem setPc_me_fresh (s : State) (t : Word) : (setPc s t).me.fresh = s.me.fresh := rfl
@[simp] theorem setPc_me_ramp (s : State) (t : Word) : (setPc s t).me.ramp = s.me.ramp := rfl
@[simp] theorem setPc_me_shareBase (s : State) (t : Word) : (setPc s t).me.shareBase = s.me.shareBase := rfl
@[simp] theorem setPc_me_shareSize (s : State) (t : Word) : (setPc s t).me.shareSize = s.me.shareSize := rfl
@[simp] theorem setPc_me_engAge (s : State) (t : Word) : (setPc s t).me.engAge = s.me.engAge := rfl
@[simp] theorem setPc_me_chans (s : State) (t : Word) : (setPc s t).me.chans = s.me.chans := rfl
@[simp] theorem setPc_me_xq (s : State) (t : Word) : (setPc s t).me.xq = s.me.xq := rfl
@[simp] theorem setPc_me_mx (s : State) (t : Word) : (setPc s t).me.mx = s.me.mx := rfl
@[simp] theorem setPc_me_fab (s : State) (t : Word) : (setPc s t).me.fab = s.me.fab := rfl
@[simp] theorem setPc_regs_g (s : State) (t : Word) : (setPc s t).me.regs.g = s.me.regs.g := rfl
@[simp] theorem setPc_regs_c (s : State) (t : Word) : (setPc s t).me.regs.c = s.me.regs.c := rfl
@[simp] theorem setPc_regs_ks (s : State) (t : Word) : (setPc s t).me.regs.ks = s.me.regs.ks := rfl
@[simp] theorem setPc_regs_pc (s : State) (t : Word) : (setPc s t).me.regs.pc = t := rfl

/-! ## A wait of issue -/

@[simp] theorem hold_others (s : State) : (hold s).others = s.others := rfl
@[simp] theorem hold_agenda (s : State) : (hold s).agenda = s.agenda := rfl
@[simp] theorem hold_tick (s : State) : (hold s).tick = s.tick := rfl
@[simp] theorem hold_ktime (s : State) : (hold s).ktime = s.ktime := rfl
@[simp] theorem hold_mem (s : State) : (hold s).mem = s.mem := rfl
@[simp] theorem hold_win (s : State) : (hold s).win = s.win := rfl
@[simp] theorem hold_bad (s : State) : (hold s).bad = s.bad := rfl
@[simp] theorem hold_retired (s : State) : (hold s).retired = s.retired := rfl
@[simp] theorem hold_errlog (s : State) : (hold s).errlog = s.errlog := rfl
@[simp] theorem hold_cores (s : State) : (hold s).cores = s.cores := rfl
@[simp] theorem hold_parts (s : State) : (hold s).parts = s.parts := rfl
@[simp] theorem hold_monitorDrops (s : State) : (hold s).monitorDrops = s.monitorDrops := rfl
@[simp] theorem hold_monitorEnergy (s : State) : (hold s).monitorEnergy = s.monitorEnergy := rfl
@[simp] theorem hold_links (s : State) : (hold s).links = s.links := rfl
@[simp] theorem hold_vcs (s : State) : (hold s).vcs = s.vcs := rfl
@[simp] theorem hold_dram (s : State) : (hold s).dram = s.dram := rfl
@[simp] theorem hold_grains (s : State) : (hold s).grains = s.grains := rfl
@[simp] theorem hold_l2 (s : State) : (hold s).l2 = s.l2 := rfl
@[simp] theorem hold_net (s : State) : (hold s).net = s.net := rfl
@[simp] theorem hold_used (s : State) : (hold s).used = s.used := rfl
@[simp] theorem hold_decrs (s : State) : (hold s).decrs = s.decrs := rfl
@[simp] theorem hold_refused (s : State) : (hold s).refused = s.refused := rfl
@[simp] theorem hold_saved (s : State) : (hold s).saved = s.saved := rfl
@[simp] theorem hold_winBad (s : State) : (hold s).winBad = s.winBad := rfl
@[simp] theorem hold_vcTurn (s : State) : (hold s).vcTurn = s.vcTurn := rfl
@[simp] theorem hold_pulls (s : State) : (hold s).pulls = s.pulls := rfl
@[simp] theorem hold_mvecInit (s : State) : (hold s).mvecInit = s.mvecInit := rfl
@[simp] theorem hold_boot (s : State) : (hold s).boot = s.boot := rfl
@[simp] theorem hold_module (s : State) : (hold s).module = s.module := rfl
@[simp] theorem hold_modules (s : State) : (hold s).modules = s.modules := rfl
@[simp] theorem hold_routes (s : State) : (hold s).routes = s.routes := rfl
@[simp] theorem hold_trained (s : State) : (hold s).trained = s.trained := rfl
@[simp] theorem hold_gov (s : State) : (hold s).gov = s.gov := rfl
@[simp] theorem hold_epochAt (s : State) : (hold s).epochAt = s.epochAt := rfl
@[simp] theorem hold_host (s : State) : (hold s).host = s.host := rfl
@[simp] theorem hold_me_id (s : State) : (hold s).me.id = s.me.id := rfl
@[simp] theorem hold_me_run (s : State) : (hold s).me.run = s.me.run := rfl
@[simp] theorem hold_me_atVector (s : State) : (hold s).me.atVector = s.me.atVector := rfl
@[simp] theorem hold_me_htab (s : State) : (hold s).me.htab = s.me.htab := rfl
@[simp] theorem hold_me_last (s : State) : (hold s).me.last = s.me.last := rfl
@[simp] theorem hold_me_sys (s : State) : (hold s).me.sys = s.me.sys := rfl
@[simp] theorem hold_me_asyncs (s : State) : (hold s).me.asyncs = s.me.asyncs := rfl
@[simp] theorem hold_me_faults (s : State) : (hold s).me.faults = s.me.faults := rfl
@[simp] theorem hold_me_inbox (s : State) : (hold s).me.inbox = s.me.inbox := rfl
@[simp] theorem hold_me_held (s : State) : (hold s).me.held = s.me.held := rfl
@[simp] theorem hold_me_first (s : State) : (hold s).me.first = s.me.first := rfl
@[simp] theorem hold_me_pinWait (s : State) : (hold s).me.pinWait = s.me.pinWait := rfl
@[simp] theorem hold_me_lateBad (s : State) : (hold s).me.lateBad = s.me.lateBad := rfl
@[simp] theorem hold_me_serial (s : State) : (hold s).me.serial = s.me.serial := rfl
@[simp] theorem hold_me_pend (s : State) : (hold s).me.pend = s.me.pend := rfl
@[simp] theorem hold_me_l1 (s : State) : (hold s).me.l1 = s.me.l1 := rfl
@[simp] theorem hold_me_tlb (s : State) : (hold s).me.tlb = s.me.tlb := rfl
@[simp] theorem hold_me_perf (s : State) : (hold s).me.perf = s.me.perf := rfl
@[simp] theorem hold_me_energy (s : State) : (hold s).me.energy = s.me.energy := rfl
@[simp] theorem hold_me_cyc (s : State) : (hold s).me.cyc = s.me.cyc := rfl
@[simp] theorem hold_me_pairCyc (s : State) : (hold s).me.pairCyc = s.me.pairCyc := rfl
@[simp] theorem hold_me_work (s : State) : (hold s).me.work = s.me.work := rfl
@[simp] theorem hold_me_moved (s : State) : (hold s).me.moved = s.me.moved := rfl
@[simp] theorem hold_me_fresh (s : State) : (hold s).me.fresh = s.me.fresh := rfl
@[simp] theorem hold_me_ramp (s : State) : (hold s).me.ramp = s.me.ramp := rfl
@[simp] theorem hold_me_shareBase (s : State) : (hold s).me.shareBase = s.me.shareBase := rfl
@[simp] theorem hold_me_shareSize (s : State) : (hold s).me.shareSize = s.me.shareSize := rfl
@[simp] theorem hold_me_engAge (s : State) : (hold s).me.engAge = s.me.engAge := rfl
@[simp] theorem hold_me_chans (s : State) : (hold s).me.chans = s.me.chans := rfl
@[simp] theorem hold_me_xq (s : State) : (hold s).me.xq = s.me.xq := rfl
@[simp] theorem hold_me_mx (s : State) : (hold s).me.mx = s.me.mx := rfl
@[simp] theorem hold_me_fab (s : State) : (hold s).me.fab = s.me.fab := rfl
@[simp] theorem hold_me_regs (s : State) : (hold s).me.regs = s.me.regs := rfl
@[simp] theorem hold_me_stalled (s : State) : (hold s).me.stalled = true := rfl

/-! ## Records of cores and partitions -/

@[simp] theorem setCore_me (s : State) (c : CoreId) (r : CoreRec) : (setCore s c r).me = s.me := rfl
@[simp] theorem setCore_others (s : State) (c : CoreId) (r : CoreRec) : (setCore s c r).others = s.others := rfl
@[simp] theorem setCore_agenda (s : State) (c : CoreId) (r : CoreRec) : (setCore s c r).agenda = s.agenda := rfl
@[simp] theorem setCore_tick (s : State) (c : CoreId) (r : CoreRec) : (setCore s c r).tick = s.tick := rfl
@[simp] theorem setCore_ktime (s : State) (c : CoreId) (r : CoreRec) : (setCore s c r).ktime = s.ktime := rfl
@[simp] theorem setCore_mem (s : State) (c : CoreId) (r : CoreRec) : (setCore s c r).mem = s.mem := rfl
@[simp] theorem setCore_win (s : State) (c : CoreId) (r : CoreRec) : (setCore s c r).win = s.win := rfl
@[simp] theorem setCore_bad (s : State) (c : CoreId) (r : CoreRec) : (setCore s c r).bad = s.bad := rfl
@[simp] theorem setCore_retired (s : State) (c : CoreId) (r : CoreRec) : (setCore s c r).retired = s.retired := rfl
@[simp] theorem setCore_errlog (s : State) (c : CoreId) (r : CoreRec) : (setCore s c r).errlog = s.errlog := rfl
@[simp] theorem setCore_parts (s : State) (c : CoreId) (r : CoreRec) : (setCore s c r).parts = s.parts := rfl
@[simp] theorem setCore_monitorDrops (s : State) (c : CoreId) (r : CoreRec) : (setCore s c r).monitorDrops = s.monitorDrops := rfl
@[simp] theorem setCore_monitorEnergy (s : State) (c : CoreId) (r : CoreRec) : (setCore s c r).monitorEnergy = s.monitorEnergy := rfl
@[simp] theorem setCore_links (s : State) (c : CoreId) (r : CoreRec) : (setCore s c r).links = s.links := rfl
@[simp] theorem setCore_vcs (s : State) (c : CoreId) (r : CoreRec) : (setCore s c r).vcs = s.vcs := rfl
@[simp] theorem setCore_dram (s : State) (c : CoreId) (r : CoreRec) : (setCore s c r).dram = s.dram := rfl
@[simp] theorem setCore_grains (s : State) (c : CoreId) (r : CoreRec) : (setCore s c r).grains = s.grains := rfl
@[simp] theorem setCore_l2 (s : State) (c : CoreId) (r : CoreRec) : (setCore s c r).l2 = s.l2 := rfl
@[simp] theorem setCore_net (s : State) (c : CoreId) (r : CoreRec) : (setCore s c r).net = s.net := rfl
@[simp] theorem setCore_used (s : State) (c : CoreId) (r : CoreRec) : (setCore s c r).used = s.used := rfl
@[simp] theorem setCore_decrs (s : State) (c : CoreId) (r : CoreRec) : (setCore s c r).decrs = s.decrs := rfl
@[simp] theorem setCore_refused (s : State) (c : CoreId) (r : CoreRec) : (setCore s c r).refused = s.refused := rfl
@[simp] theorem setCore_saved (s : State) (c : CoreId) (r : CoreRec) : (setCore s c r).saved = s.saved := rfl
@[simp] theorem setCore_winBad (s : State) (c : CoreId) (r : CoreRec) : (setCore s c r).winBad = s.winBad := rfl
@[simp] theorem setCore_vcTurn (s : State) (c : CoreId) (r : CoreRec) : (setCore s c r).vcTurn = s.vcTurn := rfl
@[simp] theorem setCore_pulls (s : State) (c : CoreId) (r : CoreRec) : (setCore s c r).pulls = s.pulls := rfl
@[simp] theorem setCore_mvecInit (s : State) (c : CoreId) (r : CoreRec) : (setCore s c r).mvecInit = s.mvecInit := rfl
@[simp] theorem setCore_boot (s : State) (c : CoreId) (r : CoreRec) : (setCore s c r).boot = s.boot := rfl
@[simp] theorem setCore_module (s : State) (c : CoreId) (r : CoreRec) : (setCore s c r).module = s.module := rfl
@[simp] theorem setCore_modules (s : State) (c : CoreId) (r : CoreRec) : (setCore s c r).modules = s.modules := rfl
@[simp] theorem setCore_routes (s : State) (c : CoreId) (r : CoreRec) : (setCore s c r).routes = s.routes := rfl
@[simp] theorem setCore_trained (s : State) (c : CoreId) (r : CoreRec) : (setCore s c r).trained = s.trained := rfl
@[simp] theorem setCore_gov (s : State) (c : CoreId) (r : CoreRec) : (setCore s c r).gov = s.gov := rfl
@[simp] theorem setCore_epochAt (s : State) (c : CoreId) (r : CoreRec) : (setCore s c r).epochAt = s.epochAt := rfl
@[simp] theorem setCore_host (s : State) (c : CoreId) (r : CoreRec) : (setCore s c r).host = s.host := rfl
@[simp] theorem setCore_cores (s : State) (c : CoreId) (r : CoreRec) : (setCore s c r).cores = tabPut CoreRec.zero s.cores c.toNat r := rfl
@[simp] theorem setMyCore_me (s : State) (r : CoreRec) : (setMyCore s r).me = s.me := rfl
@[simp] theorem setMyCore_others (s : State) (r : CoreRec) : (setMyCore s r).others = s.others := rfl
@[simp] theorem setMyCore_agenda (s : State) (r : CoreRec) : (setMyCore s r).agenda = s.agenda := rfl
@[simp] theorem setMyCore_tick (s : State) (r : CoreRec) : (setMyCore s r).tick = s.tick := rfl
@[simp] theorem setMyCore_ktime (s : State) (r : CoreRec) : (setMyCore s r).ktime = s.ktime := rfl
@[simp] theorem setMyCore_mem (s : State) (r : CoreRec) : (setMyCore s r).mem = s.mem := rfl
@[simp] theorem setMyCore_win (s : State) (r : CoreRec) : (setMyCore s r).win = s.win := rfl
@[simp] theorem setMyCore_bad (s : State) (r : CoreRec) : (setMyCore s r).bad = s.bad := rfl
@[simp] theorem setMyCore_retired (s : State) (r : CoreRec) : (setMyCore s r).retired = s.retired := rfl
@[simp] theorem setMyCore_errlog (s : State) (r : CoreRec) : (setMyCore s r).errlog = s.errlog := rfl
@[simp] theorem setMyCore_parts (s : State) (r : CoreRec) : (setMyCore s r).parts = s.parts := rfl
@[simp] theorem setMyCore_monitorDrops (s : State) (r : CoreRec) : (setMyCore s r).monitorDrops = s.monitorDrops := rfl
@[simp] theorem setMyCore_monitorEnergy (s : State) (r : CoreRec) : (setMyCore s r).monitorEnergy = s.monitorEnergy := rfl
@[simp] theorem setMyCore_links (s : State) (r : CoreRec) : (setMyCore s r).links = s.links := rfl
@[simp] theorem setMyCore_vcs (s : State) (r : CoreRec) : (setMyCore s r).vcs = s.vcs := rfl
@[simp] theorem setMyCore_dram (s : State) (r : CoreRec) : (setMyCore s r).dram = s.dram := rfl
@[simp] theorem setMyCore_grains (s : State) (r : CoreRec) : (setMyCore s r).grains = s.grains := rfl
@[simp] theorem setMyCore_l2 (s : State) (r : CoreRec) : (setMyCore s r).l2 = s.l2 := rfl
@[simp] theorem setMyCore_net (s : State) (r : CoreRec) : (setMyCore s r).net = s.net := rfl
@[simp] theorem setMyCore_used (s : State) (r : CoreRec) : (setMyCore s r).used = s.used := rfl
@[simp] theorem setMyCore_decrs (s : State) (r : CoreRec) : (setMyCore s r).decrs = s.decrs := rfl
@[simp] theorem setMyCore_refused (s : State) (r : CoreRec) : (setMyCore s r).refused = s.refused := rfl
@[simp] theorem setMyCore_saved (s : State) (r : CoreRec) : (setMyCore s r).saved = s.saved := rfl
@[simp] theorem setMyCore_winBad (s : State) (r : CoreRec) : (setMyCore s r).winBad = s.winBad := rfl
@[simp] theorem setMyCore_vcTurn (s : State) (r : CoreRec) : (setMyCore s r).vcTurn = s.vcTurn := rfl
@[simp] theorem setMyCore_pulls (s : State) (r : CoreRec) : (setMyCore s r).pulls = s.pulls := rfl
@[simp] theorem setMyCore_mvecInit (s : State) (r : CoreRec) : (setMyCore s r).mvecInit = s.mvecInit := rfl
@[simp] theorem setMyCore_boot (s : State) (r : CoreRec) : (setMyCore s r).boot = s.boot := rfl
@[simp] theorem setMyCore_module (s : State) (r : CoreRec) : (setMyCore s r).module = s.module := rfl
@[simp] theorem setMyCore_modules (s : State) (r : CoreRec) : (setMyCore s r).modules = s.modules := rfl
@[simp] theorem setMyCore_routes (s : State) (r : CoreRec) : (setMyCore s r).routes = s.routes := rfl
@[simp] theorem setMyCore_trained (s : State) (r : CoreRec) : (setMyCore s r).trained = s.trained := rfl
@[simp] theorem setMyCore_gov (s : State) (r : CoreRec) : (setMyCore s r).gov = s.gov := rfl
@[simp] theorem setMyCore_epochAt (s : State) (r : CoreRec) : (setMyCore s r).epochAt = s.epochAt := rfl
@[simp] theorem setMyCore_host (s : State) (r : CoreRec) : (setMyCore s r).host = s.host := rfl
@[simp] theorem setPart_me (s : State) (p : BitVec 6) (r : PartRec) : (setPart s p r).me = s.me := rfl
@[simp] theorem setPart_others (s : State) (p : BitVec 6) (r : PartRec) : (setPart s p r).others = s.others := rfl
@[simp] theorem setPart_agenda (s : State) (p : BitVec 6) (r : PartRec) : (setPart s p r).agenda = s.agenda := rfl
@[simp] theorem setPart_tick (s : State) (p : BitVec 6) (r : PartRec) : (setPart s p r).tick = s.tick := rfl
@[simp] theorem setPart_ktime (s : State) (p : BitVec 6) (r : PartRec) : (setPart s p r).ktime = s.ktime := rfl
@[simp] theorem setPart_mem (s : State) (p : BitVec 6) (r : PartRec) : (setPart s p r).mem = s.mem := rfl
@[simp] theorem setPart_win (s : State) (p : BitVec 6) (r : PartRec) : (setPart s p r).win = s.win := rfl
@[simp] theorem setPart_bad (s : State) (p : BitVec 6) (r : PartRec) : (setPart s p r).bad = s.bad := rfl
@[simp] theorem setPart_retired (s : State) (p : BitVec 6) (r : PartRec) : (setPart s p r).retired = s.retired := rfl
@[simp] theorem setPart_errlog (s : State) (p : BitVec 6) (r : PartRec) : (setPart s p r).errlog = s.errlog := rfl
@[simp] theorem setPart_cores (s : State) (p : BitVec 6) (r : PartRec) : (setPart s p r).cores = s.cores := rfl
@[simp] theorem setPart_monitorDrops (s : State) (p : BitVec 6) (r : PartRec) : (setPart s p r).monitorDrops = s.monitorDrops := rfl
@[simp] theorem setPart_monitorEnergy (s : State) (p : BitVec 6) (r : PartRec) : (setPart s p r).monitorEnergy = s.monitorEnergy := rfl
@[simp] theorem setPart_links (s : State) (p : BitVec 6) (r : PartRec) : (setPart s p r).links = s.links := rfl
@[simp] theorem setPart_vcs (s : State) (p : BitVec 6) (r : PartRec) : (setPart s p r).vcs = s.vcs := rfl
@[simp] theorem setPart_dram (s : State) (p : BitVec 6) (r : PartRec) : (setPart s p r).dram = s.dram := rfl
@[simp] theorem setPart_grains (s : State) (p : BitVec 6) (r : PartRec) : (setPart s p r).grains = s.grains := rfl
@[simp] theorem setPart_l2 (s : State) (p : BitVec 6) (r : PartRec) : (setPart s p r).l2 = s.l2 := rfl
@[simp] theorem setPart_net (s : State) (p : BitVec 6) (r : PartRec) : (setPart s p r).net = s.net := rfl
@[simp] theorem setPart_used (s : State) (p : BitVec 6) (r : PartRec) : (setPart s p r).used = s.used := rfl
@[simp] theorem setPart_decrs (s : State) (p : BitVec 6) (r : PartRec) : (setPart s p r).decrs = s.decrs := rfl
@[simp] theorem setPart_refused (s : State) (p : BitVec 6) (r : PartRec) : (setPart s p r).refused = s.refused := rfl
@[simp] theorem setPart_saved (s : State) (p : BitVec 6) (r : PartRec) : (setPart s p r).saved = s.saved := rfl
@[simp] theorem setPart_winBad (s : State) (p : BitVec 6) (r : PartRec) : (setPart s p r).winBad = s.winBad := rfl
@[simp] theorem setPart_vcTurn (s : State) (p : BitVec 6) (r : PartRec) : (setPart s p r).vcTurn = s.vcTurn := rfl
@[simp] theorem setPart_pulls (s : State) (p : BitVec 6) (r : PartRec) : (setPart s p r).pulls = s.pulls := rfl
@[simp] theorem setPart_mvecInit (s : State) (p : BitVec 6) (r : PartRec) : (setPart s p r).mvecInit = s.mvecInit := rfl
@[simp] theorem setPart_boot (s : State) (p : BitVec 6) (r : PartRec) : (setPart s p r).boot = s.boot := rfl
@[simp] theorem setPart_module (s : State) (p : BitVec 6) (r : PartRec) : (setPart s p r).module = s.module := rfl
@[simp] theorem setPart_modules (s : State) (p : BitVec 6) (r : PartRec) : (setPart s p r).modules = s.modules := rfl
@[simp] theorem setPart_routes (s : State) (p : BitVec 6) (r : PartRec) : (setPart s p r).routes = s.routes := rfl
@[simp] theorem setPart_trained (s : State) (p : BitVec 6) (r : PartRec) : (setPart s p r).trained = s.trained := rfl
@[simp] theorem setPart_gov (s : State) (p : BitVec 6) (r : PartRec) : (setPart s p r).gov = s.gov := rfl
@[simp] theorem setPart_epochAt (s : State) (p : BitVec 6) (r : PartRec) : (setPart s p r).epochAt = s.epochAt := rfl
@[simp] theorem setPart_host (s : State) (p : BitVec 6) (r : PartRec) : (setPart s p r).host = s.host := rfl
@[simp] theorem setOwner_me (s : State) (p : BitVec 7) (r : PartRec) : (setOwner s p r).me = s.me := rfl
@[simp] theorem setOwner_others (s : State) (p : BitVec 7) (r : PartRec) : (setOwner s p r).others = s.others := rfl
@[simp] theorem setOwner_agenda (s : State) (p : BitVec 7) (r : PartRec) : (setOwner s p r).agenda = s.agenda := rfl
@[simp] theorem setOwner_tick (s : State) (p : BitVec 7) (r : PartRec) : (setOwner s p r).tick = s.tick := rfl
@[simp] theorem setOwner_ktime (s : State) (p : BitVec 7) (r : PartRec) : (setOwner s p r).ktime = s.ktime := rfl
@[simp] theorem setOwner_mem (s : State) (p : BitVec 7) (r : PartRec) : (setOwner s p r).mem = s.mem := rfl
@[simp] theorem setOwner_win (s : State) (p : BitVec 7) (r : PartRec) : (setOwner s p r).win = s.win := rfl
@[simp] theorem setOwner_bad (s : State) (p : BitVec 7) (r : PartRec) : (setOwner s p r).bad = s.bad := rfl
@[simp] theorem setOwner_retired (s : State) (p : BitVec 7) (r : PartRec) : (setOwner s p r).retired = s.retired := rfl
@[simp] theorem setOwner_errlog (s : State) (p : BitVec 7) (r : PartRec) : (setOwner s p r).errlog = s.errlog := rfl
@[simp] theorem setOwner_cores (s : State) (p : BitVec 7) (r : PartRec) : (setOwner s p r).cores = s.cores := rfl
@[simp] theorem setOwner_monitorDrops (s : State) (p : BitVec 7) (r : PartRec) : (setOwner s p r).monitorDrops = s.monitorDrops := rfl
@[simp] theorem setOwner_monitorEnergy (s : State) (p : BitVec 7) (r : PartRec) : (setOwner s p r).monitorEnergy = s.monitorEnergy := rfl
@[simp] theorem setOwner_links (s : State) (p : BitVec 7) (r : PartRec) : (setOwner s p r).links = s.links := rfl
@[simp] theorem setOwner_vcs (s : State) (p : BitVec 7) (r : PartRec) : (setOwner s p r).vcs = s.vcs := rfl
@[simp] theorem setOwner_dram (s : State) (p : BitVec 7) (r : PartRec) : (setOwner s p r).dram = s.dram := rfl
@[simp] theorem setOwner_grains (s : State) (p : BitVec 7) (r : PartRec) : (setOwner s p r).grains = s.grains := rfl
@[simp] theorem setOwner_l2 (s : State) (p : BitVec 7) (r : PartRec) : (setOwner s p r).l2 = s.l2 := rfl
@[simp] theorem setOwner_net (s : State) (p : BitVec 7) (r : PartRec) : (setOwner s p r).net = s.net := rfl
@[simp] theorem setOwner_used (s : State) (p : BitVec 7) (r : PartRec) : (setOwner s p r).used = s.used := rfl
@[simp] theorem setOwner_decrs (s : State) (p : BitVec 7) (r : PartRec) : (setOwner s p r).decrs = s.decrs := rfl
@[simp] theorem setOwner_refused (s : State) (p : BitVec 7) (r : PartRec) : (setOwner s p r).refused = s.refused := rfl
@[simp] theorem setOwner_saved (s : State) (p : BitVec 7) (r : PartRec) : (setOwner s p r).saved = s.saved := rfl
@[simp] theorem setOwner_winBad (s : State) (p : BitVec 7) (r : PartRec) : (setOwner s p r).winBad = s.winBad := rfl
@[simp] theorem setOwner_vcTurn (s : State) (p : BitVec 7) (r : PartRec) : (setOwner s p r).vcTurn = s.vcTurn := rfl
@[simp] theorem setOwner_pulls (s : State) (p : BitVec 7) (r : PartRec) : (setOwner s p r).pulls = s.pulls := rfl
@[simp] theorem setOwner_mvecInit (s : State) (p : BitVec 7) (r : PartRec) : (setOwner s p r).mvecInit = s.mvecInit := rfl
@[simp] theorem setOwner_boot (s : State) (p : BitVec 7) (r : PartRec) : (setOwner s p r).boot = s.boot := rfl
@[simp] theorem setOwner_module (s : State) (p : BitVec 7) (r : PartRec) : (setOwner s p r).module = s.module := rfl
@[simp] theorem setOwner_modules (s : State) (p : BitVec 7) (r : PartRec) : (setOwner s p r).modules = s.modules := rfl
@[simp] theorem setOwner_routes (s : State) (p : BitVec 7) (r : PartRec) : (setOwner s p r).routes = s.routes := rfl
@[simp] theorem setOwner_trained (s : State) (p : BitVec 7) (r : PartRec) : (setOwner s p r).trained = s.trained := rfl
@[simp] theorem setOwner_gov (s : State) (p : BitVec 7) (r : PartRec) : (setOwner s p r).gov = s.gov := rfl
@[simp] theorem setOwner_epochAt (s : State) (p : BitVec 7) (r : PartRec) : (setOwner s p r).epochAt = s.epochAt := rfl
@[simp] theorem setOwner_host (s : State) (p : BitVec 7) (r : PartRec) : (setOwner s p r).host = s.host := rfl

/-! ## Counted events, lines, window bytes and registrations -/

@[simp] theorem countEvent_others (s : State) (ev : BitVec 8) (n : Nat) : (countEvent s ev n).others = s.others := rfl
@[simp] theorem countEvent_agenda (s : State) (ev : BitVec 8) (n : Nat) : (countEvent s ev n).agenda = s.agenda := rfl
@[simp] theorem countEvent_tick (s : State) (ev : BitVec 8) (n : Nat) : (countEvent s ev n).tick = s.tick := rfl
@[simp] theorem countEvent_ktime (s : State) (ev : BitVec 8) (n : Nat) : (countEvent s ev n).ktime = s.ktime := rfl
@[simp] theorem countEvent_mem (s : State) (ev : BitVec 8) (n : Nat) : (countEvent s ev n).mem = s.mem := rfl
@[simp] theorem countEvent_win (s : State) (ev : BitVec 8) (n : Nat) : (countEvent s ev n).win = s.win := rfl
@[simp] theorem countEvent_bad (s : State) (ev : BitVec 8) (n : Nat) : (countEvent s ev n).bad = s.bad := rfl
@[simp] theorem countEvent_retired (s : State) (ev : BitVec 8) (n : Nat) : (countEvent s ev n).retired = s.retired := rfl
@[simp] theorem countEvent_errlog (s : State) (ev : BitVec 8) (n : Nat) : (countEvent s ev n).errlog = s.errlog := rfl
@[simp] theorem countEvent_cores (s : State) (ev : BitVec 8) (n : Nat) : (countEvent s ev n).cores = s.cores := rfl
@[simp] theorem countEvent_parts (s : State) (ev : BitVec 8) (n : Nat) : (countEvent s ev n).parts = s.parts := rfl
@[simp] theorem countEvent_monitorDrops (s : State) (ev : BitVec 8) (n : Nat) : (countEvent s ev n).monitorDrops = s.monitorDrops := rfl
@[simp] theorem countEvent_monitorEnergy (s : State) (ev : BitVec 8) (n : Nat) : (countEvent s ev n).monitorEnergy = s.monitorEnergy := rfl
@[simp] theorem countEvent_links (s : State) (ev : BitVec 8) (n : Nat) : (countEvent s ev n).links = s.links := rfl
@[simp] theorem countEvent_vcs (s : State) (ev : BitVec 8) (n : Nat) : (countEvent s ev n).vcs = s.vcs := rfl
@[simp] theorem countEvent_dram (s : State) (ev : BitVec 8) (n : Nat) : (countEvent s ev n).dram = s.dram := rfl
@[simp] theorem countEvent_grains (s : State) (ev : BitVec 8) (n : Nat) : (countEvent s ev n).grains = s.grains := rfl
@[simp] theorem countEvent_l2 (s : State) (ev : BitVec 8) (n : Nat) : (countEvent s ev n).l2 = s.l2 := rfl
@[simp] theorem countEvent_net (s : State) (ev : BitVec 8) (n : Nat) : (countEvent s ev n).net = s.net := rfl
@[simp] theorem countEvent_used (s : State) (ev : BitVec 8) (n : Nat) : (countEvent s ev n).used = s.used := rfl
@[simp] theorem countEvent_decrs (s : State) (ev : BitVec 8) (n : Nat) : (countEvent s ev n).decrs = s.decrs := rfl
@[simp] theorem countEvent_refused (s : State) (ev : BitVec 8) (n : Nat) : (countEvent s ev n).refused = s.refused := rfl
@[simp] theorem countEvent_saved (s : State) (ev : BitVec 8) (n : Nat) : (countEvent s ev n).saved = s.saved := rfl
@[simp] theorem countEvent_winBad (s : State) (ev : BitVec 8) (n : Nat) : (countEvent s ev n).winBad = s.winBad := rfl
@[simp] theorem countEvent_vcTurn (s : State) (ev : BitVec 8) (n : Nat) : (countEvent s ev n).vcTurn = s.vcTurn := rfl
@[simp] theorem countEvent_pulls (s : State) (ev : BitVec 8) (n : Nat) : (countEvent s ev n).pulls = s.pulls := rfl
@[simp] theorem countEvent_mvecInit (s : State) (ev : BitVec 8) (n : Nat) : (countEvent s ev n).mvecInit = s.mvecInit := rfl
@[simp] theorem countEvent_boot (s : State) (ev : BitVec 8) (n : Nat) : (countEvent s ev n).boot = s.boot := rfl
@[simp] theorem countEvent_module (s : State) (ev : BitVec 8) (n : Nat) : (countEvent s ev n).module = s.module := rfl
@[simp] theorem countEvent_modules (s : State) (ev : BitVec 8) (n : Nat) : (countEvent s ev n).modules = s.modules := rfl
@[simp] theorem countEvent_routes (s : State) (ev : BitVec 8) (n : Nat) : (countEvent s ev n).routes = s.routes := rfl
@[simp] theorem countEvent_trained (s : State) (ev : BitVec 8) (n : Nat) : (countEvent s ev n).trained = s.trained := rfl
@[simp] theorem countEvent_gov (s : State) (ev : BitVec 8) (n : Nat) : (countEvent s ev n).gov = s.gov := rfl
@[simp] theorem countEvent_epochAt (s : State) (ev : BitVec 8) (n : Nat) : (countEvent s ev n).epochAt = s.epochAt := rfl
@[simp] theorem countEvent_host (s : State) (ev : BitVec 8) (n : Nat) : (countEvent s ev n).host = s.host := rfl
@[simp] theorem countEvent_me_id (s : State) (ev : BitVec 8) (n : Nat) : (countEvent s ev n).me.id = s.me.id := rfl
@[simp] theorem countEvent_me_regs (s : State) (ev : BitVec 8) (n : Nat) : (countEvent s ev n).me.regs = s.me.regs := rfl
@[simp] theorem countEvent_me_run (s : State) (ev : BitVec 8) (n : Nat) : (countEvent s ev n).me.run = s.me.run := rfl
@[simp] theorem countEvent_me_atVector (s : State) (ev : BitVec 8) (n : Nat) : (countEvent s ev n).me.atVector = s.me.atVector := rfl
@[simp] theorem countEvent_me_htab (s : State) (ev : BitVec 8) (n : Nat) : (countEvent s ev n).me.htab = s.me.htab := rfl
@[simp] theorem countEvent_me_last (s : State) (ev : BitVec 8) (n : Nat) : (countEvent s ev n).me.last = s.me.last := rfl
@[simp] theorem countEvent_me_sys (s : State) (ev : BitVec 8) (n : Nat) : (countEvent s ev n).me.sys = s.me.sys := rfl
@[simp] theorem countEvent_me_asyncs (s : State) (ev : BitVec 8) (n : Nat) : (countEvent s ev n).me.asyncs = s.me.asyncs := rfl
@[simp] theorem countEvent_me_faults (s : State) (ev : BitVec 8) (n : Nat) : (countEvent s ev n).me.faults = s.me.faults := rfl
@[simp] theorem countEvent_me_inbox (s : State) (ev : BitVec 8) (n : Nat) : (countEvent s ev n).me.inbox = s.me.inbox := rfl
@[simp] theorem countEvent_me_held (s : State) (ev : BitVec 8) (n : Nat) : (countEvent s ev n).me.held = s.me.held := rfl
@[simp] theorem countEvent_me_stalled (s : State) (ev : BitVec 8) (n : Nat) : (countEvent s ev n).me.stalled = s.me.stalled := rfl
@[simp] theorem countEvent_me_first (s : State) (ev : BitVec 8) (n : Nat) : (countEvent s ev n).me.first = s.me.first := rfl
@[simp] theorem countEvent_me_pinWait (s : State) (ev : BitVec 8) (n : Nat) : (countEvent s ev n).me.pinWait = s.me.pinWait := rfl
@[simp] theorem countEvent_me_lateBad (s : State) (ev : BitVec 8) (n : Nat) : (countEvent s ev n).me.lateBad = s.me.lateBad := rfl
@[simp] theorem countEvent_me_serial (s : State) (ev : BitVec 8) (n : Nat) : (countEvent s ev n).me.serial = s.me.serial := rfl
@[simp] theorem countEvent_me_pend (s : State) (ev : BitVec 8) (n : Nat) : (countEvent s ev n).me.pend = s.me.pend := rfl
@[simp] theorem countEvent_me_l1 (s : State) (ev : BitVec 8) (n : Nat) : (countEvent s ev n).me.l1 = s.me.l1 := rfl
@[simp] theorem countEvent_me_tlb (s : State) (ev : BitVec 8) (n : Nat) : (countEvent s ev n).me.tlb = s.me.tlb := rfl
@[simp] theorem countEvent_me_energy (s : State) (ev : BitVec 8) (n : Nat) : (countEvent s ev n).me.energy = s.me.energy := rfl
@[simp] theorem countEvent_me_cyc (s : State) (ev : BitVec 8) (n : Nat) : (countEvent s ev n).me.cyc = s.me.cyc := rfl
@[simp] theorem countEvent_me_pairCyc (s : State) (ev : BitVec 8) (n : Nat) : (countEvent s ev n).me.pairCyc = s.me.pairCyc := rfl
@[simp] theorem countEvent_me_work (s : State) (ev : BitVec 8) (n : Nat) : (countEvent s ev n).me.work = s.me.work := rfl
@[simp] theorem countEvent_me_moved (s : State) (ev : BitVec 8) (n : Nat) : (countEvent s ev n).me.moved = s.me.moved := rfl
@[simp] theorem countEvent_me_fresh (s : State) (ev : BitVec 8) (n : Nat) : (countEvent s ev n).me.fresh = s.me.fresh := rfl
@[simp] theorem countEvent_me_ramp (s : State) (ev : BitVec 8) (n : Nat) : (countEvent s ev n).me.ramp = s.me.ramp := rfl
@[simp] theorem countEvent_me_shareBase (s : State) (ev : BitVec 8) (n : Nat) : (countEvent s ev n).me.shareBase = s.me.shareBase := rfl
@[simp] theorem countEvent_me_shareSize (s : State) (ev : BitVec 8) (n : Nat) : (countEvent s ev n).me.shareSize = s.me.shareSize := rfl
@[simp] theorem countEvent_me_engAge (s : State) (ev : BitVec 8) (n : Nat) : (countEvent s ev n).me.engAge = s.me.engAge := rfl
@[simp] theorem countEvent_me_chans (s : State) (ev : BitVec 8) (n : Nat) : (countEvent s ev n).me.chans = s.me.chans := rfl
@[simp] theorem countEvent_me_xq (s : State) (ev : BitVec 8) (n : Nat) : (countEvent s ev n).me.xq = s.me.xq := rfl
@[simp] theorem countEvent_me_mx (s : State) (ev : BitVec 8) (n : Nat) : (countEvent s ev n).me.mx = s.me.mx := rfl
@[simp] theorem countEvent_me_fab (s : State) (ev : BitVec 8) (n : Nat) : (countEvent s ev n).me.fab = s.me.fab := rfl
@[simp] theorem repairLine_me (s : State) (num : Nat) : (repairLine s num).me = s.me := rfl
@[simp] theorem repairLine_others (s : State) (num : Nat) : (repairLine s num).others = s.others := rfl
@[simp] theorem repairLine_agenda (s : State) (num : Nat) : (repairLine s num).agenda = s.agenda := rfl
@[simp] theorem repairLine_tick (s : State) (num : Nat) : (repairLine s num).tick = s.tick := rfl
@[simp] theorem repairLine_ktime (s : State) (num : Nat) : (repairLine s num).ktime = s.ktime := rfl
@[simp] theorem repairLine_mem (s : State) (num : Nat) : (repairLine s num).mem = s.mem := rfl
@[simp] theorem repairLine_win (s : State) (num : Nat) : (repairLine s num).win = s.win := rfl
@[simp] theorem repairLine_errlog (s : State) (num : Nat) : (repairLine s num).errlog = s.errlog := rfl
@[simp] theorem repairLine_cores (s : State) (num : Nat) : (repairLine s num).cores = s.cores := rfl
@[simp] theorem repairLine_parts (s : State) (num : Nat) : (repairLine s num).parts = s.parts := rfl
@[simp] theorem repairLine_monitorDrops (s : State) (num : Nat) : (repairLine s num).monitorDrops = s.monitorDrops := rfl
@[simp] theorem repairLine_monitorEnergy (s : State) (num : Nat) : (repairLine s num).monitorEnergy = s.monitorEnergy := rfl
@[simp] theorem repairLine_links (s : State) (num : Nat) : (repairLine s num).links = s.links := rfl
@[simp] theorem repairLine_vcs (s : State) (num : Nat) : (repairLine s num).vcs = s.vcs := rfl
@[simp] theorem repairLine_dram (s : State) (num : Nat) : (repairLine s num).dram = s.dram := rfl
@[simp] theorem repairLine_grains (s : State) (num : Nat) : (repairLine s num).grains = s.grains := rfl
@[simp] theorem repairLine_l2 (s : State) (num : Nat) : (repairLine s num).l2 = s.l2 := rfl
@[simp] theorem repairLine_net (s : State) (num : Nat) : (repairLine s num).net = s.net := rfl
@[simp] theorem repairLine_used (s : State) (num : Nat) : (repairLine s num).used = s.used := rfl
@[simp] theorem repairLine_decrs (s : State) (num : Nat) : (repairLine s num).decrs = s.decrs := rfl
@[simp] theorem repairLine_refused (s : State) (num : Nat) : (repairLine s num).refused = s.refused := rfl
@[simp] theorem repairLine_saved (s : State) (num : Nat) : (repairLine s num).saved = s.saved := rfl
@[simp] theorem repairLine_winBad (s : State) (num : Nat) : (repairLine s num).winBad = s.winBad := rfl
@[simp] theorem repairLine_vcTurn (s : State) (num : Nat) : (repairLine s num).vcTurn = s.vcTurn := rfl
@[simp] theorem repairLine_pulls (s : State) (num : Nat) : (repairLine s num).pulls = s.pulls := rfl
@[simp] theorem repairLine_mvecInit (s : State) (num : Nat) : (repairLine s num).mvecInit = s.mvecInit := rfl
@[simp] theorem repairLine_boot (s : State) (num : Nat) : (repairLine s num).boot = s.boot := rfl
@[simp] theorem repairLine_module (s : State) (num : Nat) : (repairLine s num).module = s.module := rfl
@[simp] theorem repairLine_modules (s : State) (num : Nat) : (repairLine s num).modules = s.modules := rfl
@[simp] theorem repairLine_routes (s : State) (num : Nat) : (repairLine s num).routes = s.routes := rfl
@[simp] theorem repairLine_trained (s : State) (num : Nat) : (repairLine s num).trained = s.trained := rfl
@[simp] theorem repairLine_gov (s : State) (num : Nat) : (repairLine s num).gov = s.gov := rfl
@[simp] theorem repairLine_epochAt (s : State) (num : Nat) : (repairLine s num).epochAt = s.epochAt := rfl
@[simp] theorem repairLine_host (s : State) (num : Nat) : (repairLine s num).host = s.host := rfl
@[simp] theorem winPut_me (s : State) (core : CoreId) (a n v : Nat) : (winPut s core a n v).me = s.me := rfl
@[simp] theorem winPut_others (s : State) (core : CoreId) (a n v : Nat) : (winPut s core a n v).others = s.others := rfl
@[simp] theorem winPut_agenda (s : State) (core : CoreId) (a n v : Nat) : (winPut s core a n v).agenda = s.agenda := rfl
@[simp] theorem winPut_tick (s : State) (core : CoreId) (a n v : Nat) : (winPut s core a n v).tick = s.tick := rfl
@[simp] theorem winPut_ktime (s : State) (core : CoreId) (a n v : Nat) : (winPut s core a n v).ktime = s.ktime := rfl
@[simp] theorem winPut_mem (s : State) (core : CoreId) (a n v : Nat) : (winPut s core a n v).mem = s.mem := rfl
@[simp] theorem winPut_bad (s : State) (core : CoreId) (a n v : Nat) : (winPut s core a n v).bad = s.bad := rfl
@[simp] theorem winPut_retired (s : State) (core : CoreId) (a n v : Nat) : (winPut s core a n v).retired = s.retired := rfl
@[simp] theorem winPut_errlog (s : State) (core : CoreId) (a n v : Nat) : (winPut s core a n v).errlog = s.errlog := rfl
@[simp] theorem winPut_cores (s : State) (core : CoreId) (a n v : Nat) : (winPut s core a n v).cores = s.cores := rfl
@[simp] theorem winPut_parts (s : State) (core : CoreId) (a n v : Nat) : (winPut s core a n v).parts = s.parts := rfl
@[simp] theorem winPut_monitorDrops (s : State) (core : CoreId) (a n v : Nat) : (winPut s core a n v).monitorDrops = s.monitorDrops := rfl
@[simp] theorem winPut_monitorEnergy (s : State) (core : CoreId) (a n v : Nat) : (winPut s core a n v).monitorEnergy = s.monitorEnergy := rfl
@[simp] theorem winPut_links (s : State) (core : CoreId) (a n v : Nat) : (winPut s core a n v).links = s.links := rfl
@[simp] theorem winPut_vcs (s : State) (core : CoreId) (a n v : Nat) : (winPut s core a n v).vcs = s.vcs := rfl
@[simp] theorem winPut_dram (s : State) (core : CoreId) (a n v : Nat) : (winPut s core a n v).dram = s.dram := rfl
@[simp] theorem winPut_grains (s : State) (core : CoreId) (a n v : Nat) : (winPut s core a n v).grains = s.grains := rfl
@[simp] theorem winPut_l2 (s : State) (core : CoreId) (a n v : Nat) : (winPut s core a n v).l2 = s.l2 := rfl
@[simp] theorem winPut_net (s : State) (core : CoreId) (a n v : Nat) : (winPut s core a n v).net = s.net := rfl
@[simp] theorem winPut_used (s : State) (core : CoreId) (a n v : Nat) : (winPut s core a n v).used = s.used := rfl
@[simp] theorem winPut_decrs (s : State) (core : CoreId) (a n v : Nat) : (winPut s core a n v).decrs = s.decrs := rfl
@[simp] theorem winPut_refused (s : State) (core : CoreId) (a n v : Nat) : (winPut s core a n v).refused = s.refused := rfl
@[simp] theorem winPut_saved (s : State) (core : CoreId) (a n v : Nat) : (winPut s core a n v).saved = s.saved := rfl
@[simp] theorem winPut_vcTurn (s : State) (core : CoreId) (a n v : Nat) : (winPut s core a n v).vcTurn = s.vcTurn := rfl
@[simp] theorem winPut_pulls (s : State) (core : CoreId) (a n v : Nat) : (winPut s core a n v).pulls = s.pulls := rfl
@[simp] theorem winPut_mvecInit (s : State) (core : CoreId) (a n v : Nat) : (winPut s core a n v).mvecInit = s.mvecInit := rfl
@[simp] theorem winPut_boot (s : State) (core : CoreId) (a n v : Nat) : (winPut s core a n v).boot = s.boot := rfl
@[simp] theorem winPut_module (s : State) (core : CoreId) (a n v : Nat) : (winPut s core a n v).module = s.module := rfl
@[simp] theorem winPut_modules (s : State) (core : CoreId) (a n v : Nat) : (winPut s core a n v).modules = s.modules := rfl
@[simp] theorem winPut_routes (s : State) (core : CoreId) (a n v : Nat) : (winPut s core a n v).routes = s.routes := rfl
@[simp] theorem winPut_trained (s : State) (core : CoreId) (a n v : Nat) : (winPut s core a n v).trained = s.trained := rfl
@[simp] theorem winPut_gov (s : State) (core : CoreId) (a n v : Nat) : (winPut s core a n v).gov = s.gov := rfl
@[simp] theorem winPut_epochAt (s : State) (core : CoreId) (a n v : Nat) : (winPut s core a n v).epochAt = s.epochAt := rfl
@[simp] theorem winPut_host (s : State) (core : CoreId) (a n v : Nat) : (winPut s core a n v).host = s.host := rfl
@[simp] theorem register1_me (s : State) (g : Nat) (w p : Bool) : (register1 s g w p).me = s.me := rfl
@[simp] theorem register1_others (s : State) (g : Nat) (w p : Bool) : (register1 s g w p).others = s.others := rfl
@[simp] theorem register1_agenda (s : State) (g : Nat) (w p : Bool) : (register1 s g w p).agenda = s.agenda := rfl
@[simp] theorem register1_tick (s : State) (g : Nat) (w p : Bool) : (register1 s g w p).tick = s.tick := rfl
@[simp] theorem register1_ktime (s : State) (g : Nat) (w p : Bool) : (register1 s g w p).ktime = s.ktime := rfl
@[simp] theorem register1_mem (s : State) (g : Nat) (w p : Bool) : (register1 s g w p).mem = s.mem := rfl
@[simp] theorem register1_win (s : State) (g : Nat) (w p : Bool) : (register1 s g w p).win = s.win := rfl
@[simp] theorem register1_bad (s : State) (g : Nat) (w p : Bool) : (register1 s g w p).bad = s.bad := rfl
@[simp] theorem register1_retired (s : State) (g : Nat) (w p : Bool) : (register1 s g w p).retired = s.retired := rfl
@[simp] theorem register1_errlog (s : State) (g : Nat) (w p : Bool) : (register1 s g w p).errlog = s.errlog := rfl
@[simp] theorem register1_cores (s : State) (g : Nat) (w p : Bool) : (register1 s g w p).cores = s.cores := rfl
@[simp] theorem register1_parts (s : State) (g : Nat) (w p : Bool) : (register1 s g w p).parts = s.parts := rfl
@[simp] theorem register1_monitorDrops (s : State) (g : Nat) (w p : Bool) : (register1 s g w p).monitorDrops = s.monitorDrops := rfl
@[simp] theorem register1_monitorEnergy (s : State) (g : Nat) (w p : Bool) : (register1 s g w p).monitorEnergy = s.monitorEnergy := rfl
@[simp] theorem register1_links (s : State) (g : Nat) (w p : Bool) : (register1 s g w p).links = s.links := rfl
@[simp] theorem register1_vcs (s : State) (g : Nat) (w p : Bool) : (register1 s g w p).vcs = s.vcs := rfl
@[simp] theorem register1_dram (s : State) (g : Nat) (w p : Bool) : (register1 s g w p).dram = s.dram := rfl
@[simp] theorem register1_l2 (s : State) (g : Nat) (w p : Bool) : (register1 s g w p).l2 = s.l2 := rfl
@[simp] theorem register1_net (s : State) (g : Nat) (w p : Bool) : (register1 s g w p).net = s.net := rfl
@[simp] theorem register1_used (s : State) (g : Nat) (w p : Bool) : (register1 s g w p).used = s.used := rfl
@[simp] theorem register1_decrs (s : State) (g : Nat) (w p : Bool) : (register1 s g w p).decrs = s.decrs := rfl
@[simp] theorem register1_refused (s : State) (g : Nat) (w p : Bool) : (register1 s g w p).refused = s.refused := rfl
@[simp] theorem register1_saved (s : State) (g : Nat) (w p : Bool) : (register1 s g w p).saved = s.saved := rfl
@[simp] theorem register1_winBad (s : State) (g : Nat) (w p : Bool) : (register1 s g w p).winBad = s.winBad := rfl
@[simp] theorem register1_vcTurn (s : State) (g : Nat) (w p : Bool) : (register1 s g w p).vcTurn = s.vcTurn := rfl
@[simp] theorem register1_pulls (s : State) (g : Nat) (w p : Bool) : (register1 s g w p).pulls = s.pulls := rfl
@[simp] theorem register1_mvecInit (s : State) (g : Nat) (w p : Bool) : (register1 s g w p).mvecInit = s.mvecInit := rfl
@[simp] theorem register1_boot (s : State) (g : Nat) (w p : Bool) : (register1 s g w p).boot = s.boot := rfl
@[simp] theorem register1_module (s : State) (g : Nat) (w p : Bool) : (register1 s g w p).module = s.module := rfl
@[simp] theorem register1_modules (s : State) (g : Nat) (w p : Bool) : (register1 s g w p).modules = s.modules := rfl
@[simp] theorem register1_routes (s : State) (g : Nat) (w p : Bool) : (register1 s g w p).routes = s.routes := rfl
@[simp] theorem register1_trained (s : State) (g : Nat) (w p : Bool) : (register1 s g w p).trained = s.trained := rfl
@[simp] theorem register1_gov (s : State) (g : Nat) (w p : Bool) : (register1 s g w p).gov = s.gov := rfl
@[simp] theorem register1_epochAt (s : State) (g : Nat) (w p : Bool) : (register1 s g w p).epochAt = s.epochAt := rfl
@[simp] theorem register1_host (s : State) (g : Nat) (w p : Bool) : (register1 s g w p).host = s.host := rfl
@[simp] theorem closeGrains_me (s : State) (e : BitVec 5) (u sc : Nat) : (closeGrains s e u sc).me = s.me := rfl
@[simp] theorem closeGrains_others (s : State) (e : BitVec 5) (u sc : Nat) : (closeGrains s e u sc).others = s.others := rfl
@[simp] theorem closeGrains_agenda (s : State) (e : BitVec 5) (u sc : Nat) : (closeGrains s e u sc).agenda = s.agenda := rfl
@[simp] theorem closeGrains_tick (s : State) (e : BitVec 5) (u sc : Nat) : (closeGrains s e u sc).tick = s.tick := rfl
@[simp] theorem closeGrains_ktime (s : State) (e : BitVec 5) (u sc : Nat) : (closeGrains s e u sc).ktime = s.ktime := rfl
@[simp] theorem closeGrains_mem (s : State) (e : BitVec 5) (u sc : Nat) : (closeGrains s e u sc).mem = s.mem := rfl
@[simp] theorem closeGrains_win (s : State) (e : BitVec 5) (u sc : Nat) : (closeGrains s e u sc).win = s.win := rfl
@[simp] theorem closeGrains_bad (s : State) (e : BitVec 5) (u sc : Nat) : (closeGrains s e u sc).bad = s.bad := rfl
@[simp] theorem closeGrains_retired (s : State) (e : BitVec 5) (u sc : Nat) : (closeGrains s e u sc).retired = s.retired := rfl
@[simp] theorem closeGrains_errlog (s : State) (e : BitVec 5) (u sc : Nat) : (closeGrains s e u sc).errlog = s.errlog := rfl
@[simp] theorem closeGrains_cores (s : State) (e : BitVec 5) (u sc : Nat) : (closeGrains s e u sc).cores = s.cores := rfl
@[simp] theorem closeGrains_parts (s : State) (e : BitVec 5) (u sc : Nat) : (closeGrains s e u sc).parts = s.parts := rfl
@[simp] theorem closeGrains_monitorDrops (s : State) (e : BitVec 5) (u sc : Nat) : (closeGrains s e u sc).monitorDrops = s.monitorDrops := rfl
@[simp] theorem closeGrains_monitorEnergy (s : State) (e : BitVec 5) (u sc : Nat) : (closeGrains s e u sc).monitorEnergy = s.monitorEnergy := rfl
@[simp] theorem closeGrains_links (s : State) (e : BitVec 5) (u sc : Nat) : (closeGrains s e u sc).links = s.links := rfl
@[simp] theorem closeGrains_vcs (s : State) (e : BitVec 5) (u sc : Nat) : (closeGrains s e u sc).vcs = s.vcs := rfl
@[simp] theorem closeGrains_dram (s : State) (e : BitVec 5) (u sc : Nat) : (closeGrains s e u sc).dram = s.dram := rfl
@[simp] theorem closeGrains_l2 (s : State) (e : BitVec 5) (u sc : Nat) : (closeGrains s e u sc).l2 = s.l2 := rfl
@[simp] theorem closeGrains_net (s : State) (e : BitVec 5) (u sc : Nat) : (closeGrains s e u sc).net = s.net := rfl
@[simp] theorem closeGrains_used (s : State) (e : BitVec 5) (u sc : Nat) : (closeGrains s e u sc).used = s.used := rfl
@[simp] theorem closeGrains_decrs (s : State) (e : BitVec 5) (u sc : Nat) : (closeGrains s e u sc).decrs = s.decrs := rfl
@[simp] theorem closeGrains_refused (s : State) (e : BitVec 5) (u sc : Nat) : (closeGrains s e u sc).refused = s.refused := rfl
@[simp] theorem closeGrains_saved (s : State) (e : BitVec 5) (u sc : Nat) : (closeGrains s e u sc).saved = s.saved := rfl
@[simp] theorem closeGrains_winBad (s : State) (e : BitVec 5) (u sc : Nat) : (closeGrains s e u sc).winBad = s.winBad := rfl
@[simp] theorem closeGrains_vcTurn (s : State) (e : BitVec 5) (u sc : Nat) : (closeGrains s e u sc).vcTurn = s.vcTurn := rfl
@[simp] theorem closeGrains_pulls (s : State) (e : BitVec 5) (u sc : Nat) : (closeGrains s e u sc).pulls = s.pulls := rfl
@[simp] theorem closeGrains_mvecInit (s : State) (e : BitVec 5) (u sc : Nat) : (closeGrains s e u sc).mvecInit = s.mvecInit := rfl
@[simp] theorem closeGrains_boot (s : State) (e : BitVec 5) (u sc : Nat) : (closeGrains s e u sc).boot = s.boot := rfl
@[simp] theorem closeGrains_module (s : State) (e : BitVec 5) (u sc : Nat) : (closeGrains s e u sc).module = s.module := rfl
@[simp] theorem closeGrains_modules (s : State) (e : BitVec 5) (u sc : Nat) : (closeGrains s e u sc).modules = s.modules := rfl
@[simp] theorem closeGrains_routes (s : State) (e : BitVec 5) (u sc : Nat) : (closeGrains s e u sc).routes = s.routes := rfl
@[simp] theorem closeGrains_trained (s : State) (e : BitVec 5) (u sc : Nat) : (closeGrains s e u sc).trained = s.trained := rfl
@[simp] theorem closeGrains_gov (s : State) (e : BitVec 5) (u sc : Nat) : (closeGrains s e u sc).gov = s.gov := rfl
@[simp] theorem closeGrains_epochAt (s : State) (e : BitVec 5) (u sc : Nat) : (closeGrains s e u sc).epochAt = s.epochAt := rfl
@[simp] theorem closeGrains_host (s : State) (e : BitVec 5) (u sc : Nat) : (closeGrains s e u sc).host = s.host := rfl

/-! ## A trap at system privilege (05 R107) -/

@[simp] theorem trapSystem_others (s : State) (cause : BitVec 8) (v : Word) : (trapSystem s cause v).others = s.others := rfl
@[simp] theorem trapSystem_agenda (s : State) (cause : BitVec 8) (v : Word) : (trapSystem s cause v).agenda = s.agenda := rfl
@[simp] theorem trapSystem_tick (s : State) (cause : BitVec 8) (v : Word) : (trapSystem s cause v).tick = s.tick := rfl
@[simp] theorem trapSystem_ktime (s : State) (cause : BitVec 8) (v : Word) : (trapSystem s cause v).ktime = s.ktime := rfl
@[simp] theorem trapSystem_mem (s : State) (cause : BitVec 8) (v : Word) : (trapSystem s cause v).mem = s.mem := rfl
@[simp] theorem trapSystem_win (s : State) (cause : BitVec 8) (v : Word) : (trapSystem s cause v).win = s.win := rfl
@[simp] theorem trapSystem_bad (s : State) (cause : BitVec 8) (v : Word) : (trapSystem s cause v).bad = s.bad := rfl
@[simp] theorem trapSystem_retired (s : State) (cause : BitVec 8) (v : Word) : (trapSystem s cause v).retired = s.retired := rfl
@[simp] theorem trapSystem_errlog (s : State) (cause : BitVec 8) (v : Word) : (trapSystem s cause v).errlog = s.errlog := rfl
@[simp] theorem trapSystem_cores (s : State) (cause : BitVec 8) (v : Word) : (trapSystem s cause v).cores = s.cores := rfl
@[simp] theorem trapSystem_parts (s : State) (cause : BitVec 8) (v : Word) : (trapSystem s cause v).parts = s.parts := rfl
@[simp] theorem trapSystem_monitorDrops (s : State) (cause : BitVec 8) (v : Word) : (trapSystem s cause v).monitorDrops = s.monitorDrops := rfl
@[simp] theorem trapSystem_monitorEnergy (s : State) (cause : BitVec 8) (v : Word) : (trapSystem s cause v).monitorEnergy = s.monitorEnergy := rfl
@[simp] theorem trapSystem_links (s : State) (cause : BitVec 8) (v : Word) : (trapSystem s cause v).links = s.links := rfl
@[simp] theorem trapSystem_vcs (s : State) (cause : BitVec 8) (v : Word) : (trapSystem s cause v).vcs = s.vcs := rfl
@[simp] theorem trapSystem_dram (s : State) (cause : BitVec 8) (v : Word) : (trapSystem s cause v).dram = s.dram := rfl
@[simp] theorem trapSystem_grains (s : State) (cause : BitVec 8) (v : Word) : (trapSystem s cause v).grains = s.grains := rfl
@[simp] theorem trapSystem_l2 (s : State) (cause : BitVec 8) (v : Word) : (trapSystem s cause v).l2 = s.l2 := rfl
@[simp] theorem trapSystem_net (s : State) (cause : BitVec 8) (v : Word) : (trapSystem s cause v).net = s.net := rfl
@[simp] theorem trapSystem_used (s : State) (cause : BitVec 8) (v : Word) : (trapSystem s cause v).used = s.used := rfl
@[simp] theorem trapSystem_decrs (s : State) (cause : BitVec 8) (v : Word) : (trapSystem s cause v).decrs = s.decrs := rfl
@[simp] theorem trapSystem_refused (s : State) (cause : BitVec 8) (v : Word) : (trapSystem s cause v).refused = s.refused := rfl
@[simp] theorem trapSystem_saved (s : State) (cause : BitVec 8) (v : Word) : (trapSystem s cause v).saved = s.saved := rfl
@[simp] theorem trapSystem_winBad (s : State) (cause : BitVec 8) (v : Word) : (trapSystem s cause v).winBad = s.winBad := rfl
@[simp] theorem trapSystem_vcTurn (s : State) (cause : BitVec 8) (v : Word) : (trapSystem s cause v).vcTurn = s.vcTurn := rfl
@[simp] theorem trapSystem_pulls (s : State) (cause : BitVec 8) (v : Word) : (trapSystem s cause v).pulls = s.pulls := rfl
@[simp] theorem trapSystem_mvecInit (s : State) (cause : BitVec 8) (v : Word) : (trapSystem s cause v).mvecInit = s.mvecInit := rfl
@[simp] theorem trapSystem_boot (s : State) (cause : BitVec 8) (v : Word) : (trapSystem s cause v).boot = s.boot := rfl
@[simp] theorem trapSystem_module (s : State) (cause : BitVec 8) (v : Word) : (trapSystem s cause v).module = s.module := rfl
@[simp] theorem trapSystem_modules (s : State) (cause : BitVec 8) (v : Word) : (trapSystem s cause v).modules = s.modules := rfl
@[simp] theorem trapSystem_routes (s : State) (cause : BitVec 8) (v : Word) : (trapSystem s cause v).routes = s.routes := rfl
@[simp] theorem trapSystem_trained (s : State) (cause : BitVec 8) (v : Word) : (trapSystem s cause v).trained = s.trained := rfl
@[simp] theorem trapSystem_gov (s : State) (cause : BitVec 8) (v : Word) : (trapSystem s cause v).gov = s.gov := rfl
@[simp] theorem trapSystem_epochAt (s : State) (cause : BitVec 8) (v : Word) : (trapSystem s cause v).epochAt = s.epochAt := rfl
@[simp] theorem trapSystem_host (s : State) (cause : BitVec 8) (v : Word) : (trapSystem s cause v).host = s.host := rfl
@[simp] theorem trapSystem_me_id (s : State) (cause : BitVec 8) (v : Word) : (trapSystem s cause v).me.id = s.me.id := rfl
@[simp] theorem trapSystem_me_run (s : State) (cause : BitVec 8) (v : Word) : (trapSystem s cause v).me.run = s.me.run := rfl
@[simp] theorem trapSystem_me_htab (s : State) (cause : BitVec 8) (v : Word) : (trapSystem s cause v).me.htab = s.me.htab := rfl
@[simp] theorem trapSystem_me_last (s : State) (cause : BitVec 8) (v : Word) : (trapSystem s cause v).me.last = s.me.last := rfl
@[simp] theorem trapSystem_me_asyncs (s : State) (cause : BitVec 8) (v : Word) : (trapSystem s cause v).me.asyncs = s.me.asyncs := rfl
@[simp] theorem trapSystem_me_faults (s : State) (cause : BitVec 8) (v : Word) : (trapSystem s cause v).me.faults = s.me.faults := rfl
@[simp] theorem trapSystem_me_inbox (s : State) (cause : BitVec 8) (v : Word) : (trapSystem s cause v).me.inbox = s.me.inbox := rfl
@[simp] theorem trapSystem_me_held (s : State) (cause : BitVec 8) (v : Word) : (trapSystem s cause v).me.held = s.me.held := rfl
@[simp] theorem trapSystem_me_stalled (s : State) (cause : BitVec 8) (v : Word) : (trapSystem s cause v).me.stalled = s.me.stalled := rfl
@[simp] theorem trapSystem_me_first (s : State) (cause : BitVec 8) (v : Word) : (trapSystem s cause v).me.first = s.me.first := rfl
@[simp] theorem trapSystem_me_pinWait (s : State) (cause : BitVec 8) (v : Word) : (trapSystem s cause v).me.pinWait = s.me.pinWait := rfl
@[simp] theorem trapSystem_me_lateBad (s : State) (cause : BitVec 8) (v : Word) : (trapSystem s cause v).me.lateBad = s.me.lateBad := rfl
@[simp] theorem trapSystem_me_serial (s : State) (cause : BitVec 8) (v : Word) : (trapSystem s cause v).me.serial = s.me.serial := rfl
@[simp] theorem trapSystem_me_pend (s : State) (cause : BitVec 8) (v : Word) : (trapSystem s cause v).me.pend = s.me.pend := rfl
@[simp] theorem trapSystem_me_l1 (s : State) (cause : BitVec 8) (v : Word) : (trapSystem s cause v).me.l1 = s.me.l1 := rfl
@[simp] theorem trapSystem_me_tlb (s : State) (cause : BitVec 8) (v : Word) : (trapSystem s cause v).me.tlb = s.me.tlb := rfl
@[simp] theorem trapSystem_me_perf (s : State) (cause : BitVec 8) (v : Word) : (trapSystem s cause v).me.perf = s.me.perf := rfl
@[simp] theorem trapSystem_me_energy (s : State) (cause : BitVec 8) (v : Word) : (trapSystem s cause v).me.energy = s.me.energy := rfl
@[simp] theorem trapSystem_me_cyc (s : State) (cause : BitVec 8) (v : Word) : (trapSystem s cause v).me.cyc = s.me.cyc := rfl
@[simp] theorem trapSystem_me_pairCyc (s : State) (cause : BitVec 8) (v : Word) : (trapSystem s cause v).me.pairCyc = s.me.pairCyc := rfl
@[simp] theorem trapSystem_me_work (s : State) (cause : BitVec 8) (v : Word) : (trapSystem s cause v).me.work = s.me.work := rfl
@[simp] theorem trapSystem_me_moved (s : State) (cause : BitVec 8) (v : Word) : (trapSystem s cause v).me.moved = s.me.moved := rfl
@[simp] theorem trapSystem_me_fresh (s : State) (cause : BitVec 8) (v : Word) : (trapSystem s cause v).me.fresh = s.me.fresh := rfl
@[simp] theorem trapSystem_me_ramp (s : State) (cause : BitVec 8) (v : Word) : (trapSystem s cause v).me.ramp = s.me.ramp := rfl
@[simp] theorem trapSystem_me_shareBase (s : State) (cause : BitVec 8) (v : Word) : (trapSystem s cause v).me.shareBase = s.me.shareBase := rfl
@[simp] theorem trapSystem_me_shareSize (s : State) (cause : BitVec 8) (v : Word) : (trapSystem s cause v).me.shareSize = s.me.shareSize := rfl
@[simp] theorem trapSystem_me_engAge (s : State) (cause : BitVec 8) (v : Word) : (trapSystem s cause v).me.engAge = s.me.engAge := rfl
@[simp] theorem trapSystem_me_chans (s : State) (cause : BitVec 8) (v : Word) : (trapSystem s cause v).me.chans = s.me.chans := rfl
@[simp] theorem trapSystem_me_xq (s : State) (cause : BitVec 8) (v : Word) : (trapSystem s cause v).me.xq = s.me.xq := rfl
@[simp] theorem trapSystem_me_mx (s : State) (cause : BitVec 8) (v : Word) : (trapSystem s cause v).me.mx = s.me.mx := rfl
@[simp] theorem trapSystem_me_fab (s : State) (cause : BitVec 8) (v : Word) : (trapSystem s cause v).me.fab = s.me.fab := rfl
@[simp] theorem trapSystem_regs_g (s : State) (cause : BitVec 8) (v : Word) : (trapSystem s cause v).me.regs.g = s.me.regs.g := rfl
@[simp] theorem trapSystem_regs_c (s : State) (cause : BitVec 8) (v : Word) : (trapSystem s cause v).me.regs.c = s.me.regs.c := rfl
@[simp] theorem trapSystem_kepc (s : State) (cause : BitVec 8) (v : Word) : (trapSystem s cause v).me.sys.kepc = s.me.regs.pc := rfl
@[simp] theorem trapSystem_kcause (s : State) (cause : BitVec 8) (v : Word) : (trapSystem s cause v).me.sys.kcause = cause.setWidth 64 := rfl
@[simp] theorem trapSystem_keval (s : State) (cause : BitVec 8) (v : Word) : (trapSystem s cause v).me.sys.keval = v := rfl
@[simp] theorem trapSystem_kelem (s : State) (cause : BitVec 8) (v : Word) : (trapSystem s cause v).me.sys.kelem = 0 := rfl
@[simp] theorem trapSystem_pc (s : State) (cause : BitVec 8) (v : Word) : (trapSystem s cause v).me.regs.pc = (s.me.sys.kvec + 32#64 * cause.setWidth 64) &&& 0x0000FFFFFFFFFFFC#64 := rfl
@[simp] theorem trapSystem_ks (s : State) (cause : BitVec 8) (v : Word) : (trapSystem s cause v).me.regs.ks = { priv := 1, ie := false, ppriv := s.me.regs.ks.priv, pie := s.me.regs.ks.ie } := rfl

/-! ## Updates of one context -/

@[simp] theorem setEntry_id (c : Ctx) (i : BitVec 5) (e : Entry) : (setEntry c i e).id = c.id := rfl
@[simp] theorem setEntry_regs (c : Ctx) (i : BitVec 5) (e : Entry) : (setEntry c i e).regs = c.regs := rfl
@[simp] theorem setEntry_run (c : Ctx) (i : BitVec 5) (e : Entry) : (setEntry c i e).run = c.run := rfl
@[simp] theorem setEntry_atVector (c : Ctx) (i : BitVec 5) (e : Entry) : (setEntry c i e).atVector = c.atVector := rfl
@[simp] theorem setEntry_last (c : Ctx) (i : BitVec 5) (e : Entry) : (setEntry c i e).last = c.last := rfl
@[simp] theorem setEntry_sys (c : Ctx) (i : BitVec 5) (e : Entry) : (setEntry c i e).sys = c.sys := rfl
@[simp] theorem setEntry_asyncs (c : Ctx) (i : BitVec 5) (e : Entry) : (setEntry c i e).asyncs = c.asyncs := rfl
@[simp] theorem setEntry_faults (c : Ctx) (i : BitVec 5) (e : Entry) : (setEntry c i e).faults = c.faults := rfl
@[simp] theorem setEntry_inbox (c : Ctx) (i : BitVec 5) (e : Entry) : (setEntry c i e).inbox = c.inbox := rfl
@[simp] theorem setEntry_held (c : Ctx) (i : BitVec 5) (e : Entry) : (setEntry c i e).held = c.held := rfl
@[simp] theorem setEntry_stalled (c : Ctx) (i : BitVec 5) (e : Entry) : (setEntry c i e).stalled = c.stalled := rfl
@[simp] theorem setEntry_first (c : Ctx) (i : BitVec 5) (e : Entry) : (setEntry c i e).first = c.first := rfl
@[simp] theorem setEntry_pinWait (c : Ctx) (i : BitVec 5) (e : Entry) : (setEntry c i e).pinWait = c.pinWait := rfl
@[simp] theorem setEntry_lateBad (c : Ctx) (i : BitVec 5) (e : Entry) : (setEntry c i e).lateBad = c.lateBad := rfl
@[simp] theorem setEntry_serial (c : Ctx) (i : BitVec 5) (e : Entry) : (setEntry c i e).serial = c.serial := rfl
@[simp] theorem setEntry_pend (c : Ctx) (i : BitVec 5) (e : Entry) : (setEntry c i e).pend = c.pend := rfl
@[simp] theorem setEntry_l1 (c : Ctx) (i : BitVec 5) (e : Entry) : (setEntry c i e).l1 = c.l1 := rfl
@[simp] theorem setEntry_tlb (c : Ctx) (i : BitVec 5) (e : Entry) : (setEntry c i e).tlb = c.tlb := rfl
@[simp] theorem setEntry_perf (c : Ctx) (i : BitVec 5) (e : Entry) : (setEntry c i e).perf = c.perf := rfl
@[simp] theorem setEntry_energy (c : Ctx) (i : BitVec 5) (e : Entry) : (setEntry c i e).energy = c.energy := rfl
@[simp] theorem setEntry_cyc (c : Ctx) (i : BitVec 5) (e : Entry) : (setEntry c i e).cyc = c.cyc := rfl
@[simp] theorem setEntry_fresh (c : Ctx) (i : BitVec 5) (e : Entry) : (setEntry c i e).fresh = c.fresh := rfl
@[simp] theorem setEntry_ramp (c : Ctx) (i : BitVec 5) (e : Entry) : (setEntry c i e).ramp = c.ramp := rfl
@[simp] theorem setEntry_shareBase (c : Ctx) (i : BitVec 5) (e : Entry) : (setEntry c i e).shareBase = c.shareBase := rfl
@[simp] theorem setEntry_shareSize (c : Ctx) (i : BitVec 5) (e : Entry) : (setEntry c i e).shareSize = c.shareSize := rfl
@[simp] theorem setEntry_engAge (c : Ctx) (i : BitVec 5) (e : Entry) : (setEntry c i e).engAge = c.engAge := rfl
@[simp] theorem setEntry_chans (c : Ctx) (i : BitVec 5) (e : Entry) : (setEntry c i e).chans = c.chans := rfl
@[simp] theorem setEntry_xq (c : Ctx) (i : BitVec 5) (e : Entry) : (setEntry c i e).xq = c.xq := rfl
@[simp] theorem setEntry_mx (c : Ctx) (i : BitVec 5) (e : Entry) : (setEntry c i e).mx = c.mx := rfl
@[simp] theorem setEntry_fab (c : Ctx) (i : BitVec 5) (e : Entry) : (setEntry c i e).fab = c.fab := rfl
@[simp] theorem setInbox_id (c : Ctx) (ch : BitVec 6) (ws : List Word) : (setInbox c ch ws).id = c.id := rfl
@[simp] theorem setInbox_regs (c : Ctx) (ch : BitVec 6) (ws : List Word) : (setInbox c ch ws).regs = c.regs := rfl
@[simp] theorem setInbox_run (c : Ctx) (ch : BitVec 6) (ws : List Word) : (setInbox c ch ws).run = c.run := rfl
@[simp] theorem setInbox_atVector (c : Ctx) (ch : BitVec 6) (ws : List Word) : (setInbox c ch ws).atVector = c.atVector := rfl
@[simp] theorem setInbox_htab (c : Ctx) (ch : BitVec 6) (ws : List Word) : (setInbox c ch ws).htab = c.htab := rfl
@[simp] theorem setInbox_last (c : Ctx) (ch : BitVec 6) (ws : List Word) : (setInbox c ch ws).last = c.last := rfl
@[simp] theorem setInbox_sys (c : Ctx) (ch : BitVec 6) (ws : List Word) : (setInbox c ch ws).sys = c.sys := rfl
@[simp] theorem setInbox_asyncs (c : Ctx) (ch : BitVec 6) (ws : List Word) : (setInbox c ch ws).asyncs = c.asyncs := rfl
@[simp] theorem setInbox_faults (c : Ctx) (ch : BitVec 6) (ws : List Word) : (setInbox c ch ws).faults = c.faults := rfl
@[simp] theorem setInbox_held (c : Ctx) (ch : BitVec 6) (ws : List Word) : (setInbox c ch ws).held = c.held := rfl
@[simp] theorem setInbox_stalled (c : Ctx) (ch : BitVec 6) (ws : List Word) : (setInbox c ch ws).stalled = c.stalled := rfl
@[simp] theorem setInbox_first (c : Ctx) (ch : BitVec 6) (ws : List Word) : (setInbox c ch ws).first = c.first := rfl
@[simp] theorem setInbox_pinWait (c : Ctx) (ch : BitVec 6) (ws : List Word) : (setInbox c ch ws).pinWait = c.pinWait := rfl
@[simp] theorem setInbox_lateBad (c : Ctx) (ch : BitVec 6) (ws : List Word) : (setInbox c ch ws).lateBad = c.lateBad := rfl
@[simp] theorem setInbox_serial (c : Ctx) (ch : BitVec 6) (ws : List Word) : (setInbox c ch ws).serial = c.serial := rfl
@[simp] theorem setInbox_pend (c : Ctx) (ch : BitVec 6) (ws : List Word) : (setInbox c ch ws).pend = c.pend := rfl
@[simp] theorem setInbox_l1 (c : Ctx) (ch : BitVec 6) (ws : List Word) : (setInbox c ch ws).l1 = c.l1 := rfl
@[simp] theorem setInbox_tlb (c : Ctx) (ch : BitVec 6) (ws : List Word) : (setInbox c ch ws).tlb = c.tlb := rfl
@[simp] theorem setInbox_perf (c : Ctx) (ch : BitVec 6) (ws : List Word) : (setInbox c ch ws).perf = c.perf := rfl
@[simp] theorem setInbox_energy (c : Ctx) (ch : BitVec 6) (ws : List Word) : (setInbox c ch ws).energy = c.energy := rfl
@[simp] theorem setInbox_cyc (c : Ctx) (ch : BitVec 6) (ws : List Word) : (setInbox c ch ws).cyc = c.cyc := rfl
@[simp] theorem setInbox_fresh (c : Ctx) (ch : BitVec 6) (ws : List Word) : (setInbox c ch ws).fresh = c.fresh := rfl
@[simp] theorem setInbox_ramp (c : Ctx) (ch : BitVec 6) (ws : List Word) : (setInbox c ch ws).ramp = c.ramp := rfl
@[simp] theorem setInbox_shareBase (c : Ctx) (ch : BitVec 6) (ws : List Word) : (setInbox c ch ws).shareBase = c.shareBase := rfl
@[simp] theorem setInbox_shareSize (c : Ctx) (ch : BitVec 6) (ws : List Word) : (setInbox c ch ws).shareSize = c.shareSize := rfl
@[simp] theorem setInbox_engAge (c : Ctx) (ch : BitVec 6) (ws : List Word) : (setInbox c ch ws).engAge = c.engAge := rfl
@[simp] theorem setInbox_chans (c : Ctx) (ch : BitVec 6) (ws : List Word) : (setInbox c ch ws).chans = c.chans := rfl
@[simp] theorem setInbox_xq (c : Ctx) (ch : BitVec 6) (ws : List Word) : (setInbox c ch ws).xq = c.xq := rfl
@[simp] theorem setInbox_mx (c : Ctx) (ch : BitVec 6) (ws : List Word) : (setInbox c ch ws).mx = c.mx := rfl
@[simp] theorem setInbox_fab (c : Ctx) (ch : BitVec 6) (ws : List Word) : (setInbox c ch ws).fab = c.fab := rfl

end Sys2Proof.Machine
end

