-- ==== Sys2Proof/Laws/Registers.lean ====
section
/-! SUPPORT. The laws of registers, entries, inboxes and records: what a read finds after a write, what a write leaves alone,
and the two ends that a register instruction has. -/

namespace Sys2Proof.Machine

/-! ## General and condition registers (05 R97 to R99) -/

@[simp] theorem readG_zero (s : State) : readG s 0#6 = 0#64 := rfl
@[simp] theorem readC_zero (s : State) : readC s 0#3 = true := rfl
@[simp] theorem writeG_zero (s : State) (v : Word) : writeG s 0#6 v = s := rfl
@[simp] theorem writeC_zero (s : State) (v : Bool) : writeC s 0#3 v = s := rfl

/-- A written register holds the value; g0 keeps 0. -/
theorem readG_writeG_self (s : State) (d : Reg) (v : Word) : readG (writeG s d v) d = if d = 0#6 then 0#64 else v := by
  unfold readG writeG; split <;> simp_all

/-- A write leaves every other register alone. -/
theorem readG_writeG_ne (s : State) {d r : Reg} (v : Word) (h : r ≠ d) : readG (writeG s d v) r = readG s r := by
  unfold readG writeG
  split
  · rfl
  · split
    · rfl
    · exact Vector.getElem_set_ne (by omega) (by omega) fun hc => h (BitVec.eq_of_toNat_eq hc.symm)

theorem readC_writeC_self (s : State) (d : CReg) (v : Bool) : readC (writeC s d v) d = if d = 0#3 then true else v := by
  unfold readC writeC; split <;> simp_all

theorem readC_writeC_ne (s : State) {d r : CReg} (v : Bool) (h : r ≠ d) : readC (writeC s d v) r = readC s r := by
  unfold readC writeC
  split
  · rfl
  · split
    · rfl
    · exact Vector.getElem_set_ne (by omega) (by omega) fun hc => h (BitVec.eq_of_toNat_eq hc.symm)

@[simp] theorem readC_writeG (s : State) (d : Reg) (v : Word) (r : CReg) : readC (writeG s d v) r = readC s r := by
  unfold writeG; split <;> rfl
@[simp] theorem readG_writeC (s : State) (d : CReg) (v : Bool) (r : Reg) : readG (writeC s d v) r = readG s r := by
  unfold writeC; split <;> rfl
@[simp] theorem readG_nextPc (s : State) (r : Reg) : readG (nextPc s) r = readG s r := rfl
@[simp] theorem readC_nextPc (s : State) (r : CReg) : readC (nextPc s) r = readC s r := rfl
@[simp] theorem readG_setPc (s : State) (t : Word) (r : Reg) : readG (setPc s t) r = readG s r := rfl
@[simp] theorem readC_setPc (s : State) (t : Word) (r : CReg) : readC (setPc s t) r = readC s r := rfl
@[simp] theorem readG_countEvent (s : State) (ev : BitVec 8) (n : Nat) (r : Reg) : readG (countEvent s ev n) r = readG s r := rfl
@[simp] theorem readC_countEvent (s : State) (ev : BitVec 8) (n : Nat) (r : CReg) : readC (countEvent s ev n) r = readC s r := rfl
@[simp] theorem priv_nextPc (s : State) : priv (nextPc s) = priv s := rfl

/-- A register write changes nothing but g. -/
theorem writeG_frame (s : State) (d : Reg) (v : Word) : { writeG s d v with me.regs.g := s.me.regs.g } = s := by
  unfold writeG; split <;> rfl

theorem writeC_frame (s : State) (d : CReg) (v : Bool) : { writeC s d v with me.regs.c := s.me.regs.c } = s := by
  unfold writeC; split <;> rfl

@[simp] theorem writeG_pc (s : State) (d : Reg) (v : Word) : (writeG s d v).me.regs.pc = s.me.regs.pc := by
  unfold writeG; split <;> rfl
@[simp] theorem writeG_ks (s : State) (d : Reg) (v : Word) : (writeG s d v).me.regs.ks = s.me.regs.ks := by
  unfold writeG; split <;> rfl
@[simp] theorem writeG_mem (s : State) (d : Reg) (v : Word) : (writeG s d v).mem = s.mem := by unfold writeG; split <;> rfl
@[simp] theorem writeG_win (s : State) (d : Reg) (v : Word) : (writeG s d v).win = s.win := by unfold writeG; split <;> rfl
@[simp] theorem writeC_pc (s : State) (d : CReg) (v : Bool) : (writeC s d v).me.regs.pc = s.me.regs.pc := by
  unfold writeC; split <;> rfl
@[simp] theorem writeC_ks (s : State) (d : CReg) (v : Bool) : (writeC s d v).me.regs.ks = s.me.regs.ks := by
  unfold writeC; split <;> rfl
@[simp] theorem writeC_mem (s : State) (d : CReg) (v : Bool) : (writeC s d v).mem = s.mem := by unfold writeC; split <;> rfl
@[simp] theorem writeC_win (s : State) (d : CReg) (v : Bool) : (writeC s d v).win = s.win := by unfold writeC; split <;> rfl

/-! ## The ends of a register instruction -/

/-- What setG can do: g[d] := v (g0 keeps 0), the PC advances, and nothing else changes. -/
theorem setG_spec {s : State} {d : Reg} {v : Word} {o : Host.Outcome State Fault Refusal} (h : setG s d v = o) :
    ∃ t, o = .next t ∧ readG t d = (if d = 0#6 then 0#64 else v) ∧ (∀ r, r ≠ d → readG t r = readG s r)
      ∧ (∀ c, readC t c = readC s c) ∧ t.me.regs.pc = (nextPc s).me.regs.pc
      ∧ { t with me.regs.g := s.me.regs.g, me.regs.pc := s.me.regs.pc } = s := by
  refine ⟨_, h.symm, ?_, fun r hr => ?_, fun c => ?_, ?_, ?_⟩
  · rw [readG_nextPc, readG_writeG_self]
  · rw [readG_nextPc, readG_writeG_ne s v hr]
  · rw [readC_nextPc, readC_writeG]
  · simp
  · show { writeG s d v with me.regs.g := s.me.regs.g, me.regs.pc := s.me.regs.pc } = s
    unfold writeG; split <;> rfl

/-- What setC can do: c[d] := v (c0 keeps 1), the PC advances, and nothing else changes. -/
theorem setC_spec {s : State} {d : CReg} {v : Bool} {o : Host.Outcome State Fault Refusal} (h : setC s d v = o) :
    ∃ t, o = .next t ∧ readC t d = (if d = 0#3 then true else v) ∧ (∀ c, c ≠ d → readC t c = readC s c)
      ∧ (∀ r, readG t r = readG s r) ∧ t.me.regs.pc = (nextPc s).me.regs.pc
      ∧ { t with me.regs.c := s.me.regs.c, me.regs.pc := s.me.regs.pc } = s := by
  refine ⟨_, h.symm, ?_, fun r hr => ?_, fun c => ?_, ?_, ?_⟩
  · rw [readC_nextPc, readC_writeC_self]
  · rw [readC_nextPc, readC_writeC_ne s v hr]
  · rw [readG_nextPc, readG_writeC]
  · simp
  · show { writeC s d v with me.regs.c := s.me.regs.c, me.regs.pc := s.me.regs.pc } = s
    unfold writeC; split <;> rfl

/-- An aligned PC below the top of the 48 bits advances by 4 (05 R99). -/
theorem nextPc_pc_eq {p : Word} (h : p.toNat % 4 = 0) (h' : p.toNat + 4 < 2 ^ 48) :
    (p + 4#64) &&& 0x0000FFFFFFFFFFFC#64 = p + 4#64 := by
  have e : (p + 4#64).toNat = p.toNat + 4 := by rw [BitVec.toNat_add]; simp; omega
  have k : (p + 4#64).toNat % 4 = 0 := by omega
  have l : (p + 4#64).toNat < 2 ^ 48 := by omega
  generalize p + 4#64 = q at k l
  apply BitVec.eq_of_getLsbD_eq
  intro i hi
  rw [BitVec.getLsbD_and]
  by_cases h48 : i < 48
  · by_cases h2 : i < 2
    · have : q.getLsbD i = false := by
        rw [BitVec.getLsbD, show q.toNat = 2 ^ 2 * (q.toNat / 4) by omega, Nat.testBit_two_pow_mul]
        simp; omega
      simp [this]
    · have : (0x0000FFFFFFFFFFFC#64).getLsbD i = true := by interval_cases i <;> first | omega | rfl
      simp [this]
  · have : q.getLsbD i = false := Nat.testBit_lt_two_pow (lt_of_lt_of_le l (Nat.pow_le_pow_right (by decide) (by omega)))
    simp [this]

/-! ## Entries, inboxes and records -/

@[simp] theorem getEntry_setEntry_self (c : Ctx) (i : BitVec 5) (e : Entry) : getEntry (setEntry c i e) i = e := by
  simp [getEntry, setEntry]

theorem getEntry_setEntry_ne (c : Ctx) {i j : BitVec 5} (e : Entry) (h : j ≠ i) : getEntry (setEntry c i e) j = getEntry c j :=
  Vector.getElem_set_ne (by omega) (by omega) fun hc => h (BitVec.eq_of_toNat_eq hc.symm)

@[simp] theorem inboxOf_setInbox_self (c : Ctx) (ch : BitVec 6) (ws : List Word) : inboxOf (setInbox c ch ws) ch = ws :=
  tabGet_put_self ..

theorem inboxOf_setInbox_ne (c : Ctx) {ch k : BitVec 6} (ws : List Word) (h : k ≠ ch) :
    inboxOf (setInbox c ch ws) k = inboxOf c k :=
  tabGet_put_ne _ _ _ fun hc => h (BitVec.eq_of_toNat_eq hc)

@[simp] theorem coreRec_setCore_self (s : State) (c : CoreId) (r : CoreRec) : coreRec (setCore s c r) c = r := tabGet_put_self ..

theorem coreRec_setCore_ne (s : State) {c k : CoreId} (r : CoreRec) (h : k ≠ c) : coreRec (setCore s c r) k = coreRec s k :=
  tabGet_put_ne _ _ _ fun hc => h (BitVec.eq_of_toNat_eq hc)

@[simp] theorem myCore_setMyCore (s : State) (r : CoreRec) : myCore (setMyCore s r) = r := coreRec_setCore_self ..

@[simp] theorem partRec_setPart_self (s : State) (p : BitVec 6) (r : PartRec) : partRec (setPart s p r) p = r := tabGet_put_self ..

theorem partRec_setPart_ne (s : State) {p q : BitVec 6} (r : PartRec) (h : q ≠ p) : partRec (setPart s p r) q = partRec s q :=
  tabGet_put_ne _ _ _ fun hc => h (BitVec.eq_of_toNat_eq hc)

@[simp] theorem ownerRec_setOwner_self (s : State) (p : BitVec 7) (r : PartRec) : ownerRec (setOwner s p r) p = r :=
  tabGet_put_self ..

theorem ownerRec_setOwner_ne (s : State) {p q : BitVec 7} (r : PartRec) (h : q ≠ p) : ownerRec (setOwner s p r) q = ownerRec s q :=
  tabGet_put_ne _ _ _ fun hc => h (BitVec.eq_of_toNat_eq hc)

/-- A status word survives the round through its bits, but for SET, which is computed (05 R101). -/
theorem kstOf_kstBits (k : Kst) (b : Bool) : kstOf (kstBits k b) = k := by
  obtain ⟨p, i, pp, pi⟩ := k
  simp only [kstOf, kstBits, Kst.mk.injEq]
  revert p pp
  cases b <;> cases i <;> cases pi <;> decide

end Sys2Proof.Machine
end

