-- ==== Sys2Proof/Laws/Outcomes.lean ====
section
/-! SUPPORT. What each shared operation of a meaning can do: the end of a meaning, the checks, taking an exception and
returning from one, and the accesses of a handler. A proof about an instruction cites these and does not unfold them. -/

namespace Sys2Proof.Machine

/-! ## The end of a meaning -/

@[simp] theorem finish_ok (s t : State) : finish s (.ok t) = .next t := rfl
theorem finish_error (s : State) (t : Trap) : finish s (.error t) = .next (takeTrap (t.base.getD s) t) := by unfold finish; rfl

/-- A meaning that ends in finish always answers a next state: its own effect or the fault taken, behind what its walk has changed. -/
theorem finish_next (s : State) (r : Except Trap State) :
    (∃ t, r = .ok t ∧ finish s r = .next t) ∨ ∃ t, r = .error t ∧ finish s r = .next (takeTrap (t.base.getD s) t) := by
  cases r with
  | ok t => exact .inl ⟨t, rfl, rfl⟩
  | error t => exact .inr ⟨t, rfl, finish_error s t⟩

theorem finish_inv {s u : State} {r : Except Trap State} (h : finish s r = .next u) :
    r = .ok u ∨ ∃ t, r = .error t ∧ u = takeTrap (t.base.getD s) t := by
  cases r with
  | ok t => exact .inl (congrArg _ (by injection h))
  | error t => rw [finish_error] at h; exact .inr ⟨t, rfl, by injection h with h; exact h.symm⟩

/-! ## Checks -/

/-- The check of privilege: it passes at or above the level and is a privilege fault with the word below it (04 R82, R83). -/
theorem needPriv_pass {s : State} {level : BitVec 2} (h : level.toNat ≤ (priv s).toNat) (w : Word) (k : Except Trap State) :
    needPriv s level w k = k := if_pos h

theorem needPriv_refuse {s : State} {level : BitVec 2} (h : (priv s).toNat < level.toNat) (w : Word) (k : Except Trap State) :
    needPriv s level w k = .error { cause := 0x02, value := w } := if_neg (by omega)

/-- The check of a branch target (06 R128): a legal target passes. -/
theorem checkTarget_pass {t : Word} (h : t.extractLsb' 0 2 = 0#2) (h' : t.extractLsb' 48 16 = 0#16) (k : Except Trap State) :
    checkTarget t k = k := by
  unfold checkTarget; rw [if_neg (by simp [h]), if_neg (by simp [h'])]

theorem checkTarget_misaligned {t : Word} (h : t.extractLsb' 0 2 ≠ 0#2) (k : Except Trap State) :
    checkTarget t k = .error { cause := 0x03, value := t } := if_pos h

theorem checkTarget_high {t : Word} (h : t.extractLsb' 0 2 = 0#2) (h' : t.extractLsb' 48 16 ≠ 0#16) (k : Except Trap State) :
    checkTarget t k = .error { cause := 0x04, value := t } := by
  unfold checkTarget; rw [if_neg (by simp [h]), if_pos h']

/-- Both conditions of a target as numbers. -/
theorem target_low (t : Word) : t.extractLsb' 0 2 = 0#2 ↔ t.toNat % 4 = 0 := by
  rw [← BitVec.toNat_inj]; simp

theorem target_high (t : Word) : t.extractLsb' 48 16 = 0#16 ↔ t.toNat < 2 ^ 48 := by
  rw [← BitVec.toNat_inj, BitVec.extractLsb'_toNat, Nat.shiftRight_eq_div_pow, BitVec.toNat_ofNat, Nat.zero_mod]
  have := t.isLt
  omega

/-! ## Taking an exception (05 R107) -/

/-- No line is retired where a fault names none. -/
@[simp] theorem retire_none (s : State) : retire s none = s := rfl

@[simp] theorem retireOverflow_none (s : State) : retireOverflow s none = false := rfl
@[simp] theorem retiring_none (s : State) (k : State → State) : retiring s none k = k s := rfl

/-- A fault that names no line, counts no race and is not of the monitor's causes is delivered in place at system privilege. -/
theorem takeTrap_system {s : State} {t : Trap} (hl : t.line = none) (hr : t.cause ≠ 0x07#8) (hm : toMonitor t.cause = false) :
    takeTrap s t = trapSystem s t.cause t.value := by
  simp [takeTrap, hl, hr, hm]

/-- A stage-2 fault and a monitor call are delivered at monitor privilege. -/
theorem takeTrap_monitor {s : State} {t : Trap} (hl : t.line = none) (hm : toMonitor t.cause = true) :
    takeTrap s t = trapMonitor s t.cause t.value := by
  have hr : t.cause ≠ 0x07#8 := by
    intro h; rw [h] at hm; exact absurd hm (by decide)
  simp [takeTrap, hl, hr, hm]

/-- A data race is counted before it is delivered (14 R336). -/
theorem takeTrap_race (s : State) (v : Word) :
    takeTrap s { cause := 0x07, value := v } = trapSystem (countEvent s 0x0B#8 1) 0x07 v := by
  simp [takeTrap, toMonitor]

/-- What delivery at monitor privilege saves in the record of the core (05 R107). -/
theorem trapMonitor_saves (s : State) (cause : BitVec 8) (v : Word) :
    myCore (trapMonitor s cause v) = { myCore s with
      mepc := s.me.regs.pc, mcause := cause.setWidth 64, meval := v,
      mstate := (kstBits s.me.regs.ks ((setOf s s.me.id).getD false)).setWidth 64 } :=
  coreRec_setCore_self ..

/-- And where it goes. -/
theorem trapMonitor_goes (s : State) (cause : BitVec 8) (v : Word) :
    (trapMonitor s cause v).me.regs.pc = (mvecOf s (myCore s) + 32#64 * cause.setWidth 64) &&& 0x0000FFFFFFFFFFFC#64
      ∧ (trapMonitor s cause v).me.regs.ks = { s.me.regs.ks with priv := 2, ie := false }
      ∧ (trapMonitor s cause v).me.regs.g = s.me.regs.g ∧ (trapMonitor s cause v).me.regs.c = s.me.regs.c
      ∧ (trapMonitor s cause v).mem = s.mem ∧ (trapMonitor s cause v).win = s.win := ⟨rfl, rfl, rfl, rfl, rfl, rfl⟩

/-! ## The return (06 R134) -/

theorem eretOp_system {s : State} (h : priv s ≠ 2#2) (hp : s.me.regs.ks.ppriv.toNat < 2)
    (h1 : s.me.sys.kepc.extractLsb' 0 2 = 0#2) (h2 : s.me.sys.kepc.extractLsb' 48 16 = 0#16) :
    eretOp s = .ok { s with
      me.regs.ks.priv := s.me.regs.ks.ppriv
      me.regs.ks.ie := s.me.regs.ks.pie
      me.regs.pc := s.me.sys.kepc } := by
  unfold eretOp; rw [if_neg h, if_neg (by omega), checkTarget_pass h1 h2]

theorem eretOp_monitor {s : State} (h : priv s = 2#2) (h1 : (myCore s).mepc.extractLsb' 0 2 = 0#2)
    (h2 : (myCore s).mepc.extractLsb' 48 16 = 0#16) :
    eretOp s = .ok { s with me.regs.ks := kstOf ((myCore s).mstate.setWidth 7), me.regs.pc := (myCore s).mepc } := by
  unfold eretOp; rw [if_pos h]; exact checkTarget_pass h1 h2 _

/-! ## Accesses of a handler (09 R187) -/

theorem access_misaligned {s : State} {pr : BitVec 2} {va : Word} {size : Nat} (h : va.toNat % size ≠ 0) (n : Need) :
    access s pr va size n = .trap { cause := 0x03, value := va } := if_pos h

theorem access_high {s : State} {pr : BitVec 2} {va : Word} {size : Nat} (h : va.toNat % size = 0)
    (h' : va.extractLsb' 48 16 ≠ 0#16) (n : Need) : access s pr va size n = .trap { cause := 0x04, value := va } := by
  unfold access; rw [if_neg (by omega), if_pos h']

theorem access_translates {s : State} {pr : BitVec 2} {va : Word} {size : Nat} (h : va.toNat % size = 0)
    (h' : va.extractLsb' 48 16 = 0#16) (n : Need) : access s pr va size n = translate s pr va n := by
  unfold access; rw [if_neg (by omega), if_neg (by simp [h'])]

theorem withAccess_ok {s t : State} {va : Word} {size : Nat} {n : Need} {pa : Nat} (k : State → Nat → Except Trap State)
    (h : access s (priv s) va size n = .ok t pa) (hr : (inL1 t pa || reachable t pa) = true) :
    withAccess s va size n k = afterWalk t (k t pa) := by
  unfold withAccess; rw [h]; exact if_pos hr

/-- What a walk has counted stands behind a fault; nothing else changes. -/
theorem afterWalk_ok (s t : State) : afterWalk s (.ok t) = .ok t := rfl

theorem withAccess_unreachable {s t : State} {va : Word} {size : Nat} {n : Need} {pa : Nat} (k : State → Nat → Except Trap State)
    (h : access s (priv s) va size n = .ok t pa) (hr : (inL1 t pa || reachable t pa) = false) :
    withAccess s va size n k = .ok (contain t (myPart t)) := by
  unfold withAccess; rw [h]; exact if_neg (by simp [hr])

theorem withAccess_trap {s : State} {va : Word} {size : Nat} {n : Need} {t : Trap} (k : State → Nat → Except Trap State)
    (h : access s (priv s) va size n = .trap t) : withAccess s va size n k = .error t := by
  unfold withAccess; rw [h]

/-- An access that waits holds the instruction, which issues again. -/
theorem withAccess_stall {s t : State} {va : Word} {size : Nat} {n : Need} (k : State → Nat → Except Trap State)
    (h : access s (priv s) va size n = .stall t) : withAccess s va size n k = .ok (hold t) := by
  unfold withAccess; rw [h]

theorem winAccess_misaligned {s : State} {va : Word} {size : Nat} (h : va.toNat % size ≠ 0) (tags : List (BitVec 3))
    (k : Nat → Except Trap State) : winAccess s va size tags k = .error { cause := 0x03, value := va } := if_pos h

theorem winAccess_outside {s : State} {va : Word} {size : Nat} (h : va.toNat % size = 0) (h' : va.extractLsb' 20 44 ≠ 0#44)
    (tags : List (BitVec 3)) (k : Nat → Except Trap State) :
    winAccess s va size tags k = .error { cause := 0x05, value := va } := by
  unfold winAccess; rw [if_neg (by omega), if_pos h']

theorem winAccess_checked {s : State} {va : Word} {size : Nat} {tags : List (BitVec 3)} (h : va.toNat % size = 0)
    (h' : va.extractLsb' 20 44 = 0#44) (hc : winCheck s.me va.toNat size tags = none) (k : Nat → Except Trap State) :
    winAccess s va size tags k = k va.toNat := by
  unfold winAccess; rw [if_neg (by omega), if_neg (by simp [h']), hc]

/-- Home requests that are all served do not stop an instruction. -/
theorem guardHome_ok {s : State} {rs : List HomeReq} (h : firstStop s rs = none) (va : Option Word) (k : Except Trap State) :
    guardHome s va rs k = k := by unfold guardHome; rw [h]

theorem guardBack_ok {s : State} {ls : List Line} (h : firstStop s (ls.map .back) = none) (k : Except Trap State) : guardBack s ls k = k :=
  guardHome_ok h none k

theorem guardLine_ok {s : State} {num : Nat} {ro : Bool} (h : firstStop s (fillReqs s num ro) = none) (va : Word) (k : Except Trap State) :
    guardLine s va num ro k = k := guardHome_ok h _ k

/-- Clean lines ask nothing of their homes. -/
theorem firstStop_clean {s : State} {ls : List Line} (h : ∀ l ∈ ls, l.dirty = 0#128) : firstStop s (ls.map .back) = none := by
  induction ls with
  | nil => rfl
  | cons l ls ih =>
    have hl := h l (List.mem_cons_self ..)
    simp only [List.map_cons, firstStop, HomeReq.stop, HomeReq.serve, hl, if_true, writeBack]
    exact ih fun x hx => h x (List.mem_cons_of_mem _ hx)

/-- A checked access that neither passes the pinning limit nor races goes on, registered (10 R233). -/
theorem checkedAccess_ok {s : State} {va : Word} {pa size : Nat} {write plain : Bool} (h : pastPin s pa = false)
    (hr : races s pa size write plain = false) (k : State → Except Trap State) :
    checkedAccess s va pa size write plain k = k (register s pa size write plain) := by
  unfold checkedAccess; rw [if_neg (by simp [h]), if_neg (by simp [hr])]

/-- A plain access that is not stopped at its home nor reads a lost word goes on, registered. -/
theorem plainAccess_ok {s : State} {va : Word} {pa size : Nat} {write : Bool} (h : pastPin s pa = false)
    (hr : races s pa size write true = false)
    (hg : ∀ u k, guardLine u va (pa / 128) false k = k)
    (hb : (!write && readLost s pa size false) = false) (k : State → Except Trap State) :
    plainAccess s va pa size write k = k (register s pa size write true) := by
  unfold plainAccess; rw [checkedAccess_ok h hr, hg, if_neg (by simp [hb])]

/-- A race is a fault before anything is read or written (10 R233). -/
theorem plainAccess_race {s : State} {va : Word} {pa size : Nat} {write : Bool} (h : pastPin s pa = false)
    (hr : races s pa size write true = true) (k : State → Except Trap State) :
    plainAccess s va pa size write k = .error { cause := 0x07, value := va } := by
  unfold plainAccess checkedAccess; rw [if_neg (by simp [h]), if_pos hr]

/-- Registration changes only the registrations. -/
theorem register_frame (s : State) (pa size : Nat) (write plain : Bool) :
    { register s pa size write plain with grains := s.grains } = s := by
  unfold register
  suffices H : ∀ (l : List Nat) (t : State), { t with grains := s.grains } = s →
      { l.foldl (fun t g => register1 t g write plain) t with grains := s.grains } = s from H _ s rfl
  intro l
  induction l with
  | nil => exact fun _ h => h
  | cons g l ih => exact fun t h => ih (register1 t g write plain) h

end Sys2Proof.Machine
end

