-- ==== Sys2Proof/Laws/Canonical.lean ====
section
/-! SUPPORT. The shared operations over states keep both memories in canonical form. A proof that an instruction keeps it goes
through these, one for each operation that the instruction calls. -/

namespace Sys2Proof.Machine

open Sys2Proof.Safety

theorem canonical_iff (s : State) : memoriesCanonical s = true ↔ Memory.wf s.mem = true ∧ Memory.wf s.win = true := by
  simp [memoriesCanonical]

/-- Only the two memories matter. -/
theorem canonical_of_same {s t : State} (h : memoriesCanonical s = true) (hm : t.mem = s.mem) (hw : t.win = s.win) :
    memoriesCanonical t = true := by
  rw [canonical_iff] at h ⊢; rw [hm, hw]; exact h

theorem canonical_mem {s t : State} (h : memoriesCanonical s = true) (hm : Memory.wf t.mem = true) (hw : t.win = s.win) :
    memoriesCanonical t = true := by
  rw [canonical_iff] at h ⊢; rw [hw]; exact ⟨hm, h.2⟩

theorem canonical_win {s t : State} (h : memoriesCanonical s = true) (hm : t.mem = s.mem) (hw : Memory.wf t.win = true) :
    memoriesCanonical t = true := by
  rw [canonical_iff] at h ⊢; rw [hm]; exact ⟨h.1, hw⟩

/-- A fold keeps the form where each of its steps does. -/
theorem canonical_foldl {β : Type} (f : State → β → State)
    (hf : ∀ s b, memoriesCanonical s = true → memoriesCanonical (f s b) = true) (l : List β) {s : State}
    (h : memoriesCanonical s = true) : memoriesCanonical (l.foldl f s) = true := by
  induction l generalizing s with
  | nil => exact h
  | cons b l ih => exact ih (hf s b h)

variable {s : State}

/-! ## The homes (08 R176) -/

/-- A read at a home slice changes only the L2. -/
theorem l2Touch_frame (s : State) (p : BitVec 7) (n : Nat) : { l2Touch s p n with l2 := s.l2 } = s := by
  unfold l2Touch; split
  · rfl
  · split_ifs <;> rfl

@[simp] theorem l2Touch_mem (s : State) (p : BitVec 7) (n : Nat) : (l2Touch s p n).mem = s.mem := by
  have h := congrArg State.mem (l2Touch_frame s p n); exact h

@[simp] theorem l2Touch_win (s : State) (p : BitVec 7) (n : Nat) : (l2Touch s p n).win = s.win := by
  have h := congrArg State.win (l2Touch_frame s p n); exact h

/-- A write at a home slice marks its line in the L2 and changes nothing else. -/
theorem l2Store_frame (s : State) (p : BitVec 7) (n : Nat) (d : BitVec 1024) : { l2Store s p n d with l2 := s.l2 } = s := by
  unfold l2Store; split
  · dsimp only; split_ifs <;> rfl
  · split_ifs <;> rfl

@[simp] theorem l2Store_mem (s : State) (p : BitVec 7) (n : Nat) (d : BitVec 1024) : (l2Store s p n d).mem = s.mem := by
  have h := congrArg State.mem (l2Store_frame s p n d); exact h

@[simp] theorem l2Store_win (s : State) (p : BitVec 7) (n : Nat) (d : BitVec 1024) : (l2Store s p n d).win = s.win := by
  have h := congrArg State.win (l2Store_frame s p n d); exact h

theorem canonical_l2Touch (h : memoriesCanonical s = true) (p : BitVec 7) (n : Nat) : memoriesCanonical (l2Touch s p n) = true :=
  canonical_of_same h (by simp) (by simp)

theorem canonical_homeTouch (h : memoriesCanonical s = true) (n : Nat) : memoriesCanonical (homeTouch s n) = true :=
  canonical_l2Touch (s := countHome s n) (canonical_of_same h rfl rfl) _ _

/-- Home memory changed to a memory in canonical form. -/
theorem canonical_homeCommit (h : memoriesCanonical s = true) (p : BitVec 7) {m : List Host.Cell} (hm : Memory.wf m = true)
    (ns : List Nat) : memoriesCanonical (homeCommit s p m ns) = true :=
  canonical_foldl _ (fun _ _ h => canonical_of_same h (by simp) (by simp)) ns (canonical_mem (t := { s with mem := m }) h hm rfl)

theorem canonical_repairRange (h : memoriesCanonical s = true) (pa n : Nat) : memoriesCanonical (repairRange s pa n) = true :=
  canonical_foldl _ (fun _ _ h => by split_ifs <;> exact canonical_of_same h rfl rfl) _ h

theorem canonical_homeWrite (h : memoriesCanonical s = true) (pa n v : Nat) : memoriesCanonical (homeWrite s pa n v) = true := by
  refine canonical_repairRange (canonical_homeCommit ?_ _ (wf_memPut ((canonical_iff s).mp h).1 pa n v) _) pa n
  exact canonical_foldl countHome (fun _ _ h => canonical_of_same h rfl rfl) _ h

/-! ## Registration, containment and traps -/

@[simp] theorem register_mem (s : State) (pa n : Nat) (w p : Bool) : (register s pa n w p).mem = s.mem := by
  have h := congrArg State.mem (register_frame s pa n w p); exact h

@[simp] theorem register_win (s : State) (pa n : Nat) (w p : Bool) : (register s pa n w p).win = s.win := by
  have h := congrArg State.win (register_frame s pa n w p); exact h

theorem canonical_contain (h : memoriesCanonical s = true) (p : BitVec 6) : memoriesCanonical (contain s p) = true :=
  canonical_mem h (wf_filter ((canonical_iff s).mp h).1 _) rfl

theorem canonical_retire (h : memoriesCanonical s = true) (l : Option Nat) : memoriesCanonical (retire s l) = true := by
  unfold retire; split
  · exact h
  · split_ifs <;> first | exact h | exact canonical_contain h _

/-- What follows a retirement keeps the form where it does from any state. -/
theorem canonical_retiring (h : memoriesCanonical s = true) (l : Option Nat) {k : State → State}
    (hk : ∀ t, memoriesCanonical t = true → memoriesCanonical (k t) = true) : memoriesCanonical (retiring s l k) = true := by
  unfold retiring; split_ifs
  · exact canonical_retire h l
  · exact hk _ (canonical_retire h l)

theorem canonical_takeTrap (h : memoriesCanonical s = true) (t : Trap) : memoriesCanonical (takeTrap s t) = true := by
  unfold takeTrap
  refine canonical_retiring h _ fun u hu => ?_
  dsimp only
  split_ifs <;> exact canonical_of_same hu rfl rfl

@[simp] theorem focus_mem (s : State) (id : CtxId) : (focus s id).mem = s.mem := by
  unfold focus; split_ifs
  · rfl
  · split <;> rfl

@[simp] theorem focus_win (s : State) (id : CtxId) : (focus s id).win = s.win := by
  unfold focus; split_ifs
  · rfl
  · split <;> rfl

@[simp] theorem putCtx_mem (s : State) (id : CtxId) (c : Ctx) : (putCtx s id c).mem = s.mem := by
  unfold putCtx; split_ifs <;> rfl

@[simp] theorem putCtx_win (s : State) (id : CtxId) (c : Ctx) : (putCtx s id c).win = s.win := by
  unfold putCtx; split_ifs <;> rfl

@[simp] theorem blockOn_mem (s : State) (w : WaitFor) : (blockOn s w).mem = s.mem := by unfold blockOn; split <;> rfl
@[simp] theorem blockOn_win (s : State) (w : WaitFor) : (blockOn s w).win = s.win := by unfold blockOn; split <;> rfl

theorem canonical_sendPacket (h : memoriesCanonical s = true) (c : CtxId) (p : BitVec 7) (r : List Nat) (l : Load) :
    memoriesCanonical (sendPacket s c p r l) = true := by
  unfold sendPacket; split_ifs
  · exact canonical_of_same h rfl rfl
  · exact canonical_contain h _

theorem canonical_updCtx (h : memoriesCanonical s = true) (id : CtxId) (f : Ctx → Ctx) : memoriesCanonical (updCtx s id f) = true := by
  unfold updCtx; split
  · exact h
  · split_ifs
    · exact canonical_mem h (by simpa using wf_writeView ((canonical_iff s).mp h).1 _ _) (by simp)
    · exact canonical_of_same h (by simp) (by simp)

/-! ## Translation -/

theorem canonical_installTlb (h : memoriesCanonical s = true) (e : TlbEntry) : memoriesCanonical (installTlb s e) = true := by
  unfold installTlb; dsimp only; split
  · exact canonical_of_same h rfl rfl
  · split_ifs <;> exact canonical_of_same h (by simp) (by simp)

/-- A translation keeps the form, and so does the state in which it leaves a fault. -/
theorem canonical_xlate (h : memoriesCanonical s = true) (pr : BitVec 2) (va : Word) (n : Need) :
    memoriesCanonical (xlate s pr va n).1 = true := by
  unfold xlate
  split_ifs
  · exact h
  · split
    · exact h
    · dsimp only
      split_ifs
      · exact h
      · have ht := canonical_foldl homeTouch (fun _ _ h => canonical_homeTouch h _)
          (walkLines s s.me pr va n) (canonical_of_same (t := countEvent s 0x06 1) h rfl rfl)
        split
        · exact canonical_installTlb ht _
        · exact ht
        · exact h

theorem canonical_translate (h : memoriesCanonical s = true) {t : State} {pr : BitVec 2} {va : Word} {n : Need} {pa : Nat}
    (ht : translate s pr va n = .ok t pa) : memoriesCanonical t = true := by
  have hx := canonical_xlate h pr va n
  unfold translate at ht
  split at ht <;> simp_all

theorem canonical_access (h : memoriesCanonical s = true) {t : State} {pr : BitVec 2} {va : Word} {size : Nat} {n : Need} {pa : Nat}
    (ht : access s pr va size n = .ok t pa) : memoriesCanonical t = true := by
  unfold access at ht; split_ifs at ht; exact canonical_translate h ht

/-- An access that waits changes no memory: it may note a page to be pulled. -/
theorem access_stall {t : State} {pr : BitVec 2} {va : Word} {size : Nat} {n : Need} (h : access s pr va size n = .stall t) :
    t = s ∨ ∃ ipa, t = wantPull s (myPart s) ipa := by
  unfold access at h; split_ifs at h
  unfold translate at h
  split at h
  · cases h
  · cases h
  · injection h with h; exact .inr ⟨_, h.symm⟩
  · injection h with h; exact .inl h.symm

theorem canonical_wantPull (h : memoriesCanonical s = true) (p : BitVec 6) (ipa : Nat) :
    memoriesCanonical (wantPull s p ipa) = true := by
  unfold wantPull; dsimp only; split_ifs
  · exact h
  · exact canonical_of_same h rfl rfl

/-! ## The L1 -/

theorem canonical_writeBack (h : memoriesCanonical s = true) (l : Line) : memoriesCanonical (writeBack s l) = true := by
  have hc := canonical_homeCommit (s := countHome s l.num) (canonical_of_same h rfl rfl) s.me.id.part
    (wf_mergeLine ((canonical_iff s).mp h).1 l 128) [l.num]
  unfold writeBack
  dsimp only
  split_ifs <;> first | exact h | exact hc

theorem canonical_writeBackAll (h : memoriesCanonical s = true) (ls : List Line) : memoriesCanonical (writeBackAll s ls) = true := by
  induction ls generalizing s with
  | nil => exact h
  | cons l ls ih => exact ih (canonical_writeBack h l)

theorem canonical_quietBack (h : memoriesCanonical s = true) (ls : List Line) : memoriesCanonical (quietBack s ls) = true :=
  canonical_of_same (canonical_writeBackAll h ls) rfl rfl

theorem canonical_cleanL1 (h : memoriesCanonical s = true) : memoriesCanonical (cleanL1 s) = true :=
  canonical_of_same (canonical_writeBackAll h s.me.l1) rfl rfl

theorem canonical_dropClean (h : memoriesCanonical s = true) : memoriesCanonical (dropClean s) = true := canonical_of_same h rfl rfl

theorem canonical_dropLine (h : memoriesCanonical s = true) (n : Nat) : memoriesCanonical (dropLine s n) = true := by
  unfold dropLine; split
  · exact h
  · exact canonical_of_same (canonical_writeBack h _) rfl rfl

theorem canonical_putLine (h : memoriesCanonical s = true) (l : Line) : memoriesCanonical (putLine s l) = true :=
  canonical_of_same (canonical_writeBackAll h (evictees s l.num)) rfl rfl

theorem canonical_l1Line (h : memoriesCanonical s = true) (n : Nat) (ro : Bool) : memoriesCanonical (l1Line s n ro).1 = true := by
  have fill : ∀ t : State, memoriesCanonical t = true →
      memoriesCanonical (putLine (homeTouch (countEvent t 0x03 1) n) (fillLine t n ro)) = true := fun t ht =>
    canonical_putLine (canonical_homeTouch (s := countEvent t 0x03 1) (canonical_of_same ht rfl rfl) n) _
  unfold l1Line; split
  · split_ifs
    · exact canonical_putLine (s := countEvent s 0x02 1) (canonical_of_same h rfl rfl) _
    · exact fill _ (canonical_dropLine h n)
  · exact fill _ h

theorem canonical_l1Read (h : memoriesCanonical s = true) (pa n : Nat) (ro : Bool) : memoriesCanonical (l1Read s pa n ro).1 = true :=
  canonical_l1Line h _ ro

theorem canonical_l1Write (h : memoriesCanonical s = true) (pa n v : Nat) : memoriesCanonical (l1Write s pa n v) = true :=
  canonical_putLine (canonical_l1Line h _ false) _

/-! ## Window memory and region ends -/

theorem canonical_winPut (h : memoriesCanonical s = true) (c : CoreId) (a n v : Nat) : memoriesCanonical (winPut s c a n v) = true :=
  canonical_win h rfl (wf_memPut ((canonical_iff s).mp h).2 _ n v)

theorem canonical_syncArrive (h : memoriesCanonical s = true) (id : CtxId) (a n : Nat) : memoriesCanonical (syncArrive s id a n) = true := by
  unfold syncArrive; dsimp only
  split_ifs <;> first
    | exact canonical_updCtx (canonical_winPut (canonical_winPut h _ _ _ _) _ _ _ _) _ _
    | exact canonical_winPut (canonical_winPut h _ _ _ _) _ _ _ _

theorem canonical_releaseEnd (h : memoriesCanonical s = true) (sc : Nat) : memoriesCanonical (releaseEnd s sc) = true := by
  unfold releaseEnd; split_ifs
  · exact canonical_of_same h rfl rfl
  · exact canonical_of_same (canonical_cleanL1 h) rfl rfl

theorem canonical_acquireEnd (h : memoriesCanonical s = true) (e : BitVec 5) (sc : Nat) : memoriesCanonical (acquireEnd s e sc) = true := by
  unfold acquireEnd; dsimp only; split_ifs <;> exact canonical_of_same h rfl rfl

theorem canonical_focus (h : memoriesCanonical s = true) (id : CtxId) : memoriesCanonical (focus s id) = true :=
  canonical_of_same h (by simp) (by simp)

/-! ## The ends of a meaning -/

/-- An end in finish keeps the form where its effect does and where a walk that ends in a fault has. -/
theorem canonical_finish {r : Except Trap State} {u : State} (h : memoriesCanonical s = true)
    (hr : ∀ t, r = .ok t → memoriesCanonical t = true)
    (hb : ∀ t b, r = .error t → t.base = some b → memoriesCanonical b = true) (hu : finish s r = .next u) :
    memoriesCanonical u = true := by
  rcases finish_inv hu with h1 | ⟨t, ht, rfl⟩
  · exact hr u h1
  · refine canonical_takeTrap ?_ t
    cases hbt : t.base with
    | none => exact h
    | some b => exact hb t b ht hbt

/-- What goes on behind a walk has gone on by itself. -/
theorem afterWalk_inv {t u : State} {r : Except Trap State} (h : afterWalk t r = .ok u) : r = .ok u := by
  cases r with
  | ok v => exact h
  | error f => cases h

/-- An access of a handler keeps the form where what follows it does. -/
theorem canonical_withAccess {va : Word} {size : Nat} {n : Need} {k : State → Nat → Except Trap State} {u : State}
    (h : memoriesCanonical s = true) (hk : ∀ t pa, memoriesCanonical t = true → k t pa = .ok u → memoriesCanonical u = true)
    (hu : withAccess s va size n k = .ok u) : memoriesCanonical u = true := by
  unfold withAccess at hu
  split at hu
  · rename_i t pa ha
    have ht := canonical_access h ha
    split_ifs at hu
    · exact hk t pa ht (afterWalk_inv hu)
    · cases hu; exact canonical_contain ht _
  · cases hu
  · rename_i t ha
    cases hu
    rcases access_stall ha with rfl | ⟨ipa, rfl⟩
    · exact canonical_of_same h rfl rfl
    · exact canonical_of_same (canonical_wantPull h _ ipa) rfl rfl

theorem canonical_pinStall {va : Word} {n : Nat} {hopeless : Bool} {u : State} (h : memoriesCanonical s = true)
    (hu : pinStall s va n hopeless = .ok u) : memoriesCanonical u = true := by
  unfold pinStall at hu
  split_ifs at hu
  cases hu; exact canonical_of_same h rfl rfl

theorem canonical_guardHome {va : Option Word} {rs : List HomeReq} {k : Except Trap State} {u : State} (h : memoriesCanonical s = true)
    (hk : k = .ok u → memoriesCanonical u = true) (hu : guardHome s va rs k = .ok u) : memoriesCanonical u = true := by
  unfold guardHome at hu
  split at hu
  · exact hk hu
  · cases hu
  · cases hu; exact canonical_of_same h rfl rfl
  · exact canonical_pinStall h hu

theorem canonical_guardBack {ls : List Line} {k : Except Trap State} {u : State} (h : memoriesCanonical s = true)
    (hk : k = .ok u → memoriesCanonical u = true) (hu : guardBack s ls k = .ok u) : memoriesCanonical u = true := canonical_guardHome h hk hu

theorem canonical_guardLine {va : Word} {n : Nat} {ro : Bool} {k : Except Trap State} {u : State} (h : memoriesCanonical s = true)
    (hk : k = .ok u → memoriesCanonical u = true) (hu : guardLine s va n ro k = .ok u) : memoriesCanonical u = true := canonical_guardHome h hk hu

/-- A plain access keeps the form where what follows it does. -/
theorem canonical_plainAccess {va : Word} {pa size : Nat} {w : Bool} {k : State → Except Trap State} {u : State}
    (h : memoriesCanonical s = true) (hk : ∀ t, memoriesCanonical t = true → k t = .ok u → memoriesCanonical u = true)
    (hu : plainAccess s va pa size w k = .ok u) : memoriesCanonical u = true := by
  unfold plainAccess checkedAccess at hu
  split_ifs at hu
  all_goals first
    | exact canonical_pinStall h hu
    | exact canonical_guardLine (canonical_of_same h (by simp) (by simp)) (fun h1 => by cases h1) hu
    | exact canonical_guardLine (canonical_of_same h (by simp) (by simp)) (fun h1 => hk _ (canonical_of_same h (by simp) (by simp)) h1) hu

end Sys2Proof.Machine
end

