-- ==== Sys2Proof/Laws/Step.lean ====
section
/-! SUPPORT. What one step can be: the cases of its move, and what its clock changes. -/

namespace Sys2Proof.Machine

/-! ## The clock -/

theorem clockCtx_frame (s : State) (c : Ctx) :
    { clockCtx s c with cyc := c.cyc, pairCyc := c.pairCyc, perf := c.perf } = c := by
  unfold clockCtx; split_ifs <;> rfl

@[simp] theorem clockCtx_id (s : State) (c : Ctx) : (clockCtx s c).id = c.id := by unfold clockCtx; split_ifs <;> rfl
@[simp] theorem clockCtx_regs (s : State) (c : Ctx) : (clockCtx s c).regs = c.regs := by unfold clockCtx; split_ifs <;> rfl
@[simp] theorem clockCtx_sys (s : State) (c : Ctx) : (clockCtx s c).sys = c.sys := by unfold clockCtx; split_ifs <;> rfl
@[simp] theorem clockCtx_htab (s : State) (c : Ctx) : (clockCtx s c).htab = c.htab := by unfold clockCtx; split_ifs <;> rfl
@[simp] theorem clockCtx_fab (s : State) (c : Ctx) : (clockCtx s c).fab = c.fab := by unfold clockCtx; split_ifs <;> rfl
@[simp] theorem clockCtx_mx (s : State) (c : Ctx) : (clockCtx s c).mx = c.mx := by unfold clockCtx; split_ifs <;> rfl

@[simp] theorem clock_mem (s : State) : (clock s).mem = s.mem := rfl
@[simp] theorem clock_win (s : State) : (clock s).win = s.win := rfl
@[simp] theorem clock_cores (s : State) : (clock s).cores = s.cores := rfl
@[simp] theorem clock_parts (s : State) : (clock s).parts = s.parts := rfl
@[simp] theorem clock_tick (s : State) : (clock s).tick = s.tick + 1 := rfl
@[simp] theorem clock_regs (s : State) : (clock s).me.regs = s.me.regs := clockCtx_regs s s.me
@[simp] theorem clock_sys (s : State) : (clock s).me.sys = s.me.sys := clockCtx_sys s s.me

theorem canonical_clock {s : State} (h : Safety.memoriesCanonical s = true) : Safety.memoriesCanonical (clock s) = true :=
  canonical_of_same h rfl rfl

@[simp] theorem clocked_next (t : State) : clocked (.next t) = .next (clock t) := rfl
@[simp] theorem clocked_fault (f : Fault) : clocked (.fault f) = .fault f := rfl
@[simp] theorem clocked_refused (f : Refusal) : clocked (.refused f) = .refused f := rfl

/-- A step answers a next state exactly where its move does. -/
theorem step_next_iff {s t : State} : step s = .next t ↔ ∃ u, move s = .next u ∧ t = clock u := by
  unfold step
  cases move s with
  | next u => exact ⟨fun h => ⟨u, rfl, by injection h with h; exact h.symm⟩, fun ⟨v, hv, ht⟩ => by
      injection hv with hv; subst hv; rw [ht]; rfl⟩
  | fault f => simp
  | refused f => simp

/-! ## The move -/

/-- The end of an epoch and the boundaries of a calendar come before every other move, at their KTIME. -/
theorem move_timed {s : State} {i : UnitMove} (ht : timed s = some i) : move s = i s := by unfold move; rw [ht]

theorem move_agenda {s : State} {m : Move} {rest : List Move} (ht : timed s = none) (h : s.agenda = m :: rest) :
    move s = agendaMove { s with agenda := rest } m := by unfold move; rw [ht, h]

theorem move_halted {s : State} (h : s.agenda = []) (hh : s.boot.halted = true) : move s = .fault .moduleHalted := by
  have ht : timed s = none := by unfold timed; rw [if_pos (Or.inl hh)]
  unfold move; rw [ht, h]; exact if_pos hh

theorem move_sequence {s : State} (ht : timed s = none) (h : s.agenda = []) (hh : s.boot.halted = false)
    (hd : due s = none) : move s = sequence s := by
  unfold move; rw [ht, h]; dsimp only; rw [if_neg (by simp [hh]), hd]

theorem move_due {s : State} {i : UnitMove} (ht : timed s = none) (h : s.agenda = []) (hh : s.boot.halted = false)
    (hd : due s = some i) : move s = i s := by
  unfold move; rw [ht, h]; dsimp only; rw [if_neg (by simp [hh]), hd]

theorem find_none_of_false {α : Type} {l : Tab α} {p : Nat × α → Bool} (h : ∀ r, p r = false) : l.find? p = none := by
  simp [h]

/-- Nothing is timed before the end of the epoch where no calendar has a boundary. -/
theorem timed_none {s : State} (hk : s.ktime.toNat < s.epochAt.toNat) (hb : ∀ c, boundaryDue s c = false) :
    timed s = none := by
  unfold timed; split_ifs
  · rfl
  · omega
  · rw [find_none_of_false fun r => hb _]; rfl

/-- No swap is due where none can be made. -/
theorem due_none {s : State} (hs : ∀ c, swapDue s c = false) : due s = none := by
  unfold due; split_ifs
  · rfl
  · rw [find_none_of_false fun r => hs _]; rfl

/-- The sequencer in focus issues where its set is Active, a handler runs and nothing comes first. -/
theorem sequence_issue {s : State} (ha : mayAct s = true) (hr : s.me.run.isSome = true) (hi : s.me.sys.idle = false)
    (hy : asyncFirst s = false) : sequence s = issue s := by
  have hw : wakeIdle s = s := by unfold wakeIdle; rw [hi]; rfl
  unfold sequence
  rw [if_neg (by simp [ha])]
  simp [hw, hr, hi, hy]

theorem issue_word {s t : State} {w : BitVec 32} (h : fetch s = .word t w) : issue s = issueWord t w := by unfold issue; rw [h]

/-- A word that decodes is executed, counted as an issue. -/
theorem issueWord_decoded {t : State} {w : BitVec 32} {i : Instr} (hs : stalls w t = false) (hd : decode w = .ok i) :
    issueWord t w = orMove (exec i (issued { t with me.atVector := false })) := by
  unfold issueWord; rw [if_neg (by simp [hs]), hd]

/-- Issue changes no register, no memory and no configuration: it clears the marks of a wait and counts. -/
theorem issued_frame (s : State) :
    { issued s with me.stalled := s.me.stalled, me.pinWait := s.me.pinWait, me.first := s.me.first, me.perf := s.me.perf,
                    me.work := s.me.work } = s := by
  unfold issued countWork; dsimp only; split_ifs <;> rfl

@[simp] theorem issued_me_stalled (s : State) : (issued s).me.stalled = false := by
  unfold issued countWork; dsimp only; split_ifs <;> rfl
@[simp] theorem issued_me_pinWait (s : State) : (issued s).me.pinWait = none := by
  unfold issued countWork; dsimp only; split_ifs <;> rfl
@[simp] theorem issued_me_regs (s : State) : (issued s).me.regs = s.me.regs := by
  have h := congrArg (fun t => t.me.regs) (issued_frame s); exact h
@[simp] theorem issued_mem (s : State) : (issued s).mem = s.mem := by
  have h := congrArg State.mem (issued_frame s); exact h

/-- A word that has its effect in full ends its step there. -/
theorem orMove_done {t : State} (h : t.me.stalled = false) : orMove (.next t) = .next t := by simp [orMove, h]

/-- A word that waits lets another unit move. -/
theorem orMove_waits {t : State} (h : t.me.stalled = true) : orMove (.next t) = .next (autoMove t) := by simp [orMove, h]

/-- A word that decodes to no instruction is an illegal instruction with KEVAL the word (04 R83). -/
theorem issueWord_illegal {t : State} {w : BitVec 32} {e : DecodeError} (hs : stalls w t = false) (hd : decode w = .error e) :
    issueWord t w = .next (takeTrap { t with me.atVector := false } { cause := 0x01, value := w.setWidth 64 }) := by
  unfold issueWord; rw [if_neg (by simp [hs]), hd]

/-! ## Moves of units -/

/-- A move of another unit is the first of the list that changes the state, or none. -/
theorem firstMove_cases (s : State) (l : List UnitMove) :
    firstMove s l = s ∨ ∃ i ∈ l, i s = .next (firstMove s l) := by
  induction l with
  | nil => exact .inl rfl
  | cons i is ih =>
    have step : firstMove s is = s ∨ ∃ j ∈ i :: is, j s = .next (firstMove s is) :=
      ih.imp id fun ⟨j, hj, h⟩ => ⟨j, List.mem_cons_of_mem _ hj, h⟩
    unfold firstMove
    split
    · rename_i t ht
      split_ifs
      · exact step
      · exact .inr ⟨i, List.mem_cons_self .., ht⟩
    · exact step

end Sys2Proof.Machine
end

