-- ==== Sys2Proof/Tests/Slice0.lean ====
section
/-! SUPPORT. Tests: the words of the formats, the checks of well-formedness, one step of many instructions against results that the
spec states, and for every statement with hypotheses a state and operands that meet them. -/

namespace Sys2Proof.Tests

open Sys2Proof Sys2Proof.Machine Sys2Proof.Claims

set_option maxRecDepth 20000
set_option Elab.async false

/-! ## Words -/

/-- Every word decodes to the instruction beside it, which encodes to the word. -/
def decodes (l : List (BitVec 32 × Instr)) : Bool := l.all (fun p => decode p.1 == .ok p.2 && encode p.2 == some p.1)

/-- The words that the spec prints beside its own examples (06 R112, R117 to R121, R128, R131; 09, 12 to 14, 18 to 22). -/
theorem test_words_of_the_examples : decodes [
    (0x3121FFFB, .cmpi 2 2 7 0x3FFB), (0x6C01C000, .jr 7), (0x04518700, .add 5 6 7), (0x0451871B, .sel 5 6 7 3),
    (0x28500007, .li 5 7), (0x2C5FF800, .lis 5 0xFF800), (0x40824A01, .fadd 8 9 10 1), (0xA4018002, .czero 6),
    (0x28B00004, .li 11 4), (0x0CC3400A, .csum 12 13), (0x14A28004, .addi 10 10 4), (0x7002FFFD, .loop 11 0x3FFD),
    (0x28E0880F, .li 14 0x880F), (0x10830E00, .ceq 1 12 14), (0x74000001, .endH), (0xAC500000, .xcopy 5 0 0 0 0 0 0),
    (0xAC900004, .xcopy 9 0 0 0 1 0 0), (0xF4714600, .dcset 7 5 6), (0xF0000000, .wait 0 0 0 0), (0xF4A14003, .dcget 10 5),
    (0xC8014900, .cfg 5 9), (0xCCC28B00, .go 12 10 11), (0x7D400004, .mfs 20 0x004), (0xCD758004, .gstat 23 22),
    (0xC8051701, .cfgw 20 23), (0xCD858003, .replay 24 22), (0xA0000019, .fence 6 1), (0x0D411A08, .extn 20 4 26),
    (0xCD858002, .abort 24 22), (0xC5F78002, .recvk 31 30 0), (0x09139004, .divn 17 14 16), (0xF8714602, .barinit 7 5 6),
    (0xC0014400, .send 5 4), (0xF8614001, .barw 6 5), (0xFCA24004, .ocrd 10 9), (0x80D2C200, .ld 13 11 4 0),
    (0x84C28200, .st 12 10 2 0), (0xE4714600, .launch 7 5 6), (0xF4714604, .dcbind 7 5 6), (0x80810290, .ld 8 4 5 16),
    (0x8482420D, .st 8 9 2 13), (0x84064307, .st 0 25 3 7), (0x7C01A020, .mts 6 0x020), (0xB0A00000, .xchn 10 0 0),
    (0x31658003, .cmpi 2 6 22 3), (0xB585C001, .xcancel 24 23), (0x7C500019, .mfs 5 0x019), (0xE8610000, .trn 6 4),
    (0xD0500000, .mxcfg 5 0), (0xD0824020, .mxlw 8 9 0), (0xD0000040, .mxswp), (0xD0B3C061, .mxrun 11 15 0 1),
    (0xD0E3C0A0, .mxacc 14 15 0 0), (0x89438280, .ldw 20 14 5 0), (0xE8614002, .slack 6 5), (0xE8700001, .trne 7)] = true := by decide +kernel

/-! One word for each encoded instruction, its operands spread over their fields: d = 37, a = 22, b = 11, c = 50. -/

/-- 06 R112 to R120. -/
theorem test_words_integer : decodes [
    (0x06558B00, .add 37 22 11), (0x06558B01, .sub 37 22 11), (0x06558B02, .and 37 22 11), (0x06558B03, .or 37 22 11),
    (0x06558B04, .xor 37 22 11), (0x06558B05, .andn 37 22 11), (0x06558B06, .orn 37 22 11), (0x06558B07, .shl 37 22 11),
    (0x06558B08, .shr 37 22 11), (0x06558B09, .sha 37 22 11), (0x06558B0A, .rol 37 22 11), (0x06558B0B, .min 37 22 11),
    (0x06558B0C, .max 37 22 11), (0x06558B0D, .minn 37 22 11), (0x06558B0E, .maxn 37 22 11), (0x06558B0F, .adds 37 22 11),
    (0x06558B10, .subs 37 22 11), (0x06558B11, .add32 37 22 11), (0x06558B12, .sub32 37 22 11), (0x06558B1E, .sel 37 22 11 6),
    (0x0A558B00, .mul 37 22 11), (0x0A558B01, .mulh 37 22 11), (0x0A558B02, .mulhn 37 22 11), (0x0A558B03, .div 37 22 11),
    (0x0A558B04, .divn 37 22 11), (0x0A558B05, .rem 37 22 11), (0x0A558B06, .remn 37 22 11), (0x0A558B07, .mul32 37 22 11),
    (0x0E558000, .clz 37 22), (0x0E558001, .ctz 37 22), (0x0E558002, .popc 37 22), (0x0E558003, .brev 37 22),
    (0x0E558004, .bswap 37 22), (0x0E558005, .abs 37 22), (0x0E558006, .neg 37 22), (0x0E558B07, .ext 37 22 11),
    (0x0E558B08, .extn 37 22 11), (0x0E558B09, .ins 37 22 11), (0x0E55800A, .csum 37 22), (0x13058B00, .ceq 6 22 11),
    (0x13058B01, .cne 6 22 11), (0x13058B02, .clt 6 22 11), (0x13058B03, .cle 6 22 11), (0x13058B04, .cltn 6 22 11),
    (0x13058B05, .clen 6 22 11), (0x13058B06, .ctst 6 22 11), (0x13014508, .cand 6 5 5), (0x13014509, .cor 6 5 5),
    (0x1301450A, .cxor 6 5 5), (0x1301400B, .cnot 6 5), (0x1655B4B9, .addi 37 22 13497), (0x1A55B4B9, .andi 37 22 13497),
    (0x1E55B4B9, .ori 37 22 13497), (0x2255B4B9, .xori 37 22 13497), (0x26558039, .shli 37 22 57), (0x26559039, .shri 37 22 57),
    (0x2655A039, .shai 37 22 57), (0x2655B039, .roli 37 22 57), (0x2A5874B9, .li 37 554169), (0x2E5874B9, .lis 37 554169),
    (0x3345B4B9, .cmpi 6 4 22 13497), (0x365874B9, .lea 37 554169)] = true := by decide +kernel

/-- 06 R121 to R127. -/
theorem test_words_float : decodes [
    (0x42558B02, .fadd 37 22 11 2), (0x42558B0A, .fsub 37 22 11 2), (0x42558B12, .fmul 37 22 11 2), (0x42558B1A, .fdiv 37 22 11 2),
    (0x42558022, .fsqrt 37 22 2), (0x42558B2A, .fmin 37 22 11 2), (0x42558B32, .fmax 37 22 11 2), (0x4255803A, .fabs 37 22 2),
    (0x42558042, .fneg 37 22 2), (0x4255804A, .fclass 37 22 2), (0x46558BCA, .ffma 37 22 11 50 2), (0x4B058B02, .fceq 6 22 11 2),
    (0x4B058B0A, .fclt 6 22 11 2), (0x4B058B12, .fcle 6 22 11 2), (0x4B058B1A, .fcun 6 22 11 2), (0x4E559C16, .fcvt 37 22 3 1 5 2),
    (0x4E559836, .ftoi 37 22 3 5 2), (0x4E559C56, .itof 37 22 3 1 5 2)] = true := by decide +kernel

/-- 06 R128 to R137. -/
theorem test_words_control : decodes [
    (0x00B874B9, .ill 12088505), (0x637874B9, .br 6 1 3699897), (0x64B874B9, .jmp 12088505), (0x68B874B9, .call 12088505),
    (0x6C058000, .jr 22), (0x6C058001, .callr 22), (0x7005B4B9, .loop 22 13497), (0x74000000, .nop), (0x74000001, .endH),
    (0x74000002, .yield), (0x74000003, .idle), (0x78058000, .trap 22), (0x78058001, .hcall 22), (0x78000002, .eret),
    (0x78000003, .brk), (0x7A558010, .ctxsw 37 22), (0x7A558011, .ctxpark 37 22), (0x7A558B12, .ctxload 37 22 11),
    (0x7E500808, .mfs 37 2056), (0x7C05A008, .mts 22 8)] = true := by decide +kernel

/-- 09 R188 to R200. -/
theorem test_words_memory : decodes [
    (0x825582B9, .ld 37 22 5 57), (0x86558239, .st 37 22 2 57), (0x8A5582B9, .ldw 37 22 5 57), (0x8E558239, .stw 37 22 2 57),
    (0x925582B9, .ldro 37 22 5 57), (0xA00000E6, .fence 57 2), (0xA4058000, .cflush 22), (0xA4058001, .cinv 22),
    (0xA4058002, .czero 22), (0xA4058003, .pref 22), (0xA8058B00, .swset 22 11), (0xA8058B01, .swadd 22 11),
    (0xAA558B02, .swwait 37 22 11), (0xAA558003, .swget 37 22)] = true := by decide +kernel

/-- 09 R192 to R195. -/
theorem test_words_atomic : decodes [
    (0x96558B0A, .aad 37 22 11 2 2), (0x96558B1A, .aand 37 22 11 2 2), (0x96558B2A, .aor 37 22 11 2 2),
    (0x96558B3A, .axor 37 22 11 2 2), (0x96558B4A, .amin 37 22 11 2 2), (0x96558B5A, .amax 37 22 11 2 2),
    (0x96558B6A, .aminn 37 22 11 2 2), (0x96558B7A, .amaxn 37 22 11 2 2), (0x96558B8A, .aswp 37 22 11 2 2),
    (0x96558B9A, .afaddF32 37 22 11 2 2), (0x96558BAA, .afaddF64 37 22 11 2 2), (0x96558BBA, .afaddBf16 37 22 11 2 2),
    (0x9A558B1A, .acas 37 22 11 1 2 2), (0x9E558006, .ald 37 22 1 2), (0x9C058B1A, .ast 22 11 2 2), (0x9E55802E, .ald32 37 22 3 2),
    (0x9C058B3E, .ast32 22 11 3 2), (0xBE558B0A, .aad32 37 22 11 2 2), (0xBE558B1A, .aand32 37 22 11 2 2),
    (0xBE558B2A, .aor32 37 22 11 2 2), (0xBE558B3A, .axor32 37 22 11 2 2), (0xBE558B4A, .amin32 37 22 11 2 2),
    (0xBE558B5A, .amax32 37 22 11 2 2), (0xBE558B6A, .aminn32 37 22 11 2 2), (0xBE558B7A, .amaxn32 37 22 11 2 2),
    (0xBE558B8A, .aswp32 37 22 11 2 2), (0xBE558B9A, .afaddF3232 37 22 11 2 2), (0xBE558BBA, .afaddBf1632 37 22 11 2 2)] = true := by decide +kernel

/-- 09 R215 to R219, R224. -/
theorem test_words_engine : decodes [
    (0xAD62F28B, .xcopy 22 11 50 1 2 1 1), (0xB1600088, .xchn 22 1 2), (0xB6558000, .xstat 37 22), (0xB6558001, .xcancel 37 22),
    (0xB9600080, .xform 22 1)] = true := by decide +kernel

/-- 12 R295 to R303, 07 R146. -/
theorem test_words_fabric : decodes [
    (0xC0058B00, .send 22 11), (0xC6558000, .recv 37 22), (0xC6558001, .peek 37 22), (0xC6558B02, .recvk 37 22 11),
    (0xC8058B00, .cfg 22 11), (0xC8058B01, .cfgw 22 11), (0xCE558B00, .go 37 22 11), (0xCE558001, .drain 37 22),
    (0xCE558002, .abort 37 22), (0xCE558003, .replay 37 22), (0xCE558004, .gstat 37 22), (0xD1600001, .mxcfg 22 1),
    (0xD162C022, .mxlw 22 11 2), (0xD0000040, .mxswp), (0xD162F261, .mxrun 22 11 50 1), (0xD162F281, .mxrung 22 11 50 1),
    (0xD162C0A3, .mxacc 22 11 1 1), (0xD162F2C1, .mxsort 22 11 50 1), (0xD002C0E6, .mxzero 11 6)] = true := by decide +kernel

/-- 13 R309 to R321, 14 R326 to R334. -/
theorem test_words_table : decodes [
    (0xE0058B00, .hset 22 11), (0xE2558001, .hget 37 22), (0xE0058002, .hmask 22), (0xE0058003, .hunmask 22),
    (0xE0058B04, .hrun 22 11), (0xE6558B00, .launch 37 22 11), (0xEA558000, .trn 37 22), (0xEA500001, .trne 37),
    (0xEA558002, .slack 37 22), (0xEC058000, .tlbi 22), (0xEC000001, .tlbia), (0xEC058002, .tlbip 22), (0xEC058B03, .tlbis 22 11),
    (0xF339CE40, .wait 25 25 25 25), (0xF6558B00, .dcset 37 22 11), (0xF6558B01, .dcadd 37 22 11), (0xF6558B02, .dcdec 37 22 11),
    (0xF6558003, .dcget 37 22), (0xF6558B04, .dcbind 37 22 11), (0xFA558000, .bar 37 22), (0xFA558001, .barw 37 22),
    (0xFA558B02, .barinit 37 22 11), (0xFC058B00, .pcsel 22 11), (0xFE558001, .pcrd 37 22), (0xFE500002, .time 37),
    (0xFE558003, .ecnt 37 22), (0xFE558004, .ocrd 37 22)] = true := by decide +kernel

/-- Words that are no instruction, each stopped by the check of 04 R83 that its name says: a reserved major, an unassigned function, a
reserved code, and a nonzero field. -/
theorem test_words_refused :
    decode 0x38000000 = .error .reservedMajor ∧ decode 0x04000013 = .error .unassignedFunction
    ∧ decode 0x80000380 = .error .reservedCode ∧ decode 0x74000101 = .error .nonzeroField
    ∧ decodeBytes [1, 2, 3] = .error .truncated := by decide +kernel

/-- A word in the byte order of the hardware (00 R4), and the same word through the table's numbering. -/
theorem test_word_bytes : wordBytes 0x04518700 = [0x00, 0x87, 0x51, 0x04] ∧ decodeTableWord 32 0x04518700 = some (.add 5 6 7)
    ∧ decodeBytes ([0x00, 0x87, 0x51, 0x04] ++ [9]) = .ok (.add 5 6 7, [9]) := by decide +kernel

/-! ## Well-formedness: one ill-formed term for each check (04 R83 check 4) -/

theorem test_wf_refuses :
    (Instr.fcvt 1 2 6 0 0 0).wf = false ∧ (Instr.fcvt 1 2 0 0 7 0).wf = false ∧ (Instr.ftoi 1 2 0 6 0).wf = false
    ∧ (Instr.itof 1 2 7 0 0 0).wf = false ∧ (Instr.ld 1 2 7 0).wf = false ∧ (Instr.ldw 1 2 7 0).wf = false
    ∧ (Instr.ldro 1 2 7 0).wf = false ∧ (Instr.mfs 1 0x007).wf = false ∧ (Instr.mts 1 0x013).wf = false
    ∧ (Instr.ald 1 2 2 0).wf = false ∧ (Instr.ald32 1 2 2 0).wf = false ∧ (Instr.ast 1 2 1 0).wf = false
    ∧ (Instr.ast32 1 2 1 0).wf = false ∧ (Instr.fence 0 1).wf = false ∧ (Instr.xcopy 1 2 0 0 0 0 0).wf = false
    ∧ (Instr.xcopy 1 0 2 0 0 0 0).wf = false ∧ (Instr.mxlw 1 2 3).wf = false ∧ (Instr.mxzero 1 3).wf = false := by decide

theorem test_wf_admits :
    (Instr.fcvt 1 2 5 0 5 0).wf = true ∧ (Instr.ld 1 2 6 0).wf = true ∧ (Instr.mts 1 0x012).wf = true ∧ (Instr.fence 1 0).wf = true
    ∧ (Instr.xcopy 1 2 3 0 0 1 1).wf = true ∧ (Instr.mxzero 1 15).wf = true := by decide
/-! ## States for the tests -/

/-- The module at work: the monitor's context on core 511 of die 0 runs handler 0 at monitor privilege at 0x440. -/
def base : State := placed State.reset []

/-- What a next state shows; none where the machine stops. -/
def after {α : Type} (o : Host.Outcome State Fault Refusal) (f : State → α) : Option α :=
  match o with
  | .next t => some (f t)
  | _ => none

/-- x in g1, y in g2. -/
def with2 (x y : Word) : State := writeG (writeG base 1#6 x) 2#6 y

/-- g3 after an instruction on g1 = x and g2 = y. -/
def g3 (i : Instr) (x y : Word) : Option Word := after (exec i (with2 x y)) (readG · 3#6)

/-- c3 after an instruction on g1 = x and g2 = y. -/
def c3 (i : Instr) (x y : Word) : Option Bool := after (exec i (with2 x y)) (readC · 3#3)

/-- A state at another privilege. -/
def atPriv (p : BitVec 2) (s : State) : State := { s with me.regs.ks.priv := p }

/-- Where a step leaves its cause, its value and its PC. -/
def trapped (o : Host.Outcome State Fault Refusal) : Option (Word × Word × Word) :=
  after o (fun t => (t.me.sys.kcause, t.me.sys.keval, t.me.regs.pc))

/-! ## Integer instructions (06 R112 to R120) -/

theorem test_alu_wraps_and_shifts :
    g3 (.add 3 1 2) 0xFFFFFFFFFFFFFFFF 1 = some 0 ∧ g3 (.sub 3 1 2) 0 1 = some 0xFFFFFFFFFFFFFFFF
    ∧ g3 (.shl 3 1 2) 1 0x47 = some 0x80 ∧ g3 (.shr 3 1 2) 0x8000000000000000 63 = some 1
    ∧ g3 (.sha 3 1 2) 0x8000000000000000 63 = some 0xFFFFFFFFFFFFFFFF ∧ g3 (.rol 3 1 2) 0x8000000000000001 1 = some 3
    ∧ g3 (.rol 3 1 2) 5 64 = some 5 ∧ g3 (.andn 3 1 2) 0xFF 0x0F = some 0xF0 ∧ g3 (.orn 3 1 2) 1 0xFFFFFFFFFFFFFFF0 = some 0xF := by
  decide

theorem test_alu_orders_and_clamps :
    g3 (.min 3 1 2) 0xFFFFFFFFFFFFFFFF 1 = some 0xFFFFFFFFFFFFFFFF ∧ g3 (.minn 3 1 2) 0xFFFFFFFFFFFFFFFF 1 = some 1
    ∧ g3 (.max 3 1 2) 0xFFFFFFFFFFFFFFFF 1 = some 1 ∧ g3 (.maxn 3 1 2) 0xFFFFFFFFFFFFFFFF 1 = some 0xFFFFFFFFFFFFFFFF
    ∧ g3 (.adds 3 1 2) 0x7FFFFFFFFFFFFFFF 1 = some 0x7FFFFFFFFFFFFFFF ∧ g3 (.subs 3 1 2) 0x8000000000000000 1 = some 0x8000000000000000
    ∧ g3 (.add32 3 1 2) 0x1FFFFFFFF 1 = some 0 ∧ g3 (.sub32 3 1 2) 0 1 = some 0xFFFFFFFF
    ∧ g3 (.sel 3 1 2 0) 7 9 = some 7 ∧ g3 (.sel 3 1 2 1) 7 9 = some 9 := by decide

/-- g0 reads 0 and a write to it is discarded (05 R99). -/
theorem test_g0_discards : after (exec (.add 0 1 2) (with2 3 4)) (fun t => (readG t 0, t.me.regs.pc)) = some (0, 0x444) := by decide

/-- Division truncates toward zero; −2^63 ÷ −1 gives −2^63 and the remainder 0 without a fault (06 R113). -/
theorem test_divide :
    g3 (.div 3 1 2) (-7) 2 = some (-3) ∧ g3 (.rem 3 1 2) (-7) 2 = some (-1) ∧ g3 (.divn 3 1 2) 7 2 = some 3 ∧ g3 (.remn 3 1 2) 7 2 = some 1
    ∧ g3 (.div 3 1 2) 0x8000000000000000 (-1) = some 0x8000000000000000 ∧ g3 (.rem 3 1 2) 0x8000000000000000 (-1) = some 0
    ∧ g3 (.mulh 3 1 2) (-1) 1 = some (-1) ∧ g3 (.mulhn 3 1 2) (-1) 2 = some 1 ∧ g3 (.mul32 3 1 2) 0x10001 0x10001 = some 0x20001 := by
  decide

/-- A zero divisor is a fault at the vector base with the dividend (06 R113, 05 R107). -/
theorem test_divide_by_zero :
    trapped (exec (.div 3 1 2) { with2 9 0 with me.sys.kvec := 0x8000 }) = some (0x0E, 9, 0x81C0) := by decide

theorem test_MultiplyAndDivideResults_witness :
    readG (with2 7 1) 2 ≠ 0#64 ∧ readG (with2 7 0) 2 = 0#64 ∧ (0x08000008#32).toNat / 2 ^ 26 = 2 ∧ 0x08 ≤ (0x08000008#32).toNat % 256 := by
  decide

theorem test_AluGroupResults_witness :
    (0x04000013#32).toNat / 2 ^ 26 = 1 ∧ 0x13 ≤ (0x04000013#32).toNat % 256 ∧ (0x04000017#32).toNat % 256 ≤ 0x17
    ∧ (0x04000020#32).toNat / 2 ^ 26 = 1 ∧ 0x20 ≤ (0x04000020#32).toNat % 256 := by decide

theorem test_bits :
    g3 (.clz 3 1) 0 0 = some 64 ∧ g3 (.clz 3 1) 1 0 = some 63 ∧ g3 (.ctz 3 1) 0 0 = some 64 ∧ g3 (.ctz 3 1) 8 0 = some 3
    ∧ g3 (.popc 3 1) 0xFF00 0 = some 8 ∧ g3 (.brev 3 1) 1 0 = some 0x8000000000000000
    ∧ g3 (.bswap 3 1) 0x0102030405060708 0 = some 0x0807060504030201
    ∧ g3 (.abs 3 1) 0x8000000000000000 0 = some 0x8000000000000000 ∧ g3 (.neg 3 1) 1 0 = some 0xFFFFFFFFFFFFFFFF := by decide +kernel

/-- The field of position 4 and length 8, with its sign and without; a length past the end is cut (06 R115). -/
theorem test_fields :
    g3 (.ext 3 1 2) 0xF50 0x0804 = some 0xFFFFFFFFFFFFFFF5 ∧ g3 (.extn 3 1 2) 0xF50 0x0804 = some 0xF5
    ∧ g3 (.extn 3 1 2) 0xF000000000000000 0x403C = some 0xF ∧ g3 (.ins 1 2 2) 0 0x0804 = some 0
    ∧ after (exec (.ins 1 2 3) (writeG (with2 0xFFF 0xA) 3 0x0804)) (readG · 1) = some 0x0AF
    ∧ after (exec (.csum 1 2) (with2 0x80000001 1)) (readG · 1) = some 0x31 := by decide

theorem test_BitAndFieldResults_witness : fieldLen 0x0804 ≠ 0 ∧ fieldLen 0 = 0 ∧ fieldLen 0x403C = 4 := by decide

theorem test_immediates :
    g3 (.addi 3 1 0x3FFF) 5 0 = some 4 ∧ g3 (.andi 3 1 0x3FFF) (-1) 0 = some 0x3FFF ∧ g3 (.ori 3 1 1) 2 0 = some 3
    ∧ g3 (.xori 3 1 3) 1 0 = some 2 ∧ g3 (.shli 3 1 63) 3 0 = some 0x8000000000000000 ∧ g3 (.shri 3 1 4) 0x10 0 = some 1
    ∧ g3 (.shai 3 1 4) (-16) 0 = some (-1) ∧ g3 (.roli 3 1 60) 0x10 0 = some 1 ∧ g3 (.li 3 0xFFFFF) 0 0 = some (-1)
    ∧ after (exec (.lis 1 0xFF800) (with2 1 0)) (readG · 1) = some 0x1FF800 ∧ g3 (.lea 3 0xFFFFF) 0 0 = some 0x43C := by decide

theorem test_conditions :
    c3 (.ceq 3 1 2) 5 5 = some true ∧ c3 (.cne 3 1 2) 5 5 = some false ∧ c3 (.clt 3 1 2) (-1) 0 = some true
    ∧ c3 (.cltn 3 1 2) (-1) 0 = some false ∧ c3 (.cle 3 1 2) 1 1 = some true ∧ c3 (.clen 3 1 2) 0 (-1) = some true
    ∧ c3 (.ctst 3 1 2) 6 4 = some true ∧ c3 (.cand 3 0 1) 0 0 = some false ∧ c3 (.cor 3 0 1) 0 0 = some true
    ∧ c3 (.cxor 3 0 0) 0 0 = some false ∧ c3 (.cnot 3 1) 0 0 = some true ∧ c3 (.cmpi 3 2 1 0x3FFB) (-6) 0 = some true
    ∧ c3 (.cmpi 3 4 1 0x3FFB) (-6) 0 = some true ∧ c3 (.cmpi 3 7 1 5) 5 0 = some true
    ∧ after (exec (.ceq 0 1 2) (with2 1 2)) (readC · 0) = some true := by decide

/-! ## Floating point (03, 06 R121 to R127) -/

theorem test_float_results :
    g3 (.fadd 3 1 2 1) 0x3F800000 0x3F800000 = some 0x40000000 ∧ g3 (.fmul 3 1 2 0) 0x4000000000000000 0x4008000000000000 = some 0x4018000000000000
    ∧ g3 (.fsqrt 3 1 1) 0x40800000 0 = some 0x40000000 ∧ g3 (.fneg 3 1 2) 0x3C00 0 = some 0xBC00
    ∧ g3 (.fmin 3 1 2 2) 0x8000 0x0000 = some 0x8000 ∧ g3 (.fclass 3 1 1) 0x80000000 0 = some 8
    ∧ g3 (.ftoi 3 1 6 1 1) 0xC0200000 0 = some (-2) ∧ g3 (.itof 3 1 1 0 6 0) (-2) 0 = some 0xC0000000 := by decide +kernel

/-- 1 ÷ 0: the flag and an infinity without the enable; with it a trap, no result (03 R63). -/
theorem test_float_divide_by_zero :
    after (exec (.fdiv 3 1 2 1) (with2 0x3F800000 0)) (fun t => (readG t 3, t.me.sys.kfpc)) = some (0x7F800000, 0x200)
    ∧ after (exec (.fdiv 3 1 2 1) { with2 0x3F800000 0 with me.sys.kfpc := 0x08 })
        (fun t => (readG t 3, t.me.sys.kfpc, t.me.sys.kcause, t.me.sys.keval)) = some (0, 0x208, 0x0D, 2) := by decide +kernel

theorem test_FloatInstructionsCompleteOrTrap_witness :
    NoTrap base 0b11111 ∧ ¬ NoTrap { base with me.sys.kfpc := 0x08 } 0b00010 ∧ floatCodeOk 0 = true ∧ floatCodeOk 5 = true := by
  unfold NoTrap; decide

theorem test_RoundingIsCorrect_witness :
    ((-1 : Int) < 0) ∧ floatCodeOk 5 = true ∧ (1 : Nat) ≠ 0 ∧ (roundF (fmtOf 1) 0 false false 1 0).flags.getLsbD 2 = false
    ∧ (roundF (fmtOf 2) 3 false true 1 (-40)).flags.getLsbD 2 = false := by decide +kernel

theorem test_ExactAndSpecialResults_witness :
    isFin (.fin false 1 0) = true ∧ floatCodeOk 1 = true ∧ (fAdd (fmtOf 1) 0 false (.fin false 1 0) (.fin true 3 1)).flags = 0
    ∧ (fSub (fmtOf 1) 0 false (.fin false 1 0) (.fin true 3 1)).flags = 0 ∧ (fMul (fmtOf 1) 0 false (.fin false 5 0) (.fin true 3 1)).flags = 0
    ∧ (fFma (fmtOf 1) 0 false (.fin false 5 0) (.fin true 3 1) (.fin false 1 0)).flags = 0
    ∧ (fDiv (fmtOf 1) 0 false (.fin false 6 0) (.fin true 3 1)).flags = 0 ∧ (fSqrt (fmtOf 1) 0 false (.fin false 9 0)).flags = 0
    ∧ isNan (flOf (fmtOf 1) 0x7FC00000) = true ∧ isSig (flOf (fmtOf 1) 0x7FC00000) = false ∧ isSig (flOf (fmtOf 1) 0x7F800001) = true
    ∧ isNan (flOf (fmtOf 1) 0) = false ∧ 0x80000000 < 2 ^ (fmtOf 1).width := by decide +kernel

theorem test_FloatOrderGoesByValue_witness :
    isFin (flOf (fmtOf 1) 0xBF800000) = true ∧ isFin (flOf (fmtOf 1) 0x80000000) = true ∧ isFin (flOf (fmtOf 1) 0) = true
    ∧ flVal (flOf (fmtOf 1) 0xBF800000) < flVal (flOf (fmtOf 1) 0x3F800000) ∧ flVal (flOf (fmtOf 1) 0x80000000) = flVal (flOf (fmtOf 1) 0)
    ∧ flSign (flOf (fmtOf 1) 0x80000000) = true ∧ flSign (flOf (fmtOf 1) 0) = false ∧ isNan (flOf (fmtOf 1) 0x7FC00000) = true := by
  have h1 : flOf (fmtOf 1) 0xBF800000 = .fin true 8388608 (-23) := by decide +kernel
  have h2 : flOf (fmtOf 1) 0x3F800000 = .fin false 8388608 (-23) := by decide +kernel
  have h3 : flOf (fmtOf 1) 0x80000000 = .fin true 0 (-149) := by decide +kernel
  have h4 : flOf (fmtOf 1) 0 = .fin false 0 (-149) := by decide +kernel
  rw [h1, h2, h3, h4]
  exact ⟨rfl, rfl, rfl, by norm_num [flVal], by norm_num [flVal], rfl, rfl, by decide +kernel⟩

/-! ## Branches, handler control, traps (06 R128 to R137) -/

theorem test_branches :
    after (exec (.br 0 1 0x3FFFFE) base) (·.me.regs.pc) = some 0x438 ∧ after (exec (.br 0 0 5) base) (·.me.regs.pc) = some 0x444
    ∧ after (exec (.jmp 2) base) (·.me.regs.pc) = some 0x448 ∧ after (exec (.call 2) base) (fun t => (t.me.regs.pc, readG t 1)) = some (0x448, 0x444)
    ∧ after (exec (.callr 1) (with2 0x800 0)) (fun t => (t.me.regs.pc, readG t 1)) = some (0x800, 0x444)
    ∧ after (exec (.loop 1 0x3FFF) (with2 1 0)) (fun t => (t.me.regs.pc, readG t 1)) = some (0x444, 0)
    ∧ after (exec (.loop 1 0x3FFF) (with2 0 0)) (fun t => (t.me.regs.pc, readG t 1)) = some (0x43C, 0xFFFFFFFFFFFFFFFF)
    ∧ after (exec (.jr 1) (with2 0x803 0)) (fun t => (t.me.sys.kcause, t.me.sys.keval)) = some (3, 0x803)
    ∧ after (exec (.callr 1) (with2 0x1000000000000 0)) (fun t => (t.me.sys.kcause, readG t 1)) = some (4, 0x1000000000000) := by decide

/-- At the lowest target below 2^48 and at its edge, for both signs of a displacement. -/
theorem test_BranchesReachTheirTargets_witness :
    readC base 0 = decide (1#1 = 1#1) ∧ readC base 1 ≠ decide (1#1 = 1#1) ∧ LegalTarget (targetOf base (-0x110)) ∧ LegalTarget 0xFFFFFFFFFFFC
    ∧ readG (with2 1 0) 1 = 1#64 ∧ readG (with2 0 0) 1 ≠ 1#64 ∧ 2 ^ 48 ≤ targetOf base (-0x111) ∧ targetOf base (-0x111) % 4 = 0
    ∧ targetOf (setPc base 0x441) 1 % 4 ≠ 0 ∧ (0x803#64).toNat % 4 ≠ 0 := by
  unfold LegalTarget; decide

/-- END with a clean context: its entry Idle, or Runnable where it was marked meanwhile. -/
theorem test_end :
    after (exec .endH base) (fun t => (t.me.run, (getEntry t.me 0).st)) = some (none, .idle)
    ∧ after (exec .endH { base with me := setEntry base.me 0 { getEntry base.me 0 with pending := true } })
        (fun t => (t.me.run, (getEntry t.me 0).st)) = some (none, .runnable) := by decide

theorem test_yield_and_idle :
    after (exec .yield base) (fun t => (t.me.last, (getEntry t.me 0).st, (getEntry t.me 0).block.pc)) = some (0, .runnable, 0x444)
    ∧ after (exec .idle base) (fun t => (t.me.sys.idle, t.me.regs.pc)) = some (true, 0x444) := by decide

/-- A state of the monitor's context with one load outstanding, and one with a second entry ready. -/
def withLoad : State := { base with me.pend := [⟨5, 0, .value 9⟩] }
def withReady : State := { base with me := setEntry base.me 1 { Entry.zero with st := .runnable } }

theorem test_HandlerControlCompletes_witness :
    base.me.run = some 0 ∧ loadsOut base.me = 0 ∧ withLoad.me.run = some 0 ∧ 0 < loadsOut withLoad.me ∧ 1 ≤ (priv base).toNat
    ∧ wakeCondition base.me = false ∧ wakeCondition withReady.me = true ∧ base.me.regs.pc.toNat % 4 = 0
    ∧ base.me.regs.pc.toNat + 4 < 2 ^ 48 := by decide

theorem test_software_traps :
    trapped (exec (.trap 1) (with2 7 0)) = some (0x16, 7, 0x2C0) ∧ trapped (exec .brk base) = some (0x15, 0, 0x2A0)
    ∧ trapped (exec (.ill 5) base) = some (0x01, 5, 0x20)
    ∧ after (exec (.hcall 1) (with2 7 0)) (fun t => ((myCore t).mcause, (myCore t).meval, (myCore t).mepc, t.me.regs.pc))
        = some (0x17, 7, 0x440, 0x2E0) := by decide

/-- From system privilege to a program with interrupts enabled. -/
def returning (ppriv : BitVec 2) (pc : Word) : State :=
  { base with me.sys.kepc := pc, me.regs.ks := { priv := 1, ie := false, ppriv := ppriv, pie := true } }

theorem test_eret :
    after (exec .eret (returning 0 0x1000)) (fun t => (t.me.regs.ks.priv, t.me.regs.ks.ie, t.me.regs.pc)) = some (0, true, 0x1000)
    ∧ after (exec .eret (returning 2 0x1000)) (fun t => (t.me.sys.kcause, t.me.sys.keval)) = some (2, kstate (returning 2 0x1000))
    ∧ after (exec .eret (setMyCore base { myCore base with mepc := 0x2000, mstate := 0x19 }))
        (fun t => (t.me.regs.ks.priv, t.me.regs.ks.ie, t.me.regs.ks.ppriv, t.me.regs.pc)) = some (1, true, 1, 0x2000) := by decide

theorem test_SoftwareTrapsAndTheReturn_witness :
    priv (returning 1 0x1000) = 1#2 ∧ (returning 1 0x1000).me.regs.ks.ppriv.toNat < 2 ∧ LegalTarget 0x1000 ∧ priv base = 2#2
    ∧ LegalTarget (myCore base).mepc.toNat ∧ 2 ≤ (returning 2 0).me.regs.ks.ppriv.toNat
    ∧ (returning 1 0x1002).me.sys.kepc.toNat % 4 ≠ 0 := by
  unfold LegalTarget; decide

theorem test_privilege :
    after (exec .eret (atPriv 0 base)) (fun t => (t.me.sys.kcause, t.me.sys.keval)) = some (2, 0x78000002)
    ∧ after (exec (.mfs 3 0x800) (atPriv 1 base)) (fun t => t.me.sys.kcause) = some 2
    ∧ after (exec (.mfs 3 0x013) (atPriv 0 base)) (fun t => t.me.sys.kcause) = some 0 := by decide

theorem test_PrivilegeIsChecked_witness :
    priv (atPriv 0 base) = 0#2 ∧ (priv (atPriv 1 base)).toNat < 2 ∧ 0x810#12 ∈ monitorSregs ∧ 0x800#12 ∈ monitorSregs := by decide

/-! ## System registers and the monitor's commands (05 R100 to R106, 06 R135 to R137, 16 R367 to R371) -/

/-- A write keeps the writable bits of a register and discards the rest (05 R100, R105, R106). -/
theorem test_mts_masks :
    [(0x001, 0x1FF), (0x002, 0xFFFFFFFFFFFFFFFC), (0x005, 0xFFFFFFFFFFFFFC00), (0x006, 0x1F7F), (0x014, 0xFFFFFFFFFFFF0000), (0x018, 0x0000FFFFFFFFF000),
     (0x020, 0x1FF7), (0x803, 0xFFFF), (0x80B, 0xFFFFFFFFFFFFFC00), (0x810, 0x7F)].all
      (fun p => decide (after (exec (.mts 1 p.1) (with2 (-1) 0)) (readSreg · p.1) = some p.2)) = true := by decide +kernel

/-- KCORE, KPART and KTIME as they read at the monitor's context of die 0 (05 R104). -/
theorem test_mfs : g3 (.mfs 3 0x010) 0 0 = some 0x1FF ∧ g3 (.mfs 3 0x011) 0 0 = some 0x40 ∧ g3 (.mfs 3 0x000) 0 0 = some 2 := by decide +kernel

/-- KSTATE takes PRIV, IE, PPRIV, PIE and the spine; PRIV 3 is refused (05 R101). -/
theorem test_kstate :
    after (exec (.mts 1 0x000) (with2 0x559 0)) (fun t => (t.me.regs.ks, t.me.sys.spine))
      = some ({ priv := 1, ie := true, ppriv := 1, pie := true }, 5)
    ∧ after (exec (.mts 1 0x000) (with2 3 0)) (fun t => (t.me.sys.kcause, t.me.sys.keval)) = some (2, 3) := by decide +kernel

/-- A state whose spill log holds one token. -/
def withSpill : State := { base with me.fab.spillLog := [(0, ⟨1, 0⟩)] }

theorem test_SystemRegistersReadAndWrite_witness :
    (∀ e ∈ sregTable base, e.2.1 ≤ (priv base).toNat) ∧ (∀ e ∈ plainWrites, e.2.1 ≤ (priv base).toNat) ∧ 1 ≤ (priv base).toNat
    ∧ base.me.fab.spillLog = [] ∧ withSpill.me.fab.spillLog ≠ [] ∧ (readG (with2 3 0) 1).extractLsb' 0 2 = 3#2
    ∧ (priv (atPriv 1 base)).toNat < (0x2#64 |>.extractLsb' 0 2).toNat ∧ 2 ≤ ((0x20#64).extractLsb' 4 2).toNat
    ∧ ¬ ((0x559#64).extractLsb' 0 2 = 3#2 ∨ (priv base).toNat < ((0x559#64).extractLsb' 0 2).toNat
        ∨ (priv base = 1#2 ∧ 2 ≤ ((0x559#64).extractLsb' 4 2).toNat)) := by decide +kernel

theorem test_ContainmentDiscardsTheWorkInFlight_witness :
    priv base = 2#2 ∧ (readG (with2 0x105 0) 1).getLsbD 8 = true ∧ (readG (with2 0x3F 0) 1).getLsbD 8 = false
    ∧ base.me.id.part ≠ 0#1 ++ 5#6 := by decide

theorem test_containment :
    after (exec (.mts 1 0x801) (with2 0x105 0)) (fun t => ((partRec t 5).busy, (partRec t 5).pstate, (partRec t 5).contained))
      = some (true, 3, 1) := by decide

/-- Core 2 with descriptor 1 naming context 7 of partition 1. -/
def withDesc : State := setCore base 2 { CoreRec.zero with descs := [(1, { w0 := 0x410007 })] }

/-- Slot 3 of core 2's calendar: a solo slot of descriptor 1, 16 µs long; it reads back with status 0 (13 R316, 16 R369). -/
theorem test_mcal_slot :
    after (exec (.mts 1 0x802) (writeG withDesc 1 (mcalCmd true 0 0 2 3 0x50010))) (fun t => ((myCore t).mcal, (nextWord (coreRec t 2) 3).toNat))
      = some (mcalCmd true 0 0 2 3 0x50010, 0x50010) := by decide +kernel

theorem test_CalendarCommandsOfACore_witness :
    isMonitorCore 0x1FE = false ∧ slotRefused (coreRec withDesc 2) (BitVec.ofNat 32 0x50010) = false ∧ 0x50010 < 2 ^ 27
    ∧ readG (with2 (mcalCmd true 0 0 2 15 0x50010) 0) 1 = mcalCmd true 0 0 2 15 0x50010 ∧ (7 : Nat) < 8 ∧ 2 ^ 22 ≤ 0x450003
    ∧ 0x450003 < 2 ^ 23 ∧ 0x3FFFFFFF / 2 ^ 30 = base.module.toNat
    ∧ (coreRec (setCore base 2 { CoreRec.zero with running := true }) 2).running = true := by decide +kernel

theorem test_mcal_link :
    after (exec (.mts 1 0x802) (with2 (mcalCmd true 4 1 2 3 5) 0)) (fun t => (tabGet 0x40 t.links ((2 * 4 + 1) * 64 + 3), (myCore t).mcal.toNat % 16))
      = some (5, 0)
    ∧ after (exec (.mts 1 0x802) (with2 (mcalCmd true 4 1 2 0 5) 0)) (fun t => (t.links, decide ((myCore t).mcal.toNat % 16 = 0))) = some ([], false) := by
  decide +kernel

theorem test_mquota :
    after (exec (.mts 1 0x804) (with2 (mquotaCmd true 0 639 0xFFFFF) 0)) (fun t => tabGet 0 (partRec t 0).ways 639) = some 0xFFFFF
    ∧ after (exec (.mts 1 0x804) (with2 (mquotaCmd true 3 7 0x1002) 0)) (fun t => listCore t 0 7) = some (some 2) := by decide +kernel

theorem test_LinkAndQuotaCommands_witness :
    (0x7F ≤ 0x40 ∨ 0x7F = 0x7F) ∧ (0x40 : Nat) ≤ 0x40 ∧ ((0#12).toNat < 10 ∨ (16 ≤ (0#12).toNat ∧ (0#12).toNat < 40))
    ∧ ((39#12).toNat < 10 ∨ (16 ≤ (39#12).toNat ∧ (39#12).toNat < 40)) ∧ (mcalRun base (mcalCmd true 4 1 2 0 5)).status ≠ 0
    ∧ (List.range 64).all (fun i => i = 5 || tabGet 0x40#7 base.dram (511 / 64 * 64 + i) ≠ 0x40#7) = false
    ∧ (pairedWith (coreRec base 2) 7).all (fun j => !sharesMeet 0 255 (descOf (coreRec base 2) j).shareBase.toNat
        (descOf (coreRec base 2) j).shareSize.toNat) = true
    ∧ descValid (descOf (coreRec base 2) 7) = false ∧ isMonitorCore (BitVec.ofNat 12 0x1002) = false
    ∧ (∀ y ∈ (partRec base 0).coreList, y.1 ≠ 4095 → y.2 ≠ (BitVec.ofNat 12 0x1002 : CoreId)) ∧ (2 ^ 12 : Nat) ≤ 0x1002 := by
  decide +kernel

/-- A core 2 whose set A is as given, with a calendar that runs or not. -/
def withSet (st : SetSt) (running : Bool) : State :=
  setCore base 2 { CoreRec.zero with setA := { st := st, ctx := some ⟨2, 1, 7⟩ }, running := running }

theorem test_context_sets :
    after (exec (.ctxsw 3 1) (writeG (withSet .ready false) 1 2)) (fun t => (readG t 3, (coreRec t 2).swReq)) = some (0, some false)
    ∧ after (exec (.ctxsw 3 1) (writeG (withSet .ready true) 1 2)) (readG · 3) = some 3
    ∧ after (exec (.ctxpark 3 1) (writeG (withSet .frozen false) 1 2)) (fun t => (readG t 3, (coreRec t 2).setA.st)) = some (0, .parking)
    ∧ after (exec (.ctxload 3 1 0) (writeG (withSet .active false) 1 0x8002)) (readG · 3) = some 0x103
    ∧ after (exec (.ctxpark 3 1) (writeG base 1 0x1FF)) (readG · 3) = some 2
    ∧ after (exec (.ctxload 3 1 0) (writeG base 1 0x10002)) (readG · 3) = some 5 := by decide +kernel

theorem test_ContextSetInstructionsAnswerAStatus_witness :
    ¬ ((0x2002#64).toNat / 2 ^ 16 = 0 ∧ (0x2002#64).extractLsb' 13 2 = 0#2) ∧ ((0x1002#64).toNat / 2 ^ 16 = 0 ∧ (0x1002#64).extractLsb' 13 2 = 0#2)
    ∧ isMonitorCore ((0x1FF#64).extractLsb' 0 12) = true ∧ (0x8002#64).getLsbD 15 = true ∧ isMonitorCore 2 = false
    ∧ (coreRec (withSet .ready true) 2).running = true ∧ (coreRec (withSet .ready false) 2).running = false
    ∧ (getSet (coreRec (withSet .ready false) 2) false).st = .ready ∧ (getSet (coreRec (withSet .active false) 2) false).st ≠ .ready
    ∧ (getSet (coreRec (withSet .active false) 2) false).st ≠ .frozen ∧ (getSet (coreRec (withSet .active false) 2) true).st = .empty
    ∧ (0x10001#64).toNat % 2 ^ 16 ≠ 0 ∧ (0x10000#64).toNat % 2 ^ 16 = 0 := by decide +kernel

/-! ## Memory (09 R187 to R200) -/

/-- The context with region 0 at window address 0: 4 KiB with a tag and plain swizzle. -/
def withRegion (tag : BitVec 16) : State :=
  { base with me.fab.cfg := [(0x0D0 * 64 + 1, 16), (0x0D0 * 64 + 2, tag)] }

theorem test_base_reaches (n : Need) : Reaches base 0x1000 8 n base 0x1000 := ⟨rfl, .inr rfl⟩

/-- A store, the load of it through the L1, and the completion that writes the register (09 R189, 14 R325). -/
theorem test_store_then_load :
    (match exec (.st 2 1 0 1) (with2 0x1000 0xABCDEF) with
      | .next t => match exec (.ld 3 1 3 0) t with
        | .next u => after (exec (.loadCompletion 0) u) (fun v => (readG u 3, readG v 3, v.me.pend.length, memNat v.mem 0x1000 8))
        | _ => none
      | _ => none) = some (0, 0xEF00, 0, 0) := by decide +kernel

/-- S8 extends its sign; a word of the window is read little-endian (09 R189, 00 R4). -/
theorem test_loads_extend :
    after (exec (.ld 3 1 0 0) { with2 0x1001 0 with mem := [(0x1001, 0x80)] }) (fun t => t.me.pend.map (·.op)) = some [.value 0xFFFFFFFFFFFFFF80]
    ∧ after (exec (.ldw 3 1 3 0) { writeG (withRegion 0) 1 0x10 with win := [(winKey 0x1FF 0x10, 1), (winKey 0x1FF 0x11, 2)] })
        (fun t => t.me.pend.map (·.op)) = some [.value 0x201]
    ∧ after (exec (.stw 1 1 0 0x7F) (writeG (withRegion 0) 1 0x11)) (fun t => t.win) = some [(winKey 0x1FF 0x10, 0x11)] := by decide +kernel

theorem test_czero : after (exec (.czero 1) (with2 0x1234 0)) (fun t => t.me.l1) = some [⟨0x24, false, 0, ~~~ 0, 0, 0x1200⟩] := by decide +kernel

theorem test_LoadsAndStores_witness :
    (∀ n, Reaches base 0x1000 8 n base 0x1000) ∧ PlainOk base 0x1000 8 false ∧ PlainOk base 0x1000 8 true ∧ PlainOk base 0x1000 128 true
    ∧ Served base 0x20 true ∧ Takes base (evictees base 0x20) ∧ readLost base 0x1000 8 true = false
    ∧ widthOk 6 = true ∧ loadsOut base.me < 63 ∧ storesOut base.me < 63 ∧ readLost base 0x1000 8 true = false ∧ 0x1078 % 128 + 8 ≤ 128
    ∧ winLost (withRegion 0) 0x1FF 0xFF8 8 = false
    ∧ winCheck (withRegion 0).me 0xFF8 8 [0, 1, 2] = none ∧ (0xFF8#64).toNat < 2 ^ 20 ∧ (0xFF8#64).toNat % 8 = 0
    ∧ withLoad.me.pend[0]? = some { dst := 5, entry := 0, op := .value 9 } ∧ withLoad.me.run = some 0 ∧ withLoad.me.run ≠ some 1 := by
  refine ⟨fun n => ⟨rfl, .inr rfl⟩, ?_, ?_, ?_, ?_, ?_, ?_⟩
  · unfold PlainOk Served; decide +kernel
  · unfold PlainOk Served; decide +kernel
  · unfold PlainOk Served; decide +kernel
  · unfold Served; decide +kernel
  · unfold Takes; decide +kernel
  · decide +kernel

theorem test_access_faults :
    after (exec (.ld 3 1 7 0) (with2 0x1001 0)) (fun t => (t.me.sys.kcause, t.me.sys.keval)) = some (1, 0x80304380)
    ∧ after (exec (.ld 3 1 6 0) (with2 0x1001 0)) (fun t => (t.me.sys.kcause, t.me.sys.keval)) = some (3, 0x1001)
    ∧ after (exec (.ld 3 1 6 0) (with2 0x1000000000000 0)) (fun t => (t.me.sys.kcause, t.me.sys.keval)) = some (4, 0x1000000000000)
    ∧ after (exec (.ldw 3 1 6 0) (with2 0x100000 0)) (fun t => (t.me.sys.kcause, t.me.sys.keval)) = some (5, 0x100000)
    ∧ after (exec (.swget 3 1) (with2 0x8 0)) (fun t => (t.me.sys.kcause, t.me.sys.keval)) = some (3, 8) := by decide +kernel

theorem test_AccessChecksInOrder_witness :
    loadsOut base.me < 63 ∧ storesOut base.me < 63 ∧ widthOk 5 = true ∧ (0x1001#64).toNat % widthSize 5 ≠ 0 ∧ (0x1002#64).toNat % 2 ^ 2 ≠ 0
    ∧ (0x1004#64).toNat % 8 ≠ 0 ∧ (0x1008#64).toNat % 16 ≠ 0 ∧ 2 ^ 48 ≤ (0x1000000000000#64).toNat ∧ (0x1000000000000#64).toNat % widthSize 5 = 0
    ∧ 2 ^ 20 ≤ (0x100000#64).toNat ∧ (0x100000#64).toNat % widthSize 5 = 0 ∧ priv base = 2#2 ∧ tlbHit base.me 0 = none ∧ 128 ∣ 128
    ∧ isUnbacked (0x17FFFFFF80#64).toNat = false ∧ (0x17FFFFFF80#64).toNat % 128 = 0 ∧ (0x17FFFFFF80#64).toNat < 2 ^ 46 := by decide +kernel

/-- An outstanding atomic of the running handler at 0x1000. -/
def withAtomic (op : AtomOp) : State :=
  { base with me.pend := [⟨5, 0, .atomic ⟨op, 0x1000, 0x1000, 8, 0, 1, 0, 0, none⟩⟩], mem := [(0x1000, 7)] }

/-- An addition performs at the home slice and binds the old value; a compare and swap of another value stores nothing (09 R193, R194). -/
theorem test_atomics :
    after (exec (.atomicPerform 0) (withAtomic (.rmw 0 5))) (fun t => (t.mem, t.me.pend.map (·.op))) = some ([(0x1000, 12)], [.value 7])
    ∧ after (exec (.atomicPerform 0) (withAtomic (.cas 8 5))) (fun t => (t.mem, t.me.pend.map (·.op))) = some ([(0x1000, 7)], [.value 7])
    ∧ after (exec (.atomicPerform 0) (withAtomic (.store 5))) (fun t => (t.mem, t.me.pend)) = some ([(0x1000, 5)], [])
    ∧ after (exec (.ald 3 1 2 0) (with2 0x1000 0)) (fun t => t.me.sys.kcause) = some 1 := by decide +kernel

theorem test_atomic_issues :
    after (exec (.aad 3 1 2 0 1) (with2 0x1000 4)) (fun t => t.me.pend) = some [⟨3, 0, .atomic ⟨.rmw 0 4, 0x1000, 0x1000, 8, 0, 1, 0, 0, none⟩⟩] := by
  decide +kernel

theorem test_AtomicsIssueAndPerform_witness :
    reachable base 0x1000 = true ∧ races base 0x1000 8 true false = false ∧ races base 0x1000 8 false false = false ∧ homeLost base 0x1000 = false ∧ pastPin base 0x1000 = false
    ∧ (∀ l ∈ base.me.l1, l.num ≠ 0x20) ∧ base.me.lateBad = []
    ∧ (3 : BitVec 2) ≠ 2#2 ∧ (3 : BitVec 2) ≠ 1#2
    ∧ (∃ p, (withAtomic .load).me.pend[0]? = some p ∧ p.op = .atomic ⟨.load, 0x1000, 0x1000, 8, 0, 1, 0, 0, none⟩)
    ∧ atomReady (withAtomic .load) [] ⟨.load, 0x1000, 0x1000, 8, 0, 1, 0, 0, none⟩ = true
    ∧ atomHeld [⟨5, 0, .atomic ⟨.load, 0x2000, 0x2000, 8, 1, 1, 0, 0, none⟩⟩] ⟨.load, 0x1000, 0x1000, 8, 0, 1, 0, 0, none⟩ = true ∧ (0xFFFFFFFF : Nat) < 2 ^ 32 ∧ 32 * 1 < 64 := by
  refine ⟨by decide +kernel, by decide +kernel, by decide +kernel, by decide +kernel, by decide +kernel, by decide +kernel, by decide +kernel,
    by decide, by decide, ⟨_, rfl, rfl⟩, ?_⟩
  decide +kernel

/-- A dirty line of 0x1000 in the L1. -/
def withDirty : State := { base with me.l1 := [⟨0x20, false, 0x55, 1, 0, 0x1000⟩] }

theorem test_fences :
    after (exec (.fence 2 1) withDirty) (fun t => (t.mem, t.me.l1)) = some ([(0x1000, 0x55)], [⟨0x20, false, 0x55, 0, 0, 0x1000⟩])
    ∧ after (exec (.cinv 1) (writeG withDirty 1 0x1040)) (fun t => (t.mem, t.me.l1)) = some ([(0x1000, 0x55)], [])
    ∧ after (exec (.cflush 1) (writeG withDirty 1 0x1040)) (fun t => (t.mem, t.me.l1.map (·.dirty))) = some ([(0x1000, 0x55)], [0])
    ∧ after (exec (.pref 1) (with2 0x1040 0)) (fun t => t.me.l1.map (·.num)) = some [0x20]
    ∧ after (exec (.fence 0 1) base) (fun t => t.me.sys.kcause) = some 1 := by decide +kernel

/-- A sync word at 0x10: target 3, count 2, generation 9. -/
def withSync : State :=
  { writeG (writeG (withRegion 2) 1 0x10) 2 1 with
    win := [(winKey 0x1FF 0x10, 3), (winKey 0x1FF 0x16, 9), (winKey 0x1FF 0x18, 2)] }

theorem test_sync_word :
    after (exec (.swadd 1 2) withSync) (fun t => t.win) = some [(winKey 0x1FF 0x10, 3), (winKey 0x1FF 0x16, 10)]
    ∧ after (exec (.swwait 3 1 2) (writeG withSync 2 8)) (fun t => t.me.regs.pc) = some 0x444
    ∧ after (exec (.swwait 3 1 2) (writeG withSync 2 9)) (fun t => (t.me.run, (getEntry t.me 0).st, (getEntry t.me 0).block.pc)) = some (none, .blocked, 0x440)
    ∧ after (exec (.swget 3 1) withSync) (readG · 3) = some 0x0009000000000002 := by decide +kernel

theorem test_FencesAndSyncWords_witness :
    (2 : BitVec 6) ≠ 0#6 ∧ fenceReady withLoad 1 = false ∧ fenceReady withDirty 3 = true ∧ Takes withDirty withDirty.me.l1 ∧ (3 : BitVec 6).getLsbD 1 = true
    ∧ (∃ l, findLine withDirty.me (0x1000 / 128) = some l ∧ l.dirty.getLsbD 0 = true) ∧ findLine base.me (0x1000 / 128) = none
    ∧ SyncAt withSync 1 0x10 ∧ inArea withSync withSync.me.id = false ∧ syncCount withSync 0x10 + 0 < syncTarget withSync 0x10
    ∧ syncTarget withSync 0x10 ≤ syncCount withSync 0x10 + 1 ∧ (8 : Nat) % 2 ^ 16 ≠ syncGen withSync 0x10
    ∧ (9 : Nat) % 2 ^ 16 = syncGen withSync 0x10 ∧ withSync.me.run = some 0 := by
  refine ⟨by decide, by decide +kernel, by decide +kernel, by unfold Takes; decide +kernel, by decide, ⟨_, rfl, by decide⟩, by decide +kernel, ?_⟩
  unfold SyncAt; decide +kernel

/-! ## Channels, launches, handler entries, transits, translation (12 R302, R303, 13 R305 to R322) -/

/-- Partition 1 at work: its context 7 runs on core 2 at system privilege; context 8 stands in a set of core 3 and in a slot of its calendar,
context 9 nowhere. -/
def prog : State :=
  { base with
    me := { base.me with id := ⟨2, 1, 7⟩, regs.ks.priv := 1, regs.ks.ie := true }
    others := [Ctx.create ⟨3, 1, 8⟩, Ctx.create ⟨3, 1, 9⟩]
    cores := [(2, { CoreRec.zero with setA := { st := .active, ctx := some ⟨2, 1, 7⟩ } }),
              (3, { CoreRec.zero with setB := { st := .frozen, ctx := some ⟨3, 1, 8⟩ }, slots := [(0, 0x10010)], descs := [(0, { w0 := 0x410008 })] })]
    parts := [(1, { PartRec.zero with coreList := [(0, 2), (1, 3)] })] }

/-- The same with the link from core 2 to core 3 rented to partition 1. -/
def progLinked : State := { prog with links := [(9 * 64 + 1, 1)], vcs := [(9 * 16 + 1, 1)] }

/-- The same state with the links of a path, and their virtual channels, rented to an owner. -/
def rented (s : State) (part : BitVec 7) (path : List Nat) : State :=
  { s with links := path.map (fun l => (l * 64, part)), vcs := path.map (fun l => (l * 16, part)) }

theorem tabGet_rented (d v : BitVec 7) (k l : Nat) : ∀ path : List Nat, l ∈ path → tabGet d (path.map (fun x => (x * k, v))) (l * k) = v
  | x :: xs, h => by
    by_cases hx : x * k = l * k
    · simp [tabGet, tabFind, hx]
    · have hl : l ∈ xs := by rcases List.mem_cons.mp h with rfl | h <;> [exact absurd rfl hx; exact h]
      simpa [tabGet, tabFind, hx] using tabGet_rented d v k l xs hl

/-- On a path rented to it a partition owns every link, wherever the units stand at its ends. -/
theorem rented_owned (s : State) (part : BitVec 7) (path : List Nat) : pathOwned (rented s part path) part path = true := by
  have h : ∀ l ∈ path, ownsLink (rented s part path) part l = true := fun l hl => by
    simp only [ownsLink, Bool.and_eq_true, List.any_eq_true, List.mem_range, beq_iff_eq]
    exact ⟨⟨0, by decide, tabGet_rented _ _ 64 l path hl⟩, ⟨0, by decide, tabGet_rented _ _ 16 l path hl⟩⟩
  simp [pathOwned, List.all_eq_true.mpr h]

/-- A channel operand: index 1 of the core list, a context, channel 5. -/
def chanOp (kctx : Nat) : Word := BitVec.ofNat 64 (1 + kctx * 2 ^ 16 + 5 * 2 ^ 32)

theorem test_send :
    after (exec (.send 1 2) (writeG (writeG progLinked 1 (chanOp 8)) 2 0x77)) (fun t => (t.net.map (fun k => (k.load, k.route)), t.me.regs.pc))
      = some ([(.word ⟨3, 1, 8⟩ 5 0x77, [9])], 0x444)
    ∧ after (exec (.send 1 2) (writeG prog 1 (chanOp 8))) (fun t => (partRec t 1).busy) = some true
    ∧ after (exec (.send 1 2) (writeG prog 1 (chanOp 9))) (fun t => (t.net, t.me.regs.pc)) = some ([], 0x440)
    ∧ after (exec (.send 1 2) (writeG prog 1 (chanOp 6))) (fun t => (t.me.sys.kcause, t.me.sys.keval)) = some (0x10, chanOp 6)
    ∧ after (exec (.send 1 2) (writeG prog 1 2)) (fun t => (t.me.sys.kcause, t.me.sys.keval)) = some (0x0F, 2) := by decide +kernel

/-- An inbox of two words on channel 5. -/
def withInbox : State := { prog with me := setInbox prog.me 5 [0x11, 0x22] }

theorem test_receive :
    after (exec (.recv 3 1) (writeG withInbox 1 5)) (fun t => (readG t 3, inboxOf t.me 5)) = some (0x11, [0x22])
    ∧ after (exec (.peek 3 1) (writeG withInbox 1 5)) (fun t => (readG t 3, inboxOf t.me 5)) = some (0x11, [0x11, 0x22])
    ∧ after (exec (.recvk 3 1 2) (writeG (writeG withInbox 1 6) 2 0x99)) (readG · 3) = some 0x99
    ∧ after (exec (.recv 3 1) (writeG withInbox 1 6)) (fun t => (t.me.run, (getEntry t.me 0).st, (getEntry t.me 0).why))
        = some (none, .blocked, .inbox 6)
    ∧ after (exec (.recv 3 1) (writeG withInbox 1 64)) (fun t => t.me.sys.kcause) = some 0x0F := by decide +kernel

/-- A word of channel 5 that has crossed its route to the context in focus, whose entry 2 is bound to the channel. -/
def withArrival (c : Ctx) : State :=
  { prog with net := [⟨⟨3, 1, 8⟩, 1, .word ⟨2, 1, 7⟩ 5 0x33, [], none, 0⟩],
              me := setEntry c 2 { Entry.zero with image := 0x022A000000000100 } }

theorem test_word_arrival :
    after (exec (.channelWordArrival 0) (withArrival prog.me))
        (fun t => (t.net, inboxOf t.me 5, (getEntry t.me 2).st, (getEntry t.me 2).cause)) = some ([], [0x33], .runnable, some ⟨1, 5, 0x33⟩) := by
  decide +kernel

theorem test_ChannelsCarryWords_held_witness : ∀ h ∈ withInbox.me.held, h.1 ≠ 5 := fun _ h => nomatch h

theorem test_ChannelsCarryWords_witness :
    ¬ ((2#64).toNat < 2 ^ 38 ∧ (ownerCore prog 1 2).isSome) ∧ ((chanOp 8).toNat < 2 ^ 38 ∧ (ownerCore prog 1 1).isSome)
    ∧ namedCtx prog 1 1 6 = none ∧ namedCtx prog 1 1 8 = some ⟨3, 1, 8⟩ ∧ isPlaced prog ⟨3, 1, 9⟩ = false ∧ isPlaced prog ⟨3, 1, 8⟩ = true
    ∧ sendWaits prog ⟨3, 1, 8⟩ 5 = false ∧ sendWaits { prog with net := [⟨prog.me.id, 1, .word ⟨3, 1, 8⟩ 5 0, [9], none, 0⟩] } ⟨3, 1, 8⟩ 5 = true
    ∧ channelFull (withArrival prog.me) ⟨2, 1, 7⟩ 5 = false ∧ channelFull { prog with me.held := [⟨5, 1, none, false⟩] } ⟨2, 1, 7⟩ 5 = true
    ∧ pathOwned progLinked 1 (corePath 2 3) = true ∧ pathOwned prog 1 (corePath 2 3) = false ∧ 2 ^ 6 ≤ (64#64).toNat
    ∧ inboxOf withInbox.me 6 = [] ∧ inboxOf withInbox.me 5 = 0x11 :: [0x22] ∧ [0x22#64].length < 4 ∧ prog.me.run = some 0
    ∧ arrived (withArrival prog.me) 0 = some ⟨⟨3, 1, 8⟩, 1, .word ⟨2, 1, 7⟩ 5 0x33, [], none, 0⟩
    ∧ inArea prog ⟨2, 1, 7⟩ = false ∧ (inboxOf withInbox.me 5).length < 4
    ∧ boundEntry (withArrival prog.me).me 5 = some 2 ∧ (getEntry (withArrival prog.me).me 2).st = .idle
    ∧ 4 ≤ (inboxOf (setInbox prog.me 5 [1, 2, 3, 4]) 5).length := by decide +kernel

/-- The launch table of partition 1 at its partition address 0, mapped at 0x10000: entry 3 names context 8, slot 2, core index 1, key 0x55. -/
def withLaunch : State :=
  { progLinked with
    mem := [(0x10060, 1), (0x10062, 8), (0x10064, 2), (0x10065, 2), (0x10067, 0x80), (0x10068, 0x99), (0x10070, 0x55), (0x10072, 3),
            (0x20000, 0x01), (0x20002, 0x03), (0x30000, 0x01), (0x30002, 0x04), (0x40000, 0x3D), (0x40002, 0x01)]
    parts := [(1, { PartRec.zero with coreList := [(0, 2), (1, 3)], mstage := 0x20000, mstageEff := 0x20000, pstate := 2 })]
    dram := [(1, 1)]
    net := [⟨⟨2, 1, 7⟩, 1, .validate 1 3 0x55 1 0, [], none, 0⟩, ⟨⟨3, 1, 8⟩, 1, .validate 1 3 0x56 1 0, [], none, 0⟩,
            ⟨⟨2, 1, 7⟩, 1, .dispatch ⟨2, 1, 7⟩ 2 3 0x99, [], none, 0⟩, ⟨⟨2, 1, 7⟩, 5, .validate 5 3 0x56 1 0, [], none, 0⟩] }

theorem test_launch :
    after (exec (.launch 3 1 2) (writeG (writeG base 1 3) 2 0x55)) (fun t => (readG t 3, t.net.map (·.load))) = some (0, [.validate 0x40 3 0x55 1 0])
    ∧ after (exec (.launch 3 1 2) (writeG prog 1 0x400000)) (fun t => (t.me.sys.kcause, t.me.sys.keval)) = some (0x0F, 0x400000) := by
  decide +kernel

/-- A packet with another key than the entry's is dropped and counted, and one for no partition (13 R313). -/
theorem test_launch_validation :
    after (exec (.launchValidation 1) withLaunch) (fun t => (t.net.length, tabGet 0 (ownerRec t 1).drops 0)) = some (3, 1)
    ∧ after (exec (.launchValidation 3) withLaunch) (fun t => (t.net.length, tabGet 0 t.monitorDrops 0)) = some (3, 1) := by decide +kernel

theorem test_LaunchesAreValidatedAndDispatched_witness :
    (3#64).toNat < 2 ^ 8 ∧ (0x0123403#64).toNat < 2 ^ 22 ∧ 2 ^ 22 ≤ (0x400000#64).toNat
    ∧ ((0x4102#64).getLsbD 14 = true ∧ (0x4102#64).getLsbD 15 = false ∧ (0x4102#64).extractLsb' 8 6 ≠ ({ prog with modules := 2 } : State).module
        ∧ ((0x4102#64).extractLsb' 8 6).toNat < ({ prog with modules := 2 } : State).modules.toNat)
    ∧ prog.boot.phase = 7#8 ∧ (0x5503#64).toNat < 2 ^ 24
    ∧ arrived withLaunch 0 = some ⟨⟨2, 1, 7⟩, 1, .validate 1 3 0x55 1 0, [], none, 0⟩
    ∧ arrived withLaunch 1 = some ⟨⟨3, 1, 8⟩, 1, .validate 1 3 0x56 1 0, [], none, 0⟩
    ∧ arrived withLaunch 3 = some ⟨⟨2, 1, 7⟩, 5, .validate 5 3 0x56 1 0, [], none, 0⟩ ∧ partExists withLaunch 5 = false ∧ partExists withLaunch 1 = true
    ∧ (match stage2 withLaunch 1 0x60 with | .leaf l => l.perm.read && decide (l.base + 0x60 % 2 ^ l.bits = 0x10060) && !badLine withLaunch 0x10060 | _ => false) = true
    ∧ launchTarget withLaunch 1 3 0x55 1 (fun i => BitVec.ofNat 64 (memNat withLaunch.mem (0x10060 + 8 * i) 8)) = some (⟨3, 1, 8⟩, 2)
    ∧ launchTarget withLaunch 1 3 0x56 1 (fun i => BitVec.ofNat 64 (memNat withLaunch.mem (0x10060 + 8 * i) 8)) = none
    ∧ readState withLaunch 1 (0x10060 / 128) = .go
    ∧ readState { withLaunch with dram := [] } 1 (0x10060 / 128) ≠ .go := by decide +kernel

/-- The same packets with every way of theirs rented: to the dispatcher of the die, and from there to the core of the entry. -/
theorem test_LaunchPaths_witness :
    (let s := rented withLaunch 1 (launchPath 0 3)
     pathOwned s 1 (launchPath 0 3) = true ∧ arrived s 0 = some ⟨⟨2, 1, 7⟩, 1, .validate 1 3 0x55 1 0, [], none, 0⟩ ∧ partExists s 1 = true
      ∧ readState s 1 (0x10060 / 128) = .go)
    ∧ (let s := rented prog 1 (unitPath 2 0 80)
       pathOwned s 1 (unitPath 2 0 80) = true ∧ s.me.id = ⟨2, 1, 7⟩) :=
  ⟨⟨rented_owned _ _ _, by decide +kernel, by decide +kernel, by decide +kernel⟩, rented_owned _ _ _, rfl⟩

/-- The monitor's paths are its own, whatever the domain route (13 R317). -/
theorem test_LaunchToModule_witness (m : Nat) : pathOwned base 0x40 (modulePath base 0 m) = true := rfl

/-- A launch that has come to the core of its context, to slot 2 of an entry table with that slot bound, or not. -/
def withDispatch (image : Word) : State :=
  { prog with net := [⟨⟨3, 1, 8⟩, 1, .dispatch ⟨2, 1, 7⟩ 2 3 0x99, [], none, 0⟩], me := setEntry prog.me 2 { Entry.zero with image := image } }

theorem test_launch_dispatch :
    after (exec (.launchDispatch 0) (withDispatch 0x022A000000000100)) (fun t => ((getEntry t.me 2).st, (getEntry t.me 2).cause))
      = some (.runnable, some ⟨4, 3, 0x99⟩)
    ∧ after (exec (.launchDispatch 0) (withDispatch 0)) (fun t => ((getEntry t.me 2).st, tabGet 0 (ownerRec t 1).drops 0)) = some (.idle, 1) := by
  decide +kernel

theorem test_LaunchDispatch_witness :
    arrived (withDispatch 0) 0 = some ⟨⟨3, 1, 8⟩, 1, .dispatch ⟨2, 1, 7⟩ 2 3 0x99, [], none, 0⟩ ∧ (findCtx (withDispatch 0) ⟨2, 1, 7⟩).isSome
    ∧ (getEntry (withDispatch 0x022A000000000100).me 2).image.getLsbD 57 = true ∧ (getEntry (withDispatch 0).me 2).image.getLsbD 57 = false 
    ∧ channelFull (withDispatch 0) ⟨2, 1, 7⟩ 5 = false := by
  decide +kernel

theorem test_handler_table :
    after (exec (.hset 1 2) (writeG (writeG prog 1 3) 2 0x0005000000000200)) (fun t => ((getEntry t.me 3).image, (getEntry t.me 3).st))
      = some (0x0005000000000200, .idle)
    ∧ after (exec (.hset 1 2) (writeG (writeG prog 1 3) 2 0x0800000000000200)) (fun t => t.me.sys.kcause) = some 0x0F
    ∧ after (exec (.hset 1 2) (atPriv 0 (writeG (writeG prog 1 3) 2 0x0400000000000200))) (fun t => t.me.sys.kcause) = some 2
    ∧ after (exec (.hget 3 1) (writeG prog 1 0)) (fun t => readG t 3) = some 0x8000000000000000
    ∧ after (exec (.hmask 1) (writeG prog 1 3)) (fun t => (getEntry t.me 3).image) = some 0x1000000000000000
    ∧ after (exec (.hrun 1 2) (writeG (writeG prog 1 3) 2 0x66)) (fun t => ((getEntry t.me 3).st, (getEntry t.me 3).cause))
      = some (.runnable, some ⟨6, 0, 0x66⟩)
    ∧ after (exec (.hrun 1 2) prog) (fun t => ((getEntry t.me 0).st, (getEntry t.me 0).pending)) = some (.running, true) := by decide +kernel

theorem test_HandlerTableInstructions_witness :
    2 ^ 5 ≤ (32#64).toNat ∧ (3#64).toNat = (3#5).toNat ∧ (2 ≤ ((0x0800000000000200#64).extractLsb' 58 2).toNat)
    ∧ ¬ ((0x0400000000000200#64).extractLsb' 61 3 ≠ 0#3 ∨ (0x0400000000000200#64).extractLsb' 0 2 ≠ 0#2 ∨ 2 ≤ ((0x0400000000000200#64).extractLsb' 58 2).toNat)
    ∧ (priv (atPriv 0 prog)).toNat < ((0x0400000000000200#64).extractLsb' 58 2).toNat ∧ ((0x0400000000000200#64).extractLsb' 58 2).toNat ≤ (priv prog).toNat
    ∧ (getEntry prog.me 0).st = .running ∧ (getEntry prog.me 3).st = .idle ∧ (0x022A000000000200#64).getLsbD 57 = true
    ∧ boundElsewhere withInbox.me ((0x022A000000000200#64).extractLsb' 51 6) 3 = false ∧ inboxOf withInbox.me ((0x022A000000000200#64).extractLsb' 51 6) ≠ []
    ∧ (0x0000000000000200#64).getLsbD 57 = false ∧ prog.me.faults = [] ∧ (getEntry prog.me 3).cause = none := by decide +kernel

/-- No handler runs; entry 2 is eligible from Idle with a cause, and there may be faults queued for entry 0 and a resumed entry. -/
def withEligible : State :=
  { prog with me := { setEntry (setEntry prog.me 0 Entry.zero) 2 { Entry.zero with image := 0x0400000000000200, st := .runnable, cause := some ⟨6, 5, 0x66⟩ } with run := none } }

def withQueued : State :=
  { prog with me := { setEntry prog.me 0 { Entry.zero with image := 0x0400000000000300, st := .runnable } with run := none, faults := [⟨0x105, 0x44, 9⟩] } }

def withResumed : State :=
  { prog with me := { setEntry (setEntry prog.me 0 Entry.zero) 2 { Entry.zero with image := 0x100, st := .runnable, resume := true, block := { Hregs.zero with pc := 0x84 } } with
      run := none } }

def withAsync (ie : Bool) (run : Option (BitVec 5)) : State :=
  { prog with me.asyncs := [⟨0x19, 1, 0⟩, ⟨0x14, 7, 0⟩], me.regs.ks.ie := ie, me.run := run }

theorem test_selection :
    after (exec .handlerSelection withEligible) (fun t => (t.me.run, t.me.regs.pc, readG t 3, readG t 4)) = some (some 2, 0x200, 0x506, 0x66)
    ∧ after (exec .handlerSelection withEligible) (fun t => (t.me.regs.ks.priv, t.me.regs.ks.ie)) = some (1, true)
    ∧ after (exec .handlerSelection withResumed) (fun t => (t.me.run, t.me.regs.pc)) = some (some 2, 0x84)
    ∧ after (exec .handlerSelection withQueued) (fun t => (t.me.sys.kcause, t.me.sys.keval, t.me.sys.kelem))
      = some (0x105, 0x44, 9)
    ∧ after (exec .handlerSelection withQueued) (fun t => (readG t 3, readG t 4, t.me.faults)) = some (0x505, 0x44, []) := by decide +kernel

theorem test_async_delivery :
    after (exec .asyncCauseDelivery (withAsync true (some 0))) (fun t => (t.me.sys.kcause, t.me.sys.keval, t.me.sys.kepc, t.me.asyncs.length))
      = some (0x14, 7, 0x440, 1)
    ∧ after (exec .asyncCauseDelivery (withAsync false (some 0))) (fun t => t.me.asyncs.length) = some 2
    ∧ after (exec .asyncCauseDelivery (withAsync true none)) (fun t => (t.me.faults, t.me.asyncs.length)) = some ([⟨0x14, 7, 0⟩], 1) := by decide +kernel

theorem test_SelectionAndAsynchronousCauses_witness :
    isActive withEligible withEligible.me.id = true ∧ isActive withQueued withQueued.me.id = true ∧ isActive withResumed withResumed.me.id = true
    ∧ withEligible.me.run = none ∧ pickEntry withEligible.me = some 2 ∧ (getEntry withEligible.me 2).resume = false ∧ pickEntry withQueued.me = some 0
    ∧ withQueued.me.faults = ⟨0x105, 0x44, 9⟩ :: [] ∧ pickEntry withResumed.me = some 2 ∧ (getEntry withResumed.me 2).resume = true
    ∧ (withAsync true none).me.run = none ∧ pickEntry (withAsync true none).me = none ∧ isActive (withAsync true none) (withAsync true none).me.id = true
    ∧ lowestAsync (withAsync true (some 0)).me = some ⟨0x14, 7, 0⟩ ∧ (0x14#9).toNat ∈ [0x14, 0x18, 0x19]
    ∧ (withAsync false (some 0)).me.regs.ks.ie = false ∧ (withAsync true none).me.faults.all (fun g => g.kcause ≠ 0x14) = true := by decide +kernel

/-! ### Transits and translation -/

/-- A transit image at 0x2000 (500 cycles, work 100, entry 5), KTIME 1000. -/
def withTransit : State :=
  { base with ktime := 1000, mem := [(0x2000, 0xF4), (0x2001, 1), (0x2008, 100), (0x2010, 5)] }

def opened : State := match exec (.trn 3 1) (writeG withTransit 1 0x2000) with | .next t => t | _ => base

theorem test_transits :
    (readG opened 3, opened.me.sys.trn, (ephGet opened 0x40 5).deadline, (ephGet opened 0x40 5).work, (ephGet opened 0x40 5).state) = (0, 0x45, 1500, 100, 1)
    ∧ after (exec (.slack 4 1) (writeG opened 1 64)) (readG · 4) = some 500
    ∧ after (exec (.trne 4) { opened with ktime := 1100 }) (fun t => (readG t 4, t.me.sys.trn, (ephGet t 0x40 5).state)) = some (400, 0, 2)
    ∧ after (exec (.trne 4) base) (fun t => (t.me.sys.kcause, t.me.sys.keval)) = some (0x0F, 0) := by decide +kernel

theorem test_TransitsOpenAndClose_witness :
    opened.me.sys.trn.getLsbD 6 = true ∧ base.me.sys.trn.getLsbD 6 = false ∧ (63#64).toNat < 2 ^ 6 ∧ (64#64).getLsbD 6 = true ∧ (64#64).toNat < 2 ^ 7
    ∧ 2 ^ 7 ≤ (128#64).toNat ∧ (500#64) ≠ 0#64 ∧ (100#64).extractLsb' 59 5 = 0#5 ∧ (5#64).toNat < 64
    ∧ (ephGet withTransit 0x40 5).state ≠ 1#2 ∧ (ephGet { opened with me.sys.trn := 0 } 0x40 5).state = 1#2 := by decide +kernel

/-- The state and word that a plain read of eight bytes leaves. -/
def word8 (s : State) (pa : Nat) : State × Nat := l1Read (register s pa 8 false true) pa 8 false

theorem test_plainWord_reads (s : State) (va : Word) (pa : Nat) (ha : access s (priv s) va 8 needRead = .ok s pa)
    (hr : (inL1 s pa || reachable s pa) = true) (hp : pastPin s pa = false) (hn : races s pa 8 false true = false) (hb : readLost s pa 8 false = false)
    (hf : firstStop s (fillReqs s (pa / 128) false) = none)
    (k : State → Word → Except Trap State) (u : State) (hk : k (word8 s pa).1 (BitVec.ofNat 64 (word8 s pa).2) = .ok u) : plainWord s va k = .ok u := by
  have hk' : k (l1Read (register s pa 8 false true) pa 8 false).1 (BitVec.ofNat 64 (l1Read (register s pa 8 false true) pa 8 false).2) = .ok u := hk
  simp [plainWord, withAccess, ha, hr, plainAccess, checkedAccess, guardLine, guardHome, hp, hn, hb, hf, hk', afterWalk]

def image0 : State := writeG withTransit 1 0x2000
def image1 : State := (word8 image0 0x2000).1
def image2 : State := (word8 image1 0x2008).1

theorem test_TransitImage_witness :
    ∃ s1 s2 s3, (∀ k u, k s1 500 = .ok u → plainWord image0 0x2000 k = .ok u) ∧ (∀ k u, k s2 100 = .ok u → plainWord s1 0x2008 k = .ok u)
      ∧ (∀ k u, k s3 5 = .ok u → plainWord s2 0x2010 k = .ok u) := by
  have h0 : BitVec.ofNat 64 (word8 image0 0x2000).2 = 500 := by decide +kernel
  have h1 : BitVec.ofNat 64 (word8 image1 0x2008).2 = 100 := by decide +kernel
  have h2 : BitVec.ofNat 64 (word8 image2 0x2010).2 = 5 := by decide +kernel
  refine ⟨image1, image2, (word8 image2 0x2010).1, fun k u hk => ?_, fun k u hk => ?_, fun k u hk => ?_⟩
  · rw [← h0] at hk; exact test_plainWord_reads image0 0x2000 0x2000 (by rfl) (by decide +kernel) (by decide +kernel) (by decide +kernel) (by decide +kernel)
      (by decide +kernel) k u hk
  · rw [← h1] at hk; exact test_plainWord_reads image1 0x2008 0x2008 (by rfl) (by decide +kernel) (by decide +kernel) (by decide +kernel) (by decide +kernel)
      (by decide +kernel) k u hk
  · rw [← h2] at hk; exact test_plainWord_reads image2 0x2010 0x2010 (by rfl) (by decide +kernel) (by decide +kernel) (by decide +kernel) (by decide +kernel)
      (by decide +kernel) k u hk

/-- The tables of partition 1 at 0x20000, its leaf for partition address 0 at 0x40000 with the given low byte, home 0x10000. -/
def withTables (low : Byte) (pulled : Bool) : State :=
  { prog with
    mem := [(0x20000, 0x01), (0x20002, 0x03), (0x30000, 0x01), (0x30002, 0x04), (0x40000, low), (0x40002, 1)] ++ (if pulled then [(0x10007, 0x5A)] else [])
    parts := [(1, { PartRec.zero with coreList := [(0, 2), (1, 3)], mstage := 0x20000, mstageEff := 0x20000 })], dram := [(1, 1)] }

theorem test_tlb :
    after (exec (.tableWalkComplete 0x40 0) (withTables 0x3D false)) (fun t => t.me.tlb.map (fun e => (e.vbase, e.pbase, e.bits))) = some [(0, 0x10000, 16)]
    ∧ after (exec (.tableWalkComplete 0x40 1) (withTables 0x25 false)) (fun t => t.me.tlb.length) = some 0
    ∧ after (exec (.tlbi 1) (writeG { withTables 0x3D false with me.tlb := [⟨0, 0, 16, 0x10000, 16, ⟨true, true, true⟩, ⟨true, true, true⟩, false⟩] } 1 0x9000)) (fun t => t.me.tlb)
      = some []
    ∧ after (exec (.tlbi 1) (writeG { withTables 0x3D false with me.tlb := [⟨0, 0, 16, 0x10000, 16, ⟨true, true, true⟩, ⟨true, true, true⟩, false⟩] } 1 0x10000)) (fun t => t.me.tlb.length)
      = some 1
    ∧ after (exec (.pagePullComplete 1 0) { withTables 0x3E true with pulls := [(1, 0)] }) (fun t => (memNat t.mem 0x40000 8, memByte t.mem 0x10007)) = some (0x1003D, 0x5A) := by
  decide +kernel

theorem test_TranslationsComeAndGo_witness :
    1 ≤ (priv prog).toNat ∧ (0x9000#64).toNat < 2 ^ 48 ∧ 2 ^ 48 ≤ (0x1000000000000#64).toNat ∧ priv base = 2#2 ∧ (1#64).toNat = (1#6).toNat
    ∧ 2 ^ 6 ≤ (64#64).toNat ∧ (tlbHit ({ prog with me.tlb := [⟨0, 0, 16, 0x10000, 16, ⟨true, true, true⟩, ⟨true, true, true⟩, false⟩] } : State).me 0x40).isSome
    ∧ tlbHit (withTables 0x3D false).me 0x40 = none ∧ isMonitor prog.me = false ∧ priv prog ≠ 2#2
    ∧ (match walk (withTables 0x3D false) (withTables 0x3D false).me 1 0x40 (needOf 0) with | .ok _ => true | _ => false) = true
    ∧ (walkLines (withTables 0x3D false) (withTables 0x3D false).me 1 0x40 (needOf 0)).all (fun n => readState (withTables 0x3D false) 1 n == .go) = true
    ∧ Memory.wf (withTables 0x3E false).mem = true ∧ (match stage2 (withTables 0x3E false) 1 0 with | .pull => true | _ => false) = true
    ∧ leafAt (withTables 0x3E false) 0 3 1 0x20000 = some 0x40000 := by decide +kernel
/-! ## Outstanding work, counters, barriers, measurement (14 R324 to R339) -/

/-- Dependence counter 5 and barrier 2 of partition 1. -/
def withDc (d : Dc) : State := dcPut prog 1 5 d
def withBar (x : Bar) : State := barPut prog 1 2 x

/-- A counter bound to slot 4 of context 7 of index 0. -/
def dc5 (count : BitVec 32) (bound : Bool) : Dc := ⟨count, false, bound, false, 0x400070000, 0x77⟩

/-- The monitor with a core list of its own, its counter 5 or its barrier 2; the counter bound to slot 4 of its context. -/
def own : State := { base with parts := [(0x40, { PartRec.zero with coreList := [(0, 511)] })] }
def ownDc (d : Dc) : State := dcPut own 0x40 5 d
def ownBar (x : Bar) : State := barPut own 0x40 2 x
def dc0 (count : BitVec 32) (bound : Bool) : Dc := { dc5 count bound with binding := 0x400000000 }

/-- Partition 1 with its system core on another die. -/
def far : State := { prog with parts := [(1, { PartRec.zero with coreList := [(0, 514), (1, 2)] })] }

/-- The scheduler memory of the system core's die is reached over rented links, by the monitor always, and not over a bridge that is not rented. -/
theorem test_SystemReach_witness :
    systemReach (rented prog 1 (unitPath 2 0 81)) 1 2 81 = true ∧ systemReach own 0x40 511 81 = true ∧ systemReach far 1 2 81 = false := by
  refine ⟨?_, rfl, ?_⟩
  · have h : systemDie (rented prog 1 (unitPath 2 0 81)) 1 2 = 0 := by decide +kernel
    rw [systemReach, h]; exact rented_owned prog 1 (unitPath 2 0 81)
  · have hd : systemDie far 1 2 = 1 := by decide +kernel
    have hm : outerLink 0 false ∈ unitPath 2 1 81 := by
      show _ ∈ placePath 0 1 _ _
      simp [placePath, rowPath]
    have ho : ownsLink far 1 (outerLink 0 false) = false := by decide +kernel
    have hp : pathOwned far 1 (unitPath 2 1 81) = false := by
      simpa [pathOwned] using ⟨_, hm, ho⟩
    rw [systemReach, hd, hp]

/-- A DCBIND operand: index, context, slot 4, bind. -/
def bindOp (idx kctx : Nat) (on : Bool) : Word := BitVec.ofNat 64 (idx + kctx * 2 ^ 16 + 4 * 2 ^ 32 + (if on then 2 ^ 37 else 0))

theorem test_wait :
    after (exec (.wait 0 0 0 0) { prog with me.pend := [⟨5, 0, .value 9⟩] }) (fun t => (t.me.run, (getEntry t.me 0).why)) = some (none, .counters 0 0 0 0)
    ∧ after (exec (.wait 1 0 0 0) { prog with me.pend := [⟨5, 0, .value 9⟩] }) (fun t => t.me.regs.pc) = some 0x444 := by decide +kernel

theorem test_dependence_counters :
    after (exec (.dcadd 3 1 2) (writeG (writeG (ownDc (dc0 7 false)) 1 5) 2 3)) (fun t => (readG t 3, (dcGet t 0x40 5).count)) = some (7, 10)
    ∧ after (exec (.dcdec 3 1 2) (writeG (writeG (ownDc (dc0 1 false)) 1 5) 2 3)) (fun t => (readG t 3, (dcGet t 0x40 5).count, (dcGet t 0x40 5).underflow)) = some (1, 0, true)
    ∧ after (exec (.dcdec 3 1 2) (writeG (writeG (ownDc (dc0 3 true)) 1 5) 2 3)) (fun t => ((getEntry t.me 4).st, (getEntry t.me 4).cause)) = some (.runnable, some ⟨2, 5, 0x77⟩)
    ∧ after (exec (.dcget 3 1) (writeG (ownDc (dc0 3 true)) 1 5)) (readG · 3) = some 0x200000003
    ∧ after (exec (.dcset 3 1 2) (writeG (writeG (ownDc (dc0 3 true)) 1 5) 2 0x100000000)) (fun t => t.me.sys.kcause) = some 0x0F
    ∧ after (exec (.dcbind 3 1 2) (writeG (writeG (ownDc (dc0 3 false)) 1 5) 2 (bindOp 0 0 true))) (fun t => ((dcGet t 0x40 5).bound, (dcGet t 0x40 5).binding)) = some (true, 0x400000000)
    ∧ after (exec (.engineDecrement 0) { ownDc (dc0 1 true) with decrs := [⟨0x40, 5, ⟨511, 0x40, 0⟩, none, none⟩] }) (fun t => (t.decrs, (getEntry t.me 4).cause)) = some ([], some ⟨2, 5, 0x77⟩) := by
  decide +kernel

theorem test_WaitsAndDependenceCounters_witness :
    (loadsOut prog.me ≤ (0#5).toNat ∧ storesOut prog.me ≤ (0#5).toNat ∧ copiesOut prog.me ≤ (0#5).toNat ∧ tilesOut prog.me ≤ (0#5).toNat)
    ∧ ¬ loadsOut ({ prog with me.pend := [⟨5, 0, .value 9⟩] } : State).me ≤ (0#5).toNat ∧ prog.me.run = some 0
    ∧ regionPending prog = false ∧ prog.me.lateBad = [] ∧ prog.me.l1 = [] ∧ 2 ^ 12 ≤ (4096#64).toNat ∧ (4095#64).toNat < 2 ^ 12 ∧ 2 ^ 32 ≤ (0x100000000#64).toNat ∧ (0xFFFFFFFF#64).toNat < 2 ^ 32
    ∧ 2 ^ 32 ≤ (dcGet (withDc (dc5 7 false)) 1 5).count.toNat + 0xFFFFFFFF ∧ (dcGet (withDc (dc5 7 false)) 1 5).count.toNat + 3 < 2 ^ 32 := by
  decide +kernel

theorem test_barriers :
    after (exec (.bar 3 1) (writeG (ownBar ⟨2, 0, 9, 0⟩) 1 2)) (fun t => (readG t 3, barGet t 0x40 2)) = some (9, ⟨2, 1, 9, 0⟩)
    ∧ after (exec (.bar 3 1) (writeG (ownBar ⟨2, 1, 9, 0⟩) 1 2)) (fun t => (readG t 3, barGet t 0x40 2)) = some (9, ⟨2, 0, 10, 0⟩)
    ∧ after (exec (.barw 3 1) (writeG (ownBar ⟨2, 1, 9, 0⟩) 1 2)) (fun t => (readG t 3, t.me.regs.pc)) = some (10, 0x444)
    ∧ after (exec (.barw 3 1) (writeG (ownBar ⟨2, 0, 9, 0⟩) 1 2)) (fun t => (t.me.run, (getEntry t.me 0).why)) = some (none, .barrier 2 9)
    ∧ after (exec (.bar 3 1) (writeG own 1 2)) (fun t => t.me.sys.kcause) = some 0x0F
    ∧ after (exec (.barinit 3 1 2) (writeG (writeG own 1 2) 2 4)) (fun t => (readG t 3, barGet t 0x40 2)) = some (0, ⟨4, 0, 0, 0⟩) := by decide +kernel

theorem test_CountersAndBarriersRelease_witness :
    2 ^ 38 ≤ (0x4000000000#64).toNat ∧ ownerCore prog 1 2 = none ∧ (ownerCore prog 1 0).isSome ∧ (bindOp 0 6 true).getLsbD 37 = true
    ∧ (bindOp 0 7 false).getLsbD 37 = false ∧ (bindOp 0 7 true).toNat < 2 ^ 38 ∧ namedCtx prog 1 0 6 = none ∧ namedCtx prog 1 0 7 = some ⟨2, 1, 7⟩
    ∧ (findCtx prog ⟨2, 1, 7⟩).isSome ∧ (dcGet (withDc ⟨0, false, true, true, 0, 0⟩) 1 5).reached = true
    ∧ ({ prog with decrs := [⟨1, 5, ⟨2, 1, 7⟩, none, none⟩] } : State).decrs[0]? = some ⟨1, 5, ⟨2, 1, 7⟩, none, none⟩
    ∧ namedCtx (withDc (dc5 1 true)) 1 ((dc5 1 true).binding.extractLsb' 0 16).toNat ((dc5 1 true).binding.extractLsb' 16 16) = some ⟨2, 1, 7⟩
    ∧ (barGet prog 1 2).n = 0 ∧ (barGet (withBar ⟨2, 0, 9, 0⟩) 1 2).arrived + 1 ≠ 2 ∧ (barGet (withBar ⟨2, 1, 9, 0⟩) 1 2).arrived + 1 = 2
    ∧ awaited (withBar ⟨2, 0, 9, 0⟩) 2 = none ∧ (0#13).getLsbD 12 = false ∧ 2 ^ 29 ≤ (0x20000001#64).toNat ∧ (0x10000#64).toNat % 2 ^ 16 = 0
    ∧ (4#64).toNat % 2 ^ 16 ≠ 0 ∧ (barGet (withBar ⟨2, 1, 9, 0⟩) 1 2).arrived ≠ 0
    ∧ awaited { withBar ⟨2, 0, 10, 0⟩ with me := setEntry prog.me 0 { getEntry prog.me 0 with arrived := [(0x440, 2, 9)] } } 2 = some 9 := by decide +kernel

/-- Counter 3 selects event 1 with its interrupt, has wrapped and stands at 5. -/
def withPerf : State := { prog with me.perf := prog.me.perf.set 3 ⟨5, 0x101, true, true⟩, parts := [(1, { PartRec.zero with allow := 2 })] }

theorem test_counters_read :
    after (exec (.pcrd 3 1) (writeG withPerf 1 3)) (fun t => (readG t 3, readC t 7)) = some (5, false)
    ∧ after (exec (.pcrd 3 1) (writeG { withPerf with parts := [] } 1 3)) (fun t => (readG t 3, readC t 7)) = some (0, true)
    ∧ after (exec (.pcsel 1 2) (writeG (writeG withPerf 1 3) 2 2)) (fun t => ((t.me.perf[3]).value, (t.me.perf[3]).sel, readC t 7)) = some (0, 2, true)
    ∧ after (exec (.time 3) { prog with ktime := 77 }) (readG · 3) = some 77
    ∧ after (exec (.perfCounterWrap 3) withPerf) (fun t => t.me.asyncs) = some [⟨0x19, 3, 0⟩]
    ∧ after (exec (.ecnt 3 1) (writeG prog 1 3)) (fun t => t.me.sys.kcause) = some 0x0F := by decide +kernel

theorem test_MeasurementInstructions_witness :
    1 ≤ (priv prog).toNat ∧ 2 ^ 3 ≤ (8#64).toNat ∧ (3#64).toNat = (3#3).toNat ∧ 2 ^ 10 ≤ (1024#64).toNat ∧ 16 ≤ (16#64).toNat % 2 ^ 8 ∧ (0x30F#64).toNat % 2 ^ 8 < 16
    ∧ (0x30F#64).toNat < 2 ^ 10 ∧ (partRec withPerf (myPart withPerf)).allow.getLsbD 1 = true ∧ (partRec prog (myPart prog)).allow.getLsbD 1 = false
    ∧ isMonitor prog.me = false ∧ 2 ≤ (priv base).toNat ∧ (priv prog).toNat < 2 ∧ (0x70002#64).toNat = 2 + 7 * 2 ^ 16 ∧ (0x470003#64).toNat = 3 + 0x47 * 2 ^ 16
    ∧ 6 ≤ (6#64).toNat % 2 ^ 8 ∧ (prog.me.perf[3]).wrapped = false ∧ (withPerf.me.perf[3]).wrapped = true ∧ (withPerf.me.perf[3]).sel.getLsbD 8 = true := by
  decide +kernel

/-! ## The step (04 R83, 01 R24 to R33) -/

/-- ADD g5, g6, g7 at the handler's PC, fetched and run; a word of zeros is ILL. -/
theorem test_step :
    after (step (base.withFetchWord 32 0x04518700)) (fun t => (t.me.regs.pc, t.me.sys.kcause)) = some (0x444, 0)
    ∧ after (step (writeG (base.withFetchWord 32 0x04518700) 6 5)) (readG · 5) = some 5
    ∧ after (step (State.reset.withFetchWord 32 0x04518700)) (fun t => (t.me.regs.pc, t.tick)) = some (0x444, 1) := by decide +kernel

theorem test_boundaryDue (c : CoreId) :
    boundaryDue (base.withFetchWord 32 0x04518700) c = false ∧ swapDue (base.withFetchWord 32 0x04518700) c = false := by
  have h2 : let r := coreRec (base.withFetchWord 32 0x04518700) c
      r.running = false ∧ r.boundary = false ∧ r.swReq = none := by
    unfold coreRec tabGet
    have h : ∃ r, (base.withFetchWord 32 0x04518700).cores = [(511, r)] ∧ r.running = false ∧ r.boundary = false ∧ r.swReq = none :=
      ⟨_, rfl, rfl, rfl, rfl⟩
    obtain ⟨r, hr, hf⟩ := h
    by_cases hc : 511 = c.toNat <;> simp [hr, tabFind, hc, hf, CoreRec.zero]
  simp [boundaryDue, swapDue, swapRecord, ctxswSet, h2]

theorem test_StepRunsDecodedInstruction_witness :
    ∃ t, fetch (base.withFetchWord 32 0x04518700) = .word t 0x04518700 ∧ stalls 0x04518700 t = false ∧ decode 0x04518700 = .ok (.add 5 6 7) :=
  ⟨_, rfl, by decide +kernel, by decide +kernel⟩

theorem test_StepState_witness :
    let s := base.withFetchWord 32 0x04518700
    s.agenda = [] ∧ s.boot.phase = 7#8 ∧ s.boot.halted = false ∧ s.ktime.toNat < s.epochAt.toNat ∧ isActive s s.me.id = true ∧ s.me.run.isSome = true
    ∧ (myCore s).entering = false ∧ leaving s s.me.id = false ∧ readState s 0x40 (0x440 / 128) = .go ∧ evictees s (0x440 / 128) = []
    ∧ s.me.sys.idle = false ∧ s.me.asyncs = [] ∧ findLine s.me (0x440 / 128) = none ∧ badLine s 0x440 = false ∧ reachable s 0x440 = true ∧ 0x440 % 4 = 0 := by
  decide +kernel

theorem test_FetchAccess_witness :
    access (base.withFetchWord 32 0x04518700) (priv (base.withFetchWord 32 0x04518700)) 0x440 4 needExec = .ok (base.withFetchWord 32 0x04518700) 0x440 := by rfl

theorem test_DecodeEncodeRoundTrip_witness :
    (Instr.fadd 63 0 1 2).wf = true ∧ encode (.fadd 63 0 1 2) = some 0x43F00102 ∧ decode 0x43F00102 = .ok (.fadd 63 0 1 2) := by decide +kernel

theorem test_reset_wf : Safety.memoriesCanonical State.reset = true := by decide

theorem test_StepKeepsMemoriesCanonical_witness : Safety.memoriesCanonical (base.withFetchWord 32 0x04518700) = true := by decide +kernel
/-! ## The fabric (11, 12) -/

/-- Graph 3 of the context of prog, running. -/
def graph3 : Graph :=
  ⟨0, 1, 0, 1, 1, 0, 0, 0, 0, 0, 0, false, false, false⟩

/-- One element of graph 3 with fields and input queues whose checkers stand behind G. -/
def fabric (e : Nat) (cfg : List (Nat × BitVec 16)) (qs : List (Nat × List Token)) : State :=
  { prog with me.fab := { Fabric.zero with
      cfg := cfg.map (fun p => (e * 64 + p.1, p.2)), queues := qs.map (fun q => (inKey e q.1, q.2)),
      checks := qs.map (fun q => (inKey e q.1, { Check.zero with phase := 1 })), marks := [(e, ⟨2, 3⟩)], graphs := [(3, graph3)] } }

/-- The heads of an element's inputs, compared. -/
def headsAre (c : Ctx) (e : Nat) (slots : List Nat) (hs : List (Nat × Option Token)) : Bool :=
  match headsOf c e slots with
  | .ok x => decide (x = hs)
  | .error _ => false

theorem helper_heads {c : Ctx} {e : Nat} {slots : List Nat} {hs : List (Nat × Option Token)} (h : headsAre c e slots hs = true) :
    headsOf c e slots = .ok hs := by
  unfold headsAre at h
  split at h
  · rename_i x hx; rw [hx, of_decide_eq_true h]
  · cases h

/-- The conditions of a firing on two or more heads, as one Bool. -/
def fires (s : State) (e op : Nat) (slots : List Nat) (hs : List (Nat × Option Token)) (t : Token) : Bool :=
  moves s e && decide (opOf s.me e = op) && !pending s.me e && headsAre (pulled s e) e slots hs && decide (hs.findSome? (fun h => h.2) = some t)
    && hs.all (fun h => match h.2 with
      | some u => decide (u.kind = t.kind ∧ (t.kind = 1#4 → u.coord = t.coord))
      | none => true)

theorem helper_fires {s : State} {e op : Nat} {slots : List Nat} {hs : List (Nat × Option Token)} {t : Token} (h : fires s e op slots hs t = true) :
    Stands s e op ∧ Pairs (pulled s e) e slots hs t := by
  simp only [fires, Bool.and_eq_true, decide_eq_true_eq, List.all_eq_true, Bool.not_eq_true'] at h
  obtain ⟨⟨⟨⟨⟨h1, h2⟩, h3⟩, h4⟩, h5⟩, h6⟩ := h
  refine ⟨⟨h1, h2, h3⟩, helper_heads h4, h5, fun x hx u hu => ?_⟩
  have := h6 x hx
  rw [hu] at this
  exact of_decide_eq_true this

/-- Cell 0 with an operation, field 1, the low fields of its constant, and outputs to the east; every input has a token. -/
def cell (op fmt k : BitVec 16) (toks : List Token) : State :=
  fabric 0 [(0, op), (1, fmt), (2, 0x1001), (3, 0x1001), (4, 0x1001), (5, 2), (6, k)] (toks.zipIdx.map (fun t => (t.2, [t.1])))

/-- The token that stands behind the east output of cell 0. -/
def east (i : Instr) (s : State) : Option (List Token) := after (exec i s) (fun t => queueOf t.me (inKey 0x81 71))

theorem test_integer_cells :
    east (.cellIadd 0) (cell 0x20 0x104 0 [tokD 0xFFFFFFFF, tokD 2]) = some [tokD 1] ∧ east (.cellIsub 0) (cell 0x21 0x124 0 [tokD 0x500000003, tokD 0x100000004]) = some [tokD 0x4FFFFFFFF]
    ∧ east (.cellImac 0) (cell 0x23 0x104 0 [tokD 3, tokD 5, tokD 7]) = some [tokD 22] ∧ east (.cellIsha 0) (cell 0x29 0x100 0 [tokD 0x80, tokD 9]) = some [tokD 0xC0]
    ∧ east (.cellIcmp 0) (cell 0x2C 0x104 2 [tokD 0xFFFFFFFF, tokD 0]) = some [tokD 0xFFFFFFFF] := by decide +kernel

theorem test_IntegerCellResults_witness :
    (∀ op ∈ [0x20, 0x21, 0x22, 0x24, 0x25, 0x26, 0x27, 0x28, 0x29, 0x2A, 0x2B, 0x2C], ∀ s, s = cell (BitVec.ofNat 16 op) 0x104 0 [tokD 5, tokD 3] →
      Stands s 0 op ∧ Pairs (pulled s 0) 0 (cellNeeds op) [(0, some (tokD 5)), (1, some (tokD 3))] (tokD 5))
    ∧ (∀ s, s = cell 0x23 0x104 0 [tokD 5, tokD 3, tokD 1] →
      Stands s 0 0x23 ∧ Pairs (pulled s 0) 0 (cellNeeds 0x23) [(0, some (tokD 5)), (1, some (tokD 3)), (2, some (tokD 1))] (tokD 5)) := by
  have h : ([0x20, 0x21, 0x22, 0x24, 0x25, 0x26, 0x27, 0x28, 0x29, 0x2A, 0x2B, 0x2C].all (fun op =>
    fires (cell (BitVec.ofNat 16 op) 0x104 0 [tokD 5, tokD 3]) 0 op (cellNeeds op) [(0, some (tokD 5)), (1, some (tokD 3))] (tokD 5))) = true := by decide +kernel
  refine ⟨fun op ho s hs => ?_, fun s hs => ?_⟩
  · subst hs; exact helper_fires (List.all_eq_true.mp h op ho)
  · subst hs; exact helper_fires (by decide +kernel)

/-- The rest of the hypotheses of IntegerCellResults: an integer type that fits the token, data, and room behind the output. -/
theorem test_CellHypotheses_witness :
    let c := pulled (cell 0x20 0x104 0 [tokD 5, tokD 3]) 0
    isInt c 0 = true ∧ cellWidth c 0 * laneNum c 0 ≤ 64 ∧ TakesData c 0 (tokD 5) ∧ TakesData c 0 (tokF 4 5) ∧ Roomy c 0 [0] ∧ outDests c 0 0 ≠ []
    ∧ (cellConst c 0).getLsbD 15 = false := by
  unfold Roomy TakesData; decide +kernel

theorem test_float_cells :
    east (.cellFadd 0) (cell 0x10 0x001 0 [tokD 0x3F800000, tokD 0x3F800000]) = some [tokD 0x40000000]
    ∧ east (.cellFma 0) (cell 0x13 0x021 0 [tokD 0x4000000040000000, tokD 0x3F8000003F800000, tokD 0x3F800000]) = some [tokD 0x4000000040400000]
    ∧ after (exec (.cellFdiv 0) (cell 0x19 0x001 0 [tokD 0x3F800000, tokD 0])) (fun t => (t.me.faults, (graphIs t 3).map (fun g => g.state)))
      = some ([⟨0x10D, 2, 0⟩], some 2)
    ∧ east (.cellFcvt 0) (cell 0x1C 0x401 0 [tokD 0x3F800000]) = some [tokD 0x3F80] := by decide +kernel

theorem test_FloatCellResults_witness :
    (∀ op ∈ [0x10, 0x11, 0x12, 0x15, 0x16, 0x19, 0x1B], ∀ s, s = cell (BitVec.ofNat 16 op) 1 0 [tokD 0x3F800000, tokD 0] →
      Stands s 0 op ∧ Pairs (pulled s 0) 0 (cellNeeds op) [(0, some (tokD 0x3F800000)), (1, some (tokD 0))] (tokD 0x3F800000))
    ∧ (∀ op ∈ [0x13, 0x14], ∀ s, s = cell (BitVec.ofNat 16 op) 1 0 [tokD 0x3F800000, tokD 0, tokD 0] →
      Stands s 0 op ∧ Pairs (pulled s 0) 0 (cellNeeds op) [(0, some (tokD 0x3F800000)), (1, some (tokD 0)), (2, some (tokD 0))] (tokD 0x3F800000))
    ∧ (∀ op ∈ [0x17, 0x18, 0x1A, 0x1C], ∀ s, s = cell (BitVec.ofNat 16 op) 1 0 [tokD 0x3F800000] →
      Stands s 0 op ∧ Pairs (pulled s 0) 0 (cellNeeds op) [(0, some (tokD 0x3F800000))] (tokD 0x3F800000)) := by
  have h1 : ([0x10, 0x11, 0x12, 0x15, 0x16, 0x19, 0x1B].all (fun op => fires (cell (BitVec.ofNat 16 op) 1 0 [tokD 0x3F800000, tokD 0]) 0 op (cellNeeds op)
    [(0, some (tokD 0x3F800000)), (1, some (tokD 0))] (tokD 0x3F800000))) = true := by decide +kernel
  have h2 : ([0x13, 0x14].all (fun op => fires (cell (BitVec.ofNat 16 op) 1 0 [tokD 0x3F800000, tokD 0, tokD 0]) 0 op (cellNeeds op)
    [(0, some (tokD 0x3F800000)), (1, some (tokD 0)), (2, some (tokD 0))] (tokD 0x3F800000))) = true := by decide +kernel
  have h3 : ([0x17, 0x18, 0x1A, 0x1C].all (fun op => fires (cell (BitVec.ofNat 16 op) 1 0 [tokD 0x3F800000]) 0 op (cellNeeds op)
    [(0, some (tokD 0x3F800000))] (tokD 0x3F800000))) = true := by decide +kernel
  refine ⟨fun op ho s hs => ?_, fun op ho s hs => ?_, fun op ho s hs => ?_⟩ <;> subst hs
  · exact helper_fires (List.all_eq_true.mp h1 op ho)
  · exact helper_fires (List.all_eq_true.mp h2 op ho)
  · exact helper_fires (List.all_eq_true.mp h3 op ho)

/-- The rest for float cells: a format that fits, room, both ends of the exception clauses (1 ÷ 0 raises one), a conversion to an integer and to a float. -/
theorem test_FloatCellHypotheses_witness :
    let c := pulled (cell 0x19 1 0 [tokD 0x3F800000, tokD 0]) 0
    isInt c 0 = false ∧ cellWidth c 0 * laneNum c 0 ≤ 64 ∧ outWidth c 0 * laneNum c 0 ≤ 64 ∧ TakesData c 0 (tokD 0x3F800000) ∧ Roomy c 0 [0] ∧ faultMode c 0 = 0
    ∧ (fDiv (fmtOf 1) 0 false (flOf (fmtOf 1) 0x3F800000) (flOf (fmtOf 1) 0)).flags &&& 7 ≠ 0
    ∧ (fAdd (fmtOf 1) 0 false (flOf (fmtOf 1) 0x3F800000) (flOf (fmtOf 1) 0)).flags &&& 7 = 0
    ∧ (fmtField (cell 0x1C 0x401 0 []).me 0).getLsbD 12 = false ∧ (fmtField (cell 0x1C 0x1801 0 []).me 0).getLsbD 12 = true
    ∧ outWidth (cell 0x1C 0x1801 0 []).me 0 * laneNum (cell 0x1C 0x1801 0 []).me 0 ≤ 64 := by
  unfold Roomy TakesData; decide +kernel
/-- A SEL cell with its control token, from the network at router 0. -/
def selCell (b : List Bool) : State :=
  let s := cell 0x03 0x104 0 [tokD 5, tokD 3]
  { s with me.fab.cfg := (13, 0x8000) :: s.me.fab.cfg, me.fab.ctlq := [(ctlBuffer 0, b)] }

/-- A SEL cell at router 0 that reads the network of the comparison beside it at router 1. -/
def control (b : BitVec 16) : State :=
  let s := cell 0x2C 0x104 b [tokD 3, tokD 5]
  { s with me.fab.cfg := (1 * 64, 3) :: (1 * 64 + 13, 0x8000) :: s.me.fab.cfg }

theorem test_token_cells :
    east (.cellPass 0) (cell 0x01 0x104 0 [tokD 5]) = some [tokD 5] ∧ east (.cellConst 0) (cell 0x02 0x104 9 [tokD 5]) = some [tokD 9]
    ∧ east (.cellSel 0) (selCell [true]) = some [tokD 5] ∧ east (.cellSel 0) (selCell [false]) = some [tokD 3] ∧ east (.cellSel 0) (selCell []) = some []
    ∧ after (exec (.cellCmpx 0) (cell 0x04 0x104 0 [tokD 5, tokD 0xFFFFFFFF])) (fun t => (queueOf t.me (inKey 0x81 71), queueOf t.me (pendKey 0 0)))
      = some ([tokD 5], [tokD 0xFFFFFFFF])
    ∧ after (exec (.cellIcmp 0) (control 0x8002)) (fun t => (queueOf t.me (inKey 0x81 71), ctlOf t.me (ctlSource 1))) = some ([], [true])
    ∧ after (exec (.cellUnp3 0) (cell 0x30 0x101 0 [tokD 5])) (fun t => (queueOf t.me (inKey 0x81 71))) = some [tokD 0xFFFFFF0001] := by decide +kernel

theorem test_TokenCellResults_witness :
    (∀ p ∈ [((0x02 : Nat), [tokStop 1]), (0x04, [tokStop 1, tokStop 1]), (0x03, [tokStop 1, tokStop 1]), (0x43, [tokStop 1, tokStop 1]), (0x30, [tokStop 1]),
        (0x13, [tokStop 1, tokStop 1, tokStop 1])], ∀ s, s = cell (BitVec.ofNat 16 p.1) 0x104 0 p.2 →
      Stands s 0 p.1 ∧ Pairs (pulled s 0) 0 (cellNeeds p.1) (p.2.zipIdx.map (fun t => (t.2, some t.1))) (tokStop 1))
    ∧ (Stands (selCell [true]) 0 3 ∧ Pairs (pulled (selCell [true]) 0) 0 (cellNeeds 3) [(0, some (tokD 5)), (1, some (tokD 3))] (tokD 5))
    ∧ (Stands (control 0x8002) 0 0x2C ∧ Pairs (pulled (control 0x8002) 0) 0 (cellNeeds 0x2C) [(0, some (tokD 3)), (1, some (tokD 5))] (tokD 3))
    ∧ (∀ p ∈ [((0x01 : Nat), [tokD 5]), (0x02, [tokD 5]), (0x02, [tokF 4 5]), (0x04, [tokD 5, tokD 3]), (0x43, [tokD 5, tokD 3]), (0x30, [tokD 5]), (0x30, [tokD 0xF3])],
        ∀ s, s = cell (BitVec.ofNat 16 p.1) 0x101 0 p.2 →
      Stands s 0 p.1 ∧ Pairs (pulled s 0) 0 (cellNeeds p.1) (p.2.zipIdx.map (fun t => (t.2, some t.1))) (p.2.headD tokZ)) := by
  have h1 : ([((0x02 : Nat), [tokStop 1]), (0x04, [tokStop 1, tokStop 1]), (0x03, [tokStop 1, tokStop 1]), (0x43, [tokStop 1, tokStop 1]), (0x30, [tokStop 1]),
      (0x13, [tokStop 1, tokStop 1, tokStop 1])].all (fun p => fires (cell (BitVec.ofNat 16 p.1) 0x104 0 p.2) 0 p.1 (cellNeeds p.1)
        (p.2.zipIdx.map (fun t => (t.2, some t.1))) (tokStop 1))) = true := by decide +kernel
  have h2 : ([((0x01 : Nat), [tokD 5]), (0x02, [tokD 5]), (0x02, [tokF 4 5]), (0x04, [tokD 5, tokD 3]), (0x43, [tokD 5, tokD 3]), (0x30, [tokD 5]),
      (0x30, [tokD 0xF3])].all (fun p => fires (cell (BitVec.ofNat 16 p.1) 0x101 0 p.2) 0 p.1 (cellNeeds p.1)
        (p.2.zipIdx.map (fun t => (t.2, some t.1))) (p.2.headD tokZ))) = true := by decide +kernel
  refine ⟨fun p hp s hs => ?_, helper_fires (by decide +kernel), helper_fires (by decide +kernel), fun p hp s hs => ?_⟩ <;> subst hs
  · exact helper_fires (List.all_eq_true.mp h1 p hp)
  · exact helper_fires (List.all_eq_true.mp h2 p hp)

theorem test_TokenCellHypotheses_witness :
    (tokStop 1).isData = false ∧ isControl (pulled (cell 0x04 0x104 0 [tokStop 1, tokStop 1]) 0) 0 = false ∧ Roomy (pulled (selCell [true]) 0) 0 [0]
    ∧ ctlOf (pulled (selCell [true]) 0) (ctlBuffer 0) = true :: [] ∧ ctlOf (pulled (selCell []) 0) (ctlBuffer 0) = []
    ∧ isControl (pulled (control 0x8002) 0) 0 = true ∧ (∀ e ∈ ctlReaders (pulled (control 0x8002) 0) 0, (ctlOf (pulled (control 0x8002) 0) (ctlSource e)).length < 2)
    ∧ ctlReaders (pulled (control 0x8002) 0) 0 = [1] ∧ cellWidth (cell 0x30 0x101 0 []).me 0 = 8 ∧ laneNum (cell 0x30 0x101 0 []).me 0 = 1
    ∧ (opnd (cell 0x30 0x101 0 []).me 0 (tokD 5) [(0, some (tokD 5))] 0 0 < 243) ∧ 243 ≤ opnd (cell 0x30 0x101 0 []).me 0 (tokD 0xF3) [(0, some (tokD 0xF3))] 0 0
    ∧ faultMode (cell 0x30 0x101 0 []).me 0 = 0 := by
  unfold Roomy; decide +kernel

/-- A grouping cell of level 1 with its state. -/
def group (op fmt k : BitVec 16) (x : ElemSt) (toks : List Token) : State :=
  let s := cell op fmt k toks
  { s with me.fab.cfg := (10, 1) :: s.me.fab.cfg, me.fab.elems := [(0, x)],
           me.fab.checks := [(inKey 0 0, { Check.zero with phase := 1, last := 1, fixed := true }), (inKey 0 1, { Check.zero with phase := 1, last := 1, fixed := true })] }

/-- An open group with 7 in its accumulator, or none yet. -/
def sum7 : ElemSt := { ElemSt.zero with acc := 7, used := true, isOpen := true }

theorem test_grouping_cells :
    after (exec (.cellRed 0) (group 0x38 0x104 0 sum7 [tokD 5])) (fun t => ((elemOf t.me 0).acc, queueOf t.me (inKey 0x81 71))) = some (12, [])
    ∧ after (exec (.cellRed 0) (group 0x38 0x104 0 sum7 [tokStop 1])) (fun t => ((elemOf t.me 0).used, queueOf t.me (inKey 0x81 71))) = some (false, [tokD 7])
    ∧ after (exec (.cellRed 0) (group 0x38 0x104 0 sum7 [tokStop 3])) (fun t => (queueOf t.me (inKey 0x81 71), queueOf t.me (pendKey 0 0))) = some ([tokD 7], [tokStop 2])
    ∧ after (exec (.cellTacc 0) (group 0x31 0x120 0 sum7 [tokD 0x01FF, tokD 0x0304])) (fun t => (elemOf t.me 0).acc) = some 6
    ∧ after (exec (.cellCsum 0) (group 0x39 0x125 0 ElemSt.zero [tokD 0x200000001])) (fun t => (elemOf t.me 0).acc) = some 0x22 := by decide +kernel

theorem test_GroupingCellResults_witness :
    ∀ p ∈ [((0x31 : Nat), [tokStop 1, tokStop 1]), (0x31, [tokStop 3, tokStop 3]), (0x31, [tokD 1, tokD 5]), (0x38, [tokStop 1]), (0x38, [tokStop 7]), (0x38, [tokD 5]),
        (0x39, [tokStop 1]), (0x39, [tokStop 2]), (0x39, [tokD 5])], ∀ s, s = group (BitVec.ofNat 16 p.1) 0x100 0 sum7 p.2 →
      Stands s 0 p.1 ∧ Pairs (pulled s 0) 0 (cellNeeds p.1) (p.2.zipIdx.map (fun t => (t.2, some t.1))) (p.2.headD tokZ) := by
  have h : ([((0x31 : Nat), [tokStop 1, tokStop 1]), (0x31, [tokStop 3, tokStop 3]), (0x31, [tokD 1, tokD 5]), (0x38, [tokStop 1]), (0x38, [tokStop 7]), (0x38, [tokD 5]),
      (0x39, [tokStop 1]), (0x39, [tokStop 2]), (0x39, [tokD 5])].all (fun p => fires (group (BitVec.ofNat 16 p.1) 0x100 0 sum7 p.2) 0 p.1 (cellNeeds p.1)
        (p.2.zipIdx.map (fun t => (t.2, some t.1))) (p.2.headD tokZ))) = true := by decide +kernel
  intro p hp s hs
  subst hs
  exact helper_fires (List.all_eq_true.mp h p hp)

/-- A grouping cell that opens: its checker stands before G. -/
def opening (op : BitVec 16) (toks : List Token) : State := { cell op 0x100 0 toks with me.fab.checks := [], me.fab.cfg := (10, 1) :: (cell op 0x100 0 toks).me.fab.cfg }

theorem test_GroupOpens_witness :
    (Stands (opening 0x31 [tokG, tokG]) 0 0x31 ∧ Pairs (pulled (opening 0x31 [tokG, tokG]) 0) 0 (cellNeeds 0x31) [(0, some tokG), (1, some tokG)] tokG)
    ∧ (Stands (opening 0x38 [tokG]) 0 0x38 ∧ Pairs (pulled (opening 0x38 [tokG]) 0) 0 (cellNeeds 0x38) [(0, some tokG)] tokG)
    ∧ (Stands (opening 0x39 [tokG]) 0 0x39 ∧ Pairs (pulled (opening 0x39 [tokG]) 0) 0 (cellNeeds 0x39) [(0, some tokG)] tokG) :=
  ⟨helper_fires (by decide +kernel), helper_fires (by decide +kernel), helper_fires (by decide +kernel)⟩

theorem test_GroupHypotheses_witness :
    Roomy (pulled (group 0x38 0x104 0 sum7 [tokD 5]) 0) 0 [0] ∧ (cfgField (pulled (group 0x38 0x104 0 sum7 [tokD 5]) 0) 0 10).toNat = 1
    ∧ cellWidth (group 0x38 0x104 0 sum7 []).me 0 * laneNum (group 0x38 0x104 0 sum7 []).me 0 ≤ 64 ∧ isInt (group 0x38 0x104 0 sum7 []).me 0 = true
    ∧ sum7.isOpen = true ∧ sum7.used = true ∧ ElemSt.zero.used = false ∧ groupF (pulled (group 0x38 0x104 0 sum7 [tokStop 1]) 0) 0 = false
    ∧ cellWidth (group 0x31 0x120 0 sum7 []).me 0 = 8 ∧ laneNum (group 0x31 0x120 0 sum7 []).me 0 = 2
    ∧ (∀ j < 2, opnd (group 0x31 0x120 0 sum7 []).me 0 (tokD 0x01FF) [(0, some (tokD 0x01FF)), (1, some (tokD 0x0304))] j 0 ∈ [0, 1, 255])
    ∧ cellWidth (group 0x39 0x125 0 sum7 []).me 0 = 32 ∧ laneNum (group 0x39 0x125 0 sum7 []).me 0 = 2 := by
  unfold Roomy; decide +kernel
theorem helper_ok {ε α : Type} {x : Except ε α} {p : α → Bool} (h : (match x with | .ok a => p a | .error _ => false) = true) : ∃ a, x = .ok a ∧ p a = true := by
  cases x with
  | ok a => exact ⟨a, rfl, h⟩
  | error e => cases h

/-- Region 0 (4 KiB at window address 0) under a tag, in front of a context's configuration. -/
def regioned (tag : BitVec 16) (c : Ctx) : Ctx := { c with fab.cfg := (0x0D0 * 64 + 1, 16) :: (0x0D0 * 64 + 2, tag) :: c.fab.cfg }

/-- A state whose context in focus is one of the monitor, which reaches every address, as its own, on every way. -/
def asMonitor (s : State) : State :=
  { s with me.id := { s.me.id with part := 0x40 }, cores := [(2, { CoreRec.zero with setA := { st := .active, ctx := some ⟨2, 0x40, 7⟩ } })] }

/-- A memory node at cell 0 of a monitor context; a byte stands at 0x10007. -/
def node (op fmt k : BitVec 16) (toks : List Token) : State :=
  asMonitor { withTables 0x3D true with me := regioned 0 (cell op fmt k toks).me }

theorem test_EngineAccesses_witness :
    let s := node 0x40 0x107 0 []
    (8#64).toNat % 8 = 0 ∧ (8#64).toNat < 2 ^ 20 ∧ winCheck s.me 8 8 [0] = none ∧ winLost s 2 8 8 = false ∧ winLost { s with winBad := [winKey 2 8 / 8] } 2 8 8 = true ∧ (9#64).toNat % 8 ≠ 0 ∧ 2 ^ 20 ≤ (0x100000#64).toNat
    ∧ regionAt s.me 0x2000 = none ∧ regionAt s.me 8 = some ⟨0, 4096, 0, 0⟩ ∧ (0 : BitVec 3) ∉ [1#3, 2#3] ∧ 2 ^ 48 ≤ (0x1000000000000#64).toNat
    ∧ (∃ x, engXlat s 1 0x10000 8 needRead = .ok x ∧ decide (x.2 = 0x10000 ∧ badLine x.1 x.2 = false ∧ readState x.1 0x40 (x.2 / 128) = .go) = true)
    ∧ (∃ x, engXlat { s with bad := [0x200] } 1 0x10000 8 needRead = .ok x ∧ decide (badLine { s with bad := [0x200] } x.2 = true) = true)
    ∧ (∃ x, engXlat s 1 0x10000 8 needWrite = .ok x ∧ decide (x.2 = 0x10000 ∧ writable x.1 x.2 8 (memPut s.mem x.2 8 7) = true) = true) := by
  refine ⟨by decide, by decide, by decide +kernel, by decide +kernel, by decide +kernel, by decide, by decide, by decide +kernel, by decide +kernel,
    by decide, by decide, ?_, ?_, ?_⟩
  all_goals exact helper_ok (by decide +kernel)

theorem test_memory_nodes :
    after (exec (.cellMld 0) (node 0x40 0x107 0 [tokD 0x10000])) (fun t => nodeOps t.me 0) = some [⟨tokD 0x5A00000000000000, true, false, true, 0⟩]
    ∧ after (exec (.cellMst 0) (node 0x41 0x102 1 [tokD 0x10, tokD 0xABCD])) (fun t => (t.win, nodeOps t.me 0, unackOf t.me 0))
      = some ([(winKey 2 0x10, 0xCD), (winKey 2 0x11, 0xAB)], [⟨tokD 0, true, true, false, 0⟩], 1)
    ∧ after (exec (.cellMatom 0) (node 0x42 0x107 0 [tokD 0x10000, tokD 1])) (fun t => (memNat t.mem 0x10000 8, nodeOps t.me 0))
      = some (0x5A00000000000001, [⟨tokD 0x5A00000000000000, true, false, true, 0⟩])
    ∧ east (.memoryNodeResult 0) { node 0x40 0x107 0 [] with me.fab.nodes := [(0, [⟨tokD 9, true, false, true, 0⟩])] } = some [tokD 9] := by decide +kernel

/-- Stores and results that stand in a node. -/
def standingOps (done : Bool) : State :=
  { node 0x41 0x102 1 [] with me.fab.nodes := [(0, [⟨tokD 0, true, true, done, 0⟩])], me.fab.unacked := [(0, 1)] }

theorem test_MemoryNodeResults_witness :
    (Stands (node 0x40 0x107 0 [tokD 0x10000]) 0 0x40 ∧ Pairs (pulled (node 0x40 0x107 0 [tokD 0x10000]) 0) 0 (cellNeeds 0x40) [(0, some (tokD 0x10000))] (tokD 0x10000))
    ∧ (Stands (node 0x40 0x107 0 [tokStop 1]) 0 0x40 ∧ Pairs (pulled (node 0x40 0x107 0 [tokStop 1]) 0) 0 (cellNeeds 0x40) [(0, some (tokStop 1))] (tokStop 1))
    ∧ (Stands (node 0x41 0x102 1 [tokD 0x10, tokD 5]) 0 0x41
        ∧ Pairs (pulled (node 0x41 0x102 1 [tokD 0x10, tokD 5]) 0) 0 (cellNeeds 0x41) [(0, some (tokD 0x10)), (1, some (tokD 5))] (tokD 0x10))
    ∧ (Stands (node 0x42 0x107 0 [tokD 0x10000, tokD 5]) 0 0x42
        ∧ Pairs (pulled (node 0x42 0x107 0 [tokD 0x10000, tokD 5]) 0) 0 (cellNeeds 0x42) [(0, some (tokD 0x10000)), (1, some (tokD 5))] (tokD 0x10000))
    ∧ (Stands (node 0x42 0x107 1 [tokD 8, tokD 5]) 0 0x42
        ∧ Pairs (pulled (node 0x42 0x107 1 [tokD 8, tokD 5]) 0) 0 (cellNeeds 0x42) [(0, some (tokD 8)), (1, some (tokD 5))] (tokD 8)) :=
  ⟨helper_fires (by decide +kernel), helper_fires (by decide +kernel), helper_fires (by decide +kernel), helper_fires (by decide +kernel),
    helper_fires (by decide +kernel)⟩

theorem test_NodeAccesses_witness :
    (let p := acting (node 0x40 0x107 0 [tokD 0x10000]) 0
     ∃ x, spaceRead p (graphPriv p 0) (nodeWindow p.me 0) [0] 0x10000 (nodeSize p.me 0) = .ok x
       ∧ decide (x.1 = { p with me.perf := x.1.me.perf, me.tlb := x.1.me.tlb, l2 := x.1.l2, others := x.1.others } ∧ x.2.2 = 0x5A00000000000000) = true)
    ∧ (let p := acting (node 0x41 0x102 1 [tokD 0x10, tokD 5]) 0
       ∃ x, spaceWrite p (graphPriv p 0) (nodeWindow p.me 0) [0] 0x10 (nodeSize p.me 0) 5 = .ok x
         ∧ decide (x.me.fab = p.me.fab ∧ x.me.regs = p.me.regs ∧ x.parts = p.parts ∧ x.others = p.others) = true)
    ∧ (let p := acting (node 0x42 0x107 0 [tokD 0x10000, tokD 5]) 0
       nodeWindow p.me 0 = false ∧ badLine p 0x10000 = false ∧ ∃ x, engXlat p (graphPriv p 0) 0x10000 8 needBoth = .ok x
         ∧ decide (x.2 = 0x10000 ∧ writable x.1 x.2 8 (memPut p.mem x.2 8 5) = true) = true)
    ∧ (let c := pulled (node 0x42 0x107 1 [tokD 8, tokD 5]) 0
       nodeWindow c 0 = true ∧ (8#64).toNat % 8 = 0 ∧ winCheck c 8 8 [0] = none ∧ winLost (acting (node 0x42 0x107 1 [tokD 8, tokD 5]) 0) 2 8 8 = false ∧ (cellConst c 0).getLsbD 8 = false ∧ (nodeOps c 0).length < 16 ∧ unackOf c 0 < 65535)
    ∧ moves (standingOps true) 0 = true ∧ pending (standingOps true).me 0 = false ∧ nodeOps (standingOps true).me 0 = ⟨tokD 0, true, true, true, 0⟩ :: []
    ∧ nodeOps (standingOps false).me 0 = ⟨tokD 0, true, true, false, 0⟩ :: [] ∧ unackOf (standingOps false).me 0 ≠ 0 := by
  refine ⟨helper_ok (by decide +kernel), helper_ok (by decide +kernel), ⟨by decide +kernel, by decide +kernel, helper_ok (by decide +kernel)⟩, ?_⟩
  decide +kernel

theorem test_NodeRoom_witness : Roomy (standingOps true).me 0 [0] := by unfold Roomy; decide +kernel

/-- A 3 × 3 window unit at cell 0 in row 1 of a plane of two positions a row, with its first position at hand; cell 1 reads the middle tap. -/
def windowUnit (w : Win) (toks : List Token) : State :=
  let s := cell 0x49 0x107 0 toks
  { s with me := regioned 1 { s.me with
      fab.cfg := (6, 0x0033) :: (64, 1) :: (64 + 1, 0x107) :: (64 + 2, 0x4000 + 40) :: s.me.fab.cfg.filter (fun p => p.1 ≠ 6 ∧ p.1 ≠ 5), fab.wins := [(0, w)] },
           win := [(winKey 2 0, 0x11), (winKey 2 8, 0x22)] }

def row1 (cols : List (List Word)) (out : List (Option (Nat × Nat) × Token)) : Win :=
  ⟨cols, 0, 1, true, false, some 2, [], out, none, none, none⟩

theorem test_window_unit :
    after (exec (.cellLqw 0) (windowUnit (row1 [] []) [tokD 0x33])) (fun t => ((winOf t.me 0).cols, winNat t 2 0 8, winNat t 2 16 8))
      = some ([[0x33, 0x11, 0]], 0x33, 0x11)
    ∧ after (exec (.cellLqw 0) (windowUnit (row1 [[0x33, 0x11, 0]] []) [tokD 0x44])) (fun t => (winOf t.me 0).out) = some [(some (0, 0), tokZ)]
    ∧ after (exec (.cellLqw 0) (windowUnit (row1 [[0x33, 0x11, 0], [0x44, 0x22, 0]] [(some (0, 0), tokZ)]) [])) (fun t => queueOf t.me (inKey 1 0))
      = some [tokD 0x11] := by decide +kernel

/-- A WTAP cell that sums taps 40 and 41. -/
def wtap : State :=
  { cell 0x48 0x104 0 [] with
    me.fab.cfg := [(0, 0x48), (1, 0x104), (5, 2), (6, 0xA801), (7, 0x14)], me.fab.queues := [(inKey 0 3, [tokD 5]), (inKey 0 4, [tokD 0xFFFFFFFF])],
    me.fab.checks := [(inKey 0 3, { Check.zero with phase := 1 }), (inKey 0 4, { Check.zero with phase := 1 })] }

theorem test_wtap : east (.cellWtap 0) wtap = some [tokD 4] := by decide +kernel

theorem test_WindowUnitsAndTaps_witness :
    (Stands (windowUnit (row1 [] []) [tokD 0x33]) 0 0x49 ∧ headsOf (pulled (windowUnit (row1 [] []) [tokD 0x33]) 0) 0 [0] = .ok [(0, some (tokD 0x33))])
    ∧ (let c := pulled (windowUnit (row1 [] []) [tokD 0x33]) 0
       (winOf c 0).out = [] ∧ (winOf c 0).ended = false ∧ (winOf c 0).rowOpen = true ∧ (shapeOf c 0).rows = 3 ∧ (region c (shapeOf c 0).region).tag = 1#3
       ∧ lineLost (acting (windowUnit (row1 [] []) [tokD 0x33]) 0) (region c (shapeOf c 0).region) (shapeOf c 0) (winOf c 0) 0 = none)
    ∧ (Stands (windowUnit (row1 [] [(some (0, 0), tokZ)]) []) 0 0x49 ∧ (winOf (windowUnit (row1 [] [(some (0, 0), tokZ)]) []).me 0).out = (some (0, 0), tokZ) :: [])
    ∧ (∀ p ∈ tapsOf (shapeOf (windowUnit (row1 [] []) []).me 0), ∀ d ∈ tapReaders (windowUnit (row1 [] []) []).me 0 p.1, (queueOf (windowUnit (row1 [] []) []).me d.1).length < d.2)
    ∧ Stands wtap 0 0x48 ∧ tapList (cellConst (pulled wtap 0) 0) = [40, 41]
    ∧ ((queueOf (pulled wtap 0) (inKey 0 3)).head? = some (tokD 5) ∧ (queueOf (pulled wtap 0) (inKey 0 4)).head? = some (tokD 0xFFFFFFFF))
    ∧ isInt (pulled wtap 0) 0 = true ∧ faultMode (pulled wtap 0) 0 ≠ 1 ∧ cellWidth (pulled wtap 0) 0 * laneNum (pulled wtap 0) 0 ≤ 64 ∧ Roomy (pulled wtap 0) 0 [0] := by
  refine ⟨⟨?_, helper_heads (by decide +kernel)⟩, by decide +kernel, ⟨?_, by decide +kernel⟩, by decide +kernel, ?_, by decide +kernel, by decide +kernel, ?_⟩
  · unfold Stands; decide +kernel
  · unfold Stands; decide +kernel
  · unfold Stands; decide +kernel
  · unfold Roomy; decide +kernel
/-- Router 0 with an operation, input queues, own state and control tokens; output 0 goes east, output 1 south. -/
def router (op : BitVec 16) (a b : List Token) (x : ElemSt) (ctl : List Bool) : State :=
  let s := fabric 0x80 [(0, op), (2, 0x2000), (3, 0x2001), (5, 2), (6, 4), (13, 0x8003)] ((if a = [] then [] else [(0, a)]) ++ (if b = [] then [] else [(1, b)]))
  { s with me.fab.elems := [(0x80, x)], me.fab.ctlq := [(ctlBuffer 0x80, ctl)] }

/-- The tokens behind the two outputs of router 0. -/
def routed (i : Instr) (s : State) : Option (List (List Token)) :=
  after (exec i s) (fun t => [queueOf t.me (inKey 0x81 71), queueOf t.me (inKey 0x88 68)])

def inPhase (n : Nat) : ElemSt := { ElemSt.zero with phase := n }

theorem test_routers :
    routed (.route 0) (router 1 [tokD 5] [] ElemSt.zero []) = some [[tokD 5], []]
    ∧ routed (.steer 0) (router 2 [tokD 5] [] ElemSt.zero [true, false]) = some [[tokD 5], []]
    ∧ routed (.steer 0) (router 2 [tokD 5] [] ElemSt.zero [false]) = some [[], [tokD 5]]
    ∧ routed (.merge 0) (router 3 [tokD 5] [tokD 6] (inPhase 1) [true]) = some [[tokD 5], []]
    ∧ routed (.merge 0) (router 3 [tokD 5] [tokD 6] (inPhase 1) [false]) = some [[tokD 6], []]
    ∧ routed (.carry 0) (router 4 [tokD 5] [] (inPhase 1) []) = some [[tokD 5], []]
    ∧ routed (.carry 0) (router 4 [] [tokD 6] { inPhase 1 with looping := true } []) = some [[tokD 6], []] := by decide +kernel

/-- A steered Z closes output 0 with S1 first; a stop with control 1 is malformed (12 R285). -/
theorem test_steer_ends :
    after (exec (.steer 0) { router 2 [tokZ] [] ElemSt.zero [] with me.fab.checks := [(inKey 0x80 0, { Check.zero with phase := 1, last := 2, stop := 1, highest := 1 })] })
        (fun t => (queueOf t.me (inKey 0x81 71), queueOf t.me (inKey 0x88 68), queueOf t.me (pendKey 0x80 0))) = some ([tokStop 1], [tokZ], [tokZ])
    ∧ after (exec (.steer 0) (router 2 [tokStop 1] [] ElemSt.zero [true])) (fun t => t.me.faults.map (fun f => f.kcause)) = some [0x10B] := by decide +kernel

/-- A router whose input checkers stand at the end of their streams, for Z. -/
def ending (op : BitVec 16) (a b : List Token) (x : ElemSt) : State :=
  let k : Check := { Check.zero with phase := 1, last := 2, stop := 1, highest := 1 }
  { router op a b x [] with me.fab.checks := [(inKey 0x80 0, k), (inKey 0x80 1, k)] }

/-- A router whose input checkers stand before G. -/
def beginning (op : BitVec 16) (a b : List Token) : State := { router op a b ElemSt.zero [] with me.fab.checks := [] }

/-- An element stands and input j shows a token. -/
def shows (s : State) (op j : Nat) (t : Token) : Bool :=
  moves s 0x80 && decide (opOf s.me 0x80 = op) && !pending s.me 0x80 && headsAre (pulled s 0x80) 0x80 [j] [(j, some t)]

theorem helper_shows {s : State} {op j : Nat} {t : Token} (h : shows s op j t = true) : Stands s 0x80 op ∧ Head (pulled s 0x80) 0x80 j t := by
  simp only [shows, Bool.and_eq_true, decide_eq_true_eq, Bool.not_eq_true'] at h
  exact ⟨⟨h.1.1.1, h.1.1.2, h.1.2⟩, helper_heads h.2⟩

theorem test_RouterResults_witness :
    (Stands (router 1 [tokD 5] [] ElemSt.zero []) 0x80 1 ∧ Head (pulled (router 1 [tokD 5] [] ElemSt.zero []) 0x80) 0x80 0 (tokD 5))
    ∧ (Stands (beginning 2 [tokG] []) 0x80 2 ∧ Head (pulled (beginning 2 [tokG] []) 0x80) 0x80 0 tokG)
    ∧ (Stands (ending 2 [tokZ] [] ElemSt.zero) 0x80 2 ∧ Head (pulled (ending 2 [tokZ] [] ElemSt.zero) 0x80) 0x80 0 tokZ)
    ∧ (Stands (router 2 [tokD 5] [] ElemSt.zero [true]) 0x80 2 ∧ Head (pulled (router 2 [tokD 5] [] ElemSt.zero [true]) 0x80) 0x80 0 (tokD 5))
    ∧ (Stands (router 2 [tokStop 1] [] ElemSt.zero [false]) 0x80 2 ∧ Head (pulled (router 2 [tokStop 1] [] ElemSt.zero [false]) 0x80) 0x80 0 (tokStop 1))
    ∧ (Stands (router 2 [⟨3, 9⟩] [] ElemSt.zero []) 0x80 2 ∧ Head (pulled (router 2 [⟨3, 9⟩] [] ElemSt.zero []) 0x80) 0x80 0 ⟨3, 9⟩)
    ∧ (Stands (router 3 [tokD 5] [tokD 6] (inPhase 1) [true]) 0x80 3 ∧ Head (pulled (router 3 [tokD 5] [tokD 6] (inPhase 1) [true]) 0x80) 0x80 0 (tokD 5))
    ∧ (Stands (router 3 [] [tokStop 1] (inPhase 1) [false]) 0x80 3 ∧ Head (pulled (router 3 [] [tokStop 1] (inPhase 1) [false]) 0x80) 0x80 1 (tokStop 1))
    ∧ (Stands (router 3 [] [⟨3, 9⟩] (inPhase 1) []) 0x80 3 ∧ Head (pulled (router 3 [] [⟨3, 9⟩] (inPhase 1) []) 0x80) 0x80 1 ⟨3, 9⟩) := by
  refine ⟨?_, ?_, ?_, ?_, ?_, ?_, ?_, ?_, ?_⟩ <;> exact helper_shows (by decide +kernel)

theorem test_MergeAndCarry_witness :
    Pairs (pulled (beginning 3 [tokG] [tokG]) 0x80) 0x80 [0, 1] [(0, some tokG), (1, some tokG)] tokG
    ∧ (Head (pulled (ending 3 [tokStop 1] [tokZ] (inPhase 1)) 0x80) 0x80 1 tokZ)
    ∧ (Head (pulled { ending 3 [tokStop 1] [tokZ] (inPhase 1) with me.fab.checks := (inKey 0x80 0, { Check.zero with phase := 1, last := 1 }) :: (ending 3 [tokStop 1] [tokZ] (inPhase 1)).me.fab.checks } 0x80)
        0x80 0 (tokStop 1))
    ∧ (Head (pulled (ending 3 [tokZ] [tokZ] (inPhase 2)) 0x80) 0x80 0 tokZ ∧ Head (pulled (ending 3 [tokZ] [tokZ] (inPhase 2)) 0x80) 0x80 1 tokZ)
    ∧ (Stands (beginning 4 [] [tokG]) 0x80 4 ∧ Head (pulled (beginning 4 [] [tokG]) 0x80) 0x80 1 tokG)
    ∧ (Stands (beginning 4 [tokG] []) 0x80 4 ∧ Head (pulled (beginning 4 [tokG] []) 0x80) 0x80 0 tokG)
    ∧ (Stands (router 4 [tokD 5] [] (inPhase 1) []) 0x80 4 ∧ Head (pulled (router 4 [tokD 5] [] (inPhase 1) []) 0x80) 0x80 0 (tokD 5))
    ∧ (Stands (router 4 [tokStop 1] [] (inPhase 1) []) 0x80 4 ∧ Head (pulled (router 4 [tokStop 1] [] (inPhase 1) []) 0x80) 0x80 0 (tokStop 1))
    ∧ (Stands (ending 4 [tokZ] [] (inPhase 1)) 0x80 4 ∧ Head (pulled (ending 4 [tokZ] [] (inPhase 1)) 0x80) 0x80 0 tokZ)
    ∧ (Stands (router 4 [] [tokD 6] { inPhase 1 with looping := true } []) 0x80 4
        ∧ Head (pulled (router 4 [] [tokD 6] { inPhase 1 with looping := true } []) 0x80) 0x80 1 (tokD 6))
    ∧ (Stands (router 4 [] [tokStop 1] (inPhase 4) []) 0x80 4 ∧ Head (pulled (router 4 [] [tokStop 1] (inPhase 4) []) 0x80) 0x80 1 (tokStop 1))
    ∧ (Stands (ending 4 [] [tokZ] (inPhase 5)) 0x80 4 ∧ Head (pulled (ending 4 [] [tokZ] (inPhase 5)) 0x80) 0x80 1 tokZ) := by
  refine ⟨(helper_fires (op := 3) (by decide +kernel)).2, helper_heads (by decide +kernel), helper_heads (by decide +kernel),
    ⟨helper_heads (by decide +kernel), helper_heads (by decide +kernel)⟩, ?_, ?_, ?_, ?_, ?_, ?_, ?_, ?_⟩ <;> exact helper_shows (by decide +kernel)

theorem test_RouterHypotheses_witness :
    Roomy (pulled (router 2 [tokD 5] [] ElemSt.zero [true]) 0x80) 0x80 [0, 1] ∧ outDests (router 2 [tokD 5] [] ElemSt.zero [true]).me 0x80 1 ≠ []
    ∧ (elemOf (router 4 [] [] (inPhase 2) [true]).me 0x80).phase = 2 ∧ (elemOf (router 4 [] [] (inPhase 3) [true]).me 0x80).phase = 3
    ∧ ctlOf (pulled (router 4 [] [] (inPhase 3) [true]) 0x80) (ctlBuffer 0x80) = true :: [] ∧ (∀ g, ¬ Head (pulled (router 4 [] [] (inPhase 3) [true]) 0x80) 0x80 1 g) := by
  refine ⟨by unfold Roomy; decide +kernel, by decide +kernel, by decide +kernel, by decide +kernel, by decide +kernel, fun g hg => ?_⟩
  have h : (match headsOf (pulled (router 4 [] [] (inPhase 3) [true]) 0x80) 0x80 [1] with | .ok _ => true | .error _ => false) = false := by decide +kernel
  rw [show headsOf _ _ _ = _ from hg] at h
  cases h

/-- The merge may read the absence of a token at input 1, or its kind. -/
theorem test_MergeLooksAtInput1_witness :
    Head (pulled (router 3 [tokD 5] [tokD 6] (inPhase 1) [true]) 0x80) 0x80 1 (tokD 6) ∧ (tokD 6).kind ≠ 3#4 ∧ (tokD 6).kind ≠ 15#4 :=
  ⟨helper_heads (by decide +kernel), by decide, by decide⟩
/-- Fibre element 0 over three entries of segments 0, 2, 2 in region 0 and coordinates 3, 7 in region 1 (tag 3); field 10 is the level. -/
def fibre (op : BitVec 16) (a b : List Token) (x : ElemSt) (k : Check) : State :=
  let s := fabric 0x40 [(0, op), (1, 0x104), (2, if a = [] then 0 else 0x1001), (3, if b = [] then 0 else 0x1001), (5, 8), (10, 1), (11, 0), (12, 1), (16, 2)]
    ((if a = [] then [] else [(0, a)]) ++ (if b = [] then [] else [(1, b)]))
  { s with
    me := regioned 3 { s.me with fab.cfg := (0x0D0 * 64 + 8, 16) :: (0x0D0 * 64 + 9, 16) :: (0x0D0 * 64 + 10, 3) :: s.me.fab.cfg, fab.elems := [(0x40, x)],
                                 fab.checks := [(inKey 0x40 0, k), (inKey 0x40 1, k)] }
    win := [(winKey 2 4, 2), (winKey 2 8, 2), (winKey 2 0x1000, 3), (winKey 2 0x1004, 7)] }

/-- Checkers behind G, before it, and behind a stop of level 1. -/
def afterG : Check := { Check.zero with phase := 1 }
def afterS1 : Check := { Check.zero with phase := 1, last := 2, stop := 1, highest := 1 }

/-- The tokens behind the west output of fibre element 0, and those still to send. -/
def west (i : Instr) (s : State) : Option (List (List Token)) :=
  after (exec i s) (fun t => [queueOf t.me (inKey 0x86 69), queueOf t.me (pendKey 0x40 0)])

def inWalk (n last : Nat) : ElemSt := { ElemSt.zero with phase := 1, index := n, acc := BitVec.ofNat 64 last, last := 1 }

theorem test_fibre_walks :
    west (.scan 0) (fibre 1 [tokF 9 0] [] ElemSt.zero afterG) = some [[tokF 3 0], []]
    ∧ west (.scan 0) (fibre 1 [tokF 9 0] [] (inWalk 1 2) afterG) = some [[tokF 7 1], []]
    ∧ west (.scan 0) (fibre 1 [tokF 9 0] [] (inWalk 2 2) afterG) = some [[tokStop 1], []]
    ∧ west (.scan 0) (fibre 1 [tokStop 1] [] ElemSt.zero afterG) = some [[tokStop 2], []]
    ∧ west (.scan 0) (fibre 1 [] [] { ElemSt.zero with looping := true } afterG) = some [[tokF 3 0], []]
    ∧ west (.repeatF 0) (fibre 4 [tokF 1 0x55] [tokF 8 2] ElemSt.zero afterG) = some [[tokF 8 0x55], []]
    ∧ west (.lookup 0) (fibre 5 [tokF 9 1] [] ElemSt.zero afterG) = some [[tokF 9 2], []]
    ∧ after (exec (.scan 0) (fibre 1 [tokF 9 2] [] ElemSt.zero afterG)) (fun t => t.me.faults.map (fun f => (f.kcause, f.value))) = some [(0x10C, 2)] := by
  decide +kernel

/-- A fibre element stands and input j shows a token. -/
def walks (s : State) (op j : Nat) (t : Token) : Bool :=
  moves s 0x40 && decide (opOf s.me 0x40 = op) && !pending s.me 0x40 && headsAre (pulled s 0x40) 0x40 [j] [(j, some t)]

theorem helper_walks {s : State} {op j : Nat} {t : Token} (h : walks s op j t = true) : Stands s 0x40 op ∧ Head (pulled s 0x40) 0x40 j t := by
  simp only [walks, Bool.and_eq_true, decide_eq_true_eq, Bool.not_eq_true'] at h
  exact ⟨⟨h.1.1.1, h.1.1.2, h.1.2⟩, helper_heads h.2⟩

/-- The heads at which SCAN, REPEAT and LOOKUP act: data of each kind, null elements, stops of the first and the last level, G and Z. -/
theorem test_FibreWalks_witness :
    (∀ p ∈ [(tokF 9 0, afterG), (tokF 9 2, afterG), (tokF 9 0xFFFFFFFF, afterG), (tokNull, afterG), (tokStop 1, afterG), (tokStop 6, afterG), (tokStop 7, afterG), (tokG, Check.zero),
        (tokZ, afterS1)], ∀ op ∈ [1, 5], ∀ s, s = fibre (BitVec.ofNat 16 op) [p.1] [] ElemSt.zero p.2 →
      Stands s 0x40 op ∧ Head (pulled s 0x40) 0x40 0 p.1)
    ∧ (∀ p ∈ [(tokF 1 0x55, tokF 8 2, afterG), (tokStop 1, tokF 8 2, afterG), (tokF 1 0x55, tokNull, afterG), (tokF 1 0x55, tokStop 1, afterG), (tokF 1 0x55, tokStop 3, afterG),
        (tokStop 2, tokStop 3, afterG), (tokG, tokG, Check.zero), (tokZ, tokZ, afterS1)], ∀ s, s = fibre 4 [p.1] [p.2.1] ElemSt.zero p.2.2 →
      (Stands s 0x40 4 ∧ Head (pulled s 0x40) 0x40 0 p.1) ∧ (Stands s 0x40 4 ∧ Head (pulled s 0x40) 0x40 1 p.2.1)) := by
  have h1 : ([(tokF 9 0, afterG), (tokF 9 2, afterG), (tokF 9 0xFFFFFFFF, afterG), (tokNull, afterG), (tokStop 1, afterG), (tokStop 6, afterG), (tokStop 7, afterG), (tokG, Check.zero),
      (tokZ, afterS1)].all (fun p => [1, 5].all (fun op => walks (fibre (BitVec.ofNat 16 op) [p.1] [] ElemSt.zero p.2) op 0 p.1))) = true := by decide +kernel
  have h2 : ([(tokF 1 0x55, tokF 8 2, afterG), (tokStop 1, tokF 8 2, afterG), (tokF 1 0x55, tokNull, afterG), (tokF 1 0x55, tokStop 1, afterG), (tokF 1 0x55, tokStop 3, afterG),
      (tokStop 2, tokStop 3, afterG), (tokG, tokG, Check.zero), (tokZ, tokZ, afterS1)].all (fun p =>
        walks (fibre 4 [p.1] [p.2.1] ElemSt.zero p.2.2) 4 0 p.1 && walks (fibre 4 [p.1] [p.2.1] ElemSt.zero p.2.2) 4 1 p.2.1)) = true := by decide +kernel
  refine ⟨fun p hp op ho s hs => ?_, fun p hp s hs => ?_⟩ <;> subst hs
  · exact helper_walks (List.all_eq_true.mp (List.all_eq_true.mp h1 p hp) op ho)
  · have := List.all_eq_true.mp h2 p hp
    simp only [Bool.and_eq_true] at this
    exact ⟨helper_walks this.1, helper_walks this.2⟩

/-- The entries that a walk reads: the first segment starts below its end, the second is empty; a walk under way; the end of an array is in its region. -/
theorem test_FibreEntries_witness :
    let p := acting (fibre 1 [tokF 9 0] [] ElemSt.zero afterG) 0x40
    Roomy p.me 0x40 [0] ∧ outDests p.me 0x40 0 ≠ [] ∧ sourceOf p.me 0x40 0 ≠ 0 ∧ (∃ x, entry32 p 0 0 = .ok x ∧ decide (x = 0) = true) ∧ (∃ x, entry32 p 0 1 = .ok x ∧ decide (x = 2) = true)
    ∧ (∃ x, entry32 p 0 2 = .ok x ∧ decide (x = 2) = true) ∧ (∃ x, entry32 p 1 0 = .ok x ∧ decide (x = 3) = true) ∧ (∃ x, entry32 p 1 1 = .ok x ∧ decide (x = 7) = true)
    ∧ 2 ≤ (region p.me 1).size / 4 ∧ ((param p.me 0x40).extractLsb' 0 32).toNat = 2
    ∧ (∃ x, arrayAt p.me 0 (1 * (cellWidth p.me 0x40 / 8)) (cellWidth p.me 0x40 / 8) [0, 3] = .ok x ∧ decide (x = 4) = true) := by
  refine ⟨by unfold Roomy; decide +kernel, by decide +kernel, by decide +kernel, ?_, ?_, ?_, ?_, ?_, by decide +kernel, by decide +kernel, ?_⟩ <;> exact helper_ok (by decide +kernel)

/-- SCAN as a source: its G, an element, the stop and Z. -/
theorem test_ScanSource_witness :
    (∀ x ∈ [({ ElemSt.zero with started := true }, tokG), ({ ElemSt.zero with looping := true }, tokF 0 0), ({ ElemSt.zero with looping := true, ordinal := 2 }, tokStop 1),
        ({ ElemSt.zero with looping := true, used := true }, tokZ)], ∃ y, ScanReads (fibre 1 [] [] x.1 afterG) 0x40 x.2 y)
    ∧ Stands (fibre 1 [] [] ElemSt.zero afterG) 0x40 1 := by
  refine ⟨?_, by unfold Stands; decide +kernel⟩
  intro x hx
  simp only [List.mem_cons, List.not_mem_nil, or_false] at hx
  rcases hx with rfl | rfl | rfl | rfl
  · exact ⟨_, .inr ⟨by decide +kernel, .inl ⟨by decide +kernel, by decide +kernel, rfl, rfl⟩⟩⟩
  · refine ⟨_, .inr ⟨by decide +kernel, .inr (.inr (.inr ⟨by decide +kernel, by decide +kernel, ?_, by decide +kernel, rfl⟩))⟩⟩
    unfold draining; decide +kernel
  · refine ⟨_, .inr ⟨by decide +kernel, .inr (.inr (.inl ⟨by decide +kernel, by decide +kernel, ?_, rfl, rfl⟩))⟩⟩
    exact .inr (by decide +kernel)
  · exact ⟨_, .inr ⟨by decide +kernel, .inr (.inl ⟨by decide +kernel, by decide +kernel, rfl, rfl⟩)⟩⟩

theorem test_fibre_joins :
    after (exec (.isect 0) (fibre 2 [tokF 4 1] [tokF 4 2] ElemSt.zero afterG)) (fun t => queueOf t.me (inKey 0x86 69)) = some [tokF 4 1]
    ∧ after (exec (.isect 0) (fibre 2 [tokF 3 1] [tokF 4 2] ElemSt.zero afterG)) (fun t => [queueOf t.me (inKey 0x86 69), queueOf t.me (inKey 0x40 0), queueOf t.me (inKey 0x40 1)])
      = some [[], [], [tokF 4 2]]
    ∧ after (exec (.union 0) (fibre 3 [tokF 3 1] [tokF 4 2] ElemSt.zero afterG)) (fun t => [queueOf t.me (inKey 0x86 69), queueOf t.me (inKey 0x40 0), queueOf t.me (inKey 0x40 1)])
      = some [[tokF 3 1], [], [tokF 4 2]]
    ∧ after (exec (.fred 0) (fibre 6 [tokF 3 5] [] { ElemSt.zero with used := true, isOpen := true, acc := 7 } afterG)) (fun t => (elemOf t.me 0x40).acc) = some 7
    ∧ west (.fred 0) (fibre 6 [tokStop 1] [] { ElemSt.zero with used := true, isOpen := true, acc := 7, ordinal := 6 } afterG) = some [[tokF 6 7], []]
    ∧ after (exec (.fwrite 0) (fibre 7 [tokF 9 0x44] [] ElemSt.zero afterG)) (fun t => (winNat t 2 0x1000 2, winNat t 2 0x1002 4, unackOf t.me (0x40 * 4)))
      = some (9, 0x44, 2) := by decide +kernel

theorem test_FibreJoinsAndSinks_witness :
    (∀ p ∈ [(tokF 4 1, tokF 4 2, afterG), (tokNull, tokNull, afterG), (tokF 3 1, tokF 4 2, afterG), (tokF 5 1, tokF 4 2, afterG), (tokF 4 1, tokStop 1, afterG), (tokStop 1, tokF 4 2, afterG),
        (tokStop 1, tokStop 1, afterG), (tokG, tokG, Check.zero), (tokZ, tokZ, afterS1), (tokStop 1, tokStop 2, afterG)], ∀ op ∈ [2, 3], ∀ s, s = fibre (BitVec.ofNat 16 op) [p.1] [p.2.1] ElemSt.zero p.2.2 →
      (Stands s 0x40 op ∧ Head (pulled s 0x40) 0x40 0 p.1) ∧ (Stands s 0x40 op ∧ Head (pulled s 0x40) 0x40 1 p.2.1))
    ∧ (∀ p ∈ [(tokG, Check.zero), (tokZ, afterS1), (tokStop 1, afterG), (tokStop 3, afterG), (tokNull, afterG), (tokF 9 5, afterG)], ∀ op ∈ [6, 7], ∀ s,
        s = fibre (BitVec.ofNat 16 op) [p.1] [] ElemSt.zero p.2 → Stands s 0x40 op ∧ Head (pulled s 0x40) 0x40 0 p.1) := by
  have h1 : ([(tokF 4 1, tokF 4 2, afterG), (tokNull, tokNull, afterG), (tokF 3 1, tokF 4 2, afterG), (tokF 5 1, tokF 4 2, afterG), (tokF 4 1, tokStop 1, afterG), (tokStop 1, tokF 4 2, afterG),
      (tokStop 1, tokStop 1, afterG), (tokG, tokG, Check.zero), (tokZ, tokZ, afterS1), (tokStop 1, tokStop 2, afterG)].all (fun p => [2, 3].all (fun op =>
        walks (fibre (BitVec.ofNat 16 op) [p.1] [p.2.1] ElemSt.zero p.2.2) op 0 p.1 && walks (fibre (BitVec.ofNat 16 op) [p.1] [p.2.1] ElemSt.zero p.2.2) op 1 p.2.1))) = true := by
    decide +kernel
  have h2 : ([(tokG, Check.zero), (tokZ, afterS1), (tokStop 1, afterG), (tokStop 3, afterG), (tokNull, afterG), (tokF 9 5, afterG)].all (fun p => [6, 7].all (fun op =>
      walks (fibre (BitVec.ofNat 16 op) [p.1] [] ElemSt.zero p.2) op 0 p.1))) = true := by decide +kernel
  refine ⟨fun p hp op ho s hs => ?_, fun p hp op ho s hs => ?_⟩ <;> subst hs
  · have := List.all_eq_true.mp (List.all_eq_true.mp h1 p hp) op ho
    simp only [Bool.and_eq_true] at this
    exact ⟨helper_walks this.1, helper_walks this.2⟩
  · exact helper_walks (List.all_eq_true.mp (List.all_eq_true.mp h2 p hp) op ho)

/-- FRED with a stream of coordinates at B, and the places FWRITE writes to. -/
theorem test_FredAndFwrite_witness :
    (Stands (fibre 6 [tokStop 1] [tokF 9 0] { ElemSt.zero with isOpen := true } afterG) 0x40 6
      ∧ MayTake (pulled (fibre 6 [tokStop 1] [tokF 9 0] { ElemSt.zero with isOpen := true } afterG) 0x40) 0x40 (tokF 9 0) (fun u => u.kind = 1#4 ∧ u.isNull = false))
    ∧ sourceOf (fibre 6 [tokStop 1] [] ElemSt.zero afterG).me 0x40 1 = 0 ∧ isInt (fibre 6 [tokStop 1] [] ElemSt.zero afterG).me 0x40 = true
    ∧ (let c := (fibre 7 [tokF 9 5] [] ElemSt.zero afterG).me
       unackOf c (0x40 * 4) < 0xFFF0 ∧ (∃ x, arrayAt c 0 0 4 [3] = .ok x ∧ decide (x = 0) = true) ∧ (∃ x, arrayAt c 0 4 4 [3] = .ok x ∧ decide (x = 4) = true)
       ∧ (∃ x, arrayAt c 1 0 4 [3] = .ok x ∧ decide (x = 0x1000) = true) ∧ (∃ x, arrayAt c 1 2 4 [3] = .ok x ∧ decide (x = 0x1002) = true)) := by
  refine ⟨⟨(helper_walks (j := 0) (t := tokStop 1) (by decide +kernel)).1, .inr ⟨by decide +kernel, helper_heads (by decide +kernel), by decide, by decide, by decide, by decide⟩⟩,
    by decide +kernel, by decide +kernel, by decide +kernel, ?_, ?_, ?_, ?_⟩ <;> exact helper_ok (by decide +kernel)
/-- Port 0 of the context sends what router 0 puts out to port 2 of context 8 (core list index 1), or to channel 2. -/
def sender (flags kctx : Nat) (t : Token) (dest : SetSt) : State :=
  let s := fabric 0x80 [(0, 1), (2, 0x2000), (5, 0x20)] [(0, [t])]
  { s with
    ktime := 1, links := progLinked.links, vcs := progLinked.vcs
    me := { s.me with fab.ports := [(1, 1), (2, BitVec.ofNat 16 kctx), (3, BitVec.ofNat 16 (0xC2 + flags)), (4, 0x80)],
                      fab.checks := [(inKey 0x80 0, { Check.zero with phase := 1 }), (inKey 0x80 64, { Check.zero with phase := 1 })] }
    cores := [(2, { CoreRec.zero with setA := { st := .active, ctx := some ⟨2, 1, 7⟩ } }), (3, { CoreRec.zero with setB := { st := dest, ctx := some ⟨3, 1, 8⟩ }, slots := [(0, 0x10010)], descs := [(0, { w0 := 0x410008 })] })] }

/-- The same where context 8 has a receive port 2. -/
def receiver (flags : Nat) (t : Token) : State :=
  let s := sender flags 8 t .active
  { s with others := s.others.map (fun c => { c with fab.ports := [(2 * 8 + 3, 0x80)] }) }

theorem test_send_port :
    after (exec (.route 0) (receiver 0 (tokD 5))) (fun t => t.net.map (fun k => (k.load, k.route)))
      = some [(.token ⟨2, 1, 7⟩ 0x80 ⟨3, 1, 8⟩ 2 (tokD 5), [9])]
    ∧ after (exec (.route 0) (sender 0 8 (tokD 5) .active)) (fun t => t.me.faults.map (fun f => (f.kcause, f.value))) = some [(0x110, 0)]
    ∧ after (exec (.route 0) (sender 0x100 8 (tokD 5) .frozen)) (fun t => t.net.map (·.load)) = some [.word ⟨3, 1, 8⟩ 2 5] := by decide +kernel

/-- A packet on link 9, one that has crossed it, and one for another module. -/
def crossing : State :=
  { receiver 0 (tokD 5) with
    net := [⟨⟨2, 1, 7⟩, 1, .word ⟨3, 1, 8⟩ 2 5, [9], none, 0⟩, ⟨⟨2, 1, 7⟩, 1, .word ⟨3, 1, 8⟩ 2 6, [9], none, 0⟩, ⟨⟨2, 1, 7⟩, 1, .umavas 1 1 3 4, [], none, 0⟩]
    used := [(9 * 16 + 1, 1)], vcTurn := [(9 * 128 + 1, 0)] }

/-- The channel of a flow whose owner has one on the link. -/
theorem helper_chan {s : State} {p : Packet} {l c : Nat} (h : ownedChans s p.part l = [c]) : chanOf s p l = some c := by
  simp [chanOf, h, Nat.mod_one]

theorem test_mesh_forward :
    after (exec (.meshTokenForward 0) crossing) (fun t => ((t.net.head?.map (fun k => (k.route, k.link, k.chan))), t.used, t.vcTurn))
      = some (some ([], some 9, 1), [(9 * 16 + 1, 2)], [(9 * 128 + 1, 1)]) := by
  simp only [exec, execMeshTokenForward, helper_chan (s := crossing) (p := ⟨⟨2, 1, 7⟩, 1, .word ⟨3, 1, 8⟩ 2 5, [9], none, 0⟩) (l := 9) (c := 1) (by decide +kernel),
    show crossing.net[0]? = some ⟨⟨2, 1, 7⟩, 1, .word ⟨3, 1, 8⟩ 2 5, [9], none, 0⟩ from rfl]
  decide +kernel

theorem test_TokensLeaveAndCross_witness :
    isActive (receiver 0 (tokD 5)) (receiver 0 (tokD 5)).me.id = true ∧ crossing.net[0]? = some ⟨⟨2, 1, 7⟩, 1, .word ⟨3, 1, 8⟩ 2 5, [9], none, 0⟩
    ∧ tabGet 0x40#7 crossing.links (9 * 64 + crossing.ktime.toNat % 64) = 1 ∧ tabGet 0 crossing.used (9 * 16 + 1) < 16
    ∧ ownedChans crossing 1 9 = [1] ∧ ownedChans crossing 1 8 = [] ∧ chanTurn crossing 1 9 1 = true
    ∧ (crossing.net.take 0).any (fun q => sameFlow ⟨⟨2, 1, 7⟩, 1, .word ⟨3, 1, 8⟩ 2 5, [9], none, 0⟩ q && decide (1 ≤ q.route.length)) = false
    ∧ (crossing.net.take 1).any (fun q => sameFlow ⟨⟨2, 1, 7⟩, 1, .word ⟨3, 1, 8⟩ 2 6, [9], none, 0⟩ q && decide (1 ≤ q.route.length)) = true
    ∧ crossing.net[2]? = some ⟨⟨2, 1, 7⟩, 1, .umavas 1 1 3 4, [], none, 0⟩ ∧ standing crossing 9 1 < tabGet 0 crossing.used (9 * 16 + 1)
    ∧ tabGet 0 crossing.used (8 * 16 + 1) ≤ standing crossing 8 1 ∧ (tabGet 0x40#7 crossing.links (8 * 64 + 1)) ≠ 1
    ∧ (ctlReaders (selCell [true]).me 0 = [0] ∧ ctlOf ({ selCell [true] with me.fab.ctlq := [(ctlSource 0, [true])] } : State).me (ctlSource 0) = true :: []) := by
  decide +kernel

/-- Elements that stand with a token for a send port: every clause on the receiver. -/
theorem test_SendPort_witness :
    (Stands (receiver 0 (tokD 5)) 0x80 1 ∧ headsOf (pulled (receiver 0 (tokD 5)) 0x80) 0x80 [0] = .ok [(0, some (tokD 5))])
    ∧ (Stands (cell 1 0x104 0 [tokD 5]) 0 1 ∧ headsOf (pulled (cell 1 0x104 0 [tokD 5]) 0) 0 [0] = .ok [(0, some (tokD 5))])
    ∧ (let s := receiver 0 (tokD 5)
       sourceOf s.me 0x80 0 / 4096 ≠ 7 ∧ outDests s.me 0x80 0 = [] ∧ outSends s.me 0x80 0 = true ∧ sendPort s.me 0x80 = some 0 ∧ meterOpen s 0x80 16 = true
       ∧ namedCtx s 1 1 8 = some ⟨3, 1, 8⟩ ∧ (findCtx s ⟨3, 1, 8⟩).isSome ∧ isPlaced s ⟨3, 1, 8⟩ = true ∧ isActive s ⟨3, 1, 8⟩ = true ∧ portBusy s 0x80 = false
       ∧ pathOwned s 1 (corePath 2 3) = true ∧ turnHere (takeAll (pulled s 0x80) 0x80 [0]) 0x80 0 = true ∧ wordAtSource s s.me.id = false)
    ∧ (let s := sender 0 8 (tokD 5) .frozen
       isActive s ⟨3, 1, 8⟩ = false ∧ isPlaced s ⟨3, 1, 8⟩ = true ∧ ∀ c ∈ s.others, logFull s c = false)
    ∧ (∃ x, checkTok (checkOf (receiver 0 (tokD 5)).me (inKey 0x80 64)) (tokD 5) = .ok x ∧ decide (x.last = 1) = true)
    ∧ namedCtx (sender 0 6 (tokD 5) .active) 1 1 6 = none ∧ portField (sender 0x100 8 (tokD 5) .frozen).me 0 3 / 256 % 2 = 1
    ∧ (∀ c ∈ (sender 0 8 (tokD 5) .active).others, portField c 2 3 / 64 % 4 ≠ 2) ∧ (tokStop 1).isData = false
    ∧ (let s := { cell 1 0x104 0 [tokD 5] with me.fab.queues := [(inKey 0 0, [tokD 5]), (bufKey 0, [tokD 1])] }
       ∃ d ∈ outDests s.me 0 0, d.1 ≠ inKey 0 0 ∧ d.2 ≤ (queueOf s.me d.1).length) := by
  refine ⟨?_, ?_, by decide +kernel, by decide +kernel, helper_ok (by decide +kernel), by decide +kernel, by decide +kernel, by decide +kernel, by decide, by decide +kernel⟩
  · exact ⟨by unfold Stands; decide +kernel, helper_heads (by decide +kernel)⟩
  · exact ⟨by unfold Stands; decide +kernel, helper_heads (by decide +kernel)⟩

/-- A token that has arrived for a port of the context in focus, or of context 8, which is frozen. -/
def arriving (dest : CtxId) (f : Fabric) (spill : Word) : State :=
  { prog with
    net := [⟨⟨2, 1, 7⟩, 1, .token ⟨2, 1, 7⟩ 0x80 dest 2 (tokD 5), [], none, 0⟩]
    mem := (withTables 0x3D false).mem, parts := (withTables 0x3D false).parts, dram := [(1, 1)]
    me := { prog.me with fab := f, sys.spill := spill, sys.spillEnd := 0x2020 } }

/-- A receive port 2 with a queue and a spill log whose head and tail are given. -/
def port2 (q : List Token) (log : List (Nat × Token)) (head tail : Word) : Fabric :=
  { Fabric.zero with ports := [(2 * 8 + 3, 0x80)], portq := [(2, q)], spillLog := log, spillHead := head, spillTail := tail }

/-- The same arrival at a monitor context. -/
def arrivingM (f : Fabric) (spill : Word) : State := asMonitor (arriving ⟨2, 0x40, 7⟩ f spill)

def eight : List Token := List.replicate 8 (tokD 1)

theorem test_token_arrivals :
    after (exec (.tokenArrivalAtPort 0) (arrivingM (port2 [] [] 0 0) 0)) (fun t => (t.net.length, portQueue t.me 2)) = some (0, [tokD 5])
    ∧ after (exec (.tokenArrivalAtPort 0) (arrivingM (port2 eight [] 0 0) 0)) (fun t => t.net.length) = some 1
    ∧ after (exec (.tokenArrivalAtPort 0) (arrivingM (port2 eight [] 0x2000 0x2000) 0x2000))
        (fun t => (memNat t.mem 0x2000 8, memNat t.mem 0x2008 8, t.me.fab.spillTail, t.me.fab.spillLog)) = some (5, 0x200, 0x2010, [(2, tokD 5)])
    ∧ after (exec (.tokenArrivalAtPort 0) (arrivingM (port2 eight [] 0x2000 0x2020) 0x2000)) (fun t => (t.me.fab.spillPorts, t.me.faults.map (·.kcause)))
        = some ([2], [0x112])
    ∧ after (exec (.tokenArrivalAtPort 0) (arriving ⟨3, 1, 8⟩ (port2 [] [] 0 0) 0)) (fun t => (t.net.length, t.others.map (fun c => c.fab.recCount))) = some (0, [1, 0])
    ∧ after (exec .spillRefill { arrivingM (port2 [] [(2, tokD 5)] 0x2000 0x2010) 0x2000 with
          mem := [(0x2000, 5), (0x2009, 2)] })
        (fun t => (portQueue t.me 2, t.me.fab.spillLog.length, t.me.fab.spillTail)) = some ([tokD 5], 0, 0x2000)
    ∧ after (exec .receptionLogReplay { arrivingM { port2 [] [] 0 0 with recLog := [(2, 3)], recCount := 4 } 0 with mem := [(48, 9)] })
        (fun t => (portQueue t.me 2, t.me.fab.recCount)) = some ([tokD 9], 0) := by decide +kernel

theorem test_TokensReachPorts_witness :
    (∀ f ∈ [port2 [] [] 0 0, port2 eight [] 0x2000 0x2000, port2 eight [] 0x2000 0x2020], let s := arrivingM f 0x2000
      arrived s 0 = some ⟨⟨2, 1, 7⟩, 1, .token ⟨2, 1, 7⟩ 0x80 ⟨2, 0x40, 7⟩ 2 (tokD 5), [], none, 0⟩ ∧ isActive s s.me.id = true ∧ receives s.me 2 = true ∧ s.me.fab.spillPorts = []
      ∧ s.me.fab.recLog = [])
    ∧ (portQueue (arrivingM (port2 [] [] 0 0) 0).me 2).length < 8 ∧ 8 ≤ (portQueue (arrivingM (port2 eight [] 0 0) 0).me 2).length
    ∧ (0x2000#64).toNat + 16 ≤ (0x2020#64).toNat ∧ (0x2020#64).toNat < (0x2020#64).toNat + 16 ∧ receives (arrivingM Fabric.zero 0).me 2 = false
    ∧ (let s := arriving ⟨3, 1, 8⟩ (port2 [] [] 0 0) 0
       isActive s ⟨3, 1, 8⟩ = false ∧ isPlaced s ⟨3, 1, 8⟩ = true ∧ (rawCtx s ⟨3, 1, 8⟩).isSome
       ∧ writable (focus s ⟨3, 1, 8⟩) 0x100 16 (memPut s.mem 0x100 16 5) = true ∧ writable (focus { s with dram := [] } ⟨3, 1, 8⟩) 0x100 16 (memPut s.mem 0x100 16 5) = false)
    ∧ (let s := arrivingM { port2 [] [] 0 0 with recLog := [(2, 3)] } 0
       badLine s 48 = false ∧ badLine { s with bad := [0] } 48 = true ∧ readState s 0x40 0 = .go ∧ s.me.fab.recLog[0]? = some (2, 3) ∧ recordDue s.me 0 = true ∧ receives s.me 2 = true)
    ∧ [(64, tokD 1), (2, tokD 6)].dropWhile (fun r => r.1 = 64) = [(2, tokD 6)]
    ∧ (let s := arrivingM { Fabric.zero with recLog := [(2, 3)] } 0
       recordDue s.me 0 = true ∧ receives s.me 2 = false) := by
  decide +kernel

theorem test_SpillAccesses_witness :
    (∃ x, engWrite { arrivingM (port2 eight [] 0x2000 0x2000) 0x2000 with net := [] } 1 0x2000 8 5 = .ok x
      ∧ (match engWrite x 1 0x2008 8 0x200 with | .ok _ => true | .error _ => false) = true)
    ∧ (∃ x, engRead (arrivingM (port2 [] [(2, tokD 5)] 0x2000 0x2010) 0x2000) 1 0x2000 8 = .ok x
      ∧ (match engRead x.1 1 0x2008 8 with | .ok _ => true | .error _ => false) = true) :=
  ⟨helper_ok (by decide +kernel), helper_ok (by decide +kernel)⟩
/-- Does a computation answer, or fail with a fault of a cause that loses no line? -/
def isOk {ε α : Type} (x : Except ε α) : Bool := match x with
  | .ok _ => true
  | .error _ => false

def failsWith {α : Type} (x : Except Stop α) (cause : BitVec 8) : Bool := match x with
  | .error (.fault t) => decide (t.cause = cause ∧ t.line = none)
  | _ => false

theorem helper_isOk {ε α : Type} {x : Except ε α} (h : isOk x = true) : ∃ a, x = .ok a := by
  cases x with
  | ok a => exact ⟨a, rfl⟩
  | error e => cases h

theorem helper_failsWith {α : Type} {x : Except Stop α} {cause : BitVec 8} (h : failsWith x cause = true) :
    ∃ t, x = .error (.fault t) ∧ t.cause = cause ∧ t.line = none := by
  cases x with
  | ok a => cases h
  | error e =>
    cases e with
    | fault t => exact ⟨t, rfl, of_decide_eq_true h⟩
    | hold f => cases h

/-- Stream 0 of edge engine 0 over two 8-byte elements at window address 0x40 (values 0x11, 0x22); cell 0 reads it. -/
def stream (mode : Nat) (x : Strm) (toks : List Token) (k : Check) : State :=
  let s := fabric 0xC0 [(0, BitVec.ofNat 16 (0x460 + mode)), (1, 0x2000), (2, 0x40), (6, 2), (11, 1)] (if toks = [] then [] else [(0, toks)])
  { s with
    me := regioned 0 { s.me with fab.cfg := (0, 1) :: (1, 0x107) :: (2, 0x3000) :: s.me.fab.cfg, fab.strms := [(0, x)], fab.checks := [(inKey 0xC0 0, k)] }
    win := [(winKey 2 0x40, 0x11), (winKey 2 0x48, 0x22)] }

def live : Strm := { Strm.zero with live := true, sentG := true }

/-- What cell 0 has at its input, and the stream's own queue. -/
def streamed (i : Instr) (s : State) : Option (List (List Token)) := after (exec i s) (fun t => [queueOf t.me (inKey 0xC0 0), queueOf t.me (inKey 0 0)])

theorem test_stream_reads :
    streamed (.streamRead 0 0) (stream 1 { Strm.zero with live := true } [] afterG) = some [[tokG], []]
    ∧ streamed (.streamRead 0 0) (stream 1 live [] afterG) = some [[tokD 0x11], []]
    ∧ streamed (.streamRead 0 0) (stream 1 { live with next := 2, atStop := true } [] afterG) = some [[tokStop 1], []]
    ∧ streamed (.streamRead 0 0) (stream 1 { live with finished := true } [] afterG) = some [[tokZ], []]
    ∧ streamed (.streamRead 0 0) (stream 1 live [tokD 9] afterG) = some [[], [tokD 9]] := by decide +kernel

theorem test_stream_writes :
    after (exec (.streamWrite 0 0) (stream 2 live [tokD 0x77] afterG)) (fun t => (winNat t 2 0x40 8, (strmOf t.me 0 0).next)) = some (0x77, 1)
    ∧ after (exec (.streamWrite 0 0) (stream 2 live [tokStop 1] afterG)) (fun t => (strmOf t.me 0 0).run) = some 1
    ∧ after (exec (.streamWrite 0 0) (stream 2 live [tokStop 2] afterG)) (fun t => t.me.faults.map (·.kcause)) = some [0x10B]
    ∧ streamed (.streamGather 0 0) (stream 3 live [tokF 6 1] afterG) = some [[], [tokF 6 0x22]] := by decide +kernel

theorem test_StreamResults_witness :
    (∀ p ∈ [(1, live, ([] : List Token), afterG), (1, live, [tokD 9], afterG), (2, live, [tokG], Check.zero), (2, live, [tokZ], afterS1), (2, live, [tokStop 1], afterG),
        (2, live, [tokStop 2], afterG), (2, live, [tokD 7], afterG), (3, live, [tokStop 1], afterG), (3, live, [tokF 6 1], afterG), (3, live, [tokD 1], afterG)],
      StrmStands (stream p.1 p.2.1 p.2.2.1 p.2.2.2) 0 0 p.1)
    ∧ (∀ p ∈ [(2, [tokG], Check.zero), (2, [tokZ], afterS1), (2, [tokStop 1], afterG), (2, [tokStop 2], afterG), (2, [tokD 7], afterG), (3, [tokStop 1], afterG),
        (3, [tokF 6 1], afterG), (3, [tokD 1], afterG)],
      ∀ t, p.2.1 = [t] → StrmHead (strmActing (stream p.1 live p.2.1 p.2.2) 0 0).me 0 0 t) := by
  refine ⟨by unfold StrmStands; decide +kernel, fun p hp t ht => ?_⟩
  have h : ([(2, [tokG], Check.zero), (2, [tokZ], afterS1), (2, [tokStop 1], afterG), (2, [tokStop 2], afterG), (2, [tokD 7], afterG), (3, [tokStop 1], afterG),
      (3, [tokF 6 1], afterG), (3, [tokD 1], afterG)].all (fun p => decide (queueOf (strmActing (stream p.1 live p.2.1 p.2.2) 0 0).me (strmQueue 0 0) = p.2.1)
        && (match p.2.1 with
          | [t] => isOk (checkAt (strmActing (stream p.1 live p.2.1 p.2.2) 0 0).me
              (streamField (strmActing (stream p.1 live p.2.1 p.2.2) 0 0).me 0 0 1).toNat (strmQueue 0 0) t)
          | _ => false))) = true := by decide +kernel
  have := List.all_eq_true.mp h p hp
  simp only [ht, Bool.and_eq_true, decide_eq_true_eq] at this
  obtain ⟨x, hx⟩ := helper_isOk this.2
  exact ⟨[], by rw [ht]; exact this.1, x, by rw [ht]; exact hx⟩

theorem test_StreamAccesses_witness :
    (let p := strmActing (stream 1 live [] afterG) 0 0
     (∀ r ∈ readers p.me 0x3000, (queueOf p.me r.1).length < r.2) ∧ readers p.me 0x3000 ≠ [] ∧ meterOpen p 0xC0 0 = true ∧ runLength p.me 0 0 * runCount p.me 0 0 = 2
     ∧ draining p 0xC0 = false ∧ (∃ x, streamLanes p 0 0 0 1 = .ok x ∧ decide (x.2.2 = [0x11] ∧ x.2.1 = false
        ∧ x.1 = { p with me.perf := x.1.me.perf, me.tlb := x.1.me.tlb, me.fab.badpack := x.1.me.fab.badpack, l2 := x.1.l2 }) = true))
    ∧ (let p := strmActing { stream 1 live [] afterG with me := regioned 2 (stream 1 live [] afterG).me } 0 0
       ∃ t, streamLanes p 0 0 0 1 = .error (.fault t) ∧ t.cause = 0x0A ∧ t.line = none)
    ∧ (let p := strmActing (stream 2 live [tokD 7] afterG) 0 0
       strmPack p.me 0 0 = 0 ∧ (strmOf p.me 0 0).run + 1 ≤ runCount p.me 0 0 ∧ (strmOf p.me 0 0).next < runLength p.me 0 0 ∧ unackOf p.me (strmKey 0 0) < 0xFFF0
       ∧ (∃ x, writeElems p 0 0 0 [7] = .ok x ∧ decide (x = { p with me.perf := x.me.perf, me.tlb := x.me.tlb, l2 := x.l2, win := x.win, winBad := x.winBad, mem := x.mem }) = true))
    ∧ (let p := strmActing (stream 3 live [tokF 6 1] afterG) 0 0
       ∃ x, spaceRead p (graphPriv p 0xC0) true (strmTags p.me 0 0) 0x48 8 = .ok x ∧ decide (x.2.2 = 0x22 ∧ x.1 = { p with me.perf := x.1.me.perf, me.tlb := x.1.me.tlb, l2 := x.1.l2 }) = true) := by
  refine ⟨⟨by decide +kernel, by decide +kernel, by decide +kernel, by decide +kernel, by decide +kernel, helper_ok (by decide +kernel)⟩,
    helper_failsWith (by decide +kernel),
    ⟨by decide +kernel, by decide +kernel, by decide +kernel, by decide +kernel, helper_ok (by decide +kernel)⟩, helper_ok (by decide +kernel)⟩
/-! ## Copies and transforms (09 R204 to R227) -/

/-- A record at 0x1000 (two 8-byte elements from window address 0x40 to 0x80), whose own bit is given, and a transform request at 0x1040 (five trits
at 0x2000 packed to 0x3000, completion record at 0x3040). -/
def records (own : Byte) : List Host.Cell :=
  [(0x1002, 0x3C), (0x1007, own), (0x1010, 0x40), (0x1018, 0x80), (0x1020, 2), (0x1040, 1), (0x1049, 0x20), (0x1051, 0x30), (0x1058, 5), (0x1060, 1), (0x1070, 0x40),
   (0x1071, 0x30), (0x2000, 1), (0x2002, 0xFF), (0x2003, 0xFF), (0x2004, 0xFF)].filter (fun c => c.2 ≠ 0)

/-- A monitor context with a copy channel 0 and a queue of transforms. -/
def engine (own : Byte) (h : Chan) (xq : List Xreq) : State :=
  asMonitor { prog with
    mem := records own, win := [(winKey 2 0x40, 0x11), (winKey 2 0x48, 0x22)]
    me := regioned 0 { prog.me with chans := prog.me.chans.set 0 h, xq := xq } }

def chan0 (st : ChanSt) (ws : Option (List Word)) (n : Nat) : Chan := { Chan.zero with st := st, addr := 0x1000, priv := 1, words := ws, n := n }

/-- The record's words as read. -/
def words0 : List Word := [0x80000000003C0000, 0, 0x40, 0x80, 2, 0, 0, 0]

def req (st : ChanSt) (ws : Option (List Word)) : Xreq := ⟨0x1040, false, 1, 0, st, ws, 0, 0, 0, none, 0, false⟩

def wordsX : List Word := [1, 0x2000, 0x3000, 5, 1, 0, 0x3040, 0]

theorem test_copies :
    after (exec (.xcopy 1 2 3 0 0 0 0) (writeG (engine 0x80 Chan.zero []) 1 0x1000)) (fun t => ((getChan t.me 0).st, (getChan t.me 0).addr, t.me.regs.pc)) = some (.running, 0x1000, 0x444)
    ∧ after (exec (.xcopy 1 2 3 0 0 0 0) (writeG (engine 0x80 Chan.zero []) 1 0x1008)) (fun t => t.me.sys.kcause) = some 3
    ∧ after (exec (.copyRecordRead 0) (engine 0x80 (chan0 .running none 0) [])) (fun t => (getChan t.me 0).words) = some (some words0)
    ∧ after (exec (.copyRecordRead 0) (engine 0 (chan0 .running none 0) [])) (fun t => (getChan t.me 0).st) = some .idle
    ∧ after (exec (.copyElementCommit 0) (engine 0x80 (chan0 .running (some words0) 0) [])) (fun t => (winNat t 2 0x80 8, (getChan t.me 0).n)) = some (0x11, 1)
    ∧ after (exec (.copyElementCommit 0) (engine 0x80 (chan0 .running (some words0) 1) [])) (fun t => (winNat t 2 0x88 8, (getChan t.me 0).st, memNat t.mem 0x1000 8, memNat t.mem 0x1038 8))
      = some (0x22, .idle, 0x3C0000, 0x1000000000002) := by decide +kernel

theorem test_transforms :
    after (exec .transformRequestStart (engine 0x80 Chan.zero [req .waiting none])) (fun t => t.me.xq.map (fun x => (x.st, x.words))) = some [(.running, some wordsX)]
    ∧ after (exec (.transformChunkComplete 0) (engine 0x80 Chan.zero [req .running (some wordsX)])) (fun t => (t.me.xq.length, memByte t.mem 0x3000, memNat t.mem 0x3040 8))
      = some (0, 5, 0x1FFFF0001) := by decide +kernel

/-- A record that compares its sum, and one that has a nonzero reserved field. -/
def wordsCmp : List Word := [0x8000000030380000, 0, 0x40, 0x80, 2, 0, 0x0000004400000000, 0]

theorem test_CopyAndTransformCommands_witness :
    (0x1008#64).toNat % 64 ≠ 0 ∧ ((0x1000#64).toNat % 64 = 0 ∧ (0x1000#64).toNat < 2 ^ 48) ∧ ((0x1000000000000#64).toNat % 64 = 0 ∧ 2 ^ 48 ≤ (0x1000000000000#64).toNat)
    ∧ (getChan (engine 0x80 Chan.zero []).me 0).st = .idle ∧ copiesOut (engine 0x80 Chan.zero []).me < 63
    ∧ (getChan (engine 0x80 (chan0 .running none 0) []).me 0).st = .running ∧ (getChan (engine 0x80 (chan0 .waiting none 0) []).me 0).st = .waiting
    ∧ ((getChan (engine 0x80 (chan0 .halted none 0) []).me 0).st = .halted ∧ (getChan (engine 0x80 (chan0 .halted none 0) []).me 0).addr = 0x1000) ∧ (0x1000#64 : Word) ≠ 0x1040
    ∧ 16 ≤ (List.replicate 16 (req .waiting none)).length ∧ 8 ≤ (8#64).toNat ∧ (1#64) = (1#2).setWidth 64 ∧ (4 ≤ (7#64).toNat ∧ (7#64).toNat < 8)
    ∧ (engine 0x80 Chan.zero [req .waiting none]).me.xq.find? (fun x => x.st ≠ .idle) = some (req .waiting none)
    ∧ (∀ x ∈ (engine 0x80 Chan.zero [req .idle none]).me.xq, x.st = .idle) := by decide +kernel

/-- XCANCEL of a halted channel and of one whose record was not read; of the head transform. -/
theorem test_CancelWrites_witness :
    (let s := engine 0x80 (chan0 .halted none 1) []
     decrOut s 0 = false ∧ (∀ l ∈ ownLine s 1 0x1000, l.dirty = 0#128)
     ∧ (∃ p, withProgress s (chan0 .halted none 1) = .ok p ∧ decide (p = (chan0 .halted none 1, true)) = true)
     ∧ (∃ p, withProgress s (chan0 .running none 1) = .ok p ∧ decide (p = (chan0 .running none 0, true)) = true)
     ∧ (∃ x, engWrite s 1 0x1030 4 0 = .ok x ∧ isOk (engWrite x 1 0x1038 8 (1 + 7 * 2 ^ 48)) = true))
    ∧ decrOut ({ prog with decrs := [⟨1, 5, prog.me.id, some 0, none⟩] } : State) 0 = true
    ∧ (let s := engine 0x80 Chan.zero [req .running none]
       ∃ x, engRead s 1 0x1040 64 = .ok x ∧ isOk (xformRecord s { req .running none with words := some (recWords x.2.2) } 7) = true) := by
  refine ⟨⟨by decide +kernel, by decide +kernel, helper_ok (by decide +kernel), helper_ok (by decide +kernel), helper_ok (by decide +kernel)⟩, by decide +kernel,
    helper_ok (by decide +kernel)⟩

/-- The writes that complete the record at 0x1000: sum, count and status, and bit 63 of its first word. -/
def lastWrites (w : State) (sum n : Nat) : Except Stop State := do
  let w1 ← engWrite w 1 0x1030 4 sum
  let w2 ← engWrite w1 1 0x1038 8 (n + 2 ^ 48)
  let w3 ← engXlat w2 1 0x1007 1 needWrite
  engWrite w3.1 1 0x1007 1 ((memByte w3.1.mem w3.2).toNat % 128)

theorem test_CopyChannelsRun_witness :
    (let s := engine 0x80 (chan0 .waiting none 0) []
     isActive s s.me.id = true ∧ (getChan s.me 0).st = .waiting ∧ earlierDone s.me (getChan s.me 0).age = true)
    ∧ (let s := engine 0x80 (chan0 .running none 0) []
       (∃ x, engRead s 1 0x1000 64 = .ok x ∧ decide (recWords x.2.2 = words0) = true)
       ∧ (recOf words0 none none).own = true ∧ (recOf words0 none none).invalid s.me false = false ∧ (recOf words0 none none).count = 2 ∧ s.decrs = [])
    ∧ (∃ x, engRead (engine 0 (chan0 .running none 0) []) 1 0x1000 64 = .ok x ∧ decide ((recOf (recWords x.2.2) none none).own = false) = true)
    ∧ (recOf (0x80000000003C0001 :: words0.drop 1) none none).invalid prog.me false = true
    ∧ (let s := engine 0x80 (chan0 .running (some words0) 0) []
       let r := recOf words0 none none
       (r.place 0).1 = some 0x40 ∧ (r.place 1).1 = some 0x48 ∧ r.packing = 0 ∧ r.summed = false ∧ s.me.sys.inj.getLsbD 0 = false ∧ r.kind = 0 ∧ r.compare = false
       ∧ (∃ x, spaceRead s 1 r.srcWin [0, 5] 0x40 r.size = .ok x ∧ decide (x.1 = { s with me.perf := x.1.me.perf, me.tlb := x.1.me.tlb, l2 := x.1.l2 } ∧ x.2.2 = 0x11) = true)
       ∧ (∃ x, spaceWrite s 1 r.dstWin [0, 5] 0x88 r.size 0x22 = .ok x
            ∧ decide (x = { s with me.perf := x.me.perf, me.tlb := x.me.tlb, l2 := x.l2, mem := x.mem, win := x.win, winBad := x.winBad }
              ∧ isOk (lastWrites (countEvent { x with me := setChan x.me 0 (chan0 .running (some words0) 2) } 0x0A 8) 0 2) = true) = true)
       ∧ isOk (recordWrite s 1 0x1000 0 0 5) = true ∧ isOk (recordWrite s 1 0x1000 0 2 4) = true ∧ isOk (recordWrite s 1 0x1000 0 0 (haltStatus 0x0A)) = true)
    ∧ (let s := { engine 0x80 (chan0 .running (some words0) 0) [] with me := regioned 1 prog.me }
       ∃ t, spaceRead s 1 true [0, 5] 0x40 8 = .error (.fault t) ∧ t.cause = 0x0A ∧ t.line = none)
    ∧ ((recOf wordsCmp none none).summed = true ∧ (recOf wordsCmp none none).compare = true ∧ (recOf wordsCmp none none).size = 4
       ∧ (recOf wordsCmp none none).sums.extractLsb' 32 32 = 0x44#32) := by
  refine ⟨by decide +kernel, ⟨helper_ok (by decide +kernel), by decide +kernel, by decide +kernel, by decide +kernel, by decide +kernel⟩, helper_ok (by decide +kernel),
    by decide +kernel, ⟨by decide +kernel, by decide +kernel, by decide +kernel, by decide +kernel, by decide +kernel, by decide +kernel, by decide +kernel,
      helper_ok (by decide +kernel), helper_ok (by decide +kernel), by decide +kernel, by decide +kernel, by decide +kernel⟩, helper_failsWith (by decide +kernel), by decide +kernel⟩

theorem test_TransformsRun_witness :
    (let s := engine 0x80 Chan.zero [req .waiting none]
     s.me.xq = req .waiting none :: [] ∧ (∃ x, engRead s 1 0x1040 64 = .ok x ∧ decide (recWords x.2.2 = wordsX) = true))
    ∧ (req .running (some wordsX)).invalid prog.me = false ∧ (req .running (some wordsX)).chunks = 1 ∧ (req .running (some (0 :: wordsX.drop 1))).invalid prog.me = true
    ∧ (let s := engine 0x80 Chan.zero [req .running (some wordsX)]
       ∃ x, runChunk s (req .running (some wordsX)) 0 = .ok x ∧ decide (x.me.xq = s.me.xq ∧ x.decrs = [] ∧ isOk (writeWords x 1 0x3040 [0x1FFFF0001, 0, 1, 0, 0, 0, 1, 0]) = true) = true)
    ∧ (∃ x, xformRecord (engine 0x80 Chan.zero []) { req .running (some wordsX) with failed := some (0xFFFF, 0x0F, 0x1040) } 2 = .ok x ∧ decide (x.win = [(winKey 2 0x40, 0x11), (winKey 2 0x48, 0x22)]) = true)
    ∧ (req .running (some wordsX)).ended.getLsbD 0 = false ∧ ((List.range 0).filter (fun j => !(req .running (some wordsX)).ended.getLsbD j)).length < 80
    ∧ (req .running (some [1, 0x2000, 0x3000, 5 * 8192, 8192, 0, 0x3040, 0])).chunks = 2
    ∧ (∃ bs, packAll 0x2000 [[1, 0, 0xFF, 0xFF, 0xFF]] = .ok bs ∧ decide (bs = [5]) = true) := by
  refine ⟨⟨by decide +kernel, helper_ok (by decide +kernel)⟩, by decide +kernel, by decide +kernel, by decide +kernel, helper_ok (by decide +kernel), helper_ok (by decide +kernel),
    by decide +kernel, by decide +kernel, by decide +kernel, helper_ok (by decide +kernel)⟩
/-! ## Graphs (04 R84 to R95, 12 R295 to R301) -/

/-- A core that GO accepts: a read stream of two elements into cell 0, a PASS cell that is a sink. -/
def idle : State :=
  { prog with
    me := regioned 0 { prog.me with fab.cfg := [(0, 1), (1, 0x107), (2, 0x3000), (0xC0 * 64, 0x461), (0xC0 * 64 + 2, 0x40), (0xC0 * 64 + 6, 2), (0xC0 * 64 + 11, 1)] } }

theorem test_go :
    regionFailure idle [2] = none
    ∧ after (exec (.go 3 1 2) (writeG (writeG idle 1 0x10000) 2 0)) (fun t => (readG t 3, (graphIs t 0).map (fun g => (g.state, g.count)))) = some (0, some (1, 1)) := by decide +kernel

/-- A word of a configuration: element, field, value. -/
def cfgWord (e f v : Nat) : Word := BitVec.ofNat 64 (e * 2 ^ 22 + f * 2 ^ 16 + v)

theorem test_cfgw :
    after (exec (.cfgw 1 2) (writeG (writeG prog 1 (cfgWord 5 0 0x20)) 2 0)) (fun t => (cfgField t.me 5 0, t.me.regs.pc)) = some (0x20, 0x444)
    ∧ after (exec (.cfgw 1 2) (writeG (writeG prog 1 (cfgWord 0xE0 0 3)) 2 0)) (fun t => t.me.fab.portSel) = some 3
    ∧ after (exec (.cfgw 1 2) (writeG (writeG prog 1 (cfgWord 0xE0 4 0x81)) 2 0)) (fun t => portField t.me 0 4) = some 0x81
    ∧ after (exec (.cfgw 1 2) (writeG (writeG prog 1 (cfgWord 0xD0 1 0x20)) 2 0)) (fun t => (region t.me 0).size) = some 0x2000
    ∧ after (exec (.cfgw 1 2) (writeG (writeG prog 1 (cfgWord 0x300 0 0)) 2 0)) (fun t => t.me.sys.kcause) = some 0x0F
    ∧ after (exec (.cfgw 1 2) (writeG (writeG prog 1 (cfgWord 5 0 0x20)) 2 2)) (fun t => (t.me.sys.kcause, t.me.sys.keval)) = some (0x0F, 2) := by decide +kernel

/-- The loaded word of a stream, compared. -/
def loads (l : Loaded) (w : BitVec 32) : Bool := match l with
  | .word _ x => decide (x = w)
  | _ => false

def streamCode (bs : List Host.Cell) : State := asMonitor { prog with mem := bs }

theorem test_GraphsAreConfiguredAndStarted_witness :
    isActive prog prog.me.id = true ∧ 2 ^ 16 ≤ (0x10000#64).toNat ∧ ownerCore prog prog.me.id.part 2 = none ∧ ownerCore prog prog.me.id.part 0 = some prog.me.id.core
    ∧ fieldOk 0x300 0 0 = false ∧ graphHolds (fabric 5 [] []) (fabric 5 [] []).me 5 0 0x20 = true
    ∧ (fieldOk 5 0 0x20 = true ∧ graphHolds prog prog.me 5 0 0x20 = false ∧ otherSet prog prog.me.id = none)
    ∧ (fieldOk 0xE0 0 3 = true ∧ fieldOk 0xE0 4 0x81 = true ∧ fieldOk 0xD0 1 0x20 = true ∧ fieldOk 0xD0 2 0x1 = true)
    ∧ regionOk (putField prog.me 0xD0 1 0x20) 0 = true ∧ fieldOk 0xD0 0 0xFFF = true ∧ regionOk (putField (regioned 0 prog.me) 0xD0 0 0xFFF) 0 = false
    ∧ regionCores prog 2 = none ∧ regionCores prog 0x10000 = some [2] ∧ ((0x10000#64).extractLsb' 32 32).toNat = 0 ∧ ((0x100010000#64).extractLsb' 32 32).toNat = 1
    ∧ loads (streamWord (streamCode [(0x1000, 0x20), (0x1002, 0x40), (0x1003, 1)]) 0x1000) 0x01400020
    ∧ (match applyWord (streamCode []) (cfgCtx (streamCode []) 2) 0x01400020 with | .ok u => decide (cfgField u.me 5 0 = 0x20) | _ => false) = true
    ∧ loads (streamWord (streamCode [(0x1002, 0xFF), (0x1003, 0xFF)]) 0x1000) 0xFFFF0000 ∧ loads (streamWord (streamCode [(0x1000, 1), (0x1002, 0xFF), (0x1003, 0xFF)]) 0x1000) 0xFFFF0001
    ∧ (match applyWord (streamCode []) (cfgCtx (streamCode []) 2) 0xC0000000 with | .bad => true | _ => false) = true
    ∧ (0x10000#64).toNat < 2 ^ 32 ∧ 2 ^ 32 ≤ (0x100010000#64).toNat ∧ (regionFailure (control 0) [2]).isSome ∧ regionFailure idle [2] = none
    ∧ idle.me.fab.graphs.length < 16 ∧ completionOk 0 = true ∧ completionOk 2 = false ∧ usedElems idle.me ≠ [] := by decide +kernel

/-- A word for the array's format waits while the matrix queue holds a command. -/
theorem test_CfgWaits_witness :
    (let s := writeG { prog with me.mx.queue := [⟨.swp, 0, 0, 0, 0, 0, 0, 0, false, [], 0⟩] } 1 (cfgWord 0xC8 1 0x100)
     (match applyWord s s.me.id ((readG s 1).setWidth 32) with | .wait => true | _ => false) = true
     ∧ after (exec (.cfgw 1 2) s) (fun t => t.me.stalled) = some true) := by decide +kernel

/-- Graph 3 in a given condition, on cell 0 (a sink whose Z is held, or not), with commands of the matrix array. -/
def graphed (g : Graph) (ended : Bool) (q : List MxCmd) (halted : Bool) : State :=
  let s := fabric 0 [(0, 1), (1, 0x107), (2, 0x3000)] []
  { s with me := { s.me with fab.graphs := [(3, g)], fab.sinksDone := if ended then [(0, true)] else [], mx := { Mx.zero with queue := q, halted := halted, cause := 0x0B } } }

def swap0 : MxCmd := ⟨.swp, 0, 0, 0, 0, 0, 0, 0, false, [], 0⟩

theorem test_graph_instructions :
    after (exec (.drain 4 1) (writeG (graphed graph3 false [] false) 1 3)) (fun t => (readG t 4, (graphIs t 3).map (·.state))) = some (0, some 3)
    ∧ after (exec (.abort 4 1) (writeG (graphed graph3 false [] false) 1 3)) (fun t => (readG t 4, (graphIs t 3).isNone, t.me.fab.marks.length)) = some (0, true, 0)
    ∧ after (exec (.replay 4 1) (writeG (graphed graph3 false [] false) 1 3)) (readG · 4) = some 2
    ∧ after (exec (.gstat 4 1) (writeG (graphed { graph3 with state := 2, cause := 0x0D } false [] false) 1 3)) (readG · 4) = some 0xD00000002
    ∧ after (exec (.gstat 4 1) (writeG (graphed graph3 false [] false) 1 4)) (readG · 4) = some 0
    ∧ after (exec (.abort 4 1) (writeG (graphed graph3 false [swap0] true) 1 16)) (fun t => (readG t 4, t.me.mx.queue.length)) = some (0, 0)
    ∧ after (exec (.drain 4 1) (writeG prog 1 32)) (fun t => (t.me.sys.kcause, t.me.sys.keval)) = some (0x0F, 32) := by decide +kernel

theorem test_graph_completion :
    after (exec (.graphCompletion 3) (graphed graph3 true [] false)) (fun t => (graphIs t 3).map (·.completed)) = some (some true)
    ∧ after (exec (.graphCompletion 3) (graphed graph3 false [] false)) (fun t => (graphIs t 3).map (·.completed)) = some (some false)
    ∧ after (exec (.graphCompletion 3) (graphed { graph3 with completed := true, completion := 0x55000000000000 + 4 * 5 } true [] false))
        (fun t => ((graphIs t 3).isNone, (getEntry t.me 5).cause)) = some (true, some ⟨3, 3, 0x550000⟩) := by decide +kernel

theorem test_GraphsEndAndReport_witness :
    32 ≤ (32#64).toNat ∧ (3#64) = (3#4).setWidth 64 ∧ graphIs (graphed graph3 false [] false) 4 = none ∧ graphIs (graphed graph3 false [] false) 3 = some graph3
    ∧ graphEnded (graphed graph3 false [] false) ⟨2, 3⟩ = false ∧ graphEnded (graphed graph3 true [] false) ⟨2, 3⟩ = true ∧ graph3.completed = false ∧ graph3.state ≠ 2
    ∧ ({ graph3 with state := 2 } : Graph).state = 2 ∧ (graphed graph3 false [] false).me.fab.marks = [(0, ⟨2, 3⟩)] ∧ 16 ≤ (16#64).toNat ∧ (16#64).toNat < 32
    ∧ (graphed graph3 false [] false).me.mx.queue = [] ∧ (graphed graph3 false [swap0] true).me.mx.queue ≠ [] ∧ (graphed graph3 false [swap0] true).me.mx.halted = true
    ∧ isActive (graphed graph3 false [] false) ⟨2, 1, 7⟩ = true ∧ (21#64).extractLsb' 0 2 ≠ 0#2 ∧ (20#64).extractLsb' 0 2 = 0#2 ∧ graph3.reported = false
    ∧ (∃ x ∈ [(⟨1, 5, ⟨2, 1, 7⟩, none, some 3⟩ : Decr)], x.ctx = ⟨2, 1, 7⟩ ∧ x.graph = some 3) := by decide +kernel
/-! ## The matrix array (07) -/

/-- The lower half of the array under a claim and format, with region 0 plain, a queue of commands and rows in the array. -/
def array (claim fmt : BitVec 16) (q : List MxCmd) (items : List MxItem) : State :=
  { prog with
    me := regioned 0 { prog.me with fab.cfg := [(0xC8 * 64, claim), (0xC8 * 64 + 1, fmt)], mx := { Mx.zero with queue := q, items := items } }
    win := [(winKey 2 0, 3), (winKey 2 1, 2)] }

def cmd (op : MxOp) (a b c : Word) (started : Bool) : MxCmd := ⟨op, a, b, c, 0, 0, 0, 0, started, [], 0⟩

/-- An integer row [3, 2, 0 …] for accumulator row 5 that has met weights 4 and −1 in column 0. -/
def row5 (r : Nat) : MxItem := ⟨false, r, true, [3, 2], 5, [(0, 0xFF04)], some Tag.zero, false, 0⟩

theorem test_matrix_issue :
    after (exec (.mxcfg 1 0) (writeG (array 0 0 [] []) 1 0x200100)) (fun t => (cfgField t.me 0xC8 0, cfgField t.me 0xC8 1)) = some (2, 0x100)
    ∧ after (exec .mxswp (array 2 0x100 [] [])) (fun t => (t.me.mx.queue.map (·.op), t.me.regs.pc)) = some ([.swp], 0x444)
    ∧ after (exec .mxswp (array 0 0x100 [] [])) (fun t => t.me.sys.kcause) = some 0x0F
    ∧ after (exec (.mxrun 1 2 3 1) (writeG (array 2 0x100 [] []) 2 0x10005)) (fun t => t.me.mx.queue.map (·.op)) = some [.run true]
    ∧ after (exec (.mxrun 1 2 3 1) (writeG (array 2 0x100 [] []) 2 0x1000200)) (fun t => (t.me.sys.kcause, t.me.sys.keval)) = some (0x0F, 0x1000200)
    ∧ after (exec (.mxzero 2 0) (array 2 0x100 [] [])) (fun t => t.me.sys.kcause) = some 1 := by decide +kernel

theorem test_matrix_runs :
    after (exec .mxCommandStart (array 2 0x100 [cmd (.lw 1) 0 7 0 false] [])) (fun t => (weightAt (geoOf t.me) t.me.mx.loading 0 0, weightAt (geoOf t.me) t.me.mx.loading 0 1))
      = some (3, 2)
    ∧ after (exec .arrayRowAdvance (array 2 0x100 [cmd (.run true) 0 0x10005 0 true] [])) (fun t => t.me.mx.items.map (fun x => (x.pos, x.row, x.image.length))) = some [(5, 0, 64)]
    ∧ after (exec .matrixRowCommit (array 2 0x100 [cmd (.run true) 0 0x10005 0 true] [row5 8])) (fun t => (accOf t.me.mx (geoOf t.me) 5 0, accOf t.me.mx (geoOf t.me) 5 1, t.me.mx.items.length))
      = some (10, 0, 0)
    ∧ after (exec .mxCommandComplete { array 2 0x100 [cmd (.acc false true) 0x40 0x10005 0 true] [] with me.mx.bank := [(mxKey 5 1, 9)] }) (fun t => (winNat t 2 0x44 4, accOf t.me.mx (geoOf t.me) 5 1))
      = some (9, 0)
    ∧ after (exec .mxCommandComplete (array 2 0x100 [{ cmd .swp 0 0 0 true with done := 1 }] [])) (fun t => t.me.mx.queue.length) = some 0 := by decide +kernel

/-- A context beside the one in focus that claims half of the array. -/
def shared : State :=
  { prog with
    others := [{ (Ctx.create ⟨2, 1, 9⟩) with fab.cfg := [(0xC8 * 64, 2)] }]
    cores := [(2, { CoreRec.zero with setA := { st := .active, ctx := some ⟨2, 1, 7⟩ }, setB := { st := .active, ctx := some ⟨2, 1, 9⟩ } })] }

theorem test_MatrixCommandsEnterTheQueue_witness :
    cfgField (array 0 0x100 [] []).me 0xC8 0 = 0 ∧ cfgField (array 2 0x100 [] []).me 0xC8 0 ≠ 0 ∧ busGraph (array 2 0x100 [] []) = none
    ∧ busGraph (fabric 0xC8 [(0, 2), (1, 0x100)] []) = some graph3
    ∧ ((0x200100#64).toNat < 2 ^ 22 ∧ (0x200100#64).extractLsb' 18 2 = 0#2 ∧ (0x200100#64).extractLsb' 20 2 ≠ 3#2 ∧ (0x200100#64).extractLsb' 16 2 ≠ 3#2
      ∧ mxFormatOk ((0x200100#64).setWidth 16) = true) ∧ (0x300100#64).extractLsb' 20 2 = 3#2 ∧ (0x100100#64).extractLsb' 20 2 = 1#2
    ∧ claimMeets prog prog.me.id 2 = false
    ∧ claimMeets shared prog.me.id 1 = true ∧ claimMeets shared prog.me.id 2 = false
    ∧ partOk (geoOf (array 2 0x100 [] []).me) 1 = true ∧ partOk (geoOf (array 2 0x100 [] []).me) 0 = false ∧ Fits (array 2 0x100 [] []).me 0 (geoOf (array 2 0x100 [] []).me).tile 8
    ∧ RangeOk (geoOf (array 2 0x100 [] []).me) 0x10005 ∧ ¬ RangeOk (geoOf (array 2 0x100 [] []).me) 0x1000200 ∧ (geoOf (array 2 0x100 [] []).me).image = 64
    ∧ ((64#64).toNat % 8 = 0 ∧ 64 ≤ (64#64).toNat) ∧ (63#64).toNat % 8 ≠ 0 ∧ Fits (array 2 0x100 [] []).me 0 64 8 ∧ Fits (array 2 0x100 [] []).me 2 2 2
    ∧ mxzeroOk 1 = true ∧ mxzeroOk 0 = false ∧ (0x10020#64).toNat < 2 ^ 21 ∧ 1 ≤ (0x10020#64).toNat / 2 ^ 16 ∧ 2 ^ 21 ≤ (0x200000#64).toNat
    ∧ (geoOf (array 2 0x100 [] []).me).wide = false ∧ (geoOf (array 2 0x000 [] []).me).wide = true ∧ Fits (array 2 0x100 [] []).me 0 (0x20 * 1) 1 := by
  unfold Fits RangeOk; decide +kernel

/-- A cell that reads each column bus. -/
theorem test_ColumnReaders_witness :
    ∀ j < 16, busReaders ({ prog with me.fab.cfg := (List.range 16).flatMap (fun j => [(j * 64, 1), (j * 64 + 2, BitVec.ofNat 16 (0x5000 + j))]) } : State).me j ≠ [] := by decide +kernel

theorem test_MatrixArrayRuns_witness :
    isActive (array 2 0x100 [] []) (array 2 0x100 [] []).me.id = true ∧ (array 2 0x100 [] []).me.mx.halted = false ∧ (geoOf (array 2 0x100 [] []).me).claim ≠ 0
    ∧ (array 2 0x100 [cmd (.lw 1) 0 7 0 false] []).me.mx.queue = cmd (.lw 1) 0 7 0 false :: [] ∧ (cmd (.lw 1) 0 7 0 false).started = false
    ∧ (array 2 0x100 [] []).me.mx.items = [] ∧ (array 2 0x100 [] []).me.mx.graphToks = [] ∧ (geoOf (array 2 0x100 [] []).me).rows = 8
    ∧ (array 2 0x100 [] [row5 3]).me.mx.items = [row5 3] ∧ (row5 3).fromGraph = false ∧ (row5 3).isX = false ∧ (row5 3).row + 1 < 8 ∧ (row5 7).row + 1 = 8
    ∧ ({ row5 3 with isX := true } : MxItem).isX = true ∧ (cmd (.run true) 0 0x10005 0 true).entered < rangeCount 0x10005
    ∧ Fits (array 2 0x100 [] []).me (0 + BitVec.ofNat 64 (0 * 64)) 64 8 ∧ (geoOf (array 2 0x100 [] []).me).rows ≤ (row5 8).row
    ∧ (array 2 0x100 [] [row5 8]).me.mx.items.any (fun y => y.fromGraph && !y.isX) = false ∧ (geoOf (array 2 0x100 [] []).me).kind = .int ∧ mxFormatOk 0x100 = true
    ∧ ((row5 8).tag.getD Tag.zero).part = 0#2 ∧ (geoOf (array 2 0x201 [] []).me).kind = .float
    ∧ trapColumn (geoOf (array 2 0x201 [] []).me) ((List.range 16).map (column Mx.zero (geoOf (array 2 0x201 [] []).me) { row5 8 with image := [] })) = none
    ∧ leaving (array 2 0x100 [] []) ⟨2, 1, 7⟩ = false ∧ (∀ op ∈ [MxOp.lw 1, .zero 1, .run true, .rung true, .acc false true, .swp, .sort false], beginLost (array 2 0x100 [] []) (cmd op 0 0x10001 0 false) = none)
    ∧ lostWord (array 2 0x100 [] []) 0 64 = none ∧ (row5 8).owner = (cmd (.run true) 0 0x10005 0 true).serial
    ∧ cmdTotal { cmd .swp 0 0 0 true with done := 1 } ≤ 1 ∧ 0 < rangeCount 0x10005 := by
  unfold Fits; decide +kernel
/-! ## Calendars, the governor, the host and start-up -/

/-- Core 3 with a calendar whose slot 5 is solo for descriptor 1 (context 8 of partition 1, 16 µs) and set B as given; context 8 has a share of 256 bytes. -/
def calendar (cur : BitVec 4) (boundary : Bool) (b : SetRec) : State :=
  { prog with
    ktime := 5000, dram := [(1, 1)]
    others := [{ Ctx.create ⟨3, 1, 8⟩ with shareSize := 0, sys.keval := 0x77 }]
    cores := [(2, { CoreRec.zero with setA := { st := .active, ctx := some ⟨2, 1, 7⟩ } }),
      (3, { CoreRec.zero with setB := b, slots := [(5, 0x50010)], descs := [(1, { w0 := 0x410008, shareSize := 0 })], running := true, cur := cur, nextAt := 4000, boundary := boundary })] }

def id8 : CtxId := ⟨3, 1, 8⟩

theorem test_calendar :
    after (exec (.calendarSlotBoundary 3) (calendar 5 false {})) (fun t => ((coreRec t 3).cur, (coreRec t 3).boundary, (coreRec t 3).nextAt)) = some (5, true, 404000)
    ∧ after (exec (.contextLoadStart 3) (calendar 5 true {})) (fun t => [(coreRec t 3).setA, (coreRec t 3).setB]) = some [{ st := .loading, ctx := some id8 }, {}]
    ∧ after (exec (.contextLoadStart 3) (calendar 5 true { st := .frozen, ctx := some id8 })) (fun t => (coreRec t 3).setB) = some { st := .frozen, ctx := some id8 }
    ∧ after (exec (.tokenBoundarySwap 3) (calendar 5 true { st := .ready, ctx := some id8 })) (fun t => ((coreRec t 3).setB, (coreRec t 3).boundary)) = some ({ st := .active, ctx := some id8 }, false)
    ∧ after (exec (.spineSwitchComplete 3) (setCore prog 3 { CoreRec.zero with spineNew := some 4 })) (fun t => (coreRec t 3).spine) = some 4
    ∧ after (exec (.containmentComplete 1) { prog with parts := [(65, { PartRec.zero with busy := true }), (1, { PartRec.zero with busy := true })] })
        (fun t => ((partRec t 1).busy)) = some false := by decide +kernel

/-- Context 9 stands Frozen in set B with the share of context 8. -/
def blocked : State :=
  let s := calendar 5 true { st := .frozen, ctx := some ⟨3, 1, 9⟩ }
  { s with others := s.others ++ [{ Ctx.create ⟨3, 1, 9⟩ with shareSize := 0 }] }

/-- Context 9 is Active in set A with a row in its array, and context 8 is ready to replace it. -/
def midRow : State :=
  let s := setCore (calendar 5 true { st := .ready, ctx := some id8 }) 3 { coreRec (calendar 5 true { st := .ready, ctx := some id8 }) 3 with setA := { st := .active, ctx := some ⟨3, 1, 9⟩ } }
  { s with others := s.others ++ [{ Ctx.create ⟨3, 1, 9⟩ with shareBase := 1, shareSize := 0, mx.items := [row5 3] }] }

theorem test_set_goes_first :
    after (exec (.contextLoadStart 3) blocked) (fun t => (coreRec t 3).setB.st) = some .parking
    ∧ after (exec (.tokenBoundarySwap 3) midRow) (fun t => ((coreRec t 3).setB.st, (coreRec t 3).boundary)) = some (.ready, true) := by decide +kernel

theorem test_CalendarSlotsTurn_witness :
    (let s := calendar 2 false {}
     let r := coreRec s 3
     (r.running = true ∧ r.nextAt.toNat ≤ s.ktime.toNat) ∧ r.stopReq = false ∧ slotLen (nextWord r 3) = 0 ∧ slotLen (nextWord r 4) = 0 ∧ slotLen (nextWord r 5) ≠ 0)
    ∧ (let r := coreRec (calendar 5 true {}) 3
       r.boundary = true ∧ slotKind (curWord r) = 1#2 ∧ descCtx 3 (descOf r (slotA (curWord r))) = id8 ∧ (getSet r (soloSet r id8)).st = .empty
       ∧ (getSet r (soloSet r id8)).ctx ≠ some id8 ∧ (getSet r (!soloSet r id8)).ctx ≠ some id8)
    ∧ (let r := coreRec (calendar 5 true { st := .frozen, ctx := some ⟨3, 1, 6⟩ }) 3
       (getSet r true).st = .frozen ∧ (getSet r true).ctx ≠ some id8)
    ∧ (let r := coreRec (calendar 5 true { st := .ready, ctx := some id8 }) 3
       boundaryHere (calendar 5 true { st := .ready, ctx := some id8 }) 3 = true ∧ soloSet r id8 = true ∧ (getSet r true).ctx = some id8 ∧ (getSet r true).st = .ready ∧ (getSet r false).ctx ≠ some id8)
    ∧ (getSet (coreRec (calendar 5 true { st := .loading, ctx := some id8 }) 3) true).st = .loading
    ∧ (let s := calendar 5 true { st := .parking, ctx := some id8 }
       getSet (coreRec s 3) true = { st := .parking, ctx := some id8 } ∧ (rawCtx s id8).isSome ∧ setOf s id8 ≠ none ∧ id8.core = 3 ∧ parkReady (focus s id8) = true ∧ dramOk s 1 (areaOf s.me / 128) = true ∧ s.bad = [] ∧ s.retired = []
       ∧ inSpan (Ctx.create id8) 0x200 = true)
    ∧ inTheWay (calendar 5 true {}) {} id8 = false ∧ inTheWay blocked { st := .frozen, ctx := some ⟨3, 1, 9⟩ } id8 = true ∧ boundaryHere midRow 3 = false
    ∧ boundaryHere (setCore prog 3 { CoreRec.zero with swReq := some true, setB := { st := .ready, ctx := some id8 } }) 3 = true
    ∧ (coreRec (setCore prog 3 { CoreRec.zero with spineNew := some 4, spineNext := some 5 }) 3).spineNext = some 5
    ∧ (coreRec (setCore prog 3 { CoreRec.zero with running := true, stopReq := true }) 3).stopReq = true
    ∧ (coreRec (setCore prog 3 { CoreRec.zero with swReq := some true, setB := { st := .ready, ctx := some id8 } }) 3).swReq = some true
    ∧ (coreRec (setCore prog 3 { CoreRec.zero with spineNew := some 4 }) 3).spineNew = some 4 ∧ (coreRec prog 3).spineNew = none := by decide +kernel

/-- A boundary without a present slot; a context of the core being loaded beside one in its way, and with an uncorrectable word in its area or share;
the swaps need no write-back; no copy channel runs. -/
theorem test_CalendarHypotheses_witness :
    (let r := coreRec (setCore prog 3 { CoreRec.zero with running := true }) 3
     r.running = true ∧ r.stopReq = false ∧ (∀ m < 16, slotLen (nextWord r ((r.cur.toNat + 1 + m) % 16)) = 0) ∧ slotLen (curWord r) = 0)
    ∧ (let r := coreRec (calendar 5 true {}) 3
       slotLen (curWord { r with slotsNew := [(5, 0)] }) ≠ 0 ∧ ∀ m < 16, slotLen (nextWord { r with slotsNew := [(5, 0)] } ((5 + 1 + m) % 16)) = 0)
    ∧ descValid (descOf (coreRec (calendar 5 true {}) 3) (slotA (curWord (coreRec (calendar 5 true {}) 3)))) = true
    ∧ (let s := calendar 5 true { st := .ready, ctx := some id8 }
       WaysDivide s 3 (slotRecord s (coreRec s 3) (slotNeeds 3 (coreRec s 3) (curWord (coreRec s 3)))))
    ∧ (let s := setCore prog 3 { CoreRec.zero with swReq := some true, setB := { st := .ready, ctx := some id8 } }
       WaysDivide s 3 (ctxswRecord s (coreRec s 3) true))
    ∧ (let s := setCore blocked 3 { coreRec blocked 3 with setA := { st := .loading, ctx := some id8 } }
       (getSet (coreRec s 3) false).st = .loading ∧ inTheWay s (getSet (coreRec s 3) true) id8 = true ∧ (getSet (coreRec s 3) true).st = .frozen)
    ∧ (let s := calendar 5 true { st := .loading, ctx := some id8 }
       (s.bad ++ s.retired).any (fun n => inSpan (Ctx.create id8) n && decide (n * 128 < 0x100000)) = false
       ∧ inTheWay s (getSet (coreRec s 3) false) id8 = false ∧ dramOk s 1 0 = true ∧ dramOk { s with dram := [] } 1 0 = false
       ∧ ([0x200] : List Nat).any (fun n => inSpan (Ctx.create id8) n && decide (n * 128 < 0x100000)) = true) := by
  unfold WaysDivide; decide +kernel

theorem test_ParkHypotheses_witness :
    let s := calendar 5 true { st := .parking, ctx := some id8 }
    (∃ t, parkChannels (focus s id8) = .ok t ∧ decide (parkReady t = true ∧ t.me.id = id8) = true) ∧ (getSet (coreRec s 3) false).ctx ≠ some id8
      ∧ ∀ e : BitVec 2, (getChan (focus s id8).me e).st ≠ .running :=
  ⟨helper_ok (by decide +kernel), by decide +kernel, by decide +kernel⟩

theorem test_governor :
    after (exec .epochEnd { prog with ktime := 2500 }) (fun t => (t.epochAt, t.me.cyc)) = some (5000, 0)
    ∧ after (exec .epochEnd prog) (fun t => t.epochAt) = some 2500
    ∧ after (exec (.patrolScrub 9 true) prog) (fun t => (t.bad, t.errlog)) = some ([9], [(0, 1)])
    ∧ after (exec (.preEmptionNotice 0x99) prog) (fun t => t.me.asyncs) = some [⟨0x18, 0x99, 0⟩] := by decide +kernel

/-- A packet of partition 1, and one of the monitor, that stands in the buffer of a bridge. -/
def bridged : State :=
  { prog with net := [⟨⟨2, 1, 7⟩, 1, .word ⟨3, 1, 8⟩ 2 5, [9], some 16384, 0⟩, ⟨monitorId 0, 0x40, .word ⟨3, 1, 8⟩ 2 5, [9], some 16385, 0⟩] }

theorem test_link_retry :
    after (exec (.linkRetry 0 0 false) bridged) (fun t => (partRec t 1).busy) = some true
    ∧ after (exec (.linkRetry 0 1 false) bridged) (fun t => (t.boot.phase, t.boot.code, t.net.length)) = some (0xFF, 0x0A, 1) := by decide +kernel

/-- Two partitions share spine 2 of die 0 in a paired slot. -/
def twoPartitions : State :=
  setCore prog 4 { CoreRec.zero with slots := [(0, 0x02460010)], descs := [(1, { w0 := 0x410008 }), (2, { w0 := 0x420008 })] }

/-- The module's power is a free value (DESIGN CHOICE, log 10): each of the three bands is met for some value of it. -/
theorem test_EpochsScrubsAndRetries_witness :
    prog.ktime.toNat < prog.epochAt.toNat ∧ ({ prog with ktime := 2500 } : State).epochAt.toNat ≤ (2500#64).toNat ∧ heldSpine twoPartitions 0 2 = true
    ∧ bridged.net[0]? = some ⟨⟨2, 1, 7⟩, 1, .word ⟨3, 1, 8⟩ 2 5, [9], some 16384, 0⟩ ∧ (1#7).getLsbD 6 = false ∧ (0x40#7).getLsbD 6 = true
    ∧ (∀ a ∈ prog.me.asyncs, a.kcause ≠ 0x18#9) ∧ (∃ a ∈ (withAsync true none).me.asyncs, a.kcause = 0x19#9)
    ∧ (∃ a ∈ ({ prog with me.asyncs := [⟨0x18, 1, 0⟩] } : State).me.asyncs, a.kcause = 0x18#9) ∧ partExists prog (BitVec.ofNat 7 (1 % 64)) = true := by decide +kernel

/-- The page at 0x10000 of partition 1 through the bridge of virtual function 1: its byte 7 is 0x5A. -/
theorem test_host_access :
    after (exec (.hostBar2Read 1 7 1) (withTables 0x3D true)) (fun t => t.host) = some [.data 0x5A]
    ∧ after (exec (.hostBar2Read 1 0x20000 1) (withTables 0x3D true)) (fun t => t.host) = some [.unsupported]
    ∧ after (exec (.hostBar2Write 1 0x10 2 0xABCD) (withTables 0x3D true)) (fun t => memNat t.mem 0x10010 2) = some 0xABCD
    ∧ after (exec (.hostBar2Read 2 7 1) (withTables 0x3D true)) (fun t => t.host) = some [.unsupported]
    ∧ after (exec (.functionLevelReset 1) (withTables 0x3D true)) (fun t => (partRec t 1).busy) = some true
    ∧ after (exec (.pfBar2Access true 0x440 0x18) State.reset) (fun t => t.mem) = some [(0x440, 0x18)] := by decide +kernel

/-- The module in a start phase. -/
def inBoot (ph : Byte) : State := { State.reset with boot := ⟨ph, 0, false, false, false⟩ }

theorem test_start_phases :
    after (exec (.powerSequencing true) State.reset) (fun t => t.boot.phase) = some 2 ∧ after (exec (.powerSequencing false) State.reset) (fun t => (t.boot.phase, t.boot.code)) = some (0xFF, 1)
    ∧ after (exec (.clockLock true) (inBoot 2)) (fun t => t.boot.phase) = some 3 ∧ after (exec (.selfTest true true) (inBoot 3)) (fun t => t.boot.phase) = some 4
    ∧ after (exec (.selfTest true false) (inBoot 3)) (fun t => t.boot.code) = some 4 ∧ after (exec (.dramTraining true 0) (inBoot 4)) (fun t => t.boot.phase) = some 5
    ∧ after (exec .bootcmdColdStart (inBoot 5)) (fun t => t.boot.phase) = some 6 ∧ after (exec .monitorRequestedHalt (inBoot 7)) (fun t => (t.boot.phase, t.boot.code, t.boot.halted)) = some (0xFF, 0x0B, true)
    ∧ after (exec .imageCheck (inBoot 6)) (fun t => (t.boot.phase, t.boot.code)) = some (0xFF, 6)
    ∧ after (exec .monitorStart (inBoot 7)) (fun t => (t.me.id.core, t.others.length, t.me.regs.ks.priv)) = some (511, 7, 2) := by decide +kernel

/-- Which keys the boot ROM holds is open (DESIGN CHOICE, log 102): in phase 6 with a good header exactly one of the two clauses applies. -/
theorem test_TheHostStartsAndReadsTheModule_witness :
    (∀ p ∈ [(1 : Nat), 2, 3, 4, 5, 6, 7, 0xFF], (inBoot (BitVec.ofNat 8 p)).boot.phase = BitVec.ofNat 8 p)
    ∧ (prog.boot.phase = 7#8 ∧ partExists (withTables 0x3D true) (0#1 ++ 1#6) = true ∧ partExists (withTables 0x3D true) (0#1 ++ 2#6) = false)
    ∧ (∀ k < 8, hostByte (withTables 0x3D true) 1 k needRead = .ok (0x10000 + k) ∧ badLine (withTables 0x3D true) (0x10000 + k) = false)
    ∧ (∀ k < 8, hostByte (withTables 0x3D true) 1 k needWrite = .ok (0x10000 + k)) ∧ hostByte (withTables 0x3D true) 1 0x20000 needRead = .error .refused
    ∧ hostByte (withTables 0x3E true) 1 0 needRead = .error (.pull 0) ∧ hostByte (withTables 0x35 true) 1 0 needWrite = .error .refused
    ∧ (let s := { withTables 0x3D true with dram := [] }
       readState s 1 0x200 ≠ .go)
    ∧ readState (withTables 0x3D true) (0#1 ++ 1#6) 0x200 = .go ∧ homeState (withTables 0x3D true) (0#1 ++ 1#6) 0x200 (homeLine (memPut (withTables 0x3D true).mem 0x10000 8 5) 0x200) = .go
    ∧ badLine { withTables 0x3D true with bad := [0x200] } 0x10000 = true ∧ (coreRec (inBoot 7) 3).mvec = none ∧ (inBoot 7).boot.started = false ∧ (inBoot 4).modules = 1#7
    ∧ (∀ x ∈ ({ inBoot 7 with l2 := [⟨0x200, 1, 0, false, true, 5⟩] } : State).l2, x.dirty = true)
    ∧ headerOk (inBoot 6) = false ∧ (coreRec (inBoot 7) 511).setA.ctx = none := by decide +kernel
/-- An image header: its magic, length 0, entry 0x440. -/
def header : State := { inBoot 6 with mem := [(0, 0x4B), (1, 0x57), (2, 0x4A), (3, 0x4F), (16, 0x40), (17, 0x04)] }

theorem test_header : headerOk header = true ∧ header.boot.phase = 6 ∧ header.boot.warm = false ∧ ({ header with boot.warm := true } : State).boot.warm = true := by
  decide +kernel

/-- A park writes KEVAL and the window share to the save area and empties the set; the load brings them back (15 R349, R353). -/
def parkedOut : Option State :=
  match exec (.contextParkComplete 3 true) { calendar 5 true { st := .parking, ctx := some id8 } with win := [(winKey 3 5, 0x66)] } with
  | .next t => some t
  | _ => none

theorem test_park : parkedOut.map (fun t => (areaWord t.mem 0 0x010018, memByte t.mem 0x100005, (coreRec t 3).setB.st)) = some (0x77, 0x66, .empty) := by decide +kernel

/-- The digest of "abc" (FIPS 180-4's own example). -/
theorem test_sha384 : sha384 [0x61, 0x62, 0x63]
    = 0xCB00753F45A35E8BB5A03D699AC65007272C32AB0EDED1631A8B605A43FF5BED8086072BA1E7CC2358BAECA134C825A7 := by decide +kernel
/-! ## More witnesses -/

/-- A slot shared by two contexts of core 511; a switch of its spine under way. -/
def pairedCore : State := setMyCore base { myCore base with paired := true }
def switching : State := setMyCore base { myCore base with spineNew := some 4 }

theorem test_HandlersAndReturns_witness :
    (∃ p ∈ withLoad.me.pend, p.entry = 0 ∧ isLoadClass p = true) ∧ base.me.lateBad = [] ∧ base.me.l1 = []
    ∧ (priv (returning 1 0x1002) = 1#2 ∧ (returning 1 0x1002).me.regs.ks.ppriv.toNat < 2)
    ∧ ((returning 1 0x1000000000000).me.sys.kepc.toNat % 4 = 0 ∧ 2 ^ 48 ≤ (returning 1 0x1000000000000).me.sys.kepc.toNat)
    ∧ (myCore (setMyCore base { myCore base with mepc := 0x2002 })).mepc.toNat % 4 ≠ 0
    ∧ ((myCore (setMyCore base { myCore base with mepc := 0x1000000000000 })).mepc.toNat % 4 = 0 ∧ 2 ^ 48 ≤ (myCore (setMyCore base { myCore base with mepc := 0x1000000000000 })).mepc.toNat)
    ∧ (myCore pairedCore).paired = true ∧ (myCore base).paired = false ∧ (myCore base).spineNew = none ∧ (myCore switching).spineNew ≠ none
    ∧ (0x059#64).extractLsb' 8 3 = (myCore base).spine := by decide +kernel

/-- KSTATE's spine starts a switch, follows the one in progress, and is only recorded in a paired slot (01 R10, 05 R110). -/
theorem test_spine_writes :
    after (exec (.mts 1 0x000) (with2 0x559 0)) (fun t => (myCore t).spineNew) = some (some 5)
    ∧ after (exec (.mts 1 0x000) (writeG switching 1 0x059)) (fun t => ((myCore t).spineNew, (myCore t).spineNext)) = some (some 4, some 0)
    ∧ after (exec (.mts 1 0x000) (writeG pairedCore 1 0x559)) (fun t => ((myCore t).spineNew, t.me.sys.spine)) = some (none, 5) := by decide +kernel

theorem test_FillsAndQueues_witness :
    fillsFreely (withTables 0x3D false) 0x200 = true ∧ otherCtx prog = none
    ∧ 63 ≤ copiesOut (engine 0x80 Chan.zero (List.replicate 63 (req .waiting none))).me
    ∧ (getChan (engine 0x80 Chan.zero (List.replicate 63 (req .waiting none))).me 0).st = .idle
    ∧ cellWidth (cell 3 0x104 0 []).me 0 * laneNum (cell 3 0x104 0 []).me 0 ≤ 64 := by decide +kernel
/-! ## Further clauses -/

/-- Formats, and a NaN of each kind, an infinity and a finite operand of binary32; one that rounds and one that is exact. -/
theorem test_Roundings_witness :
    floatCodeOk 1 = true ∧ floatCodeOk 5 = true ∧ flOf (fmtOf 1) 0x7FC00000 = .nan false ∧ flOf (fmtOf 1) 0x7F800001 = .nan true
    ∧ flOf (fmtOf 1) 0xFF800000 = .inf true ∧ (∃ m e, flOf (fmtOf 1) 0x3F800000 = .fin false m e ∧ m ≠ 0)
    ∧ ((0 : Int) < 3 ∧ (0 : Int) ≤ 0 ∧ (5 : Nat) % 2 ^ (3 - 0 : Int).toNat ≠ 0) ∧ (-128 : Int) ≤ -5 ∧ ((0xFB : Nat) : Int) % 2 ^ 8 = (-5) % 2 ^ 8 :=
  ⟨by decide +kernel, by decide +kernel, by decide +kernel, by decide +kernel, by decide +kernel, ⟨_, _, rfl, by decide +kernel⟩, by decide, by decide, by decide⟩

/-- A calendar whose boundary is due when it is stopped, for the first time and again; the core list of a partition that is created. -/
theorem test_StopsAndCreations_witness :
    boundaryDue (calendar 2 false {}) 3 = true ∧ (coreRec (calendar 2 false {}) 3).stopReq = false
    ∧ (let s := setCore (calendar 2 false {}) 3 { coreRec (calendar 2 false {}) 3 with stopReq := true }
       boundaryDue s 3 = true ∧ (coreRec s 3).stopReq = true)
    ∧ boundaryDue (calendar 5 true { st := .ready, ctx := some id8 }) 4 = false
    ∧ (partRec prog 5).coreList = [] ∧ 2 ^ 12 ≤ 0x1005 ∧ 0x1005 < 2 ^ 13 ∧ isMonitorCore (BitVec.ofNat 12 0x1005) = false
    ∧ (partRec prog 1).coreList ≠ [] ∧ (∀ y ∈ (partRec prog 1).coreList, y.1 ≠ 2 → y.2 ≠ (BitVec.ofNat 12 0x1005 : CoreId)) := by decide +kernel

/-- A launch word held behind its inbox, with its entry bound and not; the image 0 of entry 0 beside a queued fault. -/
def heldLaunch (image : Word) : Ctx :=
  { setEntry prog.me 2 { Entry.zero with image := image } with held := [{ ch := 5, val := 0x33, launch := some (2, 3) }] }

theorem test_HeldLaunches_witness :
    (heldLaunch 0x022A000000000100).held.find? (fun h => h.ch = 5) = some { ch := 5, val := 0x33, launch := some (2, 3) }
    ∧ (inboxOf (heldLaunch 0x022A000000000100) 5).length < 4 ∧ boundEntry (heldLaunch 0x022A000000000100) 5 = some 2 ∧ boundEntry (heldLaunch 0x100) 5 = none
    ∧ (∀ j, (getEntry (heldLaunch 0x022A000000000100) j).image.getLsbD 57 = true → (getEntry (heldLaunch 0x022A000000000100) j).image.extractLsb' 51 6 = 5 → j = 2)
    ∧ (getEntry (heldLaunch 0x022A000000000100) 2).st = .idle ∧ (getEntry (heldLaunch 0x022A000000000100) 2).cause = none := by decide +kernel

theorem test_HeldItems_witness :
    withQueued.me.faults ≠ [] ∧ (0 : Word).toNat % 2 ^ 60 = 0 ∧ (getEntry withQueued.me 0).image.toNat % 2 ^ 60 ≠ 0
    ∧ (let s := { withQueued with me := setEntry withQueued.me 0 { Entry.zero with st := .runnable } }
       (getEntry s.me 0).image.toNat % 2 ^ 60 = 0 ∧ (getEntry s.me 0).resume = false ∧ s.me.run = none) := by decide +kernel

/-- An atomic outstanding at an arrival; the last arrival at a barrier that is linked to counter 5. -/
theorem test_LinkedBarriers_witness :
    atomicsOut (withAtomic (.store 5)) = true ∧ regionPending (withAtomic (.store 5)) = false ∧ atomicsOut own = false
    ∧ (barGet (ownBar ⟨2, 1, 9, 0x1005⟩) 0x40 2).arrived + 1 = 2 ∧ (barGet (ownBar ⟨2, 1, 9, 0x1005⟩) 0x40 2).link.getLsbD 12 = true
    ∧ after (exec (.bar 3 1) (writeG (barPut (ownDc (dc0 1 false)) 0x40 2 ⟨2, 1, 9, 0x1005⟩) 1 2)) (fun t => ((dcGet t 0x40 5).count, barGet t 0x40 2))
        = some (0, ⟨2, 0, 10, 0x1005⟩) := by decide +kernel

/-! ### Fabric -/

/-- Float RED: 1.0 is added to an open sum 1.0, exactly and, in another cell, inexactly; a null element and a signalling NaN. -/
def one1 : ElemSt := { ElemSt.zero with acc := 0x3F800000, used := true, isOpen := true }

def nullGroup : State := { group 0x38 0x104 0 sum7 [tokNull] with me.fab.checks := [(inKey 0 0, afterG)] }

theorem test_float_groups :
    after (exec (.cellRed 0) (group 0x38 0x001 0 one1 [tokD 0x3F800000])) (fun t => (elemOf t.me 0).acc) = some 0x40000000
    ∧ after (exec (.cellRed 0) (group 0x38 0x001 0 one1 [tokD 0x7F800001])) (fun t => (graphIs t 3).map (fun g => (g.state, g.cause))) = some (some (2, 0x0D)) := by
  decide +kernel

theorem test_FloatGroups_witness :
    (Stands (group 0x38 0x001 0 one1 [tokD 0x3F800000]) 0 0x38
      ∧ Pairs (pulled (group 0x38 0x001 0 one1 [tokD 0x3F800000]) 0) 0 (cellNeeds 0x38) [(0, some (tokD 0x3F800000))] (tokD 0x3F800000))
    ∧ (let c := pulled (group 0x38 0x001 0 one1 [tokD 0x3F800000]) 0
       isInt c 0 = false ∧ faultMode c 0 = 0#16 ∧ (cellConst c 0).toNat % 4 ≤ 2 ∧ cellWidth c 0 * laneNum c 0 ≤ 64
       ∧ (fAdd (fmtOf 1) 0 false (flOf (fmtOf 1) 0x3F800000) (flOf (fmtOf 1) 0x3F800000)).flags &&& 7#5 = 0#5
       ∧ (fAdd (fmtOf 1) 0 false (flOf (fmtOf 1) 0x3F800000) (flOf (fmtOf 1) 0x7F800001)).flags &&& 7#5 ≠ 0#5)
    ∧ (Stands nullGroup 0 0x38 ∧ Pairs (pulled nullGroup 0) 0 (cellNeeds 0x38) [(0, some tokNull)] tokNull) :=
  ⟨helper_fires (by decide +kernel), by decide +kernel, helper_fires (by decide +kernel)⟩

/-- A WTAP cell of binary32, and a window unit whose line queue holds an uncorrectable word. -/
def ftap : State :=
  { wtap with me.fab.cfg := [(0, 0x48), (1, 0x001), (5, 2), (6, 0xA801), (7, 0x14)], me.fab.queues := [(inKey 0 3, [tokD 0x3F800000]), (inKey 0 4, [tokD 0x3F800000])] }

def lostUnit : State := { windowUnit (row1 [] []) [tokD 0x33] with winBad := [winKey 2 0 / 8] }

theorem test_FloatTaps_witness :
    east (.cellWtap 0) ftap = some [tokD 0x40000000] ∧ Stands ftap 0 0x48 ∧ isInt (pulled ftap 0) 0 = false ∧ faultMode (pulled ftap 0) 0 = 0#16
    ∧ (let c := pulled lostUnit 0
       lineLost (acting lostUnit 0) (region c (shapeOf c 0).region) (shapeOf c 0) (winOf c 0) 0 = some 0)
    ∧ retireOverflow lostUnit (some (winLine (winKey 2 0))) = false ∧ Stands lostUnit 0 0x49 := by unfold Stands; decide +kernel

/-- It is the turn of a routed token; and not while an input of another direction waits. -/
theorem test_InTurn_witness :
    InTurn (pulled (router 1 [tokD 5] [] ElemSt.zero []) 0x80) 0x80 [0] [0] (elemOf (pulled (router 1 [tokD 5] [] ElemSt.zero []) 0x80) 0x80)
    ∧ InTurn (pulled (router 2 [tokD 5] [] ElemSt.zero [true]) 0x80) 0x80 [0] [0, 1] (elemOf (pulled (router 2 [tokD 5] [] ElemSt.zero [true]) 0x80) 0x80) := by
  unfold InTurn; decide +kernel

/-- CARRY with an emitted stop at its input, which either control token finds there. -/
theorem test_CarryStop_witness :
    Head (pulled (router 4 [tokStop 1] [] (inPhase 3) [false]) 0x80) 0x80 0 (tokStop 1) ∧ ctlOf (pulled (router 4 [tokStop 1] [] (inPhase 3) [false]) 0x80) (ctlBuffer 0x80) = false :: []
    ∧ Head (pulled (router 4 [tokStop 1] [] (inPhase 3) [true]) 0x80) 0x80 0 (tokStop 1)
    ∧ after (exec (.carry 0) (router 4 [tokStop 1] [] (inPhase 3) [true])) (fun t => ((graphIs t 3).map (fun g => (g.state, g.cause)), queueOf t.me (inKey 0x80 0)))
        = some (some (2, 0x0B), [tokStop 1]) :=
  ⟨helper_heads (by decide +kernel), by decide +kernel, helper_heads (by decide +kernel), by decide +kernel⟩

/-- A send port of a channel whose token is no data, and a destination that is on no calendar. -/
theorem test_SendPortForms_witness :
    portField (sender 0x100 8 (tokStop 1) .active).me 0 3 / 256 % 2 = 1 ∧ (tokStop 1).isData = false
    ∧ after (exec (.route 0) (sender 0x100 8 (tokStop 1) .active)) (fun t => (t.net.length, queueOf t.me (inKey 0x80 0))) = some (0, [])
    ∧ (let s := setCore (sender 0 8 (tokD 5) .frozen) 3 { coreRec (sender 0 8 (tokD 5) .frozen) 3 with slots := [] }
       isPlaced s ⟨3, 1, 8⟩ = false ∧ isActive s ⟨3, 1, 8⟩ = false ∧ (findCtx s ⟨3, 1, 8⟩).isSome) := by decide +kernel

/-- A reception log with room whose record can be written, in an area that counts its records and in one that does not. -/
theorem test_ReceptionLog_witness :
    let s := arriving ⟨3, 1, 8⟩ (port2 [] [] 0 0) 0
    (∀ c ∈ s.others, logCount s c < 4096) ∧ (∀ c ∈ s.others, c.id = ⟨3, 1, 8⟩ → writable (focus s ⟨3, 1, 8⟩) (areaOf c) 16 (memPut s.mem (areaOf c) 16 5) = true)
    ∧ inArea s ⟨3, 1, 8⟩ = false ∧ inArea s ⟨3, 1, 9⟩ = true := by decide +kernel

/-! ### Engines and the array -/

/-- A cancel of a record that is not owned; one whose record cannot be written, for the first time and again. -/
def farChan (lost : Bool) : State :=
  { engine 0x80 { chan0 .halted none 0 with addr := 0x1004, lost := lost } [] with me.regs.ks.priv := 1 }

def farReq (lost : Bool) : Xreq := { req .running (some (wordsX.set 6 0x3044)) with lost := lost }

theorem test_Cancels_witness :
    (∃ x, withProgress (engine 0 (chan0 .running none 0) []) (chan0 .running none 0) = .ok x ∧ decide (x.2 = false) = true)
    ∧ (∃ t, recordWrite (farChan false) 1 0x1004 0 0 7 = .error (.fault t) ∧ t.cause = 0x03 ∧ t.line = none)
    ∧ (getChan (farChan false).me 0).lost = false ∧ (getChan (farChan true).me 0).lost = true ∧ retireOverflow (farChan false) none = false
    ∧ (∃ t, xformRecord (engine 0x80 Chan.zero [farReq false]) (farReq false) 7 = .error (.fault t) ∧ t.cause = 0x03 ∧ t.line = none)
    ∧ (farReq false).lost = false ∧ (farReq true).lost = true :=
  ⟨helper_ok (by decide +kernel), helper_failsWith (by decide +kernel), by decide +kernel, by decide +kernel, by decide +kernel, helper_failsWith (by decide +kernel),
    by decide, by decide⟩

/-- A row of E4M3 in a whole tile. -/
theorem test_Fp8Rows_witness :
    (geoOf (array 2 0x804 [] []).me).kind = .fp8 ∧ mxFormatOk 0x804 = true ∧ ((row5 8).tag.getD Tag.zero).part = 0#2
    ∧ trapColumn (geoOf (array 2 0x804 [] []).me) ((List.range 16).map (column Mx.zero (geoOf (array 2 0x804 [] []).me) { row5 8 with image := [], met := [] })) = none := by
  decide +kernel

/-- A MERGE whose input 1 is empty, with an X at the router that feeds it. -/
def merging : State :=
  let s := router 3 [tokD 5] [] (inPhase 1) [true]
  { s with me.fab.cfg := (0x80 * 64 + 3, 0x1040) :: (0x81 * 64, 1) :: (0x81 * 64 + 2, 0x2001) :: (0x81 * 64 + 5, 8) :: s.me.fab.cfg
           me.fab.queues := (inKey 0x81 0, [⟨3, 9⟩]) :: s.me.fab.queues }

def showsNothing (c : Ctx) (e : Nat) (slots : List Nat) : Bool :=
  match headsOf c e slots with
  | .error .wait => true
  | _ => false

theorem helper_nothing {c : Ctx} {e : Nat} {slots : List Nat} (h : showsNothing c e slots = true) : headsOf c e slots = .error .wait := by
  unfold showsNothing at h
  split at h
  · assumption
  · cases h

theorem test_MergeWaits_witness :
    (Stands merging 0x80 3 ∧ headsOf (pulled merging 0x80) 0x80 [1] = .error .wait ∧ xComing (pulled merging 0x80) 0x80 1 = true)
    ∧ (headsOf (pulled (router 3 [tokD 5] [] (inPhase 1) [true]) 0x80) 0x80 [1] = .error .wait
      ∧ xComing (pulled (router 3 [tokD 5] [] (inPhase 1) [true]) 0x80) 0x80 1 = false)
    ∧ after (exec (.merge 0) merging) (fun t => queueOf t.me (inKey 0x80 0)) = some [tokD 5] := by
  refine ⟨⟨by unfold Stands; decide +kernel, helper_nothing (by decide +kernel), by decide +kernel⟩, ⟨helper_nothing (by decide +kernel), by decide +kernel⟩, by decide +kernel⟩
end Sys2Proof.Tests
end

section
/-! PROOFS. Core calendars and context sets (O58): the turn of the slots, the loads that a slot asks for, the swap of the sets, and the save
areas that a park writes and a load reads back. -/

namespace Sys2Proof.Machine

open Sys2Proof.Claims

/-! ## The turn of a calendar's slots (01 R26, 13 R316) -/

/-! ### What the events of a calendar call -/

theorem exec_calendarSlotBoundary (s : State) (c : CoreId) : exec (.calendarSlotBoundary c) s = .next (slotBoundary s c) := rfl
theorem exec_contextLoadStart (s : State) (c : CoreId) : exec (.contextLoadStart c) s = .next (loadStart s c) := rfl
theorem exec_contextLoadComplete (s : State) (c : CoreId) (b : Bool) : exec (.contextLoadComplete c b) s = .next (loadComplete s c b) := rfl
theorem exec_contextParkComplete (s : State) (c : CoreId) (b : Bool) : exec (.contextParkComplete c b) s = .next (parkComplete s c b) := rfl
theorem exec_tokenBoundarySwap (s : State) (c : CoreId) : exec (.tokenBoundarySwap c) s = .next (tokenSwap s c) := rfl
theorem exec_spineSwitchComplete (s : State) (c : CoreId) : exec (.spineSwitchComplete c) s = .next (spineDone s c) := rfl

/-! ### Sets and records -/

@[simp] theorem getSet_putSet_self (r : CoreRec) (b : Bool) (x : SetRec) : getSet (putSet r b x) b = x := by cases b <;> rfl
@[simp] theorem getSet_putSet_not (r : CoreRec) (b : Bool) (x : SetRec) : getSet (putSet r b x) (!b) = getSet r (!b) := by cases b <;> rfl
@[simp] theorem getSet_not_putSet (r : CoreRec) (b : Bool) (x : SetRec) : getSet (putSet r (!b) x) b = getSet r b := by cases b <;> rfl

/-- A record put back changes that core alone. -/
theorem onlyCore_setCore (s : State) (c : CoreId) (r : CoreRec) : OnlyCore s (setCore s c r) c :=
  ⟨rfl, fun _ hk => coreRec_setCore_ne s r hk⟩

/-! ### The next present slot -/

theorem nextSlot_eq_some {r : CoreRec} {i k : Nat} (hk : k < 16) (hidle : ∀ m < k, slotLen (nextWord r ((i + 1 + m) % 16)) = 0)
    (hw : slotLen (nextWord r ((i + 1 + k) % 16)) ≠ 0) : nextSlot r i = some ((i + 1 + k) % 16) := by
  have hfind : (List.range 16).find? (fun m => decide (slotLen (nextWord r ((i + 1 + m) % 16)) ≠ 0)) = some k := by
    rw [List.find?_range_eq_some]
    exact ⟨by simpa using hw, by simpa using hk, fun m hm => by simpa using hidle m hm⟩
  unfold nextSlot
  rw [List.find?_map, Function.comp_def, hfind]
  rfl

theorem nextSlot_eq_none {r : CoreRec} {i : Nat} (hidle : ∀ m < 16, slotLen (nextWord r ((i + 1 + m) % 16)) = 0) : nextSlot r i = none := by
  unfold nextSlot
  simpa using hidle

/-! ### Entering a slot -/

@[simp] theorem enterSlot_slots (r : CoreRec) (i : Nat) (t : Word) : tabGet 0 (enterSlot r i t).slots i = nextWord r i := tabGet_put_self ..
@[simp] theorem enterSlot_nextAt (r : CoreRec) (i : Nat) (t : Word) :
    (enterSlot r i t).nextAt = t + BitVec.ofNat 64 (slotLen (nextWord r i) * 25000) := rfl

theorem enterSlot_cur (r : CoreRec) {i : Nat} (hi : i < 16) (t : Word) : (enterSlot r i t).cur.toNat = i := by
  simp [enterSlot, Nat.mod_eq_of_lt hi]

theorem curWord_enterSlot (r : CoreRec) {i : Nat} (hi : i < 16) (t : Word) : curWord (enterSlot r i t) = nextWord r i := by
  rw [curWord, enterSlot_cur r hi, enterSlot_slots]

/-! ### The boundary -/

section
variable {s : State} {c : CoreId}

/-- The time of a calendar's next boundary has come. -/
def TimeUp (s : State) (c : CoreId) : Prop := (coreRec s c).running = true ∧ (coreRec s c).nextAt.toNat ≤ s.ktime.toNat

theorem boundaryDue_of_timeUp (h : TimeUp s c) :
    boundaryDue s c = ((coreRec s c).stopReq || (nextSlot (coreRec s c) (coreRec s c).cur.toNat).isSome || slotLen (curWord (coreRec s c)) != 0) := by
  obtain ⟨hrun, hat⟩ := h
  simp [boundaryDue, hrun, hat]

theorem slotBoundary_of_not_due (h : boundaryDue s c = false) : slotBoundary s c = s := by
  unfold slotBoundary; simp [h]

theorem slotBoundary_early (h : ¬ TimeUp s c) : slotBoundary s c = s := by
  refine slotBoundary_of_not_due ?_
  unfold boundaryDue
  unfold TimeUp at h
  simp only [Bool.and_eq_false_iff, decide_eq_false_iff_not]
  cases hrun : (coreRec s c).running with
  | false => exact .inl (.inl rfl)
  | true => exact .inl (.inr fun hat => h ⟨hrun, hat⟩)

theorem slotBoundary_stop (h : TimeUp s c) (hstop : (coreRec s c).stopReq = true) :
    slotBoundary s c = setCore s c { coreRec s c with running := false, stopReq := false } := by
  have hdue : boundaryDue s c = true := by simp [boundaryDue_of_timeUp h, hstop]
  unfold slotBoundary; simp [hdue, hstop]

theorem slotBoundary_enters (h : TimeUp s c) (hstop : (coreRec s c).stopReq = false)
    (hgo : (nextSlot (coreRec s c) (coreRec s c).cur.toNat).isSome = true ∨ slotLen (curWord (coreRec s c)) ≠ 0) :
    slotBoundary s c = setCore s c (enterSlot (coreRec s c) ((nextSlot (coreRec s c) (coreRec s c).cur.toNat).getD (coreRec s c).cur.toNat)
      (if slotLen (curWord (coreRec s c)) = 0 then s.ktime else (coreRec s c).nextAt)) := by
  have hdue : boundaryDue s c = true := by
    rw [boundaryDue_of_timeUp h, hstop]
    rcases hgo with hgo | hgo <;> simp [hgo]
  unfold slotBoundary; simp [hdue, hstop]

/-- The next present slot begins, where the last one ended, or at once where the calendar stood idle (log 98). -/
theorem slotBoundary_next {k : Nat} (h : TimeUp s c) (hstop : (coreRec s c).stopReq = false) (hk : k < 16)
    (hidle : ∀ m < k, slotLen (nextWord (coreRec s c) (((coreRec s c).cur.toNat + 1 + m) % 16)) = 0)
    (hw : slotLen (nextWord (coreRec s c) (((coreRec s c).cur.toNat + 1 + k) % 16)) ≠ 0) :
    slotBoundary s c = setCore s c (enterSlot (coreRec s c) (((coreRec s c).cur.toNat + 1 + k) % 16)
      (if slotLen (curWord (coreRec s c)) = 0 then s.ktime else (coreRec s c).nextAt)) := by
  have hnext := nextSlot_eq_some hk hidle hw
  rw [slotBoundary_enters h hstop (.inl (by simp [hnext])), hnext]
  rfl

/-- A calendar without a present slot whose current slot was idle stands still. -/
theorem slotBoundary_idle (h : TimeUp s c) (hstop : (coreRec s c).stopReq = false)
    (hidle : ∀ m < 16, slotLen (nextWord (coreRec s c) (((coreRec s c).cur.toNat + 1 + m) % 16)) = 0)
    (hcur : slotLen (curWord (coreRec s c)) = 0) : slotBoundary s c = s :=
  slotBoundary_of_not_due (by simp [boundaryDue_of_timeUp h, hstop, nextSlot_eq_none hidle, hcur])

/-- A calendar whose last present slot has gone enters its current slot, which is idle now. -/
theorem slotBoundary_runsOut (h : TimeUp s c) (hstop : (coreRec s c).stopReq = false)
    (hidle : ∀ m < 16, slotLen (nextWord (coreRec s c) (((coreRec s c).cur.toNat + 1 + m) % 16)) = 0)
    (hcur : slotLen (curWord (coreRec s c)) ≠ 0) :
    slotBoundary s c = setCore s c (enterSlot (coreRec s c) (coreRec s c).cur.toNat (coreRec s c).nextAt) := by
  rw [slotBoundary_enters h hstop (.inr hcur), nextSlot_eq_none hidle, if_neg hcur]
  rfl

/-- After fifteen slots the sixteenth is the current one again. -/
theorem nextWord_cur_idle {r : CoreRec} (hidle : ∀ m < 16, slotLen (nextWord r ((r.cur.toNat + 1 + m) % 16)) = 0) :
    slotLen (nextWord r r.cur.toNat) = 0 := by
  have h := hidle 15 (by decide)
  rwa [show (r.cur.toNat + 1 + 15) % 16 = r.cur.toNat by have := r.cur.isLt; omega] at h

end

/-! ### The spine (01 R10) -/

theorem spineDone_none {s : State} {c : CoreId} (h : (coreRec s c).spineNew = none) : spineDone s c = s := by
  simp only [spineDone, h]

theorem spineDone_last {s : State} {c : CoreId} {x : BitVec 3} (h : (coreRec s c).spineNew = some x)
    (hnext : (coreRec s c).spineNext = none ∨ (coreRec s c).spineNext = some x) :
    spineDone s c = setCore s c { coreRec s c with spine := x, spineNew := none, spineNext := none, entering := false } := by
  rcases hnext with hnext | hnext <;> simp [spineDone, h, hnext]

theorem spineDone_again {s : State} {c : CoreId} {x y : BitVec 3} (h : (coreRec s c).spineNew = some x)
    (hnext : (coreRec s c).spineNext = some y) (hne : y ≠ x) :
    spineDone s c = setCore s c { coreRec s c with spine := x, spineNew := some y, spineNext := none } := by
  simp [spineDone, h, hnext, hne]

/-! ### The end of a containment event (16 R367) -/

theorem exec_containmentComplete_busy {s : State} {p : BitVec 6} (h : (partRec s p).busy = true) :
    exec (.containmentComplete p) s = .next (setPart s p { partRec s p with busy := false }) := by
  show execContainmentComplete p s = _
  unfold execContainmentComplete; rw [if_pos h]

/-! ## Loads that a slot asks for (01 R27, R30) -/

section
variable {s : State} {c : CoreId} {b : Bool} {id : CtxId} {w : BitVec 32}

/-- The context that the current slot names alone, and the set in which it is to run (01 R27). -/
def SoloSlot (s : State) (c : CoreId) (b : Bool) (id : CtxId) : Prop :=
  slotNeeds c (coreRec s c) (curWord (coreRec s c)) = [(b, id)]

theorem soloSlot_of_descriptor (hkind : slotKind (curWord (coreRec s c)) = 1#2)
    (hvalid : descValid (descOf (coreRec s c) (slotA (curWord (coreRec s c)))) = true)
    (hid : id = descCtx c (descOf (coreRec s c) (slotA (curWord (coreRec s c))))) (hb : b = soloSet (coreRec s c) id) :
    SoloSlot s c b id := by
  subst hb hid
  simp [SoloSlot, slotNeeds, hkind, hvalid]

/-- At a boundary, the fetch of the sets that the current slot needs. -/
theorem loadStart_solo (hbd : (coreRec s c).boundary = true) (hsolo : SoloSlot s c b id) :
    loadStart s c = setCore s c (fetchSet s (coreRec s c) (b, id)) := by
  simp only [loadStart, hbd, if_true]
  rw [hsolo]; rfl

section
variable {r : CoreRec} (hctx : (getSet r b).ctx ≠ some id)
include hctx

theorem fetchSet_rest (hst : (getSet r b).st = .ready ∨ (getSet r b).st = .frozen) :
    fetchSet s r (b, id) = putSet r b { getSet r b with st := .parking } := by
  rcases hst with hst | hst <;> simp [fetchSet, hctx, hst]

theorem fetchSet_loads (hst : (getSet r b).st = .empty) (hother : (getSet r (!b)).ctx ≠ some id)
    (hfree : inTheWay s (getSet r (!b)) id = false) :
    fetchSet s r (b, id) = putSet r b { getSet r b with st := .loading, ctx := some id } := by
  simp [fetchSet, hctx, hst, hother, hfree]

theorem fetchSet_parksOther (hst : (getSet r b).st = .empty) (hother : (getSet r (!b)).ctx ≠ some id)
    (hway : inTheWay s (getSet r (!b)) id = true) (hrest : (getSet r (!b)).st = .frozen ∨ (getSet r (!b)).st = .ready) :
    fetchSet s r (b, id) = putSet r (!b) { getSet r (!b) with st := .parking } := by
  simp [fetchSet, hctx, hst, hother, hway, hrest]

end

/-! ## When a swap is made (01 R28 to R30, 06 R137) -/

/-- A set at rest: what a swap may make Active. -/
def AtRest (x : SetRec) : Prop := x.st = .ready ∨ x.st = .frozen

theorem setReady_of_atRest {r : CoreRec} (hctx : (getSet r b).ctx = some id) (hrest : AtRest (getSet r b)) : setReady r (b, id) = true := by
  rcases hrest with hst | hst <;> simp [setReady, hctx, hst]

/-- A core has a swap before it that makes its record n, and that goes where the ways then divide (log 98). -/
def Asks (s : State) (c : CoreId) (n : CoreRec) : Prop :=
  swapRecord s c = (some n).filter (fun n => trimsGo (setCore s c n) (setCtxs n))

theorem Asks.goes {n : CoreRec} (h : Asks s c n) (hways : WaysDivide s c n) : swapRecord s c = some n := by
  unfold Asks at h; rw [h]; simpa [Option.filter, WaysDivide] using hways

theorem Asks.held {n : CoreRec} (h : Asks s c n) (hways : ¬ WaysDivide s c n) : swapRecord s c = none := by
  unfold Asks at h; rw [h]; simpa [Option.filter, WaysDivide] using hways

/-- With its one context at rest in its set, a slot asks for its swap. -/
theorem asks_solo (hbd : (coreRec s c).boundary = true) (hsolo : SoloSlot s c b id) (hctx : (getSet (coreRec s c) b).ctx = some id)
    (hrest : AtRest (getSet (coreRec s c) b)) :
    Asks s c (slotRecord s (coreRec s c) (slotNeeds c (coreRec s c) (curWord (coreRec s c)))) := by
  have hgoes : swapGoes s (coreRec s c) [(b, id)] = true := by simp [swapGoes, setReady_of_atRest hctx hrest]
  simp only [Asks, swapRecord, hbd, if_true]
  rw [hsolo, if_pos hgoes]

/-- While the set of a slot's one context is Loading, no swap is due. -/
theorem swapRecord_loading (hbd : (coreRec s c).boundary = true) (hsolo : SoloSlot s c b id) (hctx : (getSet (coreRec s c) b).ctx = some id)
    (hst : (getSet (coreRec s c) b).st = .loading) : swapRecord s c = none := by
  have hgoes : swapGoes s (coreRec s c) [(b, id)] = false := by simp [swapGoes, setReady, setBlocked, hctx, hst]
  simp only [swapRecord, hbd, if_true]
  rw [hsolo, if_neg (by simp [hgoes])]
  rfl

/-- A running calendar alone swaps the sets: no CTXSW does. -/
theorem swapRecord_between (hbd : (coreRec s c).boundary = false) (hrun : (coreRec s c).running = true) : swapRecord s c = none := by
  have hsw : ctxswSet (coreRec s c) = none := by unfold ctxswSet; split <;> simp [hrun]
  simp [swapRecord, hbd, hsw]

theorem ctxswSet_atRest {r : CoreRec} (hrun : r.running = false) (hreq : r.swReq = some b) (hrest : AtRest (getSet r b)) :
    ctxswSet r = some b := by
  rcases hrest with hst | hst <;> simp [ctxswSet, hreq, hrun, hst]

theorem asks_ctxsw (hbd : (coreRec s c).boundary = false) (hrun : (coreRec s c).running = false) (hreq : (coreRec s c).swReq = some b)
    (hrest : AtRest (getSet (coreRec s c) b)) :
    Asks s c (ctxswRecord s (coreRec s c) b) := by
  simp [Asks, swapRecord, hbd, ctxswSet_atRest hrun hreq hrest]

/-- The swap waits for the token boundary and for the write-backs that fewer ways need (log 98). -/
theorem tokenSwap_waits {n : CoreRec} (hasks : Asks s c n) (hkeep : (coreRec s c).boundary = true ∨ (ctxswSet (coreRec s c)).isSome = true)
    (hwait : boundaryHere s c = false ∨ ¬ WaysDivide s c n) : tokenSwap s c = s := by
  by_cases hways : WaysDivide s c n
  · have hno : boundaryHere s c = false := hwait.resolve_right (not_not_intro hways)
    simp [tokenSwap, hasks.goes hways, hno]
  · rcases hkeep with hkeep | hkeep <;> simp [tokenSwap, hasks.held hways, hkeep]

theorem tokenSwap_goes {n : CoreRec} (hasks : Asks s c n) (hhere : boundaryHere s c = true) (hways : WaysDivide s c n) :
    tokenSwap s c = withSets s c (coreRec s c) n := by
  simp [tokenSwap, hasks.goes hways, hhere]

theorem tokenSwap_none (hrec : swapRecord s c = none) (hkeep : (coreRec s c).boundary = true ∨ (coreRec s c).running = true) :
    tokenSwap s c = s := by
  rcases hkeep with hkeep | hkeep <;> simp [tokenSwap, hrec, hkeep]

end

/-! ## What leaves the registers of every context as they are -/

/-! ### Write-backs (08 R170) -/

/-- A state with what a write-back changes as it was in s: home memory, the L2, the lists of uncorrectable lines, and of the context in focus the
counts and the lines lost. -/
def backTo (s t : State) : State :=
  { t with me.perf := s.me.perf, me.lateBad := s.me.lateBad, mem := s.mem, l2 := s.l2, bad := s.bad, retired := s.retired }

/-- Nothing else has changed. -/
def BackFrame (s t : State) : Prop := backTo s t = s

theorem BackFrame.eq {s t : State} (h : BackFrame s t) : backTo s t = s := h

theorem BackFrame.refl (s : State) : BackFrame s s := rfl

theorem BackFrame.trans {s t u : State} (h1 : BackFrame s t) (h2 : BackFrame t u) : BackFrame s u :=
  (congrArg (backTo s) h2.eq).trans h1.eq

theorem BackFrame.foldl {β : Type} {f : State → β → State} (hf : ∀ t x, BackFrame t (f t x)) (l : List β) (s : State) :
    BackFrame s (l.foldl f s) := by
  induction l generalizing s with
  | nil => exact .refl s
  | cons x l ih => exact (hf s x).trans (ih _)

theorem backFrame_l2Store (s : State) (p : BitVec 7) (n : Nat) (d : BitVec 1024) : BackFrame s (l2Store s p n d) :=
  (congrArg (backTo s) (l2Store_frame s p n d) :)

theorem backFrame_countHome (s : State) (n : Nat) : BackFrame s (countHome s n) := rfl

theorem backFrame_homeCommit (s : State) (p : BitVec 7) (m : List Host.Cell) (ns : List Nat) : BackFrame s (homeCommit s p m ns) :=
  .trans (t := { s with mem := m }) rfl (.foldl (fun _ _ => backFrame_l2Store _ _ _ _) ns _)

theorem backFrame_writeBack (s : State) (l : Line) : BackFrame s (writeBack s l) := by
  have hc := (backFrame_countHome s l.num).trans (backFrame_homeCommit (countHome s l.num) s.me.id.part (mergeLine s.mem l 128) [l.num])
  unfold writeBack
  dsimp only
  split_ifs
  · exact .refl s
  · exact hc.trans rfl
  · exact hc.trans rfl
  · exact hc.trans rfl
  · exact hc

theorem backFrame_writeBackAll (s : State) (ls : List Line) : BackFrame s (writeBackAll s ls) := by
  induction ls generalizing s with
  | nil => exact .refl s
  | cons l ls ih => exact (backFrame_writeBack s l).trans (ih _)

theorem backFrame_quietBack (s : State) (ls : List Line) : BackFrame s (quietBack s ls) := (backFrame_writeBackAll s ls).trans rfl

section
variable {s t : State} (h : BackFrame s t)
include h
theorem BackFrame.others : t.others = s.others := (congrArg State.others h.eq :)
theorem BackFrame.cores : t.cores = s.cores := (congrArg State.cores h.eq :)
theorem BackFrame.win : t.win = s.win := (congrArg State.win h.eq :)
theorem BackFrame.winBad : t.winBad = s.winBad := (congrArg State.winBad h.eq :)
theorem BackFrame.me_id : t.me.id = s.me.id := (congrArg (fun v : State => v.me.id) h.eq :)
theorem BackFrame.me_regs : t.me.regs = s.me.regs := (congrArg (fun v : State => v.me.regs) h.eq :)
theorem BackFrame.me_htab : t.me.htab = s.me.htab := (congrArg (fun v : State => v.me.htab) h.eq :)
theorem BackFrame.me_sys : t.me.sys = s.me.sys := (congrArg (fun v : State => v.me.sys) h.eq :)
theorem BackFrame.me_shareBase : t.me.shareBase = s.me.shareBase := (congrArg (fun v : State => v.me.shareBase) h.eq :)
theorem BackFrame.me_shareSize : t.me.shareSize = s.me.shareSize := (congrArg (fun v : State => v.me.shareSize) h.eq :)
end

/-! ### Contexts by their ids -/

theorem rawCtx_id {s : State} {i : CtxId} {x : Ctx} (h : rawCtx s i = some x) : x.id = i := by
  unfold rawCtx at h
  split_ifs at h with hme
  · cases h; exact hme
  · simpa using List.find?_some h

theorem rawCtx_self (s : State) : rawCtx s s.me.id = some s.me := if_pos rfl

/-- Where a context stands changes, not what it is. -/
@[simp] theorem rawCtx_focus (s : State) (j i : CtxId) : rawCtx (focus s j) i = rawCtx s i := by
  unfold focus
  split_ifs with hme
  · rfl
  · split
    · rfl
    · rename_i x hx
      have hid : x.id = j := by simpa using List.find?_some hx
      unfold rawCtx
      by_cases hi : j = i
      · subst hi; simp [hid, hme, hx]
      · have hskip : (fun c : Ctx => !decide (c.id = j) && decide (c.id = i)) = fun c => decide (c.id = i) := by
          funext c
          by_cases hc : c.id = i <;> simp [hc, Ne.symm hi]
        simp only [hid, hi, if_false, List.find?_cons, List.find?_filter]
        split_ifs with hmi
        · simp [hmi]
        · simp [hmi, hskip]

@[simp] theorem focus_cores (s : State) (id : CtxId) : (focus s id).cores = s.cores := by
  unfold focus; split_ifs
  · rfl
  · split <;> rfl

/-- A context that exists comes into focus. -/
theorem focus_me_id {s : State} {i : CtxId} (h : (rawCtx s i).isSome = true) : (focus s i).me.id = i := by
  unfold focus
  split_ifs with hme
  · exact hme
  · split
    · rename_i hnone; simp [rawCtx, hme, hnone] at h
    · rename_i x hx; simpa using List.find?_some hx

theorem rawCtx_putCtx {s : State} {j : CtxId} {c : Ctx} (hc : c.id = j) (i : CtxId) :
    rawCtx (putCtx s j c) i = if i = j then (rawCtx s i).map (fun _ => c) else rawCtx s i := by
  unfold putCtx
  split_ifs with hme hij hij
  · subst hij; simp [rawCtx, hc, hme]
  · simp [rawCtx, hc, hme, Ne.symm hij]
  · subst hij
    have hsame : ((fun k : Ctx => decide (k.id = i)) ∘ fun k => if k.id = i then c else k) = fun k => decide (k.id = i) := by
      funext k; by_cases hk : k.id = i <;> simp [hk, hc]
    simp only [rawCtx, hme, if_false, List.find?_map, hsame]
    cases hf : s.others.find? (fun k => decide (k.id = i)) with
    | none => rfl
    | some k =>
      have hk : k.id = i := by simpa using List.find?_some hf
      simp [hk]
  · have hsame : ((fun k : Ctx => decide (k.id = i)) ∘ fun k => if k.id = j then c else k) = fun k => decide (k.id = i) := by
      funext k; by_cases hk : k.id = j <;> simp [hk, hc]
    simp only [rawCtx, List.find?_map, hsame]
    split_ifs with hmi
    · rfl
    · cases hf : s.others.find? (fun k => decide (k.id = i)) with
      | none => rfl
      | some k =>
        have hk : k.id = i := by simpa using List.find?_some hf
        simp [hk, hij]

@[simp] theorem putCtx_cores (s : State) (i : CtxId) (c : Ctx) : (putCtx s i c).cores = s.cores := by unfold putCtx; split_ifs <;> rfl

theorem putCtx_me_id {s : State} {i : CtxId} {c : Ctx} (hc : c.id = i) : (putCtx s i c).me.id = s.me.id := by
  unfold putCtx; split_ifs with hme
  · exact hc.trans hme.symm
  · rfl

@[simp] theorem viewArea_id (m : List Host.Cell) (c : Ctx) : (viewArea m c).id = c.id := by unfold viewArea; dsimp only
@[simp] theorem viewArea_regs (m : List Host.Cell) (c : Ctx) : (viewArea m c).regs = c.regs := by unfold viewArea; dsimp only

/-- A context as it stands has the registers of its record. -/
theorem findCtx_regs {s : State} {i : CtxId} {c : Ctx} (h : findCtx s i = some c) :
    ∃ x, rawCtx s i = some x ∧ c.id = x.id ∧ c.regs = x.regs := by
  unfold findCtx at h
  split_ifs at h
  · obtain ⟨x, hx, hc⟩ := Option.map_eq_some_iff.mp h
    exact ⟨x, hx, by rw [← hc, viewArea_id], by rw [← hc, viewArea_regs]⟩
  · exact ⟨c, h, rfl, rfl⟩

/-! ### Registers kept -/

/-- The registers of every context, every core and window memory are as before. -/
structure RegsKept (s t : State) : Prop where
  cores : t.cores = s.cores
  win : t.win = s.win
  regs : ∀ i, (rawCtx t i).map (fun x => x.regs) = (rawCtx s i).map (fun x => x.regs)

/-- And so is the context in focus. -/
structure Settles (s t : State) : Prop extends RegsKept s t where
  focus : t.me.id = s.me.id

theorem RegsKept.refl (s : State) : RegsKept s s := ⟨rfl, rfl, fun _ => rfl⟩

theorem RegsKept.trans {s t u : State} (h1 : RegsKept s t) (h2 : RegsKept t u) : RegsKept s u :=
  ⟨h2.cores.trans h1.cores, h2.win.trans h1.win, fun i => (h2.regs i).trans (h1.regs i)⟩

theorem Settles.refl (s : State) : Settles s s := ⟨.refl s, rfl⟩

theorem Settles.trans {s t u : State} (h1 : Settles s t) (h2 : Settles t u) : Settles s u :=
  ⟨h1.toRegsKept.trans h2.toRegsKept, h2.focus.trans h1.focus⟩

theorem Settles.foldl {β : Type} {f : State → β → State} (hf : ∀ t x, Settles t (f t x)) (l : List β) (s : State) :
    Settles s (l.foldl f s) := by
  induction l generalizing s with
  | nil => exact .refl s
  | cons x l ih => exact (hf s x).trans (ih _)

theorem Settles.me_regs {s t : State} (h : Settles s t) : t.me.regs = s.me.regs := by
  have hr := h.regs s.me.id
  rw [rawCtx_self, ← h.focus, rawCtx_self] at hr
  simpa using hr

theorem regsKept_focus (s : State) (i : CtxId) : RegsKept s (focus s i) := ⟨by simp, by simp, by simp⟩

/-- What is done with another context in focus settles when the first one is in focus again. -/
theorem settles_within {s u : State} {i : CtxId} (h : RegsKept (focus s i) u) : Settles s (focus u s.me.id) := by
  have hk := (regsKept_focus s i).trans h
  refine ⟨hk.trans (regsKept_focus u _), focus_me_id ?_⟩
  have hr := hk.regs s.me.id
  rw [rawCtx_self] at hr
  cases hx : rawCtx u s.me.id with
  | none => rw [hx] at hr; cases hr
  | some x => rfl

/-- A change of the context in focus alone, which keeps its id and registers. -/
theorem settles_me {s : State} {c : Ctx} (hid : c.id = s.me.id) (hregs : c.regs = s.me.regs) : Settles s { s with me := c } := by
  refine ⟨⟨rfl, rfl, fun i => ?_⟩, hid⟩
  unfold rawCtx
  simp only [hid]
  split_ifs
  · simp [hregs]
  · rfl

theorem settles_updCtx {s : State} {i : CtxId} {f : Ctx → Ctx} (hid : ∀ c, (f c).id = c.id) (hregs : ∀ c, (f c).regs = c.regs) :
    Settles s (updCtx s i f) := by
  unfold updCtx
  split
  · exact .refl s
  · rename_i c hc
    obtain ⟨x, hx, hcid, hcregs⟩ := findCtx_regs hc
    have hci : (f c).id = i := (hid c).trans (hcid.trans (rawCtx_id hx))
    have hput : ∀ t : State, t.me = s.me → t.others = s.others → t.cores = s.cores → t.win = s.win → Settles s (putCtx t i (f c)) := by
      intro t hme hoth hcores hwin
      have hraw : ∀ j, rawCtx t j = rawCtx s j := fun j => by unfold rawCtx; rw [hme, hoth]
      refine ⟨⟨by simpa using hcores, by simpa using hwin, fun j => ?_⟩, (putCtx_me_id hci).trans (by rw [hme])⟩
      rw [rawCtx_putCtx hci, hraw]
      split_ifs with hj
      · subst hj; simp [hx, hregs, hcregs]
      · rfl
    split_ifs <;> exact hput _ rfl rfl rfl rfl

theorem BackFrame.settles {s t : State} (h : BackFrame s t) : Settles s t := by
  refine ⟨⟨h.cores, h.win, fun i => ?_⟩, h.me_id⟩
  unfold rawCtx
  rw [h.me_id, h.others]
  split_ifs
  · simp [h.me_regs]
  · rfl

/-! ## The swap of a core's sets (01 R25 to R30, 06 R137) -/

/-! ### What a swap does to the contexts -/

theorem settles_freeze (s : State) (i : CtxId) : Settles s (updCtx s i freezeCtx) := settles_updCtx (fun _ => rfl) (fun _ => rfl)

theorem settles_wakeCtx (s : State) (i : CtxId) : Settles s (wakeCtx s i) := settles_updCtx (fun _ => rfl) (fun _ => rfl)

theorem settles_trimL1 (s : State) (i : CtxId) : Settles s (trimL1 s i) := by
  unfold trimL1
  split
  · exact .refl s
  · rename_i ls _
    refine settles_within (i := i) (Settles.toRegsKept ?_)
    exact (backFrame_quietBack (focus s i) _).settles.trans (settles_me rfl rfl)

@[simp] theorem queueFault_id (f : FaultItem) (c : Ctx) : (queueFault f c).id = c.id := by
  unfold queueFault; dsimp only; split_ifs <;> rfl

@[simp] theorem queueFault_regs (f : FaultItem) (c : Ctx) : (queueFault f c).regs = c.regs := by
  unfold queueFault; dsimp only; split_ifs <;> rfl

theorem settles_haltGraph (s : State) (e input pos : Nat) (cause : BitVec 8) (value : Word) (check kind : BitVec 4) :
    Settles s (haltGraph s e input pos cause value check kind) := by
  unfold haltGraph
  split
  · exact .refl s
  · split_ifs
    · exact .refl s
    · exact settles_updCtx (fun c => by simp) (fun c => by simp)

/-- Fields put to 0 change the configuration alone. -/
theorem foldl_putField_frame (e : Nat) (fs : List Nat) (c : Ctx) :
    { fs.foldl (fun k f => putField k e f 0) c with fab.cfg := c.fab.cfg } = c := by
  induction fs generalizing c with
  | nil => rfl
  | cons f fs ih => exact (congrArg (fun k : Ctx => { k with fab.cfg := c.fab.cfg }) (ih (putField c e f 0)) :)

theorem offElem_frame (e : Nat) (c : Ctx) : { offElem e c with fab.cfg := c.fab.cfg } = c := foldl_putField_frame e _ c

theorem settles_offElem (s : State) (e : Nat) : Settles s { s with me := offElem e s.me } :=
  settles_me (congrArg Ctx.id (offElem_frame e s.me) :) (congrArg Ctx.regs (offElem_frame e s.me) :)

theorem settles_refuseShared (i : CtxId) (s : State) (e : Nat) : Settles s (refuseShared i s e) := by
  unfold refuseShared
  dsimp only
  refine settles_within (i := i) (Settles.toRegsKept ?_)
  split_ifs
  · exact (settles_haltGraph _ _ _ _ _ _ _ _).trans (settles_offElem _ e)
  · exact (settles_me (by simp) (by simp)).trans (settles_offElem _ e)

theorem settles_splitElems (s : State) (c : CoreId) : Settles s (splitElems s c) := by
  unfold splitElems
  dsimp only
  split
  · split_ifs
    · exact .foldl (fun t e => settles_refuseShared _ t e) _ s
    · exact .refl s
  · exact .refl s

theorem settles_dropNotices (s : State) (c : CoreId) : Settles s (dropNotices s c) := by
  unfold dropNotices
  refine .foldl (fun t i => ?_) _ s
  dsimp only
  split_ifs
  · exact .refl t
  · exact settles_updCtx (fun _ => rfl) (fun _ => rfl)

/-! ### The sets left by a swap -/

/-- A set after `parkLeft`: one that the swap has frozen and that is to go, or that no slot of the running calendar names, is parked (16 R372). -/
def leftSet (s : State) (running : Bool) (out : List CtxId) (x : SetRec) : SetRec :=
  match x.ctx with
  | some i => if x.st = .frozen ∧ (x.gone ∨ (out.contains i ∧ running ∧ ¬ isPlaced s i)) then { x with st := .parking } else x
  | none => x

theorem parkLeft_eq (s : State) (c : CoreId) (out : List CtxId) :
    parkLeft s c out = setCore s c { coreRec s c with setA := leftSet s (coreRec s c).running out (coreRec s c).setA,
                                                      setB := leftSet s (coreRec s c).running out (coreRec s c).setB } := rfl

theorem leftSet_of_not_frozen {s : State} {run : Bool} {out : List CtxId} {x : SetRec} (h : x.st ≠ .frozen) : leftSet s run out x = x := by
  unfold leftSet; split <;> simp [h]

theorem leftSet_stays {s : State} {run : Bool} {out : List CtxId} {x : SetRec}
    (h : ∀ i, x.ctx = some i → x.gone = false ∧ (out.contains i = true → run = true → isPlaced s i = true)) : leftSet s run out x = x := by
  unfold leftSet
  split
  · rename_i i hi
    obtain ⟨hgone, hplaced⟩ := h i hi
    refine if_neg ?_
    rintro ⟨-, hg | ⟨hout, hrun, hno⟩⟩
    · simp [hgone] at hg
    · exact hno (hplaced hout hrun)
  · rfl

theorem leftSet_parks {s : State} {run : Bool} {out : List CtxId} {x : SetRec} {i : CtxId} (hst : x.st = .frozen) (hctx : x.ctx = some i)
    (h : x.gone = true ∨ (out.contains i = true ∧ run = true ∧ isPlaced s i = false)) : leftSet s run out x = { x with st := .parking } := by
  unfold leftSet
  simp only [hctx]
  refine if_pos ⟨hst, h.imp id fun ⟨hout, hrun, hno⟩ => ⟨hout, hrun, by simp [hno]⟩⟩

/-- A swap made: the record of its core is the one it was to be, but for the sets that are parked, and nothing else of what a program sees changes. -/
theorem settleSwap_effect (s : State) (c : CoreId) (out fresh : List CtxId) :
    let u := settleSwap s c out fresh
    coreRec u c = { coreRec s c with setA := leftSet s (coreRec s c).running out (coreRec s c).setA,
                                     setB := leftSet s (coreRec s c).running out (coreRec s c).setB }
    ∧ (∀ k, k ≠ c → coreRec u k = coreRec s k) ∧ u.win = s.win ∧ u.me.regs = s.me.regs := by
  unfold settleSwap
  dsimp only
  set s2 := fresh.foldl wakeCtx (out.foldl (fun t i => updCtx t i freezeCtx) s) with hs2
  set s4 := if fresh.isEmpty then (setCtxs (coreRec s2 c)).foldl trimL1 s2 else splitElems ((setCtxs (coreRec s2 c)).foldl trimL1 s2) c with hs4
  have h4 : Settles s s4 := by
    have h2 : Settles s s2 := (Settles.foldl (fun t i => settles_freeze t i) out s).trans (.foldl settles_wakeCtx fresh _)
    have h3 := h2.trans (.foldl settles_trimL1 (setCtxs (coreRec s2 c)) s2)
    rw [hs4]
    split_ifs
    · exact h3
    · exact h3.trans (settles_splitElems _ c)
  have hrec : ∀ k, coreRec s4 k = coreRec s k := fun k => by unfold coreRec; rw [h4.cores]
  have hleft : leftSet s4 = leftSet s := by
    funext run o x
    unfold leftSet isPlaced
    simp only [hrec]
  have hd := settles_dropNotices (parkLeft s4 c out) c
  have hcore : ∀ k, coreRec (dropNotices (parkLeft s4 c out) c) k = coreRec (parkLeft s4 c out) k := fun k => by unfold coreRec; rw [hd.cores]
  refine ⟨?_, fun k hk => ?_, ?_, ?_⟩
  · rw [hcore, parkLeft_eq, coreRec_setCore_self, hrec, hleft]
  · rw [hcore, parkLeft_eq, coreRec_setCore_ne _ _ hk, hrec]
  · rw [hd.win, parkLeft_eq, setCore_win, h4.win]
  · rw [hd.me_regs, parkLeft_eq, setCore_me, h4.me_regs]

/-! ### The record that a swap makes -/

/-- The outgoing set of a swap: Frozen where it was Active. -/
def frozenOut (y : SetRec) : SetRec := if y.st = .active then { y with st := .frozen } else y

theorem frozenOut_not_active (y : SetRec) : (frozenOut y).st ≠ .active := by unfold frozenOut; split_ifs <;> simp_all
theorem frozenOut_of_active {y : SetRec} (h : y.st = .active) : frozenOut y = { y with st := .frozen } := if_pos h
theorem frozenOut_of_not_active {y : SetRec} (h : y.st ≠ .active) : frozenOut y = y := if_neg h
@[simp] theorem frozenOut_ctx (y : SetRec) : (frozenOut y).ctx = y.ctx := by unfold frozenOut; split_ifs <;> rfl

/-- A core's record with one set swapped for the other. -/
def swapSets (r : CoreRec) (b : Bool) : CoreRec :=
  putSet (putSet r (!b) (frozenOut (getSet r (!b)))) b { getSet r b with st := .active }

/-- What a swap keeps of a core's record: its slots and descriptors, and where its calendar stands. -/
structure SamePlan (r n : CoreRec) : Prop where
  descs : n.descs = r.descs
  slots : n.slots = r.slots
  slotsNew : n.slotsNew = r.slotsNew
  running : n.running = r.running
  cur : n.cur = r.cur

/-- A record that a swap of a core's set b makes. -/
structure SwapOf (r : CoreRec) (b : Bool) (n : CoreRec) : Prop where
  plan : SamePlan r n
  mine : getSet n b = { getSet r b with st := .active }
  other : getSet n (!b) = frozenOut (getSet r (!b))

theorem swapOf_swapSets (r : CoreRec) (b : Bool) : SwapOf r b (swapSets r b) := by
  refine ⟨?_, by simp [swapSets], by simp [swapSets]⟩
  cases b <;> exact ⟨rfl, rfl, rfl, rfl, rfl⟩

/-- The choice of the spine touches neither the sets nor the plan (01 R10). -/
theorem SwapOf.enterSpine {r n : CoreRec} {b : Bool} (h : SwapOf r b n) (s : State) (paired : Bool) (sp : BitVec 3) (i : Option CtxId) :
    SwapOf r b (enterSpine s n paired sp i) := by
  obtain ⟨⟨hd, hs, hn, hr, hc⟩, hmine, hother⟩ := h
  unfold Machine.enterSpine switchSpine
  cases i with
  | none => exact ⟨⟨hd, hs, hn, hr, hc⟩, hmine, hother⟩
  | some i =>
    cases hnew : n.spineNew with
    | some y => exact ⟨⟨hd, hs, hn, hr, hc⟩, hmine, hother⟩
    | none =>
      dsimp only
      split_ifs <;> exact ⟨⟨hd, hs, hn, hr, hc⟩, hmine, hother⟩

theorem SwapOf.setBoundary {r n : CoreRec} {b : Bool} (h : SwapOf r b n) (x : Bool) : SwapOf r b { n with boundary := x } :=
  ⟨⟨h.plan.descs, h.plan.slots, h.plan.slotsNew, h.plan.running, h.plan.cur⟩, h.mine, h.other⟩

theorem SwapOf.dropReq {r n : CoreRec} {b : Bool} (h : SwapOf r b n) : SwapOf r b { n with swReq := none } :=
  ⟨⟨h.plan.descs, h.plan.slots, h.plan.slotsNew, h.plan.running, h.plan.cur⟩, h.mine, h.other⟩

section
variable {s : State} {c : CoreId} {b : Bool} {id : CtxId} {r : CoreRec}

/-- A slot for one context freezes the other set alone. -/
theorem freezeSets_solo (hrest : AtRest (getSet r b)) :
    [false, true].foldl (freezeSet [(b, id)]) r = putSet r (!b) (frozenOut (getSet r (!b))) := by
  have hmine : (getSet r b).st ≠ .active := by rcases hrest with h | h <;> simp [h]
  cases b
  · simp only [getSet, putSet, Bool.not_false, if_true] at hmine ⊢
    by_cases hB : r.setB.st = .active <;> simp_all [freezeSet, getSet, putSet, frozenOut]
  · simp only [getSet, putSet, Bool.not_true, if_true] at hmine ⊢
    by_cases hA : r.setA.st = .active <;> simp_all [freezeSet, getSet, putSet, frozenOut]

/-- And makes its own Active: no claim clashes with a set that is not Active. -/
theorem activateSet_solo (hctx : (getSet r b).ctx = some id) :
    activateSet s (putSet r (!b) (frozenOut (getSet r (!b)))) (b, id) = swapSets r b := by
  have hno := frozenOut_not_active (getSet r (!b))
  cases ho : (getSet r (!b)).ctx <;> simp [activateSet, swapSets, ho, hno, hctx]

theorem slotRecord_solo (hctx : (getSet r b).ctx = some id) (hrest : AtRest (getSet r b)) :
    slotRecord s r [(b, id)] = { enterSpine s (swapSets r b) (slotKind (curWord r) = 2#2) (slotSpine (curWord r)) (some id) with boundary := false } := by
  have hready := setReady_of_atRest hctx hrest
  simp only [slotRecord, List.filter_cons, hready, if_true, List.filter_nil, List.all_cons, List.all_nil, List.foldl_cons (l := []), List.foldl_nil,
    List.head?_cons, Option.map_some, Bool.and_true, Bool.not_true]
  rw [freezeSets_solo hrest, activateSet_solo hctx]

theorem swapOf_slotRecord (hctx : (getSet r b).ctx = some id) (hrest : AtRest (getSet r b)) : SwapOf r b (slotRecord s r [(b, id)]) := by
  rw [slotRecord_solo hctx hrest]
  exact ((swapOf_swapSets r b).enterSpine s _ _ _).setBoundary false

theorem swapOf_ctxswRecord (s : State) (r : CoreRec) (b : Bool) : SwapOf r b (ctxswRecord s r b) :=
  ((swapOf_swapSets r b).enterSpine s _ _ _).dropReq

/-! ### The swap made -/

theorem SamePlan.nextWord {n : CoreRec} (h : SamePlan r n) : nextWord n = nextWord r := by
  funext i
  simp only [Machine.nextWord, h.slots, h.slotsNew]

theorem isPlaced_setCore {n : CoreRec} (h : SamePlan (coreRec s c) n) (i : CtxId) : isPlaced (setCore s c n) i = isPlaced s i := by
  by_cases hi : i.core = c
  · subst hi
    simp only [isPlaced, coreRec_setCore_self, slotNamed, liveWords, curWord, h.nextWord, h.descs, h.slots, h.running, h.cur]
  · simp only [isPlaced, coreRec_setCore_ne s n hi]

theorem leftSet_setCore {n : CoreRec} (h : SamePlan (coreRec s c) n) : leftSet (setCore s c n) = leftSet s := by
  funext run out x
  unfold leftSet
  simp only [isPlaced_setCore h]

theorem mem_ctxsIn {st : SetSt} {i : CtxId} : i ∈ ctxsIn r st ↔ ∃ b, (getSet r b).st = st ∧ (getSet r b).ctx = some i := by
  simp only [ctxsIn, List.mem_filterMap, List.mem_filter, beq_iff_eq, Bool.exists_bool]
  constructor
  · rintro ⟨x, ⟨hx, hst⟩, hctx⟩
    rcases List.mem_cons.mp hx with rfl | hx
    · exact .inl ⟨hst, hctx⟩
    · rw [List.mem_singleton] at hx; subst hx; exact .inr ⟨hst, hctx⟩
  · rintro (⟨hst, hctx⟩ | ⟨hst, hctx⟩)
    · exact ⟨r.setA, ⟨by simp, hst⟩, hctx⟩
    · exact ⟨r.setB, ⟨by simp, hst⟩, hctx⟩

/-- The contexts that a change of a core's sets freezes. -/
def outgoing (r n : CoreRec) : List CtxId := (ctxsIn r .active).filter (fun i => !(ctxsIn n .active).contains i)

theorem withSets_effect (s : State) (c : CoreId) (r n : CoreRec) (h : SamePlan (coreRec s c) n) :
    (∀ x, getSet (coreRec (withSets s c r n) c) x = leftSet s n.running (outgoing r n) (getSet n x))
    ∧ (coreRec (withSets s c r n) c).boundary = n.boundary ∧ (coreRec (withSets s c r n) c).swReq = n.swReq
    ∧ (∀ k, k ≠ c → coreRec (withSets s c r n) k = coreRec s k) ∧ (withSets s c r n).win = s.win
    ∧ (withSets s c r n).me.regs = s.me.regs := by
  obtain ⟨hrec, hothers, hwin, hregs⟩ := settleSwap_effect (setCore s c n) c (outgoing r n)
    ((ctxsIn n .active).filter (fun i => !(ctxsIn r .active).contains i))
  rw [coreRec_setCore_self, leftSet_setCore h] at hrec
  have hu : withSets s c r n = settleSwap (setCore s c n) c (outgoing r n)
    ((ctxsIn n .active).filter (fun i => !(ctxsIn r .active).contains i)) := rfl
  rw [hu]
  refine ⟨fun x => ?_, ?_, ?_, fun k hk => ?_, ?_, ?_⟩
  · rw [hrec]; cases x <;> rfl
  · rw [hrec]
  · rw [hrec]
  · rw [hothers k hk, coreRec_setCore_ne s n hk]
  · rw [hwin, setCore_win]
  · rw [hregs, setCore_me]

/-- Of the outgoing set, its context is among the outgoing ones exactly where it was Active. -/
theorem mem_outgoing {n : CoreRec} (h : SwapOf r b n) (hctx : (getSet r b).ctx = some id) (hrest : AtRest (getSet r b))
    (hother : (getSet r (!b)).ctx ≠ some id) {o : CtxId} (ho : (getSet r (!b)).ctx = some o) :
    o ∈ outgoing r n ↔ (getSet r (!b)).st = .active := by
  have hne : id ≠ o := fun he => hother (he ▸ ho)
  have hmine : (getSet r b).st ≠ .active := by rcases hrest with h | h <;> simp [h]
  have hleaves : o ∉ ctxsIn n .active := by
    rw [mem_ctxsIn]
    rintro ⟨x, hst, hx⟩
    by_cases hxb : x = b
    · subst hxb; rw [h.mine] at hx; exact hne (Option.some.inj (hctx.symm.trans hx))
    · rw [Bool.eq_not_of_ne hxb, h.other] at hst; exact frozenOut_not_active _ hst
  rw [outgoing, List.mem_filter, mem_ctxsIn]
  constructor
  · rintro ⟨⟨x, hst, -⟩, -⟩
    by_cases hxb : x = b
    · subst hxb; exact absurd hst hmine
    · rwa [Bool.eq_not_of_ne hxb] at hst
  · exact fun hst => ⟨⟨!b, hst, ho⟩, by simpa using hleaves⟩

/-- A swap made is the one that 01 R28 to R30 say: set b Active, the other one Frozen where it was Active, or parked where it is to go. -/
theorem swapped_withSets {n : CoreRec} (h : SwapOf (coreRec s c) b n) (hctx : (getSet (coreRec s c) b).ctx = some id)
    (hrest : AtRest (getSet (coreRec s c) b)) (hother : (getSet (coreRec s c) (!b)).ctx ≠ some id) :
    Swapped s (withSets s c (coreRec s c) n) c b := by
  obtain ⟨hsets, -, -, hothers, hwin, hregs⟩ := withSets_effect s c (coreRec s c) n h.plan
  have hz := hsets (!b)
  rw [h.other, h.plan.running] at hz
  refine ⟨?_, hregs, hwin, hothers, fun hact hstay => ?_, fun hact o ho hgo => ?_, fun hno hst => ?_⟩
  · rw [hsets b, h.mine, leftSet_of_not_frozen (by simp)]
  · rw [frozenOut_of_active hact] at hz
    rw [hz]
    refine leftSet_stays fun i hi => ?_
    obtain ⟨hgone, hplaced⟩ := hstay i hi
    exact ⟨hgone, fun _ hrun => hplaced hrun⟩
  · rw [frozenOut_of_active hact] at hz
    refine hz.trans (leftSet_parks (x := { getSet (coreRec s c) (!b) with st := .frozen }) rfl ho ?_)
    refine hgo.imp_right fun ⟨hrun, hplaced⟩ => ⟨?_, hrun, hplaced⟩
    simpa using (mem_outgoing h hctx hrest hother ho).mpr hact
  · rw [frozenOut_of_not_active hno] at hz
    rw [hz]
    rcases hst with hst | hgone
    · exact leftSet_of_not_frozen hst
    · refine leftSet_stays fun i hi => ⟨hgone, fun hout => ?_⟩
      exact absurd ((mem_outgoing h hctx hrest hother hi).mp (by simpa using hout)) hno

end

/-! ## Save areas: what is read back of what was written (15 R349) -/

/-! ### Ranges of memories -/

theorem tabFind_append {α : Type} (t u : Tab α) (k : Nat) : tabFind (t ++ u) k = (tabFind t k).or (tabFind u k) := by
  induction t with
  | nil => rfl
  | cons p t ih => by_cases h : p.1 = k <;> simp [tabFind_cons, h, ih]

theorem tabFind_filter {α : Type} (q : Nat → Bool) (t : Tab α) (k : Nat) :
    tabFind (t.filter (fun c => q c.1)) k = if q k then tabFind t k else none := by
  induction t with
  | nil => simp
  | cons p t ih =>
    by_cases hq : q p.1 = true <;> by_cases hk : p.1 = k <;> simp_all [tabFind_cons]

theorem memByte_replaceRange (m cells : List Host.Cell) (base len a : Nat) :
    memByte (replaceRange m base len cells) a = if base ≤ a ∧ a < base + len then memByte cells a else memByte m a := by
  have hlow := tabFind_filter (fun k => decide (k < base)) m a
  have hmid := tabFind_filter (fun k => decide (base ≤ k ∧ k < base + len)) cells a
  have hhigh := tabFind_filter (fun k => decide (base + len ≤ k)) m a
  unfold memByte tabGet replaceRange
  rw [tabFind_append, tabFind_append, hlow, hmid, hhigh]
  by_cases h1 : a < base
  · have h2 : ¬ base + len ≤ a := by omega
    have h3 : ¬ base ≤ a := by omega
    simp [h1, h2, h3]
  · by_cases h2 : a < base + len
    · have h3 : ¬ base + len ≤ a := by omega
      have h4 : base ≤ a := by omega
      simp [h1, h2, h3, h4]
    · have h3 : base + len ≤ a := by omega
      simp [h1, h2, h3]

theorem memByte_moveRange (m : List Host.Cell) (base len dst : Nat) {n : Nat} (hn : n < len) :
    memByte (moveRange m base len dst) (dst + n) = memByte m (base + n) := by
  unfold memByte tabGet moveRange
  congr 1
  induction m with
  | nil => rfl
  | cons p m ih =>
    by_cases hp : base ≤ p.1 ∧ p.1 < base + len
    · simp only [List.filter_cons, hp, and_self, decide_true, if_true, List.map_cons, tabFind_cons, ih]
      by_cases hpn : p.1 = base + n
      · rw [if_pos (by omega), if_pos hpn]
      · rw [if_neg (by omega), if_neg hpn]
    · simp only [List.filter_cons, hp, decide_false, Bool.false_eq_true, if_false, tabFind_cons, ih]
      rw [if_neg (by omega)]

/-- A word depends on its own eight bytes only. -/
theorem areaWord_congr {m m' : List Host.Cell} {area off : Nat} (h : ∀ a, area + off ≤ a → a < area + off + 8 → memByte m a = memByte m' a) :
    areaWord m area off = areaWord m' area off := by
  unfold areaWord; rw [memNat_congr h]

theorem areaWord_replaceRange (m cells : List Host.Cell) (area off base len : Nat) (h : area + off + 8 ≤ base) :
    areaWord (replaceRange m base len cells) area off = areaWord m area off :=
  areaWord_congr fun a _ ha => by rw [memByte_replaceRange, if_neg (by omega)]

theorem areaWord_putCfg (m : List Host.Cell) (area off k : Nat) (v : BitVec 16) (h : off + 8 ≤ 0x018000) :
    areaWord (putCfg m area k v) area off = areaWord m area off := by
  unfold areaWord putCfg; rw [memNat_memPut_outside _ _ _ _ _ _ (by omega)]

/-! ### Words of an area -/

/-- Two words of an area share no byte. -/
def Apart (a b : Nat) : Prop := a + 8 ≤ b ∨ b + 8 ≤ a

/-- What a list of words writes: each word that is listed, where no other listed one overlaps it. -/
theorem areaWord_putWords {ws : List (Nat × Word)} {area off : Nat} {v : Word} (m : List Host.Cell)
    (hapart : ∀ w ∈ ws, w = (off, v) ∨ Apart off w.1) (hin : (off, v) ∈ ws ∨ areaWord m area off = v) :
    areaWord (putWords m area ws) area off = v := by
  induction ws generalizing m with
  | nil => exact hin.resolve_left (by simp)
  | cons w ws ih =>
    refine ih (memPut m (area + w.1) 8 w.2.toNat) (fun y hy => hapart y (List.mem_cons_of_mem _ hy)) ?_
    rcases hapart w (List.mem_cons_self ..) with rfl | hw
    · right
      unfold areaWord
      rw [memNat_memPut_self, Nat.mod_eq_of_lt (by have := v.isLt; omega), BitVec.ofNat_toNat, BitVec.setWidth_eq]
    · have hkeep : areaWord (memPut m (area + w.1) 8 w.2.toNat) area off = areaWord m area off := by
        unfold areaWord; rw [memNat_memPut_outside _ _ _ _ _ _ (by unfold Apart at hw; omega)]
      rw [hkeep]
      refine hin.imp_left fun h => (List.mem_cons.mp h).resolve_left fun he => ?_
      rw [← he] at hw
      unfold Apart at hw
      omega

/-! ### Where the parts of the image stand -/

theorem faultImage_place {fs : List FaultItem} {w : Nat × Word} (h : w ∈ faultImage fs) : 0x010200 ≤ w.1 := by
  rcases List.mem_cons.mp h with rfl | h
  · exact le_rfl
  · obtain ⟨l, hl, hw⟩ := List.mem_flatten.mp h
    obtain ⟨f, -, rfl⟩ := List.mem_map.mp hl
    simp only [List.mem_cons, List.not_mem_nil, or_false] at hw
    rcases hw with rfl | rfl | rfl <;> dsimp only <;> omega

theorem entryImage_place {i : Nat} {e : Entry} {w : Nat × Word} (h : w ∈ entryImage i e) :
    w = (0x011000 + 64 * i, e.image) ∨ (0x011000 + 64 * i + 8 ≤ w.1 ∧ w.1 ≤ 0x011000 + 64 * i + 24) := by
  simp only [entryImage, List.mem_cons, List.not_mem_nil, or_false] at h
  rcases h with rfl | rfl | rfl | rfl
  · exact .inl rfl
  all_goals exact .inr (by dsimp only; omega)

theorem graphImage_place {s : State} {c : Ctx} {core : BitVec 16} {w : Nat × Word} (h : w ∈ graphImage s c core) : 0x020000 ≤ w.1 := by
  unfold graphImage at h
  rcases List.mem_append.mp h with h | h
  · rcases List.mem_append.mp h with h | h
    · obtain ⟨g, -, hw⟩ := List.mem_flatMap.mp h
      dsimp only at hw
      split at hw
      · cases hw
      · simp only [List.mem_cons, List.not_mem_nil, or_false] at hw
        rcases hw with rfl | rfl | rfl <;> dsimp only <;> omega
    · obtain ⟨l, hl, hw⟩ := List.mem_flatten.mp h
      obtain ⟨k, -, rfl⟩ := List.mem_map.mp hl
      split at hw
      · cases hw
      · split at hw
        · cases hw
        · rw [List.mem_singleton] at hw; subst hw; dsimp only; omega
  · obtain ⟨l, hl, hw⟩ := List.mem_flatten.mp h
    obtain ⟨k, -, rfl⟩ := List.mem_map.mp hl
    split at hw
    · split at hw
      · cases hw
      · obtain ⟨r, -, rfl⟩ := List.mem_map.mp hw
        dsimp only; omega
    · cases hw

/-- The numbers of the system registers that an image holds. -/
def sregNumbers : List Nat :=
  [0x00, 0x01, 0x02, 0x03, 0x04, 0x05, 0x06, 0x08, 0x09, 0x0A, 0x0B, 0x10, 0x11, 0x12, 0x13, 0x14, 0x15, 0x16, 0x18, 0x19, 0x20]

theorem sregImage_numbers (c : Ctx) (core : BitVec 16) (t : Word) : (sregImage c core t).map Prod.fst = sregNumbers := rfl

/-- Each register of an image stands at one place. -/
theorem sregImage_unique {c : Ctx} {core : BitVec 16} {t : Word} {p q : Nat × Word} (hp : p ∈ sregImage c core t) (hq : q ∈ sregImage c core t)
    (h : p.1 = q.1) : p = q :=
  List.inj_on_of_nodup_map (by rw [sregImage_numbers]; decide) hp hq h

theorem sregImage_number {c : Ctx} {core : BitVec 16} {t : Word} {p : Nat × Word} (hp : p ∈ sregImage c core t) : p.1 ≤ 0x20 := by
  have hmem : p.1 ∈ sregNumbers := sregImage_numbers c core t ▸ List.mem_map_of_mem hp
  exact (by decide : ∀ n ∈ sregNumbers, n ≤ 0x20) p.1 hmem

/-! ### A saved area read back -/

section
variable (s : State) (c : Ctx)

/-- The entries and graphs of an image, which stand behind its registers and fault queue. -/
def tableImage : List (Nat × Word) :=
  (List.range 32).flatMap (fun i => entryImage i (getEntry c (BitVec.ofNat 5 i))) ++ graphImage s c (coreIndex s c)

/-- The registers and the fault queue of an image, with the two opaque words. -/
def headImage : List (Nat × Word) :=
  (0x012000, BitVec.ofNat 64 c.serial) :: (0x012008, BitVec.ofNat 64 c.fab.recCount)
    :: ((sregImage c (coreIndex s c) s.ktime).map (fun r => (0x010000 + 8 * r.1, r.2)) ++ faultImage c.faults)

/-- Below the configuration, a park writes the words of the image. -/
theorem areaWord_writeArea {off : Nat} (h : off + 8 ≤ 0x018000) :
    ∃ m, areaWord (writeArea s c) (areaOf c) off = areaWord (putWords (putWords m (areaOf c) (headImage s c)) (areaOf c) (tableImage s c)) (areaOf c) off := by
  refine ⟨replaceRange s.mem (areaOf c + 0x010000) 0xF0000 [], ?_⟩
  have hcfg : ∀ (fs : List (Nat × BitVec 16)) (m : List Host.Cell),
      areaWord (fs.foldl (fun m f => putCfg m (areaOf c) f.1 f.2) m) (areaOf c) off = areaWord m (areaOf c) off := by
    intro fs
    induction fs with
    | nil => exact fun _ => rfl
    | cons f fs ih => exact fun m => (ih _).trans (areaWord_putCfg m _ off f.1 f.2 h)
  unfold writeArea
  rw [areaWord_replaceRange _ _ _ _ _ _ (by omega), hcfg]
  unfold putWords headImage tableImage openImage
  rw [← List.foldl_append]
  simp only [List.cons_append, List.append_assoc]

theorem tableImage_place {w : Nat × Word} (h : w ∈ tableImage s c) : 0x011000 ≤ w.1 := by
  rcases List.mem_append.mp h with h | h
  · obtain ⟨i, -, hw⟩ := List.mem_flatMap.mp h
    rcases entryImage_place hw with rfl | hw
    · exact Nat.le_add_right ..
    · omega
  · exact le_trans (by decide) (graphImage_place h)

/-- A park writes the system registers, each at its place (15 R349). -/
theorem areaWord_writeArea_sreg {n : Nat} {v : Word} (h : (n, v) ∈ sregImage c (coreIndex s c) s.ktime) :
    areaWord (writeArea s c) (areaOf c) (0x010000 + 8 * n) = v := by
  have hn := sregImage_number h
  dsimp only at hn
  obtain ⟨m, hm⟩ := areaWord_writeArea s c (off := 0x010000 + 8 * n) (by omega)
  rw [hm]
  refine areaWord_putWords _ (fun w hw => .inr ?_) (.inr (areaWord_putWords m (fun w hw => ?_) (.inl ?_)))
  · have := tableImage_place s c hw
    unfold Apart; omega
  · rcases List.mem_cons.mp hw with rfl | hw
    · right; unfold Apart; dsimp only; omega
    rcases List.mem_cons.mp hw with rfl | hw
    · right; unfold Apart; dsimp only; omega
    rcases List.mem_append.mp hw with hw | hw
    · obtain ⟨r, hr, rfl⟩ := List.mem_map.mp hw
      by_cases hrn : r.1 = n
      · left; rw [sregImage_unique hr h hrn]
      · right; unfold Apart; dsimp only; omega
    · right
      have := faultImage_place hw
      unfold Apart; omega
  · exact List.mem_cons_of_mem _ (List.mem_cons_of_mem _ (List.mem_append_left _ (List.mem_map.mpr ⟨(n, v), h, rfl⟩)))

/-- And the images of the handler table. -/
theorem areaWord_writeArea_entry (i : BitVec 5) : areaWord (writeArea s c) (areaOf c) (0x011000 + 64 * i.toNat) = (getEntry c i).image := by
  have hi := i.isLt
  have hof : BitVec.ofNat 5 i.toNat = i := by simp
  obtain ⟨m, hm⟩ := areaWord_writeArea s c (off := 0x011000 + 64 * i.toNat) (by omega)
  rw [hm]
  refine areaWord_putWords _ (fun w hw => ?_) (.inl ?_)
  · rcases List.mem_append.mp hw with hw | hw
    · obtain ⟨j, -, hw⟩ := List.mem_flatMap.mp hw
      rcases entryImage_place hw with rfl | hw
      · by_cases hj : j = i.toNat
        · left; rw [hj, hof]
        · right; unfold Apart; dsimp only; omega
      · right; unfold Apart; omega
    · right
      have := graphImage_place hw
      unfold Apart; omega
  · refine List.mem_append_left _ (List.mem_flatMap.mpr ⟨i.toNat, List.mem_range.mpr hi, ?_⟩)
    rw [hof]
    exact List.mem_cons_self ..

/-- And the window share, from 0x100000 on (15 R349). -/
theorem memByte_writeArea_share {n : Nat} (h : n < (c.shareSize.toNat + 1) * 256) :
    memByte (writeArea s c) (areaOf c + 0x100000 + n) = memByte s.win (winKey c.id.core (c.shareBase.toNat * 256) + n) := by
  unfold writeArea
  rw [memByte_replaceRange, if_pos (by omega), memByte_moveRange _ _ _ _ h]

end

/-! ## Parks (15 R353, 09 R223) -/

/-! ### What leaves every context where it is -/

/-- Window memory is as before, the same context is in focus, and the others are the same ones, whatever has become of them. -/
structure Stays (s t : State) : Prop where
  win : t.win = s.win
  focus : t.me.id = s.me.id
  ids : t.others.map (fun x => x.id) = s.others.map (fun x => x.id)

theorem Stays.refl (s : State) : Stays s s := ⟨rfl, rfl, rfl⟩

theorem Stays.trans {s t u : State} (h1 : Stays s t) (h2 : Stays t u) : Stays s u :=
  ⟨h2.win.trans h1.win, h2.focus.trans h1.focus, h2.ids.trans h1.ids⟩

theorem BackFrame.stays {s t : State} (h : BackFrame s t) : Stays s t := ⟨h.win, h.me_id, by rw [h.others]⟩

/-- Another context of those stands where one of that id stood. -/
theorem Stays.present {s t : State} (h : Stays s t) {i : CtxId} (hi : (rawCtx s i).isSome = true) : (rawCtx t i).isSome = true := by
  unfold rawCtx at hi ⊢
  rw [h.focus]
  split_ifs at hi ⊢
  · rfl
  · rw [List.find?_isSome] at hi ⊢
    obtain ⟨x, hx, hid⟩ := hi
    have hmem : x.id ∈ t.others.map (fun x => x.id) := h.ids ▸ List.mem_map_of_mem hx
    obtain ⟨y, hy, hyx⟩ := List.mem_map.mp hmem
    exact ⟨y, hy, by simpa [hyx] using hid⟩

theorem backFrame_countEvent (s : State) (ev : BitVec 8) (n : Nat) : BackFrame s (countEvent s ev n) := rfl

theorem backFrame_homeTouch (s : State) (n : Nat) : BackFrame s (homeTouch s n) :=
  (congrArg (backTo s) (l2Touch_frame (countHome s n) s.me.id.part n) :)

theorem backFrame_repairRange (s : State) (pa n : Nat) : BackFrame s (repairRange s pa n) :=
  .foldl (fun t _ => by split_ifs <;> rfl) _ s

theorem backFrame_homeWrite (s : State) (pa n v : Nat) : BackFrame s (homeWrite s pa n v) :=
  ((BackFrame.foldl backFrame_countHome (linesOf pa n) s).trans (backFrame_homeCommit _ _ _ _)).trans (backFrame_repairRange _ pa n)

theorem stays_putCtx {s : State} {i : CtxId} {c : Ctx} (hc : c.id = i) : Stays s (putCtx s i c) := by
  refine ⟨putCtx_win s i c, putCtx_me_id hc, ?_⟩
  unfold putCtx
  split_ifs
  · rfl
  · rw [List.map_map]
    refine List.map_congr_left fun x _ => ?_
    by_cases hx : x.id = i <;> simp [hx, hc]

theorem stays_installTlb (s : State) (e : TlbEntry) : Stays s (installTlb s e) := by
  have hme : ∀ l, Stays s { s with me.tlb := l } := fun _ => ⟨rfl, rfl, rfl⟩
  unfold installTlb
  dsimp only
  split
  · exact hme _
  · split_ifs
    · exact hme _
    · exact hme _
    · exact (hme _).trans (stays_putCtx rfl)

theorem stays_xlate (s : State) (pr : BitVec 2) (va : Word) (n : Need) : Stays s (xlate s pr va n).1 := by
  have hwalk : Stays s ((walkLines s s.me pr va n).foldl homeTouch (countEvent s 0x06 1)) :=
    ((backFrame_countEvent s 0x06 1).trans (.foldl backFrame_homeTouch _ _)).stays
  unfold xlate
  split_ifs
  · exact .refl s
  · split
    · exact .refl s
    · dsimp only
      split_ifs
      · exact .refl s
      · split
        · exact hwalk.trans (stays_installTlb _ _)
        · exact hwalk
        · exact .refl s

/-! ### Accesses of an engine -/

theorem stays_engXlat {s t : State} {pr : BitVec 2} {va : Word} {size pa : Nat} {n : Need} (h : engXlat s pr va size n = .ok (t, pa)) :
    Stays s t := by
  have hx := stays_xlate s pr va n
  unfold engXlat at h
  split_ifs at h
  split at h
  · rename_i u e hu
    rw [hu] at hx
    dsimp only at h
    split_ifs at h
    cases h
    exact hx
  · split_ifs at h
  · cases h
  · cases h

/-- A computation that goes through has gone through its first part. -/
theorem bind_eq_ok {ε α β : Type} {x : Except ε α} {f : α → Except ε β} {r : β} (h : x >>= f = .ok r) : ∃ a, x = .ok a ∧ f a = .ok r := by
  cases x with
  | error e => cases h
  | ok a => exact ⟨a, rfl, h⟩

theorem stays_engWrite {s t : State} {pr : BitVec 2} {va : Word} {size v : Nat} (h : engWrite s pr va size v = .ok t) : Stays s t := by
  obtain ⟨⟨u, pa⟩, hx, hw⟩ := bind_eq_ok h
  dsimp only at hw
  split_ifs at hw
  cases hw
  exact (stays_engXlat hx).trans (backFrame_homeWrite u pa size v).stays

theorem stays_recordWrite {s t : State} {pr : BitVec 2} {addr : Word} {sum : BitVec 32} {n status : Nat}
    (h : recordWrite s pr addr sum n status = .ok t) : Stays s t := by
  obtain ⟨u, hsum, hprog⟩ := bind_eq_ok h
  exact (stays_engWrite hsum).trans (stays_engWrite hprog)

/-! ### Containment and retirement keep the ids -/

theorem stays_contain (s : State) (p : BitVec 6) : Stays s (contain s p) := by
  have hid : ∀ c : Ctx, (if inPart p c.id then resetCtx c else c).id = c.id := fun c => by split_ifs <;> rfl
  refine ⟨rfl, hid s.me, ?_⟩
  show (s.others.map _).map _ = _
  rw [List.map_map]
  exact List.map_congr_left fun c _ => hid c

theorem stays_retire (s : State) (l : Option Nat) : Stays s (retire s l) := by
  unfold retire
  split
  · exact .refl s
  · split_ifs
    · exact .refl s
    · exact .refl s
    · exact stays_contain s _
    · exact ⟨rfl, rfl, rfl⟩

theorem stays_retiring {s : State} {l : Option Nat} {k : State → State} (hk : ∀ t, Stays t (k t)) : Stays s (retiring s l k) := by
  unfold retiring
  split_ifs
  · exact stays_retire s l
  · exact (stays_retire s l).trans (hk _)

theorem stays_counted (s : State) (t : Trap) : Stays s (counted s t) := by
  unfold counted; split <;> exact ⟨rfl, rfl, rfl⟩

theorem stays_copyStop (s : State) (e : BitVec 2) (cause : BitVec 8) (v : Word) : Stays s (copyStop s e cause v) :=
  ⟨rfl, queueFault_id _ _, rfl⟩

/-! ### The channels stopped -/

theorem parkChannel_idle {s : State} {e : BitVec 2} (h : (getChan s.me e).st ≠ .running) : parkChannel s e = .ok s := if_pos (.inl h)

theorem stays_parkChannel {s t : State} {e : BitVec 2} (h : parkChannel s e = .ok t) : Stays s t := by
  unfold parkChannel at h
  dsimp only at h
  split_ifs at h
  · cases h; exact .refl s
  · split at h
    · cases h
    · cases h; exact .refl s
    · split_ifs at h
      · cases h; exact .refl s
      · split at h
        · rename_i u hu
          cases h
          exact (stays_recordWrite hu).trans ⟨rfl, rfl, rfl⟩
        · cases h
        · cases h
          exact (stays_counted s _).trans (stays_retiring fun u => stays_copyStop u e _ _)

theorem parkChannels_idle {s : State} (h : ∀ e, (getChan s.me e).st ≠ .running) : parkChannels s = .ok s := by
  have hone : ∀ e, parkChannel s e = .ok s := fun e => parkChannel_idle (h e)
  simp [parkChannels, hone, bind, Except.bind]

theorem stays_parkChannels {s t : State} (h : parkChannels s = .ok t) : Stays s t := by
  obtain ⟨s0, h0, h⟩ := bind_eq_ok h
  obtain ⟨s1, h1, h⟩ := bind_eq_ok h
  obtain ⟨s2, h2, h3⟩ := bind_eq_ok h
  exact (((stays_parkChannel h0).trans (stays_parkChannel h1)).trans (stays_parkChannel h2)).trans (stays_parkChannel h3)

/-! ### The area written -/

@[simp] theorem storeRunning_id (c : Ctx) : (storeRunning c).id = c.id := by unfold storeRunning saveBlock; split <;> simp
@[simp] theorem storeRunning_regs (c : Ctx) : (storeRunning c).regs = c.regs := by unfold storeRunning saveBlock; split <;> simp
@[simp] theorem storeRunning_sys (c : Ctx) : (storeRunning c).sys = c.sys := by unfold storeRunning saveBlock; split <;> simp
@[simp] theorem storeRunning_shareBase (c : Ctx) : (storeRunning c).shareBase = c.shareBase := by unfold storeRunning saveBlock; split <;> simp
@[simp] theorem storeRunning_shareSize (c : Ctx) : (storeRunning c).shareSize = c.shareSize := by unfold storeRunning saveBlock; split <;> simp

/-- The block that a park writes changes no image. -/
theorem storeRunning_image (c : Ctx) (i : BitVec 5) : (getEntry (storeRunning c) i).image = (getEntry c i).image := by
  unfold storeRunning saveBlock
  split
  · rfl
  · rename_i j _
    by_cases hij : i = j
    · subst hij
      show (getEntry (setEntry c i _) i).image = _
      rw [getEntry_setEntry_self]
    · show (getEntry (setEntry c j _) i).image = _
      rw [getEntry_setEntry_ne c _ hij]

theorem winKey_add (core : CoreId) (a n : Nat) : winKey core (a + n) = winKey core a + n := by unfold winKey; omega

/-- A context as its park leaves it: its registers in its block, no line and no translation. -/
def parkedCtx (tick : Nat) (k : Ctx) : Ctx := { storeRunning k with l1 := [], tlb := [], stalled := false, pinWait := none, serial := tick + 1 }

/-- A state with the dirty bytes of the context in focus at their homes and the context as its park leaves it. -/
def cleanedState (tick : Nat) (s1 : State) : State :=
  { quietBack s1 s1.me.l1 with me := parkedCtx tick (quietBack s1 s1.me.l1).me }

/-- And its save area written. -/
def savedState (tick : Nat) (s1 : State) : State :=
  let s3 := cleanedState tick s1
  { s3 with mem := writeArea s3 s3.me
            l2 := s3.l2.filter (fun l => !inSpan s3.me l.num)
            bad := lostShare s3 s3.me ++ s3.bad.filter (fun n => !inSpan s3.me n)
            retired := s3.retired.filter (fun n => !inSpan s3.me n)
            saved := { serial := s3.me.serial, image := s3.me } :: s3.saved }

section
variable (tick : Nat) (s1 : State)

theorem cleanedState_win : (cleanedState tick s1).win = s1.win := (backFrame_quietBack s1 s1.me.l1).win
theorem cleanedState_winBad : (cleanedState tick s1).winBad = s1.winBad := (backFrame_quietBack s1 s1.me.l1).winBad
theorem cleanedState_others : (cleanedState tick s1).others = s1.others := (backFrame_quietBack s1 s1.me.l1).others
theorem cleanedState_id : (cleanedState tick s1).me.id = s1.me.id := (storeRunning_id _).trans (backFrame_quietBack s1 s1.me.l1).me_id
theorem cleanedState_regs : (cleanedState tick s1).me.regs = s1.me.regs := (storeRunning_regs _).trans (backFrame_quietBack s1 s1.me.l1).me_regs
theorem cleanedState_sys : (cleanedState tick s1).me.sys = s1.me.sys := (storeRunning_sys _).trans (backFrame_quietBack s1 s1.me.l1).me_sys
theorem cleanedState_shareBase : (cleanedState tick s1).me.shareBase = s1.me.shareBase :=
  (storeRunning_shareBase _).trans (backFrame_quietBack s1 s1.me.l1).me_shareBase
theorem cleanedState_shareSize : (cleanedState tick s1).me.shareSize = s1.me.shareSize :=
  (storeRunning_shareSize _).trans (backFrame_quietBack s1 s1.me.l1).me_shareSize
theorem cleanedState_areaOf : areaOf (cleanedState tick s1).me = areaOf s1.me := by unfold areaOf; rw [cleanedState_sys]

theorem cleanedState_image (i : BitVec 5) : (getEntry (cleanedState tick s1).me i).image = (getEntry s1.me i).image := by
  have hh : getEntry (quietBack s1 s1.me.l1).me i = getEntry s1.me i := by unfold getEntry; simp only [(backFrame_quietBack s1 s1.me.l1).me_htab]
  exact (storeRunning_image _ i).trans (congrArg Entry.image hh)

theorem savedState_mem : (savedState tick s1).mem = writeArea (cleanedState tick s1) (cleanedState tick s1).me := rfl
theorem savedState_win : (savedState tick s1).win = s1.win := cleanedState_win tick s1
theorem savedState_others : (savedState tick s1).others = s1.others := cleanedState_others tick s1
theorem savedState_id : (savedState tick s1).me.id = s1.me.id := cleanedState_id tick s1

theorem savedState_entry (i : BitVec 5) : areaWord (savedState tick s1).mem (areaOf s1.me) (0x011000 + 64 * i.toNat) = (getEntry s1.me i).image := by
  have h := areaWord_writeArea_entry (cleanedState tick s1) (cleanedState tick s1).me i
  rwa [cleanedState_areaOf, cleanedState_image] at h

/-- The registers that a saved area shows are those of the context. -/
theorem savedState_sreg {n : Nat} {v : Word} (h : ∀ (c : Ctx) (core : BitVec 16) (t : Word), c.sys = s1.me.sys → (n, v) ∈ sregImage c core t) :
    areaWord (savedState tick s1).mem (areaOf s1.me) (0x010000 + 8 * n) = v := by
  have hw := areaWord_writeArea_sreg (cleanedState tick s1) (cleanedState tick s1).me (h _ (coreIndex (cleanedState tick s1) (cleanedState tick s1).me)
    (cleanedState tick s1).ktime (cleanedState_sys tick s1))
  rwa [cleanedState_areaOf] at hw

theorem savedState_keval : areaWord (savedState tick s1).mem (areaOf s1.me) 0x010018 = s1.me.sys.keval :=
  savedState_sreg tick s1 (n := 3) fun c core t h => by simp [sregImage, h]
theorem savedState_kvec : areaWord (savedState tick s1).mem (areaOf s1.me) 0x010028 = s1.me.sys.kvec :=
  savedState_sreg tick s1 (n := 5) fun c core t h => by simp [sregImage, h]
theorem savedState_scr0 : areaWord (savedState tick s1).mem (areaOf s1.me) 0x010040 = s1.me.sys.scr0 :=
  savedState_sreg tick s1 (n := 8) fun c core t h => by simp [sregImage, h]

theorem savedState_share {n : Nat} (h : n < (s1.me.shareSize.toNat + 1) * 256) :
    memByte (savedState tick s1).mem (areaOf s1.me + 0x100000 + n) = memByte s1.win (winKey s1.me.id.core (s1.me.shareBase.toNat * 256 + n)) := by
  have hw := memByte_writeArea_share (cleanedState tick s1) (cleanedState tick s1).me (n := n) (by rwa [cleanedState_shareSize])
  rw [cleanedState_areaOf, cleanedState_win, cleanedState_id, cleanedState_shareBase] at hw
  rw [savedState_mem, hw, winKey_add]

/-- A word of the window share that could not be read leaves its line of the area uncorrectable (08 R183). -/
theorem savedState_bad {n : Nat} (hn : n ∈ s1.winBad) (hlow : winKey s1.me.id.core (s1.me.shareBase.toNat * 256) ≤ 8 * n)
    (hhigh : 8 * n < winKey s1.me.id.core (s1.me.shareBase.toNat * 256) + (s1.me.shareSize.toNat + 1) * 256) :
    (areaOf s1.me + 0x100000 + (8 * n - winKey s1.me.id.core (s1.me.shareBase.toNat * 256))) / 128 ∈ (savedState tick s1).bad := by
  refine List.mem_append_left _ ?_
  unfold lostShare
  simp only [cleanedState_areaOf, cleanedState_id, cleanedState_shareBase, cleanedState_shareSize, cleanedState_winBad]
  rw [List.mem_eraseDups]
  refine List.mem_append_left _ (List.mem_filterMap.mpr ⟨n, hn, ?_⟩)
  simp [hlow, hhigh]

end

/-! ### The park complete -/

section
variable {s s1 : State} {c : CoreId} {b : Bool} {id : CtxId} {x : Ctx}

/-- The state after a park of a context, before one that is to go is retired. -/
def parkedState (s s1 : State) (c : CoreId) (b : Bool) : State :=
  focus (setCore (savedState s.tick s1) c (putSet (coreRec s c) b { owed := (getSet (coreRec s c) b).owed + 1 })) s.me.id

theorem parkComplete_eq (hst : (getSet (coreRec s c) b).st = .parking) (hctx : (getSet (coreRec s c) b).ctx = some id) (hx : rawCtx s id = some x)
    (hok : parkChannels (focus s id) = .ok s1) (hready : parkReady s1 = true) :
    parkComplete s c b = if (getSet (coreRec s c) b).gone then retireCtx (parkedState s s1 c b) id else parkedState s s1 c b := by
  simp only [parkComplete, hst, hctx, hx, hok, hready, Bool.not_true, Bool.false_eq_true, if_false]
  rfl

theorem parkedState_core : coreRec (parkedState s s1 c b) c = putSet (coreRec s c) b { owed := (getSet (coreRec s c) b).owed + 1 } := by
  have hf : ∀ t : State, coreRec (focus t s.me.id) c = coreRec t c := fun t => by unfold coreRec; rw [focus_cores]
  unfold parkedState; rw [hf, coreRec_setCore_self]

theorem parkedState_mem : (parkedState s s1 c b).mem = (savedState s.tick s1).mem := by unfold parkedState; rw [focus_mem, setCore_mem]
theorem parkedState_win : (parkedState s s1 c b).win = s1.win := by unfold parkedState; rw [focus_win, setCore_win, savedState_win]

@[simp] theorem focus_bad (s : State) (i : CtxId) : (focus s i).bad = s.bad := by
  unfold focus; split_ifs
  · rfl
  · split <;> rfl

theorem parkedState_bad : (parkedState s s1 c b).bad = (savedState s.tick s1).bad := by unfold parkedState; rw [focus_bad, setCore_bad]

/-- The context that a park has stopped stands where its record did, as the park leaves it. -/
theorem parkedState_rawCtx (hid : s1.me.id = id) : rawCtx (parkedState s s1 c b) id = some (savedState s.tick s1).me := by
  unfold parkedState
  rw [rawCtx_focus]
  have hme : (setCore (savedState s.tick s1) c (putSet (coreRec s c) b { owed := (getSet (coreRec s c) b).owed + 1 })).me.id = id := by
    rw [setCore_me, savedState_id, hid]
  rw [← hme, rawCtx_self, setCore_me]

theorem parkedState_focus (hok : parkChannels (focus s id) = .ok s1) : (parkedState s s1 c b).me.id = s.me.id := by
  refine focus_me_id ?_
  have hstay : Stays (focus s id) (setCore (savedState s.tick s1) c (putSet (coreRec s c) b { owed := (getSet (coreRec s c) b).owed + 1 })) := by
    refine (stays_parkChannels hok).trans ⟨?_, ?_, ?_⟩
    · rw [setCore_win, savedState_win]
    · rw [setCore_me, savedState_id]
    · rw [setCore_others, savedState_others]
  exact hstay.present (by rw [rawCtx_focus, rawCtx_self]; rfl)

/-! ### Retirement (14 R330) -/

theorem retireCtx_mem (s : State) (i : CtxId) : (retireCtx s i).mem = s.mem := rfl
theorem retireCtx_win (s : State) (i : CtxId) : (retireCtx s i).win = s.win := rfl
theorem retireCtx_bad (s : State) (i : CtxId) : (retireCtx s i).bad = s.bad := rfl

/-- Sets that do not hold a context are as before its retirement. -/
theorem retireCtx_set {i : CtxId} {y : Bool} (h : (getSet (coreRec s i.core) y).ctx ≠ some i) :
    getSet (coreRec (retireCtx s i) i.core) y = getSet (coreRec s i.core) y := by
  unfold retireCtx
  show getSet (coreRec (setCore s i.core _) i.core) y = _
  rw [coreRec_setCore_self]
  cases y <;> exact if_neg h

/-- A context that is not in focus is gone after its retirement. -/
theorem retireCtx_gone {i : CtxId} (h : s.me.id ≠ i) : rawCtx (retireCtx s i) i = none := by
  unfold rawCtx retireCtx
  show (if s.me.id = i then _ else (s.others.filter (fun c => decide (c.id ≠ i))).find? _) = none
  rw [if_neg h, List.find?_eq_none]
  intro c hc
  simpa using (List.mem_filter.mp hc).2

end

/-! ## Loads (15 R349, 08 R183) -/

/-! ### A loaded context is the one that was parked -/

@[simp] theorem wakeInbox_id (c : Ctx) (ch : BitVec 6) : (wakeInbox c ch).id = c.id := rfl

@[simp] theorem markSlot_id (i : BitVec 5) (k : Cause) (c : Ctx) : (markSlot i k c).id = c.id := rfl

@[simp] theorem wordMark_id (c : Ctx) (ch : BitVec 6) (v : Word) : (wordMark c ch v).id = c.id := by
  unfold wordMark
  split
  · simp
  · split_ifs <;> simp

@[simp] theorem enterWord_id (h : HeldWord) (c : Ctx) : (enterWord h c).id = c.id := by
  unfold enterWord
  dsimp only
  split_ifs
  · simp
  · split
    · simp
    · split <;> simp

@[simp] theorem postHeld_id (h : HeldWord) (c : Ctx) : (postHeld h c).id = c.id := by
  unfold postHeld
  split_ifs
  · rfl
  · exact enterWord_id h c

theorem foldl_id {β : Type} {f : Ctx → β → Ctx} (hf : ∀ c x, (f c x).id = c.id) (l : List β) (c : Ctx) : (l.foldl f c).id = c.id := by
  induction l generalizing c with
  | nil => rfl
  | cons x l ih => exact (ih (f c x)).trans (hf c x)

@[simp] theorem addInboxes_id (k c : Ctx) : (addInboxes k c).id = k.id := by
  unfold addInboxes
  dsimp only
  rw [foldl_id fun t h => postHeld_id h t]
  exact foldl_id (fun t x => foldl_id (fun t v => postHeld_id _ t) x.2 t) c.inbox k

@[simp] theorem takeImage_id (c k : Ctx) : (takeImage c k).id = c.id := by unfold takeImage; rw [addInboxes_id]

@[simp] theorem sincePark_id (s : State) (c : Ctx) : (sincePark s c).id = c.id := by unfold sincePark; split <;> rfl

@[simp] theorem fromOpaque_id (s : State) (area : Nat) (c : Ctx) : (fromOpaque s area c).id = c.id := by
  unfold fromOpaque
  dsimp only
  split
  · simp
  · split_ifs
    · rfl
    · split <;> simp

@[simp] theorem logBase_id (s : State) (area : Nat) (c : Ctx) : (logBase s area c).id = c.id := by unfold logBase; split <;> rfl

@[simp] theorem withLog_id (s : State) (area : Nat) (c : Ctx) : (withLog s area c).id = c.id := by
  unfold withLog
  dsimp only
  split_ifs <;> rfl

/-- The context that the opaque regions of an area leave, before its open regions are read. -/
def opaqueCtx (s : State) (area : Nat) (c : Ctx) : Ctx := withLog s area (logBase s area (fromOpaque s area c))

theorem opaqueCtx_id (s : State) (area : Nat) (c : Ctx) : (opaqueCtx s area c).id = c.id := by simp [opaqueCtx]

section
variable (s : State) (area : Nat) (c : Ctx)

theorem loadCtx_id : (loadCtx s area c).id = c.id := by
  unfold loadCtx loadGraphs
  dsimp only
  exact opaqueCtx_id s area c
theorem loadCtx_l1 : (loadCtx s area c).l1 = [] := rfl
theorem loadCtx_tlb : (loadCtx s area c).tlb = [] := rfl
theorem loadCtx_faults : (loadCtx s area c).faults = loadFaults s.mem area := by
  unfold loadCtx loadGraphs
  dsimp only
theorem loadCtx_keval : (loadCtx s area c).sys.keval = areaWord s.mem area 0x010018 := rfl
theorem loadCtx_kvec : (loadCtx s area c).sys.kvec = areaWord s.mem area 0x010028 &&& ~~~ 0x3FF#64 := rfl
theorem loadCtx_scr0 : (loadCtx s area c).sys.scr0 = areaWord s.mem area 0x010040 := rfl

theorem loadCtx_image (i : BitVec 5) : (getEntry (loadCtx s area c) i).image = areaWord s.mem area (0x011000 + 64 * i.toNat) := by
  have h : getEntry (loadCtx s area c) i = loadEntry s.mem area i.toNat (opaqueCtx s area c).htab[i.toNat] := by
    show (Vector.ofFn fun j : Fin 32 => loadEntry s.mem area j.val (opaqueCtx s area c).htab[j.val])[i.toNat] = _
    rw [Vector.getElem_ofFn]
  rw [h]; rfl

end

@[simp] theorem reexamine_id (s : State) (c : Ctx) : (reexamine s c).id = c.id := rfl
@[simp] theorem reexamine_l1 (s : State) (c : Ctx) : (reexamine s c).l1 = c.l1 := rfl
@[simp] theorem reexamine_tlb (s : State) (c : Ctx) : (reexamine s c).tlb = c.tlb := rfl
@[simp] theorem reexamine_sys (s : State) (c : Ctx) : (reexamine s c).sys = c.sys := rfl
@[simp] theorem reexamine_faults (s : State) (c : Ctx) : (reexamine s c).faults = c.faults := rfl
@[simp] theorem reexamine_moved (s : State) (c : Ctx) : (reexamine s c).moved = c.moved := rfl

/-- Waits examined again change no image. -/
theorem reexamine_image (s : State) (c : Ctx) (i : BitVec 5) : (getEntry (reexamine s c) i).image = (getEntry c i).image := by
  have h : getEntry (reexamine s c) i = if waitOver s c (getEntry c i) then wake (getEntry c i) else getEntry c i := by
    show (c.htab.map _)[i.toNat] = _
    rw [Vector.getElem_map]; rfl
  rw [h]
  split_ifs
  · unfold wake; split_ifs <;> rfl
  · rfl

/-! ### The set that holds a context -/

section
variable {s : State} {b : Bool} {id : CtxId}

theorem setOf_of_set (hctx : (getSet (coreRec s id.core) b).ctx = some id) (hother : (getSet (coreRec s id.core) (!b)).ctx ≠ some id) :
    setOf s id = some b := by
  cases b
  · exact if_pos hctx
  · exact (if_neg hother).trans (if_pos hctx)

theorem setState_of_set (hctx : (getSet (coreRec s id.core) b).ctx = some id) (hother : (getSet (coreRec s id.core) (!b)).ctx ≠ some id) :
    setState s id = (getSet (coreRec s id.core) b).st := by
  cases b
  · exact if_pos hctx
  · exact (if_neg hother).trans (if_pos hctx)

/-- A context whose set is loaded has its tables in itself. -/
theorem inArea_of_loaded (hctx : (getSet (coreRec s id.core) b).ctx = some id) (hother : (getSet (coreRec s id.core) (!b)).ctx ≠ some id)
    (hst : (getSet (coreRec s id.core) b).st ≠ .loading) : inArea s id = false := by
  unfold inArea
  rw [setOf_of_set hctx hother, setState_of_set hctx hother]
  simp [hst]

theorem updCtx_standing {c : Ctx} {f : Ctx → Ctx} (harea : inArea s id = false) (hc : rawCtx s id = some c) :
    updCtx s id f = putCtx s id (f c) := by
  have hfind : findCtx s id = some c := by unfold findCtx; rw [if_neg (by simp [harea]), hc]
  unfold updCtx
  simp [hfind, harea]

end

/-! ### The load complete -/

/-- A set whose load is complete. -/
def readySet (x : SetRec) : SetRec := { x with st := .ready, owed := 0 }

theorem readySet_of_ctx {x : SetRec} {id : CtxId} (h : x.ctx = some id) : readySet x = { st := .ready, ctx := some id, owed := 0, gone := x.gone } := by
  rw [← h]; rfl

section
variable (s : State) (c : CoreId) (b : Bool) (id : CtxId) (x : Ctx)

/-- The context as its area gives it. -/
def loadedCtx : Ctx := { loadCtx s (areaOf x) x with moved := x.moved + 1 + (getSet (coreRec s c) b).owed }

theorem loadedCtx_l1 : (loadedCtx s c b x).l1 = [] := by unfold loadedCtx; exact loadCtx_l1 s (areaOf x) x
theorem loadedCtx_tlb : (loadedCtx s c b x).tlb = [] := by unfold loadedCtx; exact loadCtx_tlb s (areaOf x) x
theorem loadedCtx_sys : (loadedCtx s c b x).sys = (loadCtx s (areaOf x) x).sys := by unfold loadedCtx; dsimp only
theorem loadedCtx_faults : (loadedCtx s c b x).faults = loadFaults s.mem (areaOf x) := by
  unfold loadedCtx; dsimp only; exact loadCtx_faults s (areaOf x) x
theorem loadedCtx_moved : (loadedCtx s c b x).moved = x.moved + 1 + (getSet (coreRec s c) b).owed := by unfold loadedCtx; dsimp only
theorem loadedCtx_image (i : BitVec 5) : (getEntry (loadedCtx s c b x) i).image = areaWord s.mem (areaOf x) (0x011000 + 64 * i.toNat) := by
  have h := loadCtx_image s (areaOf x) x i
  unfold getEntry at h ⊢
  unfold loadedCtx
  dsimp only
  exact h

/-- The first byte of a context's window share in the module's window memory, and its length. -/
def shareKey : Nat := winKey c (x.shareBase.toNat * 256)
def shareLen (x : Ctx) : Nat := (x.shareSize.toNat + 1) * 256

/-- The set Ready, the context and its window share as the area gives them, before its waits are examined. -/
def filledState : State :=
  { putCtx (setCore s c (putSet (coreRec s c) b (readySet (getSet (coreRec s c) b)))) id (loadedCtx s c b x) with
    win := replaceRange s.win (shareKey c x) (shareLen x) (moveRange s.mem (areaOf x + 0x100000) (shareLen x) (shareKey c x))
    winBad := lostWords s x ++ s.winBad.filter (fun w => !(decide (shareKey c x ≤ 8 * w) && decide (8 * w < shareKey c x + shareLen x)))
    retired := s.retired.filter (fun n => n < 2 ^ 45
      || !(decide (shareKey c x ≤ (n - 2 ^ 45) * 128) && decide ((n - 2 ^ 45) * 128 < shareKey c x + shareLen x))) }

/-- The state after a load: the waits of the context have been examined again (01 R32). -/
def loadedState : State := putCtx (filledState s c b id x) id (reexamine (filledState s c b id x) (loadedCtx s c b x))

/-- An uncorrectable line of an area that is none of its window share (15 R361). -/
def controlLost : Bool := (s.bad ++ s.retired).any (fun n => inSpan x n && decide (n * 128 < areaOf x + 0x100000))

end

section
variable {s : State} {c : CoreId} {b : Bool} {id : CtxId} {x : Ctx}

theorem filledState_core : coreRec (filledState s c b id x) c = putSet (coreRec s c) b (readySet (getSet (coreRec s c) b)) := by
  have h : (filledState s c b id x).cores = (setCore s c (putSet (coreRec s c) b (readySet (getSet (coreRec s c) b)))).cores :=
    putCtx_cores _ _ _
  exact (congrArg (fun t => tabGet CoreRec.zero t c.toNat) h :).trans (coreRec_setCore_self s c _)

theorem loadedCtx_id (hx : rawCtx s id = some x) : (loadedCtx s c b x).id = id := by
  unfold loadedCtx
  dsimp only
  exact (loadCtx_id s _ x).trans (rawCtx_id hx)

theorem filledState_rawCtx (hx : rawCtx s id = some x) : rawCtx (filledState s c b id x) id = some (loadedCtx s c b x) := by
  have h := rawCtx_putCtx (s := setCore s c (putSet (coreRec s c) b (readySet (getSet (coreRec s c) b))))
    (loadedCtx_id (c := c) (b := b) hx) id
  rw [if_pos rfl] at h
  refine h.trans ?_
  show (rawCtx s id).map _ = _
  rw [hx]; rfl

section
variable (hst : (getSet (coreRec s c) b).st = .loading) (hctx : (getSet (coreRec s c) b).ctx = some id) (hx : rawCtx s id = some x)
include hst hctx hx

theorem loadComplete_parksOther (hway : inTheWay s (getSet (coreRec s c) (!b)) id = true)
    (hrest : (getSet (coreRec s c) (!b)).st = .frozen ∨ (getSet (coreRec s c) (!b)).st = .ready) :
    loadComplete s c b = setCore s c (putSet (coreRec s c) (!b) { getSet (coreRec s c) (!b) with st := .parking }) := by
  have hno : ((getSet (coreRec s c) (!b)).st != .loading) = true := by rcases hrest with h | h <;> simp [h]
  simp only [loadComplete, hst, hctx, hx, hway, hno, Bool.and_self, if_true]
  exact if_pos hrest

theorem loadComplete_waitsForOther (hway : inTheWay s (getSet (coreRec s c) (!b)) id = true)
    (hbusy : (getSet (coreRec s c) (!b)).st = .active ∨ (getSet (coreRec s c) (!b)).st = .parking) : loadComplete s c b = s := by
  rcases hbusy with h | h <;> simp [loadComplete, hst, hctx, hx, hway, h]

variable (hfree : inTheWay s (getSet (coreRec s c) (!b)) id = false)
include hfree

theorem loadComplete_waitsForSlot (hdram : dramOk s id.part (areaOf x / 128) = false) : loadComplete s c b = s := by
  simp [loadComplete, hst, hctx, hx, hfree, hdram]

theorem loadComplete_contains (hdram : dramOk s id.part (areaOf x / 128) = true) (hlost : controlLost s x = true) :
    loadComplete s c b = contain s (id.part.extractLsb' 0 6) := by
  unfold controlLost at hlost
  simp only [loadComplete, hst, hctx, hx, hfree, hdram, Bool.false_and, Bool.not_true, Bool.false_eq_true, if_false]
  exact if_pos hlost

theorem loadComplete_loads (hdram : dramOk s id.part (areaOf x / 128) = true) (hlost : controlLost s x = false)
    (hother : (getSet (coreRec s c) (!b)).ctx ≠ some id) (hcore : id.core = c) : loadComplete s c b = loadedState s c b id x := by
  have hupd : loadComplete s c b = updCtx (filledState s c b id x) id (reexamine (filledState s c b id x)) := by
    unfold controlLost at hlost
    simp only [loadComplete, hst, hctx, hx, hfree, hdram, Bool.false_and, Bool.not_true, Bool.false_eq_true, if_false]
    refine (if_neg (ne_true_of_eq_false hlost)).trans ?_
    unfold filledState
    rw [readySet_of_ctx hctx]
    rfl
  have hset : ∀ y, getSet (coreRec (filledState s c b id x) id.core) y
      = getSet (putSet (coreRec s c) b (readySet (getSet (coreRec s c) b))) y := fun y => by rw [hcore, filledState_core]
  rw [hupd, updCtx_standing (inArea_of_loaded (b := b) ?_ ?_ ?_) (filledState_rawCtx hx)]
  · rfl
  · rw [hset, getSet_putSet_self]; exact hctx
  · rw [hset, getSet_putSet_not]; exact hother
  · rw [hset, getSet_putSet_self]; simp [readySet]

end

/-! ### What a load leaves -/

theorem loadedState_core : coreRec (loadedState s c b id x) c = putSet (coreRec s c) b (readySet (getSet (coreRec s c) b)) := by
  have h : ∀ k, coreRec (loadedState s c b id x) k = coreRec (filledState s c b id x) k := fun k => by
    unfold coreRec loadedState; rw [putCtx_cores]
  rw [h, filledState_core]

theorem loadedState_mem : (loadedState s c b id x).mem = s.mem := by
  unfold loadedState
  rw [putCtx_mem]
  exact (putCtx_mem _ _ _).trans rfl

theorem loadedState_rawCtx (hx : rawCtx s id = some x) :
    rawCtx (loadedState s c b id x) id = some (reexamine (filledState s c b id x) (loadedCtx s c b x)) := by
  have hid : (reexamine (filledState s c b id x) (loadedCtx s c b x)).id = id := by
    rw [reexamine_id]; exact loadedCtx_id hx
  unfold loadedState
  rw [rawCtx_putCtx hid, if_pos rfl, filledState_rawCtx hx]; rfl

theorem loadedState_win : (loadedState s c b id x).win
    = replaceRange s.win (shareKey c x) (shareLen x) (moveRange s.mem (areaOf x + 0x100000) (shareLen x) (shareKey c x)) := by
  unfold loadedState; rw [putCtx_win]; rfl

@[simp] theorem putCtx_winBad (s : State) (i : CtxId) (k : Ctx) : (putCtx s i k).winBad = s.winBad := by unfold putCtx; split_ifs <;> rfl

theorem loadedState_winBad : (loadedState s c b id x).winBad
    = lostWords s x ++ s.winBad.filter (fun w => !(decide (shareKey c x ≤ 8 * w) && decide (8 * w < shareKey c x + shareLen x))) := by
  unfold loadedState; rw [putCtx_winBad]; rfl

/-- The share is read from the area; no other byte of window memory changes. -/
theorem loadedState_share {n : Nat} (h : n < shareLen x) :
    memByte (loadedState s c b id x).win (shareKey c x + n) = memByte s.mem (areaOf x + 0x100000 + n) := by
  rw [loadedState_win, memByte_replaceRange, if_pos (by omega), memByte_moveRange _ _ _ _ h]

theorem loadedState_outside {a : Nat} (h : ¬ (shareKey c x ≤ a ∧ a < shareKey c x + shareLen x)) :
    memByte (loadedState s c b id x).win a = memByte s.win a := by
  rw [loadedState_win, memByte_replaceRange, if_neg h]

/-- The words of the share that an uncorrectable line of the area leaves uncorrectable. -/
theorem mem_lostWords {n : Nat} (halign : areaOf x % 128 = 0) (hlow : shareKey x.id.core x ≤ 8 * n)
    (hhigh : 8 * n < shareKey x.id.core x + shareLen x) :
    n ∈ lostWords s x ↔ (areaOf x + 0x100000 + (8 * n - shareKey x.id.core x)) / 128 ∈ s.bad ++ s.retired := by
  have hkey : shareKey x.id.core x % 128 = 0 := by unfold shareKey winKey; omega
  have hmem : n ∈ lostWords s x ↔ ∃ l ∈ s.bad ++ s.retired, (areaOf x + 0x100000 ≤ l * 128 ∧ l * 128 < areaOf x + 0x100000 + shareLen x)
      ∧ ∃ i < 16, (shareKey x.id.core x + (l * 128 - (areaOf x + 0x100000))) / 8 + i = n := by
    unfold lostWords
    simp only [List.mem_flatMap, List.mem_eraseDups, List.mem_filter, List.mem_map, List.mem_range, Bool.and_eq_true, decide_eq_true_eq, and_assoc]
    rfl
  rw [hmem]
  generalize shareKey x.id.core x = key at hlow hhigh hkey ⊢
  generalize areaOf x = area at halign ⊢
  constructor
  · rintro ⟨l, hl, ⟨h1, h2⟩, i, hi, rfl⟩
    rwa [show (area + 0x100000 + (8 * ((key + (l * 128 - (area + 0x100000))) / 8 + i) - key)) / 128 = l by omega]
  · intro hl
    have hlen : shareLen x % 128 = 0 := by unfold shareLen; omega
    refine ⟨_, hl, ⟨by omega, by omega⟩, (8 * n - key) / 8 % 16, by omega, by omega⟩

theorem loadedState_lost {n : Nat} (hcore : x.id.core = c) (halign : areaOf x % 128 = 0) (hlow : shareKey c x ≤ 8 * n)
    (hhigh : 8 * n < shareKey c x + shareLen x) :
    n ∈ (loadedState s c b id x).winBad ↔ (areaOf x + 0x100000 + (8 * n - shareKey c x)) / 128 ∈ s.bad ++ s.retired := by
  subst hcore
  rw [loadedState_winBad, List.mem_append, ← mem_lostWords halign hlow hhigh]
  simp [hlow, hhigh]

/-- A containment event marks its partition busy (16 R367) and leaves window memory as it is. -/
theorem contain_busy (s : State) (p : BitVec 6) : (partRec (contain s p) p).busy = true :=
  congrArg PartRec.busy (partRec_setPart_self s p _ :)

end

/-! ## Core calendars (O58) -/

section
variable {s : State} {c : CoreId} {b : Bool} {id : CtxId}

/-- The next present slot begins: its word in force, its end set and the swap due. -/
theorem calendar_enters {k : Nat} (hdue : TimeUp s c) (hstop : (coreRec s c).stopReq = false) (hk : k < 16)
    (hidle : ∀ m < k, slotLen (nextWord (coreRec s c) (((coreRec s c).cur.toNat + 1 + m) % 16)) = 0)
    (hw : slotLen (nextWord (coreRec s c) (((coreRec s c).cur.toNat + 1 + k) % 16)) ≠ 0) :
    ∃ u, exec (.calendarSlotBoundary c) s = .next u ∧ OnlyCore s u c ∧ (coreRec u c).cur.toNat = ((coreRec s c).cur.toNat + 1 + k) % 16
      ∧ (coreRec u c).boundary = true
      ∧ tabGet 0 (coreRec u c).slots (((coreRec s c).cur.toNat + 1 + k) % 16) = nextWord (coreRec s c) (((coreRec s c).cur.toNat + 1 + k) % 16)
      ∧ (coreRec u c).nextAt = (if slotLen (curWord (coreRec s c)) = 0 then s.ktime else (coreRec s c).nextAt)
          + BitVec.ofNat 64 (slotLen (nextWord (coreRec s c) (((coreRec s c).cur.toNat + 1 + k) % 16)) * 25000)
      ∧ (coreRec u c).setA = (coreRec s c).setA ∧ (coreRec u c).setB = (coreRec s c).setB := by
  have hi : ((coreRec s c).cur.toNat + 1 + k) % 16 < 16 := Nat.mod_lt _ (by decide)
  refine ⟨_, exec_calendarSlotBoundary s c, ?_⟩
  rw [slotBoundary_next hdue hstop hk hidle hw, coreRec_setCore_self]
  exact ⟨onlyCore_setCore _ _ _, enterSlot_cur _ hi _, rfl, enterSlot_slots _ _ _, rfl, rfl, rfl⟩

/-- Without a present slot the calendar ends its current slot, and stands still from then on (log 98). -/
theorem calendar_without_slots (hdue : TimeUp s c) (hstop : (coreRec s c).stopReq = false)
    (hidle : ∀ m < 16, slotLen (nextWord (coreRec s c) (((coreRec s c).cur.toNat + 1 + m) % 16)) = 0) :
    (slotLen (curWord (coreRec s c)) = 0 → exec (.calendarSlotBoundary c) s = .next s)
    ∧ (slotLen (curWord (coreRec s c)) ≠ 0 → ∃ u, exec (.calendarSlotBoundary c) s = .next u ∧ OnlyCore s u c ∧ slotLen (curWord (coreRec u c)) = 0
        ∧ (coreRec u c).boundary = true ∧ (coreRec u c).nextAt = (coreRec s c).nextAt) := by
  have hcur := nextWord_cur_idle hidle
  refine ⟨fun h0 => ?_, fun h0 => ⟨_, exec_calendarSlotBoundary s c, ?_⟩⟩
  · rw [exec_calendarSlotBoundary, slotBoundary_idle hdue hstop hidle h0]
  · rw [slotBoundary_runsOut hdue hstop hidle h0, coreRec_setCore_self]
    refine ⟨onlyCore_setCore _ _ _, ?_, rfl, ?_⟩
    · rw [curWord_enterSlot _ (coreRec s c).cur.isLt, hcur]
    · rw [enterSlot_nextAt, hcur]; simp

theorem calendar_stops (hdue : TimeUp s c) (hstop : (coreRec s c).stopReq = true) :
    ∃ u, exec (.calendarSlotBoundary c) s = .next u ∧ OnlyCore s u c ∧ coreRec u c = { coreRec s c with running := false, stopReq := false } := by
  refine ⟨_, exec_calendarSlotBoundary s c, ?_⟩
  rw [slotBoundary_stop hdue hstop, coreRec_setCore_self]
  exact ⟨onlyCore_setCore _ _ _, rfl⟩

/-! ### A slot for one context -/

theorem solo_load_begins (hbd : (coreRec s c).boundary = true) (hsolo : SoloSlot s c b id) (hst : (getSet (coreRec s c) b).st = .empty)
    (hctx : (getSet (coreRec s c) b).ctx ≠ some id) (hother : (getSet (coreRec s c) (!b)).ctx ≠ some id)
    (hfree : inTheWay s (getSet (coreRec s c) (!b)) id = false) :
    ∃ u, exec (.contextLoadStart c) s = .next u ∧ OnlyCore s u c
      ∧ getSet (coreRec u c) b = { getSet (coreRec s c) b with st := .loading, ctx := some id }
      ∧ getSet (coreRec u c) (!b) = getSet (coreRec s c) (!b) := by
  refine ⟨_, exec_contextLoadStart s c, ?_⟩
  rw [loadStart_solo hbd hsolo, fetchSet_loads hctx hst hother hfree, coreRec_setCore_self]
  exact ⟨onlyCore_setCore _ _ _, getSet_putSet_self _ _ _, getSet_putSet_not _ _ _⟩

theorem solo_parks_other (hbd : (coreRec s c).boundary = true) (hsolo : SoloSlot s c b id) (hst : (getSet (coreRec s c) b).st = .empty)
    (hctx : (getSet (coreRec s c) b).ctx ≠ some id) (hother : (getSet (coreRec s c) (!b)).ctx ≠ some id)
    (hway : inTheWay s (getSet (coreRec s c) (!b)) id = true)
    (hrest : (getSet (coreRec s c) (!b)).st = .frozen ∨ (getSet (coreRec s c) (!b)).st = .ready) :
    ∃ u, exec (.contextLoadStart c) s = .next u ∧ OnlyCore s u c ∧ getSet (coreRec u c) b = getSet (coreRec s c) b
      ∧ getSet (coreRec u c) (!b) = { getSet (coreRec s c) (!b) with st := .parking } := by
  refine ⟨_, exec_contextLoadStart s c, ?_⟩
  rw [loadStart_solo hbd hsolo, fetchSet_parksOther hctx hst hother hway hrest, coreRec_setCore_self]
  exact ⟨onlyCore_setCore _ _ _, getSet_not_putSet _ _ _, getSet_putSet_self _ _ _⟩

theorem solo_parks_own (hbd : (coreRec s c).boundary = true) (hsolo : SoloSlot s c b id) (hrest : AtRest (getSet (coreRec s c) b))
    (hctx : (getSet (coreRec s c) b).ctx ≠ some id) :
    ∃ u, exec (.contextLoadStart c) s = .next u ∧ OnlyCore s u c ∧ getSet (coreRec u c) b = { getSet (coreRec s c) b with st := .parking }
      ∧ getSet (coreRec u c) (!b) = getSet (coreRec s c) (!b) := by
  refine ⟨_, exec_contextLoadStart s c, ?_⟩
  rw [loadStart_solo hbd hsolo, fetchSet_rest hctx hrest, coreRec_setCore_self]
  exact ⟨onlyCore_setCore _ _ _, getSet_putSet_self _ _ _, getSet_putSet_not _ _ _⟩

theorem solo_swap_waits (hbd : (coreRec s c).boundary = true) (hsolo : SoloSlot s c b id) (hctx : (getSet (coreRec s c) b).ctx = some id)
    (hrest : AtRest (getSet (coreRec s c) b))
    (hwait : boundaryHere s c = false ∨ ¬ WaysDivide s c (slotRecord s (coreRec s c) (slotNeeds c (coreRec s c) (curWord (coreRec s c))))) :
    exec (.tokenBoundarySwap c) s = .next s := by
  rw [exec_tokenBoundarySwap, tokenSwap_waits (asks_solo hbd hsolo hctx hrest) (.inl hbd) hwait]

theorem solo_swap_made (hbd : (coreRec s c).boundary = true) (hsolo : SoloSlot s c b id) (hctx : (getSet (coreRec s c) b).ctx = some id)
    (hrest : AtRest (getSet (coreRec s c) b)) (hother : (getSet (coreRec s c) (!b)).ctx ≠ some id) (hhere : boundaryHere s c = true)
    (hways : WaysDivide s c (slotRecord s (coreRec s c) (slotNeeds c (coreRec s c) (curWord (coreRec s c))))) :
    ∃ u, exec (.tokenBoundarySwap c) s = .next u ∧ Swapped s u c b ∧ (coreRec u c).boundary = false := by
  refine ⟨_, exec_tokenBoundarySwap s c, ?_⟩
  rw [tokenSwap_goes (asks_solo hbd hsolo hctx hrest) hhere hways, hsolo]
  have hswap := swapOf_slotRecord (s := s) hctx hrest
  obtain ⟨-, hbound, -⟩ := withSets_effect s c (coreRec s c) _ hswap.plan
  exact ⟨swapped_withSets hswap hctx hrest hother, by rw [hbound, slotRecord_solo hctx hrest]⟩

theorem solo_swap_awaits_load (hbd : (coreRec s c).boundary = true) (hsolo : SoloSlot s c b id) (hctx : (getSet (coreRec s c) b).ctx = some id)
    (hst : (getSet (coreRec s c) b).st = .loading) : exec (.tokenBoundarySwap c) s = .next s := by
  rw [exec_tokenBoundarySwap, tokenSwap_none (swapRecord_loading hbd hsolo hctx hst) (.inl hbd)]

/-- A CTXSW waits for the token boundary and the write-backs, and then swaps (06 R137). -/
theorem ctxsw_swaps (hbd : (coreRec s c).boundary = false) (hrun : (coreRec s c).running = false) (hreq : (coreRec s c).swReq = some b)
    (hrest : AtRest (getSet (coreRec s c) b)) (hctx : (getSet (coreRec s c) b).ctx = some id)
    (hother : (getSet (coreRec s c) (!b)).ctx ≠ some id) :
    (boundaryHere s c = false ∨ ¬ WaysDivide s c (ctxswRecord s (coreRec s c) b) → exec (.tokenBoundarySwap c) s = .next s)
    ∧ (boundaryHere s c = true → WaysDivide s c (ctxswRecord s (coreRec s c) b) →
        ∃ u, exec (.tokenBoundarySwap c) s = .next u ∧ Swapped s u c b ∧ (coreRec u c).swReq = none) := by
  have hasks := asks_ctxsw hbd hrun hreq hrest
  refine ⟨fun hwait => ?_, fun hhere hways => ⟨_, exec_tokenBoundarySwap s c, ?_⟩⟩
  · rw [exec_tokenBoundarySwap, tokenSwap_waits hasks (.inr (by rw [ctxswSet_atRest hrun hreq hrest]; rfl)) hwait]
  · rw [tokenSwap_goes hasks hhere hways]
    have hswap := swapOf_ctxswRecord s (coreRec s c) b
    obtain ⟨-, -, hsw, -⟩ := withSets_effect s c (coreRec s c) _ hswap.plan
    exact ⟨swapped_withSets hswap hctx hrest hother, hsw⟩

/-! ### Parks and loads -/

/-- With no channel running, the context that is parked is the one that stood there. -/
theorem parkChannels_idle_me {s1 : State} {x : Ctx} (hx : rawCtx s id = some x) (hidle : ∀ e, (getChan x e).st ≠ .running)
    (hok : parkChannels (focus s id) = .ok s1) : s1.me = x := by
  have hme : (focus s id).me = x := by
    have h := rawCtx_focus s id id
    have hid : (focus s id).me.id = id := focus_me_id (by rw [hx]; rfl)
    rw [hx] at h
    nth_rewrite 2 [← hid] at h
    rw [rawCtx_self] at h
    exact Option.some.inj h
  have hsame : Except.ok (focus s id) = Except.ok s1 := (parkChannels_idle (by rwa [hme])).symm.trans hok
  cases hsame
  exact hme

/-- What a park leaves: the set Empty, the open regions and the window share in the area, and the context with neither line nor translation, or, where
it is to go, gone. -/
theorem park_completes {s1 : State} {x : Ctx} (hst : (getSet (coreRec s c) b).st = .parking) (hctx : (getSet (coreRec s c) b).ctx = some id)
    (hx : rawCtx s id = some x) (hother : (getSet (coreRec s c) (!b)).ctx ≠ some id) (hcore : id.core = c)
    (hok : parkChannels (focus s id) = .ok s1) (hready : parkReady s1 = true) :
    ∃ u, exec (.contextParkComplete c b) s = .next u ∧ getSet (coreRec u c) b = { owed := (getSet (coreRec s c) b).owed + 1 }
      ∧ getSet (coreRec u c) (!b) = getSet (coreRec s c) (!b) ∧ u.win = s.win ∧ u.mem = (savedState s.tick s1).mem ∧ u.bad = (savedState s.tick s1).bad
      ∧ ((getSet (coreRec s c) b).gone = false → rawCtx u id = some (savedState s.tick s1).me)
      ∧ ((getSet (coreRec s c) b).gone = true → s.me.id ≠ id → rawCtx u id = none) := by
  subst hcore
  have hstays := stays_parkChannels hok
  have hfocus : (focus s id).me.id = id := focus_me_id (by rw [hx]; rfl)
  have hwin : (parkedState s s1 id.core b).win = s.win := by rw [parkedState_win, hstays.win, focus_win]
  have hmine : getSet (coreRec (parkedState s s1 id.core b) id.core) b = { owed := (getSet (coreRec s id.core) b).owed + 1 } := by
    rw [parkedState_core, getSet_putSet_self]
  have hrest : getSet (coreRec (parkedState s s1 id.core b) id.core) (!b) = getSet (coreRec s id.core) (!b) := by
    rw [parkedState_core, getSet_putSet_not]
  refine ⟨_, exec_contextParkComplete s id.core b, ?_⟩
  rw [parkComplete_eq hst hctx hx hok hready]
  cases hgone : (getSet (coreRec s id.core) b).gone with
  | false =>
    exact ⟨hmine, hrest, hwin, parkedState_mem, parkedState_bad, fun _ => parkedState_rawCtx (hstays.focus.trans hfocus), (fun h => by cases h)⟩
  | true =>
    simp only [if_true]
    refine ⟨?_, ?_, (retireCtx_win _ _).trans hwin, (retireCtx_mem _ _).trans parkedState_mem, (retireCtx_bad _ _).trans parkedState_bad, (fun h => by cases h), fun _ hme => retireCtx_gone ?_⟩
    · rw [retireCtx_set (by rw [hmine]; simp), hmine]
    · rw [retireCtx_set (by rwa [hrest]), hrest]
    · rwa [parkedState_focus hok]

/-- A load reads back what its area holds (15 R349). -/
theorem load_completes {x : Ctx} (hst : (getSet (coreRec s c) b).st = .loading) (hctx : (getSet (coreRec s c) b).ctx = some id)
    (hx : rawCtx s id = some x) (hother : (getSet (coreRec s c) (!b)).ctx ≠ some id) (hcore : id.core = c)
    (hfree : inTheWay s (getSet (coreRec s c) (!b)) id = false) (hdram : dramOk s id.part (areaOf x / 128) = true)
    (hlost : controlLost s x = false) :
    ∃ u y, exec (.contextLoadComplete c b) s = .next u ∧ getSet (coreRec u c) b = readySet (getSet (coreRec s c) b)
      ∧ getSet (coreRec u c) (!b) = getSet (coreRec s c) (!b) ∧ u.mem = s.mem ∧ rawCtx u id = some y ∧ y.l1 = [] ∧ y.tlb = []
      ∧ y.sys.keval = areaWord s.mem (areaOf x) 0x010018 ∧ y.sys.kvec = areaWord s.mem (areaOf x) 0x010028 &&& ~~~ 0x3FF#64
      ∧ y.sys.scr0 = areaWord s.mem (areaOf x) 0x010040 ∧ y.moved = x.moved + 1 + (getSet (coreRec s c) b).owed
      ∧ (∀ i : BitVec 5, (getEntry y i).image = areaWord s.mem (areaOf x) (0x011000 + 64 * i.toNat)) ∧ y.faults = loadFaults s.mem (areaOf x)
      ∧ (∀ n < shareLen x, memByte u.win (shareKey c x + n) = memByte s.mem (areaOf x + 0x100000 + n))
      ∧ (∀ a, ¬ (shareKey c x ≤ a ∧ a < shareKey c x + shareLen x) → memByte u.win a = memByte s.win a)
      ∧ (areaOf x % 128 = 0 → ∀ n, shareKey c x ≤ 8 * n → 8 * n < shareKey c x + shareLen x →
          (n ∈ u.winBad ↔ (areaOf x + 0x100000 + (8 * n - shareKey c x)) / 128 ∈ s.bad ++ s.retired)) := by
  have hxcore : x.id.core = c := by rw [rawCtx_id hx, hcore]
  refine ⟨loadedState s c b id x, _, ?_, ?_, ?_, loadedState_mem, loadedState_rawCtx hx, ?_, ?_, ?_, ?_, ?_, ?_, fun i => ?_, ?_,
    fun n hn => loadedState_share hn, fun a ha => loadedState_outside ha, fun halign n => loadedState_lost hxcore halign⟩
  · rw [exec_contextLoadComplete, loadComplete_loads hst hctx hx hfree hdram hlost hother hcore]
  · rw [loadedState_core, getSet_putSet_self]
  · rw [loadedState_core, getSet_putSet_not]
  · rw [reexamine_l1, loadedCtx_l1]
  · rw [reexamine_tlb, loadedCtx_tlb]
  · rw [reexamine_sys, loadedCtx_sys, loadCtx_keval]
  · rw [reexamine_sys, loadedCtx_sys, loadCtx_kvec]
  · rw [reexamine_sys, loadedCtx_sys, loadCtx_scr0]
  · rw [reexamine_moved, loadedCtx_moved]
  · rw [reexamine_image, loadedCtx_image]
  · rw [reexamine_faults, loadedCtx_faults]

end

/-- Settles O58: each event of a core's calendar, of its sets and of its spine, and the end of a containment event, by the lemma that says what it makes
of the state. -/
theorem calendarSlotsTurn : Obligations.CalendarSlotsTurn := by
  unfold Obligations.CalendarSlotsTurn
  intro s s1 c b k id x p sp
  refine ⟨?slot, ?none, ?stop, ?early, ?solo, ?between, ?ctxsw, ?park, ?load, ?spine, ?again, ?still, ?contained⟩
  case slot => exact fun hdue hstop hk hidle hw => calendar_enters hdue hstop hk hidle hw
  case none => exact fun hdue hstop hidle => calendar_without_slots hdue hstop hidle
  case stop => exact fun hdue hstop => calendar_stops hdue hstop
  case early => exact fun hdue => by rw [exec_calendarSlotBoundary, slotBoundary_early hdue]
  case solo =>
    intro hbd hkind hvalid hid hb
    have hsolo : SoloSlot s c b id := soloSlot_of_descriptor hkind hvalid hid hb
    exact ⟨fun hst hctx hother hfree => solo_load_begins hbd hsolo hst hctx hother hfree,
      fun hst hctx hother hway hrest => solo_parks_other hbd hsolo hst hctx hother hway hrest,
      fun hrest hctx => solo_parks_own hbd hsolo hrest hctx,
      fun hctx hrest hwait => solo_swap_waits hbd hsolo hctx hrest hwait,
      fun hctx hrest hother hhere hways => solo_swap_made hbd hsolo hctx hrest hother hhere hways,
      fun hctx hst => solo_swap_awaits_load hbd hsolo hctx hst⟩
  case between =>
    intro hbd hrun
    rw [exec_tokenBoundarySwap, tokenSwap_none (swapRecord_between hbd hrun) (.inr hrun)]
  case ctxsw => exact fun hbd hrun hreq hrest hctx hother => ctxsw_swaps hbd hrun hreq hrest hctx hother
  case park =>
    intro hst hctx hx hother hcore hok hready
    have hid : s1.me.id = id := (stays_parkChannels hok).focus.trans (focus_me_id (by rw [hx]; rfl))
    obtain ⟨u, hu, hmine, hrest, hwin, hmem, hbad, hstays, hgone⟩ := park_completes hst hctx hx hother hcore hok hready
    refine ⟨fun hidle => parkChannels_idle_me hx hidle hok, u, hu, hmine, hrest, hwin, ?_, ?_, ?_, fun i => ?_, fun n hn => ?_, fun n hn hlow hhigh => ?_,
      fun hg => ⟨_, hstays hg, rfl, rfl, cleanedState_regs _ _⟩, hgone⟩
    · rw [hmem, savedState_keval]
    · rw [hmem, savedState_kvec]
    · rw [hmem, savedState_scr0]
    · rw [hmem, savedState_entry]
    · rw [hmem, savedState_share _ _ hn, hid, hcore, (stays_parkChannels hok).win, focus_win]
    · rw [hbad, ← hcore, ← hid]
      refine savedState_bad _ _ hn ?_ ?_
      · rw [hid, hcore]; exact hlow
      · rw [hid, hcore]; exact hhigh
  case load =>
    intro hst hctx hx hother hcore
    refine ⟨fun hway hrest => ?_, fun hway hbusy => ?_, fun hfree hdram => ?_, fun hfree hdram hlost => ?_,
      fun hfree hdram hlost => load_completes hst hctx hx hother hcore hfree hdram hlost⟩
    · refine ⟨_, exec_contextLoadComplete s c b, ?_⟩
      rw [loadComplete_parksOther hst hctx hx hway hrest, coreRec_setCore_self]
      exact ⟨onlyCore_setCore _ _ _, getSet_not_putSet _ _ _, getSet_putSet_self _ _ _⟩
    · rw [exec_contextLoadComplete, loadComplete_waitsForOther hst hctx hx hway hbusy]
    · rw [exec_contextLoadComplete, loadComplete_waitsForSlot hst hctx hx hfree hdram]
    · refine ⟨_, exec_contextLoadComplete s c b, ?_⟩
      rw [loadComplete_contains hst hctx hx hfree hdram hlost]
      exact ⟨contain_busy s _, rfl⟩
  case spine =>
    intro hnew hnext
    refine ⟨_, exec_spineSwitchComplete s c, ?_⟩
    rw [spineDone_last hnew hnext, coreRec_setCore_self]
    exact ⟨onlyCore_setCore _ _ _, rfl⟩
  case again =>
    intro last hnew hnext hne
    refine ⟨_, exec_spineSwitchComplete s c, ?_⟩
    rw [spineDone_again hnew hnext hne, coreRec_setCore_self]
    exact ⟨onlyCore_setCore _ _ _, rfl⟩
  case still => exact fun hnew => by rw [exec_spineSwitchComplete, spineDone_none hnew]
  case contained =>
    exact fun hbusy => ⟨_, exec_containmentComplete_busy hbusy, partRec_setPart_self _ _ _, fun q hq => partRec_setPart_ne _ _ hq, rfl⟩

end Sys2Proof.Machine
end

section
/-! PROOFS. Floating-point instructions of a handler (O5): the end that all of them share, with its flags and its trap. -/

namespace Sys2Proof.Machine

open Sys2Proof.Claims

theorem withFlags_eq_raiseFlags (s : State) (fl : BitVec 5) : withFlags s fl = raiseFlags s fl := rfl

@[simp] theorem readG_raiseFlags (s : State) (fl : BitVec 5) (r : Reg) : readG (raiseFlags s fl) r = readG s r := rfl
@[simp] theorem readC_raiseFlags (s : State) (fl : BitVec 5) (r : CReg) : readC (raiseFlags s fl) r = readC s r := rfl
@[simp] theorem raiseFlags_pc (s : State) (fl : BitVec 5) : (raiseFlags s fl).me.regs.pc = s.me.regs.pc := rfl

theorem fpEnd_completes {s : State} {fl : BitVec 5} (h : NoTrap s fl) (write : State → State) :
    fpEnd s fl write = .next (nextPc (write (raiseFlags s fl))) := by
  unfold NoTrap at h
  unfold fpEnd
  rw [if_neg (not_not.mpr h)]

theorem fpEnd_traps {s : State} {fl : BitVec 5} (h : ¬ NoTrap s fl) (write : State → State) :
    fpEnd s fl write = .next (trapSystem (raiseFlags s fl) 0x0D (fl.setWidth 64)) := by
  unfold NoTrap at h
  unfold fpEnd
  rw [if_pos h, takeTrap_system rfl (show 0x0D#8 ≠ 0x07#8 by decide) rfl]

theorem trapTaken_trapSystem (s : State) (cause : BitVec 8) (value : Word) : TrapTaken s (trapSystem s cause value) cause value :=
  ⟨rfl, rfl, rfl, rfl, rfl, rfl, fun _ => rfl, fun _ => rfl, fun _ => ⟨rfl, rfl⟩, rfl⟩

theorem advances_nextPc {s t : State} (h : t.me.regs.pc = s.me.regs.pc) : Advances s (nextPc t) := by
  intro halign hlow
  rw [← h] at halign hlow ⊢
  exact nextPc_pc_eq halign hlow

theorem onlyRegs_writeG (s : State) (d : Reg) (v : Word) : OnlyRegs s (nextPc (writeG s d v)) := by
  refine ⟨?_, fun a => by simp⟩
  unfold writeG; split <;> rfl

theorem onlyRegs_writeC (s : State) (d : CReg) (b : Bool) : OnlyRegs s (nextPc (writeC s d b)) := by
  refine ⟨?_, fun a => by simp⟩
  unfold writeC; split <;> rfl

/-- An instruction that ends in a write of its result to g[d] completes or traps as 03 R63 says. -/
theorem floatToG_of_fpWrite {i : Instr} {s : State} {d : Reg} {r : FRes} (h : exec i s = fpWrite s d r) : FloatToG i s d r := by
  unfold FloatToG
  rw [h, fpWrite, withFlags_eq_raiseFlags]
  constructor
  · intro hfree
    refine ⟨_, fpEnd_completes hfree _, ?_, fun k hk => ?_, fun c => ?_, advances_nextPc ?_, onlyRegs_writeG _ d _⟩
    · rw [readG_nextPc, readG_writeG_self]
    · rw [readG_nextPc, readG_writeG_ne _ _ hk, readG_raiseFlags]
    · rw [readC_nextPc, readC_writeG, readC_raiseFlags]
    · rw [writeG_pc, raiseFlags_pc]
  · exact fun henabled => ⟨_, fpEnd_traps henabled _, trapTaken_trapSystem _ _ _⟩

/-- A comparison that ends in a write of its relation to c[d], likewise. -/
theorem floatToC_of_fpEnd {i : Instr} {s : State} {d : CReg} {b : Bool} {fl : BitVec 5}
    (h : exec i s = fpEnd s fl (fun u => writeC u d b)) : FloatToC i s d b fl := by
  unfold FloatToC
  rw [h, withFlags_eq_raiseFlags]
  constructor
  · intro hfree
    refine ⟨_, fpEnd_completes hfree _, ?_, fun c hc => ?_, fun k => ?_, advances_nextPc ?_, onlyRegs_writeC _ d _⟩
    · rw [readC_nextPc, readC_writeC_self]
    · rw [readC_nextPc, readC_writeC_ne _ _ hc, readC_raiseFlags]
    · rw [readG_nextPc, readG_writeC, readG_raiseFlags]
    · rw [writeC_pc, raiseFlags_pc]
  · exact fun henabled => ⟨_, fpEnd_traps henabled _, trapTaken_trapSystem _ _ _⟩

/-- Settles O5: every form ends in `fpWrite` or in `fpEnd` with a write to a condition register. -/
theorem floatInstructionsCompleteOrTrap : Obligations.FloatInstructionsCompleteOrTrap := by
  unfold Obligations.FloatInstructionsCompleteOrTrap
  intro s d a b c cd f t u sat r
  exact ⟨floatToG_of_fpWrite rfl, floatToG_of_fpWrite rfl, floatToG_of_fpWrite rfl, floatToG_of_fpWrite rfl,
    floatToG_of_fpWrite rfl, floatToG_of_fpWrite rfl, floatToG_of_fpWrite rfl, floatToG_of_fpWrite rfl,
    floatToG_of_fpWrite rfl, floatToG_of_fpWrite rfl, floatToC_of_fpEnd rfl, floatToC_of_fpEnd rfl,
    floatToC_of_fpEnd rfl, floatToC_of_fpEnd rfl, fun _ _ => floatToG_of_fpWrite rfl, fun _ => floatToG_of_fpWrite rfl,
    fun _ => floatToG_of_fpWrite rfl⟩

end Sys2Proof.Machine
end

section
/-! PROOFS. Rounding (O7): the neighbour that a mode picks, the pattern that holds a rounded value exactly, overflow, and the conversions. -/

namespace Sys2Proof.Machine

open Sys2Proof.Claims

/-! ## Powers of two, and where a leading bit stands -/

theorem two_zpow_pos (e : Int) : (0 : ℚ) < 2 ^ e := zpow_pos two_pos e

theorem two_pow_toNat_mul {q e : Int} (h : q ≤ e) : (2 : ℚ) ^ (e - q).toNat * 2 ^ q = 2 ^ e := by
  rw [← zpow_natCast, ← zpow_add₀ two_ne_zero]
  congr 1
  omega

theorem two_pow_mul_zpow_sub (n : Nat) (e : Int) : (2 : ℚ) ^ n * 2 ^ (e - n) = 2 ^ e := by
  rw [← zpow_natCast, ← zpow_add₀ two_ne_zero]
  congr 1
  omega

theorem le_leadExp_iff {m : Nat} (hm : m ≠ 0) (e z : Int) : z ≤ leadExp m e ↔ (2 : ℚ) ^ z ≤ m * 2 ^ e := by
  unfold leadExp
  rcases le_total z e with h | h
  · refine iff_of_true (by omega) ?_
    have hone : (1 : ℚ) ≤ m := by exact_mod_cast Nat.one_le_iff_ne_zero.mpr hm
    calc (2 : ℚ) ^ z ≤ 2 ^ e := zpow_le_zpow_right₀ one_le_two h
      _ ≤ m * 2 ^ e := le_mul_of_one_le_left (two_zpow_pos e).le hone
  · rw [← two_pow_toNat_mul h, mul_le_mul_iff_left₀ (two_zpow_pos e)]
    norm_cast
    rw [← Nat.le_log2 hm]
    omega

theorem leadExp_lt_iff {m : Nat} (hm : m ≠ 0) (e z : Int) : leadExp m e < z ↔ (m : ℚ) * 2 ^ e < 2 ^ z := by
  rw [← not_le, le_leadExp_iff hm, not_le]

/-! ## Rounding to a multiple of a power of two (03 R59) -/

/-- Whether a quotient n with remainder r of a division by w goes to n + 1. -/
def roundsUp (mode : BitVec 2) (neg : Bool) (n r w : Nat) : Bool :=
  if mode = 0#2 then decide (w < 2 * r) || (decide (2 * r = w) && decide (n % 2 = 1))
  else if mode = 1#2 then false
  else if mode = 2#2 then !neg && decide (r ≠ 0)
  else neg && decide (r ≠ 0)

section
variable {mode : BitVec 2} {neg : Bool} {m : Nat} {e q : Int}

theorem roundAt_fine (h : q ≤ e) : roundAt mode neg m e q = (m * 2 ^ (e - q).toNat, false) := if_pos h

theorem roundAt_coarse (h : e < q) : roundAt mode neg m e q =
    (m / 2 ^ (q - e).toNat + (roundsUp mode neg (m / 2 ^ (q - e).toNat) (m % 2 ^ (q - e).toNat) (2 ^ (q - e).toNat)).toNat,
      decide (m % 2 ^ (q - e).toNat ≠ 0)) := by
  unfold roundAt
  rw [if_neg (by omega)]
  refine Prod.ext ?_ rfl
  show (if roundsUp mode neg _ _ _ = true then _ else _) = _
  cases roundsUp mode neg (m / 2 ^ (q - e).toNat) (m % 2 ^ (q - e).toNat) (2 ^ (q - e).toNat) <;> rfl

/-- Without a remainder every mode keeps the quotient. -/
theorem roundsUp_exact (n w : Nat) (hw : 0 < w) : roundsUp mode neg n 0 w = false := by
  have hne : ¬ (0 = w) := by omega
  simp [roundsUp, hne]

theorem roundAt_exact (h : (roundAt mode neg m e q).2 = false) : ((roundAt mode neg m e q).1 : ℚ) * 2 ^ q = m * 2 ^ e := by
  rcases le_or_gt q e with hqe | hqe
  · rw [roundAt_fine hqe]
    push_cast
    rw [mul_assoc, two_pow_toNat_mul hqe]
  · rw [roundAt_coarse hqe] at h ⊢
    have hr : m % 2 ^ (q - e).toNat = 0 := by simpa using h
    have hm : m / 2 ^ (q - e).toNat * 2 ^ (q - e).toNat = m := Nat.div_mul_cancel (Nat.dvd_of_mod_eq_zero hr)
    rw [hr, roundsUp_exact _ _ (by positivity), Bool.toNat_false, add_zero, ← two_pow_toNat_mul hqe.le, ← mul_assoc]
    congr 1
    exact_mod_cast hm

/-- Rounding does not pass a multiple that lies below the value. -/
theorem le_roundAt {k : Nat} (h : (k : ℚ) * 2 ^ q ≤ m * 2 ^ e) : k ≤ (roundAt mode neg m e q).1 := by
  rcases le_or_gt q e with hqe | hqe
  · rw [roundAt_fine hqe]
    rw [← two_pow_toNat_mul hqe, ← mul_assoc, mul_le_mul_iff_left₀ (two_zpow_pos q)] at h
    exact_mod_cast h
  · rw [roundAt_coarse hqe]
    rw [← two_pow_toNat_mul hqe.le, ← mul_assoc, mul_le_mul_iff_left₀ (two_zpow_pos e)] at h
    have hk : k * 2 ^ (q - e).toNat ≤ m := by exact_mod_cast h
    exact Nat.le_add_right_of_le ((Nat.le_div_iff_mul_le (by positivity)).mpr hk)

/-- Rounding does not pass a multiple that lies above the value. -/
theorem roundAt_le {k : Nat} (h : (m : ℚ) * 2 ^ e ≤ k * 2 ^ q) : (roundAt mode neg m e q).1 ≤ k := by
  rcases le_or_gt q e with hqe | hqe
  · rw [roundAt_fine hqe]
    rw [← two_pow_toNat_mul hqe, ← mul_assoc, mul_le_mul_iff_left₀ (two_zpow_pos q)] at h
    exact_mod_cast h
  · rw [roundAt_coarse hqe]
    rw [← two_pow_toNat_mul hqe.le, ← mul_assoc, mul_le_mul_iff_left₀ (two_zpow_pos e)] at h
    have hk : m ≤ k * 2 ^ (q - e).toNat := by exact_mod_cast h
    generalize hw : 2 ^ (q - e).toNat = w at hk ⊢
    have hwpos : 0 < w := by rw [← hw]; positivity
    rcases hk.lt_or_eq with hlt | rfl
    · have hdiv : m / w < k := (Nat.div_lt_iff_lt_mul hwpos).mpr hlt
      have hup := Bool.toNat_le (roundsUp mode neg (m / w) (m % w) w)
      show m / w + _ ≤ k
      omega
    · simp [roundsUp_exact _ _ hwpos, Nat.mul_div_cancel _ hwpos]

end

/-- The nearest multiple, with ties to even (03 R59). -/
theorem roundsUp_nearest {neg : Bool} {m w : Nat} (hw : 0 < w) :
    let n := m / w + (roundsUp 0 neg (m / w) (m % w) w).toNat
    2 * ((n * w : Nat) - (m : Int)).natAbs ≤ w ∧ (2 * ((n * w : Nat) - (m : Int)).natAbs = w → n % 2 = 0) := by
  have hm := Nat.div_add_mod' m w
  have hr := Nat.mod_lt m hw
  have hup : roundsUp 0 neg (m / w) (m % w) w = true ↔ w < 2 * (m % w) ∨ 2 * (m % w) = w ∧ m / w % 2 = 1 := by
    simp [roundsUp]
  generalize m / w = n at hm hup ⊢
  generalize m % w = r at hm hup hr ⊢
  cases hb : roundsUp 0 neg n r w with
  | false =>
    have hlow : ¬ (w < 2 * r ∨ 2 * r = w ∧ n % 2 = 1) := fun h => Bool.false_ne_true (hb.symm.trans (hup.mpr h))
    simp only [Bool.toNat_false, add_zero]
    omega
  | true =>
    have hhigh := hup.mp hb
    simp only [Bool.toNat_true, add_mul, one_mul]
    omega

/-- Toward zero in magnitude. -/
theorem roundsUp_down {mode : BitVec 2} {neg : Bool} (h : mode = 1 ∨ (mode = 2 ∧ neg = true) ∨ (mode = 3 ∧ neg = false)) (n r w : Nat) :
    roundsUp mode neg n r w = false := by
  rcases h with rfl | ⟨rfl, rfl⟩ | ⟨rfl, rfl⟩ <;> rfl

/-- Away from zero in magnitude. -/
theorem roundsUp_away {mode : BitVec 2} {neg : Bool} (h : (mode = 2 ∧ neg = false) ∨ (mode = 3 ∧ neg = true)) (n r w : Nat) :
    roundsUp mode neg n r w = decide (r ≠ 0) := by
  rcases h with ⟨rfl, rfl⟩ | ⟨rfl, rfl⟩ <;> rfl

theorem roundAt_picks (mode : BitVec 2) (neg : Bool) (m : Nat) {e q : Int} (hqe : e < q) :
    let w : Nat := 2 ^ (q - e).toNat
    let n := (roundAt mode neg m e q).1
    ((roundAt mode neg m e q).2 = true ↔ m % w ≠ 0)
      ∧ (mode = 0 → 2 * ((n * w : Nat) - (m : Int)).natAbs ≤ w ∧ (2 * ((n * w : Nat) - (m : Int)).natAbs = w → n % 2 = 0))
      ∧ ((mode = 1 ∨ (mode = 2 ∧ neg = true) ∨ (mode = 3 ∧ neg = false)) → n * w ≤ m ∧ m < n * w + w)
      ∧ ((mode = 2 ∧ neg = false) ∨ (mode = 3 ∧ neg = true) → m ≤ n * w ∧ n * w < m + w) := by
  intro w
  have hw : 0 < w := by positivity
  have hm := Nat.div_add_mod' m w
  have hr := Nat.mod_lt m hw
  rw [roundAt_coarse hqe]
  refine ⟨by simp [w], ?nearest, fun hdown => ?down, fun haway => ?away⟩
  case nearest => rintro rfl; exact roundsUp_nearest hw
  case down =>
    simp only [roundsUp_down hdown, Bool.toNat_false, add_zero]
    show m / w * w ≤ m ∧ m < m / w * w + w
    omega
  case away =>
    simp only [roundsUp_away haway]
    show m ≤ (m / w + (decide (m % w ≠ 0)).toNat) * w ∧ (m / w + (decide (m % w ≠ 0)).toNat) * w < m + w
    by_cases h0 : m % w = 0
    · simp only [h0, ne_eq, not_true, decide_false, Bool.toNat_false, add_zero]
      omega
    · simp only [h0, ne_eq, not_false_eq_true, decide_true, Bool.toNat_true, add_mul, one_mul]
      omega

/-! ## Formats and patterns (03 R51) -/

/-- What the rounding uses of a format: room for a quiet bit, for a subnormal range below 1, and the shape of E4M3. -/
def Fmt.Ok (f : Fmt) : Prop := 2 ≤ f.mw ∧ 4 ≤ f.ew ∧ (f.e4m3 = true → f.ew = 4 ∧ f.mw = 3)

theorem fmtOf_ok (code : BitVec 3) : (fmtOf code).Ok := by
  unfold Fmt.Ok
  revert code
  decide

/-- The exponent and the significand of the largest finite value. -/
def Fmt.emax (f : Fmt) : Int := if f.e4m3 then 8 else (f.bias : Int)
def Fmt.topSig (f : Fmt) : Nat := if f.e4m3 then 14 else 2 ^ (f.mw + 1) - 1

/-- The pattern of a sign and a magnitude. -/
def signed (f : Fmt) (neg : Bool) (mag : Nat) : Nat := (if neg then f.signBit else 0) + mag

section
variable {f : Fmt} (hf : f.Ok)
include hf

theorem bias_bounds : 7 ≤ f.bias ∧ 2 ^ f.ew = 2 * f.bias + 2 ∧ (f.e4m3 = true → f.bias = 7) := by
  obtain ⟨-, hew, he4⟩ := hf
  have hpow : 2 ^ f.ew = 2 * 2 ^ (f.ew - 1) := by rw [← pow_succ']; congr 1; omega
  have hbig : 2 ^ 3 ≤ 2 ^ (f.ew - 1) := Nat.pow_le_pow_right two_pos (by omega)
  unfold Fmt.bias
  exact ⟨by omega, by omega, fun h => by rw [(he4 h).1]; rfl⟩

theorem emin_lt_emax : f.emin < f.emax := by
  obtain ⟨hb, -, -⟩ := bias_bounds hf
  unfold Fmt.emin Fmt.emax
  split <;> omega

theorem topSig_bounds : 2 ^ f.mw ≤ f.topSig ∧ f.topSig < 2 ^ (f.mw + 1) := by
  obtain ⟨-, -, he4⟩ := hf
  unfold Fmt.topSig
  split
  next h => rw [(he4 h).2]; decide
  next => have := Nat.one_le_two_pow (n := f.mw); rw [pow_succ]; omega

end

/-- The fields of a pattern: sign, exponent and mantissa. -/
theorem fields_signed (f : Fmt) (neg : Bool) {e m : Nat} (he : e < 2 ^ f.ew) (hm : m < 2 ^ f.mw) :
    decide (signed f neg (e * 2 ^ f.mw + m) / f.signBit % 2 = 1) = neg
      ∧ signed f neg (e * 2 ^ f.mw + m) / 2 ^ f.mw % 2 ^ f.ew = e ∧ signed f neg (e * 2 ^ f.mw + m) % 2 ^ f.mw = m := by
  have hmag : e * 2 ^ f.mw + m < f.signBit := by
    unfold Fmt.signBit
    calc e * 2 ^ f.mw + m < (e + 1) * 2 ^ f.mw := by rw [add_mul, one_mul]; omega
      _ ≤ 2 ^ f.ew * 2 ^ f.mw := Nat.mul_le_mul_right _ he
      _ = 2 ^ (f.ew + f.mw) := (pow_add ..).symm
  have hform : signed f neg (e * 2 ^ f.mw + m) = (neg.toNat * 2 ^ f.ew + e) * 2 ^ f.mw + m := by
    unfold signed Fmt.signBit
    cases neg <;> simp [pow_add, add_mul, add_assoc]
  have hpos : 0 < f.signBit := by unfold Fmt.signBit; positivity
  refine ⟨?_, ?_, ?_⟩
  · unfold signed
    cases neg
    · simp [Nat.div_eq_of_lt hmag]
    · simp [Nat.add_div_left _ hpos, Nat.div_eq_of_lt hmag]
  · rw [hform, Nat.mul_comm _ (2 ^ f.mw), Nat.mul_add_div (by positivity), Nat.div_eq_of_lt hm, add_zero, Nat.mul_add_mod_of_lt he]
  · rw [hform, Nat.mul_add_mod_of_lt hm]

/-- A magnitude below the implicit bit is a subnormal, or zero. -/
theorem flOf_subnormal {f : Fmt} (hf : f.Ok) (neg : Bool) {m : Nat} (hm : m < 2 ^ f.mw) :
    flOf f (signed f neg m) = .fin neg m (f.emin - f.mw) := by
  obtain ⟨hb, hpow, -⟩ := bias_bounds hf
  obtain ⟨hs, he, hmm⟩ := fields_signed f neg (e := 0) (by positivity) hm
  rw [Nat.zero_mul, Nat.zero_add] at hs he hmm
  have hne : ¬ 0 = 2 ^ f.ew - 1 := by omega
  unfold flOf
  simp [hs, he, hmm, hne]

/-- The significand k with an implicit bit, under the exponent field e. -/
theorem flOf_normal {f : Fmt} (hf : f.Ok) (neg : Bool) {e k : Nat} (he0 : e ≠ 0) (he : e < 2 ^ f.ew) (hlow : 2 ^ f.mw ≤ k)
    (hhigh : k < 2 ^ (f.mw + 1)) (hfinite : (f.e4m3 = true → ¬ (e = 15 ∧ k = 15)) ∧ (f.e4m3 = false → e ≠ 2 ^ f.ew - 1)) :
    flOf f (signed f neg (e * 2 ^ f.mw + (k - 2 ^ f.mw))) = .fin neg k ((e : Int) - f.bias - f.mw) := by
  obtain ⟨-, -, he4⟩ := hf
  obtain ⟨hf4, hfn⟩ := hfinite
  rw [pow_succ] at hhigh
  obtain ⟨hs, hee, hmm⟩ := fields_signed f neg he (m := k - 2 ^ f.mw) (by omega)
  have hk : k - 2 ^ f.mw + 2 ^ f.mw = k := by omega
  unfold flOf
  simp only [hs, hee, hmm, he0, if_false, hk]
  cases h4 : f.e4m3 with
  | false => simp [hfn h4]
  | true =>
    obtain ⟨-, hmw⟩ := he4 h4
    have hnot := hf4 h4
    rw [hmw] at hlow hk ⊢
    have hnan : e = 15 → ¬ k - 8 = 7 := by omega
    simpa using hnan

theorem largestOf_eq {code : BitVec 3} (h : floatCodeOk code = true) (neg : Bool) : largestOf code neg = (fmtOf code).largest neg := by
  revert neg code
  decide +kernel

theorem infiniteOf_eq {code : BitVec 3} (h : floatCodeOk code = true) (neg : Bool) : infiniteOf code neg = (fmtOf code).inf neg := by
  revert neg code
  decide +kernel

theorem nanOf_eq {code : BitVec 3} (h : floatCodeOk code = true) : nanOf code = (fmtOf code).nan := by
  revert code
  decide +kernel

theorem widthOf_eq {code : BitVec 3} (h : floatCodeOk code = true) : widthOf code = (fmtOf code).ew + (fmtOf code).mw + 1 := by
  revert code
  decide

theorem flOf_largest {code : BitVec 3} (h : floatCodeOk code = true) :
    flOf (fmtOf code) (largestOf code false) = .fin false (fmtOf code).topSig ((fmtOf code).emax - (fmtOf code).mw) := by
  revert code
  decide +kernel

/-! ## The place of a value's significand in a format -/

/-- The exponent of the last place of m × 2^e at full precision, and in a format, whose subnormals keep it up. -/
def freeQuantum (f : Fmt) (m : Nat) (e : Int) : Int := leadExp m e - f.mw
def quantum (f : Fmt) (m : Nat) (e : Int) : Int := max (freeQuantum f m e) (f.emin - f.mw)

section
variable (f : Fmt) (mode : BitVec 2) (neg : Bool) {m : Nat} (hm : m ≠ 0) (e : Int)
include hm

theorem roundAt_freeQuantum_bounds : 2 ^ f.mw ≤ (roundAt mode neg m e (freeQuantum f m e)).1
    ∧ (roundAt mode neg m e (freeQuantum f m e)).1 ≤ 2 ^ (f.mw + 1) := by
  constructor
  · apply le_roundAt
    push_cast
    rw [freeQuantum, two_pow_mul_zpow_sub, ← le_leadExp_iff hm]
  · apply roundAt_le
    push_cast
    rw [freeQuantum, pow_succ', mul_assoc, two_pow_mul_zpow_sub, ← zpow_one_add₀ two_ne_zero]
    exact ((leadExp_lt_iff hm _ _).mp (by omega)).le

/-- Either the value has its full precision, or the format's least place cuts it and it rounds to no more than the smallest normal. -/
theorem quantum_cases :
    (quantum f m e = freeQuantum f m e ∧ 2 ^ f.mw ≤ (roundAt mode neg m e (quantum f m e)).1
        ∧ (roundAt mode neg m e (quantum f m e)).1 ≤ 2 ^ (f.mw + 1))
      ∨ (freeQuantum f m e < f.emin - f.mw ∧ quantum f m e = f.emin - f.mw ∧ (roundAt mode neg m e (quantum f m e)).1 ≤ 2 ^ f.mw) := by
  rcases le_or_gt (f.emin - f.mw) (freeQuantum f m e) with h | h
  · have hq : quantum f m e = freeQuantum f m e := max_eq_left h
    rw [hq]
    exact .inl ⟨rfl, roundAt_freeQuantum_bounds f mode neg hm e⟩
  · have hq : quantum f m e = f.emin - f.mw := max_eq_right h.le
    refine .inr ⟨h, hq, ?_⟩
    rw [hq]
    apply roundAt_le
    push_cast
    rw [two_pow_mul_zpow_sub]
    unfold freeQuantum at h
    exact ((leadExp_lt_iff hm _ _).mp (by omega)).le

theorem roundAt_freeQuantum_ne_zero : (roundAt mode neg m e (freeQuantum f m e)).1 ≠ 0 := by
  have hlow := (roundAt_freeQuantum_bounds f mode neg hm e).1
  have := Nat.one_le_two_pow (n := f.mw)
  omega

theorem roundAt_quantum_le : (roundAt mode neg m e (quantum f m e)).1 ≤ 2 ^ (f.mw + 1) := by
  rcases quantum_cases f mode neg hm e with ⟨-, -, hle⟩ | ⟨-, -, hle⟩
  · exact hle
  · exact hle.trans (Nat.pow_le_pow_right two_pos (by omega))

theorem quantum_eq_of_lt (h : (roundAt mode neg m e (quantum f m e)).1 < 2 ^ f.mw) : quantum f m e = f.emin - f.mw := by
  rcases quantum_cases f mode neg hm e with ⟨-, hlow, -⟩ | ⟨-, hq, -⟩
  · exact absurd h (not_lt.mpr hlow)
  · exact hq

end

/-! ### A significand with its carry taken in -/

section
variable {f : Fmt} {k : Nat} (hlow : 2 ^ f.mw ≤ k) (hhigh : k ≤ 2 ^ (f.mw + 1))
include hlow hhigh

/-- A rounded significand has its full number of bits, or has just carried into one more. -/
theorem significand_cases : (k.log2 = f.mw ∧ k < 2 ^ (f.mw + 1)) ∨ (k.log2 = f.mw + 1 ∧ k = 2 ^ (f.mw + 1)) := by
  have hk : k ≠ 0 := by have := Nat.one_le_two_pow (n := f.mw); omega
  rcases hhigh.lt_or_eq with h | rfl
  · exact .inl ⟨(Nat.log2_eq_iff hk).mpr ⟨hlow, h⟩, h⟩
  · exact .inr ⟨Nat.log2_two_pow, rfl⟩

/-- Shifting the carry out again changes nothing of the value. -/
theorem exists_normalized (q : Int) : ∃ sh : Nat, k.log2 = f.mw + sh ∧ 2 ^ f.mw ≤ k / 2 ^ sh ∧ k / 2 ^ sh < 2 ^ (f.mw + 1)
    ∧ ((k / 2 ^ sh : Nat) : ℚ) * 2 ^ (q + sh) = k * 2 ^ q := by
  rcases significand_cases hlow hhigh with ⟨hlog, hlt⟩ | ⟨hlog, rfl⟩
  · exact ⟨0, by simpa using hlog, by simpa using hlow, by simpa using hlt, by simp⟩
  · have hhalf : 2 ^ (f.mw + 1) / 2 ^ 1 = 2 ^ f.mw := by rw [pow_succ, pow_one, Nat.mul_div_cancel _ two_pos]
    refine ⟨1, hlog, hhalf.ge, ?_, ?_⟩
    · rw [hhalf, pow_succ]; have := Nat.one_le_two_pow (n := f.mw); omega
    · rw [hhalf]
      push_cast
      rw [zpow_add_one₀ two_ne_zero, pow_succ]
      ring

end

/-- Significands of the same number of bits compare by exponent first. -/
theorem normalized_lt_iff {w a b : Nat} {p q : Int} (ha : 2 ^ w ≤ a) (ha' : a < 2 ^ (w + 1)) (hb : 2 ^ w ≤ b) (hb' : b < 2 ^ (w + 1)) :
    (a : ℚ) * 2 ^ p < b * 2 ^ q ↔ p < q ∨ (p = q ∧ a < b) := by
  have below : ∀ {a b : Nat} {p q : Int}, a < 2 ^ (w + 1) → 2 ^ w ≤ b → p < q → (a : ℚ) * 2 ^ p < b * 2 ^ q := by
    intro a b p q ha hb hpq
    have ha : (a : ℚ) < 2 ^ (w + 1) := by exact_mod_cast ha
    have hb : (2 : ℚ) ^ w ≤ b := by exact_mod_cast hb
    calc (a : ℚ) * 2 ^ p < 2 ^ (w + 1) * 2 ^ p := mul_lt_mul_of_pos_right ha (two_zpow_pos p)
      _ = 2 ^ w * 2 ^ (p + 1) := by rw [zpow_add_one₀ two_ne_zero, pow_succ]; ring
      _ ≤ 2 ^ w * 2 ^ q := mul_le_mul_of_nonneg_left (zpow_le_zpow_right₀ one_le_two hpq) (by positivity)
      _ ≤ b * 2 ^ q := mul_le_mul_of_nonneg_right hb (two_zpow_pos q).le
  rcases lt_trichotomy p q with h | rfl | h
  · exact iff_of_true (below ha' hb h) (.inl h)
  · rw [mul_lt_mul_iff_left₀ (two_zpow_pos p)]
    simp
  · exact iff_of_false (below hb' ha h).not_gt (by omega)

/-! ## Overflow (03 R59) -/

/-- The model's test of overflow for k × 2^q. -/
def TooBig (f : Fmt) (k : Nat) (q : Int) : Prop :=
  k ≠ 0 ∧ (f.emax < leadExp k q ∨ (f.e4m3 = true ∧ leadExp k q = 8 ∧ 15 ≤ k / 2 ^ ((leadExp k q - q).toNat - f.mw)))

section
variable {f : Fmt} {k sh : Nat} (hlog : k.log2 = f.mw + sh) (q : Int)
include hlog

theorem carry_of_log2 : (leadExp k q - q).toNat - f.mw = sh := by
  unfold leadExp
  omega

theorem tooBig_iff_of_log2 (hk : k ≠ 0) : TooBig f k q ↔
    f.emax < q + (f.mw + sh : Nat) ∨ (f.e4m3 = true ∧ q + (f.mw + sh : Nat) = 8 ∧ 15 ≤ k / 2 ^ sh) := by
  rw [TooBig, carry_of_log2 hlog, leadExp, hlog]
  exact and_iff_right hk

end

/-- At full precision the model compares with the largest finite value. -/
theorem tooBig_iff {f : Fmt} (hf : f.Ok) {k : Nat} (hlow : 2 ^ f.mw ≤ k) (hhigh : k ≤ 2 ^ (f.mw + 1)) (q : Int) :
    TooBig f k q ↔ (f.topSig : ℚ) * 2 ^ (f.emax - f.mw) < k * 2 ^ q := by
  have hk : k ≠ 0 := by have := Nat.one_le_two_pow (n := f.mw); omega
  obtain ⟨sh, hlog, hsig, hsig', hval⟩ := exists_normalized hlow hhigh q
  obtain ⟨htop, htop'⟩ := topSig_bounds hf
  rw [tooBig_iff_of_log2 hlog q hk, ← hval, normalized_lt_iff htop htop' hsig hsig']
  generalize k / 2 ^ sh = s at hsig hsig' ⊢
  unfold Fmt.emax Fmt.topSig
  cases h4 : f.e4m3 with
  | false => simp only [Bool.false_eq_true, if_false, false_and, or_false]; omega
  | true => simp only [if_true, true_and]; omega

/-- A value cut at the least place of the format does not overflow. -/
theorem not_tooBig_of_least {f : Fmt} (hf : f.Ok) {k : Nat} (hk : k ≤ 2 ^ f.mw) : ¬ TooBig f k (f.emin - f.mw) := by
  rintro ⟨hk0, hover⟩
  have hle : (k : ℚ) * 2 ^ (f.emin - f.mw) < 2 ^ (f.emin + 1) := by
    have hk : (k : ℚ) ≤ 2 ^ f.mw := by exact_mod_cast hk
    calc (k : ℚ) * 2 ^ (f.emin - f.mw) ≤ 2 ^ f.mw * 2 ^ (f.emin - f.mw) := mul_le_mul_of_nonneg_right hk (two_zpow_pos _).le
      _ = 2 ^ f.emin := two_pow_mul_zpow_sub _ _
      _ < 2 ^ (f.emin + 1) := zpow_lt_zpow_right₀ one_lt_two (by omega)
  have hlead := (leadExp_lt_iff hk0 _ _).mpr hle
  have hemax := emin_lt_emax hf
  rcases hover with h | ⟨h4, h, -⟩
  · omega
  · have h8 : f.emax = 8 := by unfold Fmt.emax; rw [if_pos h4]
    omega

/-- The model's test is that of the rule: the value rounded without a limit on the exponent exceeds the largest finite one. -/
theorem tooBig_iff_beyond {f : Fmt} (hf : f.Ok) (mode : BitVec 2) (neg : Bool) {m : Nat} (hm : m ≠ 0) (e : Int) :
    TooBig f (roundAt mode neg m e (quantum f m e)).1 (quantum f m e)
      ↔ (f.topSig : ℚ) * 2 ^ (f.emax - f.mw) < (roundAt mode neg m e (freeQuantum f m e)).1 * 2 ^ (freeQuantum f m e) := by
  obtain ⟨hlow, hhigh⟩ := roundAt_freeQuantum_bounds f mode neg hm e
  rcases quantum_cases f mode neg hm e with ⟨hq, -, -⟩ | ⟨hfree, hq, hk⟩
  · rw [hq]
    exact tooBig_iff hf hlow hhigh _
  · rw [hq] at hk ⊢
    refine iff_of_false (not_tooBig_of_least hf hk) ?_
    rw [← tooBig_iff hf hlow hhigh]
    rintro ⟨hk0, hover⟩
    have hlead : leadExp (roundAt mode neg m e (freeQuantum f m e)).1 (freeQuantum f m e) ≤ f.emin := by
      unfold leadExp
      rcases significand_cases hlow hhigh with ⟨hlog, -⟩ | ⟨hlog, -⟩ <;> omega
    have hemax := emin_lt_emax hf
    rcases hover with h | ⟨h4, h, -⟩
    · omega
    · have h8 : f.emax = 8 := by unfold Fmt.emax; rw [if_pos h4]
      omega

/-! ## The one rounding (03 R59, R60) -/

/-- The magnitude pattern of k × 2^q. -/
def packed (f : Fmt) (k : Nat) (q : Int) : Nat :=
  if k < 2 ^ f.mw then k
  else
    let sh := (leadExp k q - q).toNat - f.mw
    (q + sh + f.mw + f.bias).toNat * 2 ^ f.mw + (k / 2 ^ sh - 2 ^ f.mw)

/-- The modes in which an overflow of a sign gives an infinity. -/
abbrev OverflowsToInf (mode : BitVec 2) (neg : Bool) : Prop := mode = 0 ∨ (mode = 2 ∧ neg = false) ∨ (mode = 3 ∧ neg = true)

theorem roundF_zero (f : Fmt) (mode : BitVec 2) (sat neg : Bool) (e : Int) : roundF f mode sat neg 0 e = ⟨f.zero neg, 0⟩ := rfl

theorem quantum_eq_ite (f : Fmt) (m : Nat) (e : Int) :
    (if leadExp m e - f.mw < f.emin - f.mw then f.emin - f.mw else leadExp m e - f.mw) = quantum f m e := by
  unfold quantum freeQuantum
  split <;> omega

section
variable {f : Fmt} {mode : BitVec 2} {sat neg : Bool} {m : Nat} {e : Int} (hm : m ≠ 0)
include hm

theorem roundF_over (h : TooBig f (roundAt mode neg m e (quantum f m e)).1 (quantum f m e)) :
    roundF f mode sat neg m e = ⟨if sat = false ∧ OverflowsToInf mode neg then f.inf neg else f.largest neg, 0x14⟩ := by
  unfold roundF
  rw [if_neg hm]
  simp only [quantum_eq_ite]
  refine (if_pos h).trans ?_
  have hbits : (sat = false ∧ OverflowsToInf mode neg)
      ↔ ¬ (sat = true ∨ ¬ (mode = 0#2 ∨ (mode = 2#2 ∧ ¬ neg = true) ∨ (mode = 3#2 ∧ neg = true))) := by
    cases sat <;> cases neg <;> simp [OverflowsToInf, or_iff_not_imp_left]
  rw [if_congr hbits rfl rfl, ite_not]
  rfl

theorem roundF_fits (h : ¬ TooBig f (roundAt mode neg m e (quantum f m e)).1 (quantum f m e)) :
    roundF f mode sat neg m e = ⟨signed f neg (packed f (roundAt mode neg m e (quantum f m e)).1 (quantum f m e)),
      (if (roundAt mode neg m e (quantum f m e)).2 = true then 0x10 else 0)
        ||| (if leadExp (roundAt mode neg m e (freeQuantum f m e)).1 (freeQuantum f m e) < f.emin
              ∧ (roundAt mode neg m e (quantum f m e)).2 = true then 0x08 else 0)⟩ := by
  unfold roundF
  rw [if_neg hm]
  simp only [quantum_eq_ite]
  exact if_neg h

end

theorem packed_of_log2 {f : Fmt} {k sh : Nat} (hlow : 2 ^ f.mw ≤ k) (hlog : k.log2 = f.mw + sh) (q : Int) :
    packed f k q = (q + sh + f.mw + f.bias).toNat * 2 ^ f.mw + (k / 2 ^ sh - 2 ^ f.mw) := by
  unfold packed
  rw [if_neg (not_lt.mpr hlow)]
  simp only [carry_of_log2 hlog]

/-- Without overflow the exponent field x and the significand s stay below the codes of infinities and NaNs. -/
theorem field_finite {f : Fmt} (hf : f.Ok) {x s : Nat} {top : Int} (hx : (x : Int) = top + f.bias)
    (h : ¬ (f.emax < top ∨ (f.e4m3 = true ∧ top = 8 ∧ 15 ≤ s))) :
    x < 2 ^ f.ew ∧ (f.e4m3 = true → ¬ (x = 15 ∧ s = 15)) ∧ (f.e4m3 = false → x ≠ 2 ^ f.ew - 1) := by
  obtain ⟨hbias, hpow, hb4⟩ := bias_bounds hf
  unfold Fmt.emax at h
  cases h4 : f.e4m3 with
  | false =>
    simp only [h4, Bool.false_eq_true, if_false, false_and, or_false] at h
    exact ⟨by omega, fun h' => absurd h' Bool.false_ne_true, fun _ => by omega⟩
  | true =>
    have h7 := hb4 h4
    simp only [h4, if_true, true_and] at h
    exact ⟨by omega, fun _ => by omega, fun h' => absurd h' Bool.noConfusion⟩

/-- The packed pattern is one of the sign's half of the patterns, and holds k × 2^q itself. -/
theorem flOf_packed {f : Fmt} (hf : f.Ok) (neg : Bool) {k : Nat} {q : Int} (hk : k ≤ 2 ^ (f.mw + 1)) (hq : f.emin - f.mw ≤ q)
    (hsub : k < 2 ^ f.mw → q = f.emin - f.mw) (hfits : ¬ TooBig f k q) :
    ∃ k' q', flOf f (signed f neg (packed f k q)) = .fin neg k' q' ∧ (k' : ℚ) * 2 ^ q' = k * 2 ^ q ∧ packed f k q < f.signBit := by
  have hsize : f.signBit = 2 ^ f.ew * 2 ^ f.mw := pow_add ..
  have hone := Nat.one_le_two_pow (n := f.mw)
  rcases lt_or_ge k (2 ^ f.mw) with hlt | hlow
  · have hpack : packed f k q = k := if_pos hlt
    rw [hpack, hsize]
    exact ⟨k, _, flOf_subnormal hf neg hlt, by rw [hsub hlt], hlt.trans_le (Nat.le_mul_of_pos_left _ (by positivity))⟩
  · obtain ⟨sh, hlog, hsig, hsig', hval⟩ := exists_normalized hlow hk q
    rw [tooBig_iff_of_log2 hlog q (by omega)] at hfits
    rw [packed_of_log2 hlow hlog]
    obtain ⟨x, hx⟩ : ∃ x, x = (q + sh + f.mw + f.bias).toNat := ⟨_, rfl⟩
    have hxq : (x : Int) = q + sh + f.mw + f.bias ∧ x ≠ 0 := by unfold Fmt.emin at hq; omega
    obtain ⟨hlt, hfinite⟩ := field_finite hf (x := x) (by omega) hfits
    rw [← hx]
    refine ⟨k / 2 ^ sh, q + sh, ?_, hval, ?_⟩
    · rw [flOf_normal hf neg hxq.2 hlt hsig hsig' hfinite, hxq.1]
      congr 1
      omega
    · rw [pow_succ] at hsig'
      rw [hsize]
      calc x * 2 ^ f.mw + (k / 2 ^ sh - 2 ^ f.mw) < (x + 1) * 2 ^ f.mw := by rw [add_mul]; omega
        _ ≤ _ := Nat.mul_le_mul_right _ hlt

theorem signed_lt {f : Fmt} {neg : Bool} {mag : Nat} (h : mag < f.signBit) : signed f neg mag < 2 ^ (f.ew + f.mw + 1) := by
  unfold signed
  unfold Fmt.signBit at h ⊢
  rw [pow_succ]
  split <;> omega

theorem roundFlags_bits (inexact : Bool) (tiny : Prop) [Decidable tiny] :
    let fl : BitVec 5 := (if inexact = true then 0x10 else 0) ||| (if tiny then 0x08 else 0)
    fl.extractLsb' 0 3 = 0 ∧ fl.getLsbD 4 = inexact ∧ (fl.getLsbD 3 = true ↔ tiny) := by
  by_cases h : tiny <;> cases inexact <;> simp [h]

/-- A value rounded to a format (03 R59, R60): `roundF` gives what the rule says, for every format. -/
theorem roundsTo_roundF {code : BitVec 3} (h : floatCodeOk code = true) (mode : BitVec 2) (sat neg : Bool) (m : Nat) (e : Int) :
    RoundsTo code mode sat neg m e (roundF (fmtOf code) mode sat neg m e) := by
  unfold RoundsTo
  intro f free q k unbounded beyond toInf
  have hf : f.Ok := fmtOf_ok code
  have hwidth : widthOf code = f.ew + f.mw + 1 := widthOf_eq h
  have hbeyond : m ≠ 0 → (TooBig f k q ↔ beyond) := by
    intro hm
    refine (tooBig_iff_beyond hf mode neg hm e).trans ?_
    show _ ↔ flVal (flOf (fmtOf code) (largestOf code false)) < _
    rw [flOf_largest h, flVal, if_neg Bool.false_ne_true, one_mul]
    rfl
  refine ⟨?zero, fun hm hover => ?overflow, fun hm hfits => ?fits⟩
  case zero =>
    rintro rfl
    rw [roundF_zero, hwidth]
    exact ⟨rfl, rfl⟩
  case overflow =>
    rw [roundF_over hm ((hbeyond hm).mpr hover), largestOf_eq h, infiniteOf_eq h]
    exact ⟨rfl, rfl⟩
  case fits =>
    have hsmall : ¬ TooBig f k q := fun hbig => hfits ((hbeyond hm).mp hbig)
    obtain ⟨k', q', hfl, hval, hmag⟩ := flOf_packed (k := k) (q := q) hf neg (roundAt_quantum_le f mode neg hm e) (le_max_right _ _)
      (quantum_eq_of_lt f mode neg hm e) hsmall
    obtain ⟨hlow, hinexact, hunder⟩ := roundFlags_bits (roundAt mode neg m e q).2
      (leadExp (roundAt mode neg m e free).1 free < f.emin ∧ (roundAt mode neg m e q).2 = true)
    have htiny := leadExp_lt_iff (roundAt_freeQuantum_ne_zero f mode neg hm e) free f.emin
    rw [roundF_fits hm hsmall]
    refine ⟨hlow, hinexact, hunder.trans (and_congr_left' htiny), ?_, ?_, ?_, ?_⟩
    · rw [hwidth]
      exact signed_lt hmag
    · show isFin (flOf f (signed f neg (packed f k q))) = true
      rw [hfl]; rfl
    · show flSign (flOf f (signed f neg (packed f k q))) = neg
      rw [hfl]; rfl
    · show flVal (flOf f (signed f neg (packed f k q))) = _
      rw [hfl, flVal, mul_assoc, hval, mul_assoc]

/-! ## Conversions (03 R66) -/

theorem intSigned_eq (t : BitVec 3) : intSigned t = decide (t.toNat % 2 = 0) := by revert t; decide

/-- The limits of an integer type as the rule writes them (03 R55). -/
theorem intMin_eq (t : BitVec 3) : intMin t = if t.toNat % 2 = 0 then -(2 ^ (8 * 2 ^ (t.toNat / 2) - 1)) else 0 := by
  unfold intMin intWidth
  rw [intSigned_eq]
  simp only [decide_eq_true_eq]

theorem intMax_eq (t : BitVec 3) :
    intMax t = if t.toNat % 2 = 0 then 2 ^ (8 * 2 ^ (t.toNat / 2) - 1) - 1 else 2 ^ (8 * 2 ^ (t.toNat / 2)) - 1 := by
  unfold intMax intWidth
  rw [intSigned_eq]
  simp only [decide_eq_true_eq]

theorem two_pow_intWidth (t : BitVec 3) : 0 < 2 ^ (intWidth t - 1) ∧ 2 ^ intWidth t = 2 * 2 ^ (intWidth t - 1) := by
  have hw : 0 < intWidth t := by unfold intWidth; positivity
  exact ⟨by positivity, by rw [← pow_succ']; congr 1; omega⟩

theorem intMin_le_intMax (t : BitVec 3) : intMin t ≤ intMax t := by
  obtain ⟨hpos, hpow⟩ := two_pow_intWidth t
  unfold intMin intMax
  zify at hpos hpow
  split <;> omega

theorem emod_two_mul {x p : Int} (hlo : -p ≤ x) (hhi : x < 2 * p) : x % (2 * p) = if 0 ≤ x then x else x + 2 * p := by
  split
  next hx => exact Int.emod_eq_of_lt hx hhi
  next hx => rw [← Int.add_emod_right]; exact Int.emod_eq_of_lt (by omega) (by omega)

theorem intOf_eq (t : BitVec 3) (b : Nat) : intOf t b =
    if intSigned t = true ∧ 2 ^ (intWidth t - 1) ≤ b % 2 ^ intWidth t then ((b % 2 ^ intWidth t : Nat) : Int) - 2 ^ intWidth t
    else (b % 2 ^ intWidth t : Nat) := rfl

/-- A pattern of an integer in the range of its type reads as that integer. -/
theorem intOf_of_mod {t : BitVec 3} {x : Int} {b : Nat} (hlo : intMin t ≤ x) (hhi : x ≤ intMax t)
    (h : (b : Int) % 2 ^ intWidth t = x % 2 ^ intWidth t) : intOf t b = x := by
  obtain ⟨hpos, hpow⟩ := two_pow_intWidth t
  have hu : ((b % 2 ^ intWidth t : Nat) : Int) = x % 2 ^ intWidth t := by push_cast; exact h
  have hpowInt : (2 : Int) ^ intWidth t = 2 * 2 ^ (intWidth t - 1) := by exact_mod_cast hpow
  have hhalf : ((2 ^ (intWidth t - 1) : Nat) : Int) = 2 ^ (intWidth t - 1) := by push_cast; rfl
  unfold intMin at hlo
  unfold intMax at hhi
  rw [intOf_eq]
  rw [hpowInt] at hu hhi ⊢
  generalize b % 2 ^ intWidth t = u at hu ⊢
  generalize (2 : Int) ^ (intWidth t - 1) = p at *
  generalize 2 ^ (intWidth t - 1) = n at *
  cases hs : intSigned t with
  | false =>
    simp only [hs, Bool.false_eq_true, if_false, false_and] at hlo hhi ⊢
    rw [hu, emod_two_mul (by omega) (by omega), if_pos hlo]
  | true =>
    simp only [hs, if_true, true_and] at hlo hhi ⊢
    rw [emod_two_mul (by omega) (by omega)] at hu
    split_ifs at hu ⊢ <;> omega

section
variable {src : Fmt} {a : Nat} (dst : Fmt) (t : BitVec 3) (mode : BitVec 2) (sat : Bool)

theorem fConvert_nan {sig : Bool} (h : flOf src a = .nan sig) : fConvert src dst mode sat a = nanRes dst sig := by
  unfold fConvert; rw [h]

theorem fConvert_inf {neg : Bool} (h : flOf src a = .inf neg) : fConvert src dst mode sat a =
    if sat then ⟨dst.largest neg, 0⟩ else if dst.e4m3 then ⟨dst.nan, 1⟩ else ⟨dst.inf neg, 0⟩ := by
  unfold fConvert; rw [h]

theorem fConvert_fin {neg : Bool} {m : Nat} {e : Int} (h : flOf src a = .fin neg m e) :
    fConvert src dst mode sat a = roundF dst mode sat neg m e := by
  unfold fConvert; rw [h]

theorem fToInt_nan {sig : Bool} (h : flOf src a = .nan sig) : fToInt src t mode a = ⟨0, 1⟩ := by
  unfold fToInt; rw [h]

/-- The pattern of an integer in a type, with the flags of its conversion. -/
def intRes (t : BitVec 3) (v : Int) (fl : BitVec 5) : FRes := ⟨(v % 2 ^ intWidth t).toNat, fl⟩

theorem intRes_bits (v : Int) (fl : BitVec 5) : ((intRes t v fl).bits : Int) = v % 2 ^ intWidth t :=
  Int.toNat_of_nonneg (Int.emod_nonneg _ (by positivity))

theorem fToInt_inf {neg : Bool} (h : flOf src a = .inf neg) :
    fToInt src t mode a = intRes t (if neg then intMin t else intMax t) 1 := by
  unfold fToInt; rw [h]; rfl

/-- A finite value goes to the integer to which it rounds, or to the nearest limit with invalid. -/
theorem fToInt_fin {neg : Bool} {m : Nat} {e : Int} (h : flOf src a = .fin neg m e) :
    let k := roundAt mode neg m e 0
    let v : Int := if neg then -(k.1 : Int) else k.1
    fToInt src t mode a = intRes t (max (intMin t) (min (intMax t) v))
      ((if v < intMin t ∨ intMax t < v then 1 else 0) ||| (if k.2 = true then 0x10 else 0)) := by
  intro k v
  have hle := intMin_le_intMax t
  have hdef : fToInt src t mode a = if v < intMin t then intRes t (intMin t) (1 ||| (if k.2 = true then 0x10 else 0))
      else if intMax t < v then intRes t (intMax t) (1 ||| (if k.2 = true then 0x10 else 0))
      else intRes t v (if k.2 = true then 0x10 else 0) := by
    unfold fToInt; rw [h]; rfl
  rw [hdef]
  generalize (if k.2 = true then (0x10 : BitVec 5) else 0) = inexact
  rcases lt_or_ge v (intMin t) with hlow | hlow
  · rw [if_pos hlow, if_pos (.inl hlow), min_eq_right (by omega), max_eq_left hlow.le]
  rw [if_neg (by omega)]
  rcases lt_or_ge (intMax t) v with hhigh | hhigh
  · rw [if_pos hhigh, if_pos (.inr hhigh), min_eq_left hhigh.le, max_eq_right hle]
  · rw [if_neg (by omega), if_neg (by omega), min_eq_right hhigh, max_eq_right hlow]
    exact congrArg (intRes t v) BitVec.zero_or.symm

theorem conversionFlags_bits (invalid : Prop) [Decidable invalid] (inexact : Bool) :
    let fl : BitVec 5 := (if invalid then 1 else 0) ||| (if inexact = true then 0x10 else 0)
    fl.getLsbD 4 = inexact ∧ fl.extractLsb' 0 4 = if invalid then 1 else 0 := by
  by_cases h : invalid <;> cases inexact <;> simp [h]

end

theorem isE4M3 (code : BitVec 3) : (fmtOf code).e4m3 = decide (code = 4#3) := by revert code; decide

/-- Settles O7: `roundAt` by the branches of its modes, `roundF` by the normal form of what it packs, and each conversion by its case of the
operand. -/
theorem roundingIsCorrect : Obligations.RoundingIsCorrect := by
  unfold Obligations.RoundingIsCorrect
  refine ⟨fun mode neg m e q => ⟨fun h => roundAt_fine h, fun h => roundAt_picks mode neg m h⟩,
    fun code mode sat neg m e h => roundsTo_roundF h mode sat neg m e, ?_⟩
  intro src dst t mode sat neg m a e _ hdst r i lo hi w put
  have hlo : intMin t = lo := intMin_eq t
  have hhi : intMax t = hi := intMax_eq t
  refine ⟨fun sig h => ?nan, fun h => ?inf, fun h => ?fin, fun x b hx hx' hb => ?int⟩
  case nan =>
    have hr : r = nanRes (fmtOf dst) sig := fConvert_nan _ mode sat h
    have hconv : i = ⟨0, 1⟩ := fToInt_nan t mode h
    rw [hr, hconv, nanOf_eq hdst]
    exact ⟨rfl, rfl, rfl, rfl⟩
  case inf =>
    have hr : r = _ := fConvert_inf (fmtOf dst) mode sat h
    have hconv : i = _ := fToInt_inf t mode h
    refine ⟨fun hsat => ?_, fun hsat => ?_, ?_, ?_⟩
    · rw [hr, largestOf_eq hdst, if_pos hsat]
      exact ⟨rfl, rfl⟩
    · rw [hr, infiniteOf_eq hdst, hsat, if_neg Bool.false_ne_true, isE4M3]
      by_cases h4 : dst = 4#3
      · subst h4; exact ⟨rfl, rfl⟩
      · simp [h4]
    · rw [hconv]; rfl
    · show (i.bits : Int) = _
      rw [hconv, intRes_bits, hlo, hhi]
      rfl
  case fin =>
    have hr : r = roundF (fmtOf dst) mode sat neg m e := fConvert_fin _ mode sat h
    refine ⟨hr ▸ roundsTo_roundF hdst mode sat neg m e, ?_⟩
    intro k v
    have hconv : i = _ := fToInt_fin t mode h
    obtain ⟨hinexact, hinvalid⟩ := conversionFlags_bits (v < lo ∨ hi < v) (roundAt mode neg m e 0).2
    rw [hlo, hhi] at hconv
    refine ⟨?_, ?_, ?_⟩
    · show (i.bits : Int) = _
      rw [hconv]
      exact intRes_bits ..
    · rw [hconv]; exact hinexact
    · rw [hconv]; exact hinvalid
  case int =>
    have hread : intOf t b = x := intOf_of_mod (hlo ▸ hx) (hhi ▸ hx') hb
    have hdef : intToF t (fmtOf dst) mode sat b = roundF (fmtOf dst) mode sat (decide (x < 0)) x.natAbs 0 := by
      rw [← hread]; rfl
    rw [hdef]
    exact roundsTo_roundF hdst ..

end Sys2Proof.Machine
end

section
/-! PROOFS. The order of floating-point values (O9): comparisons, FMIN and FMAX. -/

namespace Sys2Proof.Machine

open Sys2Proof.Claims

/-! ## The order of finite values (03 R61) -/

theorem flVal_fin (neg : Bool) (m : Nat) (e : Int) : flVal (.fin neg m e) = (if neg then -1 else 1) * ((m : ℚ) * 2 ^ e) :=
  mul_assoc ..

/-- A dyadic as an integer multiple of a place at or below its own. -/
theorem dyInt_mul (neg : Bool) (m : Nat) {e q : Int} (h : q ≤ e) : (dyInt neg m e q : ℚ) * 2 ^ q = flVal (.fin neg m e) := by
  unfold dyInt
  rw [flVal_fin, ← two_pow_toNat_mul h]
  cases neg <;> simp [mul_assoc]

theorem isFin_iff {x : Fl} : isFin x = true ↔ ∃ neg m e, x = .fin neg m e := by
  cases x <;> simp [isFin]

theorem isNan_of_isFin {x : Fl} (h : isFin x = true) : isNan x = false := by
  cases x with
  | fin => rfl
  | _ => cases h

theorem isSig_of_not_isNan {x : Fl} (h : isNan x = false) : isSig x = false := by
  cases x with
  | nan => cases h
  | _ => rfl

/-- The comparison of finite values is the sign of their difference, measured in a common place. -/
theorem flCmp_fin {x y : Fl} (hx : isFin x = true) (hy : isFin y = true) :
    ∃ (d q : Int), flCmp x y = d.sign ∧ (d : ℚ) * 2 ^ q = flVal x - flVal y := by
  obtain ⟨n1, m1, e1, rfl⟩ := isFin_iff.mp hx
  obtain ⟨n2, m2, e2, rfl⟩ := isFin_iff.mp hy
  refine ⟨_, if e1 ≤ e2 then e1 else e2, rfl, ?_⟩
  have h1 : (if e1 ≤ e2 then e1 else e2) ≤ e1 := by split <;> omega
  have h2 : (if e1 ≤ e2 then e1 else e2) ≤ e2 := by split <;> omega
  push_cast
  rw [sub_mul, dyInt_mul n1 m1 h1, dyInt_mul n2 m2 h2]

section
variable {x y : Fl} (hx : isFin x = true) (hy : isFin y = true)
include hx hy

theorem flCmp_neg_iff : flCmp x y < 0 ↔ flVal x < flVal y := by
  obtain ⟨d, q, hcmp, hd⟩ := flCmp_fin hx hy
  rw [hcmp, Int.sign_neg_iff, ← sub_neg (a := flVal x), ← hd, ← zero_mul ((2 : ℚ) ^ q),
    mul_lt_mul_iff_left₀ (two_zpow_pos q), Int.cast_lt_zero]

theorem flCmp_eq_zero_iff : flCmp x y = 0 ↔ flVal x = flVal y := by
  obtain ⟨d, q, hcmp, hd⟩ := flCmp_fin hx hy
  rw [hcmp, Int.sign_eq_zero_iff_zero, ← sub_eq_zero (a := flVal x), ← hd, mul_eq_zero, Int.cast_eq_zero, or_iff_left (two_zpow_pos q).ne']

theorem flCmp_nonpos_iff : flCmp x y ≤ 0 ↔ flVal x ≤ flVal y := by
  rw [le_iff_lt_or_eq, flCmp_neg_iff hx hy, flCmp_eq_zero_iff hx hy, ← le_iff_lt_or_eq]

/-- By value, and −0 below +0. -/
theorem flBelow_iff : flBelow x y = true ↔ flVal x < flVal y ∨ (flVal x = flVal y ∧ flSign x = true ∧ flSign y = false) := by
  unfold flBelow
  simp [flCmp_neg_iff hx hy, flCmp_eq_zero_iff hx hy, and_assoc]

/-- Comparisons of finite operands go by value. -/
theorem fRel_fin : fRel 0 x y = (decide (flVal x = flVal y), 0) ∧ fRel 1 x y = (decide (flVal x < flVal y), 0)
    ∧ fRel 2 x y = (decide (flVal x ≤ flVal y), 0) ∧ fRel 3 x y = (false, 0) := by
  have hnan := isNan_of_isFin hx
  have hnan' := isNan_of_isFin hy
  have hsig := isSig_of_not_isNan hnan
  have hsig' := isSig_of_not_isNan hnan'
  simp [fRel, hnan, hnan', hsig, hsig', flCmp_neg_iff hx hy, flCmp_eq_zero_iff hx hy, flCmp_nonpos_iff hx hy]

end

/-- Comparisons with a NaN: only UN holds, and the ordered ones raise invalid for any NaN. -/
theorem fRel_nan {x y : Fl} (h : isNan x = true ∨ isNan y = true) :
    fRel 0 x y = (false, if isSig x || isSig y then 1 else 0) ∧ fRel 1 x y = (false, 1) ∧ fRel 2 x y = (false, 1)
      ∧ fRel 3 x y = (true, if isSig x || isSig y then 1 else 0) := by
  have hnan : (isNan x || isNan y) = true := by simpa using h
  unfold fRel
  rw [hnan]
  exact ⟨rfl, rfl, rfl, rfl⟩

/-! ## FMIN and FMAX (06 R122) -/

section
variable {f : Fmt} {a b : Nat}

theorem fMinMax_numbers (ha : isNan (flOf f a) = false) (hb : isNan (flOf f b) = false) (greater : Bool) :
    fMinMax f greater a b =
      if greater then ⟨if flBelow (flOf f a) (flOf f b) then b else a, 0⟩ else ⟨if flBelow (flOf f b) (flOf f a) then b else a, 0⟩ := by
  simp [fMinMax, ha, hb, isSig_of_not_isNan ha, isSig_of_not_isNan hb]

theorem fMinMax_sig (h : isSig (flOf f a) = true ∨ isSig (flOf f b) = true) (greater : Bool) : fMinMax f greater a b = ⟨f.nan, 1⟩ := by
  have hsig : (isSig (flOf f a) || isSig (flOf f b)) = true := by simpa using h
  unfold fMinMax
  exact if_pos hsig

/-- A quiet NaN gives way to a number. -/
theorem fMinMax_quiet (hs : isSig (flOf f a) = false) (ha : isNan (flOf f a) = true) (hb : isNan (flOf f b) = false) (greater : Bool) :
    fMinMax f greater a b = ⟨b, 0⟩ ∧ fMinMax f greater b a = ⟨b, 0⟩ := by
  simp [fMinMax, hs, ha, hb, isSig_of_not_isNan hb]

/-- The lesser of two finite patterns is picked by FMIN and the greater by FMAX, in either order of the operands. -/
theorem fMinMax_of_below (hx : isFin (flOf f a) = true) (hy : isFin (flOf f b) = true)
    (hab : flBelow (flOf f a) (flOf f b) = true) (hba : flBelow (flOf f b) (flOf f a) = false) :
    fMinMax f false a b = ⟨a, 0⟩ ∧ fMinMax f true a b = ⟨b, 0⟩
      ∧ fMinMax f false b a = ⟨a, 0⟩ ∧ fMinMax f true b a = ⟨b, 0⟩ := by
  have ha := isNan_of_isFin hx
  have hb := isNan_of_isFin hy
  simp [fMinMax_numbers ha hb, fMinMax_numbers hb ha, hab, hba]

end

/-- Settles O9: every comparison is the sign of one difference. -/
theorem floatOrderGoesByValue : Obligations.FloatOrderGoesByValue := by
  unfold Obligations.FloatOrderGoesByValue
  intro code a b f x y
  refine ⟨fun hx hy => ⟨fRel_fin hx hy, fun hlt => ?_, fun heq hsx hsy => ?_⟩, fun hnan => ?_⟩
  · refine fMinMax_of_below hx hy ((flBelow_iff hx hy).mpr (.inl hlt)) (Bool.eq_false_iff.mpr fun hba => ?_)
    rcases (flBelow_iff hy hx).mp hba with h | ⟨h, -, -⟩
    · exact lt_asymm h hlt
    · exact hlt.ne' h
  · refine fMinMax_of_below hx hy ((flBelow_iff hx hy).mpr (.inr ⟨heq, hsx, hsy⟩)) (Bool.eq_false_iff.mpr fun hba => ?_)
    rcases (flBelow_iff hy hx).mp hba with h | ⟨-, h, -⟩
    · exact h.ne heq.symm
    · exact Bool.false_ne_true (hsy.symm.trans h)
  · obtain ⟨heq, hlt, hle, hun⟩ := fRel_nan hnan
    rw [heq, hlt, hle, hun]
    exact ⟨rfl, rfl, rfl, rfl, rfl, rfl⟩

end Sys2Proof.Machine
end

section
/-! PROOFS. Exact and special results (O8): a result without a flag has lost nothing, and the tables for NaNs, infinities and zeros. -/

namespace Sys2Proof.Machine

open Sys2Proof.Claims

/-! ## Results without a flag are exact (03 R59) -/

/-- The value of a result in a format. -/
def resVal (f : Fmt) (r : FRes) : ℚ := flVal (flOf f r.bits)

theorem resVal_zero {f : Fmt} (hf : f.Ok) (neg : Bool) (fl : BitVec 5) : resVal f ⟨f.zero neg, fl⟩ = 0 := by
  have hfl : flOf f (f.zero neg) = .fin neg 0 (f.emin - f.mw) := flOf_subnormal hf neg (m := 0) (by positivity)
  simp [resVal, hfl, flVal]

theorem flVal_mul (n1 n2 : Bool) (m1 m2 : Nat) (e1 e2 : Int) :
    flVal (.fin (n1 ^^ n2) (m1 * m2) (e1 + e2)) = flVal (.fin n1 m1 e1) * flVal (.fin n2 m2 e2) := by
  simp only [flVal_fin, zpow_add₀ (two_ne_zero (α := ℚ)), Nat.cast_mul]
  cases n1 <;> cases n2 <;> simp <;> ring

theorem flVal_flNeg (x : Fl) : flVal (flNeg x) = -flVal x := by
  cases x with
  | fin n m e => cases n <;> simp [flNeg, flVal]
  | _ => simp [flNeg, flVal]

section
variable {code : BitVec 3} (hcode : floatCodeOk code = true) {mode : BitVec 2} {sat neg : Bool} {m : Nat} {e : Int}
include hcode

/-- A rounding without a flag has discarded nothing. -/
theorem roundAt_exact_of_flags (hflags : (roundF (fmtOf code) mode sat neg m e).flags = 0) (hm : m ≠ 0) :
    (roundAt mode neg m e (quantum (fmtOf code) m e)).2 = false
      ∧ resVal (fmtOf code) (roundF (fmtOf code) mode sat neg m e) = flVal (.fin neg m e) := by
  have hrounds := roundsTo_roundF hcode mode sat neg m e
  unfold RoundsTo at hrounds
  obtain ⟨-, hover, hfits⟩ := hrounds
  rw [hflags] at hover hfits
  obtain ⟨-, hinexact, -, -, -, -, hval⟩ := hfits hm (fun hbeyond => absurd (hover hm hbeyond).1 (by decide))
  have hexact : (roundAt mode neg m e (quantum (fmtOf code) m e)).2 = false := hinexact.symm
  refine ⟨hexact, hval.trans ?_⟩
  rw [flVal_fin, mul_assoc]
  exact congrArg _ (roundAt_exact hexact)

theorem resVal_roundF (hflags : (roundF (fmtOf code) mode sat neg m e).flags = 0) :
    resVal (fmtOf code) (roundF (fmtOf code) mode sat neg m e) = flVal (.fin neg m e) := by
  rcases eq_or_ne m 0 with rfl | hm
  · rw [roundF_zero, resVal_zero (fmtOf_ok code)]
    simp [flVal]
  · exact (roundAt_exact_of_flags hcode hflags hm).2

/-- A sticky bit below the precision of the format always raises a flag. -/
theorem sticky_eq_zero {r s : Nat} (hs : s ≤ 1) (hr : 2 ^ (fmtOf code).mw ≤ r)
    (hflags : (roundF (fmtOf code) mode sat neg (2 * r + s) e).flags = 0) : s = 0 := by
  by_contra hne
  have hodd : (2 * r + s) % 2 = 1 := by omega
  have hm : 2 * r + s ≠ 0 := by omega
  obtain ⟨hexact, -⟩ := roundAt_exact_of_flags hcode hflags hm
  have hlog : (fmtOf code).mw + 1 ≤ (2 * r + s).log2 := by
    rw [Nat.le_log2 hm, pow_succ]
    omega
  have hcoarse : e < quantum (fmtOf code) (2 * r + s) e := by
    refine lt_of_lt_of_le ?_ (le_max_left _ _)
    unfold freeQuantum leadExp
    omega
  rw [roundAt_coarse hcoarse] at hexact
  have hdvd : 2 ^ (quantum (fmtOf code) (2 * r + s) e - e).toNat ∣ 2 * r + s := Nat.dvd_of_mod_eq_zero (by simpa using hexact)
  have htwo : 2 ∣ 2 * r + s := (dvd_pow_self 2 (by omega)).trans hdvd
  omega

theorem resVal_addFin {n1 n2 : Bool} {m1 m2 : Nat} {e1 e2 : Int}
    (hflags : (addFin (fmtOf code) mode sat n1 m1 e1 n2 m2 e2).flags = 0) :
    resVal (fmtOf code) (addFin (fmtOf code) mode sat n1 m1 e1 n2 m2 e2) = flVal (.fin n1 m1 e1) + flVal (.fin n2 m2 e2) := by
  obtain ⟨q, hq⟩ : ∃ q, q = if e1 ≤ e2 then e1 else e2 := ⟨_, rfl⟩
  obtain ⟨s, hs⟩ : ∃ s, s = dyInt n1 m1 e1 q + dyInt n2 m2 e2 q := ⟨_, rfl⟩
  have hsum : (s : ℚ) * 2 ^ q = flVal (.fin n1 m1 e1) + flVal (.fin n2 m2 e2) := by
    have h1 : q ≤ e1 := by rw [hq]; split <;> omega
    have h2 : q ≤ e2 := by rw [hq]; split <;> omega
    rw [hs, Int.cast_add, add_mul, dyInt_mul n1 m1 h1, dyInt_mul n2 m2 h2]
  have hdef : addFin (fmtOf code) mode sat n1 m1 e1 n2 m2 e2 =
      if s = 0 then ⟨(fmtOf code).zero (if n1 = n2 ∧ m1 = 0 ∧ m2 = 0 then n1 else decide (mode = 3#2)), 0⟩
      else roundF (fmtOf code) mode sat (decide (s < 0)) s.natAbs q := by
    rw [hs, hq]; rfl
  rw [hdef] at hflags ⊢
  rw [← hsum]
  by_cases h0 : s = 0
  · rw [if_pos h0, resVal_zero (fmtOf_ok code), h0]
    simp
  · rw [if_neg h0] at hflags ⊢
    rw [resVal_roundF hcode hflags, flVal_fin]
    rcases lt_or_ge s 0 with hneg | hpos
    · simp [hneg, abs_of_neg hneg]
    · simp [not_lt.mpr hpos, abs_of_nonneg hpos]

theorem resVal_fAdd {x y : Fl} (hx : isFin x = true) (hy : isFin y = true) (hflags : (fAdd (fmtOf code) mode sat x y).flags = 0) :
    resVal (fmtOf code) (fAdd (fmtOf code) mode sat x y) = flVal x + flVal y := by
  obtain ⟨n1, m1, e1, rfl⟩ := isFin_iff.mp hx
  obtain ⟨n2, m2, e2, rfl⟩ := isFin_iff.mp hy
  exact resVal_addFin hcode hflags

theorem resVal_fSub {x y : Fl} (hx : isFin x = true) (hy : isFin y = true) (hflags : (fSub (fmtOf code) mode sat x y).flags = 0) :
    resVal (fmtOf code) (fSub (fmtOf code) mode sat x y) = flVal x - flVal y := by
  have hy' : isFin (flNeg y) = true := by
    obtain ⟨n, m, e, rfl⟩ := isFin_iff.mp hy
    rfl
  rw [sub_eq_add_neg, ← flVal_flNeg]
  exact resVal_fAdd hcode hx hy' hflags

theorem resVal_fMul {x y : Fl} (hx : isFin x = true) (hy : isFin y = true) (hflags : (fMul (fmtOf code) mode sat x y).flags = 0) :
    resVal (fmtOf code) (fMul (fmtOf code) mode sat x y) = flVal x * flVal y := by
  obtain ⟨n1, m1, e1, rfl⟩ := isFin_iff.mp hx
  obtain ⟨n2, m2, e2, rfl⟩ := isFin_iff.mp hy
  rw [← flVal_mul]
  exact resVal_roundF hcode hflags

theorem resVal_fFma {x y z : Fl} (hx : isFin x = true) (hy : isFin y = true) (hz : isFin z = true)
    (hflags : (fFma (fmtOf code) mode sat x y z).flags = 0) :
    resVal (fmtOf code) (fFma (fmtOf code) mode sat x y z) = flVal x * flVal y + flVal z := by
  obtain ⟨n1, m1, e1, rfl⟩ := isFin_iff.mp hx
  obtain ⟨n2, m2, e2, rfl⟩ := isFin_iff.mp hy
  obtain ⟨n3, m3, e3, rfl⟩ := isFin_iff.mp hz
  rw [← flVal_mul]
  exact resVal_addFin hcode hflags

end

/-! ### Quotients -/

/-- The quotient carries more bits than the format keeps. -/
theorem quotient_precise {w m1 m2 : Nat} (h1 : m1 ≠ 0) (h2 : m2 ≠ 0) : 2 ^ w ≤ m1 * 2 ^ (w + 4 + m2.log2) / m2 := by
  have hlt : m2 < 2 ^ (m2.log2 + 1) := Nat.lt_log2_self
  rw [Nat.le_div_iff_mul_le (Nat.pos_of_ne_zero h2)]
  calc 2 ^ w * m2 ≤ 2 ^ w * 2 ^ (m2.log2 + 1) := Nat.mul_le_mul_left _ hlt.le
    _ = 2 ^ (w + (m2.log2 + 1)) := (pow_add ..).symm
    _ ≤ 2 ^ (w + 4 + m2.log2) := Nat.pow_le_pow_right two_pos (by omega)
    _ ≤ m1 * 2 ^ (w + 4 + m2.log2) := Nat.le_mul_of_pos_left _ (Nat.pos_of_ne_zero h1)

theorem fDiv_fin (f : Fmt) (mode : BitVec 2) (sat n1 n2 : Bool) (m1 m2 : Nat) (e1 e2 : Int) :
    fDiv f mode sat (.fin n1 m1 e1) (.fin n2 m2 e2) =
      if m2 = 0 then (if m1 = 0 then nanRes f true else ⟨if sat then f.largest (n1 ^^ n2) else f.inf (n1 ^^ n2), 2⟩)
      else roundF f mode sat (n1 ^^ n2)
        (2 * (m1 * 2 ^ (f.mw + 4 + m2.log2) / m2) + if m1 * 2 ^ (f.mw + 4 + m2.log2) % m2 = 0 then 0 else 1)
        (e1 - e2 - (f.mw + 4 + m2.log2 : Nat) - 1) := rfl

/-- An exact quotient times its divisor. -/
theorem flVal_quotient {n1 n2 : Bool} {m1 m2 q k : Nat} {e1 e2 : Int} (h : q * m2 = m1 * 2 ^ k) :
    flVal (.fin (n1 ^^ n2) (2 * q) (e1 - e2 - k - 1)) * flVal (.fin n2 m2 e2) = flVal (.fin n1 m1 e1) := by
  have hq : (q : ℚ) * m2 = m1 * 2 ^ k := by exact_mod_cast h
  rw [← flVal_mul, flVal_fin, flVal_fin]
  have hsign : ((n1 ^^ n2) ^^ n2) = n1 := by cases n1 <;> cases n2 <;> rfl
  rw [hsign]
  congr 1
  calc ((2 * q * m2 : Nat) : ℚ) * 2 ^ (e1 - e2 - k - 1 + e2) = 2 * (q * m2) * 2 ^ (e1 - k - 1) := by
        push_cast
        rw [mul_assoc 2 (q : ℚ)]
        congr 2
        ring
    _ = m1 * (2 ^ (1 + k) * 2 ^ (e1 - (1 + k : Nat))) := by
        rw [hq, pow_add, pow_one]
        push_cast
        rw [show e1 - (1 + (k : Int)) = e1 - k - 1 by ring]
        ring
    _ = m1 * 2 ^ e1 := by rw [two_pow_mul_zpow_sub]

theorem resVal_fDiv {code : BitVec 3} (hcode : floatCodeOk code = true) {mode : BitVec 2} {sat : Bool} {x y : Fl}
    (hx : isFin x = true) (hy : isFin y = true) (hflags : (fDiv (fmtOf code) mode sat x y).flags = 0) :
    resVal (fmtOf code) (fDiv (fmtOf code) mode sat x y) * flVal y = flVal x := by
  obtain ⟨n1, m1, e1, rfl⟩ := isFin_iff.mp hx
  obtain ⟨n2, m2, e2, rfl⟩ := isFin_iff.mp hy
  rw [fDiv_fin] at hflags ⊢
  rcases eq_or_ne m2 0 with rfl | h2
  · rw [if_pos rfl] at hflags
    split at hflags
    · exact absurd hflags (show ¬ (1#5 = 0) by decide)
    · exact absurd hflags (show ¬ (2#5 = 0) by decide)
  rw [if_neg h2] at hflags ⊢
  obtain ⟨k, hk⟩ : ∃ k, k = (fmtOf code).mw + 4 + m2.log2 := ⟨_, rfl⟩
  have hrem : m1 * 2 ^ k % m2 = 0 := by
    rcases eq_or_ne m1 0 with rfl | h1
    · simp
    · have hsticky := sticky_eq_zero hcode (by split <;> omega) (quotient_precise h1 h2) hflags
      rw [hk]
      by_contra hne
      rw [if_neg hne] at hsticky
      exact one_ne_zero hsticky
  rw [← hk, if_pos hrem, add_zero] at hflags ⊢
  rw [resVal_roundF hcode hflags]
  exact flVal_quotient (Nat.div_mul_cancel (Nat.dvd_of_mod_eq_zero hrem))

/-! ### Roots -/

/-- The scale of the root: an even shift of m × 2^e that leaves more bits than the format keeps. -/
def rootShift (f : Fmt) (e : Int) : Nat := 2 * (f.mw + 3) + (if e % 2 = 0 then 0 else 1)

theorem fSqrt_pos (f : Fmt) (mode : BitVec 2) (sat : Bool) {m : Nat} (hm : m ≠ 0) (e : Int) :
    fSqrt f mode sat (.fin false m e) = roundF f mode sat false
      (2 * (m * 2 ^ rootShift f e).sqrt
        + if (m * 2 ^ rootShift f e).sqrt * (m * 2 ^ rootShift f e).sqrt = m * 2 ^ rootShift f e then 0 else 1)
      ((e - rootShift f e) / 2 - 1) := by
  unfold fSqrt
  exact if_neg hm

theorem root_precise (f : Fmt) {m : Nat} (hm : m ≠ 0) (e : Int) : 2 ^ f.mw ≤ (m * 2 ^ rootShift f e).sqrt := by
  rw [Nat.le_sqrt, ← pow_add]
  calc 2 ^ (f.mw + f.mw) ≤ 2 ^ rootShift f e := Nat.pow_le_pow_right two_pos (by unfold rootShift; omega)
    _ ≤ m * 2 ^ rootShift f e := Nat.le_mul_of_pos_left _ (Nat.pos_of_ne_zero hm)

/-- The square of an exact root. -/
theorem flVal_root {m r k : Nat} {e : Int} (h : r * r = m * 2 ^ k) (hk : (e - k) % 2 = 0) :
    flVal (.fin false (2 * r) ((e - k) / 2 - 1)) * flVal (.fin false (2 * r) ((e - k) / 2 - 1)) = flVal (.fin false m e) := by
  have hr : (r : ℚ) * r = m * 2 ^ k := by exact_mod_cast h
  rw [← flVal_mul, flVal_fin, flVal_fin, Bool.xor_self]
  congr 1
  have hexp : (e - k) / 2 - 1 + ((e - k) / 2 - 1) = e - k - 2 := by omega
  calc ((2 * r * (2 * r) : Nat) : ℚ) * 2 ^ ((e - k) / 2 - 1 + ((e - k) / 2 - 1)) = 4 * (r * r) * 2 ^ (e - k - 2) := by
        rw [hexp]
        push_cast
        ring
    _ = m * (2 ^ (2 + k) * 2 ^ (e - (2 + k : Nat))) := by
        rw [hr, pow_add]
        push_cast
        rw [show e - (2 + (k : Int)) = e - k - 2 by ring]
        ring
    _ = m * 2 ^ e := by rw [two_pow_mul_zpow_sub]

theorem resVal_fSqrt {code : BitVec 3} (hcode : floatCodeOk code = true) {mode : BitVec 2} {sat : Bool} {x : Fl}
    (hx : isFin x = true) (hflags : (fSqrt (fmtOf code) mode sat x).flags = 0) :
    resVal (fmtOf code) (fSqrt (fmtOf code) mode sat x) * resVal (fmtOf code) (fSqrt (fmtOf code) mode sat x) = flVal x := by
  obtain ⟨n, m, e, rfl⟩ := isFin_iff.mp hx
  rcases eq_or_ne m 0 with rfl | hm
  · show resVal _ ⟨(fmtOf code).zero n, 0⟩ * resVal _ ⟨(fmtOf code).zero n, 0⟩ = _
    rw [resVal_zero (fmtOf_ok code)]
    simp [flVal]
  cases n with
  | true =>
    have hinvalid : fSqrt (fmtOf code) mode sat (.fin true m e) = nanRes (fmtOf code) true := if_neg hm
    rw [hinvalid] at hflags
    exact absurd hflags (show ¬ (1#5 = 0) by decide)
  | false =>
    rw [fSqrt_pos _ _ _ hm] at hflags ⊢
    have hsticky := sticky_eq_zero hcode (by split <;> omega) (root_precise _ hm e) hflags
    have hsquare : (m * 2 ^ rootShift (fmtOf code) e).sqrt * (m * 2 ^ rootShift (fmtOf code) e).sqrt = m * 2 ^ rootShift (fmtOf code) e := by
      by_contra hne
      rw [if_neg hne] at hsticky
      exact one_ne_zero hsticky
    rw [if_pos hsquare, add_zero] at hflags ⊢
    rw [resVal_roundF hcode hflags]
    exact flVal_root hsquare (by unfold rootShift; split <;> omega)

/-! ## NaN operands and signs (03 R61) -/

theorem isNan_iff {x : Fl} : isNan x = true ↔ ∃ sig, x = .nan sig := by
  cases x <;> simp [isNan]

section
variable (f : Fmt) (mode : BitVec 2) {x y : Fl} (h : isNan x = true ∨ isNan y = true)
include h

theorem fAdd_nan : fAdd f mode false x y = nanRes f (isSig x || isSig y) := by
  rcases h with h | h <;> obtain ⟨sig, rfl⟩ := isNan_iff.mp h
  · rfl
  · cases x <;> rfl

theorem fSub_nan : fSub f mode false x y = nanRes f (isSig x || isSig y) := by
  have hnan : isNan (flNeg y) = isNan y := by cases y <;> rfl
  have hsig : isSig (flNeg y) = isSig y := by cases y <;> rfl
  rw [← hnan] at h
  rw [← hsig]
  exact fAdd_nan f mode h

theorem fMul_nan : fMul f mode false x y = nanRes f (isSig x || isSig y) := by
  rcases h with h | h <;> obtain ⟨sig, rfl⟩ := isNan_iff.mp h
  · rfl
  · cases x <;> rfl

theorem fDiv_nan : fDiv f mode false x y = nanRes f (isSig x || isSig y) := by
  rcases h with h | h <;> obtain ⟨sig, rfl⟩ := isNan_iff.mp h
  · rfl
  · cases x <;> rfl

end

theorem fSqrt_nan (f : Fmt) (mode : BitVec 2) {x : Fl} (h : isNan x = true) : fSqrt f mode false x = nanRes f (isSig x) := by
  obtain ⟨sig, rfl⟩ := isNan_iff.mp h
  rfl

theorem fSignOp_nan {f : Fmt} {a : Nat} (h : isNan (flOf f a) = true) (clear : Bool) : fSignOp f clear a = nanRes f (isSig (flOf f a)) := by
  obtain ⟨sig, hsig⟩ := isNan_iff.mp h
  unfold fSignOp
  rw [hsig]
  rfl

/-- Flipping the top bit of a pattern. -/
theorem xor_two_pow_top {a n : Nat} (h : a < 2 ^ (n + 1)) : a ^^^ 2 ^ n = if a / 2 ^ n % 2 = 1 then a - 2 ^ n else a + 2 ^ n := by
  have hdiv : (a ^^^ 2 ^ n) / 2 ^ n = a / 2 ^ n ^^^ 1 := by rw [Nat.xor_div_two_pow, Nat.div_self (by positivity)]
  have hmod : (a ^^^ 2 ^ n) % 2 ^ n = a % 2 ^ n := by rw [Nat.xor_mod_two_pow, Nat.mod_self, Nat.xor_zero]
  have hx := Nat.div_add_mod (a ^^^ 2 ^ n) (2 ^ n)
  have ha := Nat.div_add_mod a (2 ^ n)
  rw [hdiv, hmod] at hx
  have htop : a / 2 ^ n = 0 ∨ a / 2 ^ n = 1 :=
    Nat.le_one_iff_eq_zero_or_eq_one.mp (Nat.lt_succ_iff.mp (Nat.div_lt_of_lt_mul (by rwa [← pow_succ])))
  rcases htop with htop | htop
  · rw [htop, Nat.zero_xor, mul_one] at hx
    rw [htop, mul_zero] at ha
    rw [htop, if_neg (by decide)]
    omega
  · rw [htop, Nat.xor_self, mul_zero] at hx
    rw [htop, mul_one] at ha
    rw [htop, if_pos rfl]
    omega

/-- FABS and FNEG touch the sign bit alone. -/
theorem fSignOp_number {f : Fmt} {a : Nat} (h : isNan (flOf f a) = false) (ha : a < 2 ^ f.width) :
    fSignOp f true a = ⟨a % f.signBit, 0⟩ ∧ fSignOp f false a = ⟨a ^^^ f.signBit, 0⟩ := by
  have hdef : ∀ clear, fSignOp f clear a =
      ⟨if clear then a % f.signBit else if a / f.signBit % 2 = 1 then a - f.signBit else a + f.signBit, 0⟩ := by
    intro clear
    unfold fSignOp
    cases hx : flOf f a with
    | nan sig => rw [hx] at h; cases h
    | _ => rfl
  rw [hdef, hdef]
  refine ⟨rfl, ?_⟩
  unfold Fmt.signBit
  rw [xor_two_pow_top (by rwa [Fmt.width, Nat.add_assoc, Nat.add_comm 1] at ha)]
  rfl

/-- Settles O8: what raises no flag has been packed without a remainder; the results for special operands are the cases of the definitions. -/
theorem exactAndSpecialResults : Obligations.ExactAndSpecialResults := by
  unfold Obligations.ExactAndSpecialResults
  refine ⟨fun code mode sat x y z hcode hx hy hz => ?exact, fun code mode x y g h m e a b hm => ?special⟩
  case exact =>
    exact ⟨resVal_fAdd hcode hx hy, resVal_fSub hcode hx hy, resVal_fMul hcode hx hy, resVal_fFma hcode hx hy hz,
      resVal_fDiv hcode hx hy, resVal_fSqrt hcode hx⟩
  case special =>
    intro f
    refine ⟨fun hnan r hr => ?_, fun hnan => ?_, ?_, ?_, rfl, rfl, rfl, rfl, ?_, ?_, rfl, rfl, rfl, fun hnan k => fSignOp_nan hnan k,
      fun hnum ha => fSignOp_number hnum ha, fun hsig k => fMinMax_sig hsig k, fun hs ha hb k => fMinMax_quiet hs ha hb k⟩
    · simp only [List.mem_cons, List.not_mem_nil, or_false] at hr
      rw [fAdd_nan f mode hnan, fSub_nan f mode hnan, fMul_nan f mode hnan, fDiv_nan f mode hnan] at hr
      obtain rfl : r = nanRes f (isSig x || isSig y) := by simpa using hr
      exact ⟨rfl, rfl⟩
    · rw [fSqrt_nan f mode hnan]
      exact ⟨rfl, rfl⟩
    · cases g <;> rfl
    · cases g <;> rfl
    · rw [fDiv_fin, if_pos rfl, if_neg hm]
      rfl
    · exact if_neg hm

end Sys2Proof.Machine
end

section
/-! PROOFS. Encoding (O34, O33): the fields of a word, the masks that the decoder tests, and that decode and encode agree. -/

namespace Sys2Proof

/-! ## Fields of a word (04 R75) -/

/-- The value x stands in a word from bit lo up. -/
def StandsAt (w : BitVec 32) (lo : Nat) {n : Nat} (x : BitVec n) : Prop := w.extractLsb' lo n = x

theorem standsAt_word (w x : BitVec 32) : StandsAt w 0 x ↔ x = w := by
  simp [StandsAt, eq_comm]

theorem bv_append_inj {n m : Nat} {x x' : BitVec n} {y y' : BitVec m} : x ++ y = x' ++ y' ↔ x = x' ∧ y = y' := by
  refine ⟨fun h => ?_, fun ⟨hx, hy⟩ => by rw [hx, hy]⟩
  have hx := congrArg (BitVec.extractLsb' m n) h
  have hy := congrArg (BitVec.extractLsb' 0 m) h
  rw [BitVec.extractLsb'_append_eq_left, BitVec.extractLsb'_append_eq_left] at hx
  rw [BitVec.extractLsb'_append_eq_right, BitVec.extractLsb'_append_eq_right] at hy
  exact ⟨hx, hy⟩

theorem extract_append_extract {k : Nat} (w : BitVec k) (lo n m : Nat) :
    w.extractLsb' (lo + m) n ++ w.extractLsb' lo m = w.extractLsb' lo (n + m) :=
  BitVec.extractLsb'_append_extractLsb'_eq_extractLsb' rfl

/-- A word that encode writes piece by piece holds each piece at its place. (Stated for `BitVec.append`, since the widths of `++` are sums, which
simp does not match against the numeral 32.) -/
theorem standsAt_append (w : BitVec 32) (lo : Nat) {n m : Nat} (x : BitVec n) (y : BitVec m) :
    StandsAt w lo (x.append y) ↔ StandsAt w (lo + m) x ∧ StandsAt w lo y := by
  show w.extractLsb' lo (n + m) = x ++ y ↔ _
  rw [← extract_append_extract, bv_append_inj]
  rfl

/-- A field inside a wider one. -/
theorem inner_field (w : BitVec 32) (lo n k len : Nat) (h : k + len ≤ n) :
    w.extractLsb' (lo + k) len = (w.extractLsb' lo n).extractLsb' k len := by
  ext j hj
  simp [Nat.add_assoc, show k + j < n by omega]

theorem field_ne {w : BitVec 32} {lo k len n : Nat} {x : BitVec len} {v : BitVec n} (h : w.extractLsb' (lo + k) len = x) (hk : k + len ≤ n)
    (hv : v.extractLsb' k len ≠ x) : w.extractLsb' lo n ≠ v := by
  rintro rfl
  exact hv ((inner_field w lo n k len hk).symm.trans h)

/-! ## Masks (04 R83, checks 4 and 5) -/

/-- No bit of a mask is set in x. -/
def Clear {n : Nat} (x mask : BitVec n) : Prop := x &&& mask = 0#n

theorem clear_append {n m : Nat} (x : BitVec n) (y : BitVec m) (mask : BitVec (n + m)) :
    Clear (x.append y) mask ↔ Clear x (mask.extractLsb' m n) ∧ Clear y (mask.extractLsb' 0 m) := by
  have hmask : mask.extractLsb' m n ++ mask.extractLsb' 0 m = mask := by
    have h := extract_append_extract mask 0 n m
    rw [BitVec.extractLsb'_eq_self, Nat.zero_add] at h
    exact h
  show (x ++ y) &&& mask = 0#(n + m) ↔ _
  rw [← hmask, BitVec.and_append, ← BitVec.zero_append_zero, bv_append_inj, hmask]
  rfl

theorem finish_eq_ok {w zero code : BitVec 32} {i : Instr} (hwf : i.wf = true) (hz : Clear w zero) (hc : Clear w code) :
    finish w zero code i = .ok i := by
  unfold Clear at hz hc
  simp [finish, hwf, hz, hc]

theorem finish_inv {w zero code : BitVec 32} {i j : Instr} (h : finish w zero code i = .ok j) :
    i = j ∧ i.wf = true ∧ Clear w zero ∧ Clear w code := by
  unfold finish at h
  split_ifs at h with h1 h2
  injection h with h
  simp only [Bool.not_eq_true', not_or, Bool.not_eq_false, not_not] at h1 h2
  exact ⟨h, h1.1, h2, h1.2⟩

/-- The mask of n bits from lo up, and a value there. -/
def fieldMask (lo n : Nat) : BitVec 32 := (BitVec.allOnes n).setWidth 32 <<< lo
def placed (lo : Nat) {n : Nat} (x : BitVec n) : BitVec 32 := x.setWidth 32 <<< lo

theorem and_fieldMask {w : BitVec 32} {lo n : Nat} {x : BitVec n} (h : w.extractLsb' lo n = x) : w &&& fieldMask lo n = placed lo x := by
  subst h
  ext j hj
  simp only [fieldMask, placed, BitVec.getElem_and, BitVec.getElem_shiftLeft, BitVec.getElem_setWidth, BitVec.getLsbD_allOnes,
    BitVec.getLsbD_extractLsb']
  by_cases hlo : j < lo
  · simp [hlo]
  · simp only [hlo, decide_false, Bool.not_false, Bool.true_and]
    rw [Nat.add_sub_cancel' (by omega), Bool.and_comm, BitVec.getLsbD_eq_getElem hj]

theorem and_or_mask {w m m' a b : BitVec 32} (h : w &&& m = a) (h' : w &&& m' = b) : w &&& (m ||| m') = a ||| b := by
  rw [← h, ← h']
  ext j hj
  simp [Bool.and_or_distrib_left]

/-- A field all of whose bits a mask covers. -/
theorem field_of_mask {w m a : BitVec 32} (h : w &&& m = a) {lo n : Nat} {x : BitVec n}
    (hx : m.extractLsb' lo n = BitVec.allOnes n ∧ a.extractLsb' lo n = x) : w.extractLsb' lo n = x := by
  obtain ⟨hm, rfl⟩ := hx
  rw [← h, BitVec.extractLsb'_and, hm, BitVec.and_allOnes]

/-! ## The word of an instruction decodes to it -/

/-- The pieces that encode writes stand at their places, so that the decoder finds its major opcode, its function and its operands there, and
every mask clear. Where the decoder reads a function code as a part of a piece, or the other way round (SEL), that is said first. -/
theorem decode_of_encode {i : Instr} {w : BitVec 32} (hw : i.wf = true) (h : encode i = some w) : decode w = .ok i := by
  cases i
  all_goals
    simp only [encode, Option.some.injEq, reduceCtorEq] at h
  all_goals
    have hs := (standsAt_word w _).mpr h
    simp only [HAppend.hAppend, standsAt_append, Nat.reduceAdd] at hs
    simp only [StandsAt] at hs
  case' sel =>
    have hf : ∀ v : BitVec 8, v.extractLsb' 3 5 ≠ 3#5 → w.extractLsb' 0 8 ≠ v := fun v => field_ne (by simp [hs]) (by decide)
  case' shli | shri | shai | roli => have hf := inner_field w 8 6 4 2 (by decide)
  case' fadd | fsub | fmul | fdiv | fsqrt | fmin | fmax | fabs | fneg | fclass | fceq | fclt | fcle | fcun =>
    have hf := inner_field w 2 6 1 5 (by decide)
  case' mfs | mts => have hf := inner_field w 12 2 1 1 (by decide)
  case' mxcfg | mxrun | mxrung | mxsort => have hf := inner_field w 1 7 4 3 (by decide)
  case' mxlw | mxacc => have hf := inner_field w 2 6 3 3 (by decide)
  case' mxswp => have hf := inner_field w 0 8 5 3 (by decide)
  case' mxzero => have hf := inner_field w 4 4 1 3 (by decide)
  all_goals
    simp (disch := decide) [*, -h, -hw, decode,
      decodeIll, decodeAlu, decodeMulDiv, decodeBits, decodeCmp, decodeAddi, decodeAndi, decodeOri, decodeXori, decodeShi, decodeLi, decodeLis,
      decodeCmpi, decodeLea, decodeFp, decodeFfma, decodeFcmp, decodeFcvt, decodeBr, decodeJmp, decodeCall, decodeJr, decodeLoop, decodeCtl,
      decodeSys, decodeMfsMts, decodeLd, decodeSt, decodeLdw, decodeStw, decodeLdro, decodeAtom64, decodeAcas, decodeAord, decodeFence,
      decodeCache, decodeSyncw, decodeXcopy, decodeXchn, decodeXctl, decodeXform, decodeAtom32, decodeSend, decodeRecv, decodeCfgGroup,
      decodeGraph, decodeMx, decodeHtab, decodeLaunch, decodeTrn, decodeTlb, decodeWait, decodeDcnt, decodeBar, decodeCnt]
    refine finish_eq_ok hw ?_ ?_
    all_goals
      rw [← h]
      simp only [HAppend.hAppend, clear_append]
      simp [Clear]

/-! ## What decodes is the word of the instruction -/

/-- What a decoder answers, if anything, is a well-formed instruction whose word is w. -/
def Agrees (w : BitVec 32) (r : Except DecodeError Instr) : Prop := ∀ i, r = .ok i → i.wf = true ∧ encode i = some w

theorem agrees_error (w : BitVec 32) (e : DecodeError) : Agrees w (.error e) := fun _ h => by cases h

theorem agrees_ite {w : BitVec 32} {p : Prop} [Decidable p] {r r' : Except DecodeError Instr} (h : p → Agrees w r) (h' : Agrees w r') :
    Agrees w (if p then r else r') := by
  split_ifs with hp
  · exact h hp
  · exact h'

section
variable {w zero code : BitVec 32} {i : Instr}

theorem agrees_finish {m a : BitVec 32} (ha : w &&& m = a)
    (h : w &&& (m ||| (zero ||| code)) = a ||| (0#32 ||| 0#32) → encode i = some w) : Agrees w (finish w zero code i) := by
  intro j hj
  obtain ⟨rfl, hwf, hz, hc⟩ := finish_inv hj
  exact ⟨hwf, h (and_or_mask ha (and_or_mask hz hc))⟩

/-- A group of one instruction: what is fixed of its word is the major opcode and the clear masks. -/
theorem agrees_single {major : BitVec 6} (hm : w.extractLsb' 26 6 = major)
    (h : w &&& (fieldMask 26 6 ||| (zero ||| code)) = placed 26 major ||| (0#32 ||| 0#32) → encode i = some w) :
    Agrees w (finish w zero code i) :=
  agrees_finish (and_fieldMask hm) h

/-- A row of a group: its function code is fixed too. -/
theorem agrees_row {major : BitVec 6} (hm : w.extractLsb' 26 6 = major) {lo n : Nat} {x : BitVec n} {r : Except DecodeError Instr}
    (h : w &&& (fieldMask 26 6 ||| fieldMask lo n ||| (zero ||| code)) = placed 26 major ||| placed lo x ||| (0#32 ||| 0#32) →
      encode i = some w) (hr : Agrees w r) :
    Agrees w (if w.extractLsb' lo n = x then finish w zero code i else r) :=
  agrees_ite (fun hf => agrees_finish (and_or_mask (and_fieldMask hm) (and_fieldMask hf)) h) hr

end

/-- Down the chains of the decoder; in each row, a piece that encode writes is a field of w or is fixed by what the row has tested. -/
theorem agrees_decode (w : BitVec 32) : Agrees w (decode w) := by
  unfold decode
  repeat' with_reducible refine agrees_ite (fun hm => ?_) ?_
  case refine_2 => exact agrees_error _ _
  all_goals
    simp only [
      decodeIll, decodeAlu, decodeMulDiv, decodeBits, decodeCmp, decodeAddi, decodeAndi, decodeOri, decodeXori, decodeShi, decodeLi, decodeLis,
      decodeCmpi, decodeLea, decodeFp, decodeFfma, decodeFcmp, decodeFcvt, decodeBr, decodeJmp, decodeCall, decodeJr, decodeLoop, decodeCtl,
      decodeSys, decodeMfsMts, decodeLd, decodeSt, decodeLdw, decodeStw, decodeLdro, decodeAtom64, decodeAcas, decodeAord, decodeFence,
      decodeCache, decodeSyncw, decodeXcopy, decodeXchn, decodeXctl, decodeXform, decodeAtom32, decodeSend, decodeRecv, decodeCfgGroup,
      decodeGraph, decodeMx, decodeHtab, decodeLaunch, decodeTrn, decodeTlb, decodeWait, decodeDcnt, decodeBar, decodeCnt]
    repeat' with_reducible refine agrees_row hm (fun hfixed => ?_) ?_
  any_goals (with_reducible exact agrees_error _ _)
  any_goals (with_reducible refine agrees_single ‹_› fun hfixed => ?_)
  all_goals
    simp only [encode, Option.some.injEq]
    rw [← standsAt_word]
    simp only [HAppend.hAppend, standsAt_append, Nat.reduceAdd]
    simp only [StandsAt, and_true]
    and_intros
    all_goals exact field_of_mask hfixed (by decide)

/-- Settles O34: each direction by the rows of the decoder. -/
theorem decodeEncodeRoundTrip : Obligations.DecodeEncodeRoundTrip :=
  ⟨fun _ _ => decode_of_encode, fun i w => agrees_decode w i⟩

/-- Settles O33: each word is the one that encode writes; WAIT with a nonzero field fails check 5. -/
theorem decodeWords : Obligations.DecodeWords :=
  ⟨decode_of_encode rfl rfl, decode_of_encode rfl rfl, decode_of_encode rfl rfl, decode_of_encode rfl rfl, decode_of_encode rfl rfl,
    decode_of_encode rfl rfl, decode_of_encode rfl rfl, rfl⟩

end Sys2Proof
end

section
/-! PROOFS. Branches, jumps, calls and LOOP (O10): the check of a target, and where each instruction goes behind it. -/

namespace Sys2Proof.Machine

open Sys2Proof.Claims

/-! ## Faults that an instruction takes -/

/-- A meaning that ends in such a fault takes it. -/
theorem traps_of_error {i : Instr} {s : State} {cause : BitVec 8} {v : Word} (h : exec i s = finish s (.error { cause := cause, value := v }))
    (hr : cause ≠ 0x07#8) (hm : toMonitor cause = false) : Traps i s cause v := by
  refine ⟨trapSystem s cause v, ?_, trapTaken_trapSystem s cause v⟩
  rw [h, finish_error, takeTrap_system rfl hr hm]
  rfl

/-! ## Targets (04 R76, 06 R128) -/

theorem toNat_target {n : Nat} (s : State) (disp : BitVec n) : (target s.me.regs.pc disp).toNat = targetOf s disp.toInt := by
  have hsum : target s.me.regs.pc disp = BitVec.ofInt 64 (s.me.regs.pc.toNat + 4 * disp.toInt) := by
    unfold target
    rw [BitVec.ofInt_add, BitVec.ofInt_mul, BitVec.ofInt_natCast, BitVec.ofNat_toNat, BitVec.setWidth_eq, BitVec.signExtend]
    rfl
  rw [hsum, BitVec.toNat_ofInt]
  rfl

theorem checkTarget_legal {t : Word} (h : LegalTarget t.toNat) (k : Except Trap State) : checkTarget t k = k :=
  checkTarget_pass ((target_low t).mpr h.1) ((target_high t).mpr h.2) k

/-- A misaligned target and one above 48 bits are faults, with nothing else done (06 R128). -/
theorem traps_of_checkTarget {i : Instr} {s : State} {t : Word} {k : Except Trap State} (h : exec i s = finish s (checkTarget t k)) :
    (t.toNat % 4 ≠ 0 → Traps i s 0x03 t) ∧ (t.toNat % 4 = 0 → 2 ^ 48 ≤ t.toNat → Traps i s 0x04 t) := by
  constructor
  · intro hlow
    rw [checkTarget_misaligned ((target_low t).not.mpr hlow)] at h
    exact traps_of_error h (by decide) rfl
  · intro hlow hhigh
    rw [checkTarget_high ((target_low t).mpr hlow) ((target_high t).not.mpr (by omega))] at h
    exact traps_of_error h (by decide) rfl

/-! ## Where a jump goes -/

section
variable {i : Instr} {s : State} {t : Word}

theorem jumpsTo_of_setPc (h : exec i s = finish s (checkTarget t (.ok (setPc s t)))) (hl : LegalTarget t.toNat) : JumpsTo i s t.toNat false := by
  rw [checkTarget_legal hl] at h
  exact ⟨setPc s t, h, rfl, rfl, fun _ _ => rfl, fun _ => rfl, rfl, fun _ => ⟨rfl, rfl⟩⟩

theorem jumpsTo_of_link (h : exec i s = finish s (checkTarget t (.ok (setPc (writeG s 1 (s.me.regs.pc + 4#64)) t)))) (hl : LegalTarget t.toNat) :
    JumpsTo i s t.toNat true := by
  rw [checkTarget_legal hl] at h
  refine ⟨_, h, rfl, ?_, fun r hr => ?_, fun c => ?_, rfl, fun _ => ⟨rfl, rfl⟩⟩
  · exact readG_writeG_self s 1#6 _
  · exact readG_writeG_ne s _ hr
  · rw [readC_setPc, readC_writeG]

theorem goesOn_of_nextPc (h : exec i s = .next (nextPc s)) : GoesOn i s :=
  ⟨nextPc s, h, fun _ => rfl, fun _ => rfl, advances_nextPc rfl, rfl, fun _ => ⟨rfl, rfl⟩⟩

end

/-! ## LOOP (06 R131) -/

theorem exec_loop_last {s : State} {a : Reg} (i : BitVec 14) (h : readG s a = 1#64) : exec (.loop a i) s = .next (nextPc (writeG s a 0#64)) := by
  show execLoop a i s = _
  simp [execLoop, h]

theorem exec_loop_again {s : State} {a : Reg} (i : BitVec 14) (h : readG s a ≠ 1#64) :
    exec (.loop a i) s = finish s (checkTarget (target s.me.regs.pc i) (.ok (setPc (writeG s a (readG s a - 1#64)) (target s.me.regs.pc i)))) := by
  have hne : readG s a - 1#64 ≠ 0#64 := fun h0 => h (by bv_omega)
  show execLoop a i s = _
  simp [execLoop, hne]

theorem loop_last {s : State} {a : Reg} (i : BitVec 14) (h : readG s a = 1#64) : WritesG (.loop a i) s a (fun v => v = 0#64) := by
  refine ⟨_, 0#64, exec_loop_last i h, rfl, ?_, fun r hr => ?_, fun c => ?_, advances_nextPc (by simp), onlyRegs_writeG s a 0#64⟩
  · rw [readG_nextPc, readG_writeG_self]
  · rw [readG_nextPc, readG_writeG_ne s _ hr]
  · rw [readC_nextPc, readC_writeG]

theorem loop_again {s : State} {a : Reg} (i : BitVec 14) (h : readG s a ≠ 1#64) (hl : LegalTarget (target s.me.regs.pc i).toNat) :
    ∃ t, exec (.loop a i) s = .next t ∧ readG t a = (if a = 0#6 then 0#64 else readG s a - 1#64)
      ∧ (∀ r, r ≠ a → readG t r = readG s r) ∧ KeepsC s t ∧ t.me.regs.pc.toNat = (target s.me.regs.pc i).toNat ∧ OnlyRegs s t := by
  have hx := exec_loop_again i h
  rw [checkTarget_legal hl] at hx
  refine ⟨_, hx, ?_, fun r hr => ?_, fun c => ?_, rfl, ?_, fun _ => by simp⟩
  · rw [readG_setPc, readG_writeG_self]
  · rw [readG_setPc, readG_writeG_ne s _ hr]
  · rw [readC_setPc, readC_writeG]
  · unfold writeG; split <;> rfl

/-! ## BR (06 R129) -/

section
variable {s : State} {c : CReg} {sense : BitVec 1} (i : BitVec 22)

theorem exec_br_taken (h : readC s c = decide (sense = 1#1)) :
    exec (.br c sense i) s = finish s (checkTarget (target s.me.regs.pc i) (.ok (setPc s (target s.me.regs.pc i)))) := by
  show execBr c sense i s = _
  simp [execBr, h]

theorem exec_br_not_taken (h : readC s c ≠ decide (sense = 1#1)) : exec (.br c sense i) s = .next (nextPc s) := by
  show execBr c sense i s = _
  unfold execBr
  rw [if_neg]
  intro he
  exact h (by simp [← he])

end

/-- Settles O10: each instruction ends behind the check of its target, or goes on. -/
theorem branchesReachTheirTargets : Obligations.BranchesReachTheirTargets := by
  unfold Obligations.BranchesReachTheirTargets
  refine ⟨fun s c sense i22 i26 i14 a => ?goes, fun s c sense i22 i26 i14 a => ?faults⟩
  case goes =>
    rw [← toNat_target s i22, ← toNat_target s i26, ← toNat_target s i14]
    exact ⟨fun h hl => jumpsTo_of_setPc (exec_br_taken i22 h) hl, fun h => goesOn_of_nextPc (exec_br_not_taken i22 h),
      fun hl => ⟨jumpsTo_of_setPc rfl hl, jumpsTo_of_link rfl hl⟩, fun hl => ⟨jumpsTo_of_setPc rfl hl, jumpsTo_of_link rfl hl⟩,
      loop_last i14, loop_again i14⟩
  case faults =>
    intro taken loops T
    have toT : ∀ (t : Word) (j : Instr), ((t.toNat % 4 ≠ 0 → Traps j s 0x03 t) ∧ (t.toNat % 4 = 0 → 2 ^ 48 ≤ t.toNat → Traps j s 0x04 t)) →
        T t.toNat j := by
      intro t j h
      simp only [T, BitVec.ofNat_toNat, BitVec.setWidth_eq]
      exact h
    rw [← toNat_target s i22, ← toNat_target s i26, ← toNat_target s i14]
    exact ⟨fun h => toT _ _ (traps_of_checkTarget (exec_br_taken i22 h)), fun h => toT _ _ (traps_of_checkTarget (exec_loop_again i14 h)),
      toT _ _ (traps_of_checkTarget rfl), toT _ _ (traps_of_checkTarget rfl), toT _ _ (traps_of_checkTarget rfl),
      toT _ _ (traps_of_checkTarget rfl)⟩

end Sys2Proof.Machine
end

section
/-! PROOFS. Privilege (O13): check 6 of 04 R83 on every instruction that has a least privilege. -/

namespace Sys2Proof.Machine

open Sys2Proof.Claims

/-- Below the level of its check, an instruction with a word is a privilege fault with that word (04 R82, R83). -/
theorem trapsWithWord_of_needPriv {i : Instr} {s : State} {level : BitVec 2} {k : Except Trap State}
    (h : exec i s = finish s (needPriv s level (wordOf i) k)) (hi : (encode i).isSome = true) (hp : (priv s).toNat < level.toNat) :
    TrapsWithWord i s 0x02 := by
  obtain ⟨w, hw⟩ := Option.isSome_iff_exists.mp hi
  have hword : wordOf i = w.setWidth 64 := by simp [wordOf, hw]
  rw [needPriv_refuse hp, hword] at h
  exact ⟨w, hw, traps_of_error h (by decide) rfl⟩

theorem exec_mfs_ok {r : BitVec 12} (h : mfsOk r = true) (d : Reg) (s : State) :
    exec (.mfs d r) s = finish s (needPriv s (readLevel r) (wordOf (.mfs d r)) (.ok (nextPc (writeG s d (readSreg s r))))) := if_pos h

theorem exec_mts_ok {r : BitVec 12} (h : mtsOk r = true) (a : Reg) (s : State) : exec (.mts a r) s = finish s (mtsOp a r s) := if_pos h

/-- A register that both MFS and MTS may name, below the levels that read and write it. -/
theorem mfs_mts_refused {s : State} {r : BitVec 12} (d a : Reg) (hok : mtsOk r = true) (hread : (priv s).toNat < (readLevel r).toNat)
    (hwrite : (priv s).toNat < (writeLevel r).toNat) : TrapsWithWord (.mfs d r) s 0x02 ∧ TrapsWithWord (.mts a r) s 0x02 := by
  have hmfs : mfsOk r = true := by
    unfold mtsOk at hok
    exact (Bool.and_eq_true _ _ ▸ hok).1
  exact ⟨trapsWithWord_of_needPriv (exec_mfs_ok hmfs d s) rfl hread, trapsWithWord_of_needPriv (exec_mts_ok hok a s) rfl hwrite⟩

theorem levels_of_monitorSregs : ∀ r ∈ monitorSregs, mtsOk r = true ∧ readLevel r = 2#2 ∧ writeLevel r = 2#2 := by
  simp [monitorSregs, mtsOk, mfsOk, readOnlySregs, contextSregs, readLevel, writeLevel]

/-- The registers of a context that program privilege neither reads nor writes (05 R100). -/
theorem levels_of_systemSregs : ∀ r ∈ [0x001#12, 0x002#12, 0x003#12, 0x004#12, 0x005#12, 0x008#12, 0x009#12, 0x00A#12, 0x00B#12, 0x014#12, 0x015#12,
    0x016#12, 0x018#12, 0x020#12], mtsOk r = true ∧ readLevel r = 1#2 ∧ writeLevel r = 1#2 := by
  simp [monitorSregs, mtsOk, mfsOk, readOnlySregs, contextSregs, readLevel, writeLevel]

/-- Settles O13: the check stands first in each of these instructions. -/
theorem privilegeIsChecked : Obligations.PrivilegeIsChecked := by
  unfold Obligations.PrivilegeIsChecked
  intro s d a b r
  refine ⟨fun hp => ?system, fun hp => ?monitor, fun hp hr => ?monitorSregs, fun hp hr => ?systemSregs, fun hp => ?kstate, fun hp => ?kctx⟩
  case system =>
    have hlow : (priv s).toNat < (1#2).toNat := by rw [hp]; decide
    simp only [List.forall_mem_cons]
    exact ⟨trapsWithWord_of_needPriv rfl rfl hlow, trapsWithWord_of_needPriv rfl rfl hlow, trapsWithWord_of_needPriv rfl rfl hlow,
      trapsWithWord_of_needPriv rfl rfl hlow, trapsWithWord_of_needPriv rfl rfl hlow, trapsWithWord_of_needPriv rfl rfl hlow,
      trapsWithWord_of_needPriv rfl rfl hlow, List.forall_mem_nil _⟩
  case monitor =>
    have hlow : (priv s).toNat < (2#2).toNat := hp
    simp only [List.forall_mem_cons]
    exact ⟨trapsWithWord_of_needPriv rfl rfl hlow, trapsWithWord_of_needPriv rfl rfl hlow, trapsWithWord_of_needPriv rfl rfl hlow,
      trapsWithWord_of_needPriv rfl rfl hlow, trapsWithWord_of_needPriv rfl rfl hlow, List.forall_mem_nil _⟩
  case monitorSregs =>
    obtain ⟨hok, hread, hwrite⟩ := levels_of_monitorSregs r hr
    exact mfs_mts_refused d a hok (hread ▸ hp) (hwrite ▸ hp)
  case systemSregs =>
    obtain ⟨hok, hread, hwrite⟩ := levels_of_systemSregs r hr
    have hlow : (priv s).toNat < (1#2).toNat := by rw [hp]; decide
    exact mfs_mts_refused d a hok (hread ▸ hlow) (hwrite ▸ hlow)
  case kstate =>
    exact trapsWithWord_of_needPriv (exec_mts_ok (by decide) a s) rfl (by rw [hp]; decide)
  case kctx =>
    exact trapsWithWord_of_needPriv (exec_mts_ok (by decide) a s) rfl hp

end Sys2Proof.Machine
end

section
/-! PROOFS. The step of a sequencer (O35): the word it fetches and what it makes of it. -/

namespace Sys2Proof.Machine

open Sys2Proof.Claims

/-! ## The step of an instruction (04 R83, 01 R24 to R33) -/

/-- What a step does with a word that has been fetched and need not wait. -/
theorem step_word {s t : State} {w : BitVec 32} (hag : s.agenda = []) (hph : s.boot.phase = 7#8) (hh : s.boot.halted = false)
    (hb : ∀ c, boundaryDue s c = false) (hsw : ∀ c, swapDue s c = false) (hk : s.ktime.toNat < s.epochAt.toNat) (hact : isActive s s.me.id = true)
    (hent : (myCore s).entering = false) (hlv : leaving s s.me.id = false) (hrun : s.me.run.isSome = true) (hidle : s.me.sys.idle = false)
    (hasy : s.me.regs.ks.ie = false ∨ s.me.asyncs = []) (hf : fetch s = .word t w) : step s = clocked (issueWord t w) := by
  have hmay : mayAct s = true := by simp [mayAct, hph, hh, hact, hent, hlv]
  have hasync : asyncFirst s = false := by rcases hasy with h | h <;> simp [asyncFirst, h]
  rw [step, move_sequence (timed_none hk hb) hag hh (due_none hsw), sequence_issue hmay hrun hidle hasync, issue_word hf]

theorem orMove_next (u : State) : orMove (.next u) = .next (if u.me.stalled then autoMove u else u) := by
  cases h : u.me.stalled <;> simp [orMove, h]

/-- The illegal instruction of a word that decodes to none. -/
theorem issueWord_undecoded {t : State} {w : BitVec 32} (hs : stalls w t = false) (hd : ∀ i, decode w ≠ .ok i) :
    issueWord t w = .next (trapSystem { t with me.atVector := false } 0x01 (w.setWidth 64)) := by
  cases h : decode w with
  | ok i => exact absurd h (hd i)
  | error e => rw [issueWord_illegal hs h, takeTrap_system rfl (show (0x01#8) ≠ 0x07#8 by decide) rfl]

/-! ## What an access changes (08 R181) -/

/-- A state with what a translation changes as it was in s: the TLB and the performance counters of the context in focus, the order of the L2, and
the contexts that are not in focus, whose TLBs a full core shortens. -/
def unwalked (s t : State) : State := { t with me.tlb := s.me.tlb, me.perf := s.me.perf, l2 := s.l2, others := s.others }

/-- Nothing else has changed, and where the core's other set is free, no other context. -/
structure Walked (s t : State) : Prop where
  frame : unwalked s t = s
  others : otherCtx s = none → t.others = s.others

theorem Walked.refl (s : State) : Walked s s := ⟨rfl, fun _ => rfl⟩

section
variable {s t u : State}

theorem Walked.cores (h : Walked s t) : t.cores = s.cores := (congrArg State.cores h.frame :)
theorem Walked.mem (h : Walked s t) : t.mem = s.mem := (congrArg State.mem h.frame :)
theorem Walked.win (h : Walked s t) : t.win = s.win := (congrArg State.win h.frame :)
theorem Walked.me_id (h : Walked s t) : t.me.id = s.me.id := (congrArg (fun v : State => v.me.id) h.frame :)
theorem Walked.me_regs (h : Walked s t) : t.me.regs = s.me.regs := (congrArg (fun v : State => v.me.regs) h.frame :)
theorem Walked.me_sys (h : Walked s t) : t.me.sys = s.me.sys := (congrArg (fun v : State => v.me.sys) h.frame :)
theorem Walked.me_run (h : Walked s t) : t.me.run = s.me.run := (congrArg (fun v : State => v.me.run) h.frame :)
theorem Walked.me_l1 (h : Walked s t) : t.me.l1 = s.me.l1 := (congrArg (fun v : State => v.me.l1) h.frame :)
theorem Walked.me_stalled (h : Walked s t) : t.me.stalled = s.me.stalled := (congrArg (fun v : State => v.me.stalled) h.frame :)

theorem Walked.otherCtx_eq (h : Walked s t) : otherCtx t = otherCtx s := by
  unfold otherCtx myCore coreRec
  rw [h.cores, h.me_id]

theorem Walked.trans (h1 : Walked s t) (h2 : Walked t u) : Walked s u :=
  ⟨(congrArg (unwalked s) h2.frame).trans h1.frame, fun h => (h2.others (h1.otherCtx_eq.trans h)).trans (h1.others h)⟩

end

theorem walked_homeTouch (s : State) (n : Nat) : Walked s (homeTouch s n) := by
  have hl2 : unwalked s (homeTouch s n) = unwalked s (countHome s n) :=
    (congrArg (unwalked s) (l2Touch_frame (countHome s n) s.me.id.part n) :)
  exact ⟨hl2, fun _ => (congrArg State.others (l2Touch_frame (countHome s n) s.me.id.part n) :)⟩

theorem walked_foldl_homeTouch (ls : List Nat) (s : State) : Walked s (ls.foldl homeTouch s) := by
  induction ls generalizing s with
  | nil => exact .refl s
  | cons n ls ih => exact (walked_homeTouch s n).trans (ih _)

theorem walked_tlb (s : State) (l : List TlbEntry) : Walked s { s with me.tlb := l } := ⟨rfl, fun _ => rfl⟩

theorem walked_installTlb (s : State) (e : TlbEntry) : Walked s (installTlb s e) := by
  unfold installTlb
  dsimp only
  split
  case h_1 => exact walked_tlb s _
  case h_2 c hc =>
    obtain ⟨i, hi, hraw⟩ := Option.bind_eq_some_iff.mp hc
    split_ifs
    · exact walked_tlb s _
    · exact walked_tlb s _
    · refine ⟨?_, fun h => absurd (h.symm.trans hi) (by simp)⟩
      unfold putCtx
      split_ifs with hme
      · rw [rawCtx_id hraw] at hme
        have hme : s.me.id = i := hme
        rw [← hme, rawCtx_self] at hraw
        obtain rfl := Option.some.inj hraw
        rfl
      · rfl

theorem walked_xlate (s : State) (pr : BitVec 2) (va : Word) (n : Need) : Walked s (xlate s pr va n).1 := by
  have hwalk : Walked s ((walkLines s s.me pr va n).foldl homeTouch (countEvent s 0x06 1)) :=
    Walked.trans (t := countEvent s 0x06 1) ⟨rfl, fun _ => rfl⟩ (walked_foldl_homeTouch _ _)
  unfold xlate
  split_ifs
  · exact .refl s
  · split
    · exact .refl s
    · dsimp only
      split_ifs
      · exact .refl s
      · split
        · exact hwalk.trans (walked_installTlb _ _)
        · exact hwalk
        · exact .refl s

theorem walked_access {s t : State} {pr : BitVec 2} {va : Word} {size pa : Nat} {n : Need} (h : access s pr va size n = .ok t pa) : Walked s t := by
  have hx := walked_xlate s pr va n
  unfold access at h
  split_ifs at h
  unfold translate at h
  split at h
  · rename_i u e hu
    rw [hu] at hx
    cases h
    exact hx
  all_goals cases h

/-! ## What a fill reads and changes (08 R169 to R172) -/

theorem memNat_add (m : List Host.Cell) (a i k : Nat) : memNat m a (i + k) = memNat m a i + 256 ^ i * memNat m (a + i) k := by
  induction i generalizing a with
  | zero => simp [memNat]
  | succ i ih =>
    rw [Nat.succ_add, memNat, ih, memNat, pow_succ', Nat.add_assoc a 1 i, Nat.add_comm 1 i]
    ring

theorem toNat_homeLine (m : List Host.Cell) (num : Nat) : (homeLine m num).toNat = memNat m (num * 128) 128 := by
  have hlt := memNat_lt m (num * 128) 128
  rw [show (256 : Nat) = 2 ^ 8 from rfl, ← pow_mul] at hlt
  exact Nat.mod_eq_of_lt hlt

/-- A number inside a line of memory. -/
theorem lineNat_homeLine (m : List Host.Cell) (pa n : Nat) (h : pa % 128 + n ≤ 128) : lineNat (homeLine m (pa / 128)) (pa % 128) n = memNat m pa n := by
  obtain ⟨r, hr⟩ := Nat.exists_eq_add_of_le h
  have hhead := memNat_lt m (pa / 128 * 128) (pa % 128)
  have hmid := memNat_lt m pa n
  have hsplit : memNat m (pa / 128 * 128) 128
      = memNat m (pa / 128 * 128) (pa % 128) + 256 ^ (pa % 128) * (memNat m pa n + 256 ^ n * memNat m (pa + n) r) := by
    calc memNat m (pa / 128 * 128) 128 = memNat m (pa / 128 * 128) (pa % 128 + (n + r)) := congrArg _ (by omega)
      _ = _ := by rw [memNat_add, memNat_add, Nat.div_add_mod']
  have hpow : ∀ k, 2 ^ (8 * k) = 256 ^ k := fun k => pow_mul 2 8 k
  unfold lineNat
  rw [toNat_homeLine, hpow, hpow, hsplit, Nat.add_mul_div_left _ _ (by positivity), Nat.div_eq_of_lt hhead, Nat.zero_add,
    Nat.add_mul_mod_self_left, Nat.mod_eq_of_lt hmid]

theorem l1Line_absent {s : State} {num : Nat} (h : findLine s.me num = none) (ro : Bool) :
    l1Line s num ro = (putLine (homeTouch (countEvent s 0x03 1) num) (fillLine s num ro), fillLine s num ro) := by
  unfold l1Line
  rw [h]

/-- The dirty bytes of these lines do not cover an address. -/
def Uncovered (ls : List Line) (a : Nat) : Prop := ∀ l ∈ ls, ¬ (l.num = a / 128 ∧ l.dirty.getLsbD (a % 128) = true)

theorem writeBack_mem (s : State) (l : Line) : (writeBack s l).mem = if l.dirty = 0#128 then s.mem else mergeLine s.mem l 128 := by
  have hcommit : (homeCommit (countHome s l.num) s.me.id.part (mergeLine s.mem l 128) [l.num]).mem = mergeLine s.mem l 128 := by
    show (l2Store _ _ _ _).mem = _
    rw [l2Store_mem]
  unfold writeBack
  dsimp only
  split_ifs
  · rfl
  all_goals exact hcommit

theorem memByte_writeBack {s : State} {l : Line} {a : Nat} (h : ¬ (l.num = a / 128 ∧ l.dirty.getLsbD (a % 128) = true)) :
    memByte (writeBack s l).mem a = memByte s.mem a := by
  rw [writeBack_mem]
  split_ifs
  · rfl
  · rw [memByte_mergeLine, if_neg]
    rintro ⟨hlow, hhigh, hd⟩
    have hnum : l.num = a / 128 := by omega
    exact h ⟨hnum, by rwa [show a % 128 = a - l.num * 128 by omega]⟩

theorem memByte_writeBackAll {s : State} {ls : List Line} {a : Nat} (h : Uncovered ls a) : memByte (writeBackAll s ls).mem a = memByte s.mem a := by
  induction ls generalizing s with
  | nil => rfl
  | cons l ls ih =>
    rw [writeBackAll, ih fun k hk => h k (List.mem_cons_of_mem _ hk), memByte_writeBack (h l (List.mem_cons_self ..))]

theorem memByte_putLine {s : State} {a : Nat} (l : Line) (h : CleanAt s a) : memByte (putLine s l).mem a = memByte s.mem a := by
  refine memByte_writeBackAll fun k hk => h k ?_
  exact List.mem_of_mem_filter (List.mem_of_mem_drop hk)

/-- A line put at the front: the L1 aside, what its write-backs change. -/
theorem backFrame_putLine (s : State) (l : Line) : BackFrame s { putLine s l with me.l1 := s.me.l1 } := by
  have h := backFrame_writeBackAll s (evictees s l.num)
  have hl1 : (writeBackAll s (evictees s l.num)).me.l1 = s.me.l1 := (congrArg (fun v : State => v.me.l1) h.eq :)
  refine Eq.trans ?_ h.eq
  unfold putLine backTo
  dsimp only
  rw [← hl1]

/-! ## The fetch past the L1 (10 R244) -/

theorem fetch_word {s t : State} {pa : Nat} (h : access { s with me.stalled := false, me.pinWait := none } (priv s) s.me.regs.pc 4 needExec = .ok t pa)
    (habs : findLine t.me (pa / 128) = none) (hbad : badLine t pa = false) (hreach : reachable t pa = true) (hserved : Served t (pa / 128) true) :
    fetch s = .word (l1Read { t with me.stalled := s.me.stalled } pa 4 true).1
      (BitVec.ofNat 32 (l1Read { t with me.stalled := s.me.stalled } pa 4 true).2) := by
  have hst : t.me.stalled = false := (walked_access h).me_stalled
  have hlost : readLost t pa 4 true = false := by unfold readLost; rw [habs]; exact hbad
  simp only [fetch, h, hreach, hlost, Bool.or_true, Bool.not_true, Bool.false_eq_true, if_false]
  rw [guardLine_ok hserved]
  simp [hst]

/-- What a fill past the L1 finds and leaves: the bytes of the home, and nothing changed that a program can read but its own dirty lines. -/
theorem fill_past_l1 {s : State} {pa : Nat} (habs : findLine s.me (pa / 128) = none) (hpa : pa % 4 = 0) :
    (l1Read s pa 4 true).2 = memNat s.mem pa 4 ∧ (l1Read s pa 4 true).1.me.regs = s.me.regs ∧ (l1Read s pa 4 true).1.me.sys = s.me.sys
      ∧ (l1Read s pa 4 true).1.me.run = s.me.run ∧ (l1Read s pa 4 true).1.others = s.others ∧ KeepsCleanMemory s (l1Read s pa 4 true).1 := by
  have hread : l1Read s pa 4 true = (putLine (homeTouch (countEvent s 0x03 1) (pa / 128)) (fillLine s (pa / 128) true),
      lineNat (homeLine s.mem (pa / 128)) (pa % 128) 4) := by
    unfold l1Read
    rw [l1Line_absent habs]
    rfl
  rw [hread]
  have hwalk : Walked s (homeTouch (countEvent s 0x03 1) (pa / 128)) :=
    Walked.trans (t := countEvent s 0x03 1) ⟨rfl, fun _ => rfl⟩ (walked_homeTouch _ _)
  have hback : BackFrame s (homeTouch (countEvent s 0x03 1) (pa / 128)) := (backFrame_countEvent s 0x03 1).trans (backFrame_homeTouch _ _)
  generalize homeTouch (countEvent s 0x03 1) (pa / 128) = v at hwalk hback
  have hput := backFrame_putLine v (fillLine s (pa / 128) true)
  refine ⟨lineNat_homeLine s.mem pa 4 (by omega), hput.me_regs.trans hwalk.me_regs, hput.me_sys.trans hwalk.me_sys,
    (congrArg (fun v : State => v.me.run) hput.eq :).trans hwalk.me_run, hput.others.trans hback.others, fun a ha => ?_, fun a => ?_⟩
  · rw [memByte_putLine, hwalk.mem]
    unfold CleanAt
    rw [hwalk.me_l1]
    exact ha
  · exact congrArg (memByte · a) (hput.win.trans hwalk.win)

/-- Settles O35: the move of a sequencer with a word, the fetch past the L1, and what the clock changes. -/
theorem stepRunsDecodedInstruction : Obligations.StepRunsDecodedInstruction := by
  unfold Obligations.StepRunsDecodedInstruction
  refine ⟨?step, ?fetch, fun u => ?clock⟩
  case step =>
    intro s t w hag hph hh hb hsw hk hact hent hlv hrun hidle hasy hf hst t1
    have hstep := step_word hag hph hh hb hsw hk hact hent hlv hrun hidle hasy hf
    refine ⟨fun i u hd hx => ?_, fun i x hd hx => ?_, fun i x hd hx => ?_, fun hd => ?_⟩
    · rw [hstep, issueWord_decoded hst hd, hx, orMove_next, clocked_next]
    · rw [hstep, issueWord_decoded hst hd, hx]; rfl
    · rw [hstep, issueWord_decoded hst hd, hx]; rfl
    · refine ⟨trapSystem { t with me.atVector := false } 0x01 (w.setWidth 64), ?_, rfl, rfl, rfl, rfl, rfl⟩
      rw [hstep, issueWord_undecoded hst hd, clocked_next]
  case fetch =>
    intro s t pa hacc habs hbad hreach hpa hserved
    have hw := walked_access hacc
    obtain ⟨hval, hregs, hsys, hrun, hothers, hmem, hwin⟩ := fill_past_l1 (s := { t with me.stalled := s.me.stalled }) (pa := pa) habs hpa
    refine ⟨_, (fetch_word hacc habs hbad hreach hserved).trans ?_, hregs.trans hw.me_regs, hsys.trans hw.me_sys, hrun.trans hw.me_run,
      ⟨fun a ha => ?_, fun a => ?_⟩, fun ho => hothers.trans (hw.others ho)⟩
    · rw [hval]
      exact congrArg (fun m => Fetched.word _ (BitVec.ofNat 32 (memNat m pa 4))) hw.mem
    · have hclean : CleanAt { t with me.stalled := s.me.stalled } a := by
        unfold CleanAt at ha ⊢
        rw [show ({ t with me.stalled := s.me.stalled } : State).me.l1 = s.me.l1 from hw.me_l1]
        exact ha
      exact (hmem a hclean).trans (congrArg (memByte · a) hw.mem)
    · exact (hwin a).trans (congrArg (memByte · a) hw.win)
  case clock =>
    exact ⟨rfl, rfl, rfl, rfl, clock_regs u, clock_sys u, clockCtx_htab u u.me, clockCtx_fab u u.me, rfl, rfl⟩

end Sys2Proof.Machine
end

section
/-! PROOFS. Configuration words and the start of a graph (O54): what CFGW, CFG and GO change. -/

namespace Sys2Proof.Machine

open Sys2Proof.Claims

/-! ## The context in focus while its set is Active -/

section
variable {s : State}

theorem not_inArea_of_active {id : CtxId} (h : isActive s id = true) : inArea s id = false := by
  have hst : setState s id = .active := by simpa [isActive] using h
  have hset : (setOf s id).isNone = false := by
    unfold setState at hst
    unfold setOf
    dsimp only at hst ⊢
    split_ifs at hst ⊢ <;> rfl
  simp [inArea, hset, hst]

theorem findCtx_me (h : inArea s s.me.id = false) : findCtx s s.me.id = some s.me := by
  unfold findCtx; simp [h, rawCtx_self]

theorem updCtx_me (h : inArea s s.me.id = false) (f : Ctx → Ctx) : updCtx s s.me.id f = { s with me := f s.me } := by
  rw [updCtx_standing h (rawCtx_self s)]
  exact if_pos rfl

end

/-! ## The fate of a word (04 R95) -/

section
variable {s : State} {w : BitVec 32} {e f : Nat} {v : BitVec 16}

/-- A word that its value, a graph or the other set refuses. -/
theorem applyWord_refused (harea : inArea s s.me.id = false) (he : (w.extractLsb' 22 10).toNat = e) (hf : (w.extractLsb' 16 6).toNat = f)
    (hv : w.extractLsb' 0 16 = v) (h : fieldOk e f v = false ∨ graphHolds s s.me e f v = true) : applyWord s s.me.id w = .bad := by
  subst he hf hv
  have hgate : (!fieldOk (w.extractLsb' 22 10).toNat (w.extractLsb' 16 6).toNat (w.extractLsb' 0 16)
      || graphHolds s s.me (w.extractLsb' 22 10).toNat (w.extractLsb' 16 6).toNat (w.extractLsb' 0 16)) = true := by
    rwa [Bool.or_eq_true, Bool.not_eq_true']
  unfold applyWord
  rw [findCtx_me harea]
  dsimp only
  rw [hgate, Bool.true_or, if_pos rfl]

/-- What a word of a set that stands alone comes to, once its value is legal and no graph holds it. -/
theorem applyWord_admitted (harea : inArea s s.me.id = false) (he : (w.extractLsb' 22 10).toNat = e) (hf : (w.extractLsb' 16 6).toNat = f)
    (hv : w.extractLsb' 0 16 = v) (hok : fieldOk e f v = true) (hfree : graphHolds s s.me e f v = false) (hother : otherSet s s.me.id = none) :
    applyWord s s.me.id w =
      if e = 0xE0 then
        .ok (updCtx s s.me.id (fun k =>
          if f = 0 then { k with fab.portSel := v.setWidth 6 }
          else { k with fab.ports := tabPut 0 k.fab.ports (k.fab.portSel.toNat * 8 + f) v }))
      else if 0xD0 ≤ e then
        if f % 8 ≤ 1 ∧ ¬ regionOk (putField s.me e f v) (2 * (e - 0xD0) + f / 8) then .bad
        else .ok (applyRegion s s.me (putField s.me e f v) (2 * (e - 0xD0) + f / 8))
      else if e = 0xC8 ∧ f ≤ 1 ∧ ¬ s.me.mx.queue.isEmpty then (if s.me.mx.halted then .bad else .wait)
      else if e = 0xC8 ∧ f = 0 ∧ claimMeets s s.me.id v then .bad
      else .ok (claimElem (updCtx s s.me.id (fun d => mxChange d (putField d e f v))) s.me (putField s.me e f v) e) := by
  subst he hf hv
  unfold applyWord
  rw [findCtx_me harea]
  dsimp only
  rw [hother, hok, hfree]
  rfl

end

section
variable {s : State} {w : BitVec 32} {e f : Nat} {v : BitVec 16}

theorem cfgField_putField (c : Ctx) (hf : f < 64) {e' f' : Nat} (hf' : f' < 64) :
    cfgField (putField c e f v) e' f' = if e' = e ∧ f' = f then v else cfgField c e' f' := by
  have hkey : e' * 64 + f' = e * 64 + f ↔ e' = e ∧ f' = f := by omega
  unfold cfgField putField
  rw [tabGet_put]
  simp only [hkey]

/-- Fields of another element do not reset the array. -/
theorem mxChange_elsewhere (c : Ctx) (hf : f < 64) (he : e ≠ 0xC8) : mxChange c (putField c e f v) = putField c e f v := by
  have hkeep : ∀ f', f' < 64 → cfgField (putField c e f v) 0xC8 f' = cfgField c 0xC8 f' := fun f' hf' => by
    rw [cfgField_putField c hf hf', if_neg (fun h => he h.1.symm)]
  unfold mxChange
  rw [hkeep 0 (by decide), hkeep 1 (by decide), BitVec.xor_self]
  exact if_pos ⟨rfl, rfl⟩

theorem inUse_congr {c d : Ctx} (h : c.fab.cfg = d.fab.cfg) (e : Nat) : inUse c e = inUse d e := by
  unfold inUse streamMode opOf cfgField
  rw [h]

/-! ### An element of the fabric put to use (01 R25, 17 R394) -/

/-- The element of a word was idle and is in use behind it. -/
def Taken (c : Ctx) (e f : Nat) (v : BitVec 16) : Prop := inUse c e = false ∧ inUse (putField c e f v) e = true

/-- What a word of a cell, fibre element, router or stream leaves: its field, the step of its claim, and the ballast of its die. -/
structure ElementWord (s t : State) (e f : Nat) (v : BitVec 16) : Prop where
  frame : { t with me.fab.cfg := s.me.fab.cfg, me.fab.cfgAt := s.me.fab.cfgAt, gov.ballast := s.gov.ballast } = s
  cfg : t.me.fab.cfg = (putField s.me e f v).fab.cfg
  taken : Taken s.me e f v → ∀ k, tabGet 0 t.me.fab.cfgAt k = if k = e then s.tick else tabGet 0 s.me.fab.cfgAt k
  kept : ¬ Taken s.me e f v → t.me.fab.cfgAt = s.me.fab.cfgAt
  ballastKept : ¬ (Taken s.me e f v ∧ isCell e = true) → t.gov.ballast = s.gov.ballast
  ballast : ∀ k, tabGet 0 t.gov.ballast k = tabGet 0 s.gov.ballast k
    ∨ (k = (dieOf s.me.id.core).toNat ∧ tabGet 0 t.gov.ballast k + 1 = tabGet 0 s.gov.ballast k)

theorem elementWord_claimElem (harea : inArea s s.me.id = false) :
    ElementWord s (claimElem { s with me := putField s.me e f v } s.me (putField s.me e f v) e) e f v := by
  unfold claimElem
  by_cases htaken : Taken s.me e f v
  · obtain ⟨hold, hnew⟩ := htaken
    have hgate : (inUse s.me e || !inUse (putField s.me e f v) e) = false := by rw [hold, hnew]; rfl
    have hput : updCtx { s with me := putField s.me e f v } (putField s.me e f v).id
          (fun d => { d with fab.cfgAt := tabPut 0 d.fab.cfgAt e s.tick })
        = { s with me := { putField s.me e f v with fab.cfgAt := tabPut 0 s.me.fab.cfgAt e s.tick } } :=
      updCtx_me (s := { s with me := putField s.me e f v }) harea _
    simp only [hgate, Bool.false_eq_true, if_false]
    dsimp only at hput ⊢
    rw [hput]
    split
    next hcell =>
      rw [Bool.and_eq_true, Bool.and_eq_true] at hcell
      obtain ⟨⟨hc, hb⟩, -⟩ := hcell
      refine ⟨rfl, rfl, fun _ k => tabGet_put .., fun h => absurd ⟨hold, hnew⟩ h, fun h => absurd ⟨⟨hold, hnew⟩, hc⟩ h, fun k => ?_⟩
      by_cases hk : k = (dieOf s.me.id.core).toNat
      · right
        refine ⟨hk, ?_⟩
        subst hk
        have hpos : tabGet 0 s.gov.ballast (dieOf s.me.id.core).toNat ≠ 0 := of_decide_eq_true hb
        exact (congrArg (· + 1) (tabGet_put_self ..)).trans (Nat.sub_add_cancel (Nat.pos_of_ne_zero hpos))
      · left
        exact tabGet_put_ne _ _ _ hk
    next =>
      exact ⟨rfl, rfl, fun _ k => tabGet_put .., fun h => absurd ⟨hold, hnew⟩ h, fun _ => rfl, fun _ => .inl rfl⟩
  · have hgate : (inUse s.me e || !inUse (putField s.me e f v) e) = true := by
      unfold Taken at htaken
      cases hi : inUse s.me e with
      | true => rfl
      | false =>
        rw [hi] at htaken
        simpa using htaken
    rw [if_pos hgate]
    exact ⟨rfl, rfl, fun h => absurd h htaken, fun _ => rfl, fun _ => rfl, fun _ => .inl rfl⟩

end

/-! ### A region's controller (08 R163, 19 R399) -/

/-- The window bytes of a core, from an offset on, become undefined. -/
theorem memByte_freed (g : Nat → Byte) (base : Nat) : ∀ (n : Nat) (m : List Host.Cell) (k : Nat), ¬ (base ≤ k ∧ k < base + n) →
    memByte ((List.range n).foldl (fun m i => memSet m (base + i) (g i)) m) k = memByte m k := by
  intro n
  induction n with
  | zero => intro m k _; rfl
  | succ n ih =>
    intro m k hk
    rw [List.range_succ, List.foldl_append, List.foldl_cons, List.foldl_nil, memByte_memSet, if_neg (by omega), ih m k (by omega)]

/-- What a word of a region's controller leaves. -/
structure RegionWord (s t : State) (c : Ctx) (n : Nat) : Prop where
  cfg : t.me.fab.cfg = c.fab.cfg
  regs : t.me.regs = s.me.regs
  mem : t.mem = s.mem
  same : (region c n).size = 0 ∨ (n ∉ s.me.fab.swizzled ∧ (region c n).swz = (region s.me n).swz) → t.win = s.win
  outside : ∀ k, ¬ (winKey s.me.id.core (region c n).base ≤ k ∧ k < winKey s.me.id.core ((region c n).base + (region c n).size)) →
    memByte t.win k = memByte s.win k

theorem regionWord_applyRegion {s : State} {c : Ctx} (harea : inArea s s.me.id = false) (hid : c.id = s.me.id) (n : Nat) :
    RegionWord s (applyRegion s s.me c n) c n := by
  unfold applyRegion
  dsimp only
  rw [hid, updCtx_me harea, updCtx_me harea]
  split
  next => exact ⟨rfl, rfl, rfl, fun _ => rfl, fun _ _ => rfl⟩
  next hsize =>
    split
    next hchanged =>
      have hplace : inArea { s with me.fab.cfg := c.fab.cfg, me.fab.swizzled := s.me.fab.swizzled.filter (· ≠ n) } c.id = false := by
        rw [hid]; exact harea
      unfold scramble
      rw [hplace, if_neg (by decide), hid]
      refine ⟨rfl, rfl, rfl, fun h => ?_, fun k hk => ?_⟩
      · obtain hzero | ⟨hnew, hswz⟩ := h
        · exact absurd hzero hsize
        · simp [hnew, hswz] at hchanged
      · exact memByte_freed _ _ _ _ _ (fun h => hk ⟨h.1, by unfold winKey at h ⊢; omega⟩)
    next => exact ⟨rfl, rfl, rfl, fun _ => rfl, fun _ _ => rfl⟩

/-! ## CFGW (12 R295) -/

/-- What CFGW makes of the fate of its word. -/
def wordEnd (s : State) (w : BitVec 32) : Applied → Except Trap State
  | .bad => configFault (w.setWidth 64)
  | .wait => .ok (hold s)
  | .ok t => .ok (nextPc t)

section
variable {s : State} {a b : Reg} {w : BitVec 32} {e f : Nat} {v : BitVec 16}

theorem low16_iff (x : Word) : x.extractLsb' 16 48 ≠ 0#48 ↔ 2 ^ 16 ≤ x.toNat := by
  rw [Ne, ← BitVec.toNat_inj]
  simp only [BitVec.extractLsb'_toNat, BitVec.toNat_ofNat, Nat.shiftRight_eq_div_pow]
  have := x.isLt
  omega

theorem traps_cfgw_index (h : 2 ^ 16 ≤ (readG s b).toNat ∨ ownerCore s s.me.id.part (readG s b).toNat = none) :
    Traps (.cfgw a b) s 0x0F (readG s b) := by
  refine traps_of_error ?_ (by decide) rfl
  show execCfgw a b s = _
  unfold execCfgw
  by_cases hbig : 2 ^ 16 ≤ (readG s b).toNat
  · simp only [(low16_iff _).mpr hbig, if_true, ne_eq, not_false_eq_true]; rfl
  · obtain h | h := h
    · exact absurd h hbig
    · simp only [h, ite_self]; rfl

variable (hop : (readG s b).toNat < 2 ^ 16) (howner : ownerCore s s.me.id.part (readG s b).toNat = some s.me.id.core)
  (hw : (readG s a).setWidth 32 = w)
include hop howner hw

/-- CFGW at the core of the context in focus. -/
theorem exec_cfgw_here : exec (.cfgw a b) s = finish s (wordEnd s w (applyWord s s.me.id w)) := by
  subst hw
  show execCfgw a b s = _
  unfold execCfgw
  simp only [(low16_iff _).not.mpr (Nat.not_le.mpr hop), if_false, howner]
  show finish s (match applyWord s s.me.id _ with | .bad => _ | .wait => _ | .ok t => _) = _
  cases applyWord s s.me.id ((readG s a).setWidth 32) <;> rfl

theorem exec_cfgw_ok {t : State} (h : applyWord s s.me.id w = .ok t) : exec (.cfgw a b) s = .next (nextPc t) := by
  rw [exec_cfgw_here hop howner hw, h]; rfl

theorem exec_cfgw_wait (h : applyWord s s.me.id w = .wait) : exec (.cfgw a b) s = .next (hold s) := by
  rw [exec_cfgw_here hop howner hw, h]; rfl

theorem traps_cfgw_word (h : applyWord s s.me.id w = .bad) : Traps (.cfgw a b) s 0x0F (w.setWidth 64) :=
  traps_of_error (by rw [exec_cfgw_here hop howner hw, h]; rfl) (by decide) rfl

variable (harea : inArea s s.me.id = false) (he : (w.extractLsb' 22 10).toNat = e) (hf : (w.extractLsb' 16 6).toNat = f)
  (hv : w.extractLsb' 0 16 = v) (hok : fieldOk e f v = true) (hfree : graphHolds s s.me e f v = false) (hother : otherSet s s.me.id = none)
include harea he hf hv hok hfree hother

/-- A word of a cell, fibre element, router or stream. -/
theorem cfgw_element (hlow : e < 0xC8) : ∃ u, exec (.cfgw a b) s = .next u ∧ Advances s u
    ∧ { u with me.fab.cfg := s.me.fab.cfg, me.fab.cfgAt := s.me.fab.cfgAt, gov.ballast := s.gov.ballast, me.regs.pc := s.me.regs.pc } = s
    ∧ (∀ e' f', f' < 64 → cfgField u.me e' f' = if e' = e ∧ f' = f then v else cfgField s.me e' f')
    ∧ (let taken := inUse s.me e = false ∧ inUse u.me e = true
       (∀ k, tabGet 0 u.me.fab.cfgAt k = if k = e ∧ taken then s.tick else tabGet 0 s.me.fab.cfgAt k)
       ∧ (¬ (taken ∧ isCell e = true) → u.gov.ballast = s.gov.ballast)
       ∧ ∀ k, tabGet 0 u.gov.ballast k = tabGet 0 s.gov.ballast k
          ∨ (k = (dieOf s.me.id.core).toNat ∧ tabGet 0 u.gov.ballast k + 1 = tabGet 0 s.gov.ballast k)) := by
  have hf64 : f < 64 := by rw [← hf]; exact (w.extractLsb' 16 6).isLt
  obtain ⟨t, ht, hword⟩ : ∃ t, applyWord s s.me.id w = .ok t ∧ ElementWord s t e f v := by
    refine ⟨_, ?_, elementWord_claimElem harea⟩
    rw [applyWord_admitted harea he hf hv hok hfree hother, if_neg (by omega), if_neg (by omega), if_neg (by omega), if_neg (by omega),
      updCtx_me harea, mxChange_elsewhere s.me hf64 (by omega)]
  have huse : inUse (nextPc t).me e = inUse (putField s.me e f v) e := inUse_congr hword.cfg e
  have hregs : t.me.regs = s.me.regs := congrArg (fun x => x.me.regs) hword.frame
  refine ⟨nextPc t, exec_cfgw_ok hop howner hw ht, advances_nextPc (congrArg (·.pc) hregs), ?_, fun e' f' hf' => ?_, ?_⟩
  · exact (congrArg (fun x => { x with me.regs.pc := s.me.regs.pc }) hword.frame :)
  · rw [← cfgField_putField s.me hf64 hf']
    unfold cfgField
    exact congrArg (tabGet 0 · _) hword.cfg
  · rw [huse]
    refine ⟨fun k => ?_, hword.ballastKept, hword.ballast⟩
    by_cases htaken : Taken s.me e f v
    · simpa [htaken.1, htaken.2] using hword.taken htaken k
    · rw [if_neg (fun h => htaken h.2)]
      exact congrArg (tabGet 0 · k) (hword.kept htaken)

/-- Field 0 of the core fabric interface chooses a port (13 R311). -/
theorem cfgw_select (heq : e = 0xE0) (hzero : f = 0) : ∃ u, exec (.cfgw a b) s = .next u ∧ Advances s u ∧ u.me.fab.portSel = v.setWidth 6
    ∧ { u with me.fab.portSel := s.me.fab.portSel, me.regs.pc := s.me.regs.pc } = s := by
  refine ⟨nextPc { s with me.fab.portSel := v.setWidth 6 }, exec_cfgw_ok hop howner hw ?_, advances_nextPc rfl, rfl, rfl⟩
  rw [applyWord_admitted harea he hf hv hok hfree hother, if_pos heq, updCtx_me harea, if_pos hzero]

/-- Another field of the interface is written at the chosen port (13 R311). -/
theorem cfgw_port (heq : e = 0xE0) (hfield : f ≠ 0) : ∃ u, exec (.cfgw a b) s = .next u ∧ Advances s u
    ∧ portField u.me s.me.fab.portSel.toNat f = v.toNat ∧ { u with me.fab.ports := s.me.fab.ports, me.regs.pc := s.me.regs.pc } = s := by
  refine ⟨nextPc { s with me.fab.ports := tabPut 0 s.me.fab.ports (s.me.fab.portSel.toNat * 8 + f) v }, exec_cfgw_ok hop howner hw ?_,
    advances_nextPc rfl, congrArg BitVec.toNat (tabGet_put_self ..), rfl⟩
  rw [applyWord_admitted harea he hf hv hok hfree hother, if_pos heq, updCtx_me harea, if_neg hfield]

/-- A base or size that breaks the conditions on its region (08 R163). -/
theorem cfgw_region_refused (hlow : 0xD0 ≤ e) (hhigh : e < 0xE0) (hplace : f % 8 ≤ 1)
    (hbad : regionOk (putField s.me e f v) (2 * (e - 0xD0) + f / 8) = false) : Traps (.cfgw a b) s 0x0F (w.setWidth 64) := by
  refine traps_cfgw_word hop howner hw ?_
  rw [applyWord_admitted harea he hf hv hok hfree hother, if_neg (by omega), if_pos hlow, if_pos ⟨hplace, by simp [hbad]⟩]

/-- A word of a region's controller. -/
theorem cfgw_region (hlow : 0xD0 ≤ e) (hhigh : e < 0xE0)
    (hgood : 2 ≤ f % 8 ∨ regionOk (putField s.me e f v) (2 * (e - 0xD0) + f / 8) = true) :
    ∃ u, exec (.cfgw a b) s = .next u ∧ Advances s u ∧ cfgField u.me e f = v ∧ u.mem = s.mem ∧ KeepsG s u
      ∧ (let n := 2 * (e - 0xD0) + f / 8
         let r := region u.me n
         (r.size = 0 ∨ (n ∉ s.me.fab.swizzled ∧ r.swz = (region s.me n).swz) → u.win = s.win)
         ∧ ∀ k, ¬ (winKey s.me.id.core r.base ≤ k ∧ k < winKey s.me.id.core (r.base + r.size)) → memByte u.win k = memByte s.win k) := by
  have hf64 : f < 64 := by rw [← hf]; exact (w.extractLsb' 16 6).isLt
  obtain ⟨t, ht, hword⟩ : ∃ t, applyWord s s.me.id w = .ok t ∧ RegionWord s t (putField s.me e f v) (2 * (e - 0xD0) + f / 8) := by
    refine ⟨_, ?_, regionWord_applyRegion (c := putField s.me e f v) harea rfl _⟩
    rw [applyWord_admitted harea he hf hv hok hfree hother, if_neg (by omega), if_pos hlow, if_neg]
    rintro ⟨hplace, hbad⟩
    obtain h | h := hgood
    · omega
    · exact hbad h
  have hfield : ∀ e' f', cfgField (nextPc t).me e' f' = cfgField (putField s.me e f v) e' f' := fun e' f' => by
    unfold cfgField
    exact congrArg (tabGet 0 · _) hword.cfg
  have hregion : ∀ n, region (nextPc t).me n = region (putField s.me e f v) n := fun n => by
    unfold region
    simp only [hfield]
  refine ⟨nextPc t, exec_cfgw_ok hop howner hw ht, advances_nextPc (congrArg (·.pc) hword.regs), ?_, hword.mem, fun r => ?_, ?_⟩
  · rw [hfield, cfgField_putField s.me hf64 hf64, if_pos ⟨rfl, rfl⟩]
  · rw [readG_nextPc]
    unfold readG
    rw [hword.regs]
  · dsimp only
    rw [hregion]
    exact ⟨hword.same, hword.outside⟩

end

/-! ## CFG (12 R296) -/

/-- What CFG makes of the end of its stream. -/
def streamEnd : State × Option (Option Trap) → State
  | (t, none) => nextPc t
  | (t, some none) => t
  | (t, some (some f)) => takeTrap (f.base.getD t) f

section
variable {s t : State} {a b : Reg} {w : BitVec 32} {cores : List CoreId}

theorem traps_cfg_region (h : regionCores s (readG s b) = none) : Traps (.cfg a b) s 0x0F (readG s b) := by
  refine ⟨trapSystem s 0x0F (readG s b), ?_, trapTaken_trapSystem ..⟩
  show execCfg a b s = _
  unfold execCfg
  simp only [h]
  exact congrArg _ (takeTrap_system rfl (by decide : (0x0F#8) ≠ 0x07#8) rfl)

theorem exec_cfg_region (h : regionCores s (readG s b) = some cores) {n : Nat} (hn : ((readG s b).extractLsb' 32 32).toNat = n) :
    exec (.cfg a b) s = .next (streamEnd (applyStream cores (readG s a) 0 (cores.headD 0) s n)) := by
  subst hn
  show execCfg a b s = _
  unfold execCfg
  simp only [h]
  generalize applyStream cores (readG s a) 0 (cores.headD 0) s ((readG s b).extractLsb' 32 32).toNat = r
  obtain ⟨t, _ | _ | f⟩ := r <;> rfl

theorem cfg_empty (h : regionCores s (readG s b) = some cores) (hn : ((readG s b).extractLsb' 32 32).toNat = 0) :
    ∃ u, exec (.cfg a b) s = .next u ∧ Advances s u ∧ { u with me.regs.pc := s.me.regs.pc } = s :=
  ⟨nextPc s, exec_cfg_region h hn, advances_nextPc rfl, rfl⟩

variable (h : regionCores s (readG s b) = some cores) (hn : ((readG s b).extractLsb' 32 32).toNat = 1)
  (hload : streamWord s (readG s a) = .word t w)
include h hn hload

theorem cfg_word {u0 : State} (hw : w.extractLsb' 16 16 ≠ 0xFFFF#16) (hput : applyWord t (cfgCtx t (cores.headD 0)) w = .ok u0) :
    ∃ u, exec (.cfg a b) s = .next u ∧ { u with me.regs.pc := u0.me.regs.pc } = u0 ∧ Advances u0 u := by
  refine ⟨nextPc u0, ?_, rfl, advances_nextPc rfl⟩
  rw [exec_cfg_region h hn]
  simp only [applyStream, hload, if_neg hw, hput]
  rfl

theorem cfg_core (hw : w.extractLsb' 16 16 = 0xFFFF#16) (hcore : (w.extractLsb' 0 16).toNat < cores.length) :
    ∃ u, exec (.cfg a b) s = .next u ∧ { u with me.regs.pc := t.me.regs.pc } = t ∧ Advances t u := by
  refine ⟨nextPc t, ?_, rfl, advances_nextPc rfl⟩
  rw [exec_cfg_region h hn]
  simp only [applyStream, hload, hw, if_true, List.getElem?_eq_getElem hcore]
  rfl

theorem cfg_wait (hw : w.extractLsb' 16 16 ≠ 0xFFFF#16) (hput : applyWord t (cfgCtx t (cores.headD 0)) w = .wait) :
    exec (.cfg a b) s = .next (hold t) := by
  rw [exec_cfg_region h hn]
  simp only [applyStream, hload, if_neg hw, hput]
  rfl

theorem cfg_bad (hbad : (w.extractLsb' 16 16 ≠ 0xFFFF#16 ∧ applyWord t (cfgCtx t (cores.headD 0)) w = .bad)
      ∨ (w.extractLsb' 16 16 = 0xFFFF#16 ∧ cores.length ≤ (w.extractLsb' 0 16).toNat)) :
    ∃ u, exec (.cfg a b) s = .next u ∧ TrapTaken t u 0x0F (BitVec.ofNat 64 w.toNat) := by
  refine ⟨trapSystem t 0x0F (BitVec.ofNat 64 w.toNat), ?_, trapTaken_trapSystem ..⟩
  have hend : applyStream cores (readG s a) 0 (cores.headD 0) s 1
      = (t, some (some { cause := 0x0F, value := BitVec.ofNat 64 (w.toNat + 0 * 2 ^ 32) })) := by
    obtain ⟨hw, hput⟩ | ⟨hw, hcore⟩ := hbad
    · simp only [applyStream, hload, if_neg hw, hput]
    · simp only [applyStream, hload, hw, if_true, List.getElem?_eq_none hcore]
  rw [exec_cfg_region h hn, hend]
  exact congrArg _ (takeTrap_system rfl (by decide : (0x0F#8) ≠ 0x07#8) rfl)

end

/-! ## GO (12 R297, R298) -/

section
variable {s : State} {d a b : Reg} {cores : List CoreId}

theorem low32_iff (x : Word) : x.extractLsb' 32 32 ≠ 0#32 ↔ 2 ^ 32 ≤ x.toNat := by
  rw [Ne, ← BitVec.toNat_inj]
  simp only [BitVec.extractLsb'_toNat, BitVec.toNat_ofNat, Nat.shiftRight_eq_div_pow]
  have := x.isLt
  omega

theorem traps_go_region (h : 2 ^ 32 ≤ (readG s a).toNat ∨ regionCores s (readG s a) = none) : Traps (.go d a b) s 0x0F (readG s a) := by
  refine traps_of_error ?_ (by decide) rfl
  show execGo d a b s = _
  unfold execGo
  by_cases hbig : 2 ^ 32 ≤ (readG s a).toNat
  · simp only [(low32_iff _).mpr hbig, if_true, ne_eq, not_false_eq_true]; rfl
  · obtain h | h := h
    · exact absurd h hbig
    · simp only [h, ite_self]; rfl

variable (hop : (readG s a).toNat < 2 ^ 32) (hcores : regionCores s (readG s a) = some cores)
include hop hcores

theorem traps_go_check {x : Word} (h : regionFailure s cores = some x) : Traps (.go d a b) s 0x0F x := by
  refine traps_of_error ?_ (by decide) rfl
  show execGo d a b s = _
  unfold execGo
  simp only [(low32_iff _).not.mpr (Nat.not_le.mpr hop), if_false, hcores, h]
  rfl

variable (hgood : regionFailure s cores = none)
include hgood

theorem traps_go_ids (h : 16 ≤ s.me.fab.graphs.length) : Traps (.go d a b) s 0x0F 16 := by
  refine traps_of_error ?_ (by decide) rfl
  show execGo d a b s = _
  unfold execGo
  simp only [(low32_iff _).not.mpr (Nat.not_le.mpr hop), if_false, hcores, hgood, if_pos h]
  rfl

theorem traps_go_completion (h : s.me.fab.graphs.length < 16) (hc : completionOk (readG s b) = false) :
    Traps (.go d a b) s 0x0F (readG s b) := by
  refine traps_of_error ?_ (by decide) rfl
  show execGo d a b s = _
  unfold execGo
  simp only [(low32_iff _).not.mpr (Nat.not_le.mpr hop), if_false, hcores, hgood, if_neg (Nat.not_le.mpr h), hc]
  rfl

/-- The elements of a region taken for a graph, core by core. -/
def beginCores (s : State) (ref : GRef) (cores : List CoreId) : State :=
  cores.foldl (fun t core => updCtx t (cfgCtx t core) (beginElems ref)) s

/-- A state with a graph under an id. -/
def putGraphId (s : State) (gid : BitVec 4) (g : Graph) : State := { s with me.fab.graphs := tabInsert s.me.fab.graphs gid.toNat g }

theorem exec_go_started (h : s.me.fab.graphs.length < 16) (hc : completionOk (readG s b) = true) :
    exec (.go d a b) s = .next (nextPc (writeG (putGraphId (beginCores s ⟨s.me.id.core, freeGraph s.me⟩ cores) (freeGraph s.me)
      (startedGraph ((readG s a).toNat % 2 ^ 16) cores.length (readG s b) (priv s))) d ((freeGraph s.me).setWidth 64))) := by
  have hfirst : ((readG s a).extractLsb' 0 16).toNat = (readG s a).toNat % 2 ^ 16 := by
    rw [BitVec.extractLsb'_toNat]; rfl
  show execGo d a b s = _
  unfold execGo
  simp only [(low32_iff _).not.mpr (Nat.not_le.mpr hop), if_false, hcores, hgood, if_neg (Nat.not_le.mpr h), hc, hfirst]
  rfl

end

/-! ### The lowest free id -/

/-- The numbers that a table lists are no more than its entries. -/
theorem card_of_tabFind {α : Type} (t : Tab α) (n : Nat) (h : ∀ i < n, (tabFind t i).isSome = true) : n ≤ t.length := by
  have hkeys : ∀ (t : Tab α) i, (tabFind t i).isSome = true → i ∈ t.map Prod.fst := by
    intro t i
    induction t with
    | nil => exact fun h => absurd h (by simp)
    | cons p t ih =>
      rw [tabFind_cons]
      split
      · exact fun _ => by simp_all
      · exact fun h => List.mem_cons_of_mem _ (ih h)
  calc n = (List.range n).length := List.length_range.symm
    _ ≤ (t.map Prod.fst).length := (List.nodup_range.subperm (fun i hi => hkeys t i (h i (List.mem_range.mp hi)))).length_le
    _ = t.length := List.length_map _

/-- While fewer than 16 graphs stand, an id is free, and the one taken is the lowest. -/
theorem freeGraph_lowest {c : Ctx} (h : c.fab.graphs.length < 16) :
    tabFind c.fab.graphs (freeGraph c).toNat = none ∧ ∀ j < (freeGraph c).toNat, tabFind c.fab.graphs j ≠ none := by
  have hsome : ((List.range 16).find? (fun i => (tabFind c.fab.graphs i).isNone)).isSome = true := by
    by_contra hnone
    rw [Bool.not_eq_true, Option.isSome_eq_false_iff, Option.isNone_iff_eq_none, List.find?_eq_none] at hnone
    have := card_of_tabFind c.fab.graphs 16 (fun i hi => by simpa [Option.isSome_iff_ne_none] using hnone i (List.mem_range.mpr hi))
    omega
  obtain ⟨i, hi⟩ := Option.isSome_iff_exists.mp hsome
  obtain ⟨hfree, hrange, hlow⟩ := List.find?_range_eq_some.mp hi
  have hid : (freeGraph c).toNat = i := by
    unfold freeGraph
    rw [hi]
    exact Nat.mod_eq_of_lt (List.mem_range.mp hrange)
  rw [hid]
  exact ⟨by simpa using hfree, fun j hj => by simpa [Option.isSome_iff_ne_none] using hlow j hj⟩

/-! ### The elements of a region begin -/

/-- Entries of one value put at the numbers of a list. -/
theorem tabFind_foldl_insert {α β : Type} (key : β → Nat) (v : α) (x : Nat) : ∀ (l : List β) (t : Tab α),
    tabFind (l.foldl (fun t p => tabInsert t (key p) v) t) x = if x ∈ l.map key then some v else tabFind t x := by
  intro l
  induction l with
  | nil => intro t; rfl
  | cons p l ih =>
    intro t
    rw [List.foldl_cons, ih]
    by_cases hl : x ∈ l.map key
    · simp [hl]
    · by_cases hx : x = key p
      · simp [hx]
      · simp [hl, hx, tabFind_insert_ne t v hx]

theorem loadLines_eq (c : Ctx) (e : Nat) : loadLines c e = { c with fab.delays := (loadLines c e).fab.delays } := rfl

theorem foldl_loadLines (l : List Nat) (c : Ctx) : l.foldl loadLines c = { c with fab.delays := (l.foldl loadLines c).fab.delays } := by
  induction l generalizing c with
  | nil => rfl
  | cons e l ih =>
    rw [List.foldl_cons, ih]
    generalize (l.foldl loadLines (loadLines c e)).fab.delays = ds
    rw [loadLines_eq]

/-- What a context keeps while its elements begin a graph. -/
structure Begun (c k : Ctx) : Prop where
  id : k.id = c.id
  regs : k.regs = c.regs
  cfg : k.fab.cfg = c.fab.cfg
  ports : k.fab.ports = c.fab.ports
  graphs : k.fab.graphs = c.fab.graphs
  faults : k.faults = c.faults
  htab : k.htab = c.htab

theorem Begun.refl (c : Ctx) : Begun c c := ⟨rfl, rfl, rfl, rfl, rfl, rfl, rfl⟩

theorem Begun.trans {c k l : Ctx} (h : Begun c k) (h' : Begun k l) : Begun c l :=
  ⟨h'.id.trans h.id, h'.regs.trans h.regs, h'.cfg.trans h.cfg, h'.ports.trans h.ports, h'.graphs.trans h.graphs,
    h'.faults.trans h.faults, h'.htab.trans h.htab⟩

/-- The streams that begin live. -/
def liveStreams (c : Ctx) : List (Nat × Nat) := streamList.filter (fun p => streamMode c p.1 p.2 ≠ 0)

/-- A context whose elements have begun a graph: their marks, and their streams afresh. -/
theorem beginElems_eq (ref : GRef) (c : Ctx) : Begun c (beginElems ref c)
    ∧ (beginElems ref c).fab.marks = (usedElems c).foldl (fun t e => tabInsert t e ref) c.fab.marks
    ∧ (beginElems ref c).fab.strms = (liveStreams c).foldl (fun t p => tabInsert t (p.1 * 4 + p.2) { Strm.zero with live := true }) [] := by
  unfold beginElems
  dsimp only
  rw [foldl_loadLines]
  exact ⟨⟨rfl, rfl, rfl, rfl, rfl, rfl, rfl⟩, rfl, rfl⟩

theorem begun_beginElems (ref : GRef) (c : Ctx) : Begun c (beginElems ref c) := (beginElems_eq ref c).1

theorem beginElems_marks (ref : GRef) (c : Ctx) {x : Nat} (h : x ∈ usedElems c) : tabFind (beginElems ref c).fab.marks x = some ref := by
  rw [(beginElems_eq ref c).2.1]
  exact (tabFind_foldl_insert id ref x (usedElems c) c.fab.marks).trans (if_pos (by simpa using h))

theorem beginElems_strm (ref : GRef) (c : Ctx) {x n : Nat} (hx : x < 4) (hn : n < 4) (hmode : streamMode c x n ≠ 0) :
    strmOf (beginElems ref c) x n = { Strm.zero with live := true } := by
  have hmem : x * 4 + n ∈ (liveStreams c).map (fun p => p.1 * 4 + p.2) := by
    refine List.mem_map.mpr ⟨(x, n), List.mem_filter.mpr ⟨List.mem_map.mpr ⟨x * 4 + n, List.mem_range.mpr (by omega), ?_⟩,
      by simpa using hmode⟩, rfl⟩
    rw [Prod.mk.injEq]
    omega
  unfold strmOf tabGet
  rw [(beginElems_eq ref c).2.2, tabFind_foldl_insert, if_pos hmem]
  rfl

theorem usedElems_congr {c k : Ctx} (h : Begun c k) : usedElems k = usedElems c := by
  have huse : inUse k = inUse c := funext (inUse_congr h.cfg)
  unfold usedElems portField cfgField
  rw [huse, h.cfg, h.ports]

theorem streamMode_congr {c k : Ctx} (h : Begun c k) : streamMode k = streamMode c := by
  unfold streamMode cfgField
  rw [h.cfg]

/-- Tables that have not changed are not written to a save area. -/
theorem writeView_begun {c k : Ctx} (h : Begun c k) (m : List Host.Cell) : writeView m c k = m := by
  unfold writeView
  simp only [h.graphs, h.faults, h.htab, h.cfg, if_true]
  exact (List.foldl_fixed' (fun _ => rfl) _).trans (List.foldl_fixed' (fun _ => rfl) _)

section
variable {s : State} {d a b : Reg} {cores : List CoreId}

/-- The elements of one context taken: no memory changes, and the context in focus begins only where it is the one named. -/
theorem updCtx_begin {t : State} (harea : inArea t t.me.id = false) (ref : GRef) (id : CtxId) :
    (updCtx t id (beginElems ref)).cores = t.cores ∧ (updCtx t id (beginElems ref)).mem = t.mem ∧ (updCtx t id (beginElems ref)).win = t.win
    ∧ (updCtx t id (beginElems ref)).me = if t.me.id = id then beginElems ref t.me else t.me := by
  by_cases hid : t.me.id = id
  · subst hid
    rw [updCtx_me harea, if_pos rfl]
    exact ⟨rfl, rfl, rfl, rfl⟩
  · rw [if_neg hid]
    unfold updCtx
    cases hfind : findCtx t id with
    | none => exact ⟨rfl, rfl, rfl, rfl⟩
    | some c =>
      dsimp only
      rw [writeView_begun (begun_beginElems ref c), ite_self]
      unfold putCtx
      rw [if_neg hid]
      exact ⟨rfl, rfl, rfl, rfl⟩

/-- What the taking of a region's elements leaves of the module and of the context in focus. -/
structure BegunAt (s t : State) (ref : GRef) (here : Prop) : Prop where
  mem : t.mem = s.mem
  win : t.win = s.win
  cores : t.cores = s.cores
  me : Begun s.me t.me
  last : here → ∃ c, Begun s.me c ∧ t.me = beginElems ref c

theorem begunAt_beginCores (harea : inArea s s.me.id = false) (ref : GRef) (cores : List CoreId) :
    BegunAt s (beginCores s ref cores) ref (s.me.id.core ∈ cores) := by
  induction cores using List.reverseRecOn with
  | nil => exact ⟨rfl, rfl, rfl, Begun.refl _, fun h => absurd h (by simp)⟩
  | append_singleton cores core ih =>
    have hone : beginCores s ref (cores ++ [core]) = updCtx (beginCores s ref cores) (cfgCtx (beginCores s ref cores) core) (beginElems ref) := by
      unfold beginCores
      rw [List.foldl_append, List.foldl_cons, List.foldl_nil]
    generalize beginCores s ref cores = t at ih hone
    have hplace : inArea t t.me.id = false := by
      rw [ih.me.id, ← harea]
      unfold inArea setOf setState coreRec
      rw [ih.cores]
    obtain ⟨hcores, hmem, hwin, hme⟩ := updCtx_begin hplace ref (cfgCtx t core)
    have hmine : t.me.id = cfgCtx t core ↔ core = s.me.id.core := by
      rw [← ih.me.id]
      exact ⟨fun h => (congrArg (·.core) h).symm, fun h => by subst h; rfl⟩
    rw [hone]
    by_cases hcore : core = s.me.id.core
    · rw [if_pos (hmine.mpr hcore)] at hme
      exact ⟨hmem.trans ih.mem, hwin.trans ih.win, hcores.trans ih.cores, by rw [hme]; exact ih.me.trans (begun_beginElems ref t.me),
        fun _ => ⟨t.me, ih.me, hme⟩⟩
    · have hhere : s.me.id.core ∈ cores ++ [core] ↔ s.me.id.core ∈ cores := by simp [Ne.symm hcore]
      rw [if_neg (hmine.not.mpr hcore)] at hme
      refine ⟨hmem.trans ih.mem, hwin.trans ih.win, hcores.trans ih.cores, hme ▸ ih.me, fun h => ?_⟩
      rw [hme]
      exact ih.last (hhere.mp h)

/-- GO at a region that passes its checks (12 R298). -/
theorem go_started (hop : (readG s a).toNat < 2 ^ 32) (hcores : regionCores s (readG s a) = some cores)
    (hgood : regionFailure s cores = none) (harea : inArea s s.me.id = false)
    (h : s.me.fab.graphs.length < 16) (hc : completionOk (readG s b) = true) :
    ∃ (u : State) (gid : BitVec 4), exec (.go d a b) s = .next u
      ∧ Status s u d (gid.setWidth 64) ∧ KeepsMemory s u
      ∧ graphIs s gid = none ∧ (∀ j : BitVec 4, j.toNat < gid.toNat → graphIs s j ≠ none)
      ∧ graphIs u gid = some (startedGraph ((readG s a).toNat % 2 ^ 16) cores.length (readG s b) (priv s))
      ∧ (∀ j : BitVec 4, j ≠ gid → graphIs u j = graphIs s j)
      ∧ (s.me.id.core ∈ cores → ∀ x ∈ usedElems s.me, tabFind u.me.fab.marks x = some ⟨s.me.id.core, gid⟩)
      ∧ (s.me.id.core ∈ cores → ∀ x n, strmOf u.me x n =
          (if x < 4 ∧ n < 4 ∧ streamMode s.me x n ≠ 0 then { Strm.zero with live := true } else strmOf u.me x n)) := by
  obtain ⟨hfree, hlow⟩ := freeGraph_lowest h
  have hexec := exec_go_started (d := d) hop hcores hgood h hc
  have hbegun := begunAt_beginCores harea ⟨s.me.id.core, freeGraph s.me⟩ cores
  generalize freeGraph s.me = gid at hfree hlow hexec hbegun
  generalize beginCores s ⟨s.me.id.core, gid⟩ cores = t at hexec hbegun
  have hfab : ∀ (x : State) (v : Word), (nextPc (writeG x d v)).me.fab = x.me.fab := fun x v => by
    unfold nextPc writeG; split <;> rfl
  refine ⟨_, gid, hexec, ⟨?_, fun r hr => ?_, fun c => ?_, ?_⟩, fun k => ?_, hfree, fun j hj => hlow _ hj, ?_, fun j hj => ?_,
    fun hhere x hx => ?_, fun hhere x n => ?_⟩
  · rw [readG_nextPc, readG_writeG_self]
  · rw [readG_nextPc, readG_writeG_ne _ _ hr]
    unfold readG putGraphId
    rw [hbegun.me.regs]
  · rw [readC_nextPc, readC_writeG]
    unfold readC putGraphId
    rw [hbegun.me.regs]
  · refine advances_nextPc ?_
    rw [writeG_pc]
    exact congrArg (·.pc) hbegun.me.regs
  · show memByte (writeG (putGraphId t gid _) d _).mem k = _ ∧ memByte (writeG (putGraphId t gid _) d _).win k = _
    rw [writeG_mem, writeG_win]
    exact ⟨congrArg (memByte · k) hbegun.mem, congrArg (memByte · k) hbegun.win⟩
  · unfold graphIs
    rw [hfab]
    exact tabFind_insert_self ..
  · unfold graphIs
    rw [hfab]
    exact (tabFind_insert_ne _ _ (fun heq => hj (BitVec.eq_of_toNat_eq heq))).trans (congrArg (tabFind · j.toNat) hbegun.me.graphs)
  · obtain ⟨c, hkeep, hme⟩ := hbegun.last hhere
    rw [hfab]
    show tabFind t.me.fab.marks x = _
    rw [hme]
    exact beginElems_marks _ c (by rwa [usedElems_congr hkeep])
  · split
    next hlive =>
      obtain ⟨hx, hn, hmode⟩ := hlive
      obtain ⟨c, hkeep, hme⟩ := hbegun.last hhere
      unfold strmOf
      rw [hfab]
      show strmOf t.me x n = _
      rw [hme]
      exact beginElems_strm _ c hx hn (by rwa [streamMode_congr hkeep])
    next => rfl

end

/-- Settles O54: the fate of a word decides what CFGW and CFG do, and GO takes the elements of a region that passes its checks. -/
theorem graphsAreConfiguredAndStarted : Obligations.GraphsAreConfiguredAndStarted := by
  unfold Obligations.GraphsAreConfiguredAndStarted
  intro s t u0 d a b cores w op e f v mine hactive
  have harea := not_inArea_of_active hactive
  refine ⟨traps_cfgw_index, fun hop howner hw => ⟨fun hbad => ?_, exec_cfgw_wait hop howner hw, fun hok hfree hother => ?_⟩, traps_cfg_region,
    cfg_empty, fun hcores hn hload => ?_, traps_go_region, fun hop hcores => ?_⟩
  · exact traps_cfgw_word hop howner hw (applyWord_refused harea rfl rfl rfl hbad)
  · exact ⟨cfgw_element hop howner hw harea rfl rfl rfl hok hfree hother, cfgw_select hop howner hw harea rfl rfl rfl hok hfree hother,
      cfgw_port hop howner hw harea rfl rfl rfl hok hfree hother, cfgw_region_refused hop howner hw harea rfl rfl rfl hok hfree hother,
      cfgw_region hop howner hw harea rfl rfl rfl hok hfree hother⟩
  · exact ⟨cfg_word hcores hn hload, cfg_core hcores hn hload, cfg_bad hcores hn hload, cfg_wait hcores hn hload⟩
  · exact ⟨fun x hfail => traps_go_check hop hcores hfail, fun hgood => ⟨traps_go_ids hop hcores hgood, traps_go_completion hop hcores hgood,
      go_started hop hcores hgood harea⟩⟩

end Sys2Proof.Machine

end

section
/-! PROOFS. Tokens that leave (O48): what decides whether an element may move does not change while tokens do. -/

namespace Sys2Proof.Machine

open Sys2Proof.Claims

/-! ## What tokens and the network do not decide

A firing changes the queues of its context, its counters and the network. Whether an element moves depends on none of these: it is the same of
a state and of its `quiet` form, in which they are blank. -/

/-- A fabric without its tokens and what a firing counts of them. -/
def quietFab (f : Fabric) : Fabric :=
  { f with queues := [], portq := [], ctlq := [], checks := [], counts := [], elems := [], delays := [], sinksDone := [], meters := [], turns := [],
           fired := [] }

/-- A context without tokens, performance counters and counts of work. -/
def quietCtx (c : Ctx) : Ctx := { c with perf := (Ctx.create c.id).perf, work := 0, fab := quietFab c.fab }

/-- A module without tokens, packets and counts. -/
def quiet (s : State) : State := { s with me := quietCtx s.me, others := s.others.map quietCtx, net := [] }

@[simp] theorem quiet_quiet (s : State) : quiet (quiet s) = quiet s := by
  have hmap : (s.others.map quietCtx).map quietCtx = s.others.map quietCtx := by rw [List.map_map]; rfl
  unfold quiet
  rw [hmap]
  rfl

/-! ### Contexts -/

theorem find_quiet (l : List Ctx) (id : CtxId) : (l.map quietCtx).find? (fun c => c.id = id) = (l.find? (fun c => c.id = id)).map quietCtx := by
  rw [List.find?_map]
  rfl

@[simp] theorem rawCtx_quiet (s : State) (id : CtxId) : rawCtx (quiet s) id = (rawCtx s id).map quietCtx := by
  unfold rawCtx
  show (if s.me.id = id then some (quietCtx s.me) else (s.others.map quietCtx).find? _) = _
  rw [find_quiet]
  split <;> rfl

theorem viewArea_quiet (m : List Host.Cell) (c : Ctx) : viewArea m (quietCtx c) = quietCtx (viewArea m c) := by
  have harea : areaOf (quietCtx c) = areaOf c := by unfold areaOf; rfl
  unfold viewArea
  rw [harea]
  generalize loadFaults m (areaOf c) = faults, loadCfg m (areaOf c) = cfg
  have htab : (fun i : Fin 32 => loadEntry m (areaOf c) i.val (quietCtx c).htab[i.val]) 
      = fun i => loadEntry m (areaOf c) i.val c.htab[i.val] := rfl
  rw [htab]
  generalize Vector.ofFn (fun i : Fin 32 => loadEntry m (areaOf c) i.val c.htab[i.val]) = tab
  rfl

@[simp] theorem findCtx_quiet (s : State) (id : CtxId) : findCtx (quiet s) id = (findCtx s id).map quietCtx := by
  unfold findCtx
  rw [rawCtx_quiet]
  show (if inArea s id = true then _ else _) = _
  split
  · rw [Option.map_map, Option.map_map]
    exact congrArg (Option.map · (rawCtx s id)) (funext (viewArea_quiet s.mem))
  · rfl

@[simp] theorem claimOf_quiet (s : State) (id : CtxId) : claimOf (quiet s) id = claimOf s id := by
  unfold claimOf
  rw [findCtx_quiet]
  cases findCtx s id <;> rfl

@[simp] theorem spineOf_quiet (s : State) (id : CtxId) : spineOf (quiet s) id = spineOf s id := by
  unfold spineOf
  rw [findCtx_quiet]
  cases findCtx s id <;> rfl

@[simp] theorem ctxSharesMeet_quiet (s : State) (a b : CtxId) : ctxSharesMeet (quiet s) a b = ctxSharesMeet s a b := by
  unfold ctxSharesMeet
  rw [rawCtx_quiet, rawCtx_quiet]
  cases rawCtx s a <;> cases rawCtx s b <;> rfl

@[simp] theorem graphOf_quiet (s : State) (g : GRef) : graphOf (quiet s) g = graphOf s g := by
  unfold graphOf
  rw [findCtx_quiet]
  show ((findCtx s (ownerOf s g)).map quietCtx).bind _ = _
  cases findCtx s (ownerOf s g) <;> rfl

@[simp] theorem graphAt_quiet (s : State) (e : Nat) : graphAt (quiet s) e = graphAt s e := by
  unfold graphAt
  simp only [graphOf_quiet]
  rfl

@[simp] theorem streamBroken_quiet (s : State) : streamBroken (quiet s) = streamBroken s := by
  unfold streamBroken
  simp only [graphOf_quiet]
  rfl

/-! ### The swap before a core -/

@[simp] theorem focus_quiet (s : State) (id : CtxId) : focus (quiet s) id = quiet (focus s id) := by
  unfold focus
  show (if s.me.id = id then _ else match (s.others.map quietCtx).find? (fun c => c.id = id) with | none => _ | some c => _) = _
  rw [find_quiet]
  split
  · rfl
  · cases s.others.find? (fun c => c.id = id) with
    | none => rfl
    | some c =>
      have hfilter : (s.others.map quietCtx).filter (fun c => c.id ≠ id) = (s.others.filter (fun c => c.id ≠ id)).map quietCtx := by
        rw [List.filter_map]
        rfl
      unfold quiet
      rw [List.map_cons, ← hfilter]
      rfl

@[simp] theorem l1Ways_quiet (s : State) : l1Ways (quiet s) = l1Ways s := by
  unfold l1Ways
  show (match otherCtx s with | none => _ | some id => _) = _
  cases otherCtx s with
  | none => rfl
  | some id =>
    dsimp only
    rw [rawCtx_quiet]
    cases rawCtx s id <;> rfl

@[simp] theorem surplus_quiet (s : State) (id : CtxId) : surplus (quiet s) id = surplus s id := by
  unfold surplus
  rw [focus_quiet]
  show (if (focus s id).me.id ≠ id ∨ l1Ways (quiet (focus s id)) = 16 then [] else _) = _
  rw [l1Ways_quiet]
  rfl

/-! ### Write-backs -/

theorem quiet_countHome (s : State) (num : Nat) : quiet (countHome s num) = quiet s := rfl

theorem quiet_l2Store (s : State) (part : BitVec 7) (num : Nat) (old : BitVec 1024) :
    quiet (l2Store s part num old) = l2Store (quiet s) part num old := by
  unfold l2Store
  show _ = match s.l2.find? (fun x => x.num = num) with | some x => _ | none => _
  cases s.l2.find? (fun x => x.num = num) with
  | none =>
    show quiet (if (fillWays s part num).isEmpty = true then _ else _) = if (fillWays s part num).isEmpty = true then _ else _
    split <;> rfl
  | some x =>
    show quiet (if (x.comp && !compressible (homeLine s.mem num)) = true then _ else _)
      = if (x.comp && !compressible (homeLine s.mem num)) = true then _ else _
    split <;> rfl

theorem quiet_homeCommit (s : State) (part : BitVec 7) (m : List Host.Cell) (nums : List Nat) :
    quiet (homeCommit s part m nums) = homeCommit (quiet s) part m nums := by
  have hfold : ∀ (t : State), quiet (nums.foldl (fun t num => l2Store t part num (homeLine s.mem num)) t)
      = nums.foldl (fun t num => l2Store t part num (homeLine s.mem num)) (quiet t) := by
    induction nums with
    | nil => exact fun t => rfl
    | cons n ns ih => intro t; rw [List.foldl_cons, ih, quiet_l2Store, List.foldl_cons]
  exact hfold { s with mem := m }

theorem quiet_writeBack (s : State) (l : Line) : quiet (writeBack (quiet s) l) = quiet (writeBack s l) := by
  unfold writeBack
  split
  · exact quiet_quiet s
  · have hcommit : quiet (homeCommit (countHome (quiet s) l.num) (quiet s).me.id.part (mergeLine (quiet s).mem l 128) [l.num])
        = quiet (homeCommit (countHome s l.num) s.me.id.part (mergeLine s.mem l 128) [l.num]) := by
      rw [quiet_homeCommit, quiet_homeCommit, quiet_countHome, quiet_countHome, quiet_quiet]
      rfl
    generalize homeCommit (countHome (quiet s) l.num) (quiet s).me.id.part (mergeLine (quiet s).mem l 128) [l.num] = t at hcommit
    generalize homeCommit (countHome s l.num) s.me.id.part (mergeLine s.mem l 128) [l.num] = u at hcommit
    show quiet (if wbLost s l = true then _ else _) = quiet (if wbLost s l = true then _ else _)
    split
    · exact congrArg (fun x => { x with bad := if x.bad.contains l.num then x.bad else l.num :: x.bad }) hcommit
    · split
      · exact congrArg (fun x => repairLine x l.num) hcommit
      · exact hcommit

theorem quiet_writeBackAll (ls : List Line) : ∀ s : State, quiet (writeBackAll (quiet s) ls) = quiet (writeBackAll s ls) := by
  induction ls with
  | nil => exact quiet_quiet
  | cons l ls ih =>
    intro s
    calc quiet (writeBackAll (writeBack (quiet s) l) ls) = quiet (writeBackAll (quiet (writeBack (quiet s) l)) ls) := (ih _).symm
      _ = quiet (writeBackAll (quiet (writeBack s l)) ls) := by rw [quiet_writeBack]
      _ = quiet (writeBackAll (writeBack s l) ls) := ih _

theorem backsGo_quiet (ls : List Line) : ∀ s : State, backsGo (quiet s) ls = backsGo s ls := by
  induction ls with
  | nil => exact fun _ => rfl
  | cons l ls ih =>
    intro s
    have hrest : backsGo (writeBack (quiet s) l) ls = backsGo (writeBack s l) ls := by
      rw [← ih (writeBack (quiet s) l), quiet_writeBack, ih]
    show (_ && backsGo (writeBack (quiet s) l) ls) = _
    rw [hrest]
    rfl

theorem quiet_quietBack (s : State) (ls : List Line) : quiet (quietBack (quiet s) ls) = quiet (quietBack s ls) := by
  have hall := quiet_writeBackAll ls s
  unfold quietBack
  generalize writeBackAll (quiet s) ls = t at hall
  generalize writeBackAll s ls = u at hall
  exact congrArg (fun x => { x with me.lateBad := x.me.lateBad ++ (ls.filter (wbLost s)).map (fun l : Line => (l.num, l.va)) }) hall

theorem quiet_trimL1 (s : State) (id : CtxId) : quiet (trimL1 (quiet s) id) = quiet (trimL1 s id) := by
  unfold trimL1
  rw [surplus_quiet]
  generalize surplus s id = ls
  split
  next => exact quiet_quiet s
  next =>
    have hback := quiet_quietBack (focus s id) ls
    rw [focus_quiet]
    dsimp only
    generalize quietBack (quiet (focus s id)) ls = t at hback ⊢
    generalize quietBack (focus s id) ls = u at hback ⊢
    refine (focus_quiet _ _).symm.trans (Eq.trans ?_ (focus_quiet _ _))
    exact congrArg (fun x => focus { x with me.l1 := x.me.l1.filter (fun l => !ls.contains l) } s.me.id) hback

theorem trimsGo_quiet (ids : List CtxId) : ∀ s : State, trimsGo (quiet s) ids = trimsGo s ids := by
  induction ids with
  | nil => exact fun _ => rfl
  | cons id ids ih =>
    intro s
    have hrest : trimsGo (trimL1 (quiet s) id) ids = trimsGo (trimL1 s id) ids := by
      rw [← ih (trimL1 (quiet s) id), quiet_trimL1, ih]
    show (backsGo (focus (quiet s) id) (surplus (quiet s) id) && _) = _
    rw [hrest, surplus_quiet, focus_quiet, backsGo_quiet]
    rfl

/-! ### Moving -/

theorem inTheWay_quiet (s : State) : inTheWay (quiet s) = inTheWay s := by
  funext x id
  unfold inTheWay
  simp only [ctxSharesMeet_quiet]

theorem swapGoes_quiet (s : State) (r : CoreRec) (needs : List (Bool × CtxId)) : swapGoes (quiet s) r needs = swapGoes s r needs := by
  unfold swapGoes setBlocked
  rw [inTheWay_quiet]

theorem enterSpine_quiet (s : State) : enterSpine (quiet s) = enterSpine s := by
  funext r paired spine id
  unfold enterSpine
  cases id with
  | none => rfl
  | some i => simp only [spineOf_quiet]

theorem activateSet_quiet (s : State) : activateSet (quiet s) = activateSet s := by
  have hclash : claimsClash (quiet s) = claimsClash s := by
    funext a b
    unfold claimsClash
    simp only [claimOf_quiet]
  unfold activateSet
  rw [hclash]

theorem swapRecord_quiet (s : State) (c : CoreId) : swapRecord (quiet s) c = swapRecord s c := by
  have htrims : ∀ n : CoreRec, trimsGo (setCore (quiet s) c n) (setCtxs n) = trimsGo (setCore s c n) (setCtxs n) := fun n =>
    trimsGo_quiet (setCtxs n) (setCore s c n)
  have hslot : slotRecord (quiet s) = slotRecord s := by
    unfold slotRecord
    rw [activateSet_quiet, enterSpine_quiet]
  have hsw : ctxswRecord (quiet s) = ctxswRecord s := by
    unfold ctxswRecord
    rw [enterSpine_quiet]
  unfold swapRecord
  simp only [htrims, hslot, hsw, swapGoes_quiet]
  rfl

theorem leaving_quiet (s : State) (id : CtxId) : leaving (quiet s) id = leaving s id := by
  unfold leaving
  rw [swapRecord_quiet]
  rfl

/-- Whether an element moves depends on no token, packet or count. -/
theorem moves_quiet (s : State) (e : Nat) : moves (quiet s) e = moves s e := by
  unfold moves
  rw [graphAt_quiet, streamBroken_quiet]
  show (isActive s s.me.id && !leaving (quiet s) s.me.id && _ && _) = _
  rw [leaving_quiet]

theorem moves_congr {s t : State} (h : quiet t = quiet s) (e : Nat) : moves t e = moves s e := by
  rw [← moves_quiet t, h, moves_quiet]

end Sys2Proof.Machine

end

section
/-! PROOFS. Tokens that leave (O48): what the moves of tokens change of a context and of the module, and the queues they leave. -/

namespace Sys2Proof.Machine

open Sys2Proof.Claims

/-! ## Contexts between which only tokens have moved -/

/-- Nothing but the tokens of the fabric differs. -/
structure TokensMove (c d : Ctx) : Prop where
  frame : { d with fab := c.fab } = c
  fab : quietFab d.fab = quietFab c.fab

theorem TokensMove.refl (c : Ctx) : TokensMove c c := ⟨rfl, rfl⟩

theorem TokensMove.trans {c d k : Ctx} (h : TokensMove c d) (h' : TokensMove d k) : TokensMove c k :=
  ⟨(congrArg (fun x => { x with fab := c.fab }) h'.frame).trans h.frame, h'.fab.trans h.fab⟩

/-- Steps of which each moves tokens alone. -/
theorem tokensMove_foldl {α : Type} {f : Ctx → α → Ctx} (h : ∀ c x, TokensMove c (f c x)) (l : List α) (c : Ctx) :
    TokensMove c (l.foldl f c) := by
  induction l generalizing c with
  | nil => exact TokensMove.refl c
  | cons x l ih => exact (h c x).trans (ih _)

section
variable {c d : Ctx} (h : TokensMove c d)
include h

theorem TokensMove.cfg : d.fab.cfg = c.fab.cfg := (congrArg Fabric.cfg h.fab :)
theorem TokensMove.ports : d.fab.ports = c.fab.ports := (congrArg Fabric.ports h.fab :)

end

/-! ### What an element reads of its configuration -/

section
variable {c d : Ctx} (h : d.fab.cfg = c.fab.cfg)
include h

theorem cfgField_congr : cfgField d = cfgField c := by unfold cfgField; rw [h]

theorem readers_congr : readers d = readers c := by
  unfold readers elemNeeds fibreNeeds opOf sourceOf streamMode streamField
  rw [cfgField_congr h]

theorem outDests_congr : outDests d = outDests c := by
  unfold outDests fanLinks linkDests fanDirs fanOf
  rw [readers_congr h, cfgField_congr h]

theorem outSends_congr : outSends d = outSends c := by
  unfold outSends fanOf
  rw [cfgField_congr h]

theorem opOf_congr : opOf d = opOf c := by
  unfold opOf
  rw [cfgField_congr h]

end

theorem portField_congr {c d : Ctx} (h : d.fab.ports = c.fab.ports) : portField d = portField c := by
  unfold portField
  rw [h]

theorem sendPort_congr {c d : Ctx} (h : d.fab.ports = c.fab.ports) : sendPort d = sendPort c := by
  unfold sendPort
  rw [portField_congr h]

/-! ## The moves of one token -/

section
variable (c : Ctx)

theorem moveLine_eq (e slot : Nat) (t : Token) : ∃ ds, moveLine c e slot t = { c with fab.delays := ds } := by
  unfold moveLine
  split_ifs <;> exact ⟨_, rfl⟩

theorem moveCheck_eq (key : Nat) (t : Token) : ∃ ks, moveCheck c key t = { c with fab.checks := ks } := by
  unfold moveCheck
  split <;> exact ⟨_, rfl⟩

theorem tokensMove_setQueue (key : Nat) (q : List Token) : TokensMove c (setQueue c key q) := ⟨rfl, rfl⟩
theorem tokensMove_countTok (key : Nat) (t : Token) : TokensMove c (countTok c key t) := ⟨rfl, rfl⟩
theorem tokensMove_served (r i : Nat) (ds : List Nat) : TokensMove c (served c r i ds) := ⟨rfl, rfl⟩

theorem tokensMove_moveCheck (key : Nat) (t : Token) : TokensMove c (moveCheck c key t) := by
  obtain ⟨ks, hks⟩ := moveCheck_eq c key t
  rw [hks]
  exact ⟨rfl, rfl⟩

theorem tokensMove_moveLine (e slot : Nat) (t : Token) : TokensMove c (moveLine c e slot t) := by
  obtain ⟨ds, hds⟩ := moveLine_eq c e slot t
  rw [hds]
  exact ⟨rfl, rfl⟩

theorem tokensMove_takeTok (e slot : Nat) : TokensMove c (takeTok c e slot) := by
  unfold takeTok
  split
  · exact TokensMove.refl c
  next t ts _ =>
    have htaken : TokensMove c (countTok (moveLine (setQueue c (inKey e slot) ts) e slot t) (inKey e slot) t) :=
      ((tokensMove_setQueue ..).trans (tokensMove_moveLine ..)).trans (tokensMove_countTok ..)
    dsimp only
    split
    · exact htaken.trans (tokensMove_moveCheck ..)
    · exact htaken

/-- A token put behind the queues of a list. -/
def feed (ds : List (Nat × Nat)) (t : Token) : Ctx := ds.foldl (fun k d => setQueue k d.1 (queueOf k d.1 ++ [t])) c

theorem feed_eq (ds : List (Nat × Nat)) (t : Token) (c : Ctx) : ∃ qs, feed c ds t = { c with fab.queues := qs } := by
  induction ds generalizing c with
  | nil => exact ⟨_, rfl⟩
  | cons d ds ih => exact ih (setQueue c d.1 (queueOf c d.1 ++ [t]))

theorem tokensMove_feed (ds : List (Nat × Nat)) (t : Token) : TokensMove c (feed c ds t) := tokensMove_foldl (fun _ _ => tokensMove_setQueue ..) ds c

theorem tokensMove_pullPort (n : Nat) : TokensMove c (pullPort c n) := by
  unfold pullPort
  split
  · exact TokensMove.refl c
  next t ts _ =>
    dsimp only
    split
    · exact TokensMove.trans (d := { c with fab.portq := tabPut [] c.fab.portq n ts }) ⟨rfl, rfl⟩ (tokensMove_feed _ (readers c (0x6000 + n)) t)
    · exact TokensMove.refl c

theorem tokensMove_pullPorts (codes : List Nat) : TokensMove c (pullPorts c codes) := by
  refine tokensMove_foldl (fun k code => ?_) codes c
  split
  · exact tokensMove_pullPort ..
  · exact TokensMove.refl k

/-- The router buffer of an element changes queues and turns alone. -/
theorem forwardBuf_frame (e : Nat) : { forwardBuf c e with fab.queues := c.fab.queues, fab.turns := c.fab.turns } = c := by
  unfold forwardBuf
  split
  next t ts i _ _ =>
    dsimp only
    split
    · obtain ⟨qs, hqs⟩ := feed_eq (fanLinks c e 0) t (setQueue c (bufKey e) ts)
      unfold feed at hqs
      rw [hqs]
      rfl
    · rfl
  · rfl

theorem tokensMove_forwardBuf (e : Nat) : TokensMove c (forwardBuf c e) :=
  ⟨congrArg (fun x => { x with fab := c.fab }) (forwardBuf_frame c e), congrArg (fun x => quietFab x.fab) (forwardBuf_frame c e)⟩

theorem tokensMove_pulled (s : State) (e : Nat) : TokensMove s.me (pulled s e) := (tokensMove_forwardBuf ..).trans (tokensMove_pullPorts ..)

theorem tokensMove_countTurn (e port : Nat) : TokensMove c (countTurn c e port) := by
  unfold countTurn
  split
  · exact TokensMove.refl c
  · split
    · exact tokensMove_served ..
    · exact TokensMove.refl c

end

/-! ## Queues -/

theorem queueOf_setQueue (c : Ctx) (key k : Nat) (q : List Token) : queueOf (setQueue c key q) k = if k = key then q else queueOf c k :=
  tabGet_put ..

/-- Each queue of a list gains the token, once for each time that the list names it. -/
theorem queueOf_feed (t : Token) (k : Nat) (ds : List (Nat × Nat)) (c : Ctx) :
    queueOf (feed c ds t) k = queueOf c k ++ List.replicate (ds.countP (fun d => d.1 = k)) t := by
  induction ds generalizing c with
  | nil => exact (List.append_nil _).symm
  | cons d ds ih =>
    show queueOf (feed (setQueue c d.1 (queueOf c d.1 ++ [t])) ds t) k = _
    rw [ih, queueOf_setQueue]
    by_cases hk : d.1 = k
    · rw [if_pos hk.symm, List.countP_cons_of_pos (by simpa using hk), List.append_assoc, List.singleton_append, ← List.replicate_succ, hk]
    · rw [if_neg (Ne.symm hk), List.countP_cons_of_neg (by simpa using hk)]

section
variable (c : Ctx)

theorem checkOf_moveCheck {key k : Nat} (t : Token) (h : k ≠ key) : checkOf (moveCheck c key t) k = checkOf c k := by
  unfold moveCheck
  split
  · rfl
  · exact tabGet_put_ne _ _ _ h

/-- A head consumed changes queues, checkers, positions and delay lines alone: its queue loses the head, and no other checker moves. -/
theorem takeTok_eq (e slot : Nat) : ∃ qs ks ns ds,
    takeTok c e slot = { c with fab.queues := qs, fab.checks := ks, fab.counts := ns, fab.delays := ds }
    ∧ (∀ k, tabGet [] qs k = (queueOf c k).drop (if k = inKey e slot then 1 else 0))
    ∧ ∀ k, k ≠ inKey e slot → tabGet Check.zero ks k = checkOf c k := by
  unfold takeTok
  split
  next hempty =>
    refine ⟨_, _, _, _, rfl, fun k => ?_, fun _ _ => rfl⟩
    by_cases hk : k = inKey e slot
    · rw [hk, if_pos rfl, hempty]
      exact hempty
    · rw [if_neg hk]
      rfl
  next t ts hhead =>
    have hset : ∀ k, queueOf (setQueue c (inKey e slot) ts) k = (queueOf c k).drop (if k = inKey e slot then 1 else 0) := fun k => by
      rw [queueOf_setQueue]
      by_cases hk : k = inKey e slot
      · rw [if_pos hk, if_pos hk, hk, hhead]
        rfl
      · rw [if_neg hk, if_neg hk]
        rfl
    obtain ⟨ds, hds⟩ := moveLine_eq (setQueue c (inKey e slot) ts) e slot t
    dsimp only
    rw [hds]
    split
    · obtain ⟨ks, hks⟩ := moveCheck_eq (countTok { setQueue c (inKey e slot) ts with fab.delays := ds } (inKey e slot) t) (inKey e slot) t
      refine ⟨_, ks, _, _, hks, hset, fun k hk => ?_⟩
      have hcheck := checkOf_moveCheck (countTok { setQueue c (inKey e slot) ts with fab.delays := ds } (inKey e slot) t) t hk
      rw [hks] at hcheck
      exact hcheck
    · exact ⟨_, _, _, _, rfl, hset, fun _ _ => rfl⟩

end

end Sys2Proof.Machine

end

section
/-! PROOFS. Tokens that leave (O48): the move of an element that passes on one token. -/

namespace Sys2Proof.Machine

open Sys2Proof.Claims

/-! ## Modules between which only tokens have moved -/

/-- Nothing differs but the tokens of the context in focus, what is counted of them, and the packets. -/
structure TokensOnly (s u : State) : Prop where
  frame : { u with me.fab := s.me.fab, me.perf := s.me.perf, me.work := s.me.work, net := s.net } = s
  fab : quietFab u.me.fab = quietFab s.me.fab

theorem TokensOnly.refl (s : State) : TokensOnly s s := ⟨rfl, rfl⟩

theorem TokensOnly.trans {s t u : State} (h : TokensOnly s t) (h' : TokensOnly t u) : TokensOnly s u :=
  ⟨(congrArg (fun x => { x with me.fab := s.me.fab, me.perf := s.me.perf, me.work := s.me.work, net := s.net }) h'.frame).trans h.frame,
    h'.fab.trans h.fab⟩

theorem tokensOnly_of_ctx {s : State} {c : Ctx} (h : TokensMove s.me c) : TokensOnly s { s with me := c } :=
  ⟨congrArg (fun x => { s with me := { x with perf := s.me.perf, work := s.me.work } }) h.frame, h.fab⟩

section
variable {s u : State} (h : TokensOnly s u)
include h

theorem TokensOnly.quiet : quiet u = quiet s := by
  have hblank : Machine.quiet u = Machine.quiet { u with me.fab := s.me.fab, me.perf := s.me.perf, me.work := s.me.work, net := s.net } := by
    unfold Machine.quiet quietCtx
    rw [h.fab]
  rw [hblank, h.frame]

theorem TokensOnly.moves (e : Nat) : moves u e = moves s e := moves_congr h.quiet e

theorem TokensOnly.id : u.me.id = s.me.id := (congrArg (fun x : State => x.me.id) h.frame :)
theorem TokensOnly.cores : u.cores = s.cores := (congrArg State.cores h.frame :)
theorem TokensOnly.win : u.win = s.win := (congrArg State.win h.frame :)
theorem TokensOnly.regs : u.me.regs = s.me.regs := (congrArg (fun x : State => x.me.regs) h.frame :)
theorem TokensOnly.cfg : u.me.fab.cfg = s.me.fab.cfg := (congrArg Fabric.cfg h.fab :)
theorem TokensOnly.ports : u.me.fab.ports = s.me.fab.ports := (congrArg Fabric.ports h.fab :)

end

/-! ### What a send port asks of the module -/

theorem namedCtx_quiet (s : State) : namedCtx (quiet s) = namedCtx s := by
  funext part idx kctx
  unfold namedCtx
  simp only [findCtx_quiet, Option.isSome_map]
  rfl

theorem meterLimit_quiet (s : State) (e : Nat) : meterLimit (quiet s) e = meterLimit s e := by
  unfold meterLimit
  simp only [namedCtx_quiet]
  rfl

theorem meterOpen_congr {s u : State} (hquiet : quiet u = quiet s) (hm : u.me.fab.meters = s.me.fab.meters) (e port : Nat) :
    meterOpen u e port = meterOpen s e port := by
  have hlimit : meterLimit u e = meterLimit s e := by rw [← meterLimit_quiet u, hquiet, meterLimit_quiet]
  have hktime : u.ktime = s.ktime := (congrArg State.ktime hquiet :)
  unfold meterOpen
  rw [hlimit, hm, hktime]

section
variable {s u : State} (h : TokensOnly s u)
include h

theorem TokensOnly.namedCtx : namedCtx u = namedCtx s := by
  rw [← namedCtx_quiet u, h.quiet, namedCtx_quiet]

theorem TokensOnly.isActive (id : CtxId) : isActive u id = isActive s id := by
  unfold Machine.isActive setState coreRec
  rw [h.cores]

theorem TokensOnly.isPlaced (id : CtxId) : isPlaced u id = isPlaced s id := by
  unfold Machine.isPlaced coreRec
  rw [h.cores]

theorem TokensOnly.pathOwned (part : BitVec 7) (path : List Nat) : pathOwned u part path = pathOwned s part path := by
  have hquiet : ∀ x : State, Machine.pathOwned (Machine.quiet x) part path = Machine.pathOwned x part path := fun _ => rfl
  rw [← hquiet u, h.quiet, hquiet]

/-- A receiver stands as it did, but for tokens. -/
theorem TokensOnly.findCtx {id : CtxId} {dst : Ctx} (hfind : findCtx s id = some dst) :
    ∃ dst', findCtx u id = some dst' ∧ quietCtx dst' = quietCtx dst := by
  have hmap : (Machine.findCtx u id).map quietCtx = some (quietCtx dst) := by
    rw [← findCtx_quiet, h.quiet, findCtx_quiet, hfind]
    rfl
  simpa [Option.map_eq_some_iff] using hmap

theorem TokensOnly.logFull (hnet : u.net = s.net) {dst dst' : Ctx} (hdst : quietCtx dst' = quietCtx dst) : logFull u dst' = logFull s dst := by
  have hquiet : ∀ (x : State) (c : Ctx), logCount (Machine.quiet x) (quietCtx c) = logCount x c := fun x c => by
    unfold logCount
    have harea : areaOf (quietCtx c) = areaOf c := by unfold areaOf; rfl
    rw [harea]
    rfl
  have hcount : logCount u dst' = logCount s dst := by rw [← hquiet u, h.quiet, hdst, hquiet]
  have hid : dst'.id = dst.id := (congrArg Ctx.id hdst :)
  unfold Machine.logFull
  rw [hcount, hnet, hid]

end

/-! ## The firing of an element that passes a token on -/

/-- The state of a firing that takes the head of input 0. -/
def passing (s : State) (e : Nat) : State := countFiring (consume (acting s e) e [0]) e

theorem countFiring_eq (s : State) (e : Nat) : ∃ ps w fs, countFiring s e = { s with me.perf := ps, me.work := w, me.fab.fired := fs }
    ∧ (isRouter e = true → countFiring s e = s) := by
  unfold countFiring countWork
  split
  · exact ⟨_, _, _, rfl, fun _ => rfl⟩
  next h => dsimp only; split_ifs <;> exact ⟨_, _, _, rfl, fun hr => absurd hr h⟩

/-- What that state is to the one before the firing. -/
structure Passing (s : State) (e : Nat) (u : State) : Prop where
  only : TokensOnly s u
  net : u.net = s.net
  meters : u.me.fab.meters = (pulled s e).fab.meters
  turns : u.me.fab.turns = (pulled s e).fab.turns
  queue : ∀ k, queueOf u.me k = (queueOf (pulled s e) k).drop (if k = inKey e 0 then 1 else 0)
  check : checkOf u.me (inKey e 64) = checkOf (pulled s e) (inKey e 64)
  turn : turnHere u.me e 0 = turnHere (takeAll (pulled s e) e [0]) e 0

theorem tokensOnly_acting (s : State) (e : Nat) : TokensOnly s (acting s e) := tokensOnly_of_ctx (tokensMove_pulled s e)

theorem passing_spec {s : State} {e : Nat} (hsource : sourceOf (pulled s e) e 0 / 4096 ≠ 7) : Passing s e (passing s e) := by
  have htake : takeAll (pulled s e) e [0] = takeTok (pulled s e) e 0 := congrArg (fun x => takeAll x e []) (if_neg hsource)
  have hmove := (tokensMove_pulled s e).trans (tokensMove_takeTok (pulled s e) e 0)
  obtain ⟨ps, w, fs, hcount, hrouter⟩ := countFiring_eq (consume (acting s e) e [0]) e
  obtain ⟨qs, ks, ns, ds, htok, hqueue, hcheck⟩ := takeTok_eq (pulled s e) e 0
  have honly : TokensOnly s { s with me := takeTok (pulled s e) e 0 } := tokensOnly_of_ctx hmove
  have hconsume : consume (acting s e) e [0] = { s with me := takeTok (pulled s e) e 0 } := by
    rw [← htake]
    rfl
  have hturn : turnHere (passing s e).me e 0 = turnHere (takeAll (pulled s e) e [0]) e 0 := by
    cases hr : isRouter e with
    | true =>
      unfold passing
      rw [hrouter hr]
      rfl
    | false =>
      unfold turnHere
      simp [hr]
  refine ⟨?_, ?_, ?_, ?_, fun k => ?_, ?_, hturn⟩ <;> unfold passing <;> rw [hcount, hconsume]
  · exact honly.trans ⟨rfl, rfl⟩
  · rw [htok]
  · rw [htok]
  · rw [htok]; exact hqueue k
  · rw [htok]
    exact hcheck _ (by unfold inKey; omega)

/-! ### One output token placed -/

section
variable {s u v : State} {e : Nat} {o : Nat × Token}

theorem settle_fire_full (h : placeTok u e o = .full) : settle s e (.fire u [o]) = s := by
  unfold settle
  simp [placeAll, h]

theorem settle_fire_bad {input pos : Nat} {cause : BitVec 8} {value : Word} {check kind : BitVec 4} {fl : BitVec 5} {access : Option Trap}
    (h : placeTok u e o = .bad (.stop input pos cause value check kind fl access)) :
    settle s e (.fire u [o]) = haltGraph s e input pos cause value check kind := by
  unfold settle
  simp [placeAll, h]

theorem settle_fire_done (h : placeTok u e o = .done v) (he : e < 0xC0) (hsink : isSink s.me e = false) : settle s e (.fire u [o]) = v := by
  have hnone : accepted s.me v.me e = 0 := by
    unfold accepted
    have hengine : ¬ (0xC0 ≤ e ∧ e < 0xC4) := by omega
    have harray : e ≠ 0xC8 := by omega
    simp [hengine, harray, hsink]
  unfold settle
  simp only [placeAll, List.contains_nil, Bool.false_eq_true, if_false, h, hnone]
  rfl

end

/-- An element that feeds its send port is no sink. -/
theorem not_isSink_of_outSends {c : Ctx} {e : Nat} (h : outSends c e 0 = true) (hports : outPorts c e = [0]) (hfibre : isFibre e = false) :
    isSink c e = false := by
  have hfan : outOpen c e 0 = false := by
    unfold outOpen
    have hne : fanOf c e 0 ≠ 0#16 := fun hzero => by
      unfold outSends at h
      rw [hzero] at h
      exact absurd h (by decide)
    simp [hne]
  unfold isSink
  simp [hfibre, hports, hfan]

theorem countTurn_eq (c : Ctx) (e port : Nat) :
    ∃ ts, countTurn c e port = { c with fab.turns := ts } ∧ (isRouter e = false → ts = c.fab.turns) := by
  unfold countTurn
  split
  · exact ⟨_, rfl, fun _ => rfl⟩
  next h =>
    have hr : isRouter e ≠ false := by simpa using h
    split
    · exact ⟨_, rfl, fun hf => absurd hf hr⟩
    · exact ⟨_, rfl, fun _ => rfl⟩

/-- A context whose checker and turns have seen a token, which stands behind the links of a list. -/
def sentCtx (c : Ctx) (e : Nat) (ds : List (Nat × Nat)) (t : Token) : Ctx :=
  countTurn (feed (countTok (moveCheck c (inKey e 64) t) (inKey e 64) t) ds t) e 0

theorem tokensMove_sentCtx (c : Ctx) (e : Nat) (ds : List (Nat × Nat)) (t : Token) : TokensMove c (sentCtx c e ds t) :=
  (((tokensMove_moveCheck ..).trans (tokensMove_countTok ..)).trans (tokensMove_feed ..)).trans (tokensMove_countTurn ..)

theorem queueOf_sentCtx (c : Ctx) (e : Nat) (ds : List (Nat × Nat)) (t : Token) (k : Nat) :
    queueOf (sentCtx c e ds t) k = queueOf c k ++ List.replicate (ds.countP (fun d => d.1 = k)) t := by
  obtain ⟨ks, hks⟩ := moveCheck_eq c (inKey e 64) t
  unfold sentCtx
  obtain ⟨ts, hts, -⟩ := countTurn_eq (feed (countTok (moveCheck c (inKey e 64) t) (inKey e 64) t) ds t) e 0
  rw [hts]
  refine (queueOf_feed t k ds _).trans ?_
  rw [hks]
  rfl

theorem turns_sentCtx (c : Ctx) (e : Nat) (ds : List (Nat × Nat)) (t : Token) (h : isRouter e = false) :
    (sentCtx c e ds t).fab.turns = c.fab.turns := by
  obtain ⟨ks, hks⟩ := moveCheck_eq c (inKey e 64) t
  unfold sentCtx
  obtain ⟨ts, hts, hkeep⟩ := countTurn_eq (feed (countTok (moveCheck c (inKey e 64) t) (inKey e 64) t) ds t) e 0
  obtain ⟨qs, hqs⟩ := feed_eq ds t (countTok (moveCheck c (inKey e 64) t) (inKey e 64) t)
  rw [hts]
  refine (hkeep h).trans ?_
  rw [hqs, hks]
  rfl

/-- Whether the tokens of a send port can be placed: room behind every link, and its turn there. -/
structure CanPlace (u : State) (e : Nat) (t : Token) : Prop where
  room : haveRoom u.me (outDests u.me e 0) = true
  turn : turnHere u.me e 0 = true
  sends : outSends u.me e 0 = true
  check : ∃ k, checkTok (checkOf u.me (inKey e 64)) t = .ok k

section
variable {u v : State} {e : Nat} {t : Token}

theorem placeTok_no_room (h : haveRoom u.me (outDests u.me e 0) = false) : placeTok u e (0, t) = .full := by
  unfold placeTok
  simp [h]

variable (h : CanPlace u e t)
include h

theorem placeTok_full (hsend : sendToken u e t = .full) : placeTok u e (0, t) = .full := by
  obtain ⟨k, hk⟩ := h.check
  unfold placeTok
  simp [h.room, h.turn, h.sends, hk, hsend]

theorem placeTok_bad {a : Act} (hsend : sendToken u e t = .bad a) : placeTok u e (0, t) = .bad a := by
  obtain ⟨k, hk⟩ := h.check
  unfold placeTok
  simp [h.room, h.turn, h.sends, hk, hsend]

/-- A token that has left at the send port stands behind the links of its output. -/
theorem placeTok_done (hsend : sendToken u e t = .done v) : ∃ w, placeTok u e (0, t) = .done w ∧ TokensOnly v w ∧ w.net = v.net
    ∧ (∀ k, queueOf w.me k = queueOf v.me k ++ List.replicate ((outDests u.me e 0).countP (fun d => d.1 = k)) t)
    ∧ (isRouter e = false → w.me.fab.turns = v.me.fab.turns) := by
  obtain ⟨k, hk⟩ := h.check
  have hplaced : placeTok u e (0, t) = .done (if t.kind = 15#4 ∧ (isSink u.me e ∨ outSends u.me e 0)
      then sinkDone { v with me := sentCtx v.me e (outDests u.me e 0) t } (e * 4) else { v with me := sentCtx v.me e (outDests u.me e 0) t }) := by
    unfold placeTok
    simp only [h.room, h.turn, h.sends, hk, hsend]
    rfl
  have hmove := tokensMove_sentCtx v.me e (outDests u.me e 0) t
  have honly := tokensOnly_of_ctx hmove
  have hqueue := queueOf_sentCtx v.me e (outDests u.me e 0) t
  have hturns := turns_sentCtx v.me e (outDests u.me e 0) t
  refine ⟨_, hplaced, ?_⟩
  split
  · exact ⟨honly.trans ⟨rfl, rfl⟩, rfl, hqueue, hturns⟩
  · exact ⟨honly, rfl, hqueue, hturns⟩

end

/-! ### A token at its send port (11 R264, 13 R311) -/

/-- What a send leaves of the state before it, but for the packet. -/
structure Leaves (u v : State) : Prop where
  only : TokensOnly u v
  queues : v.me.fab.queues = u.me.fab.queues
  turns : v.me.fab.turns = u.me.fab.turns

/-- A packet on the network, counted at its port. -/
def sent (u : State) (port : Nat) (p : Packet) : State := meterCount { u with net := u.net ++ [p] } port

theorem leaves_sent (u : State) (port : Nat) (p : Packet) : Leaves u (sent u port p) := ⟨⟨rfl, rfl⟩, rfl, rfl⟩

/-- A closed send port: the graph of its element halts with cause 0x10 and the number of the port (log 35). -/
def closedPort (u : State) (e n : Nat) : Act := .stop 3 (posOf u.me (inKey e 64)) 0x10 (BitVec.ofNat 64 n) 0 0 0 none

section
variable {u : State} {e n : Nat} {t : Token} (hport : sendPort u.me e = some n)
include hport

theorem sendToken_checked (hch : portField u.me n 3 / 256 % 2 = 1) (ht : t.isData = false) : sendToken u e t = .done u := by
  unfold sendToken
  simp [hport, hch, ht]

variable (hleave : portField u.me n 3 / 256 % 2 = 1 → t.isData = true)
include hleave

omit hport in
theorem not_checked_only : (decide (portField u.me n 3 / 256 % 2 = 1) && !t.isData) = false := by
  by_cases hch : portField u.me n 3 / 256 % 2 = 1
  · rw [hleave hch, Bool.not_true, Bool.and_false]
  · rw [decide_eq_false hch, Bool.false_and]

theorem sendToken_metered (hmeter : meterOpen u e (16 + n) = false) : sendToken u e t = .full := by
  unfold sendToken
  simp only [hport, not_checked_only hleave, hmeter]
  rfl

variable (hmeter : meterOpen u e (16 + n) = true)
include hmeter

theorem sendToken_unnamed (hname : namedCtx u u.me.id.part (portField u.me n 1) (BitVec.ofNat 16 (portField u.me n 2)) = none) :
    sendToken u e t = .bad (closedPort u e n) := by
  unfold sendToken
  simp only [hport, not_checked_only hleave, hmeter, hname]
  rfl

variable {id : CtxId} {dst : Ctx} (hname : namedCtx u u.me.id.part (portField u.me n 1) (BitVec.ofNat 16 (portField u.me n 2)) = some id)
  (hdst : findCtx u id = some dst)
include hname hdst

theorem sendToken_away (haway : (!isPlaced u id && !isActive u id) = true) : sendToken u e t = .full := by
  unfold sendToken
  simp only [hport, not_checked_only hleave, hmeter, hname, hdst, haway]
  rfl

variable (hthere : (!isPlaced u id && !isActive u id) = false)
include hthere

omit hleave in
theorem sendToken_refused (hch : ¬ portField u.me n 3 / 256 % 2 = 1)
    (hclosed : (isActive u id && !receives dst (BitVec.ofNat 6 (portField u.me n 3)).toNat) = true) : sendToken u e t = .bad (closedPort u e n) := by
  unfold sendToken
  simp only [hport, hmeter, hname, hdst, hthere, decide_eq_false hch, hclosed]
  rfl

theorem sendToken_waits (hch : portField u.me n 3 / 256 % 2 = 1) (hword : wordAtSource u u.me.id = true) : sendToken u e t = .full := by
  unfold sendToken
  simp only [hport, hleave hch, hmeter, hname, hdst, hthere, decide_eq_true hch, hword]
  rfl

variable (hpath : pathOwned u u.me.id.part (corePath u.me.id.core id.core) = true)
include hpath

theorem sendToken_word (hch : portField u.me n 3 / 256 % 2 = 1) (hword : wordAtSource u u.me.id = false) :
    sendToken u e t = .done (sent u (16 + n) ⟨u.me.id, u.me.id.part, .word id (BitVec.ofNat 6 (portField u.me n 3)) t.val,
      corePath u.me.id.core id.core, none, 0⟩) := by
  unfold sendToken sendPacket
  simp only [hport, hleave hch, hmeter, hname, hdst, hthere, decide_eq_true hch, hword, hpath]
  rfl

omit hleave in
theorem sendToken_token (hch : ¬ portField u.me n 3 / 256 % 2 = 1)
    (hopen : (isActive u id && !receives dst (BitVec.ofNat 6 (portField u.me n 3)).toNat) = false)
    (hroom : (portBusy u e || (!isActive u id && logFull u dst)) = false) :
    sendToken u e t = .done (sent u (16 + n) ⟨u.me.id, u.me.id.part,
      .token u.me.id (BitVec.ofNat 10 e) id (BitVec.ofNat 6 (portField u.me n 3)) t, corePath u.me.id.core id.core, none, 0⟩) := by
  unfold sendToken sendPacket
  simp only [hport, hmeter, hname, hdst, hthere, decide_eq_false hch, hopen, hroom, hpath]
  rfl

end

/-! ### The move of ROUTE and PASS -/

section
variable {s : State} {e : Nat}

/-- An element that moves is of an Active context and of a graph that runs or drains. -/
theorem moves_spec (h : moves s e = true) : isActive s s.me.id = true ∧ ∃ ref g, graphAt s e = some (ref, g) ∧ g.state ≠ 2#2 := by
  unfold moves at h
  simp only [Bool.and_eq_true] at h
  obtain ⟨⟨⟨hactive, -⟩, hgraph⟩, -⟩ := h
  refine ⟨hactive, ?_⟩
  cases hat : graphAt s e with
  | none => rw [hat] at hgraph; cases hgraph
  | some x =>
    obtain ⟨ref, g⟩ := x
    rw [hat] at hgraph
    refine ⟨ref, g, rfl, fun hhalt => ?_⟩
    simp [hhalt] at hgraph

theorem marked_of_graphAt {ref : GRef} {g : Graph} (h : graphAt s e = some (ref, g)) :
    tabFind s.me.fab.marks e = some ref ∧ graphOf s ref = some g := by
  unfold graphAt at h
  obtain ⟨ref', hmark, hmap⟩ := Option.bind_eq_some_iff.mp h
  obtain ⟨g', hg, heq⟩ := Option.map_eq_some_iff.mp hmap
  obtain ⟨rfl, rfl⟩ := Prod.mk.inj heq
  exact ⟨hmark, hg⟩

/-- A move in which the element fires. -/
theorem moveElem_fires {act : State → Act} {t : State} {outs : List (Nat × Token)} (hmoves : moves s e = true) (hpend : pending s.me e = false)
    (hact : act (acting s e) = .fire t outs) : moveElem s e ((elemNeeds s.me e).map (sourceOf s.me e)) act
      = forwardElem (settle (acting s e) e (.fire (countFiring t e) outs)) e := by
  obtain ⟨hactive, ref, g, hat, -⟩ := moves_spec hmoves
  obtain ⟨hmark, -⟩ := marked_of_graphAt hat
  have hact' : act { s with me := pullPorts (forwardBuf s.me e) ((elemNeeds s.me e).map (sourceOf s.me e)) } = .fire t outs := hact
  unfold moveElem
  simp only [hactive, hmark, hpend, hmoves, hact']
  rfl

theorem forwardElem_moving (h : moves s e = true) : forwardElem s e = { s with me := forwardBuf s.me e } := if_pos h
theorem forwardElem_still (h : moves s e = false) : forwardElem s e = s := if_neg (by simp [h])

end

/-- An element that passes the head of input 0 on at output 0. -/
structure PassesOn (i : Instr) (s : State) (e : Nat) (t : Token) : Prop where
  runs : exec i s = .next (forwardElem (settle (acting s e) e (.fire (passing s e) [(0, t)])) e)
  moves : moves s e = true
  source : sourceOf (pulled s e) e 0 / 4096 ≠ 7
  low : e < 0xC0
  ports : outPorts (pulled s e) e = [0]
  fibre : isFibre e = false

theorem passesOn_route {s : State} {i : BitVec 6} {t : Token} (hstands : Stands s (0x80 + i.toNat) 1)
    (hhead : headsOf (pulled s (0x80 + i.toNat)) (0x80 + i.toNat) [0] = .ok [(0, some t)])
    (hsource : sourceOf (pulled s (0x80 + i.toNat)) (0x80 + i.toNat) 0 / 4096 ≠ 7) : PassesOn (.route i) s (0x80 + i.toNat) t := by
  obtain ⟨hmoves, hop, hpend⟩ := hstands
  have hi := i.isLt
  have hact : actRoute (0x80 + i.toNat) (acting s (0x80 + i.toNat)) = .fire (consume (acting s (0x80 + i.toNat)) (0x80 + i.toNat) [0]) [(0, t)] := by
    unfold actRoute withHead acting
    simp only [hhead]
  have hfibre : isFibre (0x80 + i.toNat) = false := by simp [isFibre]; omega
  refine ⟨?_, hmoves, hsource, by omega, ?_, hfibre⟩
  · show execRoute i s = _
    unfold execRoute routerMove moveOp routerElem
    rw [if_pos hop]
    exact congrArg _ (moveElem_fires hmoves hpend hact)
  · unfold outPorts
    rw [opOf_congr (tokensMove_pulled s _).cfg, hop]
    simp [hfibre]

theorem passesOn_pass {s : State} {i : BitVec 6} {t : Token} (hstands : Stands s i.toNat 1)
    (hhead : headsOf (pulled s i.toNat) i.toNat [0] = .ok [(0, some t)])
    (hsource : sourceOf (pulled s i.toNat) i.toNat 0 / 4096 ≠ 7) : PassesOn (.cellPass i) s i.toNat t := by
  obtain ⟨hmoves, hop, hpend⟩ := hstands
  have hi := i.isLt
  have hop' : opOf (pulled s i.toNat) i.toNat = 1 := by rw [opOf_congr (tokensMove_pulled s _).cfg, hop]
  have hact : actPass i.toNat (acting s i.toNat) = .fire (consume (acting s i.toNat) i.toNat [0]) [(0, t)] := by
    unfold actPass takeCell acting
    simp only [hhead, hop']
    rfl
  have hfibre : isFibre i.toNat = false := by simp [isFibre]; omega
  have hrouter : isRouter i.toNat = false := by simp [isRouter]; omega
  refine ⟨?_, hmoves, hsource, by omega, ?_, hfibre⟩
  · show execCellPass i s = _
    unfold execCellPass cellMove moveOp
    rw [if_pos hop]
    exact congrArg _ (moveElem_fires hmoves hpend hact)
  · unfold outPorts
    simp [hfibre, hrouter]

/-! ### A graph that halts (15 R344, R347) -/

/-- A halted graph in the context that issued its GO. -/
def haltedIn (ref : GRef) (f : FaultItem) (g : Graph) (c : Ctx) : Ctx :=
  queueFault f { c with fab.graphs := tabInsert c.fab.graphs ref.gid.toNat g }

theorem queueFault_eq (f : FaultItem) (c : Ctx) : ∃ fs tab, queueFault f c = { c with faults := fs, htab := tab } := by
  unfold queueFault
  dsimp only
  split
  · exact ⟨_, _, rfl⟩
  · exact ⟨_, _, rfl⟩

/-- A context in which a graph has been halted keeps its number, registers, queues and marks. -/
theorem haltedIn_eq (ref : GRef) (f : FaultItem) (g : Graph) (c : Ctx) : ∃ fs tab,
    haltedIn ref f g c = { c with faults := fs, htab := tab, fab.graphs := tabInsert c.fab.graphs ref.gid.toNat g } := by
  obtain ⟨fs, tab, h⟩ := queueFault_eq f { c with fab.graphs := tabInsert c.fab.graphs ref.gid.toNat g }
  exact ⟨fs, tab, h⟩

theorem findCtx_id {s : State} {id : CtxId} {c : Ctx} (h : findCtx s id = some c) : c.id = id ∧ (rawCtx s id).isSome = true := by
  obtain ⟨x, hx, hid, -⟩ := findCtx_regs h
  exact ⟨hid.trans (rawCtx_id hx), by rw [hx]; rfl⟩

theorem updCtx_eq {s : State} {id : CtxId} {c : Ctx} (f : Ctx → Ctx) (h : findCtx s id = some c) :
    ∃ m, updCtx s id f = putCtx { s with mem := m } id (f c) := by
  unfold updCtx
  rw [h]
  dsimp only
  split
  · exact ⟨_, rfl⟩
  · exact ⟨s.mem, rfl⟩

theorem putCtx_me (s : State) (id : CtxId) (c : Ctx) : (putCtx s id c).me = if s.me.id = id then c else s.me := by
  unfold putCtx
  split <;> rfl

theorem graphOf_putCtx {s : State} {ref : GRef} {c : Ctx} (hc : c.id = ownerOf s ref) (hraw : (rawCtx s (ownerOf s ref)).isSome = true) :
    graphOf (putCtx s (ownerOf s ref) c) ref = tabFind c.fab.graphs ref.gid.toNat := by
  obtain ⟨k, hk⟩ := Option.isSome_iff_exists.mp hraw
  have howner : ownerOf (putCtx s (ownerOf s ref) c) ref = ownerOf s ref :=
    congrArg (fun id : CtxId => ({ core := ref.core, part := id.part, kctx := id.kctx } : CtxId)) (putCtx_me_id hc)
  have hput : rawCtx (putCtx s (ownerOf s ref) c) (ownerOf s ref) = some c := by
    rw [rawCtx_putCtx hc, if_pos rfl, hk]
    rfl
  unfold graphOf findCtx
  rw [howner, hput]
  split <;> rfl

/-- A graph halted where it stands: found as written, with the queues, marks, window bytes and registers of the context in focus as they were. -/
theorem halted_spec {s : State} {ref : GRef} {g g' : Graph} (f : FaultItem) (harea : inArea s s.me.id = false) (hg : graphOf s ref = some g) :
    let u := updCtx s (ownerOf s ref) (haltedIn ref f g')
    graphOf u ref = some g' ∧ u.me.fab.marks = s.me.fab.marks ∧ u.me.fab.queues = s.me.fab.queues ∧ u.win = s.win ∧ u.me.regs = s.me.regs := by
  obtain ⟨c, hfind, -⟩ := Option.bind_eq_some_iff.mp hg
  obtain ⟨hcid, hraw⟩ := findCtx_id hfind
  obtain ⟨fs, tab, hhalt⟩ := haltedIn_eq ref f g' c
  obtain ⟨m, hput⟩ := updCtx_eq (haltedIn ref f g') hfind
  have hid : (haltedIn ref f g' c).id = ownerOf s ref := by rw [hhalt]; exact hcid
  dsimp only
  rw [hput]
  refine ⟨?_, ?_⟩
  · refine (graphOf_putCtx (s := { s with mem := m }) hid hraw).trans ?_
    rw [hhalt]
    exact tabFind_insert_self ..
  · rw [putCtx_win, putCtx_me]
    split
    next hme =>
      have hme' : s.me.id = ownerOf s ref := hme
      have hself : c = s.me := by
        rw [← hme', findCtx_me harea] at hfind
        exact (Option.some.inj hfind).symm
      rw [hhalt, hself]
      exact ⟨rfl, rfl, rfl, rfl⟩
    next => exact ⟨rfl, rfl, rfl, rfl⟩

theorem haltsGraph_of_exec {i : Instr} {s : State} {e input pos : Nat} {cause : BitVec 8} {value : Word} {check kind : BitVec 4}
    (hmoves : moves s e = true) (hexec : exec i s = .next (forwardElem (haltGraph (acting s e) e input pos cause value check kind) e)) :
    HaltsGraph i s e cause value := by
  have honly := tokensOnly_acting s e
  rw [← honly.moves e] at hmoves
  obtain ⟨hactive, ref, g, hat, hrun⟩ := moves_spec hmoves
  obtain ⟨hmark, hg⟩ := marked_of_graphAt hat
  obtain ⟨g', f, hstate, hcause, hvalue, hhalt⟩ : ∃ (g' : Graph) (f : FaultItem), g'.state = 2#2 ∧ g'.cause = cause ∧ g'.value = value
      ∧ haltGraph (acting s e) e input pos cause value check kind = updCtx (acting s e) (ownerOf (acting s e) ref) (haltedIn ref f g') := by
    unfold haltGraph
    rw [hat]
    dsimp only
    rw [if_neg hrun]
    exact ⟨_, _, rfl, rfl, rfl, rfl⟩
  obtain ⟨hfound, hmarks, hqueues, hwin, hregs⟩ := halted_spec (g' := g') f (not_inArea_of_active hactive) hg
  rw [← hhalt] at hfound hmarks hqueues hwin hregs
  generalize haltGraph (acting s e) e input pos cause value check kind = u at hexec hfound hmarks hqueues hwin hregs
  have hat' : graphAt u e = some (ref, g') := by
    unfold graphAt
    rw [hmarks, hmark]
    simp [hfound]
  have hstill : moves u e = false := by
    cases hm : moves u e with
    | false => rfl
    | true =>
      obtain ⟨-, ref', g'', hat'', hrun'⟩ := moves_spec hm
      rw [hat'] at hat''
      obtain ⟨-, rfl⟩ := Prod.mk.inj (Option.some.inj hat'')
      exact absurd hstate hrun'
  rw [forwardElem_still hstill] at hexec
  exact ⟨u, ref, g', hexec, hat', hstate, hcause, hvalue, fun k => congrArg (tabGet [] · k) hqueues,
    hwin.trans honly.win, hregs.trans honly.regs⟩

/-! ### What becomes of the token -/

/-- The token has left: its input has lost it, it stands behind the links of output 0, the router buffer has gone on, and nothing but tokens and what
counts them has changed. -/
def TokenLeft (s : State) (e : Nat) (t : Token) (u : State) : Prop :=
  { u with me.fab := s.me.fab, me.perf := s.me.perf, me.work := s.me.work, net := s.net, parts := s.parts } = s
  ∧ Forwarded (pulled s e) e (fun k => (queueOf (pulled s e) k).drop (if k = inKey e 0 then 1 else 0)
      ++ List.replicate ((outDests (pulled s e) e 0).countP (fun d => d.1 = k)) t) u

section
variable {i : Instr} {s : State} {e : Nat} {t : Token} (h : PassesOn i s e t)
include h

theorem passesOn_held (hfull : placeTok (passing s e) e (0, t) = .full) : exec i s = .next { acting s e with me := forwardBuf (pulled s e) e } := by
  rw [h.runs, settle_fire_full hfull, forwardElem_moving ((tokensOnly_acting s e).moves e ▸ h.moves)]
  rfl

theorem passesOn_halts {n : Nat} (hbad : placeTok (passing s e) e (0, t) = .bad (closedPort (passing s e) e n)) :
    HaltsGraph i s e 0x10 (BitVec.ofNat 64 n) := by
  refine haltsGraph_of_exec h.moves (input := 3) (pos := posOf (passing s e).me (inKey e 64)) (check := 0) (kind := 0) ?_
  rw [h.runs, settle_fire_bad hbad]

theorem passesOn_outDests : outDests (passing s e).me = outDests (pulled s e) :=
  outDests_congr ((passing_spec h.source).only.cfg.trans (tokensMove_pulled s e).cfg.symm)

/-- A full queue behind the output, other than that of the input itself, holds the token. -/
theorem passesOn_full_queue (hfull : ∃ d ∈ outDests (pulled s e) e 0, d.1 ≠ inKey e 0 ∧ d.2 ≤ (queueOf (pulled s e) d.1).length) :
    exec i s = .next { acting s e with me := forwardBuf (pulled s e) e } := by
  obtain ⟨d, hd, hkey, hlen⟩ := hfull
  refine passesOn_held h (placeTok_no_room ?_)
  rw [passesOn_outDests h]
  refine Bool.eq_false_iff.mpr fun hroom => ?_
  have hlt := of_decide_eq_true (List.all_eq_true.mp hroom d hd)
  rw [(passing_spec h.source).queue, if_neg hkey, List.drop_zero] at hlt
  omega

theorem passesOn_left (hcan : CanPlace (passing s e) e t) {v : State} (hsend : sendToken (passing s e) e t = .done v) (hv : Leaves (passing s e) v) :
    ∃ u, exec i s = .next u ∧ TokenLeft s e t u ∧ u.net = v.net := by
  have hpass := passing_spec h.source
  obtain ⟨w, hplace, hwv, hnet, hqueue, hturns⟩ := placeTok_done hcan hsend
  have honly : TokensOnly s w := (hpass.only.trans hv.only).trans hwv
  have hsink : isSink (acting s e).me e = false := by
    refine not_isSink_of_outSends (c := pulled s e) ?_ h.ports h.fibre
    rw [← outSends_congr (hpass.only.cfg.trans (tokensMove_pulled s e).cfg.symm)]
    exact hcan.sends
  have hexec := h.runs
  rw [settle_fire_done hplace h.low hsink, forwardElem_moving ((honly.moves e).trans h.moves)] at hexec
  refine ⟨_, hexec, ⟨?_, w.me.fab.queues, w.me.fab.turns, fun k => ?_, fun hr => ?_, ?_, trivial⟩, hnet⟩
  · have hbuf : TokensOnly w { w with me := forwardBuf w.me e } := tokensOnly_of_ctx (tokensMove_forwardBuf w.me e)
    exact congrArg (fun x => { x with parts := s.parts }) (honly.trans hbuf).frame
  · refine (hqueue k).trans ?_
    rw [passesOn_outDests h]
    refine congrArg (· ++ _) (Eq.trans ?_ (hpass.queue k))
    unfold queueOf
    rw [hv.queues]
  · rw [hturns hr, hv.turns, hpass.turns]
  · have hframe := forwardBuf_frame w.me e
    exact (congrArg (forwardBuf · e) hframe).symm

end

/-! ### The send port, as it stands before the firing -/

/-- An element that passes a token on to its links and to its send port, with room and its turn at the links. -/
structure PortMove (i : Instr) (s : State) (e : Nat) (t : Token) (n : Nat) : Prop where
  passes : PassesOn i s e t
  room : ∀ d ∈ outDests (pulled s e) e 0, (queueOf (pulled s e) d.1).length < d.2
  turn : turnHere (takeAll (pulled s e) e [0]) e 0 = true
  sends : outSends (pulled s e) e 0 = true
  port : sendPort (pulled s e) e = some n
  check : ∃ k, checkTok (checkOf (pulled s e) (inKey e 64)) t = .ok k

section
variable {i : Instr} {s : State} {e : Nat} {t : Token} {n : Nat} (h : PortMove i s e t n)
include h

theorem portField_passing : portField (passing s e).me = portField (pulled s e) :=
  portField_congr ((passing_spec h.passes.source).only.ports.trans (tokensMove_pulled s e).ports.symm)

theorem sendPort_passing : sendPort (passing s e).me e = some n := by
  rw [sendPort_congr ((passing_spec h.passes.source).only.ports.trans (tokensMove_pulled s e).ports.symm)]
  exact h.port

theorem canPlace_passing : CanPlace (passing s e) e t := by
  have hpass := passing_spec h.passes.source
  refine ⟨?_, by rw [hpass.turn]; exact h.turn, ?_, by rw [hpass.check]; exact h.check⟩
  · refine List.all_eq_true.mpr fun d hd => decide_eq_true ?_
    rw [passesOn_outDests h.passes] at hd
    rw [hpass.queue, List.length_drop]
    exact Nat.lt_of_le_of_lt (Nat.sub_le ..) (h.room d hd)
  · rw [outSends_congr (hpass.only.cfg.trans (tokensMove_pulled s e).cfg.symm)]
    exact h.sends

theorem meterOpen_passing : meterOpen (passing s e) e (16 + n) = meterOpen (acting s e) e (16 + n) :=
  meterOpen_congr ((passing_spec h.passes.source).only.quiet.trans (tokensOnly_acting s e).quiet.symm) (passing_spec h.passes.source).meters e _

theorem namedCtx_passing : namedCtx (passing s e) (passing s e).me.id.part (portField (passing s e).me n 1)
      (BitVec.ofNat 16 (portField (passing s e).me n 2))
    = namedCtx s s.me.id.part (portField (pulled s e) n 1) (BitVec.ofNat 16 (portField (pulled s e) n 2)) := by
  rw [portField_passing h, (passing_spec h.passes.source).only.namedCtx, (passing_spec h.passes.source).only.id]

/-- At a port to a channel a token without data is done once checked (13 R311). -/
theorem port_checked (hch : portField (pulled s e) n 3 / 256 % 2 = 1) (ht : t.isData = false) :
    ∃ u, exec i s = .next u ∧ TokenLeft s e t u ∧ u.net = s.net := by
  rw [← portField_passing h] at hch
  obtain ⟨u, hu, hleft, hnet⟩ := passesOn_left h.passes (canPlace_passing h) (sendToken_checked (sendPort_passing h) hch ht) ⟨.refl _, rfl, rfl⟩
  exact ⟨u, hu, hleft, hnet.trans (passing_spec h.passes.source).net⟩

variable (hleave : portField (pulled s e) n 3 / 256 % 2 = 1 → t.isData = true)
include hleave

theorem leave_passing : portField (passing s e).me n 3 / 256 % 2 = 1 → t.isData = true := by
  rwa [portField_passing h]

theorem port_metered (hmeter : meterOpen (acting s e) e (16 + n) = false) :
    exec i s = .next { acting s e with me := forwardBuf (pulled s e) e } := by
  rw [← meterOpen_passing h] at hmeter
  exact passesOn_held h.passes (placeTok_full (canPlace_passing h) (sendToken_metered (sendPort_passing h) (leave_passing h hleave) hmeter))

variable (hmeter : meterOpen (acting s e) e (16 + n) = true)
include hmeter

theorem port_unnamed (hname : namedCtx s s.me.id.part (portField (pulled s e) n 1) (BitVec.ofNat 16 (portField (pulled s e) n 2)) = none) :
    HaltsGraph i s e 0x10 (BitVec.ofNat 64 n) := by
  rw [← meterOpen_passing h] at hmeter
  rw [← namedCtx_passing h] at hname
  exact passesOn_halts h.passes (placeTok_bad (canPlace_passing h) (sendToken_unnamed (sendPort_passing h) (leave_passing h hleave) hmeter hname))

end

/-- A receiver of a port move: the context that the port names. -/
structure PortTo (i : Instr) (s : State) (e : Nat) (t : Token) (n : Nat) (id : CtxId) (dst : Ctx) : Prop where
  move : PortMove i s e t n
  leave : portField (pulled s e) n 3 / 256 % 2 = 1 → t.isData = true
  meter : meterOpen (acting s e) e (16 + n) = true
  name : namedCtx s s.me.id.part (portField (pulled s e) n 1) (BitVec.ofNat 16 (portField (pulled s e) n 2)) = some id
  dst : findCtx s id = some dst

section
variable {i : Instr} {s : State} {e : Nat} {t : Token} {n : Nat} {id : CtxId} {dst : Ctx} (h : PortTo i s e t n id dst)
include h

/-- What the send port asks at the firing, of the receiver as it stands then. -/
theorem asked_passing : ∃ dst', quietCtx dst' = quietCtx dst ∧ findCtx (passing s e) id = some dst'
    ∧ meterOpen (passing s e) e (16 + n) = true
    ∧ namedCtx (passing s e) (passing s e).me.id.part (portField (passing s e).me n 1) (BitVec.ofNat 16 (portField (passing s e).me n 2)) = some id := by
  obtain ⟨dst', hdst, hsame⟩ := (passing_spec h.move.passes.source).only.findCtx h.dst
  exact ⟨dst', hsame, hdst, (meterOpen_passing h.move).trans h.meter, (namedCtx_passing h.move).trans h.name⟩

theorem place_passing : isPlaced (passing s e) id = isPlaced s id ∧ isActive (passing s e) id = isActive s id :=
  ⟨(passing_spec h.move.passes.source).only.isPlaced id, (passing_spec h.move.passes.source).only.isActive id⟩

theorem word_passing : wordAtSource (passing s e) (passing s e).me.id = wordAtSource s s.me.id := by
  unfold wordAtSource
  rw [(passing_spec h.move.passes.source).net, (passing_spec h.move.passes.source).only.id]

/-- A receiver that is neither placed nor Active holds the token (11 R264). -/
theorem port_away (haway : ¬ (isPlaced s id = true ∨ isActive s id = true)) :
    exec i s = .next { acting s e with me := forwardBuf (pulled s e) e } := by
  obtain ⟨dst', -, hdst, hmeter, hname⟩ := asked_passing h
  obtain ⟨hplaced, hactive⟩ := place_passing h
  refine passesOn_held h.move.passes (placeTok_full (canPlace_passing h.move)
    (sendToken_away (sendPort_passing h.move) (leave_passing h.move h.leave) hmeter hname hdst ?_))
  rw [hplaced, hactive]
  simpa using haway

variable (hthere : isPlaced s id = true ∨ isActive s id = true)
include hthere

theorem there_passing : (!isPlaced (passing s e) id && !isActive (passing s e) id) = false := by
  obtain ⟨hplaced, hactive⟩ := place_passing h
  rw [hplaced, hactive]
  obtain hp | ha := hthere
  · rw [hp]; rfl
  · rw [ha, Bool.not_true, Bool.and_false]

theorem port_word_waits (hch : portField (pulled s e) n 3 / 256 % 2 = 1) (hword : wordAtSource s s.me.id = true) :
    exec i s = .next { acting s e with me := forwardBuf (pulled s e) e } := by
  obtain ⟨dst', -, hdst, hmeter, hname⟩ := asked_passing h
  rw [← portField_passing h.move] at hch
  rw [← word_passing h] at hword
  exact passesOn_held h.move.passes (placeTok_full (canPlace_passing h.move)
    (sendToken_waits (sendPort_passing h.move) (leave_passing h.move h.leave) hmeter hname hdst (there_passing h hthere) hch hword))

/-- A receive port that is not open halts the graph (11 R264). -/
theorem port_closed (hch : ¬ portField (pulled s e) n 3 / 256 % 2 = 1) (hactive : isActive s id = true)
    (hclosed : portField dst (BitVec.ofNat 6 (portField (pulled s e) n 3)).toNat 3 / 64 % 4 ≠ 2) : HaltsGraph i s e 0x10 (BitVec.ofNat 64 n) := by
  obtain ⟨dst', hsame, hdst, hmeter, hname⟩ := asked_passing h
  have hports : dst'.fab.ports = dst.fab.ports := (congrArg (fun c : Ctx => c.fab.ports) hsame :)
  refine passesOn_halts h.move.passes (placeTok_bad (canPlace_passing h.move)
    (sendToken_refused (sendPort_passing h.move) hmeter hname hdst (there_passing h hthere) ?_ ?_))
  · rwa [portField_passing h.move]
  · rw [(place_passing h).2, hactive, portField_passing h.move]
    unfold receives
    rw [portField_congr hports]
    simpa using hclosed

variable (hpath : pathOwned s s.me.id.part (corePath s.me.id.core id.core) = true)
include hpath

/-- A value leaves at a port to a channel (13 R311). -/
theorem port_word (hch : portField (pulled s e) n 3 / 256 % 2 = 1) (hword : wordAtSource s s.me.id = false) :
    ∃ u, exec i s = .next u ∧ TokenLeft s e t u ∧ u.net = s.net ++ [Packet.mk s.me.id s.me.id.part
      (.word id (BitVec.ofNat 6 (portField (pulled s e) n 3)) t.val) (corePath s.me.id.core id.core) none 0] := by
  obtain ⟨dst', -, hdst, hmeter, hname⟩ := asked_passing h
  have hpass := passing_spec h.move.passes.source
  rw [← portField_passing h.move] at hch ⊢
  rw [← word_passing h] at hword
  rw [← hpass.only.pathOwned, ← hpass.only.id] at hpath
  rw [← hpass.only.id, ← hpass.net]
  exact passesOn_left h.move.passes (canPlace_passing h.move) (sendToken_word (sendPort_passing h.move) (leave_passing h.move h.leave) hmeter hname hdst
    (there_passing h hthere) hpath hch hword) (leaves_sent ..)

/-- A token leaves at a port to another fabric (11 R264). -/
theorem port_token (hch : ¬ portField (pulled s e) n 3 / 256 % 2 = 1)
    (hopen : isActive s id = true → portField dst (BitVec.ofNat 6 (portField (pulled s e) n 3)).toNat 3 / 64 % 4 = 2)
    (hbusy : portBusy s e = false) (hlog : isActive s id = false → logFull s dst = false) :
    ∃ u, exec i s = .next u ∧ TokenLeft s e t u ∧ u.net = s.net ++ [Packet.mk s.me.id s.me.id.part
      (.token s.me.id (BitVec.ofNat 10 e) id (BitVec.ofNat 6 (portField (pulled s e) n 3)) t) (corePath s.me.id.core id.core) none 0] := by
  obtain ⟨dst', hsame, hdst, hmeter, hname⟩ := asked_passing h
  have hpass := passing_spec h.move.passes.source
  have hports : dst'.fab.ports = dst.fab.ports := (congrArg (fun c : Ctx => c.fab.ports) hsame :)
  have hbusy' : portBusy (passing s e) e = false := by
    unfold portBusy
    rw [hpass.net, hpass.only.id]
    exact hbusy
  rw [← portField_passing h.move] at hch hopen ⊢
  rw [← hpass.only.pathOwned, ← hpass.only.id] at hpath
  rw [← hpass.only.id, ← hpass.net]
  refine passesOn_left h.move.passes (canPlace_passing h.move) (sendToken_token (sendPort_passing h.move) hmeter hname hdst
    (there_passing h hthere) hpath hch ?_ ?_) (leaves_sent ..)
  · rw [(place_passing h).2]
    cases ha : isActive s id with
    | false => rfl
    | true =>
      unfold receives
      rw [portField_congr hports, hopen ha]
      rfl
  · rw [hbusy', (place_passing h).2, hpass.only.logFull hpass.net hsame]
    cases ha : isActive s id with
    | true => rfl
    | false => rw [hlog ha]; rfl

end

end Sys2Proof.Machine

end

section
/-! PROOFS. Tokens that leave (O48): the events of the control network and of the links, and the statement. -/

namespace Sys2Proof.Machine

open Sys2Proof.Claims

/-! ## The control network of a router (11 R261) -/

/-- What a reader's source buffer and own buffer hold once it has taken its next token. -/
def takenCtl : List Bool → List Bool → List Bool × List Bool
  | [], own => ([], own)
  | b :: bs, own => if own.length < 2 then (bs, own ++ [b]) else (b :: bs, own)

/-- The two buffers of a reader. -/
def ctlBuffers (c : Ctx) (e : Nat) : List Bool × List Bool := (ctlOf c (ctlSource e), ctlOf c (ctlBuffer e))

theorem ctlOf_setCtl (c : Ctx) (key k : Nat) (q : List Bool) : ctlOf (setCtl c key q) k = if k = key then q else ctlOf c k := tabGet_put ..

theorem takeCtl_eq (c : Ctx) (e : Nat) : ∃ q, takeCtl c e = { c with fab.ctlq := q } := by
  unfold takeCtl
  split
  · exact ⟨_, rfl⟩
  · split <;> exact ⟨_, rfl⟩

/-- A reader that takes its token leaves the buffers of the others alone. -/
theorem ctlBuffers_takeCtl (c : Ctx) {e x : Nat} (he : e < 1024) (hx : x < 1024) :
    ctlBuffers (takeCtl c e) x = if x = e then takenCtl (ctlOf c (ctlSource e)) (ctlOf c (ctlBuffer e)) else ctlBuffers c x := by
  have hkeys : ctlSource x ≠ ctlBuffer e ∧ ctlBuffer x ≠ ctlSource e ∧ (ctlSource x = ctlSource e ↔ x = e)
      ∧ (ctlBuffer x = ctlBuffer e ↔ x = e) := by
    unfold ctlSource ctlBuffer
    omega
  obtain ⟨hsb, hbs, hss, hbb⟩ := hkeys
  unfold ctlBuffers takeCtl
  cases hsrc : ctlOf c (ctlSource e) with
  | nil =>
    by_cases h : x = e
    · subst h; simp [takenCtl, hsrc]
    · simp [h]
  | cons b bs =>
    dsimp only [takenCtl]
    split
    · simp only [ctlOf_setCtl, if_neg hsb, if_neg hbs, hss, hbb]
      split <;> rfl
    · by_cases h : x = e
      · subst h; simp [hsrc]
      · simp [h]

theorem foldl_takeCtl_eq (l : List Nat) (c : Ctx) : ∃ q, l.foldl takeCtl c = { c with fab.ctlq := q } := by
  induction l generalizing c with
  | nil => exact ⟨_, rfl⟩
  | cons e l ih =>
    obtain ⟨q, hq⟩ := takeCtl_eq c e
    obtain ⟨q', hq'⟩ := ih (takeCtl c e)
    exact ⟨q', by rw [List.foldl_cons, hq', hq]⟩

/-- Each reader of a list takes one token, the others none. -/
theorem ctlBuffers_foldl (l : List Nat) (c : Ctx) (hnodup : l.Nodup) (hlow : ∀ e ∈ l, e < 1024) {x : Nat} (hx : x < 1024) :
    ctlBuffers (l.foldl takeCtl c) x = if x ∈ l then takenCtl (ctlOf c (ctlSource x)) (ctlOf c (ctlBuffer x)) else ctlBuffers c x := by
  induction l generalizing c with
  | nil => rfl
  | cons e l ih =>
    obtain ⟨hnew, hnodup'⟩ := List.nodup_cons.mp hnodup
    have hone := ctlBuffers_takeCtl c (hlow e List.mem_cons_self) hx
    rw [List.foldl_cons, ih (takeCtl c e) hnodup' (fun y hy => hlow y (List.mem_cons_of_mem _ hy))]
    by_cases hxe : x = e
    · subst hxe
      rw [if_neg hnew, hone]
      simp
    · rw [if_neg hxe] at hone
      obtain ⟨hs, hb⟩ := Prod.mk.inj hone
      simp only [List.mem_cons, hxe, false_or, hs, hb, hone]

theorem elemList_nodup : elemList.Nodup := by
  refine List.Nodup.append List.nodup_range (List.nodup_range.map fun a b h => Nat.add_right_cancel h) fun e hlow hhigh => ?_
  obtain ⟨i, -, rfl⟩ := List.mem_map.mp hhigh
  exact absurd (List.mem_range.mp hlow) (by omega)

theorem elemList_low {e : Nat} (h : e ∈ elemList) : e < 1024 := by
  obtain h | h := List.mem_append.mp h
  · exact (List.mem_range.mp h).trans (by decide)
  · obtain ⟨i, hi, rfl⟩ := List.mem_map.mp h
    have := List.mem_range.mp hi
    omega

theorem ctlBuffers_readers (c : Ctx) (r : Nat) {x : Nat} (hx : x < 1024) : ctlBuffers ((ctlReaders c r).foldl takeCtl c) x
    = if x ∈ ctlReaders c r then takenCtl (ctlOf c (ctlSource x)) (ctlOf c (ctlBuffer x)) else ctlBuffers c x :=
  ctlBuffers_foldl _ c (elemList_nodup.filter _) (fun _ he => elemList_low (List.mem_filter.mp he).1) hx

/-- CONTROL_TOKEN_FORWARD. -/
theorem controlTokenForward_spec {s : State} (i : BitVec 6) (hactive : isActive s s.me.id = true) :
    ∃ u, exec (.controlTokenForward i) s = .next u ∧ { u with me.fab.ctlq := s.me.fab.ctlq } = s
      ∧ ∀ e < 1024, (∀ b bs, e ∈ ctlReaders s.me i.toNat → ctlOf s.me (ctlSource e) = b :: bs → (ctlOf s.me (ctlBuffer e)).length < 2 →
            ctlOf u.me (ctlSource e) = bs ∧ ctlOf u.me (ctlBuffer e) = ctlOf s.me (ctlBuffer e) ++ [b])
          ∧ (e ∉ ctlReaders s.me i.toNat ∨ ctlOf s.me (ctlSource e) = [] ∨ 2 ≤ (ctlOf s.me (ctlBuffer e)).length →
            ctlOf u.me (ctlSource e) = ctlOf s.me (ctlSource e) ∧ ctlOf u.me (ctlBuffer e) = ctlOf s.me (ctlBuffer e)) := by
  refine ⟨{ s with me := (ctlReaders s.me i.toNat).foldl takeCtl s.me }, ?_, ?_, fun e he => ⟨fun b bs hmem hsrc hroom => ?_, fun hstay => ?_⟩⟩
  · show Host.Outcome.next (if _ then _ else _) = _
    rw [if_pos hactive]
  · obtain ⟨q, hq⟩ := foldl_takeCtl_eq (ctlReaders s.me i.toNat) s.me
    rw [hq]
  · have hbuf := ctlBuffers_readers s.me i.toNat he
    rw [if_pos hmem, hsrc, takenCtl, if_pos hroom] at hbuf
    exact Prod.mk.inj hbuf
  · refine Prod.mk.inj ((ctlBuffers_readers s.me i.toNat he).trans ?_)
    by_cases hmem : e ∈ ctlReaders s.me i.toNat
    · rw [if_pos hmem]
      obtain hnot | hempty | hfull := hstay
      · exact absurd hmem hnot
      · rw [hempty]; rfl
      · cases hsrc : ctlOf s.me (ctlSource e) with
        | nil => rfl
        | cons b bs => rw [takenCtl, if_neg (Nat.not_lt.mpr hfull)]
    · rw [if_neg hmem]; rfl

/-! ## Links (11 R261, R266) -/

section
variable {s : State} {k l ch : Nat} {rest : List Nat} {p : Packet}

/-- An earlier packet of its flow has as much of the way before it. -/
def Behind (s : State) (k : Nat) (p : Packet) : Prop := ∃ q ∈ s.net.take k, sameFlow p q = true ∧ p.route.length ≤ q.route.length

theorem canCross_iff (hroute : p.route = l :: rest) : canCross s k p l ch = true ↔ tabGet 0 s.used (l * 16 + ch) < 16 ∧ ¬ Behind s k p := by
  unfold canCross Behind
  simp [hroute]

/-- The module once a packet has crossed. -/
def crossed (s : State) (k l ch : Nat) (rest : List Nat) (p : Packet) : State :=
  { s with net := s.net.set k { p with route := rest, link := some l, chan := ch },
           used := tabPut 0 s.used (l * 16 + ch) (tabGet 0 s.used (l * 16 + ch) + 1),
           vcTurn := tabPut 15 s.vcTurn (l * 128 + p.part.toNat) ch }

variable (hget : s.net[k]? = some p) (hroute : p.route = l :: rest)
include hget hroute

theorem mesh_no_channel (h : chanOf s p l = none) : exec (.meshTokenForward k) s = .next s := by
  show execMeshTokenForward k s = _
  unfold execMeshTokenForward
  simp only [hget, hroute, h]

variable (hch : chanOf s p l = some ch)
include hch

theorem mesh_with_channel : exec (.meshTokenForward k) s =
    .next (if tabGet 0x40#7 s.links (l * 64 + s.ktime.toNat % 64) = p.part ∧ canCross s k p l ch ∧ chanTurn s p.part l ch
      then crossed s k l ch rest p else s) := by
  show execMeshTokenForward k s = _
  unfold execMeshTokenForward
  simp only [hget, hroute, hch]
  rw [apply_ite Host.Outcome.next]
  rfl

theorem mesh_crosses (hmine : tabGet 0x40#7 s.links (l * 64 + s.ktime.toNat % 64) = p.part) (hfree : tabGet 0 s.used (l * 16 + ch) < 16)
    (hfirst : ¬ Behind s k p) (hturn : chanTurn s p.part l ch = true) : exec (.meshTokenForward k) s = .next (crossed s k l ch rest p) := by
  rw [mesh_with_channel hget hroute hch, if_pos ⟨hmine, (canCross_iff hroute).mpr ⟨hfree, hfirst⟩, hturn⟩]

theorem mesh_waits (h : ¬ tabGet 0x40#7 s.links (l * 64 + s.ktime.toNat % 64) = p.part ∨ 16 ≤ tabGet 0 s.used (l * 16 + ch) ∨ Behind s k p
    ∨ chanTurn s p.part l ch = false) : exec (.meshTokenForward k) s = .next s := by
  rw [mesh_with_channel hget hroute hch, if_neg]
  rintro ⟨hmine, hcross, hturn⟩
  obtain ⟨hfree, hfirst⟩ := (canCross_iff hroute).mp hcross
  obtain h | h | h | h := h
  · exact h hmine
  · exact absurd hfree (Nat.not_lt.mpr h)
  · exact hfirst h
  · rw [h] at hturn; cases hturn

end

/-- Where every packet of an owner at a link takes one channel, it is that channel's turn. -/
theorem chanTurn_of_sole {s : State} {part : BitVec 7} {l ch : Nat}
    (h : ∀ q ∈ s.net, q.part = part → q.route.head? = some l → chanOf s q l = some ch) : chanTurn s part l ch = true := by
  refine List.all_eq_true.mpr fun x hx => ?_
  have hne : x ≠ ch := by simpa using List.mem_takeWhile_imp hx
  rw [Bool.not_eq_true', List.any_eq_false]
  rintro ⟨q, k⟩ hq hcross
  simp only [Bool.and_eq_true, decide_eq_true_eq, beq_iff_eq] at hcross
  obtain ⟨⟨hpart, hchan⟩, hcan⟩ := hcross
  have hhead : q.route.head? = some l := by
    unfold canCross at hcan
    simp only [Bool.and_eq_true, beq_iff_eq] at hcan
    exact hcan.1.1
  have hsole := h q (List.fst_mem_of_mem_zipIdx hq) hpart hhead
  rw [hchan] at hsole
  exact hne (Option.some.inj hsole)

theorem mesh_leaves {s : State} {k : Nat} {p : Packet} (hget : s.net[k]? = some p) (hroute : p.route = []) {m q d y}
    (hload : p.load = .umavas m q d y) :
    exec (.meshTokenForward k) s = .next { s with net := s.net.eraseIdx k } := by
  show execMeshTokenForward k s = _
  unfold execMeshTokenForward
  simp only [hget, hroute, hload]
  rfl

/-- CREDIT_RETURN on a virtual channel of a link direction. -/
theorem creditReturn_spec (s : State) {l vc : Nat} (hvc : vc < 16) :
    exec (.creditReturn (l * 16 + vc)) s = .next (if standing s l vc < tabGet 0 s.used (l * 16 + vc)
      then { s with used := tabPut 0 s.used (l * 16 + vc) (tabGet 0 s.used (l * 16 + vc) - 1) } else s) := by
  have hlink : (l * 16 + vc) / 16 = l := by omega
  have hchan : (l * 16 + vc) % 16 = vc := by omega
  show execCreditReturn (l * 16 + vc) s = _
  unfold execCreditReturn
  rw [hlink, hchan]

/-! ## The statement -/

/-- Settles O48: the events of the networks by their equations; a token at a send port by what its firing asks there, and by the graph's moving
on, which no token decides. -/
theorem tokensLeaveAndCross : Obligations.TokensLeaveAndCross := by
  unfold Obligations.TokensLeaveAndCross
  refine ⟨fun s i k l vc rest p hvc => ⟨controlTokenForward_spec i, mesh_no_channel,
    fun ch hget hroute hch => ⟨?_, mesh_waits hget hroute hch, chanTurn_of_sole⟩,
    fun m q d y hget hload hroute => mesh_leaves hget hroute hload, ?_, ?_⟩, ?_⟩
  · exact fun hmine hfree hfirst hturn => ⟨_, mesh_crosses hget hroute hch hmine hfree hfirst hturn, rfl,
      fun x => tabGet_put 0 s.used (l * 16 + ch) x (tabGet 0 s.used (l * 16 + ch) + 1), tabGet_put_self .., rfl⟩
  · intro hlt
    rw [creditReturn_spec s hvc, if_pos hlt]
    exact ⟨_, rfl, rfl, fun x => tabGet_put 0 s.used (l * 16 + vc) x _⟩
  · intro hle
    rw [creditReturn_spec s hvc, if_neg (Nat.not_lt.mpr hle)]
  · intro s i t n id dst chk j hj e c p part path remote taken held hstands hhead hsource
    have hpass : PassesOn j.1 s e t := by
      simp only [List.mem_cons, List.not_mem_nil, or_false] at hj
      obtain rfl | rfl := hj
      · exact passesOn_route hstands hhead hsource
      · exact passesOn_pass hstands hhead hsource
    refine ⟨passesOn_full_queue hpass, fun hroom hturn hsends hport hcheck => ?_⟩
    have hmove : PortMove j.1 s e t n := ⟨hpass, hroom, hturn, hsends, hport, chk, hcheck⟩
    refine ⟨port_checked hmove, fun hdata => ?_⟩
    have hleave : portField c n 3 / 256 % 2 = 1 → t.isData = true := fun hch => hdata.resolve_left (not_not.mpr hch)
    refine ⟨port_metered hmove hleave, fun hmeter => ⟨port_unnamed hmove hleave hmeter, fun hname hdst => ?_⟩⟩
    have hto : PortTo j.1 s e t n id dst := ⟨hmove, hleave, hmeter, hname, hdst⟩
    exact ⟨port_away hto, fun hthere hch hopen hbusy hlog hpath => port_token hto hthere hpath hch hopen hbusy hlog,
      fun hch hactive hclosed => port_closed hto (.inr hactive) hch hactive hclosed,
      fun hthere hch hword hpath => port_word hto hthere hpath hch hword, fun hthere hch hword => port_word_waits hto hthere hch hword⟩

end Sys2Proof.Machine

end

section
/-! PROOFS. KSTATE (O12, O14): what it reads as a number, and the status that a written word sets. -/

namespace Sys2Proof.Machine

theorem toNat_append_add {m n : Nat} (x : BitVec m) (y : BitVec n) : (x ++ y).toNat = x.toNat * 2 ^ n + y.toNat := by
  rw [BitVec.toNat_append, ← Nat.shiftLeft_add_eq_or_of_lt y.isLt, Nat.shiftLeft_eq]

theorem toNat_kstBits (k : Kst) (b : Bool) :
    (kstBits k b).toNat = k.priv.toNat + 4 * b.toNat + 8 * k.ie.toNat + 16 * k.ppriv.toNat + 64 * k.pie.toNat := by
  unfold kstBits
  simp only [toNat_append_add, BitVec.toNat_ofBool]
  omega

theorem toNat_kstate (s : State) :
    (kstate s).toNat = (kstBits s.me.regs.ks ((setOf s s.me.id).getD false)).toNat + 256 * s.me.sys.spine.toNat := by
  have hspine := s.me.sys.spine.isLt
  have hbits := (kstBits s.me.regs.ks ((setOf s s.me.id).getD false)).isLt
  unfold kstate
  rw [BitVec.toNat_setWidth, toNat_append_add, toNat_append_add, BitVec.toNat_zero]
  omega

/-- The low 7 bits of KSTATE are the status that a trap saves (05 R101). -/
theorem kstate_low (s : State) : kstate s &&& 0x7F#64 = (kstBits s.me.regs.ks ((setOf s s.me.id).getD false)).setWidth 64 := by
  have hbits := (kstBits s.me.regs.ks ((setOf s s.me.id).getD false)).isLt
  apply BitVec.eq_of_toNat_eq
  rw [BitVec.toNat_and, BitVec.toNat_setWidth, toNat_kstate]
  exact (Nat.and_two_pow_sub_one_eq_mod _ 7).trans (by omega)

/-- The fields of a status word are those of the doubleword that it is the low part of. -/
theorem kstOf_setWidth (w : Word) : kstOf (w.setWidth 7) =
    { priv := w.extractLsb' 0 2, ie := w.getLsbD 3, ppriv := w.extractLsb' 4 2, pie := w.getLsbD 6 } := by
  have hpriv : (w.setWidth 7).extractLsb' 0 2 = w.extractLsb' 0 2 := by ext i hi; simp; omega
  have hppriv : (w.setWidth 7).extractLsb' 4 2 = w.extractLsb' 4 2 := by ext i hi; simp; omega
  simp [kstOf, hpriv, hppriv]

end Sys2Proof.Machine
end

section
/-! PROOFS. Software traps and the return (O12): delivery at system and at monitor privilege, and ERET at both. -/

namespace Sys2Proof.Machine

open Sys2Proof.Claims

/-! ## Delivery (05 R107) -/

/-- An instruction that is a software trap of a cause of the system's takes it (06 R133). -/
theorem traps_of_takeTrap {i : Instr} {s : State} {cause : BitVec 8} {v : Word} (h : exec i s = .next (takeTrap s { cause := cause, value := v }))
    (hr : cause ≠ 0x07#8) (hm : toMonitor cause = false) : Traps i s cause v :=
  traps_of_error (by rw [h, finish_error]; rfl) hr hm

/-- The word of ILL is its operand behind a major opcode of 0 (04 R78). -/
theorem wordOf_ill (x : BitVec 26) : wordOf (.ill x) = x.setWidth 64 := by
  have happend : (0#6 ++ x).toNat = x.toNat := by
    rw [BitVec.toNat_append]
    exact Nat.zero_or _
  show (0#6 ++ x).setWidth 64 = x.setWidth 64
  apply BitVec.eq_of_toNat_eq
  rw [BitVec.toNat_setWidth, BitVec.toNat_setWidth, happend]

theorem monitorTrapTaken_trapMonitor (s : State) (cause : BitVec 8) (value : Word) :
    MonitorTrapTaken s (trapMonitor s cause value) cause value := by
  have hsaves := trapMonitor_saves s cause value
  obtain ⟨hpc, hks, hg, hc, hmem, hwin⟩ := trapMonitor_goes s cause value
  refine ⟨by rw [hsaves], by rw [hsaves], by rw [hsaves], ?_, hks, hpc, fun _ => rfl, fun _ => rfl, fun a => ⟨by rw [hmem], by rw [hwin]⟩, rfl,
    fun c hother => coreRec_setCore_ne s _ hother, ?_, rfl⟩
  · rw [hsaves, kstate_low]
  · rw [hsaves]

/-! ## ERET (06 R134) -/

section
variable {s : State}

theorem exec_eret (h : 1 ≤ (priv s).toNat) : exec .eret s = finish s (eretOp s) :=
  congrArg (finish s) (needPriv_pass (level := 1) h _ _)

theorem exec_eret_system (h : priv s = 1#2) (hp : s.me.regs.ks.ppriv.toNat < 2) :
    exec .eret s = finish s (checkTarget s.me.sys.kepc (.ok { s with
      me.regs.ks.priv := s.me.regs.ks.ppriv, me.regs.ks.ie := s.me.regs.ks.pie, me.regs.pc := s.me.sys.kepc })) := by
  rw [exec_eret (by rw [h]; decide)]
  unfold eretOp
  rw [if_neg (by rw [h]; decide), if_neg (by omega)]

theorem exec_eret_monitor (h : priv s = 2#2) :
    exec .eret s = finish s (checkTarget (myCore s).mepc (.ok { s with
      me.regs.ks := kstOf ((myCore s).mstate.setWidth 7), me.regs.pc := (myCore s).mepc })) := by
  rw [exec_eret (by rw [h]; decide)]
  unfold eretOp
  rw [if_pos h]

/-- System privilege may not return into the monitor. -/
theorem traps_eret_ppriv (h : priv s = 1#2) (hp : 2 ≤ s.me.regs.ks.ppriv.toNat) : Traps .eret s 0x02 (kstate s) := by
  refine traps_of_error ?_ (by decide) rfl
  rw [exec_eret (by rw [h]; decide)]
  unfold eretOp
  rw [if_neg (by rw [h]; decide), if_pos hp]

end

/-- Settles O12: each trap is one delivery, and ERET is the check of its target. -/
theorem softwareTrapsAndTheReturn : Obligations.SoftwareTrapsAndTheReturn := by
  unfold Obligations.SoftwareTrapsAndTheReturn
  refine ⟨fun s a x => ⟨?trap, ?brk, ?ill, ?hcall⟩, fun s => ⟨fun h hp hl => ?system, fun h hl => ?monitor, traps_eret_ppriv,
    fun h hp => traps_of_checkTarget (exec_eret_system h hp), fun h => traps_of_checkTarget (exec_eret_monitor h)⟩⟩
  case trap => exact traps_of_takeTrap rfl (by decide) rfl
  case brk => exact traps_of_takeTrap rfl (by decide) rfl
  case ill => exact wordOf_ill x ▸ traps_of_takeTrap rfl (by decide) rfl
  case hcall =>
    refine ⟨_, ?_, monitorTrapTaken_trapMonitor s 0x17 (readG s a)⟩
    rw [← takeTrap_monitor (t := { cause := 0x17, value := readG s a }) rfl rfl]
    rfl
  case system =>
    have hexec := exec_eret_system h hp
    rw [checkTarget_legal hl] at hexec
    exact ⟨_, hexec, rfl, rfl, fun _ => ⟨rfl, rfl⟩, rfl⟩
  case monitor =>
    have hexec := exec_eret_monitor h
    rw [checkTarget_legal hl, kstOf_setWidth] at hexec
    exact ⟨_, hexec, rfl, rfl, rfl, rfl, rfl, fun _ => ⟨rfl, rfl⟩, rfl⟩

end Sys2Proof.Machine
end

section
/-! PROOFS. Special registers (O14): what each one reads, and what the record of a core or of a partition leaves of what they read. -/

namespace Sys2Proof.Machine

open Sys2Proof.Claims

/-! ## Values as numbers (05 R101, R104, R106) -/

theorem toNat_kcore (s : State) : (kcore s).toNat = s.me.id.core.toNat + 2 ^ 16 * (coreIndex s s.me).toNat := by
  have hcore := s.me.id.core.isLt
  have hindex := (coreIndex s s.me).isLt
  unfold kcore
  rw [BitVec.toNat_setWidth, toNat_append_add, toNat_append_add, BitVec.toNat_zero]
  omega

theorem toNat_mpartRead (s : State) :
    (mpartRead s).toNat = (myCore s).mpart.toNat + 2 ^ 9 * (partRec s (myCore s).mpart).busy.toNat := by
  have hpart := (myCore s).mpart.isLt
  have hbusy := Bool.toNat_lt (partRec s (myCore s).mpart).busy
  unfold mpartRead
  rw [BitVec.toNat_setWidth, toNat_append_add, toNat_append_add, BitVec.toNat_ofBool, BitVec.toNat_zero]
  omega

/-- Every row of the inventory is the register that MFS reads there (05 R100, R106). -/
theorem toNat_readSreg (s : State) : ∀ e ∈ sregTable s, (readSreg s e.1).toNat = e.2.2 := by
  have hbit : ∀ b : Bool, (if b = true then 1 else 0) = b.toNat := by decide
  have hset : (if setOf s s.me.id = some true then 1 else 0) = ((setOf s s.me.id).getD false).toNat := by
    obtain _ | b := setOf s s.me.id
    · rfl
    · cases b <;> rfl
  have hkstate := toNat_kstate s
  rw [toNat_kstBits] at hkstate
  have narrow : ∀ {n : Nat} (x : BitVec n), n ≤ 64 → (x.setWidth 64).toNat = x.toNat := fun _ h => BitVec.toNat_setWidth_of_le h
  simp only [sregTable, List.forall_mem_cons, hbit, hset]
  exact ⟨hkstate, rfl, rfl, rfl, rfl, rfl, rfl, rfl, rfl, rfl, rfl, toNat_kcore s, narrow s.me.id.part (by decide),
    narrow s.me.id.kctx (by decide), rfl, rfl, rfl, rfl, rfl, narrow s.me.sys.trn (by decide), narrow s.me.sys.inj (by decide), rfl,
    toNat_mpartRead s, rfl, narrow (partRec s (myCore s).mpart).allow (by decide), rfl, rfl, rfl, rfl, rfl, rfl, rfl, rfl, rfl, rfl, List.forall_mem_nil _⟩

/-- MFS may name each of them, from its level on (06 R135). -/
theorem sregTable_levels (s : State) : ∀ e ∈ sregTable s, mfsOk e.1 = true ∧ (readLevel e.1).toNat = e.2.1 := by
  simp [sregTable, mfsOk, contextSregs, monitorSregs, readLevel]

theorem writesG_mfs {s : State} {r : BitVec 12} (d : Reg) (hok : mfsOk r = true) (hp : (readLevel r).toNat ≤ (priv s).toNat) :
    WritesG (.mfs d r) s d (fun v => v = readSreg s r) := by
  have hexec := exec_mfs_ok hok d s
  rw [needPriv_pass hp, finish_ok] at hexec
  refine ⟨_, _, hexec, rfl, ?_, fun q hq => ?_, fun c => ?_, advances_nextPc (by simp), onlyRegs_writeG s d _⟩
  · rw [readG_nextPc, readG_writeG_self]
  · rw [readG_nextPc, readG_writeG_ne s _ hq]
  · rw [readC_nextPc, readC_writeG]

/-! ## Records that a special register does not read -/

section
variable {s : State}

theorem kstate_setMyCore {m : CoreRec} (hA : m.setA = (myCore s).setA) (hB : m.setB = (myCore s).setB) : kstate (setMyCore s m) = kstate s := by
  have hset : setOf (setMyCore s m) s.me.id = setOf s s.me.id := by
    have hrec : coreRec (setMyCore s m) s.me.id.core = m := coreRec_setCore_self ..
    unfold setOf
    simp only [hrec, hA, hB]
    rfl
  unfold kstate
  rw [setMyCore_me, hset]

theorem kcore_setMyCore (m : CoreRec) : kcore (setMyCore s m) = kcore s := rfl
theorem partRec_setMyCore (m : CoreRec) (p : BitVec 6) : partRec (setMyCore s m) p = partRec s p := rfl

theorem mpartRead_setMyCore {m : CoreRec} (h : m.mpart = (myCore s).mpart) : mpartRead (setMyCore s m) = mpartRead s := by
  unfold mpartRead
  rw [myCore_setMyCore, h]
  rfl

theorem myCore_setPart (p : BitVec 6) (r : PartRec) : myCore (setPart s p r) = myCore s := rfl

/-- The index of a core goes by the core lists alone (05 R104). -/
theorem kcore_setPart {p : BitVec 6} {r : PartRec} (h : r.coreList = (partRec s p).coreList) : kcore (setPart s p r) = kcore s := by
  have hlist : ∀ q, (partRec (setPart s p r) q).coreList = (partRec s q).coreList := by
    intro q
    by_cases hq : q = p
    · rw [hq, partRec_setPart_self, h]
    · rw [partRec_setPart_ne s r hq]
  unfold kcore coreIndex
  rw [hlist]
  rfl

theorem mpartRead_setPart {r : PartRec} (h : r.busy = (partRec s (myCore s).mpart).busy) :
    mpartRead (setPart s (myCore s).mpart r) = mpartRead s := by
  unfold mpartRead
  simp only [myCore_setPart, partRec_setPart_self, h]

end

end Sys2Proof.Machine
end

section
/-! PROOFS. Writes of special registers (O14): what each MTS changes of what is read, and the statement. -/

namespace Sys2Proof.Machine

open Sys2Proof.Claims

/-! ## A write of one special register -/

/-- Special register r reads v, and every other one, the registers of the handler, the other contexts and all memory stand. -/
structure OnlySreg (s t : State) (r : BitVec 12) (v : Word) : Prop where
  reads : readSreg t r = v
  keeps : ∀ q ∈ contextSregs ++ monitorSregs, q ≠ r → readSreg t q = readSreg s q
  regs : t.me.regs = s.me.regs
  others : t.others = s.others
  mem : t.mem = s.mem
  win : t.win = s.win

/-- MTS goes on behind its checks with its effect on the state at the next PC (06 R135). -/
theorem mtsOp_pass {s : State} {a : Reg} {r : BitVec 12} (hp : (writeLevel r).toNat ≤ (priv s).toNat)
    (hk : ¬ (r = 0x000#12 ∧ kstateRefused s (readG s a) = true)) : mtsOp a r s = .ok (writeSreg (nextPc s) r (readG s a)) := by
  unfold mtsOp
  rw [needPriv_pass hp, if_neg hk]

/-- A refused word of KSTATE is a privilege fault with that word (05 R101). -/
theorem mtsOp_refused {s : State} {a : Reg} (hp : 1 ≤ (priv s).toNat) (h : kstateRefused s (readG s a) = true) :
    mtsOp a 0x000 s = .error { cause := 0x02, value := readG s a } := by
  unfold mtsOp
  rw [needPriv_pass (level := writeLevel 0x000) hp, if_pos ⟨rfl, h⟩]

theorem exec_of_mtsOp {s : State} {i : Instr} {a : Reg} {r : BitVec 12} (hexec : exec i s = finish s (mtsOp a r s)) (hr : r ≠ 0x000#12)
    (hp : (writeLevel r).toNat ≤ (priv s).toNat) : exec i s = .next (writeSreg (nextPc s) r (readG s a)) := by
  rw [hexec, mtsOp_pass hp fun h => hr h.1, finish_ok]

theorem writesSreg_of_onlySreg {s t : State} {i : Instr} {r : BitVec 12} {v : Word} (hexec : exec i s = .next t) (h : OnlySreg (nextPc s) t r v) :
    WritesSreg i s r v := by
  refine ⟨t, hexec, h.reads, h.keeps, fun q => ?_, fun c => ?_, ?_, ?_, fun a => ⟨by rw [h.mem]; rfl, by rw [h.win]; rfl⟩, h.others⟩
  · unfold readG; rw [h.regs]; rfl
  · unfold readC; rw [h.regs]; rfl
  · rw [h.regs]; rfl
  · intro halign hlow
    rw [h.regs]
    exact nextPc_pc_eq halign hlow

/-! ### Registers of the context (05 R100) -/

/-- The registers whose writes change one field of the context's special registers alone. -/
def contextWrites : List (BitVec 12) :=
  [0x001, 0x002, 0x003, 0x004, 0x005, 0x006, 0x008, 0x009, 0x00A, 0x00B, 0x014, 0x016, 0x018, 0x020]

theorem readSreg_contextWrite_ne {s : State} {v : Word} : ∀ r ∈ contextWrites, ∀ q, q ≠ r → readSreg (writeSreg s r v) q = readSreg s q := by
  intro r hr q hq
  simp only [contextWrites, List.mem_cons, List.not_mem_nil, or_false] at hr
  rcases hr with rfl | rfl | rfl | rfl | rfl | rfl | rfl | rfl | rfl | rfl | rfl | rfl | rfl | rfl
  all_goals
    unfold readSreg
    simp only [if_neg hq]
    rfl

/-! ### Registers of the core (05 R106) -/

/-- The registers whose writes change one field of the core's record, but for MSTATE. -/
def coreWrites : List (BitVec 12) := [0x808, 0x809, 0x80A, 0x80B, 0x80C, 0x80D, 0x80E, 0x80F]

theorem readSreg_coreWrite_ne {s : State} {v : Word} : ∀ r ∈ coreWrites, ∀ q, q ≠ r → readSreg (writeSreg s r v) q = readSreg s q := by
  intro r hr q hq
  simp only [coreWrites, List.mem_cons, List.not_mem_nil, or_false] at hr
  rcases hr with rfl | rfl | rfl | rfl | rfl | rfl | rfl | rfl
  all_goals
    show readSreg (setMyCore s _) q = _
    unfold readSreg
    simp only [if_neg hq, kstate_setMyCore, mpartRead_setMyCore, myCore_setMyCore]
    rfl

/-- MSTATE is what the last row reads. -/
theorem readSreg_mstate_ne {s : State} {v : Word} :
    ∀ q ∈ contextSregs ++ monitorSregs, q ≠ 0x810 → readSreg (writeSreg s 0x810 v) q = readSreg s q := by
  have hcases : ∀ q ∈ contextSregs ++ monitorSregs, q ∈ contextSregs ++ monitorSregs.dropLast ∨ q = 0x810 := by
    intro q hq
    rw [show contextSregs ++ monitorSregs = (contextSregs ++ monitorSregs.dropLast) ++ [0x810] from rfl, List.mem_append, List.mem_singleton] at hq
    exact hq
  suffices h : ∀ q ∈ contextSregs ++ monitorSregs.dropLast, readSreg (writeSreg s 0x810 v) q = readSreg s q from
    fun q hmem hq => h q ((hcases q hmem).resolve_right hq)
  show ∀ q ∈ _, readSreg (setMyCore s { myCore s with mstate := v &&& 0x7F#64 }) q = _
  simp [contextSregs, monitorSregs, readSreg, kstate_setMyCore, mpartRead_setMyCore, kcore_setMyCore, partRec_setMyCore, mvecOf]

/-! ### Registers of the partition that MPART selects (16 R368, R371) -/

/-- The registers whose writes change one field of a partition's record. -/
def partWrites : List (BitVec 12) := [0x800, 0x803]

theorem readSreg_partWrite_ne {s : State} {v : Word} : ∀ r ∈ partWrites, ∀ q, q ≠ r → readSreg (writeSreg s r v) q = readSreg s q := by
  intro r hr q hq
  simp only [partWrites, List.mem_cons, List.not_mem_nil, or_false] at hr
  rcases hr with rfl | rfl
  all_goals
    show readSreg (setPart s (myCore s).mpart _) q = _
    unfold readSreg
    simp only [if_neg hq, myCore_setPart, mpartRead_setPart, kcore_setPart, partRec_setPart_self]
    rfl

/-! ### The table of plain writes (05 R100, R105, R106) -/

theorem plainWrites_levels : ∀ e ∈ plainWrites, mtsOk e.1 = true ∧ (writeLevel e.1).toNat = e.2.1 ∧ e.1 ≠ 0x000#12 := by
  simp [plainWrites, mtsOk, mfsOk, contextSregs, monitorSregs, readOnlySregs, writeLevel]

/-- A doubleword cut to n bits and widened again keeps its low n bits. -/
theorem setWidth_setWidth_word (v : Word) {n : Nat} (h : n ≤ 64) : (v.setWidth n).setWidth 64 = v &&& BitVec.ofNat 64 (2 ^ n - 1) := by
  have hmask : 2 ^ n - 1 < 2 ^ 64 := by
    have := Nat.pow_le_pow_right (show 0 < 2 by decide) h
    omega
  apply BitVec.eq_of_toNat_eq
  rw [BitVec.toNat_setWidth_of_le h, BitVec.toNat_setWidth, BitVec.toNat_and, BitVec.toNat_ofNat, Nat.mod_eq_of_lt hmask,
    Nat.and_two_pow_sub_one_eq_mod]

/-- The writable bits of KINJ, which the model holds in 13 (05 R105). -/
theorem kinj_bits (v : Word) : (v.setWidth 13 &&& 0x1FF7#13).setWidth 64 = v &&& 0x1FF7#64 := by
  rw [BitVec.setWidth_and, setWidth_setWidth_word v (by decide), BitVec.and_assoc]
  rfl

theorem readSreg_plainWrite {s : State} {v : Word} : ∀ e ∈ plainWrites, readSreg (writeSreg s e.1 v) e.1 = v &&& e.2.2 := by
  have hall : v = v &&& 0xFFFFFFFFFFFFFFFF#64 := (BitVec.and_allOnes (x := v)).symm
  have hcore : ∀ m, myCore (setMyCore s m) = m := myCore_setMyCore s
  have hpart : ∀ p r, partRec (setPart s p r) p = r := partRec_setPart_self s
  simp only [plainWrites, List.forall_mem_cons]
  exact ⟨rfl, rfl, hall, rfl, rfl, rfl, hall, hall, hall, hall, rfl, rfl, rfl, kinj_bits v, congrArg PartRec.mstage (hpart ..),
    (congrArg (fun r => r.allow.setWidth 64) (hpart ..)).trans (setWidth_setWidth_word v (by decide)), congrArg CoreRec.mcause (hcore _),
    congrArg CoreRec.mepc (hcore _), (congrArg CoreRec.meval (hcore _)).trans hall, congrArg (mvecOf s) (hcore _),
    (congrArg CoreRec.mscr0 (hcore _)).trans hall, (congrArg CoreRec.mscr1 (hcore _)).trans hall, (congrArg CoreRec.mscr2 (hcore _)).trans hall,
    (congrArg CoreRec.mscr3 (hcore _)).trans hall, congrArg CoreRec.mstate (hcore _), List.forall_mem_nil _⟩

theorem plainWrite_frame {s : State} {v : Word} : ∀ e ∈ plainWrites, (writeSreg s e.1 v).me.regs = s.me.regs ∧ (writeSreg s e.1 v).others = s.others
    ∧ (writeSreg s e.1 v).mem = s.mem ∧ (writeSreg s e.1 v).win = s.win := by
  simp [plainWrites, writeSreg, writeKspillend, mstageOp, mallowOp]

theorem onlySreg_plainWrite (s : State) (v : Word) : ∀ e ∈ plainWrites, OnlySreg s (writeSreg s e.1 v) e.1 (v &&& e.2.2) := by
  have hgroups : ∀ e ∈ plainWrites, e.1 ∈ contextWrites ∨ e.1 ∈ coreWrites ∨ e.1 ∈ partWrites ∨ e.1 = 0x810 := by decide
  intro e he
  obtain ⟨hregs, hothers, hmem, hwin⟩ := plainWrite_frame e he
  refine ⟨readSreg_plainWrite e he, fun q hq hne => ?_, hregs, hothers, hmem, hwin⟩
  obtain h | h | h | h := hgroups e he
  · exact readSreg_contextWrite_ne _ h q hne
  · exact readSreg_coreWrite_ne _ h q hne
  · exact readSreg_partWrite_ne _ h q hne
  · rw [h] at hne ⊢
    exact readSreg_mstate_ne q hq hne

/-- A row that performs the MTS of a plain register writes its writable bits (06 R135). -/
theorem writesSreg_plain {s : State} {i : Instr} {a : Reg} {r : BitVec 12} {n : Nat} {w : Word} (he : (r, n, w) ∈ plainWrites)
    (hp : n ≤ (priv s).toNat) (hexec : exec i s = finish s (mtsOp a r s)) : WritesSreg i s r (readG s a &&& w) := by
  obtain ⟨-, hlevel, hr⟩ := plainWrites_levels _ he
  exact writesSreg_of_onlySreg (exec_of_mtsOp hexec hr (hlevel ▸ hp)) (onlySreg_plainWrite (nextPc s) (readG s a) _ he)

/-! ## KSPILL and KSPILLEND (11 R263) -/

/-- An empty log moves with the register. -/
theorem writeSreg_kspill_moves {s : State} {v : Word} (h : s.me.fab.spillLog = []) : writeSreg s 0x015 v = { s with
    me.sys.spill := v &&& 0xFFFFFFFFFFFFF000#64, me.sys.spillHeld := none
    me.fab.spillHead := v &&& 0xFFFFFFFFFFFFF000#64, me.fab.spillTail := v &&& 0xFFFFFFFFFFFFF000#64 } :=
  if_pos (List.isEmpty_iff.mpr h)

theorem onlySreg_kspill {s : State} {v : Word} (h : s.me.fab.spillLog = []) :
    OnlySreg s (writeSreg s 0x015 v) 0x015 (v &&& 0xFFFFFFFFFFFFF000#64) := by
  rw [writeSreg_kspill_moves h]
  refine ⟨rfl, fun q _ hq => ?_, rfl, rfl, rfl, rfl⟩
  unfold readSreg
  simp only [if_neg hq]
  rfl

/-- A log that holds tokens holds the write. -/
theorem writeSreg_kspill_held {s : State} {v : Word} (h : s.me.fab.spillLog ≠ []) :
    writeSreg s 0x015 v = { s with me.sys.spillHeld := some (v &&& 0xFFFFFFFFFFFFF000#64) } :=
  if_neg fun hempty => h (List.isEmpty_iff.mp hempty)

/-! ## KSTATE (05 R101, 01 R10) -/

theorem kstateRefused_iff (s : State) (v : Word) : kstateRefused s v = true ↔ v.extractLsb' 0 2 = 3#2
    ∨ (priv s).toNat < (v.extractLsb' 0 2).toNat ∨ (priv s = 1#2 ∧ 2 ≤ (v.extractLsb' 4 2).toNat) := by
  simp [kstateRefused, or_assoc]

theorem myCore_nextPc (s : State) : myCore (nextPc s) = myCore s := rfl

theorem writeSreg_kstate (s : State) (v : Word) : writeSreg s 0x000 v = writeKstate s v := rfl

theorem switchSpine_free {r : CoreRec} (h : r.spineNew = none) (x : BitVec 3) :
    switchSpine r x = { r with spineNew := if x = r.spine then none else some x } := by
  unfold switchSpine
  simp only [h]
  by_cases hx : x = r.spine
  · rw [if_pos hx, if_pos hx, ← h]
  · rw [if_neg hx, if_neg hx]

theorem switchSpine_busy {r : CoreRec} (h : r.spineNew ≠ none) (x : BitVec 3) : switchSpine r x = { r with spineNext := some x } := by
  obtain ⟨y, hy⟩ := Option.ne_none_iff_exists'.mp h
  unfold switchSpine
  rw [hy]

theorem switchSpine_frame (r : CoreRec) (x : BitVec 3) :
    { switchSpine r x with spineNew := r.spineNew, spineNext := r.spineNext } = r := by
  by_cases h : r.spineNew = none
  · rw [switchSpine_free h]
  · rw [switchSpine_busy h]

/-- The status and the spine that a word of KSTATE sets in its handler and its context. -/
def withStatus (s : State) (v : Word) : State :=
  { s with
    me.regs.ks := { priv := v.extractLsb' 0 2, ie := v.getLsbD 3, ppriv := v.extractLsb' 4 2, pie := v.getLsbD 6 }
    me.sys.spine := v.extractLsb' 8 3 }

theorem writeKstate_paired {s : State} (h : (myCore s).paired = true) (v : Word) : writeKstate s v = withStatus s v := by
  unfold writeKstate
  rw [kstOf_setWidth]
  exact if_pos h

theorem writeKstate_solo {s : State} (h : (myCore s).paired = false) (v : Word) :
    writeKstate s v = setMyCore (withStatus s v) (switchSpine (myCore s) (v.extractLsb' 8 3)) := by
  unfold writeKstate
  rw [kstOf_setWidth]
  exact if_neg (ne_true_of_eq_false h)

/-! ## KCTX (05 R100) -/

theorem writeSreg_kctx (s : State) (v : Word) : writeSreg s 0x012 v = writeKctx s (v.setWidth 16) := rfl

/-- A set of the core, and a registration, go by the new id where they went by the old one. -/
theorem renamed_set (x : SetRec) (old new : CtxId) :
    (if x.ctx = some old then { x with ctx := some new } else x) = { x with ctx := if x.ctx = some old then some new else x.ctx } := by
  split <;> rfl

theorem renamed_grain (g : Grain) (old new : CtxId) :
    (if g.ctx = old then { g with ctx := new } else g) = { g with ctx := if g.ctx = old then new else g.ctx } := by
  split <;> rfl

/-! ## The statement -/

/-- Both rows that write KSTATE, and both that write KSPILL, are the MTS of their register. -/
theorem exec_kstate_rows (s : State) (a : Reg) : ∀ i ∈ [Instr.mts a 0x000, .kstateWrite a], exec i s = finish s (mtsOp a 0x000 s) := by
  simp only [List.forall_mem_cons]
  exact ⟨exec_mts_ok (by decide) a s, rfl, List.forall_mem_nil _⟩

theorem exec_kspill_rows (s : State) (a : Reg) : ∀ i ∈ [Instr.mts a 0x015, .kspillWrite a], exec i s = finish s (mtsOp a 0x015 s) := by
  simp only [List.forall_mem_cons]
  exact ⟨exec_mts_ok (by decide) a s, rfl, List.forall_mem_nil _⟩

/-- Settles O14: MFS reads the inventory, a plain MTS changes one register of it, and KSPILL, KSTATE and KCTX by their equations. -/
theorem systemRegistersReadAndWrite : Obligations.SystemRegistersReadAndWrite := by
  unfold Obligations.SystemRegistersReadAndWrite
  refine ⟨fun s d e he hp => ?mfs, fun s a => ⟨fun e he hp => ?plain, fun hp => ?kinj, fun hp => ?kspillend, fun hp hlog i hi => ?kspill,
    fun hp hlog i hi => ?held⟩, fun s a hp i hi => ?kstate, fun s a hp => ?kctx⟩
  case mfs =>
    obtain ⟨hok, hlevel⟩ := sregTable_levels s e he
    obtain ⟨t, v, hexec, rfl, hframe⟩ := writesG_mfs (r := e.1) d hok (hlevel ▸ hp)
    exact ⟨t, _, hexec, toNat_readSreg s e he, hframe⟩
  case plain =>
    obtain ⟨hok, -, -⟩ := plainWrites_levels e he
    exact writesSreg_plain he hp (exec_mts_ok hok a s)
  case kinj => exact writesSreg_plain (by decide) hp rfl
  case kspillend => exact ⟨writesSreg_plain (by decide) hp rfl, _, exec_of_mtsOp rfl (by decide) hp, rfl⟩
  case kspill =>
    have hexec := exec_of_mtsOp (exec_kspill_rows s a i hi) (by decide) hp
    have hmoves := writeSreg_kspill_moves (s := nextPc s) (v := readG s a) hlog
    exact ⟨writesSreg_of_onlySreg hexec (onlySreg_kspill hlog), _, hmoves ▸ hexec, rfl, rfl⟩
  case held =>
    have hexec := exec_of_mtsOp (exec_kspill_rows s a i hi) (by decide) hp
    rw [writeSreg_kspill_held (s := nextPc s) hlog] at hexec
    exact ⟨_, hexec, rfl, advances_nextPc rfl, fun _ => ⟨rfl, rfl⟩, rfl⟩
  case kstate =>
    refine ⟨fun hbad => ?_, fun hok => ?_⟩
    · refine traps_of_error ?_ (by decide) rfl
      rw [exec_kstate_rows s a i hi, mtsOp_refused hp ((kstateRefused_iff s _).mpr hbad)]
    · have hexec := exec_kstate_rows s a i hi
      rw [mtsOp_pass (r := 0x000) hp fun h => hok ((kstateRefused_iff s _).mp h.2)] at hexec
      cases hpaired : (myCore s).paired with
      | true =>
        rw [finish_ok, writeSreg_kstate, writeKstate_paired (s := nextPc s) hpaired] at hexec
        exact ⟨_, hexec, rfl, rfl, fun _ => rfl, nofun, nofun, rfl, fun _ _ => rfl, fun _ => rfl, fun _ => rfl, advances_nextPc rfl,
          fun _ => ⟨rfl, rfl⟩, rfl⟩
      | false =>
        rw [finish_ok, writeSreg_kstate, writeKstate_solo (s := nextPc s) hpaired, myCore_nextPc] at hexec
        refine ⟨_, hexec, rfl, rfl, nofun, fun _ hfree => ?_, fun _ hbusy => ?_, ?_, fun c hc => coreRec_setCore_ne _ _ hc, fun _ => rfl, fun _ => rfl,
          advances_nextPc rfl, fun _ => ⟨rfl, rfl⟩, rfl⟩
        · rw [myCore_setMyCore, switchSpine_free hfree]
          exact ⟨rfl, rfl⟩
        · rw [myCore_setMyCore, switchSpine_busy hbusy]
          exact ⟨rfl, rfl⟩
        · rw [myCore_setMyCore, switchSpine_frame]
  case kctx =>
    intro new named
    have hexec := exec_of_mtsOp (exec_mts_ok (r := 0x012) (by decide) a s) (by decide) (by rw [hp]; decide)
    rw [writeSreg_kctx] at hexec
    refine ⟨_, hexec, ?_, rfl, ?_, fun c hc => coreRec_setCore_ne _ _ hc, ?_, fun _ => rfl, fun _ => rfl,
        advances_nextPc rfl, fun _ => ⟨rfl, rfl⟩, rfl⟩
    · rw [show ∀ t, readSreg t 0x012 = t.me.id.kctx.setWidth 64 from fun _ => rfl, BitVec.toNat_setWidth_of_le (by decide)]
      exact BitVec.toNat_setWidth ..
    · unfold writeKctx
      simp only [renamed_set]
      exact myCore_setMyCore (nextPc s) _
    · unfold writeKctx
      simp only [renamed_grain]
      rfl

end Sys2Proof.Machine
end

section
/-! PROOFS. Integer instructions (O1, O2): register instructions and their words, the ALU group, products and divisions. -/

namespace Sys2Proof.Machine

open Sys2Proof.Claims

/-! ## The effect of a register instruction -/

theorem writesG_of_setG {i : Instr} {s : State} {d : Reg} {v : Word} {p : Word → Prop} (h : exec i s = setG s d v) (hp : p v) :
    WritesG i s d p := by
  refine ⟨_, v, h, hp, ?_, fun r hr => ?_, fun c => ?_, advances_nextPc (by simp), onlyRegs_writeG s d v⟩
  · rw [readG_nextPc, readG_writeG_self]
  · rw [readG_nextPc, readG_writeG_ne s v hr]
  · rw [readC_nextPc, readC_writeG]

theorem writesC_of_setC {i : Instr} {s : State} {d : CReg} {b b' : Bool} (h : exec i s = setC s d b) (hb : b = b') : WritesC i s d b' := by
  subst hb
  refine ⟨_, h, ?_, fun c hc => ?_, fun r => ?_, advances_nextPc (by simp), onlyRegs_writeC s d b⟩
  · rw [readC_nextPc, readC_writeC_self]
  · rw [readC_nextPc, readC_writeC_ne s b hc]
  · rw [readG_nextPc, readG_writeC]

/-! ## Words of the A format (04 R75) -/

theorem wordA_of_encode {i : Instr} {major : BitVec 6} {d a b : Reg} {fn : BitVec 8} {m n : Nat}
    (h : encode i = some (major ++ d ++ a ++ b ++ fn)) (hm : major.toNat * 2 ^ 26 = m) (hn : fn.toNat = n) : WordA m d a b n i := by
  subst hm hn
  unfold WordA
  rw [h]
  simp only [Option.map_some, toNat_append_add, Option.some.injEq]
  omega

/-- SEL carries its condition register in the low bits of its function (06 R112). -/
theorem wordA_sel (d a b : Reg) (c : CReg) : WordA 0x04000000 d a b (0x18 + c.toNat) (.sel d a b c) := by
  simp only [WordA, encode, Option.map_some, toNat_append_add, BitVec.toNat_ofNat, Option.some.injEq]
  omega

theorem major_of_div {w : BitVec 32} {k : BitVec 6} (h : w.toNat / 2 ^ 26 = k.toNat) : w.extractLsb' 26 6 = k := by
  apply BitVec.eq_of_toNat_eq
  rw [BitVec.extractLsb'_toNat, Nat.shiftRight_eq_div_pow, h, Nat.mod_eq_of_lt k.isLt]

theorem toNat_function (w : BitVec 32) : (w.extractLsb' 0 8).toNat = w.toNat % 256 := BitVec.extractLsb'_toNat ..

theorem function_ne {w : BitVec 32} {c : BitVec 8} (h : w.toNat % 256 ≠ c.toNat) : w.extractLsb' 0 8 ≠ c := by
  rintro rfl
  exact h (toNat_function w).symm

/-- Functions 0x13 to 0x17 and those from 0x20 on name nothing in the ALU group (06 R112). -/
theorem decodeAlu_unassigned {w : BitVec 32} (h : 0x13 ≤ w.toNat % 256 ∧ w.toNat % 256 ≤ 0x17 ∨ 0x20 ≤ w.toNat % 256) :
    decodeAlu w = .error .unassignedFunction := by
  have hrow : ∀ c : BitVec 8, c.toNat < 0x13 → w.extractLsb' 0 8 ≠ c := fun c hc => function_ne (by omega)
  have hsel : w.extractLsb' 3 5 ≠ 3#5 := by
    intro hf
    have hbits := congrArg BitVec.toNat hf
    rw [BitVec.extractLsb'_toNat, Nat.shiftRight_eq_div_pow, BitVec.toNat_ofNat] at hbits
    omega
  simp (disch := decide) [decodeAlu, hrow, hsel]

/-- Functions above 7 name nothing in the MULDIV group (06 R113). -/
theorem decodeMulDiv_unassigned {w : BitVec 32} (h : 0x08 ≤ w.toNat % 256) : decodeMulDiv w = .error .unassignedFunction := by
  have hrow : ∀ c : BitVec 8, c.toNat < 0x08 → w.extractLsb' 0 8 ≠ c := fun c hc => function_ne (by omega)
  simp (disch := decide) [decodeMulDiv, hrow]

/-! ## Results as numbers (06 R112) -/

theorem toNat_sub_emod {n : Nat} (x y : BitVec n) : ((x - y).toNat : Int) = ((x.toNat : Int) - y.toNat) % 2 ^ n := by
  rw [BitVec.toNat_sub]
  push_cast [Nat.cast_sub y.isLt.le]
  rw [show (2 ^ n - y.toNat + x.toNat : Int) = x.toNat - y.toNat + 2 ^ n by ring, Int.add_emod_right]

theorem toNat_widened {n : Nat} (h : n ≤ 64) (x : BitVec n) : (x.setWidth 64).toNat = x.toNat := BitVec.toNat_setWidth_of_le h

theorem toNat_add32 (x y : Word) :
    ((x.setWidth 32 + y.setWidth 32).setWidth 64).toNat = (x.toNat % 2 ^ 32 + y.toNat % 2 ^ 32) % 2 ^ 32 := by
  rw [toNat_widened (by decide), BitVec.toNat_add, BitVec.toNat_setWidth, BitVec.toNat_setWidth]

theorem toNat_sub32 (x y : Word) :
    (((x.setWidth 32 - y.setWidth 32).setWidth 64).toNat : Int) = ((x.toNat : Int) - y.toNat) % 2 ^ 32 := by
  rw [toNat_widened (by decide), toNat_sub_emod, BitVec.toNat_setWidth, BitVec.toNat_setWidth]
  push_cast
  rw [← Int.sub_emod]

theorem toNat_mul32 (x y : Word) :
    ((x.setWidth 32 * y.setWidth 32).setWidth 64).toNat = (x.toNat % 2 ^ 32) * (y.toNat % 2 ^ 32) % 2 ^ 32 := by
  rw [toNat_widened (by decide), BitVec.toNat_mul, BitVec.toNat_setWidth, BitVec.toNat_setWidth]

theorem toInt_clampS64 (i : Int) : (clampS64 i).toInt = max (-(2 ^ 63)) (min (2 ^ 63 - 1) i) := by
  unfold clampS64
  split_ifs with hlow hhigh
  · rw [show (0x8000000000000000#64).toInt = -(2 ^ 63) from rfl]
    omega
  · rw [show (0x7FFFFFFFFFFFFFFF#64).toInt = 2 ^ 63 - 1 from rfl]
    omega
  · rw [BitVec.toInt_ofInt_eq_self (by decide) (by omega) (by omega)]
    omega

section
variable {n : Nat} (x y : BitVec n)

theorem toInt_lesser : (if y.slt x then y else x).toInt = min x.toInt y.toInt := by
  simp only [BitVec.slt_iff_toInt_lt]
  split_ifs <;> omega

theorem toInt_greater : (if x.slt y then y else x).toInt = max x.toInt y.toInt := by
  simp only [BitVec.slt_iff_toInt_lt]
  split_ifs <;> omega

theorem toNat_lesser : (if y.ult x then y else x).toNat = min x.toNat y.toNat := by
  simp only [BitVec.ult_iff_toNat_lt]
  split_ifs <;> omega

theorem toNat_greater : (if x.ult y then y else x).toNat = max x.toNat y.toNat := by
  simp only [BitVec.ult_iff_toNat_lt]
  split_ifs <;> omega

theorem toNat_shl (k : Nat) : (x <<< k).toNat = x.toNat * 2 ^ k % 2 ^ n := by
  rw [BitVec.toNat_shiftLeft, Nat.shiftLeft_eq]

theorem toNat_shr (k : Nat) : (x >>> k).toNat = x.toNat / 2 ^ k := by
  rw [BitVec.toNat_ushiftRight, Nat.shiftRight_eq_div_pow]

theorem toInt_sha (k : Nat) : (x.sshiftRight k).toInt = x.toInt / 2 ^ k := by
  rw [BitVec.toInt_sshiftRight, Int.shiftRight_eq_div_pow, Nat.cast_pow, Nat.cast_ofNat]

/-- A rotation takes each bit up by its amount, and around. -/
theorem getLsbD_rotateLeft_up {r i : Nat} (hr : r < n) (hi : i < n) : (x.rotateLeft r).getLsbD ((i + r) % n) = x.getLsbD i := by
  rw [BitVec.getLsbD_rotateLeft_of_le hr]
  by_cases h : i + r < n
  · simp [Nat.mod_eq_of_lt h, h]
  · have hwrap : (i + r) % n = i + r - n := by rw [Nat.mod_eq_sub_mod (by omega), Nat.mod_eq_of_lt (by omega)]
    simp [hwrap, show i + r - n < r by omega, show n - r + (i + r - n) = i by omega]

end

theorem shamt_eq (y : Word) : shamt y = y.toNat % 64 := BitVec.extractLsb'_toNat ..

/-- Settles O1: each form is `setG` with its result, and each result is a number or a row of bits by the lemma on its operation. -/
theorem aluGroupResults : Obligations.AluGroupResults := by
  unfold Obligations.AluGroupResults
  intro s d a b c x y sh
  have hsh : shamt y = sh := shamt_eq y
  refine ⟨writesG_of_setG rfl (BitVec.toNat_add x y), writesG_of_setG rfl (toNat_sub_emod x y), writesG_of_setG rfl fun i _ => BitVec.getLsbD_and,
    writesG_of_setG rfl fun i _ => BitVec.getLsbD_or, writesG_of_setG rfl fun i _ => BitVec.getLsbD_xor, writesG_of_setG rfl fun i hi => ?andn,
    writesG_of_setG rfl fun i hi => ?orn, writesG_of_setG rfl (hsh ▸ toNat_shl x _), writesG_of_setG rfl (hsh ▸ toNat_shr x _),
    writesG_of_setG rfl (hsh ▸ toInt_sha x _), writesG_of_setG rfl fun i hi => ?rol, writesG_of_setG rfl (toInt_lesser x y),
    writesG_of_setG rfl (toInt_greater x y), writesG_of_setG rfl (toNat_lesser x y), writesG_of_setG rfl (toNat_greater x y),
    writesG_of_setG rfl (toInt_clampS64 _), writesG_of_setG rfl (toInt_clampS64 _), writesG_of_setG rfl (toNat_add32 x y),
    writesG_of_setG rfl (toNat_sub32 x y), writesG_of_setG rfl rfl, ?words, fun w hmajor hfn => ?unassigned⟩
  case andn => simp [x, y, hi]
  case orn => simp [x, y, hi]
  case rol =>
    rw [← hsh]
    exact getLsbD_rotateLeft_up x (hsh ▸ Nat.mod_lt _ (by decide)) hi
  case words =>
    simp only [List.forall_mem_cons]
    iterate 19 refine ⟨wordA_of_encode rfl rfl rfl, ?_⟩
    exact ⟨wordA_sel d a b c, List.forall_mem_nil _⟩
  case unassigned =>
    have hdecode : decode w = decodeAlu w := by simp [decode, major_of_div (k := 1#6) hmajor]
    rw [hdecode, decodeAlu_unassigned hfn]

/-! ## Products and divisions (06 R113) -/

theorem toInt_mulh (x y : Word) : (BitVec.ofInt 64 (x.toInt * y.toInt / 2 ^ 64)).toInt = x.toInt * y.toInt / 2 ^ 64 := by
  have hlow : -2 ^ 126 ≤ x.toInt * y.toInt := BitVec.le_toInt_mul_toInt
  have hhigh : x.toInt * y.toInt ≤ 2 ^ 126 := BitVec.toInt_mul_toInt_le
  exact BitVec.toInt_ofInt_eq_self (by decide) (by omega) (by omega)

theorem toNat_mulhn (x y : Word) : (BitVec.ofNat 64 (x.toNat * y.toNat / 2 ^ 64)).toNat = x.toNat * y.toNat / 2 ^ 64 := by
  have hprod : x.toNat * y.toNat < 2 ^ 64 * 2 ^ 64 := Nat.mul_lt_mul'' x.isLt y.isLt
  exact Nat.mod_eq_of_lt (Nat.div_lt_of_lt_mul hprod)

theorem toNat_eq_toInt_emod {n : Nat} (x : BitVec n) : (x.toNat : Int) = x.toInt % 2 ^ n := by
  have hpow : ((2 ^ n : Nat) : Int) = 2 ^ n := by push_cast; rfl
  rw [BitVec.toInt_eq_toNat_bmod, ← hpow, Int.bmod_emod, ← Int.natCast_emod, Nat.mod_eq_of_lt x.isLt]

theorem toNat_sdiv_emod {n : Nat} (x y : BitVec n) : ((x.sdiv y).toNat : Int) = Int.tdiv x.toInt y.toInt % 2 ^ n := by
  have hpow : ((2 ^ n : Nat) : Int) = 2 ^ n := by push_cast; rfl
  rw [toNat_eq_toInt_emod, BitVec.toInt_sdiv, ← hpow, Int.bmod_emod]

theorem toInt_srem_eq_sub {n : Nat} (x y : BitVec n) : (x.srem y).toInt = x.toInt - Int.tdiv x.toInt y.toInt * y.toInt := by
  rw [BitVec.toInt_srem, Int.tmod_def, mul_comm]

section
variable {i : Instr} {s : State} {d a b : Reg} {q : Word → Word → Word} (hexec : exec i s = divide s d a b q)
include hexec

theorem writesG_of_divide {p : Word → Prop} (hb : readG s b ≠ 0#64) (hp : p (q (readG s a) (readG s b))) : WritesG i s d p :=
  writesG_of_setG (hexec.trans (if_neg hb)) hp

/-- A zero divisor (06 R113). -/
theorem traps_of_divide (hb : readG s b = 0#64) : Traps i s 0x0E (readG s a) :=
  traps_of_takeTrap (hexec.trans (if_pos hb)) (by decide) rfl

end

/-- Settles O2: products by their ranges, divisions behind the check of their divisor. -/
theorem multiplyAndDivideResults : Obligations.MultiplyAndDivideResults := by
  unfold Obligations.MultiplyAndDivideResults
  refine ⟨fun s d a b => ?results, fun s d a b hb => ?faults, fun d a b => ?words, fun w hmajor hfn => ?unassigned⟩
  case results =>
    intro x y
    exact ⟨writesG_of_setG rfl (BitVec.toNat_mul x y), writesG_of_setG rfl (toInt_mulh x y), writesG_of_setG rfl (toNat_mulhn x y),
      writesG_of_setG rfl (toNat_mul32 x y), fun hy => ⟨writesG_of_divide rfl hy (toNat_sdiv_emod x y), writesG_of_divide rfl hy BitVec.toNat_udiv,
        writesG_of_divide rfl hy (toInt_srem_eq_sub x y), writesG_of_divide rfl hy BitVec.toNat_umod⟩⟩
  case faults => exact ⟨traps_of_divide rfl hb, traps_of_divide rfl hb, traps_of_divide rfl hb, traps_of_divide rfl hb⟩
  case words =>
    simp only [List.forall_mem_cons]
    iterate 8 refine ⟨wordA_of_encode rfl rfl rfl, ?_⟩
    exact List.forall_mem_nil _
  case unassigned =>
    have hdecode : decode w = decodeMulDiv w := by simp [decode, major_of_div (k := 2#6) hmajor]
    rw [hdecode, decodeMulDiv_unassigned hfn]

end Sys2Proof.Machine
end

section
/-! PROOFS. Bits, fields, immediates and conditions (O3, O4), and the class mask (O6). -/

namespace Sys2Proof.Machine

open Sys2Proof.Claims

/-! ## Counts of bits and reversals (06 R114) -/

theorem toNat_count {n : Nat} (h : n ≤ 64) : (BitVec.ofNat 64 n).toNat = n := by
  rw [BitVec.toNat_ofNat]
  omega

theorem clzWord_spec (x : Word) : clzWord x ≤ 64 ∧ (∀ i < clzWord x, x.getLsbD (63 - i) = false)
    ∧ (clzWord x < 64 → x.getLsbD (63 - clzWord x) = true) := by
  unfold clzWord
  split_ifs with hzero
  · have hx : x = 0#64 := BitVec.eq_of_toNat_eq hzero
    simp [hx]
  · have htop : x.toNat.log2 < 64 := (Nat.log2_lt hzero).mpr x.isLt
    refine ⟨by omega, fun i hi => ?_, fun _ => ?_⟩
    · exact Nat.testBit_lt_two_pow (lt_of_lt_of_le Nat.lt_log2_self (Nat.pow_le_pow_right (by decide) (by omega)))
    · rw [show 63 - (63 - x.toNat.log2) = x.toNat.log2 by omega]
      exact Nat.testBit_log2 hzero

theorem ctzWord_spec (x : Word) : ctzWord x ≤ 64 ∧ (∀ i < ctzWord x, x.getLsbD i = false)
    ∧ (ctzWord x < 64 → x.getLsbD (ctzWord x) = true) := by
  unfold ctzWord
  cases hfind : (List.range 64).find? (fun i => x.getLsbD i) with
  | none =>
    rw [List.find?_range_eq_none] at hfind
    simpa using hfind
  | some k =>
    obtain ⟨hk, hmem, hbelow⟩ := List.find?_range_eq_some.mp hfind
    have hlt : k < 64 := List.mem_range.mp hmem
    exact ⟨hlt.le, fun i hi => by simpa using hbelow i hi, fun _ => hk⟩

/-- As many elements of a range pass a test as the test is 1 on it. -/
theorem length_filter_range (p : Nat → Bool) (n : Nat) : ((List.range n).filter p).length = ∑ i ∈ Finset.range n, (p i).toNat := by
  induction n with
  | zero => rfl
  | succ n ih =>
    rw [List.range_succ, List.filter_append, List.length_append, ih, Finset.sum_range_succ]
    cases h : p n <;> simp [h]

theorem popcWord_le (x : Word) : popcWord x ≤ 64 := by
  unfold popcWord
  exact (List.length_filter_le ..).trans_eq List.length_range

/-- The bits of a row, the first one highest. -/
def reversedSum (p : Nat → Bool) (n : Nat) : Nat := ((List.range n).map (fun i => if p i then 2 ^ (n - 1 - i) else 0)).sum

theorem reversedSum_succ (p : Nat → Bool) (n : Nat) : reversedSum p (n + 1) = 2 * reversedSum p n + (p n).toNat := by
  have hdouble : (List.range n).map (fun i => if p i then 2 ^ (n + 1 - 1 - i) else 0)
      = (List.range n).map (fun i => 2 * if p i then 2 ^ (n - 1 - i) else 0) := by
    refine List.map_congr_left fun i hi => ?_
    have hlt := List.mem_range.mp hi
    rw [show n + 1 - 1 - i = n - 1 - i + 1 by omega, pow_succ, mul_comm]
    split_ifs <;> rfl
  unfold reversedSum
  rw [List.range_succ, List.map_append, List.sum_append, hdouble, List.sum_map_mul_left]
  cases h : p n <;> simp [h]

theorem testBit_reversedSum (p : Nat → Bool) (n j : Nat) : (reversedSum p n).testBit j = (decide (j < n) && p (n - 1 - j)) := by
  induction n generalizing j with
  | zero => simp [reversedSum]
  | succ n ih =>
    rw [reversedSum_succ]
    cases j with
    | zero => cases h : p n <;> simp [h, Nat.testBit_zero]
    | succ j =>
      rw [Nat.testBit_succ, show (2 * reversedSum p n + (p n).toNat) / 2 = reversedSum p n by have := Bool.toNat_lt (p n); omega, ih]
      simp [show n - (j + 1) = n - 1 - j by omega]

theorem getLsbD_brevWord (x : Word) {i : Nat} (hi : i < 64) : (brevWord x).getLsbD i = x.getLsbD (63 - i) := by
  show (BitVec.ofNat 64 (reversedSum x.getLsbD 64)).getLsbD i = _
  rw [BitVec.getLsbD_ofNat, testBit_reversedSum]
  simp [hi]

theorem bswapWord_byte (x : Word) : ∀ i < 8, (bswapWord x).extractLsb' (8 * i) 8 = x.extractLsb' (8 * (7 - i)) 8 := by
  have hbyte : ∀ k, (x.extractLsb' k 8).toNat < 256 := fun k => BitVec.isLt _
  have h0 := hbyte 0
  have h1 := hbyte 8
  have h2 := hbyte 16
  have h3 := hbyte 24
  have h4 := hbyte 32
  have h5 := hbyte 40
  have h6 := hbyte 48
  have h7 := hbyte 56
  intro i hi
  apply BitVec.eq_of_toNat_eq
  rw [BitVec.extractLsb'_toNat, Nat.shiftRight_eq_div_pow]
  unfold bswapWord
  simp only [toNat_append_add]
  interval_cases i
  all_goals
    simp only [Nat.reduceSub, Nat.reduceMul]
    omega

theorem toNat_absWord (x : Word) : (if x.msb then -x else x).toNat = x.toInt.natAbs := by
  have hrange := x.isLt
  rw [BitVec.toInt_eq_msb_cond]
  split_ifs with hneg
  · rw [BitVec.msb_eq_decide, decide_eq_true_eq] at hneg
    rw [BitVec.toNat_neg]
    omega
  · omega

theorem neg_add_emod (x : Word) : ((-x).toNat + x.toNat) % 2 ^ 64 = 0 := by
  have hrange := x.isLt
  rw [BitVec.toNat_neg]
  omega

/-! ## Fields (06 R115) -/

theorem fieldPos_eq (b : Word) : fieldPos b = b.toNat % 64 := BitVec.extractLsb'_toNat ..

theorem fieldLen_eq (b : Word) : fieldLen b = min (b.toNat / 256 % 128) (64 - b.toNat % 64) := by
  unfold fieldLen
  rw [fieldPos_eq, BitVec.extractLsb'_toNat, Nat.shiftRight_eq_div_pow]

theorem toNat_field (a b : Word) : (a.extractLsb' (fieldPos b) (fieldLen b)).toNat = a.toNat / 2 ^ fieldPos b % 2 ^ fieldLen b := by
  rw [BitVec.extractLsb'_toNat, Nat.shiftRight_eq_div_pow]

theorem extractN_eq_setWidth (a b : Word) : extractN a b = (a.extractLsb' (fieldPos b) (fieldLen b)).setWidth 64 := by
  apply BitVec.eq_of_toNat_eq
  rw [BitVec.toNat_setWidth, toNat_field]
  rfl

theorem extractS_eq_signExtend {a b : Word} (hn : fieldLen b ≠ 0) :
    extractS a b = (a.extractLsb' (fieldPos b) (fieldLen b)).signExtend 64 := by
  have hhalf : 2 ^ fieldLen b = 2 * 2 ^ (fieldLen b - 1) := by rw [← pow_succ', Nat.sub_add_cancel (by omega)]
  unfold extractS BitVec.signExtend
  dsimp only
  rw [if_neg hn, BitVec.toInt_eq_toNat_cond, toNat_field]
  split_ifs with hlow hpos hpos
  · rfl
  · omega
  · omega
  · push_cast
    rfl

theorem getLsbD_extractN (a b : Word) {i : Nat} (hi : i < 64) :
    (extractN a b).getLsbD i = (decide (i < fieldLen b) && a.getLsbD (fieldPos b + i)) := by
  rw [extractN_eq_setWidth, BitVec.getLsbD_setWidth, BitVec.getLsbD_extractLsb']
  simp [hi]

theorem getLsbD_extractS {a b : Word} (hn : fieldLen b ≠ 0) {i : Nat} (hi : i < 64) :
    (extractS a b).getLsbD i = a.getLsbD (fieldPos b + if i < fieldLen b then i else fieldLen b - 1) := by
  rw [extractS_eq_signExtend hn, BitVec.getLsbD_signExtend, BitVec.msb_eq_getLsbD_last]
  split_ifs with hin
  · simp [hi, hin]
  · simp [hi, show 0 < fieldLen b by omega]

theorem getLsbD_insertField (old a b : Word) {i : Nat} (hi : i < 64) : (insertField old a b).getLsbD i
    = if fieldPos b ≤ i ∧ i < fieldPos b + fieldLen b then a.getLsbD (i - fieldPos b) else old.getLsbD i := by
  have hmask : (BitVec.ofNat 64 ((2 ^ fieldLen b - 1) * 2 ^ fieldPos b)).getLsbD i
      = decide (fieldPos b ≤ i ∧ i < fieldPos b + fieldLen b) := by
    rw [BitVec.getLsbD_ofNat, Nat.testBit_mul_two_pow, Nat.testBit_two_pow_sub_one]
    simp only [hi, decide_true, Bool.true_and, ← Bool.decide_and]
    exact decide_eq_decide.mpr (by omega)
  unfold insertField
  simp only [BitVec.getLsbD_or, BitVec.getLsbD_and, BitVec.getLsbD_not, hmask]
  split_ifs with hin
  · rw [BitVec.getLsbD_ofNat, Nat.testBit_mul_two_pow, Nat.testBit_mod_two_pow]
    simp [hi, hin, show i - fieldPos b < fieldLen b by omega]
    rfl
  · simp [hi, hin]

/-! ## The checksum step (06 R116) -/

theorem toNat_rotateLeft_five (x : BitVec 32) : (x.rotateLeft 5).toNat = rot5 x.toNat := by
  have hlow : x.toNat <<< 5 % 2 ^ 32 = (x.toNat % 2 ^ 27) <<< 5 := by
    rw [Nat.shiftLeft_eq, Nat.shiftLeft_eq]
    omega
  have hcarry : x.toNat >>> 27 < 2 ^ 5 := by
    have := x.isLt
    rw [Nat.shiftRight_eq_div_pow]
    omega
  rw [BitVec.toNat_rotateLeft, show 5 % 32 = 5 from rfl, hlow, ← Nat.shiftLeft_add_eq_or_of_lt hcarry, Nat.shiftLeft_eq,
    Nat.shiftRight_eq_div_pow]
  unfold rot5
  omega

theorem toNat_csumStep (x y : Word) :
    ((csumStep (x.setWidth 32) (y.setWidth 32)).setWidth 64).toNat = (rot5 (x.toNat % 2 ^ 32) + y.toNat % 2 ^ 32) % 2 ^ 32 := by
  unfold csumStep
  rw [toNat_widened (by decide), BitVec.toNat_add, toNat_rotateLeft_five, BitVec.toNat_setWidth, BitVec.toNat_setWidth]

/-- Settles O3: counts and reversals by what their definitions find or sum, fields by their bits. -/
theorem bitAndFieldResults : Obligations.BitAndFieldResults := by
  unfold Obligations.BitAndFieldResults
  refine ⟨fun s d a => ?bits, fun s d a b => ?fields⟩
  case bits =>
    intro x
    refine ⟨writesG_of_setG rfl ?clz, writesG_of_setG rfl ?ctz, writesG_of_setG rfl ?popc, writesG_of_setG rfl fun i hi => getLsbD_brevWord x hi,
      writesG_of_setG rfl (bswapWord_byte x), writesG_of_setG rfl (toNat_absWord x), writesG_of_setG rfl (neg_add_emod x)⟩
    case clz =>
      rw [toNat_count (clzWord_spec x).1]
      exact clzWord_spec x
    case ctz =>
      rw [toNat_count (ctzWord_spec x).1]
      exact ctzWord_spec x
    case popc => exact (toNat_count (popcWord_le x)).trans (length_filter_range _ 64)
  case fields =>
    intro x pos n
    have hpos : fieldPos (readG s b) = pos := fieldPos_eq _
    have hn : fieldLen (readG s b) = n := fieldLen_eq _
    rw [← hpos, ← hn]
    refine ⟨writesG_of_setG rfl ⟨fun hzero => if_pos hzero, fun i hi hne => getLsbD_extractS hne hi⟩,
      writesG_of_setG rfl fun i hi => getLsbD_extractN _ _ hi, writesG_of_setG rfl fun i hi => getLsbD_insertField _ _ _ hi,
      writesG_of_setG rfl (toNat_csumStep _ _)⟩

/-! ## Immediates and constants (06 R117, R118) -/

theorem add_signExtend_eq_ofInt {n : Nat} (x : Word) (i : BitVec n) : x + i.signExtend 64 = BitVec.ofInt 64 (x.toNat + i.toInt) := by
  rw [BitVec.ofInt_add, BitVec.ofInt_natCast, BitVec.ofNat_toNat, BitVec.setWidth_eq, BitVec.signExtend]

theorem toNat_add_signExtend {n : Nat} (x : Word) (i : BitVec n) : ((x + i.signExtend 64).toNat : Int) = ((x.toNat : Int) + i.toInt) % 2 ^ 64 := by
  rw [add_signExtend_eq_ofInt, BitVec.toNat_ofInt]
  omega

theorem getLsbD_immediate {n : Nat} (i : BitVec n) {j : Nat} (hj : j < 64) : (i.setWidth 64).getLsbD j = i.getLsbD j := by
  simp [hj]

theorem toNat_lis (x : Word) (k : BitVec 20) : (x <<< 20 ||| k.setWidth 64).toNat = x.toNat * 2 ^ 20 % 2 ^ 64 + k.toNat := by
  have hhigh : x.toNat * 2 ^ 20 % 2 ^ 64 = (x.toNat % 2 ^ 44) <<< 20 := by
    rw [Nat.shiftLeft_eq]
    omega
  rw [BitVec.toNat_or, toNat_shl, toNat_widened (by decide), hhigh, Nat.shiftLeft_add_eq_or_of_lt k.isLt]

/-! ## Comparisons (06 R119, R120, 04 R77) -/

theorem beq_eq_decide_toNat {n : Nat} (x y : BitVec n) : (x == y) = decide (x.toNat = y.toNat) :=
  decide_eq_decide.mpr BitVec.toNat_inj.symm

theorem beq_eq_decide_toInt {n : Nat} (x y : BitVec n) : (x == y) = decide (x.toInt = y.toInt) :=
  decide_eq_decide.mpr BitVec.toInt_inj.symm

theorem bne_eq_decide_toNat {n : Nat} (x y : BitVec n) : (x != y) = decide (x.toNat ≠ y.toNat) := by
  rw [bne, beq_eq_decide_toNat, decide_not]

theorem bne_eq_decide_toInt {n : Nat} (x y : BitVec n) : (x != y) = decide (x.toInt ≠ y.toInt) := by
  rw [bne, beq_eq_decide_toInt, decide_not]

theorem and_bne_zero (x y : Word) : (x &&& y != 0#64) = decide (x.toNat &&& y.toNat ≠ 0) := bne_eq_decide_toNat _ _

theorem toInt_signExtend_word {n : Nat} (h : n ≤ 64) (i : BitVec n) : (i.signExtend 64).toInt = i.toInt := BitVec.toInt_signExtend_of_le h

theorem toNat_signExtend_word {n : Nat} (h : n ≤ 64) (i : BitVec n) : ((i.signExtend 64).toNat : Int) = i.toInt % 2 ^ 64 := by
  rw [toNat_eq_toInt_emod, toInt_signExtend_word h]

/-- The conditions of CMPI, its immediate sign-extended for all of them (06 R120). -/
theorem condHolds_immediate (x : Word) (i : BitVec 14) :
    condHolds 0 x (i.signExtend 64) = decide (x.toInt = i.toInt) ∧ condHolds 1 x (i.signExtend 64) = decide (x.toInt ≠ i.toInt)
    ∧ condHolds 2 x (i.signExtend 64) = decide (x.toInt < i.toInt) ∧ condHolds 3 x (i.signExtend 64) = decide (x.toInt ≤ i.toInt)
    ∧ condHolds 4 x (i.signExtend 64) = decide ((x.toNat : Int) < i.toInt % 2 ^ 64)
    ∧ condHolds 5 x (i.signExtend 64) = decide ((x.toNat : Int) ≤ i.toInt % 2 ^ 64)
    ∧ condHolds 6 x (i.signExtend 64) = decide (i.toInt < x.toInt) ∧ condHolds 7 x (i.signExtend 64) = decide (i.toInt ≤ x.toInt) := by
  have hfits : 14 ≤ 64 := by decide
  rw [← toNat_signExtend_word hfits, ← toInt_signExtend_word hfits]
  exact ⟨beq_eq_decide_toInt .., bne_eq_decide_toInt .., BitVec.slt_eq_decide, BitVec.sle_eq_decide,
    decide_eq_decide.mpr Int.ofNat_lt.symm, decide_eq_decide.mpr Int.ofNat_le.symm, BitVec.slt_eq_decide, BitVec.sle_eq_decide⟩

/-- Settles O4: each immediate form is its register form on the extended immediate; each comparison is one of numbers. -/
theorem immediateAndConditionResults : Obligations.ImmediateAndConditionResults := by
  unfold Obligations.ImmediateAndConditionResults
  refine ⟨fun s d a i n k => ?immediates, fun s d a b p q i => ?conditions⟩
  case immediates =>
    intro x
    refine ⟨writesG_of_setG rfl (toNat_add_signExtend x i), writesG_of_setG rfl fun j hj => ?and, writesG_of_setG rfl fun j hj => ?or,
      writesG_of_setG rfl fun j hj => ?xor, writesG_of_setG rfl (toNat_shl x _), writesG_of_setG rfl (toNat_shr x _),
      writesG_of_setG rfl (toInt_sha x _), writesG_of_setG rfl fun j hj => getLsbD_rotateLeft_up x n.isLt hj,
      writesG_of_setG rfl (toInt_signExtend_word (by decide) k), writesG_of_setG rfl (toNat_lis _ k), writesG_of_setG rfl (toNat_target s k)⟩
    case and => rw [BitVec.getLsbD_and, getLsbD_immediate i hj]
    case or => rw [BitVec.getLsbD_or, getLsbD_immediate i hj]
    case xor => rw [BitVec.getLsbD_xor, getLsbD_immediate i hj]
  case conditions =>
    intro x y k kn
    obtain ⟨heq, hne, hlt, hle, hltn, hlen, hgt, hge⟩ := condHolds_immediate x i
    exact ⟨writesC_of_setC rfl (beq_eq_decide_toNat x y), writesC_of_setC rfl (bne_eq_decide_toNat x y), writesC_of_setC rfl BitVec.slt_eq_decide,
      writesC_of_setC rfl BitVec.sle_eq_decide, writesC_of_setC rfl BitVec.ult_eq_decide, writesC_of_setC rfl rfl,
      writesC_of_setC rfl (and_bne_zero x y), writesC_of_setC rfl rfl, writesC_of_setC rfl rfl, writesC_of_setC rfl rfl, writesC_of_setC rfl rfl,
      writesC_of_setC rfl heq, writesC_of_setC rfl hne, writesC_of_setC rfl hlt, writesC_of_setC rfl hle, writesC_of_setC rfl hltn,
      writesC_of_setC rfl hlen, writesC_of_setC rfl hgt, writesC_of_setC rfl hge⟩

/-! ## The class mask (06 R123) -/

/-- A pattern of a format with infinities, by its fields (03 R51). -/
theorem flOf_fields {f : Fmt} (h : f.e4m3 = false) (a : Nat) : flOf f a =
    let neg := decide (a / 2 ^ (f.ew + f.mw) % 2 = 1)
    let e := a / 2 ^ f.mw % 2 ^ f.ew
    let m := a % 2 ^ f.mw
    if e = 2 ^ f.ew - 1 then (if m = 0 then .inf neg else .nan (decide (m < 2 ^ (f.mw - 1))))
    else if e = 0 then .fin neg m (f.emin - f.mw) else .fin neg (m + 2 ^ f.mw) ((e : Int) - f.bias - f.mw) := by
  unfold flOf Fmt.signBit
  dsimp only
  rw [if_neg (by simp [h])]
  by_cases htop : a / 2 ^ f.mw % 2 ^ f.ew = 2 ^ f.ew - 1
  · rw [if_pos ⟨by simp [h], htop⟩, if_pos htop]
  · rw [if_neg fun hc => htop hc.2, if_neg htop]

/-- In a format with infinities the mask is the one bit of the class that the fields show. -/
theorem fClass_eq_two_pow {f : Fmt} (h : f.e4m3 = false) (a : Nat) : fClass f a = 2 ^ classOf f a := by
  have hm : a % 2 ^ f.mw < 2 ^ f.mw := Nat.mod_lt _ (by positivity)
  unfold fClass classOf
  rw [flOf_fields h]
  dsimp only
  by_cases htop : a / 2 ^ f.mw % 2 ^ f.ew = 2 ^ f.ew - 1
  · rw [if_pos htop, if_pos htop]
    by_cases hzero : a % 2 ^ f.mw = 0
    · rw [if_pos hzero, if_pos hzero]
      simp only [decide_eq_true_eq]
      split_ifs <;> rfl
    · rw [if_neg hzero, if_neg hzero]
      simp only [decide_eq_true_eq]
      split_ifs <;> rfl
  · rw [if_neg htop, if_neg htop]
    by_cases hlow : a / 2 ^ f.mw % 2 ^ f.ew = 0
    · rw [if_pos hlow, if_pos hlow]
      simp only [hm, if_true, decide_eq_true_eq]
      split_ifs <;> rfl
    · have hnormal : a % 2 ^ f.mw + 2 ^ f.mw ≠ 0 := by omega
      rw [if_neg hlow, if_neg hlow]
      simp only [hnormal, if_false, decide_eq_true_eq, show ¬ a % 2 ^ f.mw + 2 ^ f.mw < 2 ^ f.mw by omega]
      split_ifs <;> rfl

theorem classOf_lt (f : Fmt) (a : Nat) : classOf f a < 10 := by
  unfold classOf
  dsimp only
  split_ifs <;> decide

/-- The formats of FCLASS are those of the handler's arithmetic, all with infinities (06 R121). -/
theorem fmtOf_handler_e4m3 (f : BitVec 2) : (fmtOf (f.setWidth 3)).e4m3 = false := by
  revert f
  decide

/-- Settles O6: the mask is one bit by the fields of the operand, and the instruction is `setG`, which raises no flag. -/
theorem classMaskIsOneHot : Obligations.ClassMaskIsOneHot := by
  unfold Obligations.ClassMaskIsOneHot
  intro s d a f
  refine writesG_of_setG rfl ?_
  rw [fClass_eq_two_pow (fmtOf_handler_e4m3 f), BitVec.toNat_ofNat]
  exact Nat.mod_eq_of_lt (Nat.pow_lt_pow_right (by decide) ((classOf_lt _ _).trans (by decide)))

end Sys2Proof.Machine
end

section
/-! PROOFS. Handler control (O11): what END and YIELD leave of the handler table and of memory, and IDLE. -/

namespace Sys2Proof.Machine

open Sys2Proof.Claims

/-! ## The entry that gives up the sequencer (05 R98) -/

section
variable (c : Ctx) (i : BitVec 5) (pc : Word) (f : Entry → Entry)

theorem getEntry_leave_self : getEntry (leave c i pc f) i = f { getEntry c i with block := { c.regs with pc := pc } } := by
  show getEntry (setEntry (saveBlock c i pc) i (f (getEntry (saveBlock c i pc) i))) i = _
  rw [getEntry_setEntry_self, saveBlock, getEntry_setEntry_self]

theorem getEntry_leave_ne {j : BitVec 5} (h : j ≠ i) : getEntry (leave c i pc f) j = getEntry c j := by
  show getEntry (setEntry (saveBlock c i pc) i _) j = _
  rw [getEntry_setEntry_ne _ _ h, saveBlock, getEntry_setEntry_ne _ _ h]

theorem leave_regs : (leave c i pc f).regs = c.regs := by
  unfold leave saveBlock setEntry
  rfl

theorem leave_sys : (leave c i pc f).sys = c.sys := by
  unfold leave saveBlock setEntry
  rfl

end

/-! ## Dirty bytes at their homes (08 R170) -/

theorem memByte_writeBack_dirty (s : State) {l : Line} {j : Nat} (hj : j < 128) (hd : l.dirty.getLsbD j = true) :
    memByte (writeBack s l).mem (l.num * 128 + j) = l.data.extractLsb' (8 * j) 8 := by
  have hdirty : l.dirty ≠ 0#128 := fun h => by simp [h] at hd
  have hoff : l.num * 128 + j - l.num * 128 = j := by omega
  rw [writeBack_mem, if_neg hdirty, memByte_mergeLine, hoff, if_pos ⟨by omega, by omega, hd⟩]

/-- A line that alone holds its number is written back once, or again from the same bytes; the others do not reach it. -/
theorem written_writeBackAll (s : State) (ls : List Line) : Written (writeBackAll s ls) ls := by
  induction ls generalizing s with
  | nil => exact fun l hl => absurd hl List.not_mem_nil
  | cons k ks ih =>
    intro l hl halone j hj hd
    rw [writeBackAll]
    by_cases hlater : l ∈ ks
    · exact ih (writeBack s k) l hlater (fun m hm => halone m (List.mem_cons_of_mem _ hm)) j hj hd
    · obtain rfl : l = k := (List.mem_cons.mp hl).resolve_right hlater
      have hrest : Uncovered ks (l.num * 128 + j) := by
        rintro m hm ⟨hnum, -⟩
        have heq := halone m (List.mem_cons_of_mem _ hm) (by omega)
        exact hlater (heq ▸ hm)
      rw [memByte_writeBackAll hrest, memByte_writeBack_dirty s hj hd]

/-! ## The release of END (10 R230) -/

theorem endRelease_mem (s : State) : (endRelease s).mem = (writeBackAll s s.me.l1).mem := rfl

theorem endRelease_keeps (s : State) : (endRelease s).me.htab = s.me.htab ∧ (endRelease s).me.regs = s.me.regs
    ∧ (endRelease s).me.sys = s.me.sys ∧ (endRelease s).win = s.win := by
  have hback := backFrame_writeBackAll s s.me.l1
  exact ⟨hback.me_htab, hback.me_regs, hback.me_sys, hback.win⟩

/-! ## END (06 R132) -/

/-- How END leaves its entry: Runnable where it has become pending, else Idle. -/
def endEntry (e : Entry) : Entry :=
  if e.pending then { e with st := .runnable, pending := false, resume := false, wait := 0, why := .nothing }
  else { e with st := .idle, resume := false, why := .nothing }

theorem endEntry_spec (e : Entry) : (endEntry e).st = (if e.pending then .runnable else .idle) ∧ (endEntry e).pending = false
    ∧ (endEntry e).resume = false ∧ (endEntry e).image = e.image ∧ (endEntry e).block = e.block := by
  unfold endEntry
  cases e.pending <;> simp

/-- The state that END leaves. -/
def ended (s : State) (i : BitVec 5) : State :=
  { endRelease s with me := leave (endRelease s).me i (((getEntry (endRelease s).me i).image.extractLsb' 0 48).setWidth 64) endEntry }

section
variable {s : State} {i : BitVec 5}

theorem exec_endH_waits (hrun : s.me.run = some i) (hload : ∃ p ∈ s.me.pend, p.entry = i ∧ isLoadClass p = true) :
    exec .endH s = .next (hold s) := by
  have hany : s.me.pend.any (fun p => p.entry == i && isLoadClass p) = true := by
    obtain ⟨p, hp, hentry, hclass⟩ := hload
    exact List.any_eq_true.mpr ⟨p, hp, by simp [hentry, hclass]⟩
  show execEnd s = _
  unfold execEnd
  simp only [hrun, hany, if_true]

theorem exec_endH_ends (hrun : s.me.run = some i) (hdone : ∀ p ∈ s.me.pend, p.entry = i → isLoadClass p = false)
    (hlate : s.me.lateBad = []) (htakes : Takes s s.me.l1) : exec .endH s = .next (ended s i) := by
  have hany : s.me.pend.any (fun p => p.entry == i && isLoadClass p) = false := by
    rw [List.any_eq_false]
    intro p hp
    by_cases hentry : p.entry = i
    · simp [hdone p hp hentry]
    · simp [hentry]
  show execEnd s = _
  unfold execEnd regionEnd
  simp only [hrun, hany, hlate, if_true, Bool.false_eq_true, if_false]
  rw [guardBack_ok htakes, finish_ok]
  rfl

theorem getEntry_ended_self (s : State) (i : BitVec 5) : getEntry (ended s i).me i = endEntry { getEntry s.me i with
    block := { s.me.regs with pc := ((getEntry s.me i).image.extractLsb' 0 48).setWidth 64 } } := by
  obtain ⟨htab, hregs, -, -⟩ := endRelease_keeps s
  have hentry : getEntry (endRelease s).me i = getEntry s.me i := by unfold getEntry; rw [htab]
  unfold ended
  rw [getEntry_leave_self, hentry, hregs]

theorem keepsOtherEntries_ended (s : State) (i : BitVec 5) : KeepsOtherEntries s (ended s i) i := by
  intro j hj
  unfold ended
  rw [getEntry_leave_ne _ _ _ _ hj]
  unfold getEntry
  rw [(endRelease_keeps s).1]

theorem ended_mem (s : State) (i : BitVec 5) : (ended s i).mem = (writeBackAll s s.me.l1).mem := endRelease_mem s

theorem ended_keeps (s : State) (i : BitVec 5) : (ended s i).me.regs = s.me.regs ∧ (ended s i).me.sys = s.me.sys ∧ (ended s i).win = s.win := by
  obtain ⟨-, hregs, hsys, hwin⟩ := endRelease_keeps s
  unfold ended
  dsimp only
  rw [leave_regs, leave_sys]
  exact ⟨hregs, hsys, hwin⟩

theorem written_ended (s : State) (i : BitVec 5) : Written (ended s i) s.me.l1 := by
  intro l hl halone j hj hd
  rw [ended_mem]
  exact written_writeBackAll s s.me.l1 l hl halone j hj hd

theorem keepsCleanMemory_ended (s : State) (i : BitVec 5) : KeepsCleanMemory s (ended s i) := by
  obtain ⟨-, -, hwin⟩ := ended_keeps s i
  refine ⟨fun a ha => ?_, fun a => by rw [hwin]⟩
  rw [ended_mem]
  exact memByte_writeBackAll ha

theorem ended_l1_clean (s : State) (i : BitVec 5) : ∀ l ∈ (ended s i).me.l1, l.dirty = 0#128 := by
  intro l hl
  obtain ⟨k, -, rfl⟩ := List.mem_map.mp (show l ∈ s.me.l1.map _ from hl)
  rfl

end

/-! ## YIELD and IDLE (06 R132) -/

/-- How YIELD leaves its entry, and the state that it leaves. -/
def yieldEntry (e : Entry) : Entry := { e with st := .runnable, resume := true, wait := 0 }
def yielded (s : State) (i : BitVec 5) : State := { s with me := { leave s.me i (nextPc s).me.regs.pc yieldEntry with last := i } }

theorem exec_yield {s : State} {i : BitVec 5} (hrun : s.me.run = some i) : exec .yield s = .next (yielded s i) := by
  show execYield s = _
  unfold execYield
  rw [hrun]
  rfl

theorem getEntry_yielded_self (s : State) (i : BitVec 5) :
    getEntry (yielded s i).me i = yieldEntry { getEntry s.me i with block := { s.me.regs with pc := (nextPc s).me.regs.pc } } :=
  getEntry_leave_self s.me i (nextPc s).me.regs.pc yieldEntry

theorem keepsOtherEntries_yielded (s : State) (i : BitVec 5) : KeepsOtherEntries s (yielded s i) i :=
  fun _ hj => getEntry_leave_ne s.me i (nextPc s).me.regs.pc yieldEntry hj

theorem yielded_frame (s : State) (i : BitVec 5) :
    { yielded s i with me.run := s.me.run, me.last := s.me.last, me.htab := s.me.htab } = s := by
  unfold yielded leave saveBlock setEntry
  rfl

section
variable {s : State} (hp : 1 ≤ (priv s).toNat)
include hp

theorem exec_idle_goesOn (hwake : wakeCondition s.me = true) : exec .idle s = .next (nextPc s) := by
  show execIdle s = _
  unfold execIdle
  rw [needPriv_pass (level := 1) hp, finish_ok, if_pos hwake]

theorem exec_idle_waits (hwake : wakeCondition s.me ≠ true) : exec .idle s = .next (nextPc { s with me.sys.idle := true }) := by
  show execIdle s = _
  unfold execIdle
  rw [needPriv_pass (level := 1) hp, finish_ok, if_neg hwake]
  rfl

end

/-- Settles O11: NOP goes on; END, YIELD and IDLE by the states they leave. -/
theorem handlerControlCompletes : Obligations.HandlerControlCompletes := by
  unfold Obligations.HandlerControlCompletes
  intro s i
  refine ⟨goesOn_of_nextPc rfl, exec_endH_waits, fun hrun hdone hlate htakes => ?ends, fun hrun => ?yields, fun hp => ?idles⟩
  case ends =>
    obtain ⟨hregs, hsys, -⟩ := ended_keeps s i
    refine ⟨ended s i, exec_endH_ends hrun hdone hlate htakes, rfl, ?_⟩
    rw [getEntry_ended_self]
    obtain ⟨hst, hpending, hresume, himage, hblock⟩ := endEntry_spec { getEntry s.me i with
      block := { s.me.regs with pc := ((getEntry s.me i).image.extractLsb' 0 48).setWidth 64 } }
    exact ⟨hst, hpending, hresume, himage, hblock, keepsOtherEntries_ended s i, hregs, hsys, ended_l1_clean s i,
      written_ended s i, keepsCleanMemory_ended s i⟩
  case yields =>
    refine ⟨yielded s i, exec_yield hrun, rfl, rfl, ?_⟩
    rw [getEntry_yielded_self]
    exact ⟨rfl, rfl, rfl, rfl, rfl, rfl, nextPc_pc_eq, keepsOtherEntries_yielded s i, fun _ => ⟨rfl, rfl⟩, yielded_frame s i⟩
  case idles =>
    by_cases hwake : wakeCondition s.me = true
    · exact ⟨nextPc s, exec_idle_goesOn hp hwake, advances_nextPc rfl, fun _ => rfl, fun _ => rfl, fun _ => ⟨rfl, rfl⟩, fun _ => rfl,
        fun hsleep => absurd hwake (by simp [hsleep]), rfl⟩
    · exact ⟨nextPc { s with me.sys.idle := true }, exec_idle_waits hp hwake, advances_nextPc rfl, fun _ => rfl, fun _ => rfl,
        fun _ => ⟨rfl, rfl⟩, fun hawake => absurd hawake hwake, fun _ => rfl, rfl⟩

end Sys2Proof.Machine
end

section
/-! PROOFS. The context-set instructions (O18): the checks that the three share, the status each answers, and what each does to its set. -/

namespace Sys2Proof.Machine

open Sys2Proof.Claims

/-! ## The operand of the three (06 R136) -/

section
variable {s : State} {op : Word} {act : CoreId → Bool → SetRec → Nat × State}

/-- An operand whose must-be-zero bits are zero. -/
def GoodOp (op : Word) : Prop := op.toNat / 2 ^ 16 = 0 ∧ op.extractLsb' 13 2 = 0#2

theorem goodOp_iff (op : Word) : GoodOp op ↔ ¬ (op.extractLsb' 16 48 ≠ 0#48 ∨ op.extractLsb' 13 2 ≠ 0#2) := by
  have hhigh : op.extractLsb' 16 48 = 0#48 ↔ op.toNat / 2 ^ 16 = 0 := by
    have := op.isLt
    rw [← BitVec.toNat_inj, BitVec.extractLsb'_toNat, Nat.shiftRight_eq_div_pow, BitVec.toNat_ofNat]
    omega
  rw [GoodOp, ← hhigh, not_or, not_not, not_not]

theorem ctxOp_bad (h : ¬ GoodOp op) : ctxOp s op act = (5, s) := if_pos (not_not.mp ((goodOp_iff op).not.mp h))

theorem ctxOp_good (h : GoodOp op) : ctxOp s op act = if isMonitorCore (op.extractLsb' 0 12) then (2, s)
    else if op.getLsbD 15 then (0x100 + setCode (getSet (coreRec s (op.extractLsb' 0 12)) (op.getLsbD 12)).st, s)
    else act (op.extractLsb' 0 12) (op.getLsbD 12) (getSet (coreRec s (op.extractLsb' 0 12)) (op.getLsbD 12)) :=
  if_neg ((goodOp_iff op).mp h)

theorem ctxOp_monitorCore (h : GoodOp op) (hcore : isMonitorCore (op.extractLsb' 0 12) = true) : ctxOp s op act = (2, s) := by
  rw [ctxOp_good h, if_pos hcore]

theorem ctxOp_query (h : GoodOp op) (hcore : isMonitorCore (op.extractLsb' 0 12) = false) (hquery : op.getLsbD 15 = true) :
    ctxOp s op act = (0x100 + setCode (getSet (coreRec s (op.extractLsb' 0 12)) (op.getLsbD 12)).st, s) := by
  rw [ctxOp_good h, if_neg (ne_true_of_eq_false hcore), if_pos hquery]

theorem ctxOp_acts (h : GoodOp op ∧ isMonitorCore (op.extractLsb' 0 12) = false ∧ op.getLsbD 15 = false) :
    ctxOp s op act = act (op.extractLsb' 0 12) (op.getLsbD 12) (getSet (coreRec s (op.extractLsb' 0 12)) (op.getLsbD 12)) := by
  obtain ⟨hgood, hcore, hquery⟩ := h
  rw [ctxOp_good hgood, if_neg (ne_true_of_eq_false hcore), if_neg (ne_true_of_eq_false hquery)]

end

/-! ## The status and the end of the three (06 R137) -/

/-- The instruction is one of the three, with its action. -/
def IsCtxOp (i : Instr) (s : State) (d a : Reg) (act : CoreId → Bool → SetRec → Nat × State) : Prop :=
  ∃ word, exec i s = ctxEnd s d word (ctxOp s (readG s a) act)

/-- What CTXSW, CTXPARK and CTXLOAD do with a set that their operand names. -/
def ctxswAct (s : State) (core : CoreId) (b : Bool) (x : SetRec) : Nat × State :=
  let r := coreRec s core
  if r.running then (3, s)
  else if x.st = .ready ∨ x.st = .frozen then (0, setCore s core { r with swReq := some b })
  else (1, s)

def ctxparkAct (s : State) (core : CoreId) (b : Bool) (x : SetRec) : Nat × State :=
  if x.st = .ready ∨ x.st = .frozen then (0, setCore s core (putSet (coreRec s core) b { x with st := .parking })) else (1, s)

/-- The context of a save area, known before its set loads it. -/
def areaKnown (s : State) (core : CoreId) (area : Nat) : State :=
  updCtx (createCtx s (areaCtx s core area) { save := BitVec.ofNat 52 area }) (areaCtx s core area)
    (fun c => { c with sys.xsave := BitVec.ofNat 64 area })

def ctxloadAct (s : State) (address : Word) (core : CoreId) (b : Bool) (x : SetRec) : Nat × State :=
  if x.st ≠ .empty then (1, s)
  else if address.extractLsb' 0 16 ≠ 0#16 then (4, s)
  else
    let t := areaKnown s core (address.toNat % 2 ^ 52)
    (0, setCore t core (putSet (coreRec t core) b { x with st := .loading, ctx := some (areaCtx s core (address.toNat % 2 ^ 52)) }))

section
variable {s : State} {core : CoreId} {b : Bool} {x : SetRec} {address : Word}

theorem ctxswAct_running (h : (coreRec s core).running = true) : ctxswAct s core b x = (3, s) := if_pos h

theorem ctxswAct_not_atRest (h : (coreRec s core).running = false) (hx : ¬ AtRest x) : ctxswAct s core b x = (1, s) :=
  (if_neg (ne_true_of_eq_false h)).trans (if_neg hx)

theorem ctxswAct_atRest (h : (coreRec s core).running = false) (hx : AtRest x) :
    ctxswAct s core b x = (0, setCore s core { coreRec s core with swReq := some b }) :=
  (if_neg (ne_true_of_eq_false h)).trans (if_pos hx)

theorem ctxparkAct_not_atRest (hx : ¬ AtRest x) : ctxparkAct s core b x = (1, s) := if_neg hx

theorem ctxparkAct_atRest (hx : AtRest x) :
    ctxparkAct s core b x = (0, setCore s core (putSet (coreRec s core) b { x with st := .parking })) := if_pos hx

theorem ctxloadAct_full (hx : x.st ≠ .empty) : ctxloadAct s address core b x = (1, s) := if_pos hx

theorem low_half_zero (v : Word) : v.extractLsb' 0 16 = 0#16 ↔ v.toNat % 2 ^ 16 = 0 := by
  rw [← BitVec.toNat_inj, BitVec.extractLsb'_toNat]
  rfl

theorem ctxloadAct_misaligned (hx : x.st = .empty) (h : address.toNat % 2 ^ 16 ≠ 0) : ctxloadAct s address core b x = (4, s) :=
  (if_neg (not_not.mpr hx)).trans (if_pos ((low_half_zero _).not.mpr h))

theorem ctxloadAct_loads (hx : x.st = .empty) (h : address.toNat % 2 ^ 16 = 0) : ctxloadAct s address core b x =
    (0, setCore (areaKnown s core (address.toNat % 2 ^ 52)) core (putSet (coreRec (areaKnown s core (address.toNat % 2 ^ 52)) core) b
      { x with st := .loading, ctx := some (areaCtx s core (address.toNat % 2 ^ 52)) })) :=
  (if_neg (not_not.mpr hx)).trans (if_neg (not_not.mpr ((low_half_zero _).mpr h)))

end

section
variable (s : State) (d a b : Reg)

theorem isCtxOp_ctxsw : IsCtxOp (.ctxsw d a) s d a (ctxswAct s) := ⟨_, rfl⟩
theorem isCtxOp_ctxpark : IsCtxOp (.ctxpark d a) s d a (ctxparkAct s) := ⟨_, rfl⟩
theorem isCtxOp_ctxload : IsCtxOp (.ctxload d a b) s d a (ctxloadAct s (readG s b)) := ⟨_, rfl⟩

theorem isCtxOp_of_mem : ∀ i ∈ [Instr.ctxsw d a, .ctxpark d a, .ctxload d a b], ∃ act, IsCtxOp i s d a act := by
  simp only [List.forall_mem_cons]
  exact ⟨⟨_, isCtxOp_ctxsw s d a⟩, ⟨_, isCtxOp_ctxpark s d a⟩, ⟨_, isCtxOp_ctxload s d a b⟩, List.forall_mem_nil _⟩

end

section
variable {s : State} {i : Instr} {d a b : Reg} {act : CoreId → Bool → SetRec → Nat × State} {n : Nat}

theorem IsCtxOp.exec_eq {u : State} (hi : IsCtxOp i s d a act) (hp : priv s = 2#2) (h : ctxOp s (readG s a) act = (n, u)) :
    exec i s = .next (nextPc (writeG u d (BitVec.ofNat 64 n))) := by
  obtain ⟨word, hexec⟩ := hi
  rw [hexec, h, ctxEnd, needPriv_pass (level := 2) (by rw [hp]; decide), finish_ok]

/-- A status alone. -/
theorem IsCtxOp.writesG {p : Word → Prop} (hi : IsCtxOp i s d a act) (hp : priv s = 2#2) (h : ctxOp s (readG s a) act = (n, s))
    (hv : p (BitVec.ofNat 64 n)) : WritesG i s d p := writesG_of_setG (hi.exec_eq hp h) hv

/-- Status 0, with a change of the state that leaves the registers in focus and all memory as they are. -/
theorem IsCtxOp.acts {u : State} (hi : IsCtxOp i s d a act) (hp : priv s = 2#2) (h : ctxOp s (readG s a) act = (0, u))
    (hregs : u.me.regs = s.me.regs) (hmem : u.mem = s.mem) (hwin : u.win = s.win) :
    ∃ t, exec i s = .next t ∧ readG t d = 0#64 ∧ (∀ c, coreRec t c = coreRec u c) ∧ (∀ k, k ≠ d → readG t k = readG s k)
      ∧ KeepsMemory s t ∧ Advances s t := by
  have hcores : (writeG u d 0#64).cores = u.cores := (congrArg State.cores (writeG_frame u d 0#64) :)
  refine ⟨_, hi.exec_eq hp h, ?_, fun c => ?_, fun k hk => ?_, fun k => ?_, advances_nextPc ?_⟩
  · rw [readG_nextPc, readG_writeG_self, ite_self]
  · unfold coreRec
    rw [nextPc_cores, hcores]
  · rw [readG_nextPc, readG_writeG_ne _ _ hk]
    unfold readG
    rw [hregs]
  · rw [nextPc_mem, nextPc_win, writeG_mem, writeG_win, hmem, hwin]
    exact ⟨rfl, rfl⟩
  · rw [writeG_pc, hregs]

end

/-! ## The context of a save area (16 R372, 15 R349) -/

theorem createCtx_frame (s : State) (id : CtxId) (d : Desc) : { createCtx s id d with others := s.others } = s := by
  unfold createCtx
  split_ifs <;> rfl

/-- A change of a context that is none of its saved tables writes no memory. -/
theorem updCtx_mem {f : Ctx → Ctx} (hf : ∀ c, Begun c (f c)) (s : State) (id : CtxId) : (updCtx s id f).mem = s.mem := by
  unfold updCtx
  cases hfind : findCtx s id with
  | none => rfl
  | some c =>
    dsimp only
    rw [writeView_begun (hf c), ite_self, putCtx_mem]

theorem areaKnown_keeps (s : State) (core : CoreId) (area : Nat) : (areaKnown s core area).me.regs = s.me.regs
    ∧ (areaKnown s core area).mem = s.mem ∧ (areaKnown s core area).win = s.win ∧ (areaKnown s core area).cores = s.cores := by
  have hcreated := createCtx_frame s (areaCtx s core area) { save := BitVec.ofNat 52 area }
  unfold areaKnown
  generalize createCtx s (areaCtx s core area) { save := BitVec.ofNat 52 area } = t at hcreated
  have hupd : Settles t (updCtx t (areaCtx s core area) fun c => { c with sys.xsave := BitVec.ofNat 64 area }) :=
    settles_updCtx (fun _ => rfl) (fun _ => rfl)
  have hmem := updCtx_mem (f := fun c => { c with sys.xsave := BitVec.ofNat 64 area }) (fun _ => ⟨rfl, rfl, rfl, rfl, rfl, rfl, rfl⟩) t
    (areaCtx s core area)
  refine ⟨hupd.me_regs.trans ?_, hmem.trans ?_, hupd.win.trans ?_, hupd.cores.trans ?_⟩
  all_goals
    rw [← hcreated]

/-! ## The statement -/

/-- Settles O18: the operand decides up to the action, and each action answers by the state of its set. -/
theorem contextSetInstructionsAnswerAStatus : Obligations.ContextSetInstructionsAnswerAStatus := by
  unfold Obligations.ContextSetInstructionsAnswerAStatus
  intro s d a b hp op core sel r x good acts rest all
  have hall := isCtxOp_of_mem s d a b
  have hsw := isCtxOp_ctxsw s d a
  have hpark := isCtxOp_ctxpark s d a
  have hload := isCtxOp_ctxload s d a b
  have hacts : acts → ∀ act : CoreId → Bool → SetRec → Nat × State, ctxOp s op act = act core sel x := fun h _ => ctxOp_acts h
  have hself : ∀ (u : State) (y : CoreRec), coreRec (setCore u core y) core = y := fun u y => coreRec_setCore_self u core y
  refine ⟨fun hbad i hi => ?bad, fun hgood hcore i hi => ?monitor, fun hgood hcore hquery i hi => ?query, fun h hrun => ?swRunning,
    fun h hrun hrest => ?swNot, fun h hrest => ?parkNot, fun h hfull => ?loadNot, fun h hempty haddr => ?loadAddress, fun h hrun hrest => ?sw,
    fun h hrest => ?park, fun h hempty haddr => ?load⟩
  case bad =>
    obtain ⟨act, hact⟩ := hall i hi
    exact hact.writesG hp (ctxOp_bad hbad) rfl
  case monitor =>
    obtain ⟨act, hact⟩ := hall i hi
    exact hact.writesG hp (ctxOp_monitorCore hgood hcore) rfl
  case query =>
    obtain ⟨act, hact⟩ := hall i hi
    refine hact.writesG hp (ctxOp_query hgood hcore hquery) ?_
    rw [BitVec.toNat_ofNat]
    exact Nat.mod_eq_of_lt (by cases x.st <;> decide)
  case swRunning => exact hsw.writesG hp ((hacts h _).trans (ctxswAct_running hrun)) rfl
  case swNot => exact hsw.writesG hp ((hacts h _).trans (ctxswAct_not_atRest hrun hrest)) rfl
  case parkNot => exact hpark.writesG hp ((hacts h _).trans (ctxparkAct_not_atRest hrest)) rfl
  case loadNot => exact hload.writesG hp ((hacts h _).trans (ctxloadAct_full hfull)) rfl
  case loadAddress => exact hload.writesG hp ((hacts h _).trans (ctxloadAct_misaligned hempty haddr)) rfl
  case sw =>
    obtain ⟨t, hexec, hd, hcores, hg, hmem, hpc⟩ := hsw.acts hp ((hacts h _).trans (ctxswAct_atRest hrun hrest)) rfl rfl rfl
    refine ⟨t, hexec, hd, ?_, ?_, fun c hc => (hcores c).trans (coreRec_setCore_ne _ _ hc), hg, hmem, hpc⟩
    all_goals rw [hcores, hself]
  case park =>
    obtain ⟨t, hexec, hd, hcores, hg, hmem, hpc⟩ := hpark.acts hp ((hacts h _).trans (ctxparkAct_atRest hrest)) rfl rfl rfl
    refine ⟨t, hexec, hd, ?_, ?_, fun c hc => (hcores c).trans (coreRec_setCore_ne _ _ hc), hg, hmem, hpc⟩
    · rw [hcores, hself, getSet_putSet_self]
    · rw [hcores, hself, getSet_putSet_not]
  case load =>
    obtain ⟨hregs, hmem0, hwin0, hcores0⟩ := areaKnown_keeps s core ((readG s b).toNat % 2 ^ 52)
    have hrec : coreRec (areaKnown s core ((readG s b).toNat % 2 ^ 52)) core = r := by
      unfold coreRec
      rw [hcores0]
      rfl
    obtain ⟨t, hexec, hd, hcores, hg, hmem, hpc⟩ := hload.acts hp ((hacts h _).trans (ctxloadAct_loads hempty haddr)) hregs hmem0 hwin0
    refine ⟨t, hexec, hd, ?_, ?_, hg, hmem, hpc⟩
    · rw [hcores, hself, getSet_putSet_self]
    · rw [hcores, hself, getSet_putSet_not, hrec]

end Sys2Proof.Machine
end

section
/-! PROOFS. The MX instructions at issue (O56): the claim, the operand checks that they share, the queue, and MXCFG. -/

namespace Sys2Proof.Machine

open Sys2Proof.Claims

/-! ## Words and masks -/

/-- The bits of a word above a place are zero where the word is below the power of two of that place. -/
theorem high_zero_iff (x : Word) (lo : Nat) {n : Nat} (h : lo + n = 64) : x.extractLsb' lo n = 0#n ↔ x.toNat < 2 ^ lo := by
  have hlt : x.toNat / 2 ^ lo < 2 ^ n := Nat.div_lt_of_lt_mul (by rw [← pow_add, h]; exact x.isLt)
  rw [← BitVec.toNat_inj, BitVec.extractLsb'_toNat, Nat.shiftRight_eq_div_pow, BitVec.toNat_ofNat, Nat.mod_eq_of_lt hlt, Nat.zero_mod,
    Nat.div_eq_zero_iff, or_iff_right (by positivity)]

theorem toNat_extract (x : Word) (lo n : Nat) : (x.extractLsb' lo n).toNat = x.toNat / 2 ^ lo % 2 ^ n := by
  rw [BitVec.extractLsb'_toNat, Nat.shiftRight_eq_div_pow]

/-- The fields of a range word are those that 07 R147 names. -/
theorem rangeOk_iff (g : Geo) (w : Word) : rangeOk g w = true ↔ RangeOk g w := by
  have hmiddle : w.extractLsb' 9 7 = 0#7 ↔ w.toNat / 2 ^ 9 % 2 ^ 7 = 0 := by rw [← BitVec.toNat_inj, toNat_extract]; rfl
  have hlow : rangeBase w = w.toNat % 2 ^ 9 := by rw [rangeBase, toNat_extract, pow_zero, Nat.div_one]
  have hcount : rangeCount w = w.toNat / 2 ^ 16 % 2 ^ 10 := toNat_extract w 16 10
  have hword := w.isLt
  unfold rangeOk RangeOk
  simp only [Bool.and_eq_true, beq_iff_eq, decide_eq_true_eq, high_zero_iff w 26 (n := 38) rfl, hmiddle, hlow, hcount]
  omega

theorem rangeCount_of_ok {g : Geo} {w : Word} (h : RangeOk g w) : rangeCount w = w.toNat / 2 ^ 16 := by
  obtain ⟨-, hcount, -⟩ := h
  rw [rangeCount, toNat_extract]
  omega

theorem sortKeys_eq (w : Word) : sortKeys w = w.toNat % 2 ^ 16 := by rw [sortKeys, toNat_extract, pow_zero, Nat.div_one]

theorem sortPairs_eq {w : Word} (h : w.toNat < 2 ^ 21) : sortPairs w = w.toNat / 2 ^ 16 := by
  rw [sortPairs, toNat_extract]
  omega

/-- The operand of MXSORT breaks a check of 07 R154. -/
theorem sortWord_bad_iff (w : Word) (wide : Bool) : (2 ^ 21 ≤ w.toNat ∨ w.toNat / 2 ^ 16 = 0 ∨ 16 < w.toNat / 2 ^ 16 ∨ wide = true)
    ↔ (w.extractLsb' 21 43 ≠ 0#43 ∨ sortPairs w = 0 ∨ 16 < sortPairs w ∨ wide = true) := by
  have hpairs : sortPairs w = w.toNat / 2 ^ 16 % 2 ^ 5 := toNat_extract w 16 5
  rw [Ne, high_zero_iff w 21 (n := 43) rfl, hpairs]
  cases wide with
  | true => simp only [or_true]
  | false =>
    simp only [Bool.false_eq_true, or_false]
    omega

/-- The mask of unread columns is empty where every column has a reader (07 R153). -/
theorem unreadMask_eq_zero {c : Ctx} {cols : List Nat} (h : ∀ j ∈ cols, busReaders c j ≠ []) : unreadMask c cols = 0 := by
  have hall : cols.filter (fun j => (busReaders c j).isEmpty) = [] := List.filter_eq_nil_iff.mpr fun j hj => by simpa using h j hj
  rw [unreadMask, hall]
  rfl

/-! ## What the operand checks share (07 R147) -/

section
variable {i : Instr} {s : State}

theorem traps_of_configFault {v : Word} (h : exec i s = finish s (configFault v)) : Traps i s 0x0F v := traps_of_error h (by decide) rfl

theorem withClaim_none (h : cfgField s.me 0xC8 0 = 0#16) (k : Geo → Except Trap State) : withClaim s k = configFault 0 :=
  if_pos (congrArg BitVec.toNat h)

theorem withClaim_some (h : cfgField s.me 0xC8 0 ≠ 0#16) (k : Geo → Except Trap State) : withClaim s k = k (geoOf s.me) :=
  if_neg fun h0 => h (BitVec.eq_of_toNat_eq h0)

theorem withRange_ok {g : Geo} {w : Word} (h : RangeOk g w) (k : Except Trap State) : withRange g w k = k := if_pos ((rangeOk_iff g w).mpr h)

theorem withRange_bad {g : Geo} {w : Word} (h : ¬ RangeOk g w) (k : Except Trap State) : withRange g w k = configFault w :=
  if_neg fun hok => h ((rangeOk_iff g w).mp hok)

theorem withExtents_fit {c : Ctx} {es : List (Word × Nat × Nat)} (h : ∀ e ∈ es, Fits c e.1 e.2.1 e.2.2) (k : Except Trap State) :
    withExtents c es k = k := by
  unfold withExtents
  rw [List.findSome?_eq_none_iff.mpr h]

/-- Without a claim, each instruction that asks for one is a configuration fault (07 R147). -/
theorem traps_without_claim {k : Geo → Except Trap State} (hclaim : cfgField s.me 0xC8 0 = 0#16) (h : exec i s = finish s (withClaim s k)) :
    Traps i s 0x0F 0 := traps_of_configFault (by rw [h, withClaim_none hclaim])

theorem traps_claimed {k : Geo → Except Trap State} {v : Word} (hclaim : cfgField s.me 0xC8 0 ≠ 0#16) (h : exec i s = finish s (withClaim s k))
    (hk : k (geoOf s.me) = configFault v) : Traps i s 0x0F v := traps_of_configFault (by rw [h, withClaim_some hclaim, hk])

/-- An instruction whose checks have passed waits behind the others, or holds issue (07 R143). -/
theorem enqueues_of_enqueue {op : MxOp} {a b c : Word} (h : exec i s = finish s (enqueue s op a b c)) : Enqueues i s op a b c := by
  constructor
  · intro hroom
    rw [enqueue, if_neg (Nat.not_le.mpr hroom), finish_ok] at h
    exact ⟨_, h, advances_nextPc rfl, rfl, rfl⟩
  · intro hfull
    rw [h, enqueue, if_pos hfull, finish_ok]

theorem enqueues_claimed {k : Geo → Except Trap State} {op : MxOp} {a b c : Word} (hclaim : cfgField s.me 0xC8 0 ≠ 0#16)
    (h : exec i s = finish s (withClaim s k)) (hk : k (geoOf s.me) = enqueue s op a b c) : Enqueues i s op a b c :=
  enqueues_of_enqueue (by rw [h, withClaim_some hclaim, hk])

theorem trapsWithWord_illegal (hi : (encode i).isSome = true) (h : exec i s = .next (takeTrap s { cause := 0x01, value := wordOf i })) :
    TrapsWithWord i s 0x01 := by
  obtain ⟨w, hw⟩ := Option.isSome_iff_exists.mp hi
  have hword : wordOf i = w.setWidth 64 := by simp [wordOf, hw]
  exact ⟨w, hw, hword ▸ traps_of_takeTrap h (by decide) rfl⟩

end

/-! ## MXCFG (07 R148) -/

/-- A configuration image with legal fields and zero elsewhere. -/
def GoodImage (v : Word) : Prop :=
  v.toNat < 2 ^ 22 ∧ v.extractLsb' 18 2 = 0#2 ∧ v.extractLsb' 20 2 ≠ 3#2 ∧ v.extractLsb' 16 2 ≠ 3#2 ∧ mxFormatOk (v.setWidth 16) = true

theorem goodImage_iff (v : Word) : GoodImage v ↔ ¬ (v.extractLsb' 22 42 ≠ 0#42 ∨ v.extractLsb' 18 2 ≠ 0#2 ∨ v.extractLsb' 20 2 = 3#2
    ∨ v.extractLsb' 16 2 = 3#2 ∨ ¬ mxFormatOk (v.setWidth 16) = true) := by
  rw [GoodImage, ← high_zero_iff v 22 (n := 42) rfl]
  tauto

/-- The array stands idle: its queue is not halted, and no graph uses the row bus. -/
def ArrayIdle (s : State) : Prop := s.me.mx.halted = false ∧ busGraph s = none

/-- The claim that an image makes. -/
abbrev imageClaim (v : Word) : BitVec 16 := (v.extractLsb' 20 2).setWidth 16

section
variable {s : State} {v : Word}

theorem mxcfgAll_busy (h : ¬ ArrayIdle s) : mxcfgAll s v = configFault v := by
  have hbusy : s.me.mx.halted = true ∨ (busGraph s).isSome = true := by
    rw [ArrayIdle, ← Bool.not_eq_true, ← Option.not_isSome_iff_eq_none] at h
    tauto
  exact if_pos hbusy

theorem mxcfgAll_waits (h : ArrayIdle s) (hq : s.me.mx.queue ≠ []) : mxcfgAll s v = .ok (hold s) := by
  obtain ⟨hhalted, hbus⟩ := h
  unfold mxcfgAll
  rw [if_neg (by simp [hhalted, hbus]), if_pos (by simpa using hq)]

theorem mxcfgAll_bad (h : ArrayIdle s) (hq : s.me.mx.queue = []) (hbad : ¬ GoodImage v) : mxcfgAll s v = configFault v := by
  obtain ⟨hhalted, hbus⟩ := h
  unfold mxcfgAll
  rw [if_neg (by simp [hhalted, hbus]), if_neg (by simp [hq]), if_pos (by rwa [goodImage_iff, not_not] at hbad)]

theorem mxcfgAll_good (h : ArrayIdle s) (hq : s.me.mx.queue = []) (hgood : GoodImage v) : mxcfgAll s v =
    if claimMeets s s.me.id (imageClaim v) then configFault v else .ok (nextPc { s with me := writeMxcfg s.me v }) := by
  obtain ⟨hhalted, hbus⟩ := h
  unfold mxcfgAll
  rw [if_neg (by simp [hhalted, hbus]), if_neg (by simp [hq]), if_neg ((goodImage_iff v).mp hgood)]

/-- A change of the configuration reaches nothing but the array, and a change of claim resets it (07 R142). -/
theorem mxChange_eq (old c : Ctx) : ∃ m, mxChange old c = { c with mx := m } ∧ (cfgField old 0xC8 0 ≠ cfgField c 0xC8 0 → m = mxReset c.mx) := by
  unfold mxChange
  split
  next h => exact ⟨c.mx, rfl, fun hne => absurd h.1 hne⟩
  next => exact ⟨mxReset c.mx, rfl, fun _ => rfl⟩

/-- An image written (07 R148): its three fields stand, and a change of claim has reset the array. -/
theorem writeMxcfg_spec (c : Ctx) (v : Word) : ∃ m cfg, writeMxcfg c v = { c with mx := m, fab.cfg := cfg }
    ∧ cfgField (writeMxcfg c v) 0xC8 0 = imageClaim v ∧ cfgField (writeMxcfg c v) 0xC8 1 = v.setWidth 16
    ∧ cfgField (writeMxcfg c v) 0xC8 15 = (v.extractLsb' 16 2).setWidth 16 ∧ (cfgField c 0xC8 0 ≠ imageClaim v → m = mxReset c.mx) := by
  obtain ⟨k, hk⟩ : ∃ k, k = putField (putField (putField c 0xC8 0 (imageClaim v)) 0xC8 1 (v.setWidth 16)) 0xC8 15 ((v.extractLsb' 16 2).setWidth 16) :=
    ⟨_, rfl⟩
  have hfield : ∀ f, f < 64 → cfgField k 0xC8 f = if f = 15 then (v.extractLsb' 16 2).setWidth 16
      else if f = 1 then v.setWidth 16 else if f = 0 then imageClaim v else cfgField c 0xC8 f := by
    intro f hf
    rw [hk, cfgField_putField _ (by decide) hf, cfgField_putField _ (by decide) hf, cfgField_putField _ (by decide) hf]
    simp only [true_and]
  obtain ⟨cfg, hcfg⟩ : ∃ cfg, k = { c with fab.cfg := cfg } := ⟨_, hk⟩
  obtain ⟨m, hm, hreset⟩ := mxChange_eq c k
  have hwrite : writeMxcfg c v = { k with mx := m } := by rw [← hm, hk, writeMxcfg]
  have hkeep : ∀ f, cfgField (writeMxcfg c v) 0xC8 f = cfgField k 0xC8 f := fun f => by rw [hwrite]; rfl
  refine ⟨m, cfg, by rw [hwrite, hcfg], (hkeep 0).trans (hfield 0 (by decide)), (hkeep 1).trans (hfield 1 (by decide)),
    (hkeep 15).trans (hfield 15 (by decide)), fun hne => ?_⟩
  rw [hreset (by rwa [hfield 0 (by decide)]), hcfg]

theorem mxcfgFault_waits (hbus : busGraph s = none) (hq : s.me.mx.queue ≠ []) (hrun : s.me.mx.halted = false) : mxcfgFault s v = .ok (hold s) := by
  unfold mxcfgFault
  simp only [hbus, hq, hrun, List.isEmpty_iff, Bool.false_eq_true, if_false, not_false_eq_true, and_self, if_true]

theorem mxcfgFault_decides (hbus : busGraph s = none) (hq : s.me.mx.queue = [] ∨ s.me.mx.halted = true) : mxcfgFault s v =
    if cfgField s.me 0xC8 0 = 0#16 ∨ v.extractLsb' 16 2 = 3#2 then configFault v
    else .ok (nextPc { s with me := putField s.me 0xC8 15 ((v.extractLsb' 16 2).setWidth 16) }) := by
  have hclaim : (geoOf s.me).claim = 0 ↔ cfgField s.me 0xC8 0 = 0#16 := by
    rw [← BitVec.toNat_inj]
    rfl
  have hstop : ¬ (¬ s.me.mx.queue = [] ∧ ¬ s.me.mx.halted = true) := by tauto
  unfold mxcfgFault
  simp only [hbus, hclaim, hstop, List.isEmpty_iff, Bool.false_eq_true, if_false]

end

/-- Settles O56: each instruction is the checks of its operands before the queue, and MXCFG is decided by the state of the queue. -/
theorem matrixCommandsEnterTheQueue : Obligations.MatrixCommandsEnterTheQueue := by
  unfold Obligations.MatrixCommandsEnterTheQueue
  intro s a b c p i t k w g m x y z claimed count stride all idle okCfg
  have hcfg : exec (.mxcfg a 0) s = finish s (mxcfgAll s x) := rfl
  have hcfg1 : exec (.mxcfg a 1) s = finish s (mxcfgFault s x) := rfl
  have hcount : RangeOk g y → rangeCount y = count := rangeCount_of_ok
  have hkeys : sortKeys y = y.toNat % 2 ^ 16 := sortKeys_eq y
  have hpairs : y.toNat < 2 ^ 21 → sortPairs y = count := sortPairs_eq
  have hsort := sortWord_bad_iff y g.wide
  have hsortOk : y.toNat < 2 ^ 21 → 1 ≤ count → count ≤ 16 → g.wide = false →
      ¬ (y.extractLsb' 21 43 ≠ 0#43 ∨ sortPairs y = 0 ∨ 16 < sortPairs y ∨ g.wide = true) := by
    intro hy hlow hhigh hwide
    refine hsort.not.mp ?_
    simp only [hwide, Bool.false_eq_true, or_false]
    omega
  refine ⟨fun hnone => ?noClaim, fun hidle hq hgood hmeet => ?meets, fun hidle hq hbad => ?bad, fun hidle hq => ?waits, fun hbusy => ?busy,
    fun hidle hq hgood hmeet => ?writes, fun hbus hq hrun => ?faultWaits, fun hbus hq hno => ?faultBad, fun hbus hq hclaim hgood => ?faultWrites,
    fun hclaim => ?swp, fun hclaim hp hpart hfits => ?lw, fun hclaim hp hpart => ?lwPart, fun j hj hclaim hrange => ?range,
    fun hclaim hrange => ⟨fun hstride hfits => ?run, fun hz hstride => ?runStride, fun hfits => ?rung, fun ht hfits => ?accMem,
      fun ht hread => ?accBus, fun v hv => ?zero⟩,
    fun hclaim hy hlow hhigh hwide hfits => ⟨fun ht hdst => ?sortMem, fun ht hread => ?sortBus⟩, fun hclaim hbad => ?sortBad, ?lwIllegal,
    fun hbad => ?zeroIllegal⟩
  case noClaim =>
    have hzero : cfgField s.me 0xC8 0 = 0#16 := not_not.mp hnone
    simp only [all, List.forall_mem_cons]
    exact ⟨traps_without_claim hzero rfl, traps_without_claim hzero rfl, traps_without_claim hzero rfl, traps_without_claim hzero rfl,
      traps_without_claim hzero rfl, traps_without_claim hzero rfl, traps_without_claim hzero rfl, List.forall_mem_nil _⟩
  case meets => exact traps_of_configFault (by rw [hcfg, mxcfgAll_good hidle hq hgood, if_pos hmeet])
  case bad => exact traps_of_configFault (by rw [hcfg, mxcfgAll_bad hidle hq hbad])
  case waits => rw [hcfg, mxcfgAll_waits hidle hq, finish_ok]
  case busy => exact traps_of_configFault (by rw [hcfg, mxcfgAll_busy hbusy])
  case writes =>
    obtain ⟨m', cfg, heq, hf0, hf1, hf15, hreset⟩ := writeMxcfg_spec s.me x
    rw [mxcfgAll_good hidle hq hgood, hmeet, if_neg Bool.false_ne_true, finish_ok] at hcfg
    have hmx : (nextPc { s with me := writeMxcfg s.me x }).me.mx = m' := by
      show (writeMxcfg s.me x).mx = m'
      rw [heq]
    refine ⟨_, hcfg, advances_nextPc (by rw [heq]), hf0, hf1, hf15, fun hne => ?_, ?_⟩
    · rw [hmx, hreset fun h => hne (hf0.trans h.symm)]
      exact ⟨rfl, rfl, rfl, rfl⟩
    · rw [heq]
      rfl
  case faultWaits => rw [hcfg1, mxcfgFault_waits hbus hq hrun, finish_ok]
  case faultBad => exact traps_of_configFault (by rw [hcfg1, mxcfgFault_decides hbus hq, if_pos (hno.imp_left not_not.mp)])
  case faultWrites =>
    rw [mxcfgFault_decides hbus hq, if_neg (not_or.mpr ⟨hclaim, hgood⟩), finish_ok] at hcfg1
    refine ⟨_, hcfg1, advances_nextPc rfl, ?_, rfl⟩
    exact (cfgField_putField s.me (by decide) (by decide)).trans (if_pos ⟨rfl, rfl⟩)
  case swp => exact enqueues_claimed hclaim rfl rfl
  case lw =>
    exact enqueues_claimed hclaim (if_neg hp) ((if_neg (not_not.mpr hpart)).trans (withExtents_fit (List.forall_mem_singleton.mpr hfits) _))
  case lwPart => exact traps_claimed hclaim (if_neg hp) (if_pos (by rw [hpart]; decide))
  case range =>
    simp only [List.mem_cons, List.not_mem_nil, or_false] at hj
    obtain rfl | rfl | rfl | rfl := hj
    all_goals exact traps_claimed hclaim rfl (withRange_bad hrange _)
  case run =>
    have hgood : ¬ (z ≠ 0#64 ∧ (z.toNat % 8 ≠ 0 ∨ z.toNat < g.image ∨ 65536 < z.toNat)) := by
      rintro ⟨hz, hbad⟩
      obtain h0 | ⟨halign, hlow, hhigh⟩ := hstride
      · exact hz h0
      · omega
    exact enqueues_claimed hclaim rfl ((withRange_ok hrange _).trans ((if_neg hgood).trans
      (withExtents_fit (List.forall_mem_map.mpr fun n hn => hfits n (hcount hrange ▸ List.mem_range.mp hn)) _)))
  case runStride => exact traps_claimed hclaim rfl ((withRange_ok hrange _).trans (if_pos ⟨hz, hstride⟩))
  case rung =>
    rw [← hcount hrange] at hfits
    exact enqueues_claimed hclaim rfl ((withRange_ok hrange _).trans (withExtents_fit (List.forall_mem_singleton.mpr hfits) _))
  case accMem =>
    subst ht
    rw [← hcount hrange] at hfits
    exact enqueues_claimed hclaim rfl ((withRange_ok hrange _).trans (withExtents_fit (List.forall_mem_singleton.mpr hfits) _))
  case accBus =>
    subst ht
    have hopen : ¬ (true = true ∧ unreadMask s.me (List.range 16) ≠ 0) :=
      fun h => h.2 (unreadMask_eq_zero fun j hj => hread j (List.mem_range.mp hj))
    exact enqueues_claimed hclaim rfl ((withRange_ok hrange _).trans ((if_neg hopen).trans (withExtents_fit (List.forall_mem_nil _) _)))
  case zero => exact enqueues_claimed hclaim (if_pos hv) (withRange_ok hrange _)
  case sortMem =>
    subst ht
    rw [← hkeys] at hfits hdst
    rw [← hpairs hy] at hdst
    exact enqueues_claimed hclaim rfl ((if_neg (hsortOk hy hlow hhigh hwide)).trans
      (withExtents_fit (List.forall_mem_cons.mpr ⟨hfits, List.forall_mem_singleton.mpr hdst⟩) _))
  case sortBus =>
    subst ht
    rw [← hkeys] at hfits
    have hopen : ¬ (true = true ∧ unreadMask s.me [0] ≠ 0) := fun h => h.2 (unreadMask_eq_zero (List.forall_mem_singleton.mpr hread))
    exact enqueues_claimed hclaim rfl ((if_neg (hsortOk hy hlow hhigh hwide)).trans ((if_neg hopen).trans
      (withExtents_fit (List.forall_mem_singleton.mpr hfits) _)))
  case sortBad => exact traps_claimed hclaim rfl (if_pos (hsort.mp hbad))
  case lwIllegal => exact trapsWithWord_illegal rfl rfl
  case zeroIllegal => exact trapsWithWord_illegal rfl (if_neg (by rw [hbad]; decide))

end Sys2Proof.Machine
end

section
/-! PROOFS. The tables of the matrix array (O57): tile registers, accumulator entries, and the columns of a row written one after another. -/

namespace Sys2Proof.Machine

open Sys2Proof.Claims

/-! ## Many numbers of a table written -/

/-- Writes of a function of the number, at the numbers of a list. -/
theorem tabGet_foldl_put {α β : Type} [DecidableEq α] (d : α) (key : β → Nat) (v : β → α) (f : Nat → α) (k : Nat) :
    ∀ (l : List β) (t : Tab α), (∀ p ∈ l, v p = f (key p)) →
      tabGet d (l.foldl (fun t p => tabPut d t (key p) (v p)) t) k = if k ∈ l.map key then f k else tabGet d t k := by
  intro l
  induction l with
  | nil => exact fun t _ => rfl
  | cons p l ih =>
    intro t hv
    rw [List.foldl_cons, ih _ fun q hq => hv q (List.mem_cons_of_mem _ hq), tabGet_put, hv p (List.mem_cons_self ..)]
    by_cases hl : k ∈ l.map key
    · simp only [hl, List.map_cons, List.mem_cons, or_true, if_true]
    · by_cases hk : k = key p
      · simp only [hk, List.map_cons, List.mem_cons, true_or, if_true, ite_self]
      · simp only [hl, hk, List.map_cons, List.mem_cons, or_self, if_false]

/-! ## Places of the array -/

theorem mxKey_inj {r r' j j' : Nat} (hj : j < 16) (hj' : j' < 16) : mxKey r j = mxKey r' j' ↔ r = r' ∧ j = j' := by
  unfold mxKey
  omega

theorem mem_columns (r k : Nat) : k ∈ (List.range 16).map (mxKey r) ↔ k / 16 = r := by
  simp only [List.mem_map, List.mem_range, mxKey]
  constructor
  · rintro ⟨j, hj, rfl⟩
    omega
  · exact fun h => ⟨k % 16, by omega, by omega⟩

/-- The columns of a local row copied from another register. -/
theorem tabGet_copyRow (t from' : Tab Word) (r k : Nat) :
    tabGet 0 (((List.range 16).map (mxKey r)).foldl (fun u k => tabPut 0 u k (tabGet 0 from' k)) t) k =
        if k / 16 = r then tabGet 0 from' k else tabGet 0 t k := by
  rw [tabGet_foldl_put 0 (fun k => k) (tabGet 0 from') (tabGet 0 from') k _ t fun _ _ => rfl, List.map_id']
  exact if_congr (mem_columns r k) rfl rfl

/-! ## Accumulator entries (07 R139) -/

/-- The bound of an entry's pattern: 64 bits in binary64, else 32. -/
def Geo.entryBound (g : Geo) : Nat := if g.wide then 2 ^ 64 else 2 ^ 32

theorem accOf_lt (m : Mx) (g : Geo) (row col : Nat) : accOf m g row col < g.entryBound := by
  unfold accOf Geo.entryBound
  have hlow := fun k => (tabGet 0 m.bank k).isLt
  split
  · have h0 := hlow (mxKey (2 * row) col)
    have h1 := hlow (mxKey (2 * row + 1) col)
    omega
  · exact hlow _

theorem accOf_congr {m m' : Mx} (h : m'.bank = m.bank) : accOf m' = accOf m := by
  unfold accOf
  rw [h]

theorem setAcc_frame (m : Mx) (g : Geo) (row col v : Nat) : { setAcc m g row col v with bank := m.bank } = m := by
  unfold setAcc
  split <;> rfl

/-- An entry written reads as its low bits, and every other entry as before. -/
theorem accOf_setAcc (m : Mx) (g : Geo) (row v y : Nat) {col j : Nat} (hcol : col < 16) (hj : j < 16) :
    accOf (setAcc m g row col v) g y j = if y = row ∧ j = col then v % g.entryBound else accOf m g y j := by
  unfold accOf setAcc Geo.entryBound
  cases g.wide with
  | false =>
    simp only [Bool.false_eq_true, if_false, tabGet_put, mxKey_inj hj hcol]
    split
    · exact BitVec.toNat_ofNat ..
    · rfl
  | true =>
    have heven : (2 * y = 2 * row ∧ j = col) ↔ (y = row ∧ j = col) := by omega
    have hodd : (2 * y + 1 = 2 * row + 1 ∧ j = col) ↔ (y = row ∧ j = col) := by omega
    have hmixed : ¬ (2 * y = 2 * row + 1 ∧ j = col) := by omega
    have hmixed' : ¬ (2 * y + 1 = 2 * row ∧ j = col) := by omega
    simp only [if_true, tabGet_put, mxKey_inj hj hcol, heven, hodd, hmixed, hmixed', if_false]
    split
    · simp only [BitVec.toNat_ofNat]
      omega
    · rfl

/-! ### A row of entries cleared -/

/-- A row of the bank set to zero (07 R153, R155). -/
def clearRow (g : Geo) (m : Mx) (row : Nat) : Mx := (List.range 16).foldl (fun m j => setAcc m g row j 0) m

theorem foldl_bank_frame {β : Type} {f : Mx → β → Mx} (hf : ∀ m b, { f m b with bank := m.bank } = m) :
    ∀ (l : List β) (m : Mx), { l.foldl f m with bank := m.bank } = m := by
  intro l
  induction l with
  | nil => exact fun m => rfl
  | cons b l ih =>
    intro m
    have h := congrArg (fun x : Mx => { x with bank := m.bank }) (ih (f m b))
    exact h.trans (hf m b)

theorem clearRow_frame (g : Geo) (m : Mx) (row : Nat) : { clearRow g m row with bank := m.bank } = m :=
  foldl_bank_frame (fun m j => setAcc_frame m g row j 0) _ m

theorem accOf_clearRow (g : Geo) (m : Mx) (row y : Nat) {j : Nat} (hj : j < 16) :
    accOf (clearRow g m row) g y j = if y = row then 0 else accOf m g y j := by
  have hsteps : ∀ n ≤ 16, accOf ((List.range n).foldl (fun m j => setAcc m g row j 0) m) g y j
      = if y = row ∧ j < n then 0 else accOf m g y j := by
    intro n
    induction n with
    | zero => exact fun _ => (if_neg (by omega)).symm
    | succ n ih =>
      intro hn
      rw [List.range_succ, List.foldl_append, List.foldl_cons, List.foldl_nil, accOf_setAcc _ g row 0 y (by omega) hj,
          ih (by omega), Nat.zero_mod]
      by_cases hjn : j = n
      · subst hjn
        simp
      · have hlt : j < n + 1 ↔ j < n := by omega
        simp only [hjn, and_false, if_false, hlt]
  rw [clearRow, hsteps 16 le_rfl]
  exact if_congr (by omega) rfl rfl

/-! ### The columns of a row written -/

/-- An entry written, with the held state that its commit leaves. -/
theorem writeColumn_entry (m : Mx) (g : Geo) (x : MxItem) (j : Nat) (r : FRes) :
    ∃ held, writeColumn m g x j (.entry r) = { setAcc m g x.pos j r.bits with held := held } := by
  by_cases hpart : (x.tag.getD Tag.zero).part = 2#2
  · exact ⟨_, if_pos hpart⟩
  · exact ⟨_, if_neg hpart⟩

/-- The first n columns of a row written. -/
def writeColumns (g : Geo) (x : MxItem) (outs : Nat → ColOut) (m : Mx) (n : Nat) : Mx :=
  (List.range n).foldl (fun m j => writeColumn m g x j (outs j)) m

theorem writeColumns_succ (g : Geo) (x : MxItem) (outs : Nat → ColOut) (m : Mx) (n : Nat) :
    writeColumns g x outs m (n + 1) = writeColumn (writeColumns g x outs m n) g x n (outs n) := by
  unfold writeColumns
  rw [List.range_succ, List.foldl_append, List.foldl_cons, List.foldl_nil]

/-- The outputs of a row with their columns, as its commit writes them. -/
theorem zipIdx_map_range {α : Type} (f : Nat → α) (n : Nat) : ((List.range n).map f).zipIdx = (List.range n).map (fun j => (f j, j)) := by
  apply List.ext_getElem
  · simp
  · intro i h1 h2
    simp

theorem foldl_writeColumn (g : Geo) (x : MxItem) (outs : Nat → ColOut) (m : Mx) (n : Nat) :
    (((List.range n).map outs).zipIdx.foldl (fun m p => writeColumn m g x p.2 p.1) m) = writeColumns g x outs m n := by
  rw [zipIdx_map_range, List.foldl_map]
  rfl

theorem accOf_writeEntry (m : Mx) (g : Geo) (x : MxItem) (r : FRes) (y : Nat) {col j : Nat} (hcol : col < 16) (hj : j < 16) :
    accOf (writeColumn m g x col (.entry r)) g y j = if y = x.pos ∧ j = col then r.bits % g.entryBound else accOf m g y j := by
  rw [← accOf_setAcc m g x.pos r.bits y hcol hj]
  obtain ⟨held, hheld⟩ := writeColumn_entry m g x col r
  rw [hheld]
  rfl

/-- Entries of a row: each column holds its result, and every other row stands. -/
theorem accOf_writeColumns {g : Geo} {x : MxItem} {outs : Nat → ColOut} {r : Nat → FRes} (hentry : ∀ j, outs j = .entry (r j))
    (m : Mx) (y : Nat)
    {j : Nat} (hj : j < 16) : accOf (writeColumns g x outs m 16) g y j = if y = x.pos then (r j).bits % g.entryBound else accOf
        m g y j := by
  have hsteps : ∀ n ≤ 16, accOf (writeColumns g x outs m n) g y j = if y = x.pos ∧ j < n then (r j).bits % g.entryBound else
      accOf m g y j := by
    intro n
    induction n with
    | zero => exact fun _ => (if_neg (by omega)).symm
    | succ n ih =>
      intro hn
      rw [writeColumns_succ, hentry n, accOf_writeEntry _ g x (r n) y (by omega) hj, ih (by omega)]
      by_cases hjn : j = n
      · subst hjn
        simp
      · have hlt : j < n + 1 ↔ j < n := by omega
        simp only [hjn, and_false, if_false, hlt]
  rw [hsteps 16 le_rfl]
  exact if_congr (by omega) rfl rfl

/-- Held sums of a row: the bank stands, and each column's sum is held. -/
theorem held_writeColumns {g : Geo} {x : MxItem} {outs : Nat → ColOut} {h : Nat → Held} (hhold : ∀ j, outs j = .hold (h j))
    (m : Mx) {j : Nat}
    (hj : j < 16) : (writeColumns g x outs m 16).bank = m.bank ∧ tabFind (writeColumns g x outs m 16).held (mxKey x.pos j)
        = some (h j) := by
  have hsteps : ∀ n ≤ 16, (writeColumns g x outs m n).bank = m.bank
      ∧ (j < n → tabFind (writeColumns g x outs m n).held (mxKey x.pos j) = some (h j)) := by
    intro n
    induction n with
    | zero => exact fun _ => ⟨rfl, fun h => absurd h (by omega)⟩
    | succ n ih =>
      intro hn
      obtain ⟨hbank, hheld⟩ := ih (by omega)
      rw [writeColumns_succ, hhold n]
      refine ⟨hbank, fun hlt => ?_⟩
      show tabFind (tabInsert (writeColumns g x outs m n).held (mxKey x.pos n) (h n)) (mxKey x.pos j) = some (h j)
      by_cases hjn : j = n
      · rw [hjn, tabFind_insert_self]
      · rw [tabFind_insert_ne _ _ fun hk => hjn ((mxKey_inj hj (by omega)).mp hk).2, hheld (by omega)]
  exact ⟨(hsteps 16 le_rfl).1, (hsteps 16 le_rfl).2 hj⟩

/-! ## Lanes (00 R4) -/

/-- Lane i of lanes joined is the low part of the i-th value. -/
theorem joinLanes_lane (w : Nat) : ∀ (xs : List Nat) (i : Nat) (h : i < xs.length), joinLanes w xs / 2 ^ (w * i) % 2 ^ w
    = xs[i] % 2 ^ w := by
  intro xs
  induction xs with
  | nil => exact fun i h => absurd h (Nat.not_lt_zero i)
  | cons x xs ih =>
    intro i h
    have hpos : 0 < 2 ^ w := Nat.two_pow_pos w
    cases i with
    | zero => rw [joinLanes, Nat.mul_zero, pow_zero, Nat.div_one, Nat.add_mul_mod_self_left, Nat.mod_mod, List.getElem_cons_zero]
    | succ i =>
      rw [joinLanes, Nat.mul_succ, Nat.add_comm (w * i), pow_add, ← Nat.div_div_eq_div_mul, Nat.add_mul_div_left _ _ hpos,
        Nat.div_eq_of_lt (Nat.mod_lt _ hpos), Nat.zero_add, ih i (by simpa using h), List.getElem_cons_succ]

theorem joinLanes_lt (w : Nat) (xs : List Nat) : joinLanes w xs < 2 ^ (w * xs.length) := by
  induction xs with
  | nil => exact Nat.zero_lt_one
  | cons x xs ih =>
    have hx := Nat.mod_lt x (Nat.two_pow_pos w)
    rw [joinLanes, List.length_cons, Nat.mul_succ, Nat.add_comm (w * _), pow_add]
    calc x % 2 ^ w + 2 ^ w * joinLanes w xs < 2 ^ w * (joinLanes w xs + 1) := by rw [Nat.mul_succ]; omega
      _ ≤ _ := Nat.mul_le_mul_left _ ih

/-- A part of a number stored (00 R4). -/
theorem memNat_memPut_part (m : List Host.Cell) (a n v i k : Nat) (h : i + k ≤ n) :
    memNat (memPut m a n v) (a + i) k = v / 256 ^ i % 256 ^ k := by
  induction k generalizing i with
  | zero => rw [memNat, pow_zero, Nat.mod_one]
  | succ k ih =>
    rw [memNat, memByte_memPut m a n v i (by omega), Nat.add_assoc, ih (i + 1) (by omega), BitVec.toNat_ofNat, pow_succ' 256 k,
      Nat.mod_mul (a := 256), Nat.div_div_eq_div_mul, ← pow_succ]

end Sys2Proof.Machine
end

section
/-! PROOFS. The arithmetic of a row (O57): the bound of a result's pattern, integer blocks, FP8 blocks with their case markers and scales, and the
chain of a float row. -/

namespace Sys2Proof.Machine

open Sys2Proof.Claims

/-! ## Patterns of results stay within their format -/

section
variable {code : BitVec 3} (hcode : floatCodeOk code = true)
include hcode

theorem special_lt : (fmtOf code).nan < 2 ^ widthOf code ∧ ∀ neg, (fmtOf code).inf neg < 2 ^ widthOf code ∧
    (fmtOf code).zero neg < 2 ^ widthOf code
    ∧ (fmtOf code).largest neg < 2 ^ widthOf code := by
  revert code
  decide +kernel

variable (mode : BitVec 2) (sat : Bool)

theorem roundF_lt (neg : Bool) (m : Nat) (e : Int) : (roundF (fmtOf code) mode sat neg m e).bits < 2 ^ widthOf code := by
  obtain ⟨-, hspecial⟩ := special_lt hcode
  obtain ⟨hinf, hzero, hlargest⟩ := hspecial neg
  rcases eq_or_ne m 0 with rfl | hm
  · exact hzero
  · by_cases hbig : TooBig (fmtOf code) (roundAt mode neg m e (quantum (fmtOf code) m e)).1 (quantum (fmtOf code) m e)
    · rw [roundF_over hm hbig]
      show (if _ then _ else _) < _
      split
      · exact hinf
      · exact hlargest
    · obtain ⟨k', q', -, -, hmag⟩ := flOf_packed (fmtOf_ok code) neg (roundAt_quantum_le (fmtOf code) mode neg hm e) (le_max_right _ _)
        (quantum_eq_of_lt (fmtOf code) mode neg hm e) hbig
      rw [roundF_fits hm hbig, widthOf_eq hcode]
      exact signed_lt hmag

theorem addFin_lt (n1 : Bool) (m1 : Nat) (e1 : Int) (n2 : Bool) (m2 : Nat) (e2 : Int) :
    (addFin (fmtOf code) mode sat n1 m1 e1 n2 m2 e2).bits < 2 ^ widthOf code := by
  obtain ⟨-, hspecial⟩ := special_lt hcode
  have hzero := fun n => (hspecial n).2.1
  unfold addFin
  extract_lets q sum
  by_cases h0 : sum = 0
  · rw [if_pos h0]
    exact hzero _
  · rw [if_neg h0]
    exact roundF_lt hcode mode sat _ _ _

theorem fAdd_lt (x y : Fl) : (fAdd (fmtOf code) mode sat x y).bits < 2 ^ widthOf code := by
  obtain ⟨hnan, hspecial⟩ := special_lt hcode
  have hinf := fun n => (hspecial n).1
  unfold fAdd
  split
  · exact hnan
  · exact hnan
  · split
    · exact hinf _
    · exact hnan
  · exact hinf _
  · exact hinf _
  · exact addFin_lt hcode mode sat _ _ _ _ _ _

theorem fFma_lt (x y z : Fl) : (fFma (fmtOf code) mode sat x y z).bits < 2 ^ widthOf code := by
  obtain ⟨hnan, hspecial⟩ := special_lt hcode
  have hinf := fun n => (hspecial n).1
  unfold fFma
  extract_lets anySig zeroInf sign
  by_cases hzeroInf : zeroInf = true
  · rw [if_pos hzeroInf]
    exact hnan
  by_cases hanyNan : (isNan x || isNan y || isNan z) = true
  · rw [if_neg hzeroInf, if_pos hanyNan]
    exact hnan
  rw [if_neg hzeroInf, if_neg hanyNan]
  split
  · exact addFin_lt hcode mode sat _ _ _ _ _ _
  · exact hinf _
  · split
    · exact hinf _
    · exact hnan
  · exact hinf _

end

theorem plusZero_bits_le (f : Fmt) (r : FRes) : (plusZero f r).bits ≤ r.bits := by
  unfold plusZero
  split
  · exact Nat.zero_le _
  · exact le_rfl

theorem plusZero_bits (f : Fmt) (r : FRes) : (plusZero f r).bits = if r.bits % f.signBit = 0 then 0 else r.bits := by
  unfold plusZero
  split <;> rfl

/-! ## The chain of a float row (03 R69) -/

/-- One step of the chain, on patterns. -/
def chainStep (f : Fmt) (g : Geo) (v : Nat) (p : Nat × Nat) : Nat :=
  (plusZero f (fFma f g.rnd g.sat (flOf (fmtOf g.a) p.1) (flOf (fmtOf g.b) p.2) (flOf f v))).bits

theorem chain_bits (f : Fmt) (g : Geo) : ∀ (ps : List (Nat × Nat)) (c : FRes), (chain f g ps c).bits = ps.foldl (chainStep f g) c.bits := by
  intro ps
  induction ps with
  | nil => exact fun c => rfl
  | cons p ps ih => exact fun c => ih _

theorem chain_lt {code : BitVec 3} (hcode : floatCodeOk code = true) (g : Geo) (ps : List (Nat × Nat)) {c : Nat}
    (hc : c < 2 ^ widthOf code) :
    ps.foldl (chainStep (fmtOf code) g) c < 2 ^ widthOf code := by
  induction ps generalizing c with
  | nil => exact hc
  | cons p ps ih => exact ih ((plusZero_bits_le _ _).trans_lt (fFma_lt hcode _ _ _ _ _))

/-! ## Integer blocks (03 R73) -/

/-- The integer type codes of the array are S8 and N8. -/
theorem intOf_eq_int8 {f : BitVec 3} (hf : f.toNat ≤ 1) {n : Nat} (hn : n < 256) : intOf f n = int8 f n := by
  have hcode : f = 0#3 ∨ f = 1#3 := by
    revert f
    decide
  have hsigned : intSigned f = true ↔ f.getLsbD 0 = false := by simp [intSigned]
  have hwidth : intWidth f = 8 := by
    obtain rfl | rfl := hcode
    · rfl
    · rfl
  have hmod : n % 2 ^ 8 = n := Nat.mod_eq_of_lt hn
  rw [intOf_eq, hwidth, hmod]
  exact if_congr (and_congr hsigned Iff.rfl) rfl rfl

theorem foldl_blockStep_int {g : Geo} (hg : g.kind = .int) : ∀ (ps : List (Nat × Nat)) (h : Held),
    (ps.foldl (blockStep g) h).num = h.num + (ps.map (fun p => intOf g.a p.1 * intOf g.b p.2)).sum := by
  intro ps
  induction ps with
  | nil => exact fun h => (Int.add_zero _).symm
  | cons p ps ih =>
    intro h
    rw [List.foldl_cons, ih, blockStep, if_pos hg, List.map_cons, List.sum_cons, Int.add_assoc]

/-- The pattern of an exact sum brought to S32: clamped under saturation, else its low bits. -/
theorem s32_intNarrow (sat : Bool) (i : Int) : intNarrow 4 sat i < 2 ^ 32
    ∧ s32 (intNarrow 4 sat i) = if sat = true then max (-(2 ^ 31)) (min (2 ^ 31 - 1) i) else (i + 2 ^ 31) % 2 ^ 32 - 2 ^ 31 := by
  have hmin : intMin 4 = -(2 ^ 31) := rfl
  have hmax : intMax 4 = 2 ^ 31 - 1 := rfl
  have hwidth : (2 : Int) ^ intWidth 4 = 2 ^ 32 := rfl
  unfold intNarrow s32
  rw [hmin, hmax, hwidth]
  cases sat with
  | false =>
    simp only [Bool.false_eq_true, if_false]
    constructor
    · omega
    · split <;> omega
  | true =>
    simp only [if_true]
    constructor
    · omega
    · split_ifs <;> omega

theorem intOf_s32 {n : Nat} (h : n < 2 ^ 32) : intOf 4 n = s32 n := by
  have hmod : n % 2 ^ intWidth 4 = n := Nat.mod_eq_of_lt h
  have hsigned : intSigned 4 = true := rfl
  have hhalf : 2 ^ (intWidth 4 - 1) = 2 ^ 31 := rfl
  have hwidth : (2 : Int) ^ intWidth 4 = 2 ^ 32 := rfl
  rw [intOf_eq, hmod, hsigned, hhalf, hwidth, s32]
  simp only [true_and]
  split_ifs <;> omega

/-! ## FP8 blocks (03 R70, R71) -/

/-- A value of the exponent field is at or above the least quantum of its format. -/
theorem exponent_le {f : Fmt} {bits : Nat} {neg : Bool} {m : Nat} {e : Int} (h : flOf f bits = .fin neg m e) : f.emin - f.mw ≤ e := by
  unfold flOf at h
  dsimp only at h
  split_ifs at h with h1 h2 h3 h4
  all_goals
    injection h with _ _ he
    simp only [Fmt.emin] at he ⊢
    omega

/-- The formats of FP8 operands keep every product a multiple of 2^−32 (03 R70). -/
theorem exponent_fp8 {f : BitVec 3} (hf : f = 4#3 ∨ f = 5#3) {bits : Nat} {neg : Bool} {m : Nat} {e : Int} (h : flOf (fmtOf f) bits
    = .fin neg m e) :
    -16 ≤ e := by
  have hlow := exponent_le h
  have hemin : -16 ≤ (fmtOf f).emin - (fmtOf f).mw := by
    obtain rfl | rfl := hf
    · decide
    · decide
  omega

/-- An infinity, and a zero. -/
def IsInf (x : Fl) : Prop := x = .inf true ∨ x = .inf false
def IsZero (x : Fl) : Prop := isFin x = true ∧ flVal x = 0

@[simp] theorem isInf_nan (sig : Bool) : ¬ IsInf (.nan sig) := fun h => h.elim Fl.noConfusion Fl.noConfusion
@[simp] theorem isInf_fin (neg : Bool) (m : Nat) (e : Int) : ¬ IsInf (.fin neg m e) := fun h => h.elim Fl.noConfusion Fl.noConfusion
@[simp] theorem isInf_inf (neg : Bool) : IsInf (.inf neg) := by
  cases neg with
  | false => exact .inr rfl
  | true => exact .inl rfl
@[simp] theorem isZero_nan (sig : Bool) : ¬ IsZero (.nan sig) := fun h => Bool.noConfusion h.1
@[simp] theorem isZero_inf (neg : Bool) : ¬ IsZero (.inf neg) := fun h => Bool.noConfusion h.1
@[simp] theorem isZero_fin (neg : Bool) (m : Nat) (e : Int) : IsZero (.fin neg m e) ↔ m = 0 := by
  have htwo : (2 : ℚ) ^ e ≠ 0 := (two_zpow_pos e).ne'
  cases neg <;> simp [IsZero, isFin, flVal_fin, htwo]

/-- A pair that makes a block NaN (03 R71). -/
def BadPair (p : Fl × Fl) : Prop := isNan p.1 = true ∨ isNan p.2 = true ∨ (IsZero p.1 ∧ IsInf p.2) ∨ (IsInf p.1 ∧ IsZero p.2)

/-- A pair with an infinity and this sign. -/
def InfinitePair (n : Bool) (p : Fl × Fl) : Prop := (IsInf p.1 ∨ IsInf p.2) ∧ (flSign p.1 ^^ flSign p.2) = n

/-- The pair of values of a pair of operands. -/
def flPair (g : Geo) (p : Nat × Nat) : Fl × Fl := (flOf (fmtOf g.a) p.1, flOf (fmtOf g.b) p.2)

section
variable {g : Geo} (hg : g.kind ≠ .int)
include hg

/-- What one pair adds to the case markers of its block. -/
theorem blockStep_marks (h : Held) (p : Nat × Nat) :
    ((blockStep g h p).nan = true ↔ h.nan = true ∨ BadPair (flPair g p))
    ∧ ((blockStep g h p).posInf = true ↔ h.posInf = true ∨ (¬ BadPair (flPair g p) ∧ InfinitePair false (flPair g p)))
    ∧ ((blockStep g h p).negInf = true ↔ h.negInf = true ∨ (¬ BadPair (flPair g p) ∧ InfinitePair true (flPair g p))) := by
  unfold blockStep
  rw [if_neg hg]
  unfold flPair BadPair InfinitePair
  generalize flOf (fmtOf g.a) p.1 = x
  generalize flOf (fmtOf g.b) p.2 = y
  cases x with
  | nan s => simp [isNan]
  | inf a =>
    cases y with
    | nan s => simp [isNan]
    | inf b => cases a <;> cases b <;> simp [isNan, flSign]
    | fin b m e => cases a <;> cases b <;> by_cases hm : m = 0 <;> simp [isNan, flSign, hm]
  | fin a m e =>
    cases y with
    | nan s => simp [isNan]
    | inf b => cases a <;> cases b <;> by_cases hm : m = 0 <;> simp [isNan, flSign, hm]
    | fin b m' e' => simp [isNan]

/-- The case markers of a block (03 R71). -/
theorem foldl_blockStep_marks : ∀ (ps : List (Nat × Nat)) (h : Held),
    ((ps.foldl (blockStep g) h).nan = true ↔ h.nan = true ∨ ∃ p ∈ ps, BadPair (flPair g p))
    ∧ ((ps.foldl (blockStep g) h).posInf = true ↔ h.posInf = true ∨ ∃ p ∈ ps, ¬ BadPair (flPair g p) ∧ InfinitePair false (flPair g p))
    ∧ ((ps.foldl (blockStep g) h).negInf = true ↔ h.negInf = true ∨ ∃ p ∈ ps, ¬ BadPair (flPair g p) ∧ InfinitePair true (flPair g p)) := by
  intro ps
  induction ps with
  | nil => exact fun h => by simp
  | cons p ps ih =>
    intro h
    obtain ⟨hnan, hpos, hneg⟩ := blockStep_marks hg h p
    obtain ⟨hnan', hpos', hneg'⟩ := ih (blockStep g h p)
    simp only [List.foldl_cons, List.exists_mem_cons_iff, hnan', hpos', hneg', hnan, hpos, hneg, or_assoc, and_self]

/-- A finite pair adds its exact product (03 R70). -/
theorem blockStep_finite (ha : g.a = 4#3 ∨ g.a = 5#3) (hb : g.b = 4#3 ∨ g.b = 5#3) (h : Held) {p : Nat × Nat}
    (hx : isFin (flPair g p).1 = true)
    (hy : isFin (flPair g p).2 = true) :
    ((blockStep g h p).num : ℚ) = h.num + flVal (flPair g p).1 * flVal (flPair g p).2 * 2 ^ 32 := by
  obtain ⟨n1, m1, e1, h1⟩ := isFin_iff.mp hx
  obtain ⟨n2, m2, e2, h2⟩ := isFin_iff.mp hy
  have hlow1 := exponent_fp8 ha h1
  have hlow2 := exponent_fp8 hb h2
  have hdy := dyInt_mul (n1 ^^ n2) (m1 * m2) (show (-32 : Int) ≤ e1 + e2 by omega)
  have hscale : (2 : ℚ) ^ (-32 : Int) * 2 ^ 32 = 1 := by norm_num
  have hstep : (blockStep g h p).num = h.num + dyInt (n1 ^^ n2) (m1 * m2) (e1 + e2) (-32) := by
    unfold blockStep
    rw [if_neg hg]
    unfold flPair at h1 h2
    simp only at h1 h2
    rw [h1, h2]
  rw [hstep, h1, h2, ← flVal_mul, ← hdy, Int.cast_add, mul_assoc, hscale, mul_one]

/-- A block of finite pairs holds its exact sum in units of 2^−32 (03 R70). -/
theorem foldl_blockStep_finite (ha : g.a = 4#3 ∨ g.a = 5#3) (hb : g.b = 4#3 ∨ g.b = 5#3) : ∀ (ps : List (Nat × Nat)) (h : Held),
    (∀ p ∈ ps, isFin (flPair g p).1 = true ∧ isFin (flPair g p).2 = true) →
      ((ps.foldl (blockStep g) h).num : ℚ) = h.num + (ps.map (fun p => flVal (flPair g p).1 * flVal (flPair g p).2)).sum * 2 ^ 32 := by
  intro ps
  induction ps with
  | nil => exact fun h _ => by simp
  | cons p ps ih =>
    intro h hfin
    obtain ⟨⟨hx, hy⟩, hrest⟩ := List.forall_mem_cons.mp hfin
    rw [List.foldl_cons, ih _ hrest, blockStep_finite hg ha hb h hx hy, List.map_cons, List.sum_cons]
    ring

end

/-! ### The scales of a block (03 R70, R71) -/

theorem contribution_none {h : Held} {sa sb : Fl}
    (hbad : (h.nan = true ∨ (h.posInf = true ∧ h.negInf = true)) ∨ isNan sa = true ∨ isNan sb = true) : contribution h sa sb = none := by
  unfold contribution
  exact if_pos (by simpa [or_assoc] using hbad)

/-- A pair without NaN and infinity is a pair of finite values. -/
theorem finite_of_pair {p : Fl × Fl} (hpair : ¬ BadPair p) (hfin : ¬ (IsInf p.1 ∨ IsInf p.2)) : isFin p.1 = true ∧ isFin p.2 = true := by
  have hvalue : ∀ x : Fl, ¬ isNan x = true → ¬ IsInf x → isFin x = true := by
    intro x hnan hinf
    cases x with
    | nan s => exact absurd rfl hnan
    | inf n => exact absurd (isInf_inf n) hinf
    | fin n m e => rfl
  exact ⟨hvalue _ (fun hn => hpair (.inl hn)) fun hi => hfin (.inl hi), hvalue _ (fun hn => hpair (.inr (.inl hn))) fun hi =>
      hfin (.inr hi)⟩

section
variable {h : Held} {sa sb : Fl} (hgood : ¬ ((h.nan = true ∨ (h.posInf = true ∧ h.negInf = true)) ∨ isNan sa = true ∨ isNan sb = true))
include hgood

/-- A block with an infinite product: the default NaN where a scale is zero, else the infinity of the signs. -/
theorem contribution_infinite (hinf : h.posInf = true ∨ h.negInf = true) :
    (IsZero sa ∨ IsZero sb → contribution h sa sb = none)
    ∧ (¬ (IsZero sa ∨ IsZero sb) → contribution h sa sb = some (.inf (h.negInf ^^ (flSign sa ^^ flSign sb)))) := by
  unfold contribution
  rw [if_neg (by simpa [or_assoc] using hgood), if_pos (by simpa using hinf)]
  cases sa <;> cases sb <;> simp [isNan] at hgood ⊢
  exact fun hzero hne => hzero.resolve_left hne

variable (hfin : ¬ (h.posInf = true ∨ h.negInf = true))
include hfin

/-- A block whose sum is zero. -/
theorem contribution_zero (hzero : h.num = 0) : (IsInf sa ∨ IsInf sb → contribution h sa sb = none)
    ∧ (¬ (IsInf sa ∨ IsInf sb) → contribution h sa sb = some (.fin false 0 0)) := by
  unfold contribution
  rw [if_neg (by simpa [or_assoc] using hgood), if_neg (by simpa using hfin), if_pos hzero]
  cases sa <;> cases sb <;> simp

/-- A block with a sum under an infinite scale. -/
theorem contribution_scaled_infinite (hsum : h.num ≠ 0) (hscale : IsInf sa ∨ IsInf sb) :
    (IsZero sa ∨ IsZero sb → contribution h sa sb = none)
    ∧ (¬ (IsZero sa ∨ IsZero sb) → contribution h sa sb = some (.inf (decide (h.num < 0) ^^ (flSign sa ^^ flSign sb)))) := by
  unfold contribution
  rw [if_neg (by simpa [or_assoc] using hgood), if_neg (by simpa using hfin), if_neg hsum]
  cases sa <;> cases sb <;> simp [isNan] at hgood hscale ⊢

/-- A block with a sum under finite scales. -/
theorem contribution_finite (hsum : h.num ≠ 0) (hscale : ¬ (IsInf sa ∨ IsInf sb)) : ∃ v, contribution h sa sb = some v ∧ isFin v = true
    ∧ flVal v = (h.num : ℚ) * flVal sa * flVal sb * 2 ^ (-32 : Int) := by
  unfold contribution
  rw [if_neg (by simpa [or_assoc] using hgood), if_neg (by simpa using hfin), if_neg hsum]
  cases sa with
  | nan s => simp [isNan] at hgood
  | inf a => simp at hscale
  | fin n1 m1 e1 =>
    cases sb with
    | nan s => simp [isNan] at hgood
    | inf b => simp at hscale
    | fin n2 m2 e2 =>
      refine ⟨.fin (decide (h.num < 0) ^^ (n1 ^^ n2)) (h.num.natAbs * m1 * m2) (e1 + e2 - 32), rfl, rfl, ?_⟩
      have hnum : (h.num : ℚ) = flVal (.fin (decide (h.num < 0)) h.num.natAbs 0) := by
        rw [flVal_fin, zpow_zero, mul_one, Nat.cast_natAbs]
        rcases lt_or_ge h.num 0 with hneg | hpos
        · simp [hneg, abs_of_neg hneg]
        · simp [not_lt.mpr hpos, abs_of_nonneg hpos]
      have hplace : flVal (.fin false 1 (-32)) = (2 : ℚ) ^ (-32 : Int) := by simp [flVal_fin]
      rw [hnum, ← hplace, ← flVal_mul, ← flVal_mul, ← flVal_mul]
      congr 1
      simp only [Bool.xor_false, Nat.mul_one, Fl.fin.injEq]
      exact ⟨(Bool.xor_assoc _ _ _).symm, trivial, by omega⟩

end

/-- The contribution of a block, from its markers and its sum, is what 03 R70 and R71 say of its pairs and scales. -/
theorem contributes_contribution {ps : List (Fl × Fl)} {h : Held} (hnan : h.nan = true ↔ ∃ p ∈ ps, BadPair p)
    (hpos : h.posInf = true ↔ ∃ p ∈ ps, ¬ BadPair p ∧ InfinitePair false p) (hneg : h.negInf = true ↔ ∃ p ∈ ps, ¬ BadPair p
        ∧ InfinitePair true p)
    (hnum : (∀ p ∈ ps, isFin p.1 = true ∧ isFin p.2 = true) → (h.num : ℚ) = (ps.map (fun p => flVal p.1 * flVal p.2)).sum * 2 ^ 32)
        (sa sb : Fl) :
    Contributes ps sa sb (contribution h sa sb) := by
  unfold Contributes
  intro inf zero infinite sum bad scaled finite
  have hinfinite : (¬ ∃ p ∈ ps, BadPair p) → (infinite false ↔ h.posInf = true) ∧ (infinite true ↔ h.negInf = true) := by
    intro hok
    have hgood : ∀ n, infinite n ↔ ∃ p ∈ ps, ¬ BadPair p ∧ InfinitePair n p := fun n =>
      exists_congr fun p => and_congr_right fun hp => (and_iff_right fun hb => hok ⟨p, hp, hb⟩).symm
    exact ⟨(hgood false).trans hpos.symm, (hgood true).trans hneg.symm⟩
  have hbad : bad ↔ (h.nan = true ∨ (h.posInf = true ∧ h.negInf = true)) ∨ isNan sa = true ∨ isNan sb = true := by
    have hassoc : bad ↔ ((∃ p ∈ ps, BadPair p) ∨ (infinite true ∧ infinite false)) ∨ isNan sa = true ∨ isNan sb = true := or_assoc.symm
    rw [hassoc, hnan]
    by_cases hok : ∃ p ∈ ps, BadPair p
    · simp only [hok, true_or]
    · obtain ⟨hfalse, htrue⟩ := hinfinite hok
      rw [hfalse, htrue, and_comm]
  have hmarks : ¬ bad → (infinite false ↔ h.posInf = true) ∧ (infinite true ↔ h.negInf = true)
      := fun hb => hinfinite fun hok => hb (.inl hok)
  have hfinite : finite → ¬ (h.posInf = true ∨ h.negInf = true) ∧ (h.num : ℚ) = sum * 2 ^ 32 := by
    rintro ⟨hb, hnone⟩
    obtain ⟨hfalse, htrue⟩ := hmarks hb
    refine ⟨fun hm => hm.elim (fun hp => hnone _ (hfalse.mpr hp)) fun hn => hnone _ (htrue.mpr hn), hnum fun p hp => ?_⟩
    have hpair : ¬ BadPair p := fun hbp => hb (.inl ⟨p, hp, hbp⟩)
    have hfin : ¬ (IsInf p.1 ∨ IsInf p.2) := fun hi => hnone _ ⟨p, hp, hi, rfl⟩
    exact finite_of_pair hpair hfin
  refine ⟨fun hb => contribution_none (hbad.mp hb), fun hb n hn => ?infinite, fun hf hzero => ?zero, fun hf hsum => ?sum⟩
  case infinite =>
    obtain ⟨hfalse, htrue⟩ := hmarks hb
    have hgood := hbad.not.mp hb
    have hmark : h.posInf = true ∨ h.negInf = true := by
      cases n with
      | false => exact .inl (hfalse.mp hn)
      | true => exact .inr (htrue.mp hn)
    have hsign : h.negInf = n := by
      cases n with
      | false => exact Bool.not_eq_true _ ▸ fun hneg => hgood (.inl (.inr ⟨hfalse.mp hn, hneg⟩))
      | true => exact htrue.mp hn
    obtain ⟨hnone, hsome⟩ := contribution_infinite hgood hmark
    rw [hsign] at hsome
    dsimp only [scaled]
    split
    next hscale => exact hnone hscale
    next hscale => exact hsome hscale
  case zero =>
    obtain ⟨hfin, heq⟩ := hfinite hf
    have hnum0 : h.num = 0 := by
      rw [hzero, zero_mul] at heq
      exact_mod_cast heq
    obtain ⟨hnone, hsome⟩ := contribution_zero (hbad.not.mp hf.1) hfin hnum0
    split
    next hscale => exact hnone hscale
    next hscale => exact ⟨_, hsome hscale, rfl, by simp [flVal_fin]⟩
  case sum =>
    obtain ⟨hfin, heq⟩ := hfinite hf
    have hgood := hbad.not.mp hf.1
    have hscale32 : (2 : ℚ) ^ 32 * 2 ^ (-32 : Int) = 1 := by norm_num
    have hnum0 : h.num ≠ 0 := by
      intro h0
      rw [h0, Int.cast_zero, eq_comm, mul_eq_zero] at heq
      exact hsum (heq.resolve_right (by positivity))
    have hsign : h.num < 0 ↔ sum < 0 := by
      rw [← Int.cast_lt_zero (R := ℚ), heq]
      exact ⟨fun hlt => by nlinarith, fun hlt => by nlinarith⟩
    split
    next hscale =>
      obtain ⟨hnone, hsome⟩ := contribution_scaled_infinite hgood hfin hnum0 hscale
      rw [decide_eq_decide.mpr hsign] at hsome
      dsimp only [scaled]
      split
      next hz => exact hnone hz
      next hz => exact hsome hz
    next hscale =>
      obtain ⟨v, hv, hvfin, hval⟩ := contribution_finite hgood hfin hnum0 hscale
      refine ⟨v, hv, hvfin, hval.trans ?_⟩
      rw [heq]
      linear_combination sum * flVal sa * flVal sb * hscale32

end Sys2Proof.Machine
end

section
/-! PROOFS. What a row makes of each column (O57): formats under a legal configuration, operands of one byte, and the column by its arithmetic. -/

namespace Sys2Proof.Machine

open Sys2Proof.Claims

/-! ## Formats of the array (07 R142) -/

section
variable {c : Ctx} (hgood : mxFormatOk (cfgField c 0xC8 1) = true)
include hgood

theorem geoOf_int (hkind : (geoOf c).kind = .int) : (geoOf c).a.toNat ≤ 1 ∧ (geoOf c).b.toNat ≤ 1 := by
  unfold geoOf at hkind ⊢
  unfold mxFormatOk at hgood
  dsimp only at hkind hgood ⊢
  generalize cfgField c 0xC8 1 = v at *
  split_ifs at hkind with h8 ha
  rw [if_pos h8] at hgood
  simp only [Bool.and_eq_true, decide_eq_true_eq] at hgood
  exact hgood.2

theorem geoOf_fp8 (hkind : (geoOf c).kind = .fp8) : ((geoOf c).a = 4#3 ∨ (geoOf c).a = 5#3) ∧ ((geoOf c).b = 4#3 ∨ (geoOf c).b = 5#3) := by
  unfold geoOf at hkind ⊢
  unfold mxFormatOk at hgood
  dsimp only at hkind hgood ⊢
  generalize cfgField c 0xC8 1 = v at *
  split_ifs at hkind with h8 ha
  rw [if_neg h8] at hgood
  simp only [Bool.and_eq_true, Bool.or_eq_true, decide_eq_true_eq] at hgood
  obtain ⟨-, ⟨hfa, hfb⟩ | ⟨-, hlow⟩⟩ := hgood
  · exact ⟨hfa.imp BitVec.eq_of_toNat_eq BitVec.eq_of_toNat_eq, hfb.imp BitVec.eq_of_toNat_eq BitVec.eq_of_toNat_eq⟩
  · omega

end

theorem geoOf_float {c : Ctx} (hkind : (geoOf c).kind = .float) : (geoOf c).a.toNat < 4 := by
  unfold geoOf at hkind ⊢
  dsimp only at hkind ⊢
  split_ifs at hkind with h8 ha
  omega

section
variable {g : Geo}

theorem size_of_bytes (hkind : g.kind ≠ .float) : g.size = 1 ∧ g.w = 8 ∧ g.wide = false ∧ g.entryBound = 2 ^ 32 := by
  have hwide : g.wide = false := by simp [Geo.wide, hkind]
  exact ⟨if_neg hkind, if_neg hkind, hwide, by simp [Geo.entryBound, hwide]⟩

/-- The accumulator format holds the patterns of its entries. -/
theorem accFormat (g : Geo) : ∃ code, floatCodeOk code = true ∧ g.acc = fmtOf code ∧ g.entryBound = 2 ^ widthOf code := by
  unfold Geo.acc Geo.entryBound
  cases g.wide with
  | false => exact ⟨1#3, rfl, rfl, rfl⟩
  | true => exact ⟨0#3, rfl, rfl, rfl⟩

end

/-! ## Operands (07 R145) -/

theorem bytesAt_lt (bs : List Byte) (off n : Nat) : bytesAt bs off n < 256 ^ n := by
  have hfold : ∀ l : List Byte, l.foldr (fun b v => b.toNat + 256 * v) 0 < 256 ^ l.length := by
    intro l
    induction l with
    | nil => exact Nat.one_pos
    | cons b l ih =>
      have hb := b.isLt
      rw [List.foldr_cons, List.length_cons, pow_succ']
      omega
  exact (hfold _).trans_le (Nat.pow_le_pow_right (by decide) (List.length_take_le _ _))

theorem rowPairs_eq (g : Geo) (x : MxItem) (j : Nat) :
    rowPairs g x j = (List.range g.depth).map (fun k => (operandAt g x.image k, weightAt g x.met k j)) := rfl

theorem operands_lt {g : Geo} (hkind : g.kind ≠ .float) (x : MxItem) (k j : Nat) : operandAt g x.image k < 256 ∧
    weightAt g x.met k j < 256 := by
  obtain ⟨hsize, -⟩ := size_of_bytes hkind
  have hoperand := bytesAt_lt x.image ((if g.kind = .fp8 then 8 else 0) + k * g.size) g.size
  unfold operandAt weightAt lane
  rw [hsize] at hoperand ⊢
  exact ⟨hoperand, Nat.mod_lt _ (by decide)⟩

/-! ## Columns -/

section
variable {m : Mx} {g : Geo} {x : MxItem}

/-- The exact sum of integer products of a column. -/
def intProducts (g : Geo) (x : MxItem) (j : Nat) : Int :=
  ((List.range g.depth).map (fun k => int8 g.a (operandAt g x.image k) * int8 g.b (weightAt g x.met k j))).sum

theorem sum_rowPairs_int (hkind : g.kind = .int) (hformats : g.a.toNat ≤ 1 ∧ g.b.toNat ≤ 1) (j : Nat) :
    ((rowPairs g x j).foldl (blockStep g) Held.zero).num = intProducts g x j := by
  have hbytes : g.kind ≠ .float := by rw [hkind]; decide
  rw [foldl_blockStep_int hkind, rowPairs_eq, List.map_map, intProducts]
  refine (Int.zero_add _).trans (congrArg List.sum (List.map_congr_left fun k _ => ?_))
  obtain ⟨ha, hb⟩ := operands_lt hbytes x k j
  exact congrArg₂ (· * ·) (intOf_eq_int8 hformats.1 ha) (intOf_eq_int8 hformats.2 hb)

/-- A row of the first pass of a split row holds its sum (07 R152). -/
theorem column_hold (hkind : g.kind ≠ .float) (hpart : (x.tag.getD Tag.zero).part = 1#2) (j : Nat) :
    column m g x j = .hold ((rowPairs g x j).foldl (blockStep g) Held.zero) := by
  unfold column
  simp only [hkind, hpart, ne_eq, not_false_eq_true, decide_true, beq_self_eq_true, Bool.and_self, if_true, if_false]

/-- A row that is promoted: its block, with the held state in the second pass of a split row (07 R152). -/
theorem column_promote (hkind : g.kind ≠ .float) (hpart : (x.tag.getD Tag.zero).part ≠ 1#2) (j : Nat) :
    column m g x j = .entry (promote g
      (if (x.tag.getD Tag.zero).part = 2#2 then ((tabFind m.held (mxKey x.pos j)).getD Held.zero).plus ((rowPairs g x j).foldl
          (blockStep g) Held.zero)
       else (rowPairs g x j).foldl (blockStep g) Held.zero)
      (bytesAt x.image 0 4) (x.tag.getD Tag.zero).sb.toNat (if x.zero = true then 0 else accOf m g x.pos j)) := by
  unfold column
  simp only [hkind, beq_eq_false_iff_ne.mpr hpart, ne_eq, not_false_eq_true, decide_true, Bool.and_false, Bool.not_false, Bool.and_true,
    Bool.false_eq_true, if_false]

/-- An integer row: the exact sum brought to S32, with no flag (03 R73). -/
theorem column_int (hkind : g.kind = .int) (hformats : g.a.toNat ≤ 1 ∧ g.b.toNat ≤ 1) (hpart : (x.tag.getD Tag.zero).part ≠ 1#2) (j : Nat) :
    column m g x j = .entry ⟨intNarrow 4 g.sat (s32 (if x.zero = true then 0 else accOf m g x.pos j)
      + (if (x.tag.getD Tag.zero).part = 2#2 then ((tabFind m.held (mxKey x.pos j)).getD Held.zero).num else 0) + intProducts g x
          j), 0⟩ := by
  have hbytes : g.kind ≠ .float := by rw [hkind]; decide
  obtain ⟨-, -, -, hbound⟩ := size_of_bytes hbytes
  have hold : (if x.zero = true then 0 else accOf m g x.pos j) < 2 ^ 32 := by
    split
    · decide
    · exact hbound ▸ accOf_lt m g x.pos j
  rw [column_promote hbytes hpart, promote, if_pos hkind, intOf_s32 hold, ← sum_rowPairs_int hkind hformats]
  by_cases hsecond : (x.tag.getD Tag.zero).part = 2#2
  · rw [if_pos hsecond, if_pos hsecond, Held.plus, Int.add_assoc]
  · rw [if_neg hsecond, if_neg hsecond, Int.add_zero]

/-- An FP8 row of a whole share (03 R70, R71). -/
theorem column_fp8 (hkind : g.kind = .fp8) (hpart : (x.tag.getD Tag.zero).part = 0#2) (j : Nat) :
    column m g x j = .entry (promote g ((rowPairs g x j).foldl (blockStep g) Held.zero) (bytesAt x.image 0 4) (x.tag.getD Tag.zero).sb.toNat
      (if x.zero = true then 0 else accOf m g x.pos j)) := by
  rw [column_promote (by rw [hkind]; decide) (by rw [hpart]; decide), if_neg (by rw [hpart]; decide)]

/-- The entry that a contribution makes of an old one: the default NaN, or the sum rounded once, an exact zero being +0 (03 R70). -/
def fp8Entry (g : Geo) (old : Nat) : Option Fl → Nat
  | none => nanOf 1
  | some v => if (fAdd (fmtOf 1) g.rnd g.sat (flOf (fmtOf 1) old) v).bits % 2 ^ 31 = 0 then 0
    else (fAdd (fmtOf 1) g.rnd g.sat (flOf (fmtOf 1) old) v).bits

theorem promote_fp8 (hkind : g.kind = .fp8) (h : Held) (sa sb c : Nat) : (promote g h sa sb c).bits < 2 ^ 32
    ∧ (promote g h sa sb c).bits = fp8Entry g c (contribution h (flOf (fmtOf 1) sa) (flOf (fmtOf 1) sb)) := by
  unfold promote
  rw [if_neg (by rw [hkind]; decide)]
  dsimp only
  cases contribution h (flOf (fmtOf 1) sa) (flOf (fmtOf 1) sb) with
  | none => exact ⟨(special_lt (code := 1#3) rfl).1, rfl⟩
  | some v => exact ⟨(plusZero_bits_le _ _).trans_lt (fAdd_lt (code := 1#3) rfl _ _ _ _), plusZero_bits _ _⟩

/-- The pairs of values of a column. -/
def columnPairs (g : Geo) (x : MxItem) (j : Nat) : List (Fl × Fl) :=
  (List.range g.depth).map (fun k => (flOf (fmtOf g.a) (operandAt g x.image k), flOf (fmtOf g.b) (weightAt g x.met k j)))

theorem columnPairs_eq (j : Nat) : columnPairs g x j = (rowPairs g x j).map (flPair g) := by
  rw [rowPairs_eq, List.map_map]
  rfl

section
variable (hkind : g.kind = .fp8) (hformats : (g.a = 4#3 ∨ g.a = 5#3) ∧ (g.b = 4#3 ∨ g.b = 5#3)) (j : Nat)
include hkind hformats

/-- A block of finite pairs holds its exact sum (03 R70). -/
theorem num_block (hfin : ∀ p ∈ columnPairs g x j, isFin p.1 = true ∧ isFin p.2 = true) :
    (((rowPairs g x j).foldl (blockStep g) Held.zero).num : ℚ) = ((columnPairs g x j).map (fun p => flVal p.1 * flVal p.2)).sum
        * 2 ^ 32 := by
  obtain ⟨ha, hb⟩ := hformats
  rw [columnPairs_eq] at hfin ⊢
  rw [foldl_blockStep_finite (by rw [hkind]; decide) ha hb _ _ (List.forall_mem_map.mp hfin), List.map_map]
  show ((0 : Int) : ℚ) + _ = _
  rw [Int.cast_zero, zero_add]
  rfl

/-- The contribution of a column's block (03 R70, R71). -/
theorem contributes_column (sa sb : Fl) :
    Contributes (columnPairs g x j) sa sb (contribution ((rowPairs g x j).foldl (blockStep g) Held.zero) sa sb) := by
  obtain ⟨hnan, hpos, hneg⟩ := foldl_blockStep_marks (g := g) (by rw [hkind]; decide) (rowPairs g x j) Held.zero
  have hmem : ∀ P : Fl × Fl → Prop, (∃ p ∈ columnPairs g x j, P p) ↔ ∃ p ∈ rowPairs g x j, P (flPair g p) := fun P => by
    simp only [columnPairs_eq, List.mem_map, exists_exists_and_eq_and]
  refine contributes_contribution ?_ ?_ ?_ (num_block hkind hformats j) sa sb
  · rw [hnan, hmem]
    exact or_iff_right Bool.false_ne_true
  · rw [hpos, hmem]
    exact or_iff_right Bool.false_ne_true
  · rw [hneg, hmem]
    exact or_iff_right Bool.false_ne_true

end

/-- A float row: its products in order, each step rounded once (03 R69). -/
theorem column_float (hkind : g.kind = .float) (j : Nat) : ∃ r, column m g x j = .entry r ∧ r.bits < g.entryBound
    ∧ r.bits = (List.range g.depth).foldl (fun v k => chainStep g.acc g v (operandAt g x.image k, weightAt g x.met k j))
      (if x.zero = true then 0 else accOf m g x.pos j) := by
  have hcolumn : column m g x j = .entry (chain g.acc g (rowPairs g x j) ⟨if x.zero = true then 0 else accOf m g x.pos j, 0⟩) := by
    unfold column
    simp only [hkind, ne_eq, not_true_eq_false, decide_false, Bool.false_and, Bool.not_false, Bool.and_true, if_true]
  obtain ⟨code, hcode, hacc, hbound⟩ := accFormat g
  have hold : (if x.zero = true then 0 else accOf m g x.pos j) < g.entryBound := by
    split
    · exact (Nat.zero_le _).trans_lt (accOf_lt m g x.pos j)
    · exact accOf_lt m g x.pos j
  refine ⟨_, hcolumn, ?_, ?_⟩
  · rw [hbound] at hold ⊢
    rw [chain_bits, hacc]
    exact chain_lt hcode g _ hold
  · rw [chain_bits, rowPairs_eq, List.foldl_map]

end

end Sys2Proof.Machine
end

section
/-! PROOFS. The matrix array at work (O57): commands start, items enter and move, rows commit, and commands drain and complete. -/

namespace Sys2Proof.Machine

open Sys2Proof.Claims

/-! ## The queue -/

/-- A change of the command at the head of the queue. -/
theorem updCmd_head {s : State} {c : MxCmd} {q : List MxCmd} (hq : s.me.mx.queue = c :: q) (f : MxCmd → MxCmd) :
    updCmd s 0 f = { s with me.mx.queue := f c :: q } := by
  have htail : (q.zipIdx 1).map (fun p => if p.2 = 0 then f p.1 else p.1) = q := by
    have hfst : (q.zipIdx 1).map (fun p => if p.2 = 0 then f p.1 else p.1) = (q.zipIdx 1).map Prod.fst :=
      List.map_congr_left fun p hp => if_neg (by have := List.le_snd_of_mem_zipIdx hp; omega)
    rw [hfst, List.zipIdx_map_fst]
  unfold updCmd
  rw [hq, List.zipIdx_cons, List.map_cons, htail, if_pos rfl]

theorem ownerPlace_head {c : MxCmd} {x : MxItem} (h : c.serial = x.owner) (q : List MxCmd) : ownerPlace (c :: q) x = 0 := by
  simp [ownerPlace, List.findIdx?_cons, h]

/-! ## Commands start (07 R143, R149, R154, R155) -/

section
variable {s : State} {c : MxCmd} {q : List MxCmd}

/-- The first command of the queue starts when nothing is in the array. -/
theorem startCommand_head (hq : s.me.mx.queue = c :: q) (hstart : c.started = false) (hitems : s.me.mx.items = [])
    (htoks : s.me.mx.graphToks = [])
    (hbus : busGraph s = none) (hactive : isActive s s.me.id = true) (hstay : leaving s s.me.id = false) (hrun : s.me.mx.halted = false)
    (hlost : beginLost s c = none) :
    exec .mxCommandStart s = .next { s with me.mx := { (beginCmd s c).1 with queue := (beginCmd s c).2 :: q } } := by
  have hbefore : (c :: q).takeWhile (fun m => m.started) = [] := by rw [List.takeWhile_cons, hstart]; rfl
  have hmay : mayBegin s [] c = true := by simp [mayBegin, hitems, htoks, hbus]
  show Host.Outcome.next (startCommand s) = _
  congr 1
  unfold startCommand
  simp only [hq, hbefore, List.length_nil, List.drop_zero, List.nil_append]
  rw [if_neg (by simp [hactive, hstay, hrun, hmay])]
  simp only [hlost]

theorem beginCmd_lw (s : State) {p : BitVec 2} (h : c.op = .lw p) :
    beginCmd s c = (loadTile s (geoOf s.me) c.a.toNat ⟨p, c.b.setWidth 32⟩, { c with started := true, done := 1 }) := by
  cases c
  cases h
  rfl

theorem beginCmd_zero (s : State) {v : BitVec 4} (h : c.op = .zero v) :
    beginCmd s c = (zeroParts s.me.mx (geoOf s.me) v (rangeBase c.b) (rangeCount c.b), { c with started := true, done := 1 }) := by
  cases c
  cases h
  rfl

theorem beginCmd_sort (s : State) {bus : Bool} (h : c.op = .sort bus) :
    beginCmd s c = (s.me.mx, { c with started := true, pairs := sortOut s (geoOf s.me) c }) := by
  cases c
  cases h
  rfl

/-- The other commands only begin. -/
theorem beginCmd_other (s : State) {z bus clr : Bool} (h : c.op = .run z ∨ c.op = .rung z ∨ c.op = .acc bus clr ∨ c.op = .swp) :
    beginCmd s c = (s.me.mx, { c with started := true }) := by
  cases c
  obtain h | h | h | h := h
  all_goals cases h; rfl

/-- The weights of a tile image stand in the loading tile (07 R145, R149). -/
theorem weightAt_loadTile (s : State) (g : Geo) (a : Nat) (tag : Tag) (hword : g.w * (8 * g.size) ≤ 64) (hw : 0 < g.w)
    {k j : Nat} (hk : k < g.depth)
    (hj : j < 16) :
    weightAt g (loadTile s g a tag).loading k j = memNat s.win (winKey s.me.id.core (a + (16 * k + j) * g.size)) g.size := by
  have hrow : k / g.w < g.rows := (Nat.div_lt_iff_lt_mul hw).mpr hk
  have hcell : mxKey (k / g.w) j ∈ ((List.range g.rows).flatMap (fun r => (List.range 16).map (fun j =>
      (r, j)))).map (fun p => mxKey p.1 p.2) :=
    List.mem_map.mpr ⟨(k / g.w, j), List.mem_flatMap.mpr ⟨k / g.w, List.mem_range.mpr hrow, List.mem_map.mpr ⟨j,
        List.mem_range.mpr hj, rfl⟩⟩, rfl⟩
  have hread : tabGet 0 (loadTile s g a tag).loading (mxKey (k / g.w) j) = tileWord s g a (k / g.w) j := by
    have hplace : ∀ r j, j < 16 → mxKey r j / 16 = r ∧ mxKey r j % 16 = j := fun r j hj => by unfold mxKey; omega
    unfold loadTile
    dsimp only
    rw [tabGet_foldl_put 0 (fun p : Nat × Nat => mxKey p.1 p.2) (fun p => tileWord s g a p.1 p.2) (fun n => tileWord s g a (n / 16)
        (n % 16)),
      if_pos hcell, (hplace _ j hj).1, (hplace _ j hj).2]
    intro p hp
    obtain ⟨r, -, hp⟩ := List.mem_flatMap.mp hp
    obtain ⟨i, hi, rfl⟩ := List.mem_map.mp hp
    have hi' := hplace r i (List.mem_range.mp hi)
    rw [hi'.1, hi'.2]
  have hlt := joinLanes_lt (8 * g.size) ((List.range g.w).map fun q => winNat s s.me.id.core (a + (16 * (k / g.w * g.w + q) + j) *
      g.size) g.size)
  rw [List.length_map, List.length_range, Nat.mul_comm (8 * g.size) g.w] at hlt
  have hmod : k % g.w < g.w := Nat.mod_lt k hw
  unfold weightAt
  rw [hread, lane, tileWord, BitVec.toNat_ofNat, Nat.mod_eq_of_lt (hlt.trans_le (Nat.pow_le_pow_right (by decide) hword)),
    joinLanes_lane _ _ _ (by simpa using hmod), List.getElem_map, List.getElem_range, Nat.div_add_mod' k g.w, winNat, pow_mul]
  exact Nat.mod_eq_of_lt (memNat_lt _ _ _)

theorem loadingTag_loadTile (s : State) (g : Geo) (a : Nat) (tag : Tag) {r : Nat} (hr : r < g.rows) :
    tabGet Tag.zero (loadTile s g a tag).loadingTag r = tag := by
  unfold loadTile
  dsimp only
  rw [tabGet_foldl_put Tag.zero (fun r => r) (fun _ => tag) (fun _ => tag) r _ _ fun _ _ => rfl, List.map_id',
      if_pos (List.mem_range.mpr hr)]

theorem geo_word_bounds (c : Ctx) : (geoOf c).w * (8 * (geoOf c).size) ≤ 64 ∧ 0 < (geoOf c).w
    ∧ ((geoOf c).wide = false → (geoOf c).size ≤ 4) := by
  by_cases hkind : (geoOf c).kind = .float
  · have hlow := geoOf_float hkind
    unfold Geo.w Geo.size Geo.wide
    rw [if_pos hkind, if_pos hkind, hkind]
    generalize (geoOf c).a = f at hlow
    revert f
    decide
  · obtain ⟨hsize, hw, -⟩ := size_of_bytes hkind
    rw [hsize, hw]
    exact ⟨by decide, by decide, fun _ => by decide⟩

/-! ### MXSORT (07 R154) -/

theorem insertKey_spec (below : Nat → Nat → Bool) (x : Nat × Nat) (t : List (Nat × Nat)) :
    (insertKey below x t).length = t.length + 1 ∧ ∀ p ∈ insertKey below x t, p = x ∨ p ∈ t := by
  induction t with
  | nil => exact ⟨rfl, fun p hp => .inl (List.mem_singleton.mp hp)⟩
  | cons y t ih =>
    obtain ⟨hlen, hmem⟩ := ih
    unfold insertKey
    split
    · exact ⟨rfl, fun p hp => List.mem_cons.mp hp⟩
    · refine ⟨congrArg (· + 1) hlen, fun p hp => ?_⟩
      rw [List.mem_cons] at hp ⊢
      obtain rfl | hp := hp
      · exact .inr (.inl rfl)
      · exact (hmem p hp).imp_right .inr

/-- The pairs kept of n keys: as many as are asked for, each a key with its index. -/
theorem foldl_insertKey (below : Nat → Nat → Bool) (key : Nat → Nat) (k n : Nat) :
    let top := (List.range n).foldl (fun t i => (insertKey below (key i, i) t).take k) []
    top.length = min k n ∧ ∀ p ∈ top, p.2 < n ∧ p.1 = key p.2 := by
  induction n with
  | zero => exact ⟨by simp, fun p hp => absurd hp List.not_mem_nil⟩
  | succ n ih =>
    obtain ⟨hlen, hmem⟩ := ih
    rw [List.range_succ, List.foldl_append, List.foldl_cons, List.foldl_nil]
    generalize (List.range n).foldl (fun t i => (insertKey below (key i, i) t).take k) [] = t at hlen hmem ⊢
    obtain ⟨hgrows, hin⟩ := insertKey_spec below (key n, n) t
    refine ⟨by rw [List.length_take, hgrows, hlen]; omega, fun p hp => ?_⟩
    obtain rfl | hp := hin p (List.mem_of_mem_take hp)
    · exact ⟨Nat.lt_succ_self n, rfl⟩
    · exact ⟨Nat.lt_succ_of_lt (hmem p hp).1, (hmem p hp).2⟩

/-- The payloads of MXSORT: a key above its index. -/
theorem sortOut_spec (s : State) (g : Geo) (c : MxCmd) (hsize : g.size ≤ 4) : (sortOut s g c).length = min (sortPairs c.b) (sortKeys c.b)
    ∧ ∀ w ∈ sortOut s g c, w.toNat % 2 ^ 32 < sortKeys c.b
      ∧ w.toNat / 2 ^ 32 = memNat s.win (winKey s.me.id.core ((c.a.toNat + w.toNat % 2 ^ 32 * g.size) % 2 ^ 20)) g.size := by
  obtain ⟨hlen, hmem⟩ := foldl_insertKey (keyBelow (g.kind == .int) g.a)
    (fun i => winNat s s.me.id.core ((c.a.toNat + i * g.size) % 2 ^ 20) g.size) (sortPairs c.b) (sortKeys c.b)
  unfold sortOut
  refine ⟨by rw [List.length_map]; exact hlen, fun w hw => ?_⟩
  obtain ⟨⟨key, i⟩, hp, rfl⟩ := List.mem_map.mp hw
  obtain ⟨hi, hkey⟩ := hmem _ hp
  dsimp only at hi hkey
  have hkeys : sortKeys c.b < 2 ^ 16 := BitVec.isLt _
  have hkeyLt : key < 2 ^ 32 := by
    have hpow : 256 ^ g.size ≤ 256 ^ 4 := Nat.pow_le_pow_right (by decide) hsize
    have hlt := memNat_lt s.win (winKey s.me.id.core ((c.a.toNat + i * g.size) % 2 ^ 20)) g.size
    rw [hkey, winNat]
    omega
  have hword : (BitVec.ofNat 64 (key * 2 ^ 32 + i)).toNat = key * 2 ^ 32 + i := by
    rw [BitVec.toNat_ofNat]
    omega
  have hlow : (key * 2 ^ 32 + i) % 2 ^ 32 = i := by omega
  have hhigh : (key * 2 ^ 32 + i) / 2 ^ 32 = key := by omega
  rw [hword, hlow, hhigh]
  exact ⟨hi, hkey⟩

/-! ### MXZERO (07 R155) -/

theorem accOf_foldl_clearRow (g : Geo) {j : Nat} (hj : j < 16) (y : Nat) : ∀ (rows : List Nat) (m : Mx),
    accOf (rows.foldl (clearRow g) m) g y j = if y ∈ rows then 0 else accOf m g y j := by
  intro rows
  induction rows with
  | nil => exact fun m => rfl
  | cons r rows ih =>
    intro m
    rw [List.foldl_cons, ih, accOf_clearRow g m r y hj]
    by_cases hin : y ∈ rows
    · simp only [hin, List.mem_cons, or_true, if_true]
    · simp only [hin, List.mem_cons, or_false, if_false]

/-- What MXZERO leaves of the parts that its mask names, and of those that it does not. -/
theorem zeroParts_spec (m : Mx) (g : Geo) (what : BitVec 4) (base n : Nat) {j : Nat} (hj : j < 16) :
    (what.getLsbD 0 = true → ∀ y, base ≤ y → y < base + n → accOf (zeroParts m g what base n) g y j = 0)
    ∧ (what.getLsbD 0 = false → (zeroParts m g what base n).bank = m.bank)
    ∧ (what.getLsbD 1 = true → (zeroParts m g what base n).loading = []) ∧ (what.getLsbD 2 = true →
        (zeroParts m g what base n).active = []) := by
  obtain ⟨m1, hm1⟩ : ∃ m1, m1 = if what.getLsbD 0 then ((List.range n).map (· + base)).foldl (clearRow g) m else m := ⟨_, rfl⟩
  have hbank : (zeroParts m g what base n).bank = m1.bank := by
    subst hm1
    unfold zeroParts
    simp only [apply_ite Mx.bank, ite_self]
    rfl
  refine ⟨fun h0 y hlow hhigh => ?_, fun h0 => ?_, fun h1 => ?_, fun h2 => ?_⟩
  · have hin : y ∈ (List.range n).map (· + base) := List.mem_map.mpr ⟨y - base, List.mem_range.mpr (by omega), by omega⟩
    rw [congrFun (congrFun (congrFun (accOf_congr hbank) g) y) j, hm1, if_pos h0, accOf_foldl_clearRow g hj y, if_pos hin]
  · rw [hbank, hm1, h0]
    rfl
  · unfold zeroParts
    simp only [h1, if_true, apply_ite Mx.loading, ite_self]
  · unfold zeroParts
    simp only [h2, if_true, apply_ite Mx.active, ite_self]

end

end Sys2Proof.Machine
end

section
/-! PROOFS. The flow of rows, their commit, and completion (O57). -/

namespace Sys2Proof.Machine

open Sys2Proof.Claims

/-! ## Items move (07 R144) -/

theorem arriveAt_x {x : MxItem} (h : x.isX = true) (m : Mx) (r : Nat) : arriveAt m x r = (swapRow m r, { x with row := r }) := if_pos h

/-- The registers of a row exchanged, column by column. -/
theorem swapRow_spec (m : Mx) (r k : Nat) : tabGet 0 (swapRow m r).active k = (if k / 16 = r then tabGet 0 m.loading k else tabGet 0
    m.active k)
    ∧ tabGet 0 (swapRow m r).loading k = if k / 16 = r then tabGet 0 m.active k else tabGet 0 m.loading k :=
  ⟨tabGet_copyRow m.active m.loading r k, tabGet_copyRow m.loading m.active r k⟩

/-- An A row meets the weights of the active tile in the row where it arrives, and the tag in the first. -/
theorem arriveAt_row {x : MxItem} (h : x.isX = false) (m : Mx) (r : Nat) : ∃ met, (∀ k, tabGet 0 met k =
    if k / 16 = r then tabGet 0 m.active k else tabGet 0 x.met k)
    ∧ arriveAt m x r = (m, { x with row := r, met := met, tag := if r = 0 then some (tabGet Tag.zero m.activeTag 0) else x.tag }) :=
  ⟨_, tabGet_copyRow x.met m.active r, if_neg (by simp [h])⟩

section
variable {s : State} {x : MxItem}

theorem arrayHeld_eq_false (hrun : s.me.mx.halted = false)
    (hgraph : ∀ y ∈ s.me.mx.items, y.fromGraph = true → y.isX = false → ∀ g, busGraph s = some g → g.state ≠ 2#2) :
        arrayHeld s = false := by
  unfold arrayHeld
  rw [hrun, Bool.false_or, Bool.and_eq_false_iff]
  by_cases hany : s.me.mx.items.any (fun x => x.fromGraph && !x.isX) = true
  · right
    obtain ⟨y, hy, hrow⟩ := List.any_eq_true.mp hany
    simp only [Bool.and_eq_true, Bool.not_eq_true'] at hrow
    cases hbus : busGraph s with
    | none => rfl
    | some g => exact beq_eq_false_iff_ne.mpr (hgraph y hy hrow.1 hrow.2 g hbus)
  · exact .inl (Bool.not_eq_true _ ▸ hany)

/-- The one item in the array moves on. -/
theorem advance_item (hheld : arrayHeld s = false) (hclaim : (geoOf s.me).claim ≠ 0) (hactive : isActive s s.me.id = true)
    (hitems : s.me.mx.items = [x]) (hrow : x.row < (geoOf s.me).rows) :
    exec .arrayRowAdvance s = .next (moveItem s (geoOf s.me).rows 0 x) := by
  have hmove : movable (geoOf s.me).rows [x] x = true := by simp [movable, hrow]
  show Host.Outcome.next (advanceArray s) = _
  unfold advanceArray
  simp only [hheld, hclaim, hactive, hitems, List.zipIdx_cons, List.zipIdx_nil, List.find?_cons, hmove, Bool.or_self, Bool.not_true,
    decide_false, Bool.false_eq_true, if_false]

/-- An A row passes to the next array row. -/
theorem moveItem_row {n : Nat} (hitems : s.me.mx.items = [x]) (hx : x.isX = false) (hrow : x.row + 1 < n) :
    ∃ met, (∀ k, tabGet 0 met k = if k / 16 = x.row + 1 then tabGet 0 s.me.mx.active k else tabGet 0 x.met k)
      ∧ moveItem s n 0 x = { s with me.mx.items := [{ x with row := x.row + 1, met := met }] } := by
  obtain ⟨met, hmet, harrive⟩ := arriveAt_row hx s.me.mx (x.row + 1)
  refine ⟨met, hmet, ?_⟩
  unfold moveItem
  rw [if_pos hrow]
  simp only [harrive, hitems, List.set_cons_zero, Nat.add_one_ne_zero, if_false]

/-- An X token passes to the next array row and swaps its tiles. -/
theorem moveItem_x {n : Nat} (hitems : s.me.mx.items = [x]) (hx : x.isX = true) (hrow : x.row + 1 < n) :
    moveItem s n 0 x = { s with me.mx := { swapRow s.me.mx (x.row + 1) with items := [{ x with row := x.row + 1 }] } } := by
  have hkeep : (swapRow s.me.mx (x.row + 1)).items = [x] := hitems
  unfold moveItem
  rw [if_pos hrow]
  simp only [arriveAt_x hx, hkeep, List.set_cons_zero]

/-- An A row leaves the last array row for the write port. -/
theorem moveItem_port {n : Nat} (hitems : s.me.mx.items = [x]) (hx : x.isX = false) (hrow : x.row + 1 = n) :
    moveItem s n 0 x = { s with me.mx.items := [{ x with row := n }] } := by
  unfold moveItem
  rw [if_neg (by omega), if_neg (by simp [hx])]
  simp only [hitems, List.set_cons_zero]

/-- An X token leaves the last array row, and its command has done it. -/
theorem moveItem_gone {n : Nat} (hitems : s.me.mx.items = [x]) (hx : x.isX = true) (hrow : x.row + 1 = n) :
    ∃ queue, moveItem s n 0 x = { s with me.mx := { s.me.mx with items := [], queue := queue } }
      ∧ ∀ c q, x.fromGraph = false → s.me.mx.queue = c :: q → c.serial = x.owner → queue = { c with done := c.done + 1 } :: q := by
  unfold moveItem
  rw [if_neg (by omega), if_pos hx]
  cases hgraph : x.fromGraph with
  | true => exact ⟨s.me.mx.queue, by simp only [hitems, if_true, List.eraseIdx_zero, List.tail_cons],
      fun _ _ h => absurd h Bool.noConfusion⟩
  | false =>
    refine ⟨_, by simp only [hitems, Bool.false_eq_true, if_false, List.eraseIdx_zero, List.tail_cons]; rfl, fun c q _ hq hown => ?_⟩
    have hhead := congrArg (fun u : State => u.me.mx.queue) (updCmd_head (s := { s with me.mx.items
        := [] }) hq (fun c => { c with done := c.done + 1 }))
    rw [hq, ownerPlace_head hown]
    rw [← hq]
    exact hhead

/-! ## Items enter (07 R144, R150, R151) -/

variable {c : MxCmd} {q : List MxCmd}

/-- The next item of the command at the head enters an empty array. -/
theorem advance_enters (hheld : arrayHeld s = false) (hclaim : (geoOf s.me).claim ≠ 0) (hactive : isActive s s.me.id = true)
    (hstay : leaving s s.me.id = false) (hitems : s.me.mx.items = []) (hq : s.me.mx.queue = c :: q) (hstart : c.started = true)
    (hflow : flows c = true) (hmore : c.entered < cmdTotal c) : exec .arrayRowAdvance s = .next (enterNext s 0 c) := by
  have hfree : rowFree s.me.mx = true := by simp [rowFree, hitems]
  show Host.Outcome.next (advanceArray s) = _
  unfold advanceArray
  simp only [hheld, hclaim, hactive, hstay, hitems, hq, hflow, hstart, hmore, hfree, List.zipIdx_cons, List.zipIdx_nil,
      List.find?_cons, List.find?_nil,
    Bool.or_self, Bool.and_self, Bool.not_true, decide_false, decide_true, Bool.false_eq_true, if_false, if_true]

/-- An item enters an empty array, and its command counts it. -/
theorem entered_empty (hq : s.me.mx.queue = c :: q) (hitems : s.me.mx.items = []) (x : MxItem) :
    updCmd (enterItem s x) 0 (fun c => { c with entered := c.entered + 1 })
      = { s with me.mx := { (arriveAt s.me.mx x 0).1 with items := [(arriveAt s.me.mx x 0).2], queue := { c with entered
          := c.entered + 1 } :: q } } := by
  have hkeep : (arriveAt s.me.mx x 0).1.queue = c :: q ∧ (arriveAt s.me.mx x 0).1.items = [] := by
    unfold arriveAt
    split
    · exact ⟨hq, hitems⟩
    · exact ⟨hq, hitems⟩
  rw [updCmd_head (s := enterItem s x) (c := c) (q := q) hkeep.1]
  unfold enterItem
  simp only [hkeep.2, List.nil_append]

theorem enterNext_swp (hop : c.op = .swp) : enterNext s 0 c = updCmd (enterItem s (xItem false c.serial)) 0 (fun c => { c with
    entered := c.entered + 1 }) := by
  unfold enterNext
  simp only [hop]

/-- The next row of MXRUN, whose image passes the checks and stands in good words. -/
theorem enterNext_run {z : Bool} (hop : c.op = .run z) (hfits : Fits s.me (rowImage (geoOf s.me) c.a c.c c.entered) (geoOf s.me).image 8)
    (hlost : lostWord s (rowImage (geoOf s.me) c.a c.c c.entered).toNat (geoOf s.me).image = none) : enterNext s 0 c
      = updCmd (enterItem s (rowItem (imageBytesAt s (rowImage (geoOf s.me) c.a c.c c.entered).toNat (geoOf s.me).image) (rangeBase
          c.b + c.entered) z false c.serial)) 0
          (fun c => { c with entered := c.entered + 1 }) := by
  have haddr : rowAddress s (geoOf s.me) c = some (rowImage (geoOf s.me) c.a c.c c.entered) := by
    unfold rowAddress
    simp only [hop]
  unfold Fits at hfits
  unfold enterNext
  simp only [hop, haddr, hfits, hlost, Option.map_none, Option.or_none]

end

/-! ## Rows commit (07 R144, R152) -/

theorem trapColumn_of_flags {g : Geo} {outs : Nat → ColOut} (h : ∀ j, colFlags (outs j) = 0#5) (n : Nat)
    : trapColumn g ((List.range n).map outs) = none := by
  unfold trapColumn
  split
  · rfl
  · refine List.findIdx?_eq_none_iff.mpr fun o ho => ?_
    obtain ⟨j, -, rfl⟩ := List.mem_map.mp ho
    rw [h j]
    decide

section
variable {s : State} {x : MxItem} {rest : List MxItem} (hitems : s.me.mx.items = x :: rest) (hrow : (geoOf s.me).rows ≤ x.row)
    (hx : x.isX = false)
  (hheld : arrayHeld s = false) (hactive : isActive s s.me.id = true)
include hitems hrow hx hheld hactive

/-- The oldest row at the write port writes its columns, where none of them traps. -/
theorem row_commits (htrap : trapColumn (geoOf s.me) ((List.range 16).map (column s.me.mx (geoOf s.me) x)) = none) :
    ∃ u, exec .matrixRowCommit s = .next u ∧ ArrayFrame s u ∧ u.win = s.win ∧ u.me.mx.items = rest
      ∧ u.me.mx.bank = (writeColumns (geoOf s.me) x (column s.me.mx (geoOf s.me) x) s.me.mx 16).bank
      ∧ u.me.mx.held = (writeColumns (geoOf s.me) x (column s.me.mx (geoOf s.me) x) s.me.mx 16).held := by
  refine ⟨commitRow s, rfl, ?_⟩
  unfold commitRow
  simp only [hitems]
  rw [if_neg (by simp [hx, hheld, hactive]; omega)]
  simp only [htrap, foldl_writeColumn]
  split
  · split <;> exact ⟨⟨rfl, rfl, rfl, rfl, rfl, rfl⟩, rfl, rfl, rfl, rfl⟩
  · split <;> exact ⟨⟨rfl, rfl, rfl, rfl, rfl, rfl⟩, rfl, rfl, rfl, rfl⟩

end

end Sys2Proof.Machine
end

section
/-! PROOFS. Drains, completion, and the settlement of O57. -/

namespace Sys2Proof.Machine

open Sys2Proof.Claims

/-! ## Drains and completion (07 R143, R153) -/

/-- A row of window memory written: its bytes, and the lines that it makes good again. -/
theorem winPutRow_eq (s : State) (core : CoreId) (a n v : Nat) :
    ∃ bad lines, winPutRow s core a n v = { winPut s core a n v with winBad := bad, retired := lines } := by
  unfold winPutRow
  generalize winPut s core a n v = u
  generalize linesOf (winKey core a) n = ls
  have hsteps : ∀ t : State, (∃ bad lines, t = { u with winBad := bad, retired := lines }) →
      ∃ bad lines, ls.foldl (fun t l => if winKey core a ≤ 128 * l && 128 * l + 128 ≤ winKey core a + n then winRepair t (128 * l) else t) t
        = { u with winBad := bad, retired := lines } := by
    induction ls with
    | nil => exact fun t ht => ht
    | cons l ls ih =>
      rintro t ⟨bad, lines, rfl⟩
      refine ih _ ?_
      dsimp only
      split
      · exact ⟨_, _, rfl⟩
      · exact ⟨_, _, rfl⟩
  exact hsteps u ⟨u.winBad, u.retired, rfl⟩

/-- The entries of a drained row are lanes of its image (07 R145). -/
theorem drain_bounds (g : Geo) : g.drainRow = 16 * (g.drainRow / 16) ∧ g.drainRow / 2 = 8 * (g.drainRow / 16) ∧ g.entryBound
    = 2 ^ (8 * (g.drainRow / 16)) := by
  unfold Geo.drainRow Geo.entryBound
  cases g.wide <;> decide

theorem drained_entry (mem : List Host.Cell) (m : Mx) (g : Geo) (row dst : Nat) {j : Nat} (hj : j < 16) :
    memNat (memPut mem dst g.drainRow (joinLanes (g.drainRow / 2) ((List.range 16).map (accOf m g row)))) (dst + j *
        (g.drainRow / 16)) (g.drainRow / 16)
      = accOf m g row j := by
  obtain ⟨hrow, hhalf, hbound⟩ := drain_bounds g
  have hpart : j * (g.drainRow / 16) + g.drainRow / 16 ≤ g.drainRow := by
    rw [← Nat.succ_mul, hrow, Nat.mul_div_cancel_left _ (by decide)]
    exact Nat.mul_le_mul_right _ hj
  have hpow : ∀ k, 256 ^ k = 2 ^ (8 * k) := fun k => (pow_mul 2 8 k).symm
  rw [memNat_memPut_part _ _ _ _ _ _ hpart, hhalf, hpow, hpow, ← Nat.mul_assoc, Nat.mul_right_comm,
      joinLanes_lane _ _ _ (by simpa using hj),
    List.getElem_map, List.getElem_range, ← hbound]
  exact Nat.mod_eq_of_lt (accOf_lt m g row j)

section
variable {s : State} {c : MxCmd} {q : List MxCmd} (hq : s.me.mx.queue = c :: q) (hstart : c.started = true) (hrun : s.me.mx.halted = false)
  (hactive : isActive s s.me.id = true)
include hq hstart hrun hactive

/-- A command with nothing left leaves the queue, and its flags reach KFPC (07 R143, 03 R64). -/
theorem command_completes (hdone : cmdTotal c ≤ c.done + c.skipped) : ∃ u, exec .mxCommandComplete s = .next u ∧ ArrayFrame s u ∧
    u.win = s.win
    ∧ u.me.mx = { s.me.mx with queue := q } ∧ u.me.sys.kfpc = s.me.sys.kfpc ||| (c.flags.setWidth 64 <<< 8) := by
  have hcmd : cmdDone c = true := by simp [cmdDone, hstart, hdone]
  refine ⟨completeCommand s, rfl, ?_⟩
  unfold completeCommand
  simp only [hq, hrun, hactive, hcmd, List.find?_cons, Bool.not_true, Bool.or_self, Bool.false_eq_true, if_false, List.erase_cons_head]
  exact ⟨⟨rfl, rfl, rfl, rfl, rfl, rfl⟩, rfl, rfl, rfl⟩

/-- A drain writes its next row to window memory (07 R153). -/
theorem command_drains {clr : Bool} (hop : c.op = .acc false clr) (hmore : c.done + c.skipped < rangeCount c.b) (hothers : ∀ x ∈ q,
    cmdDone x = false)
    (hstay : leaving s s.me.id = false) {j : Nat} (hj : j < 16) :
    let g := geoOf s.me
    let row := rangeBase c.b + c.done
    let dst := winKey s.me.id.core ((c.a.toNat + c.done * g.drainRow) % 2 ^ 20)
    ∃ u, exec .mxCommandComplete s = .next u ∧ ArrayFrame s u ∧ u.me.mx.queue = { c with done := c.done + 1 } :: q
      ∧ memNat u.win (dst + j * (g.drainRow / 16)) (g.drainRow / 16) = accOf s.me.mx g row j
      ∧ (∀ b, ¬ (dst ≤ b ∧ b < dst + g.drainRow) → memByte u.win b = memByte s.win b)
      ∧ accOf u.me.mx g row j = (if clr = true then 0 else accOf s.me.mx g row j) ∧ (∀ y, y ≠ row → accOf u.me.mx g y j
          = accOf s.me.mx g y j) := by
  intro g row dst
  have hnone : (c :: q).find? cmdDone = none := by
    have htotal : cmdTotal c = rangeCount c.b := by simp only [cmdTotal, hop]
    have hcmd : cmdDone c = false := by simp [cmdDone, htotal, hmore]
    exact List.find?_eq_none.mpr (List.forall_mem_cons.mpr ⟨by simp [hcmd], fun x hx => by simp [hothers x hx]⟩)
  obtain ⟨bad, lines, hput⟩ := winPutRow_eq s s.me.id.core ((c.a.toNat + c.done * g.drainRow) % 2 ^ 20) g.drainRow
    (joinLanes (g.drainRow / 2) ((List.range 16).map (accOf s.me.mx g row)))
  obtain ⟨mx, hmx⟩ : ∃ mx, mx = if clr = true then clearRow g s.me.mx row else s.me.mx := ⟨_, rfl⟩
  have hqueue : mx.queue = c :: q := by
    rw [hmx]
    split
    · exact (congrArg Mx.queue (clearRow_frame g s.me.mx row) :).trans hq
    · exact hq
  have hread : ∀ y, accOf mx g y j = if y = row ∧ clr = true then 0 else accOf s.me.mx g y j := by
    intro y
    rw [hmx]
    cases clr with
    | false => simp
    | true => simp [accOf_clearRow g s.me.mx row y hj]
  have hdrain : drainRow s g c false clr = some { winPut s s.me.id.core ((c.a.toNat + c.done * g.drainRow) % 2 ^ 20) g.drainRow
      (joinLanes (g.drainRow / 2) ((List.range 16).map (accOf s.me.mx g row))) with winBad := bad, retired := lines, me.mx := mx } := by
    rw [hmx]
    unfold drainRow
    simp only [Bool.false_eq_true, if_false, Option.map_some]
    rw [show winPutRow s s.me.id.core _ _ _ = _ from hput]
    cases clr with
    | false => rfl
    | true => rfl
  have hexec : completeCommand s = updCmd { winPut s s.me.id.core ((c.a.toNat + c.done * g.drainRow) % 2 ^ 20) g.drainRow
      (joinLanes (g.drainRow / 2) ((List.range 16).map (accOf s.me.mx g row))) with winBad := bad, retired := lines, me.mx := mx } 0
        (fun c => { c with done := c.done + 1 }) := by
    unfold completeCommand
    simp only [hq, hrun, hactive, hnone, hstart, hstay, hop, Bool.not_true, Bool.or_self, Bool.false_eq_true, if_false]
    simp only [show drainRow s (geoOf s.me) c false clr = _ from hdrain]
  rw [updCmd_head hqueue] at hexec
  refine ⟨_, congrArg Host.Outcome.next hexec, ⟨rfl, rfl, rfl, rfl, rfl, rfl⟩, rfl, drained_entry s.win s.me.mx g row dst hj,
    fun b hb => memByte_memPut_outside _ _ _ _ _ hb, ?_, fun y hy => ?_⟩
  · exact (hread row).trans (if_congr (and_iff_right rfl) rfl rfl)
  · exact (hread y).trans (if_neg fun h => hy h.1)

end

/-! ## A row that leaves the array, by its arithmetic (03 R69 to R73) -/

section
variable {s : State} {x : MxItem} {rest : List MxItem} (hitems : s.me.mx.items = x :: rest) (hrow : (geoOf s.me).rows ≤ x.row)
    (hx : x.isX = false)
  (hheld : arrayHeld s = false) (hactive : isActive s s.me.id = true) {j : Nat} (hj : j < 16)
include hitems hrow hx hheld hactive hj

/-- A row of entries that raise no trap: the entries of its columns, and every other row as before. -/
theorem row_commits_entries {r : Nat → FRes} (hentry : ∀ i, column s.me.mx (geoOf s.me) x i = .entry (r i))
    (htrap : trapColumn (geoOf s.me) ((List.range 16).map (column s.me.mx (geoOf s.me) x)) = none)
        (hbound : (r j).bits < (geoOf s.me).entryBound) :
    ∃ u, exec .matrixRowCommit s = .next u ∧ ArrayFrame s u ∧ u.win = s.win ∧ u.me.mx.items = rest
      ∧ accOf u.me.mx (geoOf s.me) x.pos j = (r j).bits ∧ (∀ y, y ≠ x.pos → accOf u.me.mx (geoOf s.me) y j
          = accOf s.me.mx (geoOf s.me) y j) := by
  obtain ⟨u, hexec, hframe, hwin, hrest, hbank, -⟩ := row_commits hitems hrow hx hheld hactive htrap
  have hread : ∀ y, accOf u.me.mx (geoOf s.me) y j = if y = x.pos then (r j).bits % (geoOf s.me).entryBound else accOf s.me.mx
      (geoOf s.me) y j := by
    intro y
    rw [accOf_congr hbank]
    exact accOf_writeColumns hentry s.me.mx y hj
  exact ⟨u, hexec, hframe, hwin, hrest, (hread x.pos).trans ((if_pos rfl).trans (Nat.mod_eq_of_lt hbound)),
      fun y hy => (hread y).trans (if_neg hy)⟩

/-- A first-pass row only holds its sums. -/
theorem row_commits_held (hkind : (geoOf s.me).kind ≠ .float) (hpart : (x.tag.getD Tag.zero).part = 1#2) :
    ∃ u, exec .matrixRowCommit s = .next u ∧ ArrayFrame s u ∧ u.win = s.win ∧ u.me.mx.items = rest ∧ u.me.mx.bank = s.me.mx.bank
      ∧ tabFind u.me.mx.held (mxKey x.pos j) = some ((rowPairs (geoOf s.me) x j).foldl (blockStep (geoOf s.me)) Held.zero) := by
  have hhold := column_hold (m := s.me.mx) (g := geoOf s.me) hkind hpart
  obtain ⟨u, hexec, hframe, hwin, hrest, hbank, hheld'⟩ := row_commits hitems hrow hx hheld hactive
    (trapColumn_of_flags (fun i => by rw [hhold i]; rfl) 16)
  obtain ⟨hkeep, hsum⟩ := held_writeColumns hhold s.me.mx hj
  exact ⟨u, hexec, hframe, hwin, hrest, hbank.trans hkeep, hheld' ▸ hsum⟩

end

/-- Settles O57: each clause is the rule of its event, with the table laws of what it writes. -/
theorem matrixArrayRuns : Obligations.MatrixArrayRuns := by
  unfold Obligations.MatrixArrayRuns
  intro s c x q rest a part j bus clr z g m core hactive hrun hj
  have hempty : m.items = [] → arrayHeld s = false := fun hitems => arrayHeld_eq_false hrun (hitems ▸ List.forall_mem_nil _)
  refine ⟨fun hq hstart hitems htoks hbus hstay hlost => ?starts, fun hclaim hitems hgraph => ?moves,
    fun hclaim hitems hq hstart hstay => ⟨fun hop hmore hfits hlost ha => ?run, fun hop hentered => ?swp⟩,
    fun hitems hrow hx hgraph => ?commits, fun hq hstart => ⟨command_completes hq hstart hrun hactive, fun hop hmore hothers hstay =>
      command_drains hq hstart hrun hactive hop hmore hothers hstay hj⟩⟩
  case starts =>
    have hexec := startCommand_head hq hstart hitems htoks hbus hactive hstay hrun hlost
    obtain ⟨hword, hw, hsize⟩ := geo_word_bounds s.me
    refine ⟨fun hop => ?lw, fun v hop => ?zero, fun hop => ?others, fun hop hwide => ?sort⟩
    case lw =>
      rw [beginCmd_lw s hop] at hexec
      exact ⟨_, hexec, ⟨rfl, rfl, rfl, rfl, rfl, rfl⟩, rfl, rfl, rfl, rfl,
        fun k hk => weightAt_loadTile s g c.a.toNat ⟨part, c.b.setWidth 32⟩ hword hw hk hj,
        fun y hy => loadingTag_loadTile s g c.a.toNat ⟨part, c.b.setWidth 32⟩ hy⟩
    case zero =>
      obtain ⟨hclear, hbank, hloading, hact⟩ := zeroParts_spec m g v (rangeBase c.b) (rangeCount c.b) hj
      rw [beginCmd_zero s hop] at hexec
      exact ⟨_, hexec, ⟨rfl, rfl, rfl, rfl, rfl, rfl⟩, rfl, rfl, hclear, hbank, hloading, hact⟩
    case others =>
      rw [beginCmd_other s hop] at hexec
      exact ⟨_, hexec, rfl, ⟨rfl, rfl, rfl, rfl, rfl, rfl⟩, rfl⟩
    case sort =>
      obtain ⟨hlen, hkeys⟩ := sortOut_spec s g c (hsize hwide)
      rw [beginCmd_sort s hop] at hexec
      exact ⟨_, _, hexec, ⟨rfl, rfl, rfl, rfl, rfl, rfl⟩, rfl, rfl, hlen, hkeys⟩
  case moves =>
    have hexec := advance_item (arrayHeld_eq_false hrun (hitems ▸ List.forall_mem_singleton.mpr hgraph)) hclaim hactive hitems
    refine ⟨fun hx hrow => ?row, fun hx hrow => ?token, fun hx hrow => ?gone, fun hx hrow => ?port⟩
    case row =>
      obtain ⟨met, hmet, hmove⟩ := moveItem_row hitems hx hrow
      exact ⟨_, _, (hexec (Nat.lt_of_succ_lt hrow)).trans (congrArg Host.Outcome.next hmove), ⟨rfl, rfl, rfl, rfl, rfl, rfl⟩, rfl,
          rfl, rfl, rfl,
        fun k hk => (hmet k).trans (if_pos hk), fun k hk => (hmet k).trans (if_neg hk)⟩
    case token =>
      exact ⟨_, (hexec (Nat.lt_of_succ_lt hrow)).trans (congrArg Host.Outcome.next (moveItem_x hitems hx hrow)), ⟨rfl, rfl, rfl,
          rfl, rfl, rfl⟩,
        rfl, rfl, rfl, rfl, fun k => (swapRow_spec m (x.row + 1) k).1, fun k => (swapRow_spec m (x.row + 1) k).2⟩
    case gone =>
      obtain ⟨queue, hmove, hdone⟩ := moveItem_gone hitems hx hrow
      exact ⟨_, (hexec (Nat.lt_of_succ_le hrow.le)).trans (congrArg Host.Outcome.next hmove), ⟨rfl, rfl, rfl, rfl, rfl, rfl⟩, rfl,
          rfl, rfl, rfl, rfl,
        hdone c q⟩
    case port =>
      exact ⟨_, (hexec (Nat.lt_of_succ_le hrow.le)).trans (congrArg Host.Outcome.next (moveItem_port hitems hx hrow)),
        ⟨rfl, rfl, rfl, rfl, rfl, rfl⟩, rfl, rfl⟩
  case run =>
    subst ha
    have hflow : flows c = true := by simp only [flows, hop]
    have htotal : cmdTotal c = rangeCount c.b := by simp only [cmdTotal, hop]
    have hexec := advance_enters (hempty hitems) hclaim hactive hstay hitems hq hstart hflow (htotal ▸ hmore)
    obtain ⟨met, hmet, harrive⟩ := arriveAt_row (x := rowItem (imageBytesAt s (rowImage g c.a c.c c.entered).toNat g.image)
        (rangeBase c.b + c.entered) z false c.serial)
      rfl m 0
    rw [enterNext_run hop hfits hlost, entered_empty hq hitems, harrive] at hexec
    exact ⟨_, _, hexec, ⟨rfl, rfl, rfl, rfl, rfl, rfl⟩, rfl, rfl, rfl, rfl, rfl, rfl, rfl, rfl, rfl, rfl,
      fun k hk => (hmet k).trans (if_pos (by omega))⟩
  case swp =>
    have hflow : flows c = true := by simp only [flows, hop]
    have htotal : cmdTotal c = 1 := by simp only [cmdTotal, hop]
    have hexec := advance_enters (hempty hitems) hclaim hactive hstay hitems hq hstart hflow (by omega)
    rw [enterNext_swp hop, entered_empty hq hitems, arriveAt_x rfl, hentered] at hexec
    have hswap := fun k (hk : k < 16) => swapRow_spec m 0 k
    exact ⟨_, _, hexec, ⟨rfl, rfl, rfl, rfl, rfl, rfl⟩, rfl, rfl, rfl, rfl, rfl, rfl,
      fun k hk => ⟨(hswap k hk).1.trans (if_pos (by omega)), (hswap k hk).2.trans (if_pos (by omega))⟩⟩
  case commits =>
    have hplain : ∀ y ∈ m.items, y.fromGraph = true → y.isX = false → ∀ g', busGraph s = some g' → g'.state ≠ 2#2 := by
      intro y hy hfrom hrowItem
      have hnot := List.any_eq_false.mp hgraph y hy
      simp [hfrom, hrowItem] at hnot
    have hfree := arrayHeld_eq_false hrun hplain
    intro at_ tag products pairs good old
    refine ⟨fun hkind hgood hpart => ?int, fun hkind hgood hpart => ?held, fun hkind hgood hpart htrap => ?fp8, fun hkind htrap => ?float⟩
    case int =>
      obtain ⟨-, -, -, hbound⟩ := size_of_bytes (g := geoOf s.me) (by rw [hkind]; decide)
      have hcolumn := column_int (m := m) (g := geoOf s.me) hkind (geoOf_int hgood hkind) hpart
      obtain ⟨hlt, hval⟩ := s32_intNarrow g.sat (s32 old
        + (if tag.part = 2#2 then ((tabFind m.held (mxKey x.pos j)).getD Held.zero).num else 0) + products)
      obtain ⟨u, hexec, hframe, hwin, hrest, hentry, hothers⟩ := row_commits_entries hitems hrow hx hfree hactive hj hcolumn
        (trapColumn_of_flags (fun i => by rw [hcolumn i]; rfl) 16) (hbound ▸ hlt)
      exact ⟨u, hexec, hframe, hwin, hrest, by rw [hentry]; exact hval.trans (if_congr decide_eq_true_iff rfl rfl), hothers⟩
    case held =>
      obtain ⟨u, hexec, hframe, hwin, hrest, hbank, hheld⟩ := row_commits_held hitems hrow hx hfree hactive hj hkind hpart
      exact ⟨u, _, hexec, hframe, hwin, hrest, hbank, hheld, fun hint => sum_rowPairs_int hint (geoOf_int hgood hint) j,
        fun hfp8 hfin => num_block hfp8 (geoOf_fp8 hgood hfp8) j hfin⟩
    case fp8 =>
      obtain ⟨-, -, -, hbound⟩ := size_of_bytes (g := geoOf s.me) (by rw [hkind]; decide)
      obtain ⟨hlt, hval⟩ := promote_fp8 hkind ((rowPairs g x j).foldl (blockStep g) Held.zero) (bytesAt x.image 0 4) tag.sb.toNat old
      obtain ⟨u, hexec, hframe, hwin, hrest, hentry, hothers⟩ := row_commits_entries hitems hrow hx hfree hactive hj
        (column_fp8 (m := m) (g := geoOf s.me) hkind hpart) htrap (hbound ▸ hlt)
      refine ⟨u, _, hexec, hframe, hwin, hrest, hothers, contributes_column hkind (geoOf_fp8 hgood hkind) j _ _, ?_⟩
      rw [hentry]
      refine hval.trans ?_
      cases contribution ((rowPairs g x j).foldl (blockStep g) Held.zero) (flOf (fmtOf 1) (bytesAt x.image 0 4)) (flOf (fmtOf 1)
          tag.sb.toNat) with
      | none => rfl
      | some v => rfl
    case float =>
      choose r hentries hlt hval using column_float (m := m) (g := geoOf s.me) (x := x) hkind
      obtain ⟨u, hexec, hframe, hwin, hrest, hentry, hothers⟩ := row_commits_entries hitems hrow hx hfree hactive hj hentries htrap (hlt j)
      refine ⟨u, hexec, hframe, hwin, hrest, hothers, ?_⟩
      rw [hentry, hval j]
      simp only [chainStep, plusZero_bits]
      rfl

end Sys2Proof.Machine
end

section
/-! PROOFS. The canonical form of the memories as a property of what a function answers (O36): a state, a result of an instruction, an outcome, the
result of an engine access, the act of an element. Each combinator of the model keeps the property where what follows it does. -/

namespace Sys2Proof.Machine

open Sys2Proof.Safety

/-! ## What a function answers -/

/-- A function on states that keeps the canonical form. -/
def Keeps (f : State → State) : Prop := ∀ s, memoriesCanonical s = true → memoriesCanonical (f s) = true

/-- The state that a result leaves has canonical memories, and so has the one in which a walk has left a fault. -/
def ResultCanonical (r : Except Trap State) : Prop :=
  match r with
  | .ok t => memoriesCanonical t = true
  | .error f => ∀ b, f.base = some b → memoriesCanonical b = true

/-- The next state of an outcome, where there is one, has canonical memories. -/
def OutcomeCanonical (r : Host.Outcome State Fault Refusal) : Prop :=
  match r with
  | .next t => memoriesCanonical t = true
  | .fault _ | .refused _ => True

/-- An engine access leaves canonical memories in the state that `f` finds in its answer, and what it does before a wait keeps them. -/
def StopCanonical {α : Type} (f : α → State) (r : Except Stop α) : Prop :=
  match r with
  | .ok a => memoriesCanonical (f a) = true
  | .error (.hold g) => Keeps g
  | .error (.fault _) => True

/-- An element fires into a state with canonical memories, and what it does before a wait keeps them. -/
def ActCanonical (a : Act) : Prop :=
  match a with
  | .fire t _ => memoriesCanonical t = true
  | .hold g => Keeps g
  | .wait | .stop .. => True

/-- An access leaves canonical memories, whether it ends in an address, in a fault or in a wait. -/
def AccCanonical (a : Acc) : Prop :=
  match a with
  | .ok t _ => memoriesCanonical t = true
  | .trap f => ResultCanonical (.error f)
  | .stall t => memoriesCanonical t = true

/-- A move of a unit that keeps the canonical form. -/
def MoveKeeps (m : UnitMove) : Prop := ∀ s, memoriesCanonical s = true → OutcomeCanonical (m s)

theorem Keeps.id : Keeps id := fun _ h => h

/-! ## States -/

/-- A state with the memories of another one. -/
theorem canonical_frame {s t : State} (h : memoriesCanonical s = true) (hsame : (t.mem, t.win) = (s.mem, s.win)) :
    memoriesCanonical t = true := canonical_of_same h (congrArg Prod.fst hsame) (congrArg Prod.snd hsame)

/-- Another context in focus, whatever it is. -/
theorem canonical_me {s : State} (h : memoriesCanonical s = true) (c : Ctx) : memoriesCanonical { s with me := c } = true := canonical_frame h (by rfl)

theorem canonical_countEvent {s : State} (h : memoriesCanonical s = true) (ev : BitVec 8) (n : Nat) : memoriesCanonical (countEvent s ev n) = true :=
  canonical_frame h (by rfl)

theorem canonical_ite {p : Prop} [Decidable p] {a b : State} (ha : memoriesCanonical a = true) (hb : memoriesCanonical b = true) :
    memoriesCanonical (if p then a else b) = true := by split <;> assumption

/-- A fold over what keeps the form. -/
theorem canonical_foldl_keeps {β : Type} {f : State → β → State} (hf : ∀ b, Keeps (f · b)) {s : State} (h : memoriesCanonical s = true) (l : List β) :
    memoriesCanonical (l.foldl f s) = true := canonical_foldl f (fun s b => hf b s) l h

/-! ## Results -/

section
variable {s : State}

/-- A fault that no walk led to leaves nothing behind. -/
theorem result_trap (t : Trap) (h : t.base = none) : ResultCanonical (.error t) := fun b hb => by rw [h] at hb; cases hb

theorem result_ite {p : Prop} [Decidable p] {a b : Except Trap State} (ha : ResultCanonical a) (hb : ResultCanonical b) :
    ResultCanonical (if p then a else b) := by split <;> assumption

theorem outcome_finish (h : memoriesCanonical s = true) {r : Except Trap State} (hr : ResultCanonical r) : OutcomeCanonical (finish s r) := by
  cases r with
  | ok t => exact hr
  | error t =>
    refine canonical_takeTrap ?_ t
    cases hb : t.base with
    | none => exact h
    | some b => exact hr b hb

theorem outcome_ite {p : Prop} [Decidable p] {a b : Host.Outcome State Fault Refusal} (ha : OutcomeCanonical a) (hb : OutcomeCanonical b) :
    OutcomeCanonical (if p then a else b) := by split <;> assumption

theorem result_needPriv {level : BitVec 2} {w : Word} {k : Except Trap State} (hk : ResultCanonical k) :
    ResultCanonical (needPriv s level w k) := result_ite hk (result_trap _ (by rfl))

theorem result_checkTarget {t : Word} {k : Except Trap State} (hk : ResultCanonical k) : ResultCanonical (checkTarget t k) :=
  result_ite (result_trap _ (by rfl)) (result_ite (result_trap _ (by rfl)) hk)

theorem result_codeOk {ok : Bool} {i : Instr} {k : Except Trap State} (hk : ResultCanonical k) : ResultCanonical (codeOk ok i k) :=
  result_ite hk (result_trap _ (by rfl))

theorem result_configFault (v : Word) : ResultCanonical (configFault v) := result_trap _ (by rfl)

theorem result_unlessFull (h : memoriesCanonical s = true) {n : Nat} {k : Except Trap State} (hk : ResultCanonical k) :
    ResultCanonical (unlessFull n s k) := result_ite (canonical_frame h (by rfl)) hk

theorem result_toSystem (h : memoriesCanonical s = true) {u : Nat} {k : Except Trap State} (hk : ResultCanonical k) :
    ResultCanonical (toSystem s u k) := result_ite hk (canonical_contain h _)

theorem result_withCounter (h : memoriesCanonical s = true) {a : Reg} {k : Nat → Except Trap State} (hk : ∀ i, ResultCanonical (k i)) :
    ResultCanonical (withCounter s a k) := result_ite (result_configFault _) (result_ite (canonical_frame h (by rfl)) (hk _))

theorem result_withBarrier (h : memoriesCanonical s = true) {a : Reg} {k : BitVec 6 → Except Trap State} (hk : ∀ i, ResultCanonical (k i)) :
    ResultCanonical (withBarrier s a k) := result_ite (result_configFault _) (result_ite (canonical_frame h (by rfl)) (hk _))

theorem result_withChannel {a : Reg} {k : BitVec 6 → Except Trap State} (hk : ∀ i, ResultCanonical (k i)) :
    ResultCanonical (withChannel s a k) := result_ite (result_configFault _) (hk _)

theorem result_withSlot {a : Reg} {k : BitVec 5 → Except Trap State} (hk : ∀ i, ResultCanonical (k i)) :
    ResultCanonical (withSlot s a k) := result_ite (result_configFault _) (hk _)

theorem result_withEngine {a : Reg} {k : Word → Except Trap State} (hk : ∀ i, ResultCanonical (k i)) :
    ResultCanonical (withEngine s a k) := result_ite (result_configFault _) (hk _)

theorem result_withPart {v : Word} {k : BitVec 6 → Except Trap State} (hk : ∀ i, ResultCanonical (k i)) :
    ResultCanonical (withPart v k) := result_ite (result_configFault _) (hk _)

theorem result_recAddress {v : Word} {k : Except Trap State} (hk : ResultCanonical k) : ResultCanonical (recAddress v k) :=
  result_ite (result_trap _ (by rfl)) (result_ite (result_trap _ (by rfl)) hk)

theorem result_withGraph {a : Reg} {m : Except Trap State} {k : BitVec 4 → Except Trap State} (hm : ResultCanonical m)
    (hk : ∀ g, ResultCanonical (k g)) : ResultCanonical (withGraph s a m k) := result_ite (result_configFault _) (result_ite hm (hk _))

theorem result_atAddress {va : Word} {r : Except Trap State} (hr : ResultCanonical r) : ResultCanonical (atAddress va r) := by
  cases r with
  | ok t => exact hr
  | error t => exact hr

/-! ## Waits for a home (08 R176, R177) -/

theorem result_pinStall (h : memoriesCanonical s = true) (va : Word) (n : Nat) (hopeless : Bool) : ResultCanonical (pinStall s va n hopeless) :=
  result_ite (result_trap _ (by rfl)) (canonical_frame h (by rfl))

theorem result_guardHome (h : memoriesCanonical s = true) {va : Option Word} {rs : List HomeReq} {k : Except Trap State} (hk : ResultCanonical k) :
    ResultCanonical (guardHome s va rs k) := by
  unfold guardHome
  split
  · exact hk
  · exact result_trap _ (by rfl)
  · exact canonical_frame h (by rfl)
  · exact result_pinStall h _ _ _

theorem result_guardBack (h : memoriesCanonical s = true) {ls : List Line} {k : Except Trap State} (hk : ResultCanonical k) :
    ResultCanonical (guardBack s ls k) := result_guardHome h hk

theorem result_guardLine (h : memoriesCanonical s = true) {va : Word} {n : Nat} {ro : Bool} {k : Except Trap State} (hk : ResultCanonical k) :
    ResultCanonical (guardLine s va n ro k) := result_guardHome h hk

theorem result_regionEnd (h : memoriesCanonical s = true) {release : Bool} {k : Except Trap State} (hk : ResultCanonical k) :
    ResultCanonical (regionEnd s release k) := by
  unfold regionEnd
  split
  · rintro _ ⟨⟩
    exact canonical_frame h (by rfl)
  · exact result_ite (result_guardBack h hk) hk

theorem result_atomEnd (h : memoriesCanonical s = true) {order scope : BitVec 2} {k : Except Trap State} (hk : ResultCanonical k) :
    ResultCanonical (atomEnd s order scope k) := result_ite hk (result_regionEnd h hk)

/-! ## Accesses (08 R181, 09 R187) -/

theorem base_monitorXlat {va : Word} {f : Trap} (hf : monitorXlat s va = .trap f) : f.base = none := by
  unfold monitorXlat at hf
  split_ifs at hf
  cases hf; rfl

theorem base_hitXlat {c : Ctx} {e : TlbEntry} {pr : BitVec 2} {va : Word} {n : Need} {f : Trap} (hf : hitXlat c e pr va n = .trap f) :
    f.base = none := by
  unfold hitXlat at hf
  split_ifs at hf <;> cases hf <;> rfl

/-- The state in which a walk leaves its fault is the one that the translation answers. -/
theorem base_xlate {pr : BitVec 2} {va : Word} {n : Need} {f : Trap} {b : State} (hf : (xlate s pr va n).2 = .trap f) (hb : f.base = some b) :
    (xlate s pr va n).1 = b := by
  unfold xlate at hf ⊢
  split at hf
  · rw [base_monitorXlat hf] at hb; cases hb
  · split at hf
    · rw [base_hitXlat hf] at hb; cases hb
    · dsimp only at hf ⊢
      split at hf
      · cases hf
      · split at hf
        · cases hf
        · cases hf; cases hb; rw [if_neg ‹_›, if_neg ‹_›]
        · simp_all

theorem acc_translate (h : memoriesCanonical s = true) (pr : BitVec 2) (va : Word) (n : Need) : AccCanonical (translate s pr va n) := by
  have hx := canonical_xlate h pr va n
  unfold translate
  split
  case h_1 e => rw [e] at hx; exact hx
  case h_2 e =>
    rw [e] at hx
    intro b hb
    have hbase := base_xlate (congrArg Prod.snd e) hb
    rw [e] at hbase
    exact hbase ▸ hx
  case h_3 => exact canonical_wantPull h _ _
  case h_4 => exact h

theorem acc_access (h : memoriesCanonical s = true) (pr : BitVec 2) (va : Word) (size : Nat) (n : Need) : AccCanonical (access s pr va size n) := by
  unfold access
  split_ifs
  · exact result_trap _ (by rfl)
  · exact result_trap _ (by rfl)
  · exact acc_translate h pr va n

theorem result_afterWalk (h : memoriesCanonical s = true) {r : Except Trap State} (hr : ResultCanonical r) : ResultCanonical (afterWalk s r) := by
  cases r with
  | ok u => exact hr
  | error f =>
    rintro _ ⟨⟩
    cases hb : f.base with
    | none => exact h
    | some b => exact hr b hb

theorem result_withAccess (h : memoriesCanonical s = true) {va : Word} {size : Nat} {n : Need} {k : State → Nat → Except Trap State}
    (hk : ∀ t pa, memoriesCanonical t = true → ResultCanonical (k t pa)) : ResultCanonical (withAccess s va size n k) := by
  have ha := acc_access h (priv s) va size n
  unfold withAccess
  split
  case h_1 t pa e =>
    rw [e] at ha
    exact result_ite (result_afterWalk ha (hk t pa ha)) (canonical_contain ha _)
  case h_2 t e => rw [e] at ha; exact ha
  case h_3 t e => rw [e] at ha; exact canonical_frame ha (by rfl)

theorem canonical_register (h : memoriesCanonical s = true) (pa size : Nat) (w p : Bool) : memoriesCanonical (register s pa size w p) = true :=
  canonical_of_same h (register_mem ..) (register_win ..)

theorem result_checkedAccess (h : memoriesCanonical s = true) {va : Word} {pa size : Nat} {w p : Bool} {k : State → Except Trap State}
    (hk : ∀ u, memoriesCanonical u = true → ResultCanonical (k u)) : ResultCanonical (checkedAccess s va pa size w p k) :=
  result_ite (result_pinStall h _ _ _) (result_ite (result_trap _ (by rfl)) (hk _ (canonical_register h pa size w p)))

theorem result_plainAccess (h : memoriesCanonical s = true) {va : Word} {pa size : Nat} {w : Bool} {k : State → Except Trap State}
    (hk : ∀ u, memoriesCanonical u = true → ResultCanonical (k u)) : ResultCanonical (plainAccess s va pa size w k) :=
  result_checkedAccess h fun u hu => result_guardLine h (result_ite (result_trap _ (by rfl)) (hk u hu))

/-- What the check of a window access finds is a fault that no walk led to. -/
theorem base_winCheck {c : Ctx} {a size : Nat} {tags : List (BitVec 3)} {t : Trap} (ht : winCheck c a size tags = some t) : t.base = none := by
  unfold winCheck at ht
  split at ht
  · cases ht; rfl
  · split_ifs at ht <;> cases ht <;> rfl

theorem result_winAccess {va : Word} {size : Nat} {tags : List (BitVec 3)} {k : Nat → Except Trap State} (hk : ∀ a, ResultCanonical (k a)) :
    ResultCanonical (winAccess s va size tags k) := by
  refine result_ite (result_trap _ (by rfl)) (result_ite (result_trap _ (by rfl)) ?_)
  split
  case h_1 e => exact result_trap _ (base_winCheck e)
  case h_2 => exact hk _

theorem result_plainWord (h : memoriesCanonical s = true) {va : Word} {k : State → Word → Except Trap State}
    (hk : ∀ u w, memoriesCanonical u = true → ResultCanonical (k u w)) : ResultCanonical (plainWord s va k) :=
  result_withAccess h fun _ _ ht => result_plainAccess ht fun _ hu => hk _ _ (canonical_l1Read hu _ _ _)

end

/-! ## Engine accesses -/

section
variable {α β : Type} {f : α → State}

theorem StopCanonical.hold {r : Except Stop α} (hr : StopCanonical f r) {g : State → State} (e : r = .error (.hold g)) : Keeps g := by
  subst e; exact hr

theorem StopCanonical.ok {r : Except Stop α} (hr : StopCanonical f r) {a : α} (e : r = .ok a) : memoriesCanonical (f a) = true := by
  subst e; exact hr

theorem stop_ite {p : Prop} [Decidable p] {a b : Except Stop α} (ha : StopCanonical f a) (hb : StopCanonical f b) :
    StopCanonical f (if p then a else b) := by split <;> assumption

/-- One access after another: the second starts in the state that the first leaves. -/
theorem stop_bind {g : β → State} {r : Except Stop α} {k : α → Except Stop β} (hr : StopCanonical f r)
    (hk : ∀ a, memoriesCanonical (f a) = true → StopCanonical g (k a)) : StopCanonical g (r >>= k) :=
  match r, hr with
  | .ok a, hr => hk a hr
  | .error (.hold _), hr => hr
  | .error (.fault _), _ => trivial

end

/-! ## The acts of elements -/

theorem act_ite {p : Prop} [Decidable p] {a b : Act} (ha : ActCanonical a) (hb : ActCanonical b) : ActCanonical (if p then a else b) := by
  split <;> assumption

end Sys2Proof.Machine
end

section
/-! PROOFS. The operations on the state keep the memories in canonical form (O36), in the order in which the model defines them. -/

namespace Sys2Proof.Machine

open Sys2Proof.Safety

section
variable {s : State}

/-! ## Registers, entries and traps -/

theorem canonical_writeG (h : memoriesCanonical s = true) (r : Reg) (v : Word) : memoriesCanonical (writeG s r v) = true :=
  canonical_ite h (canonical_frame h (by rfl))

theorem canonical_writeC (h : memoriesCanonical s = true) (r : CReg) (v : Bool) : memoriesCanonical (writeC s r v) = true :=
  canonical_ite h (canonical_frame h (by rfl))

/-- A result written to a register, and on to the next instruction. -/
theorem canonical_answerG (h : memoriesCanonical s = true) (d : Reg) (v : Word) : memoriesCanonical (nextPc (writeG s d v)) = true :=
  canonical_frame (canonical_writeG h d v) (by rfl)

theorem canonical_countWork (h : memoriesCanonical s = true) : memoriesCanonical (countWork s) = true := canonical_ite (canonical_frame h (by rfl)) h

theorem canonical_counted (h : memoriesCanonical s = true) (t : Trap) : memoriesCanonical (counted s t) = true := by
  unfold counted
  split
  · exact h
  · exact canonical_frame h (by rfl)

theorem canonical_blockOn (h : memoriesCanonical s = true) (w : WaitFor) : memoriesCanonical (blockOn s w) = true :=
  canonical_of_same h (blockOn_mem ..) (blockOn_win ..)

theorem result_eretOp (h : memoriesCanonical s = true) : ResultCanonical (eretOp s) :=
  result_ite (result_checkTarget (canonical_frame h (by rfl))) (result_ite (result_trap _ (by rfl)) (result_checkTarget (canonical_frame h (by rfl))))

theorem canonical_haltModule (h : memoriesCanonical s = true) (code : Byte) : memoriesCanonical (haltModule s code) = true := canonical_frame h (by rfl)

/-! ## Window memory and engine accesses (08 R162, R187, 09 R204) -/

theorem canonical_winPutRow (h : memoriesCanonical s = true) (c : CoreId) (a n v : Nat) : memoriesCanonical (winPutRow s c a n v) = true :=
  canonical_foldl_keeps (fun _ _ ht => canonical_ite (canonical_frame ht (by rfl)) ht) (canonical_winPut h c a n v) _

theorem canonical_refuseStage2 (h : memoriesCanonical s = true) (ipa : Nat) : memoriesCanonical (refuseStage2 s ipa) = true :=
  canonical_ite h (canonical_updCtx (canonical_frame h (by rfl)) _ _)

theorem stop_engXlat (h : memoriesCanonical s = true) (pr : BitVec 2) (va : Word) (size : Nat) (n : Need) :
    StopCanonical Prod.fst (engXlat s pr va size n) := by
  have hx := canonical_xlate h pr va n
  refine stop_ite trivial (stop_ite trivial (stop_ite Keeps.id ?_))
  split
  case h_1 e =>
    rw [e] at hx
    exact stop_ite hx (fun _ hu => canonical_contain hu _)
  case h_2 => exact stop_ite (fun _ hu => canonical_refuseStage2 (canonical_counted hu _) _) trivial
  case h_3 => exact fun _ hu => canonical_wantPull hu _ _
  case h_4 => exact Keeps.id

theorem stop_engRead (h : memoriesCanonical s = true) (pr : BitVec 2) (va : Word) (size : Nat) : StopCanonical Prod.fst (engRead s pr va size) :=
  stop_bind (stop_engXlat h pr va size _) fun _ ht => stop_ite trivial (stop_ite Keeps.id (canonical_homeTouch ht _))

theorem stop_engWrite (h : memoriesCanonical s = true) (pr : BitVec 2) (va : Word) (size v : Nat) : StopCanonical id (engWrite s pr va size v) :=
  stop_bind (stop_engXlat h pr va size _) fun _ ht => stop_ite (canonical_homeWrite ht _ _ _) Keeps.id

theorem stop_rangeXlat (h : memoriesCanonical s = true) (pr : BitVec 2) (need : Need) (va : Word) (prev : Option Nat) (n : Nat) :
    StopCanonical Prod.fst (rangeXlat s pr need va prev n) := by
  induction n generalizing s va prev with
  | zero => exact h
  | succ n ih =>
    have hnext : ∀ a : State × Nat, memoriesCanonical a.1 = true →
        StopCanonical Prod.fst (rangeXlat a.1 pr need (va + 1) (some a.2) n >>= fun x => .ok (x.1, a.2 :: x.2)) :=
      fun _ ha => stop_bind (ih ha _ _) fun _ hu => hu
    cases prev with
    | none => exact stop_bind (stop_engXlat h pr va 1 need) hnext
    | some p => exact stop_ite (stop_bind (stop_engXlat h pr va 1 need) hnext) (hnext (s, p + 1) h)

theorem stop_readRange (h : memoriesCanonical s = true) (pr : BitVec 2) (va : Word) (n : Nat) : StopCanonical Prod.fst (readRange s pr va n) := by
  refine stop_bind (stop_rangeXlat h pr needRead va none n) fun _ ht => ?_
  dsimp only
  split
  · trivial
  · exact stop_ite (canonical_foldl_keeps (fun _ _ hu => canonical_homeTouch hu _) ht _) Keeps.id

theorem stop_writeRange (h : memoriesCanonical s = true) (pr : BitVec 2) (va : Word) (bs : List Byte) :
    StopCanonical id (writeRange s pr va bs) := by
  refine stop_bind (stop_rangeXlat h pr needWrite va none bs.length) fun _ ht => stop_ite ?_ Keeps.id
  refine canonical_foldl_keeps (fun _ _ hu => canonical_frame hu (by rfl)) (canonical_homeCommit ?_ _ ?_ _) _
  · exact canonical_foldl_keeps (fun _ _ hu => canonical_frame hu (by rfl)) ht _
  · exact wf_foldl _ (fun _ _ hm => wf_memSet hm _ _) _ ((canonical_iff _).mp ht).1

/-- The check of a window access stops with a fault or goes on. -/
theorem stop_engWin (h : memoriesCanonical s = true) (va : Word) (size : Nat) (tags : List (BitVec 3)) :
    StopCanonical (fun _ => s) (engWin s va size tags) := by
  refine stop_ite trivial (stop_ite trivial ?_)
  split
  · trivial
  · exact h

theorem stop_spaceRead (h : memoriesCanonical s = true) (pr : BitVec 2) (window : Bool) (tags : List (BitVec 3)) (va : Word) (size : Nat) :
    StopCanonical Prod.fst (spaceRead s pr window tags va size) :=
  stop_ite (stop_bind (stop_engWin h va size tags) fun _ _ => stop_ite trivial h) (stop_bind (stop_engRead h pr va size) fun _ ht => ht)

theorem stop_spaceWrite (h : memoriesCanonical s = true) (pr : BitVec 2) (window : Bool) (tags : List (BitVec 3)) (va : Word) (size v : Nat) :
    StopCanonical id (spaceWrite s pr window tags va size v) :=
  stop_ite (stop_bind (stop_engWin h va size tags) fun _ _ => canonical_winPut h _ _ _ _) (stop_engWrite h pr va size v)

/-! ## Copy channels and parks (09 R210 to R219, 15 R352) -/

theorem stop_recordWrite (h : memoriesCanonical s = true) (pr : BitVec 2) (addr : Word) (sum : BitVec 32) (n status : Nat) :
    StopCanonical id (recordWrite s pr addr sum n status) :=
  stop_bind (stop_engWrite h pr _ _ _) fun _ ht => stop_engWrite ht pr _ _ _

/-- A record written and its continuation, a wait, or what follows a fault of the write. -/
theorem canonical_recordStatus {s0 : State} (h0 : memoriesCanonical s0 = true) (h : memoriesCanonical s = true) {c : Chan} {status : Nat}
    {lost : Trap → State → State} {k : State → State} (hlost : ∀ t, Keeps (lost t)) (hk : Keeps k) :
    memoriesCanonical (recordStatus s0 s c status lost k) = true := by
  have hr := stop_recordWrite h c.priv c.addr c.sum c.n status
  unfold recordStatus
  split
  case h_1 e => exact hk _ (hr.ok e)
  case h_2 e => exact hr.hold e _ h0
  case h_3 => exact hlost _ _ h

theorem canonical_copyStop (h : memoriesCanonical s = true) (e : BitVec 2) (cause : BitVec 8) (v : Word) :
    memoriesCanonical (copyStop s e cause v) = true := canonical_frame h (by rfl)

/-- What follows a fault of an engine access, behind what the retirement of its line makes of the state. -/
theorem canonical_afterFault (h : memoriesCanonical s = true) (t : Trap) {k : State → State} (hk : Keeps k) :
    memoriesCanonical (retiring (counted s t) t.line k) = true := canonical_retiring (canonical_counted h t) _ hk

theorem stop_withProgress (h : memoriesCanonical s = true) (c : Chan) : StopCanonical (fun _ => s) (withProgress s c) := by
  have hr := stop_engRead h c.priv c.addr 64
  refine stop_ite h ?_
  split
  case h_1 => exact h
  case h_2 => exact h
  case h_3 e => exact hr.hold e

/-- A channel parked, or what a wait of the park leaves. -/
def ParkCanonical (r : Except State State) : Prop :=
  match r with
  | .ok t | .error t => memoriesCanonical t = true

theorem park_parkChannel (h : memoriesCanonical s = true) (e : BitVec 2) : ParkCanonical (parkChannel s e) := by
  unfold parkChannel
  dsimp only
  split
  · exact h
  · split
    case h_1 e1 => exact (stop_withProgress h _).hold e1 _ h
    case h_2 => exact h
    case h_3 p own _ =>
      split
      · exact h
      · have hr := stop_recordWrite h p.priv p.addr p.sum p.n 0
        split
        case h_1 e1 => exact canonical_frame (hr.ok e1) (by rfl)
        case h_2 e1 => exact hr.hold e1 _ h
        case h_3 => exact canonical_afterFault h _ fun _ hu => canonical_copyStop hu _ _ _

theorem park_bind {r : Except State State} {k : State → Except State State} (hr : ParkCanonical r)
    (hk : ∀ t, memoriesCanonical t = true → ParkCanonical (k t)) : ParkCanonical (r >>= k) := by
  cases r with
  | ok t => exact hk t hr
  | error t => exact hr

theorem park_parkChannels (h : memoriesCanonical s = true) : ParkCanonical (parkChannels s) :=
  park_bind (park_parkChannel h 0) fun _ ha => park_bind (park_parkChannel ha 1) fun _ hb => park_bind (park_parkChannel hb 2) fun _ hc =>
    park_parkChannel hc 3

/-! ## Calendars, parks and loads (13 R316, 15 R349 to R352) -/

theorem canonical_slotBoundary (h : memoriesCanonical s = true) (c : CoreId) : memoriesCanonical (slotBoundary s c) = true :=
  canonical_ite h (canonical_ite (canonical_frame h (by rfl)) (canonical_frame h (by rfl)))

theorem canonical_loadStart (h : memoriesCanonical s = true) (c : CoreId) : memoriesCanonical (loadStart s c) = true := by
  unfold loadStart
  dsimp only
  generalize (if (coreRec s c).boundary = true then _ else _ : Option (BitVec 32)) = w
  cases w with
  | none => exact h
  | some w => exact canonical_frame h (by rfl)

theorem canonical_trimL1 (h : memoriesCanonical s = true) (id : CtxId) : memoriesCanonical (trimL1 s id) = true := by
  unfold trimL1
  split
  · exact h
  · exact canonical_focus (canonical_frame (canonical_quietBack (canonical_focus h id) _) (by rfl)) _

theorem canonical_savedState (h : memoriesCanonical s = true) (tick : Nat) : memoriesCanonical (savedState tick s) = true := by
  have hc : memoriesCanonical (cleanedState tick s) = true := canonical_frame (canonical_quietBack h s.me.l1) (by rfl)
  exact canonical_mem hc (wf_writeArea ((canonical_iff _).mp hc).1 ((canonical_iff _).mp hc).2 _) rfl

theorem canonical_parkedState {s1 : State} (h : memoriesCanonical s1 = true) (c : CoreId) (b : Bool) :
    memoriesCanonical (parkedState s s1 c b) = true := canonical_focus (canonical_frame (canonical_savedState h s.tick) (by rfl)) _

theorem canonical_retireCtx (h : memoriesCanonical s = true) (id : CtxId) : memoriesCanonical (retireCtx s id) = true :=
  canonical_of_same h (retireCtx_mem ..) (retireCtx_win ..)

theorem canonical_parkComplete (h : memoriesCanonical s = true) (c : CoreId) (b : Bool) : memoriesCanonical (parkComplete s c b) = true := by
  unfold parkComplete
  dsimp only
  split
  case h_2 => exact h
  case h_1 id hst hctx =>
    split
    case h_1 => exact canonical_frame h (by rfl)
    case h_2 hx =>
      have hp := park_parkChannels (canonical_focus h id)
      split
      case h_1 e => rw [e] at hp; exact canonical_focus hp _
      case h_2 s1 e =>
        rw [e] at hp
        have hparked := canonical_parkedState (s := s) hp c b
        exact canonical_ite (canonical_focus hp _) (canonical_ite (canonical_retireCtx hparked id) hparked)

theorem canonical_loadComplete (h : memoriesCanonical s = true) (c : CoreId) (b : Bool) : memoriesCanonical (loadComplete s c b) = true := by
  unfold loadComplete
  dsimp only
  split
  case h_2 => exact h
  case h_1 id _ _ =>
    split
    · exact canonical_frame h (by rfl)
    · refine canonical_ite (canonical_ite (canonical_frame h (by rfl)) h) (canonical_ite h (canonical_ite (canonical_contain h _) ?_))
      obtain ⟨hm, hw⟩ := (canonical_iff s).mp h
      refine canonical_updCtx ((canonical_iff _).mpr ⟨?_, wf_replaceRange hw (wf_moveRange hm _ _ _) _ _⟩) _ _
      simpa only [putCtx_mem, setCore_mem] using hm

theorem canonical_dropNotices (h : memoriesCanonical s = true) (c : CoreId) : memoriesCanonical (dropNotices s c) = true :=
  canonical_foldl_keeps (fun _ _ ht => canonical_ite ht (canonical_updCtx ht _ _)) h _

theorem canonical_spineDone (h : memoriesCanonical s = true) (c : CoreId) : memoriesCanonical (spineDone s c) = true := by
  unfold spineDone
  dsimp only
  split
  · exact h
  · exact canonical_frame h (by rfl)

end

end Sys2Proof.Machine
end

section
/-! PROOFS. The commands of the monitor, the special registers and the choice of a handler keep the memories in canonical form (O36). -/

namespace Sys2Proof.Machine

open Sys2Proof.Safety

section
variable {s : State}

/-! ## The commands of the monitor (16 R369, R370) -/

theorem canonical_createCtx (h : memoriesCanonical s = true) (id : CtxId) (d : Desc) : memoriesCanonical (createCtx s id d) = true :=
  canonical_ite h (canonical_frame h (by rfl))

theorem canonical_clearCtx (h : memoriesCanonical s = true) (id : CtxId) : memoriesCanonical (clearCtx s id) = true := by
  unfold clearCtx
  dsimp only
  split
  · exact canonical_retireCtx h id
  · split <;> exact canonical_frame h (by rfl)

theorem canonical_keepCtx (h : memoriesCanonical s = true) (id : CtxId) : memoriesCanonical (keepCtx s id) = true := by
  unfold keepCtx
  dsimp only
  split
  · exact h
  · exact canonical_ite (canonical_frame h (by rfl)) h

theorem canonical_writeDesc (h : memoriesCanonical s = true) (c : CoreId) (i : Nat) (w : BitVec 23) : memoriesCanonical (writeDesc s c i w) = true := by
  have hclear : ∀ r, memoriesCanonical (setCore s c r) = true := fun r => canonical_frame h (by rfl)
  unfold writeDesc
  dsimp only
  refine canonical_ite (canonical_keepCtx (canonical_createCtx ?_ _ _) _) ?_ <;>
    exact canonical_ite (canonical_clearCtx (hclear _) _) (hclear _)

theorem canonical_writeSave (h : memoriesCanonical s = true) (c : CoreId) (i : Nat) (a : BitVec 52) : memoriesCanonical (writeSave s c i a) = true :=
  canonical_ite (canonical_updCtx (canonical_frame h (by rfl)) _ _) (canonical_frame h (by rfl))

/-- A command leaves canonical memories. -/
def CmdCanonical (c : Cmd) : Prop := memoriesCanonical c.st = true

theorem cmd_ite {p : Prop} [Decidable p] {a b : Cmd} (ha : CmdCanonical a) (hb : CmdCanonical b) : CmdCanonical (if p then a else b) := by
  split <;> assumption

/-- A command that answers, and changes no more than tables of the state. -/
theorem cmd_ownerCmd (h : memoriesCanonical s = true) (t : Tab (BitVec 7)) (key : Nat) (write zero : Bool) (data : Nat) {put : Tab (BitVec 7) → State}
    (hput : ∀ t, memoriesCanonical (put t) = true) : CmdCanonical (ownerCmd s t key write zero data put) :=
  cmd_ite h (cmd_ite h (cmd_ite h (hput _)))

theorem cmd_mcalRun (h : memoriesCanonical s = true) (v : Word) : CmdCanonical (mcalRun s v) := by
  unfold mcalRun
  dsimp only
  refine cmd_ite (cmd_ite h (cmd_ite h (cmd_ite ?slots (cmd_ite ?descriptors (cmd_ite ?areas ?run))))) ?links
  case slots => exact cmd_ite h (cmd_ite h (cmd_ite h (cmd_ite h (canonical_dropNotices (canonical_frame h (by rfl)) _))))
  case descriptors => exact cmd_ite h (cmd_ite h (cmd_ite h (canonical_writeDesc h _ _ _)))
  case areas => exact cmd_ite h (cmd_ite h (cmd_ite h (canonical_writeSave h _ _ _)))
  case run =>
    exact cmd_ite h (cmd_ite h (cmd_ite h (cmd_ite (canonical_frame h (by rfl)) (canonical_frame (s := slotBoundary s _) (canonical_slotBoundary h _) (by rfl)))))
  case links =>
    exact cmd_ite h (cmd_ite h (cmd_ite h (cmd_ite (cmd_ownerCmd h _ _ _ _ _ fun _ => canonical_frame h (by rfl))
      (cmd_ownerCmd h _ _ _ _ _ fun _ => canonical_frame h (by rfl)))))

theorem cmd_mquotaRun (h : memoriesCanonical s = true) (v : Word) : CmdCanonical (mquotaRun s v) := by
  unfold mquotaRun
  dsimp only
  refine cmd_ite h (cmd_ite ?ways (cmd_ite ?slots (cmd_ite ?shares ?cores)))
  case ways => exact cmd_ite h (cmd_ite h (cmd_ite h (canonical_frame h (by rfl))))
  case slots => exact cmd_ite h (cmd_ite h (cmd_ite h (cmd_ite h (canonical_frame h (by rfl)))))
  case shares => exact cmd_ite h (cmd_ite h (cmd_ite h (canonical_updCtx (canonical_frame h (by rfl)) _ _)))
  case cores => exact cmd_ite h (cmd_ite h (cmd_ite h (cmd_ite h (canonical_frame h (by rfl)))))

theorem canonical_mcalOp (h : memoriesCanonical s = true) (v : Word) : memoriesCanonical (mcalOp s v) = true :=
  canonical_frame (s := (mcalRun s v).st) (cmd_mcalRun h v) (by rfl)

theorem canonical_mquotaOp (h : memoriesCanonical s = true) (v : Word) : memoriesCanonical (mquotaOp s v) = true :=
  canonical_frame (s := (mquotaRun s v).st) (cmd_mquotaRun h v) (by rfl)

theorem canonical_mpartOp (h : memoriesCanonical s = true) (v : Word) : memoriesCanonical (mpartOp s v) = true :=
  canonical_ite (canonical_contain (canonical_frame h (by rfl)) _) (canonical_frame h (by rfl))

/-! ## System registers (05 R100 to R106) -/

theorem canonical_writeKstate (h : memoriesCanonical s = true) (v : Word) : memoriesCanonical (writeKstate s v) = true :=
  canonical_ite (canonical_frame h (by rfl)) (canonical_frame h (by rfl))

theorem canonical_writeKspill (h : memoriesCanonical s = true) (v : Word) : memoriesCanonical (writeKspill s v) = true :=
  canonical_ite (canonical_frame h (by rfl)) (canonical_frame h (by rfl))

/-- A write to a system register in the order of the registers' numbers: only the commands of the monitor do more than change a record. -/
theorem canonical_writeSreg (h : memoriesCanonical s = true) (r : BitVec 12) (v : Word) : memoriesCanonical (writeSreg s r v) = true := by
  refine canonical_ite (canonical_writeKstate h v) ?_
  iterate 12 refine canonical_ite (canonical_frame h (by rfl)) ?_
  refine canonical_ite (canonical_writeKspill h v) ?_
  iterate 4 refine canonical_ite (canonical_frame h (by rfl)) ?_
  refine canonical_ite (canonical_mpartOp h v) (canonical_ite (canonical_mcalOp h v) (canonical_ite (canonical_frame h (by rfl)) ?_))
  refine canonical_ite (canonical_mquotaOp h v) ?_
  iterate 9 refine canonical_ite (canonical_frame h (by rfl)) ?_
  exact h

theorem result_mtsOp (h : memoriesCanonical s = true) (a : Reg) (r : BitVec 12) : ResultCanonical (mtsOp a r s) :=
  result_needPriv (result_ite (result_trap _ (by rfl)) (canonical_writeSreg (canonical_frame h (by rfl)) r _))

/-! ## Handlers (01 R12 to R14, 05 R101) -/

theorem canonical_selectHandler (h : memoriesCanonical s = true) : memoriesCanonical (selectHandler s) = true := by
  unfold selectHandler
  split
  · exact h
  · split
    case h_1 => exact h
    case h_2 i _ =>
      have hs1 := canonical_countEvent (canonical_me h (countWaits s.me i)) 0x0E 1
      refine canonical_ite (canonical_me hs1 _) (canonical_acquireEnd (canonical_ite ?_ (canonical_me hs1 _)) _ _)
      exact canonical_frame (canonical_me hs1 _) (by rfl)

theorem canonical_deliverAsync (h : memoriesCanonical s = true) : memoriesCanonical (deliverAsync s) = true := by
  unfold deliverAsync
  split
  · exact h
  · split
    · exact h
    · exact canonical_ite (canonical_ite (canonical_takeTrap (canonical_frame h (by rfl)) _) h) (canonical_ite h (canonical_frame h (by rfl)))

end

end Sys2Proof.Machine
end

section
/-! PROOFS. Completions, atomics, counters, barriers and the commits of a copy keep the memories in canonical form (O36). -/

namespace Sys2Proof.Machine

open Sys2Proof.Safety

section
variable {s : State}

/-! ## Loads and atomics (09 R193, 14 R325) -/

theorem canonical_loadCompletion (h : memoriesCanonical s = true) (k : Nat) : memoriesCanonical (loadCompletion k s) = true := by
  unfold loadCompletion
  split
  · exact canonical_me h _
  · exact h

theorem canonical_atomEffect (h : memoriesCanonical s = true) (a : Atom) : memoriesCanonical (atomEffect s a) = true := by
  have hstore : memoriesCanonical (match atomStore a (memNat s.mem a.pa a.size) with
      | some v => homeWrite s a.pa a.size v
      | none => homeTouch s (a.pa / 128)) = true := by
    split
    · exact canonical_homeWrite h _ _ _
    · exact canonical_homeTouch h _
  have hrelease := canonical_ite (p := isRelease a.order = true) (canonical_frame (t := closeGrains _ a.entry a.issued a.scope.toNat) hstore (by rfl)) hstore
  exact canonical_ite (canonical_acquireEnd hrelease _ _) hrelease

theorem canonical_closeEnded (h : memoriesCanonical s = true) (a : Atom) : memoriesCanonical (closeEnded a s) = true := by
  unfold closeEnded
  split
  · exact h
  · exact canonical_frame h (by rfl)

theorem canonical_performAtomic (h : memoriesCanonical s = true) (k : Nat) : memoriesCanonical (performAtomic k s) = true := by
  unfold performAtomic
  split
  case h_2 => exact h
  case h_1 a _ =>
    have he := canonical_atomEffect h a
    exact canonical_ite h (canonical_closeEnded (canonical_ite (canonical_me he _) (canonical_me he _)) _)

theorem canonical_zeroLine (h : memoriesCanonical s = true) (n : Nat) : memoriesCanonical (zeroLine s n) = true := by
  have hcount := canonical_countEvent h (if l1Hits s n false then 0x02 else 0x03) 1
  unfold zeroLine
  refine canonical_putLine (canonical_frame (s := ?_) ?_ (by rfl)) _
  · split
    · exact canonical_ite (canonical_dropLine hcount _) hcount
    · exact hcount

/-! ## Dependence counters and barriers (14 R327 to R333) -/

theorem canonical_dcFire (h : memoriesCanonical s = true) (part : BitVec 7) (i : Nat) (d : Dc) : memoriesCanonical (dcFire s part i d) = true := by
  unfold dcFire
  split
  · exact h
  · split
    · exact h
    · exact canonical_updCtx h _ _

theorem canonical_dcDecrement (h : memoriesCanonical s = true) (part : BitVec 7) (i : Nat) (a : BitVec 32) :
    memoriesCanonical (dcDecrement s part i a) = true := by
  have hput : ∀ d, memoriesCanonical (dcPut s part i d) = true := fun _ => canonical_frame h (by rfl)
  exact canonical_ite (canonical_dcFire (hput _) _ _ _) (hput _)

theorem canonical_barArrive (h : memoriesCanonical s = true) (part : BitVec 7) (b : BitVec 6) : memoriesCanonical (barArrive s part b) = true := by
  have hput : ∀ x, memoriesCanonical (barPut s part b.toNat x) = true := fun _ => canonical_frame h (by rfl)
  have hwake : ∀ x c cs, memoriesCanonical { barPut s part b.toNat x with me := c, others := cs } = true := fun _ _ _ => canonical_frame h (by rfl)
  exact canonical_ite (hput _) (canonical_ite (canonical_dcDecrement (hwake _ _ _) _ _ _) (hwake _ _ _))

theorem canonical_setArrivals (h : memoriesCanonical s = true) (l : List (Word × BitVec 6 × BitVec 16)) :
    memoriesCanonical (setArrivals s l) = true := canonical_me h _

theorem canonical_barPass (h : memoriesCanonical s = true) (d : Reg) (b : BitVec 6) (gen : BitVec 16) : memoriesCanonical (barPass s d b gen) = true :=
  canonical_ite (canonical_blockOn (canonical_setArrivals h _) _) (canonical_answerG (canonical_acquireEnd (canonical_setArrivals h _) _ _) _ _)

/-! ## Copies (09 R206 to R219) -/

theorem canonical_copyHalt {s0 : State} (h0 : memoriesCanonical s0 = true) (h : memoriesCanonical s = true) (e : BitVec 2) (status : Nat)
    (cause : BitVec 8) (v : Word) : memoriesCanonical (copyHalt s0 s e status cause v) = true :=
  canonical_recordStatus h0 h (fun _ _ hu => canonical_copyStop hu _ _ _) (fun _ hu => canonical_copyStop hu _ _ _)

theorem canonical_copyFault {s0 : State} (h0 : memoriesCanonical s0 = true) (h : memoriesCanonical s = true) (e : BitVec 2) (t : Trap) :
    memoriesCanonical (copyFault s0 s e t) = true := canonical_afterFault h t fun _ hu => canonical_copyHalt h0 hu _ _ _ _

theorem canonical_chainEnd (h : memoriesCanonical s = true) (e : BitVec 2) : memoriesCanonical (chainEnd s e) = true :=
  canonical_ite h (canonical_me h _)

theorem canonical_signalTarget (h : memoriesCanonical s = true) (kind target bytes : Nat) (chan : BitVec 3) :
    memoriesCanonical (signalTarget s kind target bytes chan) = true :=
  canonical_ite (canonical_syncArrive h _ _ _) (canonical_ite (canonical_frame h (by rfl)) h)

theorem stop_clearOwn (h : memoriesCanonical s = true) (pr : BitVec 2) (addr : Word) : StopCanonical id (clearOwn s pr addr) :=
  stop_bind (stop_engXlat h pr _ _ _) fun _ ht => stop_engWrite ht pr _ _ _

theorem canonical_completeRecord {s0 : State} (h0 : memoriesCanonical s0 = true) (h : memoriesCanonical s = true) (e : BitVec 2) (r : Rec) :
    memoriesCanonical (completeRecord s0 s e r) = true := by
  have hw : StopCanonical id (match targetLost s r.kind r.target with
      | some t => .error (.fault t)
      | none => do
        let s1 ← recordWrite s (getChan s.me e).priv (getChan s.me e).addr (getChan s.me e).sum r.count 1
        clearOwn s1 (getChan s.me e).priv (getChan s.me e).addr) := by
    split
    · trivial
    · exact stop_bind (stop_recordWrite h _ _ _ _ _) fun _ ht => stop_clearOwn ht _ _
  unfold completeRecord
  dsimp only
  split
  case h_1 e1 => exact hw.hold e1 _ h0
  case h_2 => exact canonical_copyFault h0 h _ _
  case h_3 t e1 =>
    have hsignal := canonical_signalTarget (canonical_me (hw.ok e1) (setChan t.me e { getChan s.me e with
      addr := if (getChan s.me e).single then 0 else r.next, words := none, first := false, src := none, dst := none, n := 0,
      carry := (getChan s.me e).sum })) r.kind r.target (r.count * r.size) (e.setWidth 3)
    exact canonical_ite (canonical_chainEnd hsignal e) hsignal

theorem canonical_endRecord {s0 : State} (h0 : memoriesCanonical s0 = true) (h : memoriesCanonical s = true) (e : BitVec 2) (r : Rec) :
    memoriesCanonical (endRecord s0 s e r) = true := canonical_ite (canonical_copyHalt h0 h _ _ _ _) (canonical_completeRecord h0 h e r)

theorem stop_readTrits (h : memoriesCanonical s = true) (pr : BitVec 2) (window : Bool) (a : Word) (n : Nat) :
    StopCanonical Prod.fst (readTrits s pr window a n) := by
  induction n generalizing s a with
  | zero => exact h
  | succ n ih =>
    refine stop_bind (stop_spaceRead h pr window plainTags a 1) fun ⟨t, remote, v⟩ ht => ?_
    dsimp only
    split
    · trivial
    · exact stop_bind (ih ht _) fun _ hu => hu

theorem stop_elementValue (h : memoriesCanonical s = true) (pr : BitVec 2) (r : Rec) (n : Nat) :
    StopCanonical Prod.fst (elementValue s pr r n) := by
  unfold elementValue
  split
  · exact h
  · refine stop_ite (stop_bind (stop_readTrits h pr _ _ 5) fun _ ht => ht) (stop_ite ?_ (stop_spaceRead h pr _ _ _ _))
    exact stop_bind (stop_spaceRead h pr _ _ _ _) fun _ ht => stop_ite trivial ht

theorem stop_gather (h : memoriesCanonical s = true) (pr : BitVec 2) (r : Rec) (k n : Nat) : StopCanonical Prod.fst (gather s pr r k n) := by
  induction k generalizing s n with
  | zero => exact h
  | succ k ih => exact stop_bind (stop_elementValue h pr r n) fun ⟨_, _, _⟩ ht => stop_bind (ih ht _) fun _ hu => hu

theorem stop_scatter (h : memoriesCanonical s = true) (pr : BitVec 2) (r : Rec) (xs : List Elem) : StopCanonical id (scatter s pr r xs) := by
  induction xs generalizing s with
  | nil => exact h
  | cons x xs ih => exact stop_bind (stop_spaceWrite h pr _ _ _ _ _) fun _ ht => ih ht

/-- The check of the destinations waits or faults as their accesses do, and leaves nothing else behind. -/
theorem stop_checkAll (h : memoriesCanonical s = true) (pr : BitVec 2) (r : Rec) (xs : List Elem) :
    StopCanonical (fun _ => s) (checkAll s pr r xs) := by
  induction xs with
  | nil => exact h
  | cons x xs ih => exact stop_ite (stop_bind (stop_engWin h _ _ _) fun _ _ => ih) (stop_bind (stop_engXlat h pr _ _ _) fun _ _ => ih)

theorem canonical_copyRepair (h : memoriesCanonical s = true) (pr : BitVec 2) (r : Rec) (n : Nat) (xs : List Elem) :
    memoriesCanonical (copyRepair s pr r n xs) = true := by
  refine canonical_foldl_keeps (fun x t ht => canonical_ite (canonical_ite (canonical_frame ht (by rfl)) ht) ?_) h xs
  split
  · exact canonical_ite (canonical_frame ht (by rfl)) ht
  · exact ht

/-- The elements of a group read, checked and written (09 R211, R212). -/
theorem stop_moved (h : memoriesCanonical s = true) {pr : BitVec 2} {r : Rec} {k n : Nat} {e : BitVec 2} :
    StopCanonical Prod.fst (gather s pr r k n >>= fun x => checkAll x.1 pr r x.2 >>= fun _ =>
      scatter { x.1 with me := (inject x.1.me e (remoteRecord x.1 pr r) r.size n x.2).1 } pr r
        (inject x.1.me e (remoteRecord x.1 pr r) r.size n x.2).2 >>= fun u =>
      .ok (copyRepair u pr r (n + k) (inject x.1.me e (remoteRecord x.1 pr r) r.size n x.2).2,
        (inject x.1.me e (remoteRecord x.1 pr r) r.size n x.2).2)) :=
  stop_bind (stop_gather h pr r k n) fun _ ht => stop_bind (stop_checkAll ht pr r _) fun _ _ =>
    stop_bind (stop_scatter (canonical_me ht _) pr r _) fun _ hu => canonical_copyRepair hu pr r _ _

theorem canonical_copyCommit (h : memoriesCanonical s = true) (e : BitVec 2) : memoriesCanonical (copyCommit e s) = true := by
  unfold copyCommit
  dsimp only
  split
  case h_2 => exact h
  case h_1 ws _ _ =>
    refine canonical_ite h ?_
    split
    case h_1 e1 => exact (stop_moved h).hold e1 _ h
    case h_2 => exact canonical_copyFault h h _ _
    case h_3 e1 =>
      have hu := (stop_moved h).ok e1
      exact canonical_ite (canonical_endRecord h (canonical_countEvent (canonical_me hu _) _ _) _ _) (canonical_countEvent (canonical_me hu _) _ _)

end

end Sys2Proof.Machine
end

section
/-! PROOFS. The copy engine's chains, the transformer, the TLB operations and the epoch keep the memories in canonical form (O36). -/

namespace Sys2Proof.Machine

open Sys2Proof.Safety

section
variable {s : State}

/-! ## Chains of the copy engine (09 R210, R215 to R219) -/

theorem canonical_copyRead (h : memoriesCanonical s = true) (e : BitVec 2) : memoriesCanonical (copyRead e s) = true := by
  have hr := stop_engRead h (getChan s.me e).priv (getChan s.me e).addr 64
  unfold copyRead
  refine canonical_ite h (canonical_ite (canonical_chainEnd h e) ?_)
  split
  case h_1 e1 => exact hr.hold e1 _ h
  case h_2 => exact canonical_copyFault h h _ _
  case h_3 e1 =>
    have ht := hr.ok e1
    exact canonical_ite (canonical_chainEnd (canonical_me ht _) e) (canonical_ite (canonical_copyHalt h (canonical_me ht _) ..)
      (canonical_ite (canonical_endRecord h (canonical_me (canonical_me ht _) _) ..) (canonical_me ht _)))

theorem result_startChain (h : memoriesCanonical s = true) {e : BitVec 2} {addr : Word} {after single : Bool} {src dst : Option Word} :
    ResultCanonical (startChain s e addr after single src dst) := by
  refine result_recAddress ?_
  dsimp only
  split
  · exact result_ite (canonical_frame h (by rfl)) (canonical_frame h (by rfl))
  · exact canonical_frame h (by rfl)
  · exact canonical_frame h (by rfl)
  · exact result_ite (canonical_frame h (by rfl)) (result_configFault _)

theorem canonical_cancelLost (h : memoriesCanonical s = true) (e : BitVec 2) (p : Chan) (t : Trap) : memoriesCanonical (cancelLost s e p t) = true :=
  canonical_ite (canonical_frame h (by rfl)) (canonical_afterFault (canonical_frame h (by rfl)) t fun _ hu => canonical_frame hu (by rfl))

theorem result_cancelChan (h : memoriesCanonical s = true) {d : Reg} {e : BitVec 2} : ResultCanonical (cancelChan s d e) := by
  have hr := stop_withProgress h (getChan s.me e)
  unfold cancelChan
  refine result_ite (canonical_answerG h _ _) (result_ite (canonical_frame h (by rfl)) ?_)
  split
  case h_1 e1 => exact hr.hold e1 _ (canonical_frame h (by rfl))
  case h_2 => exact canonical_frame h (by rfl)
  case h_3 =>
    refine result_ite (canonical_answerG (canonical_me h _) _ _) (result_guardBack h ?_)
    exact canonical_recordStatus (canonical_frame h (by rfl)) (canonical_foldl_keeps (fun _ _ ht => canonical_dropLine ht _) h _)
      (fun t _ hu => canonical_cancelLost hu e _ t) fun _ hu => canonical_answerG (canonical_me hu _) _ _

theorem canonical_linkCopy (h : memoriesCanonical s = true) (e : BitVec 2) : memoriesCanonical (linkCopy s e) = true := by
  unfold linkCopy
  dsimp only
  split
  · refine canonical_ite ?_ h
    split
    · exact canonical_copyHalt h h ..
    · exact h
  · exact h

/-! ## The transformer (09 R224 to R227) -/

theorem stop_readScales (h : memoriesCanonical s = true) (pr : BitVec 2) (a : Word) (n : Nat) : StopCanonical Prod.fst (readScales s pr a n) := by
  induction n generalizing s a with
  | zero => exact h
  | succ n ih => exact stop_bind (stop_engRead h pr a 4) fun _ ht => stop_bind (ih ht _) fun _ hu => hu

theorem stop_writeScales (h : memoriesCanonical s = true) (pr : BitVec 2) (a : Word) (vs : List Nat) :
    StopCanonical id (writeScales s pr a vs) := by
  induction vs generalizing s a with
  | nil => exact h
  | cons v vs ih => exact stop_bind (stop_engWrite h pr a 4 v) fun _ ht => ih ht _

theorem stop_writeWords (h : memoriesCanonical s = true) (pr : BitVec 2) (a : Word) (ws : List Word) :
    StopCanonical id (writeWords s pr a ws) := by
  induction ws generalizing s a with
  | nil => exact h
  | cons w ws ih => exact stop_bind (stop_engWrite h pr a 8 w.toNat) fun _ ht => ih ht _

theorem stop_packAll (h : memoriesCanonical s = true) (a : Word) (ps : List (List Byte)) : StopCanonical (fun _ => s) (packAll a ps) := by
  induction ps generalizing a with
  | nil => exact h
  | cons p ps ih =>
    refine stop_bind (f := fun _ => s) ?_ fun _ _ => stop_bind (ih _) fun _ _ => h
    unfold packTrits
    split
    · trivial
    · exact h

theorem stop_unpackAll (h : memoriesCanonical s = true) (a : Word) (bs : List Byte) : StopCanonical (fun _ => s) (unpackAll a bs) := by
  induction bs generalizing a with
  | nil => exact h
  | cons b bs ih => exact stop_ite trivial (stop_bind (ih _) fun _ _ => h)

/-- What a transform reads, and the range it writes after it. -/
theorem stop_readWrite (h : memoriesCanonical s = true) {pr : BitVec 2} {src : Word} {n : Nat} {k : State × List Byte → Except Stop State}
    (hk : ∀ a, memoriesCanonical a.1 = true → StopCanonical id (k a)) : StopCanonical id (readRange s pr src n >>= k) :=
  stop_bind (stop_readRange h pr src n) hk

theorem stop_runChunk (h : memoriesCanonical s = true) (x : Xreq) (n : Nat) : StopCanonical id (runChunk s x n) := by
  unfold runChunk
  refine stop_ite ?_ (stop_ite ?_ (stop_ite ?_ (stop_ite ?_ (stop_ite ?_ ?_))))
  case refine_1 => exact stop_readWrite h fun _ ht => stop_bind (stop_packAll ht _ _) fun _ _ => stop_writeRange ht ..
  case refine_2 => exact stop_readWrite h fun _ ht => stop_bind (stop_unpackAll ht _ _) fun _ _ => stop_writeRange ht ..
  case refine_3 => exact stop_readWrite h fun _ ht => stop_bind (stop_writeScales ht ..) fun _ hu => stop_writeRange hu ..
  case refine_4 => exact stop_readWrite h fun _ ht => stop_bind (stop_readScales ht ..) fun _ hu => stop_writeRange hu ..
  case refine_5 => exact stop_readWrite h fun _ ht => stop_writeRange ht ..
  case refine_6 =>
    refine stop_readWrite h fun _ ht => ?_
    dsimp only
    split
    · trivial
    · exact stop_writeRange ht ..

theorem stop_xformRecord (h : memoriesCanonical s = true) (x : Xreq) (status : Nat) : StopCanonical id (xformRecord s x status) :=
  stop_ite h (stop_writeWords h ..)

theorem canonical_xformStop (h : memoriesCanonical s = true) (x : Xreq) : memoriesCanonical (xformStop s x) = true := canonical_me h _

theorem canonical_xformHalt (h : memoriesCanonical s = true) (x : Xreq) : memoriesCanonical (xformHalt s x) = true := by
  unfold xformHalt
  split
  case h_1 e => exact canonical_xformStop ((stop_xformRecord h _ _).ok e) x
  case h_2 e => exact (stop_xformRecord h _ _).hold e _ (canonical_me h _)
  case h_3 => exact canonical_xformStop h x

theorem canonical_xformPop (h : memoriesCanonical s = true) : memoriesCanonical (xformPop s) = true := by
  unfold xformPop
  split
  · exact canonical_ite (canonical_me h _) h
  · exact h

theorem canonical_xformDone (h : memoriesCanonical s = true) (x : Xreq) : memoriesCanonical (xformDone s x) = true := by
  unfold xformDone
  refine canonical_ite (canonical_me h _) ?_
  split
  · exact canonical_retiring h _ fun _ hu => canonical_xformHalt hu _
  · have hr := stop_xformRecord h x 1
    split
    case h_1 e => exact canonical_xformPop (canonical_me (canonical_signalTarget (hr.ok e) ..) _)
    case h_2 e => exact hr.hold e _ (canonical_me h _)
    case h_3 => exact canonical_afterFault h _ fun _ hu => canonical_xformStop hu _

theorem canonical_xformSettle (h : memoriesCanonical s = true) (x : Xreq) : memoriesCanonical (xformSettle s x) = true :=
  canonical_ite (canonical_me h _) (canonical_ite (canonical_xformHalt h x) (canonical_xformDone h x))

theorem canonical_xformStart (h : memoriesCanonical s = true) : memoriesCanonical (xformStart s) = true := by
  have h0 := canonical_xformPop h
  unfold xformStart
  dsimp only
  split
  · exact h0
  · refine canonical_ite h0 ?_
    rename_i x _ _
    have hr := stop_engRead h0 x.priv x.addr 64
    split
    case h_1 e => exact hr.hold e _ h0
    case h_2 => exact canonical_afterFault h0 _ fun _ hu => canonical_xformStop hu _
    case h_3 e => exact canonical_ite (canonical_xformHalt (hr.ok e) _) (canonical_xformSettle (hr.ok e) _)

theorem canonical_xformChunk (h : memoriesCanonical s = true) (n : BitVec 8) : memoriesCanonical (xformChunk n s) = true := by
  unfold xformChunk
  dsimp only
  split
  · exact h
  · refine canonical_ite h (canonical_ite (canonical_xformSettle h _) (canonical_ite h ?_))
    have hr := stop_runChunk h
    split
    case h_1 e => exact (hr _ _).hold e _ h
    case h_2 => exact canonical_afterFault h _ fun _ hu => canonical_xformSettle hu _
    case h_3 e => exact canonical_xformSettle ((hr _ _).ok e) _

theorem canonical_cancelXform (h : memoriesCanonical s = true) (d : Reg) : memoriesCanonical (cancelXform s d) = true := by
  have hhold : memoriesCanonical (hold s) = true := canonical_frame h (by rfl)
  unfold cancelXform
  dsimp only
  split
  · exact canonical_answerG h _ _
  · rename_i x xs _
    have hread := stop_engRead h x.priv x.addr 64
    split
    case h_1 e =>
      split at e
      · cases e
      · split at e
        case h_1 => cases e
        case h_2 => cases e
        case h_3 e1 => cases e; exact hread.hold e1 _ hhold
    case h_2 => exact h
    case h_3 x1 _ =>
      have hr := stop_xformRecord h x1 7
      split
      case h_1 e => exact canonical_answerG (canonical_me (hr.ok e) _) _ _
      case h_2 => exact canonical_ite hhold (canonical_afterFault hhold _ fun _ hu => canonical_me hu _)
      case h_3 e => exact hr.hold e _ hhold

/-! ## The TLB, ephemeral entries and the epoch (08 R181, 15 R356, 17 R384 to R390) -/

theorem result_tlbOp (h : memoriesCanonical s = true) {gone : Ctx → TlbEntry → Bool} {k : State → State} (hk : Keeps k) :
    ResultCanonical (tlbOp s gone k) :=
  have hdrop : memoriesCanonical (dropTlb (cleanL1 s) gone) = true := canonical_frame (canonical_cleanL1 h) (by rfl)
  result_guardBack h (canonical_frame (hk _ hdrop) (by rfl))

theorem canonical_deliverRisk (h : memoriesCanonical s = true) (part : BitVec 7) (i : Nat) (e : Eph) :
    memoriesCanonical (deliverRisk s part i e) = true := by
  unfold deliverRisk
  split
  · exact h
  · exact canonical_ite (canonical_updCtx h _ _) (canonical_updCtx h _ _)

theorem canonical_evaluateAll (h : memoriesCanonical s = true) (part : BitVec 7) (now fperm : Nat) (t : Tab Eph) :
    memoriesCanonical (evaluateAll s part now fperm t) = true := by
  induction t generalizing s with
  | nil => exact h
  | cons x rest ih =>
    refine canonical_ite (ih h) (ih (canonical_ite (canonical_deliverRisk ?_ part x.1 _) ?_)) <;> exact canonical_frame h (by rfl)

theorem canonical_setRails (h : memoriesCanonical s = true) : memoriesCanonical (setRails s) = true :=
  canonical_foldl_keeps (fun _ _ ht => canonical_frame ht (by rfl)) (canonical_frame h (by rfl)) dieList

theorem canonical_chargeEnergy (h : memoriesCanonical s = true) : memoriesCanonical (chargeEnergy s) = true := canonical_frame h (by rfl)

/-- The governor's fields are none of the memories. -/
theorem canonical_gov (h : memoriesCanonical s = true) (g : Gov) : memoriesCanonical { s with gov := g } = true := canonical_frame h (by rfl)

theorem canonical_epochEnd (h : memoriesCanonical s = true) : memoriesCanonical (epochEnd s) = true := by
  refine canonical_ite h ?_
  extract_lets now s1 gov s2 s3 s4
  have h1 : memoriesCanonical s1 = true := canonical_chargeEnergy h
  clear_value s1
  have h2 : memoriesCanonical s2 = true := canonical_gov h1 _
  have h3 : memoriesCanonical s3 = true := by
    refine canonical_foldl_keeps (fun p t ht => ?_) h2 _
    exact canonical_evaluateAll ht _ _ _ _
  clear_value s3
  have h4 : memoriesCanonical s4 = true := canonical_setRails (canonical_frame h3 (by rfl))
  clear_value s4
  exact canonical_frame h4 (by rfl)

end

end Sys2Proof.Machine
end

section
/-! PROOFS. The host, the ends of an element's act and the ports of the fabric keep the memories in canonical form (O36). -/

namespace Sys2Proof.Machine

open Sys2Proof.Safety

section
variable {s : State}

/-! ## The host (16 R374 to R382) -/

theorem canonical_hostStopped (h : memoriesCanonical s = true) (p : BitVec 6) (x : HostStop) : memoriesCanonical (hostStopped s p x) = true := by
  cases x with
  | refused => exact canonical_frame h (by rfl)
  | pull ipa => exact canonical_wantPull h _ _
  | wait => exact h

theorem canonical_showState (h : memoriesCanonical s = true) (p : BitVec 6) (v : BitVec 3) : memoriesCanonical (showState s p v) = true :=
  canonical_ite h (canonical_frame h (by rfl))

theorem canonical_setModule (h : memoriesCanonical s = true) (n : BitVec 6) (total : BitVec 7) : memoriesCanonical (setModule s n total) = true :=
  canonical_ite h (canonical_mem h (wf_foldl _ (fun _ _ hm => wf_memSet hm _ _) _ wf_nil) rfl)

theorem canonical_setRoute (h : memoriesCanonical s = true) (m : BitVec 6) (k : BitVec 5) : memoriesCanonical (setRoute s m k) = true :=
  canonical_ite h (canonical_frame h (by rfl))

theorem canonical_setSystem (h : memoriesCanonical s = true) (p : BitVec 6) (i : BitVec 16) : memoriesCanonical (setSystem s p i) = true :=
  canonical_ite h (canonical_frame h (by rfl))

theorem canonical_upsetAt (h : memoriesCanonical s = true) (u : Upset) : memoriesCanonical (upsetAt s u) = true := by
  cases u with
  | line n => exact canonical_frame h (by rfl)
  | window w => exact canonical_frame h (by rfl)
  | l1 c n w => exact canonical_updCtx h _ _
  | partition p => exact canonical_ite (canonical_contain h p) h
  | shared => exact canonical_ite (canonical_haltModule h _) h

theorem canonical_restart {mem : List Host.Cell} (hm : Memory.wf mem = true) (s : State) (warm : Bool) :
    memoriesCanonical (restart s mem warm) = true := (canonical_iff _).mpr ⟨hm, wf_nil⟩

theorem canonical_phaseEnd (h : memoriesCanonical s = true) (phase next code : Byte) (ok : Bool) :
    memoriesCanonical (phaseEnd s phase next code ok) = true :=
  canonical_ite h (canonical_ite (canonical_frame h (by rfl)) (canonical_haltModule h _))

/-! ## The end of an element's act (11 R247 to R254) -/

theorem canonical_haltGraph (h : memoriesCanonical s = true) (e input pos : Nat) (cause : BitVec 8) (value : Word) (check kind : BitVec 4) :
    memoriesCanonical (haltGraph s e input pos cause value check kind) = true := by
  unfold haltGraph
  split
  · exact h
  · exact canonical_ite h (canonical_updCtx h _ _)

theorem canonical_sinkProgress (h : memoriesCanonical s = true) (e n : Nat) : memoriesCanonical (sinkProgress s e n) = true := by
  unfold sinkProgress
  split
  · exact h
  · exact canonical_frame h (by rfl)

/-- The state in which tokens are placed has canonical memories. -/
def PlaceCanonical (p : Place) : Prop :=
  match p with
  | .done t => memoriesCanonical t = true
  | .full | .bad _ => True

theorem place_ite {p : Prop} [Decidable p] {a b : Place} (ha : PlaceCanonical a) (hb : PlaceCanonical b) : PlaceCanonical (if p then a else b) := by
  split <;> assumption

theorem place_sendToken (h : memoriesCanonical s = true) (e : Nat) (t : Token) : PlaceCanonical (sendToken s e t) := by
  have hsent : ∀ c p r l n, memoriesCanonical (meterCount (sendPacket s c p r l) n) = true := fun c p r l _ =>
    canonical_frame (canonical_sendPacket h c p r l) (by rfl)
  unfold sendToken
  split
  · trivial
  · refine place_ite h (place_ite trivial ?_)
    split
    · trivial
    · split
      · trivial
      · exact place_ite trivial (place_ite (place_ite trivial (hsent ..)) (place_ite trivial (place_ite trivial (hsent ..))))

theorem place_placeTok (h : memoriesCanonical s = true) (e : Nat) (o : Nat × Token) : PlaceCanonical (placeTok s e o) := by
  unfold placeTok
  refine place_ite ?_ (place_ite trivial ?_)
  · split
    · exact canonical_me h _
    · trivial
  · extract_lets sent
    have hsent : PlaceCanonical sent := by
      refine place_ite h ?_
      split
      · trivial
      · have ht := place_sendToken h e o.2
        split
        · rename_i e1; rw [e1] at ht; exact canonical_me ht _
        · exact ht
    clear_value sent
    split
    · exact canonical_ite (canonical_me hsent _) (canonical_me hsent _)
    · exact hsent

theorem place_placeAll (h : memoriesCanonical s = true) (e : Nat) (seen : List Nat) (outs : List (Nat × Token)) :
    PlaceCanonical (placeAll s e seen outs) := by
  induction outs generalizing s seen with
  | nil => exact h
  | cons o os ih =>
    refine place_ite (ih (canonical_me h _) seen) ?_
    have ht := place_placeTok h e o
    split
    · rename_i e1; rw [e1] at ht; exact ih ht _
    · exact ht

theorem canonical_settle (h : memoriesCanonical s = true) (e : Nat) {a : Act} (ha : ActCanonical a) : memoriesCanonical (settle s e a) = true := by
  unfold settle
  split
  case h_1 => exact h
  case h_2 => exact ha _ h
  case h_3 access =>
    refine canonical_retiring ?_ _ fun u hu => canonical_haltGraph (canonical_frame hu (by rfl)) ..
    cases access with
    | none => exact h
    | some t => exact canonical_counted h t
  case h_4 t outs =>
    have hp := place_placeAll ha e [] outs
    split
    case h_1 e1 => rw [e1] at hp; exact canonical_sinkProgress hp _ _
    case h_2 => exact h
    case h_3 => exact canonical_haltGraph h ..
    case h_4 => exact h

theorem canonical_drainPort (h : memoriesCanonical s = true) (e port : Nat) : memoriesCanonical (drainPort s e port) = true := by
  unfold drainPort
  split
  · exact h
  · exact canonical_settle h e (canonical_me h _)

theorem canonical_flushElem (h : memoriesCanonical s = true) (e : Nat) : memoriesCanonical (flushElem s e) = true :=
  canonical_drainPort (canonical_drainPort (canonical_drainPort h e 0) e 1) e 2

theorem canonical_forwardElem (h : memoriesCanonical s = true) (e : Nat) : memoriesCanonical (forwardElem s e) = true :=
  canonical_ite (canonical_me h _) h

theorem canonical_countFiring (h : memoriesCanonical s = true) (e : Nat) : memoriesCanonical (countFiring s e) = true := by
  have ht := canonical_countEvent (canonical_countEvent (canonical_countWork h) 0x07 1) 0x08 (Config.stallCycles 0x08 s.tick)
  exact canonical_ite h (canonical_ite (canonical_me ht _) ht)

theorem canonical_moveElem (h : memoriesCanonical s = true) (e : Nat) (codes : List Nat) {act : State → Act}
    (hact : ∀ t, memoriesCanonical t = true → ActCanonical (act t)) : memoriesCanonical (moveElem s e codes act) = true := by
  refine canonical_ite h (canonical_ite (canonical_flushElem (canonical_forwardElem h e) e) (canonical_forwardElem ?_ e))
  have h1 : memoriesCanonical { s with me := pullPorts (forwardBuf s.me e) codes } = true := canonical_me h _
  have ha := hact _ h1
  split
  case h_1 e1 => rw [e1] at ha; exact canonical_settle h1 e (canonical_countFiring ha e)
  case h_2 => exact canonical_settle h1 e ha

/-! ## Ports and packets (11 R260 to R266) -/

theorem canonical_countBad (h : memoriesCanonical s = true) (e n : Nat) : memoriesCanonical (countBad s e n) = true :=
  canonical_ite h (canonical_frame h (by rfl))

theorem canonical_portFault (h : memoriesCanonical s = true) (port : Nat) (cause : BitVec 8) (value : Word) :
    memoriesCanonical (portFault s port cause value) = true := canonical_frame h (by rfl)

theorem canonical_haltSpill (h : memoriesCanonical s = true) (port : Nat) (cause : BitVec 8) (value : Word) :
    memoriesCanonical (haltSpill s port cause value) = true := canonical_frame h (by rfl)

theorem canonical_spillToken {kept : State} (h : memoriesCanonical s = true) (hkept : memoriesCanonical kept = true) (port : Nat) (t : Token) :
    memoriesCanonical (spillToken s kept port t) = true := by
  refine canonical_ite hkept (canonical_ite (canonical_haltSpill hkept _ _ _) ?_)
  have hw := stop_bind (stop_engWrite h 1 s.me.fab.spillTail 8 t.val.toNat) fun a (ha : memoriesCanonical a = true) =>
    stop_engWrite ha 1 (s.me.fab.spillTail + 8) 8 (recordTail port t)
  dsimp only
  split
  case h_1 e1 => exact hw.hold e1 _ hkept
  case h_2 => exact canonical_afterFault hkept _ fun _ hu => canonical_haltSpill hu _ _ _
  case h_3 e1 => exact canonical_me (canonical_countEvent (hw.ok e1) 0x0D 1) _

theorem canonical_receiveTok {kept : State} (h : memoriesCanonical s = true) (hkept : memoriesCanonical kept = true) (port : Nat) (t : Token) :
    memoriesCanonical (receiveTok s kept port t) = true :=
  canonical_ite hkept (canonical_ite (canonical_frame h (by rfl)) (canonical_ite hkept (canonical_spillToken h hkept port t)))

theorem canonical_logTok {kept : State} (h : memoriesCanonical s = true) (hkept : memoriesCanonical kept = true) (port : Nat) (t : Token) :
    memoriesCanonical (logTok s kept port t) = true := by
  refine canonical_ite hkept (canonical_ite hkept ?_)
  have h1 := canonical_homeWrite h (areaOf s.me + 16 * logCount s s.me) 16 (t.val.toNat + 2 ^ 64 * recordTail port t)
  refine canonical_me (canonical_ite ?_ h1) _
  exact canonical_mem h1 (wf_memPut ((canonical_iff _).mp h1).1 _ _ _) rfl

theorem canonical_tokenArrival (h : memoriesCanonical s = true) (k : Nat) : memoriesCanonical (tokenArrival k s) = true := by
  unfold tokenArrival
  split
  · split
    · exact canonical_frame h (by rfl)
    · have hkept := canonical_focus (s := dropPacket s k) (canonical_frame h (by rfl))
      have hthere := canonical_focus h
      exact canonical_ite (canonical_ite h (canonical_focus (canonical_receiveTok (hkept _) (hthere _) _ _) _))
        (canonical_ite (canonical_focus (canonical_logTok (hkept _) (hthere _) _ _) _) h)
  · exact h

/-- A spilled token read back. -/
theorem stop_readBack (h : memoriesCanonical s = true) {a : Word} :
    StopCanonical Prod.fst (engRead s 1 a 8 >>= fun x => engRead x.1 1 (a + 8) 8 >>= fun y =>
      .ok (y.1, { kind := BitVec.ofNat 4 y.2.2, val := BitVec.ofNat 64 x.2.2 : Token })) :=
  stop_bind (stop_engRead h _ _ _) fun _ ha => stop_bind (stop_engRead ha _ _ _) fun _ hb => hb

theorem canonical_spillRefill (h : memoriesCanonical s = true) : memoriesCanonical (spillRefill s) = true := by
  unfold spillRefill
  split
  · exact h
  · refine canonical_ite h ?_
    dsimp only
    split
    case h_1 e1 => exact (stop_readBack h).hold e1 _ h
    case h_2 => exact canonical_afterFault h _ fun _ hu => canonical_haltSpill hu _ _ _
    case h_3 e1 => exact canonical_me ((stop_readBack h).ok e1) _

theorem canonical_replayRecord (h : memoriesCanonical s = true) : memoriesCanonical (replayRecord s) = true := by
  unfold replayRecord
  refine canonical_ite h ?_
  split
  · exact h
  · split
    · exact h
    · refine canonical_ite (canonical_ite (canonical_contain h _) (canonical_ite h ?_)) (canonical_portFault (canonical_me h _) _ _ _)
      have h1 := fun n => canonical_l2Touch h s.me.id.part n
      exact canonical_receiveTok (canonical_me (canonical_me (h1 _) _) _) (canonical_me (h1 _) _) _ _

end

end Sys2Proof.Machine
end

section
/-! PROOFS. The elements of the fabric, other than the window units and the stream engines, fire into canonical memories (O36). -/

namespace Sys2Proof.Machine

open Sys2Proof.Safety

section
variable {s : State}

/-! ## What precedes a firing (11 R248 to R250, 12 R269 to R275) -/

/-- A firing that leaves the memories, where that is so by computation. -/
theorem act_frame {t : State} {outs : List (Nat × Token)} (h : memoriesCanonical s = true) (hsame : (t.mem, t.win) = (s.mem, s.win)) :
    ActCanonical (.fire t outs) := canonical_frame h hsame

/-- Heads that are not all there make an element wait or stop. -/
theorem heads_error {c : Ctx} {e : Nat} {slots : List Nat} {a : Act} (ha : headsOf c e slots = .error a) : ActCanonical a := by
  induction slots generalizing a with
  | nil => cases ha
  | cons i is ih =>
    unfold headsOf at ha
    split at ha
    · cases hr : headsOf c e is with
      | error b => rw [hr] at ha; cases ha; exact ih hr
      | ok _ => rw [hr] at ha; cases ha
    · split at ha
      · cases ha; trivial
      · split at ha
        · cases ha; trivial
        · cases ha; trivial
      · cases hr : headsOf c e is with
        | error b => rw [hr] at ha; cases ha; exact ih hr
        | ok _ => rw [hr] at ha; cases ha

theorem act_paired {e : Nat} {slots : List Nat} {k : List (Nat × Option Token) → Token → Act} (hk : ∀ hs t, ActCanonical (k hs t)) :
    ActCanonical (paired s e slots k) := by
  unfold paired
  split
  case h_1 e1 => exact heads_error e1
  case h_2 =>
    split
    · trivial
    · split
      · trivial
      · split
        · trivial
        · exact hk _ _

theorem act_cellFrame (h : memoriesCanonical s = true) {e : Nat} {f : Bool} {k : List (Nat × Option Token) → Token → Act}
    (hk : ∀ hs t, ActCanonical (k hs t)) : ActCanonical (cellFrame s e f k) :=
  act_paired fun hs t => act_ite (act_frame h (by rfl)) (act_ite trivial (act_ite (act_frame h (by rfl)) (hk hs t)))

theorem act_withHead {e slot : Nat} {k : Token → Act} (hk : ∀ t, ActCanonical (k t)) : ActCanonical (withHead s e slot k) := by
  unfold withHead
  split
  case h_1 e1 => exact heads_error e1
  case h_2 => exact hk _
  case h_3 => trivial

theorem act_withControl (h : memoriesCanonical s = true) {e : Nat} {k : Bool → State → Act}
    (hk : ∀ b t, memoriesCanonical t = true → ActCanonical (k b t)) : ActCanonical (withControl s e k) := by
  unfold withControl
  split
  · trivial
  · exact hk _ _ (canonical_me h _)

theorem act_fibreHead {e slot : Nat} {k : Token → Act} (hk : ∀ t, ActCanonical (k t)) : ActCanonical (fibreHead s e slot k) :=
  act_withHead fun t => act_ite trivial (hk t)

/-- An access that fails stops the element. -/
theorem act_stopAt {α : Type} {f : α → State} {p : Stop} {c : Ctx} {e input : Nat} {r : Except Stop α} (hr : StopCanonical f r)
    (he : r = .error p) : ActCanonical (stopAt c e input p) := by
  subst he
  cases p with
  | fault t => trivial
  | hold g => exact hr

theorem act_atA {e : Nat} {r : Except Trap Act} (hr : ∀ a, r = .ok a → ActCanonical a) : ActCanonical (atA s e r) := by
  unfold atA
  split
  · exact hr _ rfl
  · trivial

/-! ## Cells (12 R270 to R277) -/

theorem act_arith (h : memoriesCanonical s = true) (e : Nat) (f : Ctx → Nat → List Nat → FRes) : ActCanonical (arith e f s) :=
  act_cellFrame h fun _ _ => act_ite trivial (act_frame h (by rfl))

theorem act_actPass (h : memoriesCanonical s = true) (e : Nat) : ActCanonical (actPass e s) := act_withHead fun _ => act_frame h (by rfl)

theorem act_actConst (h : memoriesCanonical s = true) (e : Nat) : ActCanonical (actConst e s) := act_cellFrame h fun _ _ => act_frame h (by rfl)

theorem act_actSel (h : memoriesCanonical s = true) (e : Nat) : ActCanonical (actSel e s) := by
  refine act_paired fun _ _ => act_ite (act_frame h (by rfl)) (act_ite trivial ?_)
  split
  · trivial
  · exact act_frame h (by rfl)

theorem act_actCmpx (h : memoriesCanonical s = true) (e : Nat) : ActCanonical (actCmpx e s) := act_cellFrame h fun _ _ => act_frame h (by rfl)

theorem act_compare (h : memoriesCanonical s = true) (e : Nat) (rel : Ctx → Nat → List Nat → Bool × BitVec 5) : ActCanonical (compare e rel s) :=
  act_ite (act_paired fun _ _ => act_ite trivial (act_ite (act_frame h (by rfl)) (act_ite (act_frame h (by rfl)) (act_ite trivial (act_frame h (by rfl))))))
    (act_arith h e _)

theorem act_actUnp3 (h : memoriesCanonical s = true) (e : Nat) : ActCanonical (actUnp3 e s) := by
  have htaken : memoriesCanonical (takeCell s e) = true := canonical_frame h (by rfl)
  refine act_cellFrame h fun _ _ => ?_
  dsimp only
  split
  · exact act_ite trivial (canonical_countBad htaken e _)
  · exact htaken

/-! ## Grouping cells (12 R275 to R277) -/

/-- What a grouping cell does with a datum leaves canonical memories, or ends the act. -/
def DataCanonical (r : Except Act (State × ElemSt)) : Prop :=
  match r with
  | .ok (t, _) => memoriesCanonical t = true
  | .error a => ActCanonical a

theorem data_frame {t : State} {x : ElemSt} (h : memoriesCanonical s = true) (hsame : (t.mem, t.win) = (s.mem, s.win)) :
    DataCanonical (.ok (t, x)) := canonical_frame h hsame

theorem data_ite {p : Prop} [Decidable p] {a b : Except Act (State × ElemSt)} (ha : DataCanonical a) (hb : DataCanonical b) :
    DataCanonical (if p then a else b) := by split <;> assumption

theorem act_groupFrame (h : memoriesCanonical s = true) {e : Nat} {f : Bool} {result : ElemSt → Token}
    {k : List (Nat × Option Token) → Token → ElemSt → Except Act (State × ElemSt)} (hk : ∀ hs t x, DataCanonical (k hs t x)) :
    ActCanonical (groupFrame s e f result k) := by
  have hfire : ∀ (t : State) (needs : List Nat) (y : ElemSt) (outs : List (Nat × Token)), memoriesCanonical t = true →
      ActCanonical (.fire (setElem (consume t e needs) e y) outs) := fun _ _ _ _ ht => act_frame ht (by rfl)
  refine act_paired fun hs t => act_ite (hfire _ _ _ _ h) (act_ite (hfire _ _ _ _ h) (act_ite (hfire _ _ _ _ h)
    (act_ite (hfire _ _ _ _ h) (act_ite trivial (act_ite (hfire _ _ _ _ h) ?_)))))
  have hd := hk hs t { elemOf s.me e with isOpen := true, afterG := false, phase := if t.kind = 1#4 then 2 else 1 }
  split
  case h_1 e1 => rw [e1] at hd; exact hd
  case h_2 e1 => rw [e1] at hd; exact hfire _ _ _ _ hd

theorem act_actTacc (h : memoriesCanonical s = true) (e : Nat) : ActCanonical (actTacc e s) := by
  refine act_groupFrame h fun hs t x => ?_
  dsimp only
  split
  · trivial
  · exact canonical_countBad h _ _

theorem act_actRed (h : memoriesCanonical s = true) (e : Nat) : ActCanonical (actRed e s) := by
  unfold actRed
  exact act_groupFrame h fun _ _ _ => data_ite trivial (data_frame h (by rfl))

theorem act_actCsum (h : memoriesCanonical s = true) (e : Nat) : ActCanonical (actCsum e s) := by
  unfold actCsum
  exact act_groupFrame h fun _ _ _ => data_frame h (by rfl)

/-! ## Memory nodes and taps (12 R278 to R283) -/

theorem act_nodeFrame (h : memoriesCanonical s = true) {e : Nat} {k : List (Nat × Option Token) → State → Except Stop (State × NodeOp)}
    (hk : ∀ hs, StopCanonical Prod.fst (k hs s)) : ActCanonical (nodeFrame s e k) := by
  refine act_paired fun hs t => act_ite trivial (act_ite (act_frame h (by rfl)) (act_ite trivial ?_))
  split
  case h_1 e1 => exact act_stopAt (hk hs) e1
  case h_2 e1 => exact act_frame ((hk hs).ok e1) (by rfl)

theorem act_actMld (h : memoriesCanonical s = true) (e : Nat) : ActCanonical (actMld e s) :=
  act_nodeFrame h fun _ => stop_bind (stop_spaceRead h ..) fun _ ht => ht

theorem act_actMst (h : memoriesCanonical s = true) (e : Nat) : ActCanonical (actMst e s) :=
  act_nodeFrame h fun _ => stop_bind (stop_spaceWrite h ..) fun _ ht => canonical_me ht _

theorem stop_spaceRmw (h : memoriesCanonical s = true) (pr : BitVec 2) (window : Bool) (va : Word) (size : Nat) (fn : BitVec 4) (x : Word) :
    StopCanonical Prod.fst (spaceRmw s pr window va size fn x) := by
  refine stop_ite (stop_bind (stop_engWin h va size nodeTags) fun _ _ => stop_ite trivial (canonical_winPut h ..)) ?_
  exact stop_bind (stop_engXlat h ..) fun _ ht => stop_ite trivial (stop_ite (canonical_homeWrite ht ..) Keeps.id)

theorem act_actMatom (h : memoriesCanonical s = true) (e : Nat) : ActCanonical (actMatom e s) :=
  act_nodeFrame h fun _ => stop_bind (stop_spaceRmw h ..) fun _ ht => ht

theorem act_actNodeResult (h : memoriesCanonical s = true) (e : Nat) : ActCanonical (actNodeResult e s) := by
  unfold actNodeResult
  split
  · exact act_ite (act_frame h (by rfl)) trivial
  · trivial

theorem act_actOrd (h : memoriesCanonical s = true) (e : Nat) : ActCanonical (actOrd e s) := act_paired fun _ _ => act_frame h (by rfl)

theorem act_actWtap (h : memoriesCanonical s = true) (e : Nat) : ActCanonical (actWtap e s) := by
  unfold actWtap
  dsimp only
  split
  · trivial
  · exact act_ite trivial (act_ite (act_frame h (by rfl)) (act_ite trivial (act_frame h (by rfl))))

/-! ## Routers (12 R284 to R288) -/

theorem act_actRoute (h : memoriesCanonical s = true) (e : Nat) : ActCanonical (actRoute e s) := act_withHead fun _ => act_frame h (by rfl)

theorem act_actSteer (h : memoriesCanonical s = true) (e : Nat) : ActCanonical (actSteer e s) :=
  act_withHead fun _ => act_ite (act_frame h (by rfl)) (act_ite (act_frame h (by rfl)) (act_ite
    (act_withControl h fun _ _ ht => act_ite trivial (act_frame ht (by rfl))) (act_ite (act_withControl h fun _ _ ht => act_frame ht (by rfl)) (act_frame h (by rfl)))))

theorem act_actMerge (h : memoriesCanonical s = true) (e : Nat) : ActCanonical (actMerge e s) := by
  unfold actMerge
  refine act_ite (act_paired fun _ _ => act_ite (act_frame h (by rfl)) trivial) ?_
  extract_lets byControl
  have hby : ActCanonical byControl := act_withControl h fun b t ht => act_ite
    (act_withHead fun _ => act_ite (act_frame ht (by rfl)) trivial) (act_withHead fun _ => act_ite (act_frame ht (by rfl)) trivial)
  clear_value byControl
  split
  case h_1 => exact act_ite trivial hby
  case h_2 e1 => exact heads_error e1
  case h_3 =>
    refine act_ite (act_frame h (by rfl)) (act_ite (act_withHead fun _ => ?_) hby)
    exact act_ite (act_ite (act_frame h (by rfl)) trivial) (act_ite (act_frame h (by rfl)) trivial)
  case h_4 => trivial

theorem act_actCarry (h : memoriesCanonical s = true) (e : Nat) : ActCanonical (actCarry e s) := by
  unfold actCarry
  extract_lets x go back entry
  have hgo : ∀ (t : State) y outs, memoriesCanonical t = true → ActCanonical (go t y outs) := fun _ _ _ ht => act_frame ht (by rfl)
  have hback : ActCanonical back := act_withHead fun _ => act_ite (act_frame h (by rfl)) trivial
  have hentry : ActCanonical entry := by
    clear_value go
    refine act_ite (act_withHead fun _ => act_ite (hgo _ _ _ (canonical_frame h (by rfl))) trivial) (act_ite
      (act_withControl h fun _ _ ht => hgo _ _ _ ht) (act_ite ?_ (act_ite ?_ (act_ite ?_ (act_ite ?_ ?_)))))
    · exact act_withHead fun _ => act_withControl h fun _ _ ht => act_ite trivial (hgo _ _ _ (canonical_frame ht (by rfl)))
    · exact act_withHead fun _ => act_ite (hgo _ _ _ (canonical_frame h (by rfl))) trivial
    · exact act_withHead fun _ => act_ite (hgo _ _ _ (canonical_frame h (by rfl))) trivial
    · exact act_withHead fun _ => act_ite (hgo _ _ _ (canonical_frame h (by rfl))) trivial
    · exact act_withHead fun _ => act_ite (hgo _ _ _ (canonical_frame h (by rfl))) (act_ite (hgo _ _ _ h)
        (act_ite (hgo _ _ _ (canonical_frame h (by rfl))) (hgo _ _ _ (canonical_frame h (by rfl)))))
  clear_value back entry
  split
  · exact hback
  · exact hentry

end

end Sys2Proof.Machine
end

section
/-! PROOFS. The fibre elements, the window units and the stream engines fire into canonical memories (O36). -/

namespace Sys2Proof.Machine

open Sys2Proof.Safety

section
variable {s : State}

/-! ## Fibre elements (12 R289 to R294) -/

theorem act_scanHead {e : Nat} {k : Token → Act} (hk : ∀ t, ActCanonical (k t)) : ActCanonical (scanHead s e k) :=
  act_ite (act_fibreHead hk) (act_ite (act_ite (hk _) (act_ite (hk _) (hk _))) (act_ite (hk _) trivial))

theorem canonical_scanTake (h : memoriesCanonical s = true) (e : Nat) (t : Token) : memoriesCanonical (scanTake s e t) = true :=
  canonical_ite (canonical_frame h (by rfl)) (canonical_ite (canonical_frame h (by rfl)) (canonical_ite (canonical_frame h (by rfl))
    (canonical_ite (canonical_frame h (by rfl)) (canonical_frame h (by rfl)))))

/-- The acts among which a bounds check chooses. -/
def ReadCanonical (r : Except Trap Act) : Prop := ∀ a, r = .ok a → ActCanonical a

theorem read_ite {p : Prop} [Decidable p] {a b : Except Trap Act} (ha : ReadCanonical a) (hb : ReadCanonical b) :
    ReadCanonical (if p then a else b) := by split <;> assumption

theorem read_error (t : Trap) : ReadCanonical (.error t) := fun _ ha => by cases ha

theorem read_ok {a : Act} (ha : ActCanonical a) : ReadCanonical (.ok a) := fun _ hb => by cases hb; exact ha

theorem read_bind {α : Type} {r : Except Trap α} {k : α → Except Trap Act} (hk : ∀ a, ReadCanonical (k a)) : ReadCanonical (r >>= k) := by
  cases r with
  | ok a => exact hk a
  | error t => exact read_error t

theorem act_actScan (h : memoriesCanonical s = true) (e : Nat) : ActCanonical (actScan e s) := by
  unfold actScan
  extract_lets x n done
  have hdone : ∀ t outs, ActCanonical (done t outs) := fun t outs => act_frame (canonical_scanTake h e t) (by rfl)
  clear_value done
  refine act_scanHead fun t => act_ite (act_ite (act_ite trivial (hdone _ _)) (hdone _ _)) (act_ite (hdone _ _) ?_)
  extract_lets p step
  have hstep : ∀ j last first, ReadCanonical (step j last first) := fun j last first =>
    read_ite (read_ok (hdone _ _)) (read_bind fun _ => read_ite
      (read_bind fun _ => read_ite (read_error _) (read_ok (act_frame h (by rfl))))
      (read_bind fun _ => read_ite (read_error _) (read_ok (act_frame h (by rfl)))))
  clear_value step
  exact act_atA (read_ite (read_bind fun _ => hstep _ _ _) (read_ite (read_error _) (read_bind fun _ => read_bind fun _ => read_bind fun _ =>
    read_ite (read_error _) (hstep _ _ _))))

theorem act_actJoin (h : memoriesCanonical s = true) (union : Bool) (e : Nat) : ActCanonical (actJoin union e s) := by
  unfold actJoin
  extract_lets x go both some2
  have hgo : ∀ slots y outs, ActCanonical (go slots y outs) := fun _ _ _ => act_frame h (by rfl)
  have hsome : ∀ slots c a b, ActCanonical (some2 slots c a b) := fun _ _ _ _ => hgo _ _ _
  clear_value some2 go
  refine act_fibreHead fun a => act_fibreHead fun b => act_ite ?_ (act_ite ?_ (act_ite ?_ (act_ite trivial (act_ite (hgo _ _ _) (hgo _ _ _)))))
  · exact act_ite (act_ite (hsome _ _ _ _) (hgo _ _ _)) (act_ite (act_ite (hsome _ _ _ _) (hgo _ _ _))
      (act_ite (hgo _ _ _) (hsome _ _ _ _)))
  · exact act_ite (hsome _ _ _ _) (hgo _ _ _)
  · exact act_ite (hsome _ _ _ _) (hgo _ _ _)

theorem act_actRepeat (h : memoriesCanonical s = true) (e : Nat) : ActCanonical (actRepeat e s) := by
  refine act_fibreHead fun b => act_ite (act_frame h (by rfl)) (act_fibreHead fun a => act_ite (act_ite (act_frame h (by rfl)) trivial) (act_ite ?_
    (act_ite (act_frame h (by rfl)) trivial)))
  exact act_ite (act_ite (act_frame h (by rfl)) (act_frame h (by rfl))) (act_ite (act_frame h (by rfl)) (act_ite (act_frame h (by rfl)) trivial))

theorem act_actLookup (h : memoriesCanonical s = true) (e : Nat) : ActCanonical (actLookup e s) :=
  act_fibreHead fun _ => act_ite (act_frame h (by rfl)) (act_ite (act_frame h (by rfl)) (act_atA (read_bind fun _ => read_ite (read_error _)
    (read_ok (act_frame h (by rfl))))))

theorem act_fredB {e : Nat} {want : Token → Bool} {k : Option Token → Act} (hk : ∀ b, ActCanonical (k b)) : ActCanonical (fredB s e want k) :=
  act_ite (hk _) (act_fibreHead fun _ => act_ite (hk _) trivial)

theorem act_actFred (h : memoriesCanonical s = true) (e : Nat) : ActCanonical (actFred e s) := by
  unfold actFred
  extract_lets x w what hasB slotB isElem result closed go
  have hgo : ∀ slots y ts, ActCanonical (go slots y ts) := fun _ _ _ => act_frame h (by rfl)
  clear_value go
  refine act_fibreHead fun t => act_ite (act_fredB fun _ => hgo _ _ _) (act_ite (act_ite (act_fredB fun _ => hgo _ _ _)
    (act_fredB fun _ => hgo _ _ _)) (act_ite (act_ite (act_fredB fun _ => hgo _ _ _) ?_) (act_ite (hgo _ _ _) (act_ite trivial (act_frame h (by rfl))))))
  split
  · exact hgo _ _ _
  · exact act_fredB fun _ => hgo _ _ _

/-- Words written to arrays in window memory, where there is no fault. -/
theorem canonical_fwriteWords (h : memoriesCanonical s = true) {e : Nat} {ws : List (Nat × Nat × Nat)} {t : State}
    (ht : fwriteWords s e ws = .ok t) : memoriesCanonical t = true := by
  unfold fwriteWords at ht
  cases hm : ws.mapM (fun w => (arrayAt s.me w.1 w.2.1 4 [3]).map (fun a => (a, w.2.2))) with
  | error f => rw [hm] at ht; cases ht
  | ok as =>
    rw [hm] at ht
    cases ht
    exact canonical_me (canonical_foldl_keeps (fun _ _ hu => canonical_winPut hu ..) h as) _

theorem act_actFwrite (h : memoriesCanonical s = true) (e : Nat) : ActCanonical (actFwrite e s) := by
  unfold actFwrite
  extract_lets x level close seg crd off write
  have hwords : ∀ (ws : List (Nat × Nat × Nat)) (k : State → Act), (∀ t, memoriesCanonical t = true → ActCanonical (k t)) →
      ActCanonical (atA s e ((fwriteWords s e ws).map k)) := fun ws k hk => act_atA fun a ha => by
    cases hw : fwriteWords s e ws with
    | error f => rw [hw] at ha; cases ha
    | ok t => rw [hw] at ha; cases ha; exact hk t (canonical_fwriteWords h hw)
  have hwrite : ∀ ws y, ActCanonical (write ws y) := fun ws y => hwords ws _ fun _ ht => act_frame ht (by rfl)
  clear_value write
  exact act_ite trivial (act_fibreHead fun t => act_ite (hwrite _ _) (act_ite (hwords _ _ fun _ ht => act_frame ht (by rfl))
    (act_ite (act_ite (act_frame h (by rfl)) (hwrite _ _)) (act_ite (act_frame h (by rfl)) (hwrite _ _)))))

/-! ## Window units (12 R280 to R283) -/

theorem act_emitTap (h : memoriesCanonical s = true) (e : Nat) : ActCanonical (emitTap e s) := by
  unfold emitTap
  refine act_ite trivial ?_
  split
  · trivial
  · exact canonical_ite (canonical_frame h (by rfl)) (canonical_frame h (by rfl))

theorem canonical_lineWrite (h : memoriesCanonical s = true) (r : Region) (sh : Shape) (w : Win) (x : Nat) (vs : List Word) :
    memoriesCanonical (lineWrite s r sh w x vs) = true :=
  canonical_foldl_keeps (fun _ _ ht => canonical_ite (canonical_winPut ht ..) ht) h _

theorem act_winData (h : memoriesCanonical s = true) (e : Nat) (t : Token) : ActCanonical (winData e s t) := by
  have hline := fun r sh w x vs => canonical_lineWrite h r sh w x vs
  unfold winData
  refine act_ite trivial ?_
  split
  · trivial
  · exact act_frame (hline ..) (by rfl)

theorem rowFault_canonical {e : Nat} {sh : Shape} {w : Win} {n : Nat} {a : Act} (ha : rowFault s e sh w n = some a) : ActCanonical a := by
  unfold rowFault at ha
  dsimp only at ha
  split_ifs at ha <;> cases ha <;> trivial

theorem planeFault_canonical {e : Nat} {sh : Shape} {n : Nat} {a : Act} (ha : planeFault s e sh n = some a) : ActCanonical a := by
  unfold planeFault at ha
  split_ifs at ha
  cases ha
  trivial

theorem act_winStop (h : memoriesCanonical s = true) (e : Nat) (t : Token) : ActCanonical (winStop e s t) := by
  unfold winStop
  extract_lets w sh fire level afterRow
  have hfire : ∀ v, ActCanonical (fire v) := fun _ => act_frame h (by rfl)
  have hplane : ∀ n v, ActCanonical (match planeFault s e sh n with
      | some a => a
      | none => fire v) := fun n v => by
    split
    case h_1 e1 => exact planeFault_canonical e1
    case h_2 => exact hfire v
  clear_value fire
  refine act_ite ?_ (act_ite (hfire _) (act_ite (hfire _) (hplane _ _)))
  extract_lets
  split
  case h_1 e1 => exact rowFault_canonical e1
  case h_2 => exact act_ite (hfire _) (hplane _ _)

theorem act_winX (h : memoriesCanonical s = true) (e : Nat) (t : Token) : ActCanonical (winX e s t) := act_ite (act_frame h (by rfl)) (act_frame h (by rfl))

theorem act_actLqw (h : memoriesCanonical s = true) (e : Nat) : ActCanonical (actLqw e s) := by
  unfold actLqw
  refine act_ite (act_emitTap h e) ?_
  split
  case h_1 e1 => exact heads_error e1
  case h_3 => trivial
  case h_2 =>
    refine act_ite trivial (act_ite (act_winData h e _) (act_ite (act_winStop h e _) (act_ite (act_frame h (by rfl)) (act_ite ?_ (act_winX h e _)))))
    refine act_ite (act_frame h (by rfl)) ?_
    split
    case h_1 e1 => exact planeFault_canonical e1
    case h_2 => exact act_frame h (by rfl)

end

end Sys2Proof.Machine
end

section
/-! PROOFS. The stream engines and the configuration of graphs keep the memories in canonical form (O36). -/

namespace Sys2Proof.Machine

open Sys2Proof.Safety

section
variable {s : State}

/-! ## Stream engines (09 R201 to R209) -/

theorem stop_readElem (h : memoriesCanonical s = true) (e n i : Nat) : StopCanonical Prod.fst (readElem s e n i) := stop_spaceRead h ..

theorem stop_packFrom (h : memoriesCanonical s = true) (e n i k : Nat) : StopCanonical Prod.fst (packFrom s e n i k) := by
  induction k with
  | zero => exact h
  | succ k ih =>
    refine stop_bind ih fun _ ht => stop_bind (stop_readElem ht e n _) fun _ hu => ?_
    dsimp only
    split
    · trivial
    · exact hu

theorem stop_streamElem (h : memoriesCanonical s = true) (e n j : Nat) : StopCanonical Prod.fst (streamElem s e n j) := by
  refine stop_ite (stop_bind (stop_packFrom h ..) fun _ ht => ht) (stop_ite ?_ (stop_readElem h ..))
  exact stop_bind (stop_readElem h ..) fun _ ht => stop_ite ht (stop_ite trivial (canonical_ite (canonical_countBad ht _ _) ht))

theorem stop_streamLanes (h : memoriesCanonical s = true) (e n j k : Nat) : StopCanonical Prod.fst (streamLanes s e n j k) := by
  induction k with
  | zero => exact h
  | succ k ih => exact stop_bind ih fun _ ht => stop_bind (stop_streamElem ht e n _) fun _ hu => hu

theorem canonical_injectTok (h : memoriesCanonical s = true) (e : Nat) (far : Bool) (v : Word) : memoriesCanonical (injectTok s e far v).1 = true := by
  unfold injectTok
  dsimp only
  split
  · exact canonical_me h _
  · exact h

theorem act_strmEnd {α : Type} {f : α → State} {p : Stop} {c : Ctx} {e n : Nat} {r : Except Stop α} (hr : StopCanonical f r)
    (he : r = .error p) : ActCanonical (strmEnd c e n p) := by
  subst he
  cases p with
  | fault t => trivial
  | hold g => exact hr

theorem act_fetchTok (h : memoriesCanonical s = true) (e n : Nat) (t : Token) (x : Strm) : ActCanonical (fetchTok s e n t x) :=
  act_frame h (by rfl)

theorem act_actFetch (h : memoriesCanonical s = true) (e n : Nat) : ActCanonical (actFetch e n s) := by
  have hfetch := act_fetchTok h e n
  refine act_ite trivial (act_ite (hfetch _ _) (act_ite (hfetch _ _) (act_ite (hfetch _ _) (act_ite (hfetch _ _) ?_))))
  extract_lets k
  have hr := stop_streamLanes h e n (strmOf s.me e n).next k
  split
  case h_1 e1 => exact act_strmEnd hr e1
  case h_2 e1 => exact act_fetchTok (canonical_injectTok (hr.ok e1) e _ _) e n _ _

theorem act_actDeliver (h : memoriesCanonical s = true) (e n : Nat) : ActCanonical (actDeliver e n s) := by
  unfold actDeliver
  split
  · trivial
  · exact act_ite trivial (canonical_ite (canonical_frame h (by rfl)) (canonical_frame h (by rfl)))

theorem act_actRead (h : memoriesCanonical s = true) (e n : Nat) : ActCanonical (actRead e n s) := by
  unfold actRead
  split
  · exact act_actFetch h e n
  · exact act_actDeliver h e n

theorem act_strmHead {e n : Nat} {k : Token → Act} (hk : ∀ t, ActCanonical (k t)) : ActCanonical (strmHead s e n k) := by
  unfold strmHead
  split
  · trivial
  · split
    · trivial
    · exact hk _

theorem canonical_strmTake (h : memoriesCanonical s = true) (e n : Nat) (t : Token) : memoriesCanonical (strmTake s e n t) = true := canonical_me h _

theorem stop_writeElems (h : memoriesCanonical s = true) (e n i : Nat) (vs : List Nat) : StopCanonical id (writeElems s e n i vs) := by
  induction vs generalizing s i with
  | nil => exact h
  | cons v vs ih => exact stop_bind (stop_spaceWrite h ..) fun _ ht => ih ht _

theorem act_actWrite (h : memoriesCanonical s = true) (e n : Nat) : ActCanonical (actWrite e n s) := by
  unfold actWrite
  extract_lets x c fire runs wide
  have hfire : ∀ t (u : State) y, memoriesCanonical u = true → ActCanonical (fire t u y) := fun t _ _ hu => act_frame (canonical_strmTake hu e n t) (by rfl)
  clear_value fire
  refine act_strmHead fun t => act_ite (hfire _ _ _ h) (act_ite (hfire _ _ _ (canonical_frame h (by rfl))) (act_ite (act_ite trivial (hfire _ _ _ h))
    (act_ite trivial (act_ite trivial (act_ite trivial ?_)))))
  split
  · trivial
  · extract_lets vs
    have hr := stop_writeElems h e n (x.run * wide + x.next) vs
    split
    case h_1 e1 => exact act_strmEnd hr e1
    case h_2 e1 => exact act_ite (hfire _ _ _ (hr.ok e1)) (hfire _ _ _ (canonical_countBad (canonical_me (hr.ok e1) _) _ _))

theorem act_actGather (h : memoriesCanonical s = true) (e n : Nat) : ActCanonical (actGather e n s) := by
  unfold actGather
  extract_lets x c rs emit
  have hemit : ∀ t out (u : State) y, memoriesCanonical u = true → ActCanonical (emit t out u y) := fun t _ _ _ hu =>
    canonical_ite (canonical_frame (canonical_strmTake hu e n t) (by rfl)) (canonical_frame (canonical_strmTake hu e n t) (by rfl))
  clear_value emit
  refine act_ite trivial (act_strmHead fun t => act_ite trivial (act_ite ?_ (hemit _ _ _ _ h)))
  have hr := stop_spaceRead h (graphPriv s (engineElem e)) (strmWindow c e n) (strmTags c e n)
    (strmBase c e n + BitVec.ofNat 64 (strmSize c e n * t.value.toNat)) (strmSize c e n)
  split
  case h_1 e1 => exact act_strmEnd hr e1
  case h_2 e1 => exact hemit _ _ _ _ (hr.ok e1)

theorem canonical_storeAck (h : memoriesCanonical s = true) (e : Nat) : memoriesCanonical (storeAck e s) = true := by
  refine canonical_ite ?_ (canonical_ite h (canonical_frame h (by rfl)))
  dsimp only
  split
  · exact h
  · exact canonical_frame h (by rfl)

/-! ## Configuration and graphs (04 R84 to R95, 12 R295 to R300) -/

theorem canonical_applyRegion (h : memoriesCanonical s = true) (old c : Ctx) (n : Nat) : memoriesCanonical (applyRegion s old c n) = true := by
  have hu := fun f => canonical_updCtx h c.id f
  refine canonical_ite (hu _) (canonical_ite ?_ (hu _))
  have hw := wf_scramble ((canonical_iff _).mp (hu fun d => { d with fab.cfg := c.fab.cfg, fab.swizzled := old.fab.swizzled.filter (· ≠ n) })).1
    ((canonical_iff _).mp (hu fun d => { d with fab.cfg := c.fab.cfg, fab.swizzled := old.fab.swizzled.filter (· ≠ n) })).2 c (region c n)
  exact (canonical_iff _).mpr hw

theorem canonical_claimElem (h : memoriesCanonical s = true) (old c : Ctx) (e : Nat) : memoriesCanonical (claimElem s old c e) = true := by
  have hu := fun f => canonical_updCtx h c.id f
  exact canonical_ite h (canonical_ite (canonical_frame (hu _) (by rfl)) (hu _))

/-- A configuration word applied leaves canonical memories. -/
def AppliedCanonical (r : Applied) : Prop :=
  match r with
  | .ok t => memoriesCanonical t = true
  | .bad | .wait => True

theorem applied_ite {p : Prop} [Decidable p] {a b : Applied} (ha : AppliedCanonical a) (hb : AppliedCanonical b) :
    AppliedCanonical (if p then a else b) := by split <;> assumption

theorem applied_applyWord (h : memoriesCanonical s = true) (id : CtxId) (w : BitVec 32) : AppliedCanonical (applyWord s id w) := by
  unfold applyWord
  split
  · trivial
  · refine applied_ite trivial (applied_ite (canonical_updCtx h _ _) (applied_ite ?_ (applied_ite ?_ (applied_ite trivial ?_))))
    · exact applied_ite trivial (canonical_applyRegion h _ _ _)
    · exact applied_ite trivial trivial
    · exact canonical_claimElem (canonical_updCtx h _ _) _ _ _

/-- A word of a stream read leaves canonical memories. -/
def LoadedCanonical (r : Loaded) : Prop :=
  match r with
  | .word t _ => memoriesCanonical t = true
  | .trap f => ResultCanonical (.error f)
  | .stall t => memoriesCanonical t = true

theorem loaded_streamWord (h : memoriesCanonical s = true) (va : Word) : LoadedCanonical (streamWord s va) := by
  have ha := acc_access (s := { s with me.stalled := false }) (canonical_frame h (by rfl)) (priv s) va 4 needRead
  unfold streamWord
  split
  case h_1 e1 => rw [e1] at ha; exact ha
  case h_2 e1 => rw [e1] at ha; exact canonical_frame (s := _) ha (by rfl)
  case h_3 t pa e1 =>
    rw [e1] at ha
    split
    · exact canonical_contain ha _
    · have hp : ResultCanonical (plainAccess t va pa 4 false fun u => .ok (l1Read u pa 4 false).1) :=
        result_plainAccess ha fun u hu => canonical_l1Read hu _ _ _
      split
      case h_1 e2 => rw [e2] at hp; exact hp
      case h_2 e2 =>
        rw [e2] at hp
        split
        · exact hp
        · exact hp

/-- A stream of configuration words leaves canonical memories, and so has the state in which a walk has left its fault. -/
def StreamCanonical (r : State × Option (Option Trap)) : Prop :=
  memoriesCanonical r.1 = true ∧ ∀ f, r.2 = some (some f) → ResultCanonical (.error f)

theorem stream_of_state {r : Option (Option Trap)} (h : memoriesCanonical s = true) (hr : ∀ f, r = some (some f) → f.base = none) :
    StreamCanonical (s, r) := ⟨h, fun f hf => result_trap f (hr f hf)⟩

theorem stream_applyStream (h : memoriesCanonical s = true) (cores : List CoreId) (va : Word) (i : Nat) (here : CoreId) (n : Nat) :
    StreamCanonical (applyStream cores va i here s n) := by
  induction n generalizing s va i here with
  | zero => exact stream_of_state h fun _ hf => by cases hf
  | succ n ih =>
    have hw := loaded_streamWord h va
    unfold applyStream
    split
    case h_1 e1 => rw [e1] at hw; exact ⟨h, fun f hf => by cases hf; exact hw⟩
    case h_2 e1 => rw [e1] at hw; exact stream_of_state hw fun _ hf => by cases hf
    case h_3 t w e1 =>
      rw [e1] at hw
      have hbad : ∀ v, StreamCanonical (t, some (some { cause := 0x0F, value := v })) := fun _ => stream_of_state hw fun _ hf => by cases hf; rfl
      dsimp only
      split
      · split
        · exact hbad _
        · exact ih hw _ _ _
      · have ha := applied_applyWord hw (cfgCtx t here) w
        split
        case h_1 => exact hbad _
        case h_2 => exact stream_of_state (canonical_frame hw (by rfl)) fun _ hf => by cases hf
        case h_3 e2 => rw [e2] at ha; exact ih ha _ _ _

/-! ## The life of a graph (12 R297 to R301, 01 R16 to R19) -/

theorem canonical_freeGraphId (h : memoriesCanonical s = true) (g : BitVec 4) : memoriesCanonical (freeGraphId s g) = true := canonical_frame h (by rfl)

theorem canonical_reportGraph (h : memoriesCanonical s = true) (g : BitVec 4) (r : Graph) : memoriesCanonical (reportGraph s g r) = true :=
  canonical_ite (canonical_updCtx (canonical_freeGraphId h g) _ _) (canonical_ite (canonical_frame h (by rfl)) (canonical_ite h (canonical_freeGraphId h g)))

theorem canonical_completeGraph (h : memoriesCanonical s = true) (g : BitVec 4) : memoriesCanonical (completeGraph s g) = true := by
  unfold completeGraph
  split
  · exact h
  · exact canonical_ite (canonical_reportGraph h g _) (canonical_ite (canonical_frame h (by rfl)) h)

theorem canonical_abortGraph (h : memoriesCanonical s = true) (g : BitVec 4) : memoriesCanonical (abortGraph s g) = true :=
  canonical_freeGraphId (canonical_frame h (by rfl)) g

theorem canonical_settled (h : memoriesCanonical s = true) (g : BitVec 4) : memoriesCanonical (settled s g) = true := by
  unfold settled
  split
  · exact h
  · exact canonical_ite (canonical_reportGraph h g _) (canonical_ite (canonical_reportGraph h g _) h)

end

end Sys2Proof.Machine
end

section
/-! PROOFS. The matrix array and the token boundary keep the memories in canonical form (O36). -/

namespace Sys2Proof.Machine

open Sys2Proof.Safety

section
variable {s : State}

/-! ## Matrix commands (07 R142 to R157) -/

theorem result_withClaim {k : Geo → Except Trap State} (hk : ∀ g, ResultCanonical (k g)) : ResultCanonical (withClaim s k) :=
  result_ite (result_configFault _) (hk _)

theorem result_withRange {g : Geo} {w : Word} {k : Except Trap State} (hk : ResultCanonical k) : ResultCanonical (withRange g w k) :=
  result_ite hk (result_configFault _)

theorem result_enqueue (h : memoriesCanonical s = true) {op : MxOp} {a b c : Word} : ResultCanonical (enqueue s op a b c) :=
  result_ite (canonical_frame h (by rfl)) (canonical_frame h (by rfl))

/-- What the check of an extent finds is a fault that no walk led to. -/
theorem base_extentCheck {c : Ctx} {va : Word} {n align : Nat} {t : Trap} (ht : extentCheck c va n align = some t) : t.base = none := by
  unfold extentCheck at ht
  split_ifs at ht
  · cases ht; rfl
  · cases ht; rfl
  · exact base_winCheck ht

theorem result_withExtents {c : Ctx} {es : List (Word × Nat × Nat)} {k : Except Trap State} (hk : ResultCanonical k) :
    ResultCanonical (withExtents c es k) := by
  unfold withExtents
  split
  case h_1 t e1 =>
    obtain ⟨x, -, hx⟩ := List.exists_of_findSome?_eq_some e1
    exact result_trap t (base_extentCheck hx)
  case h_2 => exact hk

theorem result_mxcfgFault (h : memoriesCanonical s = true) (v : Word) : ResultCanonical (mxcfgFault s v) :=
  result_ite (result_configFault _) (result_ite (canonical_frame h (by rfl)) (result_ite (result_configFault _) (canonical_frame h (by rfl))))

theorem result_mxcfgAll (h : memoriesCanonical s = true) (v : Word) : ResultCanonical (mxcfgAll s v) :=
  result_ite (result_configFault _) (result_ite (canonical_frame h (by rfl)) (result_ite (result_configFault _) (result_ite (result_configFault _)
    (canonical_frame h (by rfl)))))

theorem canonical_haltQueue (h : memoriesCanonical s = true) (i : Nat) (t : Trap) (fl : BitVec 5) : memoriesCanonical (haltQueue s i t fl) = true := by
  unfold haltQueue
  split
  · exact h
  · exact canonical_retiring (canonical_frame h (by rfl)) _ fun _ hu => canonical_me hu _

theorem canonical_startCommand (h : memoriesCanonical s = true) : memoriesCanonical (startCommand s) = true := by
  unfold startCommand
  dsimp only
  split
  · exact h
  · refine canonical_ite h ?_
    split
    · exact canonical_haltQueue h _ _ _
    · exact canonical_frame h (by rfl)

theorem canonical_updCmd (h : memoriesCanonical s = true) (i : Nat) (f : MxCmd → MxCmd) : memoriesCanonical (updCmd s i f) = true := canonical_frame h (by rfl)

theorem canonical_enterItem (h : memoriesCanonical s = true) (x : MxItem) : memoriesCanonical (enterItem s x) = true := canonical_frame h (by rfl)

theorem canonical_moveItem (h : memoriesCanonical s = true) (n i : Nat) (x : MxItem) : memoriesCanonical (moveItem s n i x) = true :=
  canonical_ite (canonical_frame h (by rfl)) (canonical_ite (canonical_ite (canonical_frame h (by rfl)) (canonical_frame h (by rfl))) (canonical_frame h (by rfl)))

theorem canonical_enterNext (h : memoriesCanonical s = true) (i : Nat) (m : MxCmd) : memoriesCanonical (enterNext s i m) = true := by
  unfold enterNext
  dsimp only
  split
  case h_1 => exact canonical_updCmd (canonical_enterItem h _) _ _
  case h_4 => exact h
  all_goals
    split
    · exact canonical_updCmd h _ _
    · split
      · exact canonical_ite (canonical_haltQueue h _ _ _) h
      · exact canonical_updCmd (canonical_enterItem h _) _ _

theorem canonical_busBad (h : memoriesCanonical s = true) (t : Token) (check : BitVec 4) : memoriesCanonical (busBad s t check) = true :=
  canonical_haltGraph h ..

theorem canonical_busTake (h : memoriesCanonical s = true) (t : Token) : memoriesCanonical (busTake s t) = true := canonical_me h _

theorem canonical_busStop (h : memoriesCanonical s = true) (g : Geo) (t : Token) : memoriesCanonical (busStop s g t) = true :=
  canonical_ite (canonical_busBad h t _) (canonical_ite h (canonical_frame h (by rfl)))

theorem canonical_busToken (h : memoriesCanonical s = true) (g : Geo) (t : Token) : memoriesCanonical (busToken s g t) = true := by
  unfold busToken
  split
  · exact canonical_busBad h t _
  · exact canonical_ite (canonical_ite (canonical_busBad h t _) (canonical_busTake (canonical_frame h (by rfl)) t)) (canonical_ite (canonical_busBad h t _)
      (canonical_ite (canonical_ite (canonical_busTake (canonical_enterItem h _) t) h) (canonical_ite (canonical_frame h (by rfl))
        (canonical_ite (canonical_ite h (canonical_frame h (by rfl))) (canonical_busStop h g t)))))

theorem canonical_advanceArray (h : memoriesCanonical s = true) : memoriesCanonical (advanceArray s) = true := by
  unfold advanceArray
  refine canonical_ite h ?_
  split
  · exact canonical_moveItem h _ _ _
  · refine canonical_ite h ?_
    split
    · exact canonical_ite (canonical_enterNext h _ _) h
    · split
      · exact h
      · exact canonical_ite (canonical_sinkProgress (canonical_busToken h _ _) _ _) h

theorem canonical_rowProgress (h : memoriesCanonical s = true) : memoriesCanonical (rowProgress s) = true := canonical_frame h (by rfl)

theorem canonical_commitRow (h : memoriesCanonical s = true) : memoriesCanonical (commitRow s) = true := by
  unfold commitRow
  dsimp only
  split
  · exact h
  · refine canonical_ite h ?_
    split
    · exact canonical_ite (canonical_haltGraph (canonical_frame h (by rfl)) ..) (canonical_haltQueue h _ _ _)
    · have hrow : ∀ (p : Prop) [Decidable p] (c : Ctx), memoriesCanonical
          (if p then countEvent { s with me := c } 0x09 1 else rowProgress (countEvent { s with me := c } 0x09 1)) = true := fun p _ c =>
        have hc := canonical_countEvent (canonical_me h c) 0x09 1
        canonical_ite hc (canonical_rowProgress hc)
      exact canonical_ite (canonical_frame (hrow _ _) (by rfl)) (canonical_updCmd (hrow _ _) _ _)

theorem canonical_placeBus (h : memoriesCanonical s = true) {toks : List (Nat × Token)} {t : State} (ht : placeBus s toks = some t) :
    memoriesCanonical t = true := by
  unfold placeBus at ht
  dsimp only at ht
  split_ifs at ht
  cases ht
  exact canonical_me h _

theorem canonical_drainRow (h : memoriesCanonical s = true) {g : Geo} {m : MxCmd} {bus clr : Bool} {t : State}
    (ht : drainRow s g m bus clr = some t) : memoriesCanonical t = true := by
  unfold drainRow at ht
  obtain ⟨u, hu, rfl⟩ := Option.map_eq_some_iff.mp ht
  refine canonical_ite (canonical_me ?_ _) ?_ <;>
  · split at hu
    · exact canonical_placeBus h hu
    · exact Option.some.inj hu ▸ canonical_winPutRow h _ _ _ _

theorem canonical_drainPair (h : memoriesCanonical s = true) {m : MxCmd} {bus : Bool} {t : State} (ht : drainPair s m bus = some t) :
    memoriesCanonical t = true := by
  unfold drainPair at ht
  split at ht
  · cases bus with
    | true => exact canonical_placeBus h ht
    | false => cases ht; exact canonical_winPut h _ _ _ _
  · exact canonical_placeBus h ht

theorem canonical_completeCommand (h : memoriesCanonical s = true) : memoriesCanonical (completeCommand s) = true := by
  unfold completeCommand
  refine canonical_ite h ?_
  split
  · exact canonical_frame h (by rfl)
  · exact h
  · refine canonical_ite h ?_
    dsimp only
    split
    · exact h
    · rename_i e1
      refine canonical_updCmd ?_ _ _
      split at e1
      · exact canonical_drainRow h e1
      · exact canonical_drainPair h e1
      · cases e1

/-! ## The token boundary (15 R349 to R352, 02 R26 to R30) -/

theorem canonical_wakeCtx (h : memoriesCanonical s = true) (id : CtxId) : memoriesCanonical (wakeCtx s id) = true := canonical_updCtx h _ _

theorem canonical_refuseShared (h : memoriesCanonical s = true) (id : CtxId) (e : Nat) : memoriesCanonical (refuseShared id s e) = true :=
  canonical_focus (canonical_me (canonical_ite (canonical_haltGraph (canonical_focus h id) ..) (canonical_me (canonical_focus h id) _)) _) _

theorem canonical_splitElems (h : memoriesCanonical s = true) (c : CoreId) : memoriesCanonical (splitElems s c) = true := by
  unfold splitElems
  dsimp only
  split
  · exact canonical_ite (canonical_foldl_keeps (fun _ _ ht => canonical_refuseShared ht _ _) h _) h
  · exact h

theorem canonical_settleSwap (h : memoriesCanonical s = true) (c : CoreId) (out fresh : List CtxId) :
    memoriesCanonical (settleSwap s c out fresh) = true := by
  have h1 := canonical_foldl_keeps (f := fun t id => updCtx t id freezeCtx) (fun id _ ht => canonical_updCtx ht id _) h out
  have h2 := canonical_foldl_keeps (f := wakeCtx) (fun id _ ht => canonical_wakeCtx ht id) h1 fresh
  have h3 := fun l => canonical_foldl_keeps (f := trimL1) (fun id _ ht => canonical_trimL1 ht id) h2 l
  exact canonical_dropNotices (canonical_frame (canonical_ite (h3 _) (canonical_splitElems (h3 _) c)) (by rfl)) c

theorem canonical_tokenSwap (h : memoriesCanonical s = true) (c : CoreId) : memoriesCanonical (tokenSwap s c) = true := by
  unfold tokenSwap
  dsimp only
  split
  · exact canonical_ite (canonical_settleSwap (canonical_frame h (by rfl)) c _ _) h
  · exact canonical_ite h (canonical_frame h (by rfl))

end

end Sys2Proof.Machine
end

section
/-! PROOFS. The instructions of a handler and the module's own events keep the memories in canonical form (O36). -/

namespace Sys2Proof.Machine

open Sys2Proof.Safety

section
variable {s : State}

/-! ## Arithmetic and control flow (06 R111 to R134) -/

theorem canonical_nextPc (h : memoriesCanonical s = true) : memoriesCanonical (nextPc s) = true := canonical_frame h (by rfl)

theorem outcome_setG (h : memoriesCanonical s = true) (d : Reg) (v : Word) : OutcomeCanonical (setG s d v) := canonical_answerG h d v

theorem outcome_setC (h : memoriesCanonical s = true) (d : CReg) (v : Bool) : OutcomeCanonical (setC s d v) :=
  canonical_frame (canonical_writeC h d v) (by rfl)

theorem outcome_divide (h : memoriesCanonical s = true) (d a b : Reg) (q : Word → Word → Word) : OutcomeCanonical (divide s d a b q) :=
  outcome_ite (canonical_takeTrap h _) (outcome_setG h _ _)

theorem outcome_fpEnd (h : memoriesCanonical s = true) (fl : BitVec 5) {write : State → State} (hw : Keeps write) :
    OutcomeCanonical (fpEnd s fl write) := by
  have hraise : memoriesCanonical (raiseFlags s fl) = true := canonical_frame h (by rfl)
  exact outcome_ite (canonical_takeTrap hraise _) (canonical_frame (hw _ hraise) (by rfl))

theorem outcome_fpWrite (h : memoriesCanonical s = true) (d : Reg) (r : FRes) : OutcomeCanonical (fpWrite s d r) :=
  outcome_fpEnd h _ fun _ ht => canonical_writeG ht _ _

theorem outcome_fpCompare (h : memoriesCanonical s = true) (d : CReg) (rel : BitVec 2) (a b : Reg) (f : BitVec 2) :
    OutcomeCanonical (fpCompare s d rel a b f) := outcome_fpEnd h _ fun _ ht => canonical_writeC ht _ _

theorem outcome_execBr (h : memoriesCanonical s = true) (c : CReg) (sense : BitVec 1) (i : BitVec 22) : OutcomeCanonical (execBr c sense i s) :=
  outcome_ite (outcome_finish h (result_checkTarget (canonical_frame h (by rfl)))) (canonical_frame h (by rfl))

theorem outcome_execLoop (h : memoriesCanonical s = true) (a : Reg) (i : BitVec 14) : OutcomeCanonical (execLoop a i s) :=
  outcome_ite (canonical_answerG h _ _) (outcome_finish h (result_checkTarget (canonical_frame (canonical_writeG h _ _) (by rfl))))

/-- A jump that writes its link. -/
theorem outcome_link (h : memoriesCanonical s = true) (v t : Word) : OutcomeCanonical (finish s (checkTarget t (.ok (setPc (writeG s 1 v) t)))) :=
  outcome_finish h (result_checkTarget (canonical_frame (canonical_writeG h 1 v) (by rfl)))

theorem outcome_jump (h : memoriesCanonical s = true) (t : Word) : OutcomeCanonical (finish s (checkTarget t (.ok (setPc s t)))) :=
  outcome_finish h (result_checkTarget (canonical_frame h (by rfl)))

theorem canonical_endRelease (h : memoriesCanonical s = true) : memoriesCanonical (endRelease s) = true := canonical_frame (canonical_releaseEnd h 3) (by rfl)

theorem outcome_execEnd (h : memoriesCanonical s = true) : OutcomeCanonical (execEnd s) := by
  unfold execEnd
  split
  · exact h
  · exact outcome_ite (canonical_frame h (by rfl)) (outcome_finish h (result_regionEnd h (canonical_me (canonical_endRelease h) _)))

theorem outcome_execYield (h : memoriesCanonical s = true) : OutcomeCanonical (execYield s) := by
  unfold execYield
  split
  · exact h
  · exact canonical_me h _

theorem outcome_execIdle (h : memoriesCanonical s = true) : OutcomeCanonical (execIdle s) :=
  outcome_finish h (result_needPriv (canonical_ite (canonical_frame h (by rfl)) (canonical_frame h (by rfl))))

/-! ## Special registers and the monitor's tables (05 R100 to R106, 16 R369) -/

theorem outcome_execMfs (h : memoriesCanonical s = true) (d : Reg) (r : BitVec 12) : OutcomeCanonical (execMfs d r s) :=
  outcome_ite (outcome_finish h (result_needPriv (canonical_answerG h _ _))) (canonical_takeTrap h _)

theorem outcome_mts (h : memoriesCanonical s = true) (a : Reg) (r : BitVec 12) : OutcomeCanonical (finish s (mtsOp a r s)) :=
  outcome_finish h (result_mtsOp h a r)

theorem outcome_execMts (h : memoriesCanonical s = true) (a : Reg) (r : BitVec 12) : OutcomeCanonical (execMts a r s) :=
  outcome_ite (outcome_mts h a r) (canonical_takeTrap h _)

theorem outcome_mcalStep (h : memoriesCanonical s = true) (a : Reg) (w : Bool) (tables : List Nat) : OutcomeCanonical (mcalStep a w tables s) :=
  outcome_ite (outcome_mts h a _) h

theorem outcome_mquotaStep (h : memoriesCanonical s = true) (a : Reg) (w : Bool) (table : Nat) : OutcomeCanonical (mquotaStep a w table s) :=
  outcome_ite (outcome_mts h a _) h

theorem outcome_ctxEnd (h : memoriesCanonical s = true) (d : Reg) (word : Word) {r : Nat × State} (hr : memoriesCanonical r.2 = true) :
    OutcomeCanonical (ctxEnd s d word r) := outcome_finish h (result_needPriv (canonical_answerG hr _ _))

theorem snd_ite {p : Prop} [Decidable p] {a b : Nat × State} (ha : memoriesCanonical a.2 = true) (hb : memoriesCanonical b.2 = true) :
    memoriesCanonical (if p then a else b).2 = true := by split <;> assumption

theorem canonical_ctxOp (h : memoriesCanonical s = true) (op : Word) {act : CoreId → Bool → SetRec → Nat × State}
    (hact : ∀ c b x, memoriesCanonical (act c b x).2 = true) : memoriesCanonical (ctxOp s op act).2 = true :=
  snd_ite h (snd_ite h (snd_ite h (hact _ _ _)))

theorem outcome_execCtxsw (h : memoriesCanonical s = true) (d a : Reg) : OutcomeCanonical (execCtxsw d a s) :=
  outcome_ctxEnd h d _ (canonical_ctxOp h _ fun _ _ _ => snd_ite h (snd_ite (canonical_frame h (by rfl)) h))

theorem outcome_execCtxpark (h : memoriesCanonical s = true) (d a : Reg) : OutcomeCanonical (execCtxpark d a s) :=
  outcome_ctxEnd h d _ (canonical_ctxOp h _ fun _ _ _ => snd_ite (canonical_frame h (by rfl)) h)

theorem outcome_execCtxload (h : memoriesCanonical s = true) (d a b : Reg) : OutcomeCanonical (execCtxload d a b s) :=
  outcome_ctxEnd h d _ (canonical_ctxOp h _ fun _ _ _ => snd_ite h (snd_ite h (canonical_frame (canonical_updCtx (canonical_createCtx h _ _) _ _) (by rfl))))

/-! ## Loads, stores and atomics (09 R187 to R200) -/

theorem outcome_execLd (h : memoriesCanonical s = true) (d a : Reg) (w : BitVec 3) (i : BitVec 7) : OutcomeCanonical (execLd d a w i s) :=
  outcome_finish h (result_codeOk (result_unlessFull h (result_withAccess h fun _ _ ht => result_plainAccess ht fun _ hu =>
    canonical_frame (canonical_l1Read hu _ _ _) (by rfl))))

theorem canonical_noteVa (h : memoriesCanonical s = true) (n : Nat) (va : Word) : memoriesCanonical (noteVa s n va) = true := canonical_me h _

theorem outcome_execSt (h : memoriesCanonical s = true) (d a : Reg) (w : BitVec 2) (i : BitVec 7) : OutcomeCanonical (execSt d a w i s) :=
  outcome_finish h (result_unlessFull h (result_withAccess h fun _ _ ht => result_plainAccess ht fun _ hu =>
    canonical_nextPc (canonical_noteVa (canonical_l1Write hu _ _ _) _ _)))

theorem outcome_execLdw (h : memoriesCanonical s = true) (d a : Reg) (w : BitVec 3) (i : BitVec 7) : OutcomeCanonical (execLdw d a w i s) :=
  outcome_finish h (result_codeOk (result_unlessFull h (result_winAccess fun _ => result_ite (result_trap _ (by rfl)) (canonical_frame h (by rfl)))))

theorem outcome_execStw (h : memoriesCanonical s = true) (d a : Reg) (w : BitVec 2) (i : BitVec 7) : OutcomeCanonical (execStw d a w i s) :=
  outcome_finish h (result_unlessFull h (result_winAccess fun _ => canonical_nextPc (canonical_winPut h _ _ _ _)))

theorem outcome_execLdro (h : memoriesCanonical s = true) (d a : Reg) (w : BitVec 3) (i : BitVec 7) : OutcomeCanonical (execLdro d a w i s) :=
  outcome_finish h (result_codeOk (result_unlessFull h (result_withAccess h fun _ _ ht => result_guardLine ht (result_ite (result_trap _ (by rfl))
    (canonical_frame (canonical_l1Read ht _ _ _) (by rfl))))))

theorem outcome_issueAtomic (h : memoriesCanonical s = true) (d : Reg) (va : Word) (size : Nat) (need : Need) (op : AtomOp) (o sc : BitVec 2) :
    OutcomeCanonical (issueAtomic s d va size need op o sc) :=
  outcome_finish h (result_unlessFull h (result_withAccess h fun _ _ ht => result_ite (canonical_contain ht _) (result_checkedAccess ht fun _ hu =>
    result_atomEnd ht (result_guardBack ht (result_ite (result_trap _ (by rfl)) (canonical_frame (canonical_dropLine
      (canonical_ite (canonical_cleanL1 hu) hu) _) (by rfl)))))))

theorem outcome_atomRmw (h : memoriesCanonical s = true) (d a b : Reg) (fn : BitVec 4) (size : Nat) (o sc : BitVec 2) :
    OutcomeCanonical (atomRmw s d a b fn size o sc) := outcome_issueAtomic h ..

theorem outcome_orderOk (h : memoriesCanonical s = true) {ok : Bool} {i : Instr} {k : Host.Outcome State Fault Refusal}
    (hk : OutcomeCanonical k) : OutcomeCanonical (orderOk ok s i k) := outcome_ite hk (canonical_takeTrap h _)

theorem outcome_execFence (h : memoriesCanonical s = true) (k : BitVec 6) (sc : BitVec 2) : OutcomeCanonical (execFence k sc s) :=
  outcome_ite (canonical_takeTrap h _) (outcome_ite (canonical_frame h (by rfl)) (outcome_ite
    (outcome_finish h (result_guardBack h (canonical_frame (canonical_ite (canonical_dropClean (canonical_cleanL1 h)) (canonical_cleanL1 h)) (by rfl))))
    (canonical_frame (canonical_ite (canonical_dropClean h) h) (by rfl))))

theorem outcome_execCflush (h : memoriesCanonical s = true) (a : Reg) : OutcomeCanonical (execCflush a s) := by
  refine outcome_finish h (result_withAccess h fun t pa ht => ?_)
  split
  · exact canonical_frame ht (by rfl)
  · exact result_atAddress (result_guardBack ht (canonical_frame (canonical_writeBack ht _) (by rfl)))

theorem outcome_execCinv (h : memoriesCanonical s = true) (a : Reg) : OutcomeCanonical (execCinv a s) :=
  outcome_finish h (result_withAccess h fun _ _ ht => result_atAddress (result_guardBack ht (canonical_frame (canonical_dropLine ht _) (by rfl))))

theorem outcome_execCzero (h : memoriesCanonical s = true) (a : Reg) : OutcomeCanonical (execCzero a s) :=
  outcome_finish h (result_unlessFull h (result_withAccess h fun _ _ ht => result_checkedAccess ht fun _ hu => result_guardHome ht
    (canonical_nextPc (canonical_noteVa (canonical_zeroLine hu _) _ _))))

theorem outcome_execPref (h : memoriesCanonical s = true) (a : Reg) : OutcomeCanonical (execPref a s) := by
  have ha := acc_access h (priv s) (readG s a) 1 needNone
  unfold execPref
  split
  case h_1 e1 => rw [e1] at ha; exact canonical_frame (canonical_ite ha (canonical_l1Line ha _ _)) (by rfl)
  case h_2 f e1 =>
    rw [e1] at ha
    refine canonical_frame (s := f.base.getD s) ?_ (by rfl)
    cases hb : f.base with
    | none => exact h
    | some b => exact ha b hb
  case h_3 => exact canonical_frame h (by rfl)

/-! ## Synchronization words, counters and barriers (08 R168, 14 R325 to R333) -/

theorem outcome_syncAccess (h : memoriesCanonical s = true) {a : Reg} {k : Nat → Except Trap State} (hk : ∀ n, ResultCanonical (k n)) :
    OutcomeCanonical (syncAccess s a k) := outcome_finish h (result_winAccess fun _ => result_ite (result_trap _ (by rfl)) (hk _))

theorem outcome_execSwset (h : memoriesCanonical s = true) (a b : Reg) : OutcomeCanonical (execSwset a b s) :=
  outcome_syncAccess h fun _ => canonical_nextPc (canonical_winPut (canonical_winPut h _ _ _ _) _ _ _ _)

theorem outcome_execSwadd (h : memoriesCanonical s = true) (a b : Reg) : OutcomeCanonical (execSwadd a b s) :=
  outcome_syncAccess h fun _ => canonical_nextPc (canonical_syncArrive h _ _ _)

theorem outcome_execSwwait (h : memoriesCanonical s = true) (d a b : Reg) : OutcomeCanonical (execSwwait d a b s) :=
  outcome_syncAccess h fun _ => result_ite (canonical_blockOn h _) (result_regionEnd h (canonical_answerG (canonical_acquireEnd h _ _) _ _))

theorem outcome_execSwget (h : memoriesCanonical s = true) (d a : Reg) : OutcomeCanonical (execSwget d a s) :=
  outcome_syncAccess h fun _ => canonical_answerG h _ _

theorem outcome_execWait (h : memoriesCanonical s = true) (l st cp tl : BitVec 5) : OutcomeCanonical (execWait l st cp tl s) :=
  outcome_finish h (result_ite (result_regionEnd h (canonical_nextPc (canonical_acquireEnd (canonical_releaseEnd h 3) _ _))) (canonical_blockOn h _))

theorem outcome_execDcset (h : memoriesCanonical s = true) (d a b : Reg) : OutcomeCanonical (execDcset d a b s) :=
  outcome_finish h (result_withCounter h fun _ => result_ite (result_configFault _) (result_toSystem h (canonical_answerG (canonical_frame h (by rfl)) _ _)))

theorem outcome_execDcadd (h : memoriesCanonical s = true) (d a b : Reg) : OutcomeCanonical (execDcadd d a b s) :=
  outcome_finish h (result_withCounter h fun _ => result_ite (result_configFault _) (result_toSystem h (result_ite (result_configFault _)
    (canonical_answerG (canonical_frame h (by rfl)) _ _))))

theorem outcome_execDcdec (h : memoriesCanonical s = true) (d a b : Reg) : OutcomeCanonical (execDcdec d a b s) :=
  outcome_finish h (result_withCounter h fun _ => result_ite (result_configFault _) (result_toSystem h (canonical_answerG (canonical_dcDecrement h _ _ _) _ _)))

theorem outcome_execDcget (h : memoriesCanonical s = true) (d a : Reg) : OutcomeCanonical (execDcget d a s) :=
  outcome_finish h (result_withCounter h fun _ => result_toSystem h (canonical_answerG h _ _))

theorem outcome_execDcbind (h : memoriesCanonical s = true) (d a b : Reg) : OutcomeCanonical (execDcbind d a b s) :=
  outcome_finish h (result_needPriv (result_withCounter h fun _ => result_ite (result_configFault _) (result_toSystem h (result_ite (canonical_frame h (by rfl))
    (result_ite (result_trap _ (by rfl)) (canonical_ite (canonical_dcFire (canonical_frame h (by rfl)) _ _ _) (canonical_frame h (by rfl))))))))

theorem outcome_execEngineDecrement (h : memoriesCanonical s = true) (k : Nat) : OutcomeCanonical (execEngineDecrement k s) := by
  unfold execEngineDecrement
  split
  · exact h
  · exact outcome_ite h (outcome_ite (canonical_dcDecrement (canonical_frame h (by rfl)) _ _ _) (canonical_contain h _))

theorem outcome_execBar (h : memoriesCanonical s = true) (d a : Reg) : OutcomeCanonical (execBar d a s) :=
  outcome_finish h (result_withBarrier h fun _ => result_ite (result_configFault _) (result_ite (canonical_frame h (by rfl)) (result_regionEnd h
    (result_toSystem h (canonical_answerG (canonical_barArrive (canonical_releaseEnd h 3) _ _) _ _)))))

theorem outcome_execBarw (h : memoriesCanonical s = true) (d a : Reg) : OutcomeCanonical (execBarw d a s) := by
  refine outcome_finish h (result_withBarrier h fun b => ?_)
  dsimp only
  split
  · exact result_regionEnd h (canonical_barPass h _ _ _)
  · exact result_ite (result_configFault _) (result_ite (canonical_frame h (by rfl)) (result_regionEnd h
      (result_toSystem h (canonical_barPass (canonical_barArrive (canonical_releaseEnd h 3) _ _) _ _ _))))

theorem outcome_execBarinit (h : memoriesCanonical s = true) (d a b : Reg) : OutcomeCanonical (execBarinit d a b s) :=
  outcome_finish h (result_needPriv (result_withBarrier h fun _ => result_ite (result_configFault _) (result_toSystem h
    (result_ite (canonical_answerG h _ _) (canonical_answerG (canonical_frame h (by rfl)) _ _)))))

/-! ## Counters and accounts (14 R334 to R339) -/

theorem outcome_execPcsel (h : memoriesCanonical s = true) (a b : Reg) : OutcomeCanonical (execPcsel a b s) :=
  outcome_finish h (result_needPriv (result_ite (result_configFault _) (result_ite (result_configFault _)
    (canonical_frame (canonical_writeC (canonical_me h _) _ _) (by rfl)))))

theorem outcome_execPcrd (h : memoriesCanonical s = true) (d a : Reg) : OutcomeCanonical (execPcrd d a s) :=
  outcome_finish h (result_ite (result_configFault _) (canonical_frame (canonical_writeC (canonical_writeG (canonical_me h _) _ _) _ _) (by rfl)))

theorem outcome_execEcnt (h : memoriesCanonical s = true) (d a : Reg) : OutcomeCanonical (execEcnt d a s) :=
  outcome_finish h (result_ite (result_configFault _) (result_ite (result_needPriv (canonical_answerG h _ _)) (canonical_answerG h _ _)))

theorem outcome_execOcrd (h : memoriesCanonical s = true) (d a : Reg) : OutcomeCanonical (execOcrd d a s) := by
  refine outcome_finish h (result_ite (result_configFault _) ?_)
  split
  · exact result_configFault _
  · exact canonical_answerG h _ _

theorem outcome_execPerfCounterWrap (h : memoriesCanonical s = true) (n : BitVec 3) : OutcomeCanonical (execPerfCounterWrap n s) :=
  outcome_ite h (canonical_ite (canonical_me (canonical_me h _) _) (canonical_me h _))

end

end Sys2Proof.Machine
end

section
/-! PROOFS. The engines, the network, the host and the fabric keep the memories in canonical form: the meaning of every instruction does (O36). -/

namespace Sys2Proof.Machine

open Sys2Proof.Safety

section
variable {s : State}

/-! ## Engines and messages (09 R215 to R224, 13 R302 to R314) -/

theorem outcome_execCopyChainStart (h : memoriesCanonical s = true) (e : BitVec 2) : OutcomeCanonical (execCopyChainStart e s) :=
  canonical_ite (canonical_me h _) h

theorem outcome_startChain (h : memoriesCanonical s = true) {e : BitVec 2} {addr : Word} {after single : Bool} {src dst : Option Word} :
    OutcomeCanonical (finish s (startChain s e addr after single src dst)) := outcome_finish h (result_startChain h)

theorem outcome_execXstat (h : memoriesCanonical s = true) (d a : Reg) : OutcomeCanonical (execXstat d a s) :=
  outcome_finish h (result_withEngine fun _ => canonical_answerG h _ _)

theorem outcome_execXform (h : memoriesCanonical s = true) (a : Reg) (f : BitVec 1) : OutcomeCanonical (execXform a f s) :=
  outcome_finish h (result_recAddress (result_ite (canonical_frame h (by rfl)) (result_ite (canonical_frame h (by rfl)) (canonical_frame h (by rfl)))))

theorem outcome_execXcancel (h : memoriesCanonical s = true) (d a : Reg) : OutcomeCanonical (execXcancel d a s) :=
  outcome_finish h (result_withEngine fun _ => result_ite (canonical_cancelXform h d) (result_cancelChan h))

theorem outcome_execSend (h : memoriesCanonical s = true) (a b : Reg) : OutcomeCanonical (execSend a b s) := by
  refine outcome_finish h (result_ite (result_configFault _) ?_)
  split
  · exact result_trap _ (by rfl)
  · exact result_ite (canonical_frame h (by rfl)) (canonical_sendPacket (canonical_nextPc h) _ _ _ _)

theorem outcome_execRecv (h : memoriesCanonical s = true) (d a : Reg) : OutcomeCanonical (execRecv d a s) := by
  refine outcome_finish h (result_withChannel fun ch => ?_)
  split
  · exact canonical_blockOn h _
  · exact canonical_answerG (canonical_me h _) _ _

theorem outcome_execPeek (h : memoriesCanonical s = true) (d a : Reg) : OutcomeCanonical (execPeek d a s) := by
  refine outcome_finish h (result_withChannel fun ch => ?_)
  split
  · exact canonical_blockOn h _
  · exact canonical_answerG h _ _

theorem outcome_execRecvk (h : memoriesCanonical s = true) (d a b : Reg) : OutcomeCanonical (execRecvk d a b s) := by
  refine outcome_finish h (result_withChannel fun ch => ?_)
  split
  · exact canonical_answerG h _ _
  · exact canonical_answerG (canonical_me h _) _ _

theorem outcome_execMeshTokenForward (h : memoriesCanonical s = true) (k : Nat) : OutcomeCanonical (execMeshTokenForward k s) := by
  unfold execMeshTokenForward
  split
  · exact h
  · split
    · exact canonical_frame h (by rfl)
    · exact h
    · split
      · exact h
      · exact outcome_ite (canonical_frame h (by rfl)) h

theorem outcome_execCreditReturn (h : memoriesCanonical s = true) (k : Nat) : OutcomeCanonical (execCreditReturn k s) :=
  canonical_ite (canonical_frame h (by rfl)) h

theorem canonical_dropPacket (h : memoriesCanonical s = true) (k : Nat) : memoriesCanonical (dropPacket s k) = true := canonical_frame h (by rfl)

theorem outcome_execChannelWordArrival (h : memoriesCanonical s = true) (k : Nat) : OutcomeCanonical (execChannelWordArrival k s) := by
  unfold execChannelWordArrival
  split
  · exact canonical_ite h (canonical_updCtx (canonical_dropPacket h k) _ _)
  · exact h

theorem canonical_countDrop (h : memoriesCanonical s = true) (part : BitVec 7) (die : BitVec 3) : memoriesCanonical (countDrop s part die) = true :=
  canonical_frame h (by rfl)

theorem outcome_execLaunchValidation (h : memoriesCanonical s = true) (k : Nat) : OutcomeCanonical (execLaunchValidation k s) := by
  have h1 := canonical_dropPacket h k
  unfold execLaunchValidation
  split
  · refine outcome_ite (canonical_frame h1 (by rfl)) ?_
    dsimp only
    split
    · exact canonical_wantPull h _ _
    · refine outcome_ite (canonical_countDrop h1 _ _) (outcome_ite h ?_)
      have h2 := fun p n => canonical_l2Touch h1 p n
      split
      · exact canonical_sendPacket (h2 _ _) _ _ _ _
      · exact canonical_countDrop (h2 _ _) _ _
    · exact canonical_countDrop h1 _ _
  · exact h

theorem outcome_execLaunchDispatch (h : memoriesCanonical s = true) (k : Nat) : OutcomeCanonical (execLaunchDispatch k s) := by
  have h1 := canonical_dropPacket h k
  unfold execLaunchDispatch
  split
  · split
    · exact canonical_countDrop h1 _ _
    · exact outcome_ite (canonical_ite h (canonical_updCtx h1 _ _)) (canonical_countDrop h1 _ _)
  · exact h

theorem outcome_execLaunch (h : memoriesCanonical s = true) (d a b : Reg) : OutcomeCanonical (execLaunch d a b s) :=
  outcome_finish h (result_ite (result_configFault _) (result_ite (result_configFault _) (canonical_sendPacket (canonical_answerG h _ _) _ _ _ _)))

theorem outcome_execVfLaunchWrite (h : memoriesCanonical s = true) (p : BitVec 6) (v : Word) : OutcomeCanonical (execVfLaunchWrite p v s) :=
  outcome_ite h (outcome_ite (canonical_ite (canonical_countDrop h _ _) (canonical_frame h (by rfl))) (canonical_sendPacket h _ _ _ _))

/-! ## Handler tables and transits (13 R309 to R322) -/

theorem outcome_execHset (h : memoriesCanonical s = true) (a b : Reg) : OutcomeCanonical (execHset a b s) :=
  outcome_finish h (result_withSlot fun _ => result_ite (result_configFault _) (result_ite (result_trap _ (by rfl)) (result_ite (result_configFault _)
    (result_ite (result_configFault _) (canonical_frame h (by rfl))))))

theorem outcome_execHget (h : memoriesCanonical s = true) (d a : Reg) : OutcomeCanonical (execHget d a s) :=
  outcome_finish h (result_withSlot fun _ => canonical_answerG h _ _)

/-- An instruction on an entry of the table that changes the context in focus alone. -/
theorem outcome_slot (h : memoriesCanonical s = true) {a : Reg} {f : BitVec 5 → Ctx} :
    OutcomeCanonical (finish s (withSlot s a fun i => .ok (nextPc { s with me := f i }))) :=
  outcome_finish h (result_withSlot fun _ => canonical_nextPc (canonical_me h _))

theorem outcome_execTrn (h : memoriesCanonical s = true) (d a : Reg) : OutcomeCanonical (execTrn d a s) := by
  refine outcome_finish h (result_plainWord h fun s1 rel h1 => result_plainWord h1 fun s2 work h2 => result_plainWord h2 fun s3 idx h3 => ?_)
  have hput : ∀ i e, memoriesCanonical (ephPut s3 s.me.id.part i e) = true := fun _ _ => canonical_frame h3 (by rfl)
  exact result_ite (result_configFault _) (result_ite (result_configFault _) (result_ite (canonical_answerG h3 _ _)
    (canonical_answerG (canonical_me (hput _ _) _) _ _)))

theorem outcome_execTrne (h : memoriesCanonical s = true) (d : Reg) : OutcomeCanonical (execTrne d s) := by
  have hput : ∀ i e, memoriesCanonical (ephPut s s.me.id.part i e) = true := fun _ _ => canonical_frame h (by rfl)
  exact outcome_finish h (result_ite (result_configFault _) (canonical_answerG (canonical_me (hput _ _) _) _ _))

theorem outcome_execSlack (h : memoriesCanonical s = true) (d a : Reg) : OutcomeCanonical (execSlack d a s) :=
  outcome_finish h (result_ite (result_configFault _) (canonical_answerG h _ _))

/-! ## Translation (08 R179 to R183) -/

theorem outcome_execTlbi (h : memoriesCanonical s = true) (a : Reg) : OutcomeCanonical (execTlbi a s) :=
  outcome_finish h (result_needPriv (result_ite (result_configFault _) (result_tlbOp h Keeps.id)))

theorem outcome_execTlbia (h : memoriesCanonical s = true) : OutcomeCanonical (execTlbia s) :=
  outcome_finish h (result_needPriv (result_tlbOp h fun _ ht => canonical_frame ht (by rfl)))

theorem outcome_execTlbip (h : memoriesCanonical s = true) (a : Reg) : OutcomeCanonical (execTlbip a s) :=
  outcome_finish h (result_needPriv (result_withPart fun _ => result_tlbOp h fun _ ht => canonical_frame ht (by rfl)))

theorem outcome_execTlbis (h : memoriesCanonical s = true) (a b : Reg) : OutcomeCanonical (execTlbis a b s) :=
  outcome_finish h (result_needPriv (result_withPart fun _ => result_tlbOp h fun _ ht => canonical_frame ht (by rfl)))

theorem outcome_execTableWalkComplete (h : memoriesCanonical s = true) (va : Word) (acc : BitVec 2) :
    OutcomeCanonical (execTableWalkComplete va acc s) := by
  have ha := acc_translate h (priv s) va (needOf acc)
  refine outcome_ite h ?_
  split
  case h_1 e1 => rw [e1] at ha; exact ha
  case h_2 => exact h

theorem canonical_dropTlb (h : memoriesCanonical s = true) (gone : Ctx → TlbEntry → Bool) : memoriesCanonical (dropTlb s gone) = true :=
  canonical_frame h (by rfl)

theorem outcome_execPagePullComplete (h : memoriesCanonical s = true) (p : BitVec 6) (pa : Word) : OutcomeCanonical (execPagePullComplete p pa s) := by
  unfold execPagePullComplete
  refine outcome_ite h ?_
  split
  · extract_lets w local_ home w1 outside s1
    have h1 : memoriesCanonical s1 = true := canonical_mem h (wf_memMove ((canonical_iff s).mp h).1 _ _ _) rfl
    clear_value s1
    exact canonical_dropTlb (canonical_homeCommit h1 _ (wf_memPut ((canonical_iff s1).mp h1).1 _ _ _) _) _
  · exact h

/-! ## Errors, the host and start-up (08 R183, 16 R374 to R382) -/

theorem outcome_execPatrolScrub (h : memoriesCanonical s = true) (line : BitVec 45) (bad : Bool) : OutcomeCanonical (execPatrolScrub line bad s) :=
  canonical_ite (canonical_frame h (by rfl)) (canonical_frame h (by rfl))

theorem outcome_execHostBar2Read (h : memoriesCanonical s = true) (p : BitVec 6) (addr : Word) (n : BitVec 4) :
    OutcomeCanonical (execHostBar2Read p addr n s) := by
  unfold execHostBar2Read
  split
  · exact canonical_hostStopped h _ _
  · exact canonical_frame (canonical_foldl_keeps (fun n _ ht => canonical_l2Touch ht (0#1 ++ p) n) h _) (by rfl)

theorem outcome_execHostBar2Write (h : memoriesCanonical s = true) (p : BitVec 6) (addr : Word) (n : BitVec 4) (v : Word) :
    OutcomeCanonical (execHostBar2Write p addr n v s) := by
  unfold execHostBar2Write
  split
  · exact canonical_hostStopped h _ _
  · exact canonical_homeCommit h _ (wf_scatterNat ((canonical_iff s).mp h).1 _ _) _

theorem outcome_execPfBar2Access (h : memoriesCanonical s = true) (w : Bool) (addr : BitVec 28) (v : Byte) :
    OutcomeCanonical (execPfBar2Access w addr v s) :=
  outcome_ite (canonical_ite h (canonical_frame h (by rfl))) (outcome_ite (canonical_mem h (wf_memSet ((canonical_iff s).mp h).1 _ _) rfl) (canonical_frame h (by rfl)))

theorem outcome_execFunctionLevelReset (h : memoriesCanonical s = true) (p : BitVec 6) : OutcomeCanonical (execFunctionLevelReset p s) :=
  canonical_ite (canonical_contain h p) h

theorem outcome_execBootcmdColdStart (h : memoriesCanonical s = true) : OutcomeCanonical (execBootcmdColdStart s) :=
  canonical_ite (canonical_frame h (by rfl)) (canonical_ite h (canonical_restart (wf_coldMem _ _) _ _))

theorem outcome_execBootcmdWarmStart (h : memoriesCanonical s = true) : OutcomeCanonical (execBootcmdWarmStart s) :=
  canonical_ite h (canonical_restart (wf_warmMem ((canonical_iff s).mp h).1) _ _)

theorem outcome_execClockLock (h : memoriesCanonical s = true) (ok : Bool) : OutcomeCanonical (execClockLock ok s) :=
  canonical_ite h (canonical_ite (canonical_frame h (by rfl)) (canonical_haltModule h _))

theorem outcome_execDramTraining (h : memoriesCanonical s = true) (dram : Bool) (links : BitVec 24) : OutcomeCanonical (execDramTraining dram links s) :=
  canonical_phaseEnd (canonical_ite (canonical_frame h (by rfl)) h) _ _ _ _

theorem outcome_execImageCheck (h : memoriesCanonical s = true) : OutcomeCanonical (execImageCheck s) :=
  canonical_ite h (canonical_ite (canonical_frame h (by rfl)) (canonical_ite (canonical_frame h (by rfl)) (canonical_haltModule h _)))

theorem outcome_execMonitorStart (h : memoriesCanonical s = true) : OutcomeCanonical (execMonitorStart s) :=
  outcome_ite h (canonical_frame (canonical_foldl_keeps (f := fun t d => setCore t (monitorId d).core (monitorCore d))
    (fun _ _ ht => canonical_frame ht (by rfl)) h _) (by rfl))

theorem outcome_execMonitorRequestedHalt (h : memoriesCanonical s = true) : OutcomeCanonical (execMonitorRequestedHalt s) :=
  canonical_ite (canonical_haltModule h _) h

theorem outcome_execContainmentComplete (h : memoriesCanonical s = true) (p : BitVec 6) : OutcomeCanonical (execContainmentComplete p s) :=
  canonical_ite (canonical_frame h (by rfl)) h

theorem outcome_execMpartContain (h : memoriesCanonical s = true) (a : Reg) : OutcomeCanonical (execMpartContain a s) :=
  outcome_ite (outcome_mts h a _) h

theorem outcome_execMcalCalendarStart (h : memoriesCanonical s = true) (a : Reg) : OutcomeCanonical (execMcalCalendarStart a s) :=
  outcome_ite (outcome_mcalStep h ..) h

theorem outcome_execMcalCalendarStop (h : memoriesCanonical s = true) (a : Reg) : OutcomeCanonical (execMcalCalendarStop a s) :=
  outcome_ite h (outcome_mcalStep h ..)

/-! ## Elements of the fabric (12 R270 to R294, 09 R201 to R209) -/

theorem outcome_moveOp (h : memoriesCanonical s = true) {e op : Nat} {act : State → Act}
    (hact : ∀ {t}, memoriesCanonical t = true → ActCanonical (act t)) : OutcomeCanonical (moveOp s e op act) :=
  canonical_ite (canonical_moveElem h e _ fun _ => hact) h

theorem keeps_cellMove {i : BitVec 6} {op : Nat} {act : Nat → State → Act}
    (hact : ∀ {t}, memoriesCanonical t = true → ∀ e, ActCanonical (act e t)) : MoveKeeps (cellMove i op act) :=
  fun _ h => outcome_moveOp h fun ht => hact ht _

theorem keeps_arithMove {i : BitVec 6} {op : Nat} {f : Ctx → Nat → List Nat → FRes} : MoveKeeps (cellMove i op fun e => arith e f) :=
  keeps_cellMove fun ht e => act_arith ht e f

theorem keeps_compareMove {i : BitVec 6} {op : Nat} {rel : Ctx → Nat → List Nat → Bool × BitVec 5} :
    MoveKeeps (cellMove i op fun e => compare e rel) := keeps_cellMove fun ht e => act_compare ht e rel

theorem keeps_routerMove {i : BitVec 6} {op : Nat} {act : Nat → State → Act}
    (hact : ∀ {t}, memoriesCanonical t = true → ∀ e, ActCanonical (act e t)) : MoveKeeps (routerMove i op act) :=
  fun _ h => outcome_moveOp h fun ht => hact ht _

theorem keeps_fibreMove {i : BitVec 3} {op : Nat} {act : Nat → State → Act}
    (hact : ∀ {t}, memoriesCanonical t = true → ∀ e, ActCanonical (act e t)) : MoveKeeps (fibreMove i op act) :=
  fun _ h => outcome_moveOp h fun ht => hact ht _

theorem keeps_joinMove {i : BitVec 3} {op : Nat} {union : Bool} : MoveKeeps (fibreMove i op (actJoin union)) :=
  keeps_fibreMove fun ht e => act_actJoin ht union e

theorem keeps_streamMove {e n : BitVec 2} {mode : Nat} {act : Nat → Nat → State → Act}
    (hact : ∀ {t}, memoriesCanonical t = true → ∀ e n, ActCanonical (act e n t)) : MoveKeeps (streamMove e n mode act) :=
  fun _ h => outcome_ite (canonical_settle (canonical_me h _) _ (hact (canonical_me h _) _ _)) h

theorem outcome_execMemoryNodeResult (h : memoriesCanonical s = true) (i : BitVec 6) : OutcomeCanonical (execMemoryNodeResult i s) :=
  canonical_moveElem h _ _ fun _ ht => act_actNodeResult ht _

theorem outcome_execControlTokenForward (h : memoriesCanonical s = true) (i : BitVec 6) : OutcomeCanonical (execControlTokenForward i s) :=
  canonical_ite (canonical_me h _) h

/-! ## Graphs and the matrix array (12 R295 to R301, 07 R142 to R157) -/

theorem outcome_execCfg (h : memoriesCanonical s = true) (a b : Reg) : OutcomeCanonical (execCfg a b s) := by
  unfold execCfg
  dsimp only
  split
  · exact canonical_takeTrap h _
  · rename_i cores _
    have hr := stream_applyStream h cores (readG s a) 0 (cores.headD 0) ((readG s b).extractLsb' 32 32).toNat
    split
    case h_1 e1 => rw [e1] at hr; exact canonical_nextPc hr.1
    case h_2 e1 => rw [e1] at hr; exact hr.1
    case h_3 t f e1 =>
      rw [e1] at hr
      refine canonical_takeTrap ?_ f
      cases hb : f.base with
      | none => exact hr.1
      | some u => exact hr.2 f rfl u hb

theorem outcome_execCfgw (h : memoriesCanonical s = true) (a b : Reg) : OutcomeCanonical (execCfgw a b s) := by
  refine outcome_finish h (result_ite (result_configFault _) ?_)
  split
  · exact result_configFault _
  · rename_i core _
    have ha := applied_applyWord h (cfgCtx s core) ((readG s a).setWidth 32)
    split
    case h_1 => exact result_configFault _
    case h_2 => exact canonical_frame h (by rfl)
    case h_3 e1 => rw [e1] at ha; exact canonical_nextPc ha

theorem outcome_execGo (h : memoriesCanonical s = true) (d a b : Reg) : OutcomeCanonical (execGo d a b s) := by
  refine outcome_finish h (result_ite (result_configFault _) ?_)
  split
  · exact result_configFault _
  · split
    · exact result_configFault _
    · refine result_ite (result_configFault _) (result_ite (result_configFault _) (canonical_answerG (canonical_me ?_ _) _ _))
      exact canonical_foldl_keeps (fun _ _ ht => canonical_updCtx ht _ _) h _

theorem outcome_execDrain (h : memoriesCanonical s = true) (d a : Reg) : OutcomeCanonical (execDrain d a s) := by
  refine outcome_finish h (result_withGraph (canonical_answerG h _ _) fun g => ?_)
  have h1 := canonical_settled h g
  refine canonical_nextPc ?_
  split
  · exact canonical_writeG h1 _ _
  · exact canonical_ite (canonical_writeG h1 _ _) (canonical_ite (canonical_writeG h1 _ _) (canonical_writeG (canonical_me h1 _) _ _))

theorem outcome_execAbort (h : memoriesCanonical s = true) (d a : Reg) : OutcomeCanonical (execAbort d a s) := by
  refine outcome_finish h (result_withGraph (canonical_nextPc (canonical_ite (canonical_writeG h _ _) (canonical_writeG (canonical_me h _) _ _))) fun g => ?_)
  have h1 := canonical_settled h g
  refine canonical_nextPc ?_
  split
  · exact canonical_writeG h1 _ _
  · exact canonical_ite (canonical_writeG h1 _ _) (canonical_writeG (canonical_abortGraph h1 g) _ _)

theorem outcome_execReplay (h : memoriesCanonical s = true) (d a : Reg) : OutcomeCanonical (execReplay d a s) := by
  refine outcome_finish h (result_withGraph (canonical_nextPc (canonical_ite (canonical_writeG h _ _)
    (canonical_ite (canonical_writeG (canonical_me h _) _ _) (canonical_writeG h _ _)))) fun g => canonical_nextPc ?_)
  split
  · exact canonical_writeG h _ _
  · exact canonical_ite (canonical_writeG (canonical_me h _) _ _) (canonical_writeG h _ _)

theorem outcome_execGstat (h : memoriesCanonical s = true) (d a : Reg) : OutcomeCanonical (execGstat d a s) :=
  outcome_finish h (result_withGraph (canonical_answerG h _ _) fun _ => canonical_answerG h _ _)

theorem outcome_execMxcfg (h : memoriesCanonical s = true) (a : Reg) (w : BitVec 1) : OutcomeCanonical (execMxcfg a w s) :=
  outcome_finish h (result_ite (result_mxcfgFault h _) (result_mxcfgAll h _))

theorem outcome_execMxlw (h : memoriesCanonical s = true) (a b : Reg) (p : BitVec 2) : OutcomeCanonical (execMxlw a b p s) :=
  outcome_ite (canonical_takeTrap h _) (outcome_finish h (result_withClaim fun _ => result_ite (result_configFault _)
    (result_withExtents (result_enqueue h))))

theorem outcome_execMxswp (h : memoriesCanonical s = true) : OutcomeCanonical (execMxswp s) :=
  outcome_finish h (result_withClaim fun _ => result_enqueue h)

theorem outcome_execMxrun (h : memoriesCanonical s = true) (a b c : Reg) (i : BitVec 1) : OutcomeCanonical (execMxrun a b c i s) :=
  outcome_finish h (result_withClaim fun _ => result_withRange (result_ite (result_configFault _) (result_withExtents (result_enqueue h))))

theorem outcome_execMxrung (h : memoriesCanonical s = true) (a b c : Reg) (i : BitVec 1) : OutcomeCanonical (execMxrung a b c i s) :=
  outcome_finish h (result_withClaim fun _ => result_withRange (result_withExtents (result_enqueue h)))

theorem outcome_execMxacc (h : memoriesCanonical s = true) (a b : Reg) (t k : BitVec 1) : OutcomeCanonical (execMxacc a b t k s) :=
  outcome_finish h (result_withClaim fun _ => result_withRange (result_ite (result_configFault _) (result_withExtents (result_enqueue h))))

theorem outcome_execMxsort (h : memoriesCanonical s = true) (a b c : Reg) (t : BitVec 1) : OutcomeCanonical (execMxsort a b c t s) :=
  outcome_finish h (result_withClaim fun _ => result_ite (result_configFault _) (result_ite (result_configFault _) (result_withExtents (result_enqueue h))))

theorem outcome_execMxzero (h : memoriesCanonical s = true) (b : Reg) (w : BitVec 4) : OutcomeCanonical (execMxzero b w s) :=
  outcome_ite (outcome_finish h (result_withClaim fun _ => result_withRange (result_enqueue h))) (canonical_takeTrap h _)

end

end Sys2Proof.Machine
end

section
/-! PROOFS. The moves of the units, and with them every step, keep the memories in canonical form (O36); it holds at reset (O37). -/

namespace Sys2Proof.Machine

open Sys2Proof.Safety

/-! ## Moves of elements -/

/-- Every move of a list keeps the canonical form. -/
def MovesKeep (l : List UnitMove) : Prop := ∀ m ∈ l, MoveKeeps m

theorem keeps_nil : MovesKeep [] := fun _ hm => by cases hm

theorem keeps_cons {m : UnitMove} {l : List UnitMove} (hm : MoveKeeps m) (hl : MovesKeep l) : MovesKeep (m :: l) :=
  List.forall_mem_cons.mpr ⟨hm, hl⟩

theorem keeps_append {l l' : List UnitMove} (hl : MovesKeep l) (hl' : MovesKeep l') : MovesKeep (l ++ l') :=
  List.forall_mem_append.mpr ⟨hl, hl'⟩

theorem keeps_map {α : Type} {f : α → UnitMove} {l : List α} (hf : ∀ a, MoveKeeps (f a)) : MovesKeep (l.map f) :=
  List.forall_mem_map.mpr fun a _ => hf a

theorem keeps_flatMap {α : Type} {f : α → List UnitMove} {l : List α} (hf : ∀ a, MovesKeep (f a)) : MovesKeep (l.flatMap f) := fun m hm => by
  obtain ⟨a, -, ha⟩ := List.mem_flatMap.mp hm
  exact hf a m ha

theorem keeps_filterMap {α : Type} {f : α → Option UnitMove} {l : List α} (hf : ∀ a, MovesKeep (f a).toList) : MovesKeep (l.filterMap f) :=
  fun m hm => by
    obtain ⟨a, -, ha⟩ := List.mem_filterMap.mp hm
    exact hf a m (by rw [ha]; exact List.mem_singleton_self m)

/-- An optional move. -/
theorem keeps_some {m : UnitMove} (hm : MoveKeeps m) : MovesKeep (some m).toList := keeps_cons hm keeps_nil

theorem keeps_cellEvent (i : BitVec 6) (op : Nat) : MovesKeep (cellEvent i op).toList := by
  unfold cellEvent
  split
  case h_1 => exact keeps_some (keeps_cellMove act_actPass)
  case h_2 => exact keeps_some (keeps_cellMove act_actConst)
  case h_3 => exact keeps_some (keeps_cellMove act_actSel)
  case h_4 => exact keeps_some (keeps_cellMove act_actCmpx)
  case h_5 | h_6 | h_7 | h_8 | h_9 | h_10 | h_11 | h_12 | h_13 | h_14 | h_15 | h_17 | h_18 | h_19 | h_20 | h_21 | h_22 | h_23 | h_24 | h_25
     | h_26 | h_27 | h_28 | h_29 => exact keeps_some keeps_arithMove
  case h_16 | h_30 => exact keeps_some keeps_compareMove
  case h_31 => exact keeps_some (keeps_cellMove act_actUnp3)
  case h_32 => exact keeps_some (keeps_cellMove act_actTacc)
  case h_33 => exact keeps_some (keeps_cellMove act_actRed)
  case h_34 => exact keeps_some (keeps_cellMove act_actCsum)
  case h_35 => exact keeps_some (keeps_cellMove act_actMld)
  case h_36 => exact keeps_some (keeps_cellMove act_actMst)
  case h_37 => exact keeps_some (keeps_cellMove act_actMatom)
  case h_38 => exact keeps_some (keeps_cellMove act_actOrd)
  case h_39 => exact keeps_some (keeps_cellMove act_actWtap)
  case h_40 => exact keeps_some (keeps_cellMove act_actLqw)
  case h_41 => exact keeps_nil

theorem keeps_fibreEvent (i : BitVec 3) (op : Nat) : MovesKeep (fibreEvent i op).toList := by
  unfold fibreEvent
  split
  case h_1 => exact keeps_some (keeps_fibreMove act_actScan)
  case h_2 | h_3 => exact keeps_some keeps_joinMove
  case h_4 => exact keeps_some (keeps_fibreMove act_actRepeat)
  case h_5 => exact keeps_some (keeps_fibreMove act_actLookup)
  case h_6 => exact keeps_some (keeps_fibreMove act_actFred)
  case h_7 => exact keeps_some (keeps_fibreMove act_actFwrite)
  case h_8 => exact keeps_nil

theorem keeps_elementLoads (c : Ctx) (e : Nat) : MovesKeep (elementLoads c e) := by
  unfold elementLoads
  split_ifs
  · exact keeps_append (keeps_cellEvent _ _) (keeps_cons (fun _ h => outcome_execMemoryNodeResult h _) keeps_nil)
  · exact keeps_fibreEvent _ _
  · exact keeps_flatMap fun n => keeps_cons (keeps_streamMove act_actRead) (keeps_cons (keeps_streamMove act_actGather) keeps_nil)
  · exact keeps_nil

section
variable {s : State}

/-! ## Every instruction and event -/

/-- A page pull or a load of an element lost on a link (15 R361). -/
theorem canonical_linkElement (h : memoriesCanonical s = true) (e : Nat) (va : Word) : memoriesCanonical (linkElement s e va) = true := by
  unfold linkElement
  split
  · extract_lets pa trial ends
    have hends : ∀ t ∈ ends, memoriesCanonical t = true := by
      intro t ht
      obtain ⟨f, hf, hft⟩ := List.mem_filterMap.mp ht
      have hkeep := keeps_elementLoads s.me e f hf trial (canonical_frame h (by rfl))
      split at hft
      · rename_i u hu
        rw [hu] at hkeep
        split at hft
        · cases hft; exact canonical_frame hkeep (by rfl)
        · cases hft
      · cases hft
    refine canonical_ite ?_ h
    clear_value ends
    cases ends with
    | nil => exact h
    | cons t ts => exact hends t List.mem_cons_self
  · exact h

theorem outcome_execLinkRetry (h : memoriesCanonical s = true) (u : BitVec 3) (n : Nat) (ok : Bool) : OutcomeCanonical (execLinkRetry u n ok s) := by
  have hnet := canonical_dropPacket h n
  refine outcome_ite h (outcome_ite ?_ (outcome_ite (canonical_linkCopy h _) (outcome_ite (outcome_ite (canonical_takeTrap h _) h)
    (outcome_ite (canonical_ite (canonical_contain h _) h) (canonical_linkElement h _ _)))))
  split
  · exact outcome_ite h (outcome_ite (canonical_haltModule hnet _) (canonical_contain hnet _))
  · exact h

/-- The meaning of every instruction and of every event keeps the form. -/
theorem exec_canonical (h : memoriesCanonical s = true) (i : Instr) : OutcomeCanonical (exec i s) :=
  match i with
  | .ill .. | .trap .. | .hcall .. | .brk => canonical_takeTrap h _
  | .add .. | .sub .. | .and .. | .or .. | .xor .. | .andn .. | .orn .. | .shl .. | .shr .. | .sha .. | .rol .. | .min .. | .max .. | .minn ..
  | .maxn .. | .adds .. | .subs .. | .add32 .. | .sub32 .. | .sel .. | .mul .. | .mulh .. | .mulhn .. | .mul32 .. | .clz .. | .ctz .. | .popc ..
  | .brev .. | .bswap .. | .abs .. | .neg .. | .ext .. | .extn .. | .ins .. | .csum .. | .addi .. | .andi .. | .ori .. | .xori .. | .shli ..
  | .shri .. | .shai .. | .roli .. | .li .. | .lis .. | .lea .. | .fclass .. => outcome_setG h ..
  | .div .. | .divn .. | .rem .. | .remn .. => outcome_divide h ..
  | .ceq .. | .cne .. | .clt .. | .cle .. | .cltn .. | .clen .. | .ctst .. | .cand .. | .cor .. | .cxor .. | .cnot .. | .cmpi .. =>
    outcome_setC h ..
  | .fadd .. | .fsub .. | .fmul .. | .fdiv .. | .fsqrt .. | .fmin .. | .fmax .. | .fabs .. | .fneg .. | .ffma .. | .fcvt .. | .ftoi .. | .itof .. =>
    outcome_fpWrite h ..
  | .fceq .. | .fclt .. | .fcle .. | .fcun .. => outcome_fpCompare h ..
  | .br .. => outcome_execBr h ..
  | .jmp .. | .jr .. => outcome_jump h _
  | .call .. | .callr .. => outcome_link h ..
  | .loop .. => outcome_execLoop h ..
  | .nop => canonical_nextPc h
  | .time .. => canonical_answerG h ..
  | .endH => outcome_execEnd h ..
  | .yield => outcome_execYield h ..
  | .idle => outcome_execIdle h ..
  | .eret => outcome_finish h (result_needPriv (result_eretOp h))
  | .ctxsw .. => outcome_execCtxsw h ..
  | .ctxpark .. => outcome_execCtxpark h ..
  | .ctxload .. => outcome_execCtxload h ..
  | .mfs .. => outcome_execMfs h ..
  | .mts .. => outcome_execMts h ..
  | .ld .. => outcome_execLd h ..
  | .st .. => outcome_execSt h ..
  | .ldw .. => outcome_execLdw h ..
  | .stw .. => outcome_execStw h ..
  | .ldro .. => outcome_execLdro h ..
  | .aad .. | .aand .. | .aor .. | .axor .. | .amin .. | .amax .. | .aminn .. | .amaxn .. | .aswp .. | .afaddF32 .. | .afaddF64 ..
  | .afaddBf16 .. | .aad32 .. | .aand32 .. | .aor32 .. | .axor32 .. | .amin32 .. | .amax32 .. | .aminn32 .. | .amaxn32 .. | .aswp32 ..
  | .afaddF3232 .. | .afaddBf1632 .. => outcome_atomRmw h ..
  | .acas .. => outcome_issueAtomic h ..
  | .ald .. | .ast .. | .ald32 .. | .ast32 .. => outcome_orderOk h (outcome_issueAtomic h ..)
  | .fence .. => outcome_execFence h ..
  | .cflush .. => outcome_execCflush h ..
  | .cinv .. => outcome_execCinv h ..
  | .czero .. => outcome_execCzero h ..
  | .pref .. => outcome_execPref h ..
  | .swset .. => outcome_execSwset h ..
  | .swadd .. => outcome_execSwadd h ..
  | .swwait .. => outcome_execSwwait h ..
  | .swget .. => outcome_execSwget h ..
  | .xcopy .. | .xchn .. => outcome_startChain h
  | .xstat .. => outcome_execXstat h ..
  | .xcancel .. => outcome_execXcancel h ..
  | .xform .. => outcome_execXform h ..
  | .send .. => outcome_execSend h ..
  | .recv .. => outcome_execRecv h ..
  | .peek .. => outcome_execPeek h ..
  | .recvk .. => outcome_execRecvk h ..
  | .cfg .. => outcome_execCfg h ..
  | .cfgw .. => outcome_execCfgw h ..
  | .go .. => outcome_execGo h ..
  | .drain .. => outcome_execDrain h ..
  | .abort .. => outcome_execAbort h ..
  | .replay .. => outcome_execReplay h ..
  | .gstat .. => outcome_execGstat h ..
  | .mxcfg .. => outcome_execMxcfg h ..
  | .mxlw .. => outcome_execMxlw h ..
  | .mxswp => outcome_execMxswp h ..
  | .mxrun .. => outcome_execMxrun h ..
  | .mxrung .. => outcome_execMxrung h ..
  | .mxacc .. => outcome_execMxacc h ..
  | .mxsort .. => outcome_execMxsort h ..
  | .mxzero .. => outcome_execMxzero h ..
  | .hset .. => outcome_execHset h ..
  | .hget .. => outcome_execHget h ..
  | .hmask .. | .hunmask .. | .hrun .. => outcome_slot h
  | .launch .. => outcome_execLaunch h ..
  | .trn .. => outcome_execTrn h ..
  | .trne .. => outcome_execTrne h ..
  | .slack .. => outcome_execSlack h ..
  | .tlbi .. => outcome_execTlbi h ..
  | .tlbia => outcome_execTlbia h ..
  | .tlbip .. => outcome_execTlbip h ..
  | .tlbis .. => outcome_execTlbis h ..
  | .wait .. => outcome_execWait h ..
  | .dcset .. => outcome_execDcset h ..
  | .dcadd .. => outcome_execDcadd h ..
  | .dcdec .. => outcome_execDcdec h ..
  | .dcget .. => outcome_execDcget h ..
  | .dcbind .. => outcome_execDcbind h ..
  | .bar .. => outcome_execBar h ..
  | .barw .. => outcome_execBarw h ..
  | .barinit .. => outcome_execBarinit h ..
  | .pcsel .. => outcome_execPcsel h ..
  | .pcrd .. => outcome_execPcrd h ..
  | .ecnt .. => outcome_execEcnt h ..
  | .ocrd .. => outcome_execOcrd h ..
  | .kstateWrite .. | .kinjWrite .. | .kspillWrite .. | .kspillendWrite .. => outcome_mts h ..
  | .mpartContain .. => outcome_execMpartContain h ..
  | .containmentComplete .. => outcome_execContainmentComplete h ..
  | .mcalSlotWrite .. | .mcalSlotRead .. | .mcalDescriptorWrite .. | .mcalDescriptorRead .. | .mcalSaveAreaWrite .. | .mcalSaveAreaRead ..
  | .mcalRunRead .. | .mcalLinkSlotWrite .. | .mcalLinkSlotRead .. | .mcalLinkChannelWrite .. | .mcalLinkChannelRead .. | .mcalBridgeSlotWrite ..
  | .mcalBridgeSlotRead .. | .mcalBridgeChannelWrite .. | .mcalBridgeChannelRead .. => outcome_mcalStep h ..
  | .mcalCalendarStart .. => outcome_execMcalCalendarStart h ..
  | .mcalCalendarStop .. => outcome_execMcalCalendarStop h ..
  | .mquotaWayMaskWrite .. | .mquotaWayMaskRead .. | .mquotaDramSlotWrite .. | .mquotaDramSlotRead .. | .mquotaShareWrite ..
  | .mquotaShareRead .. | .mquotaCoreListWrite .. | .mquotaCoreListRead .. => outcome_mquotaStep h ..
  | .channelWordArrival .. => outcome_execChannelWordArrival h ..
  | .launchValidation .. => outcome_execLaunchValidation h ..
  | .launchDispatch .. => outcome_execLaunchDispatch h ..
  | .vfLaunchWrite .. => outcome_execVfLaunchWrite h ..
  | .handlerSelection => canonical_selectHandler h ..
  | .asyncCauseDelivery => canonical_deliverAsync h ..
  | .loadCompletion .. => canonical_loadCompletion h ..
  | .atomicPerform .. => canonical_performAtomic h ..
  | .tableWalkComplete .. => outcome_execTableWalkComplete h ..
  | .pagePullComplete .. => outcome_execPagePullComplete h ..
  | .calendarSlotBoundary .. => canonical_slotBoundary h ..
  | .contextLoadStart .. => canonical_loadStart h ..
  | .tokenBoundarySwap .. => canonical_tokenSwap h ..
  | .contextLoadComplete .. => canonical_loadComplete h ..
  | .contextParkComplete .. => canonical_parkComplete h ..
  | .receptionLogReplay => canonical_replayRecord h ..
  | .spineSwitchComplete .. => canonical_spineDone h ..
  | .epochEnd => canonical_epochEnd h ..
  | .patrolScrub .. => outcome_execPatrolScrub h ..
  | .perfCounterWrap .. => outcome_execPerfCounterWrap h ..
  | .cellPass .. => keeps_cellMove act_actPass s h
  | .cellConst .. => keeps_cellMove act_actConst s h
  | .cellSel .. => keeps_cellMove act_actSel s h
  | .cellCmpx .. => keeps_cellMove act_actCmpx s h
  | .cellFadd .. | .cellFsub .. | .cellFmul .. | .cellFma .. | .cellFms .. | .cellFmin .. | .cellFmax .. | .cellFabs .. | .cellFneg ..
  | .cellFdiv .. | .cellFsqrt .. | .cellFcvt .. | .cellIadd .. | .cellIsub .. | .cellImul .. | .cellImac .. | .cellIand .. | .cellIor ..
  | .cellIxor .. | .cellIshl .. | .cellIshr .. | .cellIsha .. | .cellImin .. | .cellImax .. => keeps_arithMove s h
  | .cellFcmp .. | .cellIcmp .. => keeps_compareMove s h
  | .cellUnp3 .. => keeps_cellMove act_actUnp3 s h
  | .cellTacc .. => keeps_cellMove act_actTacc s h
  | .cellRed .. => keeps_cellMove act_actRed s h
  | .cellCsum .. => keeps_cellMove act_actCsum s h
  | .cellMld .. => keeps_cellMove act_actMld s h
  | .cellMst .. => keeps_cellMove act_actMst s h
  | .cellMatom .. => keeps_cellMove act_actMatom s h
  | .memoryNodeResult .. => outcome_execMemoryNodeResult h ..
  | .storeAcknowledge .. => canonical_storeAck h ..
  | .cellOrd .. => keeps_cellMove act_actOrd s h
  | .cellWtap .. => keeps_cellMove act_actWtap s h
  | .cellLqw .. => keeps_cellMove act_actLqw s h
  | .route .. => keeps_routerMove act_actRoute s h
  | .steer .. => keeps_routerMove act_actSteer s h
  | .merge .. => keeps_routerMove act_actMerge s h
  | .carry .. => keeps_routerMove act_actCarry s h
  | .scan .. => keeps_fibreMove act_actScan s h
  | .isect .. | .union .. => keeps_joinMove s h
  | .repeatF .. => keeps_fibreMove act_actRepeat s h
  | .lookup .. => keeps_fibreMove act_actLookup s h
  | .fred .. => keeps_fibreMove act_actFred s h
  | .fwrite .. => keeps_fibreMove act_actFwrite s h
  | .streamRead .. => keeps_streamMove act_actRead s h
  | .streamWrite .. => keeps_streamMove act_actWrite s h
  | .streamGather .. => keeps_streamMove act_actGather s h
  | .controlTokenForward .. => outcome_execControlTokenForward h ..
  | .meshTokenForward .. => outcome_execMeshTokenForward h ..
  | .creditReturn .. => outcome_execCreditReturn h ..
  | .tokenArrivalAtPort .. => canonical_tokenArrival h ..
  | .spillRefill => canonical_spillRefill h ..
  | .graphCompletion .. => canonical_completeGraph h ..
  | .engineDecrement .. => outcome_execEngineDecrement h ..
  | .copyChainStart .. => outcome_execCopyChainStart h ..
  | .copyRecordRead .. => canonical_copyRead h ..
  | .copyElementCommit .. => canonical_copyCommit h ..
  | .transformRequestStart => canonical_xformStart h ..
  | .transformChunkComplete .. => canonical_xformChunk h ..
  | .mxCommandStart => canonical_startCommand h ..
  | .arrayRowAdvance => canonical_advanceArray h ..
  | .matrixRowCommit => canonical_commitRow h ..
  | .mxCommandComplete => canonical_completeCommand h ..
  | .linkRetry .. => outcome_execLinkRetry h ..
  | .hostBar2Read .. => outcome_execHostBar2Read h ..
  | .hostBar2Write .. => outcome_execHostBar2Write h ..
  | .pfBar2Access .. => outcome_execPfBar2Access h ..
  | .functionLevelReset .. => outcome_execFunctionLevelReset h ..
  | .bootcmdColdStart => outcome_execBootcmdColdStart h ..
  | .bootcmdWarmStart => outcome_execBootcmdWarmStart h ..
  | .powerSequencing .. | .selfTest .. => canonical_phaseEnd h ..
  | .clockLock .. => outcome_execClockLock h ..
  | .dramTraining .. => outcome_execDramTraining h ..
  | .imageCheck => outcome_execImageCheck h ..
  | .monitorStart => outcome_execMonitorStart h ..
  | .preEmptionNotice .. => canonical_me h _
  | .monitorRequestedHalt => outcome_execMonitorRequestedHalt h ..

theorem keeps_exec (i : Instr) : MoveKeeps (exec i) := fun _ h => exec_canonical h i

/-! ## The moves of the units (02 R26 to R30) -/

theorem keeps_routerEvent (i : BitVec 6) (op : Nat) : MovesKeep (routerEvent i op).toList := by
  unfold routerEvent
  split
  case h_1 => exact keeps_some (keeps_exec (.route i))
  case h_2 => exact keeps_some (keeps_exec (.steer i))
  case h_3 => exact keeps_some (keeps_exec (.merge i))
  case h_4 => exact keeps_some (keeps_exec (.carry i))
  case h_5 => exact keeps_nil

theorem keeps_elementMoves (c : Ctx) : MovesKeep (elementMoves c) := by
  unfold elementMoves
  refine keeps_append (keeps_append (keeps_append (keeps_append (keeps_append (keeps_append ?_ ?_) ?_) ?_) ?_) ?_) ?_
  · exact keeps_filterMap fun n => keeps_cellEvent _ _
  · exact keeps_filterMap fun n => keeps_fibreEvent _ _
  · exact keeps_filterMap fun n => keeps_routerEvent _ _
  · exact keeps_flatMap fun k => keeps_cons (keeps_exec (.streamRead _ _)) (keeps_cons (keeps_exec (.streamWrite _ _))
      (keeps_cons (keeps_exec (.streamGather _ _)) keeps_nil))
  · exact keeps_flatMap fun n => keeps_cons (keeps_exec (.memoryNodeResult _)) (keeps_cons (keeps_exec (.controlTokenForward _)) keeps_nil)
  · exact keeps_map fun u => keeps_exec (.storeAcknowledge _)
  · exact keeps_map fun n => keeps_exec (.storeAcknowledge _)

theorem keeps_engineMoves : MovesKeep engineMoves := by
  unfold engineMoves
  refine keeps_append (keeps_append (keeps_append ?_ ?_) ?_) ?_
  · exact keeps_flatMap fun e => keeps_cons (keeps_exec (.copyChainStart _)) (keeps_cons (keeps_exec (.copyRecordRead _))
      (keeps_cons (keeps_exec (.copyElementCommit _)) keeps_nil))
  · exact keeps_cons (keeps_exec .transformRequestStart) keeps_nil
  · exact keeps_map fun n => keeps_exec (.transformChunkComplete _)
  · exact keeps_cons (keeps_exec .mxCommandComplete) (keeps_cons (keeps_exec .matrixRowCommit) (keeps_cons (keeps_exec .arrayRowAdvance)
      (keeps_cons (keeps_exec .mxCommandStart) keeps_nil)))

theorem keeps_networkMoves (s : State) : MovesKeep (networkMoves s) := by
  unfold networkMoves
  refine keeps_append (keeps_append (keeps_append (keeps_append ?_ ?_) ?_) ?_) ?_
  · exact keeps_map fun g => keeps_exec (.graphCompletion _)
  · exact keeps_flatMap fun k => keeps_cons (keeps_exec (.channelWordArrival k)) (keeps_cons (keeps_exec (.launchValidation k))
      (keeps_cons (keeps_exec (.launchDispatch k)) (keeps_cons (keeps_exec (.tokenArrivalAtPort k))
        (keeps_cons (keeps_exec (.meshTokenForward k)) keeps_nil))))
  · exact keeps_map fun u => keeps_exec (.creditReturn u.1)
  · exact keeps_map fun k => keeps_exec (.engineDecrement k)
  · exact keeps_cons (keeps_exec .receptionLogReplay) (keeps_cons (keeps_exec .spillRefill) keeps_nil)

theorem keeps_calendarMoves (s : State) : MovesKeep (calendarMoves s) := by
  unfold calendarMoves
  refine keeps_append (keeps_append (keeps_append ?_ ?_) ?_) ?_
  · exact keeps_flatMap fun r => keeps_cons (keeps_exec (.contextLoadStart _)) (keeps_cons (keeps_exec (.contextParkComplete _ _))
      (keeps_cons (keeps_exec (.contextParkComplete _ _)) (keeps_cons (keeps_exec (.contextLoadComplete _ _))
        (keeps_cons (keeps_exec (.contextLoadComplete _ _)) (keeps_cons (keeps_exec (.tokenBoundarySwap _))
          (keeps_cons (keeps_exec (.spineSwitchComplete _)) keeps_nil))))))
  · exact keeps_map fun p => keeps_exec (.containmentComplete _)
  · exact keeps_map fun x => keeps_exec (.pagePullComplete _ _)
  · exact keeps_map fun n => keeps_exec (.perfCounterWrap _)

theorem keeps_unitMoves (s : State) : MovesKeep (unitMoves s) := by
  unfold unitMoves
  refine keeps_append (keeps_append (keeps_append ?_ ?_) (keeps_networkMoves s)) (keeps_calendarMoves s)
  · exact keeps_flatMap fun k => keeps_cons (keeps_exec (.loadCompletion k)) (keeps_cons (keeps_exec (.atomicPerform k)) keeps_nil)
  · split
    · exact keeps_append (keeps_elementMoves s.me) keeps_engineMoves
    · exact keeps_nil

theorem canonical_autoMove (h : memoriesCanonical s = true) : memoriesCanonical (autoMove s) = true := by
  unfold autoMove
  rcases firstMove_cases s (unitMoves s) with he | ⟨m, hm, hnext⟩
  · rw [he]; exact h
  · have hkeep := keeps_unitMoves s m hm s h
    rw [hnext] at hkeep
    exact hkeep

/-- The moves whose time has come go before all others. -/
theorem keeps_timed {m : UnitMove} (hm : timed s = some m) : MoveKeeps m := by
  unfold timed at hm
  split_ifs at hm
  · cases hm; exact keeps_exec .epochEnd
  · obtain ⟨r, -, rfl⟩ := Option.map_eq_some_iff.mp hm
    exact keeps_exec (.calendarSlotBoundary _)

theorem keeps_due {m : UnitMove} (hm : due s = some m) : MoveKeeps m := by
  unfold due at hm
  split_ifs at hm
  obtain ⟨r, -, rfl⟩ := Option.map_eq_some_iff.mp hm
  exact keeps_exec (.tokenBoundarySwap _)

/-! ## Fetch and issue (04 R82, R83) -/

/-- What a fetch leaves has canonical memories. -/
def FetchedCanonical (r : Fetched) : Prop :=
  match r with
  | .word t _ | .discard t | .wait t => memoriesCanonical t = true
  | .trap f => ResultCanonical (.error f)

theorem fetched_fetch (h : memoriesCanonical s = true) : FetchedCanonical (fetch s) := by
  have ha := acc_access (s := { s with me.stalled := false, me.pinWait := none }) (canonical_frame h (by rfl))
    (priv s) s.me.regs.pc 4 needExec
  unfold fetch
  dsimp only
  split
  case h_1 e1 => rw [e1] at ha; exact ha
  case h_2 e1 => rw [e1] at ha; exact canonical_me ha _
  case h_3 t pa e1 =>
    rw [e1] at ha
    split
    · exact canonical_contain ha _
    · have hg : ResultCanonical (guardLine t s.me.regs.pc (pa / 128) true
          (if readLost t pa 4 true then .error (lostTrap s.me.regs.pc pa) else .ok t)) := result_guardLine ha (result_ite (result_trap _ (by rfl)) ha)
      split
      case h_1 e2 => rw [e2] at hg; exact hg
      case h_2 e2 =>
        rw [e2] at hg
        split
        · exact canonical_me hg _
        · exact canonical_l1Read (canonical_me hg _) _ _ _

theorem canonical_vectorFault (h : memoriesCanonical s = true) : memoriesCanonical (vectorFault s) = true :=
  canonical_ite (canonical_haltModule h _) (canonical_contain h _)

theorem canonical_fetchTrap (h : memoriesCanonical s = true) {t : Trap} (ht : ResultCanonical (.error t)) :
    memoriesCanonical (fetchTrap s t) = true := by
  have hbase : memoriesCanonical (t.base.getD s) = true := by
    cases hb : t.base with
    | none => exact h
    | some b => exact ht b hb
  exact canonical_ite (canonical_vectorFault (canonical_me hbase _)) (canonical_takeTrap (canonical_me hbase _) _)

theorem outcome_orMove {r : Host.Outcome State Fault Refusal} (hr : OutcomeCanonical r) : OutcomeCanonical (orMove r) := by
  unfold orMove
  split
  · exact outcome_ite (canonical_autoMove hr) hr
  · exact hr

theorem canonical_issued (h : memoriesCanonical s = true) : memoriesCanonical (issued s) = true :=
  canonical_ite (canonical_me h _) (canonical_countEvent (canonical_countWork (canonical_me h _)) _ _)

theorem outcome_issueWord (h : memoriesCanonical s = true) (w : BitVec 32) : OutcomeCanonical (issueWord s w) := by
  refine outcome_ite (canonical_autoMove (canonical_countEvent h _ _)) ?_
  dsimp only
  split
  · exact canonical_takeTrap (canonical_me h _) _
  · exact outcome_orMove (exec_canonical (canonical_issued (canonical_me h _)) _)

theorem outcome_issue (h : memoriesCanonical s = true) : OutcomeCanonical (issue s) := by
  have hf := fetched_fetch h
  unfold issue
  split
  case h_1 e1 => rw [e1] at hf; exact outcome_issueWord hf _
  case h_2 e1 => rw [e1] at hf; exact canonical_fetchTrap h hf
  case h_3 e1 => rw [e1] at hf; exact hf
  case h_4 e1 => rw [e1] at hf; exact canonical_autoMove hf

/-! ## The move of a step (02 R26 to R30) -/

theorem outcome_sequence (h : memoriesCanonical s = true) : OutcomeCanonical (sequence s) := by
  have hw : memoriesCanonical (wakeIdle s) = true := canonical_ite (canonical_me h _) h
  refine outcome_ite (canonical_autoMove h) (outcome_ite (outcome_ite (canonical_autoMove hw) (outcome_ite (canonical_deliverAsync hw)
    (outcome_issue hw))) (outcome_ite (canonical_autoMove hw) (outcome_ite (canonical_selectHandler hw)
      (outcome_ite (canonical_autoMove hw) (canonical_deliverAsync hw)))))

theorem outcome_agendaMove (h : memoriesCanonical s = true) (m : Move) : OutcomeCanonical (agendaMove s m) := by
  cases m with
  | issue c => exact outcome_ite h (outcome_sequence (canonical_focus h c))
  | event c i =>
    have hx := exec_canonical (canonical_focus h c) i
    refine outcome_ite trivial (outcome_ite h (outcome_ite ?_ hx))
    split
    case h_1 e1 => rw [e1] at hx; exact canonical_autoMove (canonical_frame hx (by rfl))
    case h_2 => exact hx
  | upset u => exact canonical_upsetAt h u
  | readBootstat => exact canonical_frame h (by rfl)
  | readDevkey i => exact canonical_frame h (by rfl)
  | readPstate p => exact canonical_ite (canonical_frame h (by rfl)) h
  | setPstate p v => exact canonical_showState h p v
  | setModule n total => exact canonical_setModule h n total
  | setRoute m k => exact canonical_setRoute h m k
  | setSystem p i => exact canonical_setSystem h p i

theorem outcome_move (h : memoriesCanonical s = true) : OutcomeCanonical (move s) := by
  unfold move
  split
  case h_1 e1 => exact keeps_timed e1 s h
  case h_2 =>
    split
    · exact outcome_agendaMove (canonical_frame h (by rfl)) _
    · refine outcome_ite trivial ?_
      split
      case h_1 e2 => exact keeps_due e2 s h
      case h_2 => exact outcome_sequence h

end

/-- Settles O36: the move of every step keeps the form, and the clock leaves the memories. -/
theorem stepKeepsMemoriesCanonical : Obligations.StepKeepsMemoriesCanonical := by
  intro s t h hstep
  obtain ⟨u, hu, rfl⟩ := step_next_iff.mp hstep
  have hmove := outcome_move h
  rw [hu] at hmove
  exact canonical_clock hmove

/-- Settles O37: the memories are empty at reset. -/
theorem resetMemoriesAreCanonical : Obligations.ResetMemoriesAreCanonical := (canonical_iff _).mpr reset_wf

end Sys2Proof.Machine
end

section
/-! PROOFS. Governor epochs, the patrol scrub, link retries and the pre-emption notice (O59). -/

namespace Sys2Proof.Machine

open Sys2Proof.Claims

/-! ## The governor's numbers (17 R388, R390) -/

theorem fpermNext_above {power : Nat} (h : 4300000 < power) (f : Nat) : fpermNext power f = max 48 (f - 1) := by
  unfold fpermNext
  rw [if_pos h]
  split <;> omega

theorem fpermNext_below {power f : Nat} (h : power < 4100000) (hf : f < 240) : fpermNext power f = f + 1 := by
  unfold fpermNext
  rw [if_neg (by omega), if_pos h, if_pos hf]

theorem fpermNext_between {power : Nat} (h : 4100000 ≤ power) (h' : power ≤ 4300000) (f : Nat) : fpermNext power f = f := by
  unfold fpermNext
  rw [if_neg (by omega), if_neg (by omega)]

/-- The number of a spine of the module names its die and the spine on it. -/
theorem spine_number (die sp : BitVec 3) :
    die.toNat * 8 + sp.toNat < 64 ∧ BitVec.ofNat 3 ((die.toNat * 8 + sp.toNat) / 8) = die ∧ BitVec.ofNat 3 (die.toNat * 8 + sp.toNat) = sp := by
  have hd := die.isLt
  have hs := sp.isLt
  refine ⟨by omega, BitVec.eq_of_toNat_eq ?_, BitVec.eq_of_toNat_eq ?_⟩ <;> simp only [BitVec.toNat_ofNat] <;> omega

section
variable {s t u : State}

/-- The frequency that step 4 of the epoch gives a spine. -/
theorem setSpines_spine (s : State) (now : Nat) (die sp : BitVec 3) :
    tabGet 48 (setSpines s now).gov.spines (die.toNat * 8 + sp.toNat) = spineFreq s now s.gov.fperm die sp := by
  obtain ⟨hlt, hdie, hsp⟩ := spine_number die sp
  have hput := tabGet_foldl_put (48 : Nat) Prod.fst Prod.snd
    (fun k => spineFreq s now s.gov.fperm (BitVec.ofNat 3 (k / 8)) (BitVec.ofNat 3 k)) (die.toNat * 8 + sp.toNat)
    ((List.range 64).map fun k => (k, spineFreq s now s.gov.fperm (BitVec.ofNat 3 (k / 8)) (BitVec.ofNat 3 k))) []
    (by rintro p hp; obtain ⟨k, -, rfl⟩ := List.mem_map.mp hp; rfl)
  refine hput.trans ?_
  rw [if_pos (List.mem_map.mpr ⟨_, List.mem_map.mpr ⟨_, List.mem_range.mpr hlt, rfl⟩, rfl⟩), hdie, hsp]

theorem spineFreq_held {die sp : BitVec 3} (h : heldSpine s die sp = true) (now fperm : Nat) : spineFreq s now fperm die sp = 200 := if_pos h

/-! ## What an epoch leaves (17 R384) -/

/-- The registers of the context in focus, window memory, the cores, the network and the clock stay. -/
structure EpochFrame (s t : State) : Prop where
  regs : t.me.regs = s.me.regs
  win : t.win = s.win
  cores : t.cores = s.cores
  net : t.net = s.net
  ktime : t.ktime = s.ktime

theorem EpochFrame.refl (s : State) : EpochFrame s s := ⟨rfl, rfl, rfl, rfl, rfl⟩

theorem EpochFrame.trans (h : EpochFrame s t) (h' : EpochFrame t u) : EpochFrame s u :=
  ⟨h'.regs.trans h.regs, h'.win.trans h.win, h'.cores.trans h.cores, h'.net.trans h.net, h'.ktime.trans h.ktime⟩

/-- A part of the epoch that leaves the frame and the governor's numbers. -/
def Evaluates (s t : State) : Prop := EpochFrame s t ∧ t.gov = s.gov

theorem Evaluates.refl (s : State) : Evaluates s s := ⟨.refl s, rfl⟩

theorem Evaluates.trans (h : Evaluates s t) (h' : Evaluates t u) : Evaluates s u := ⟨h.1.trans h'.1, h'.2.trans h.2⟩

/-- A context as it stands has its registers, also where its tables stand in its save area. -/
theorem findCtx_me_regs {c : Ctx} (h : findCtx s s.me.id = some c) : c.regs = s.me.regs := by
  have hraw : rawCtx s s.me.id = some s.me := if_pos rfl
  unfold findCtx at h
  rw [hraw] at h
  split at h
  · rw [Option.map_some, Option.some_inj] at h
    rw [← h]
    exact viewArea_regs _ _
  · rw [Option.some_inj] at h
    rw [h]

theorem evaluates_putCtx {id : CtxId} {c : Ctx} (hc : s.me.id = id → c.regs = s.me.regs) : Evaluates s (putCtx s id c) := by
  unfold putCtx
  split
  next hid => exact ⟨⟨hc hid, rfl, rfl, rfl, rfl⟩, rfl⟩
  next => exact ⟨⟨rfl, rfl, rfl, rfl, rfl⟩, rfl⟩

theorem evaluates_updCtx {f : Ctx → Ctx} (hf : ∀ c, (f c).regs = c.regs) (s : State) (id : CtxId) : Evaluates s (updCtx s id f) := by
  unfold updCtx
  split
  · exact .refl s
  · rename_i c hc
    have hregs : s.me.id = id → (f c).regs = s.me.regs := fun hid => by
      subst hid
      exact (hf c).trans (findCtx_me_regs hc)
    have hmem : Evaluates s { s with mem := writeView s.mem c (f c) } := ⟨⟨rfl, rfl, rfl, rfl, rfl⟩, rfl⟩
    split
    · exact hmem.trans (evaluates_putCtx hregs)
    · exact evaluates_putCtx hregs

theorem markSlot_regs (i : BitVec 5) (k : Cause) (c : Ctx) : (markSlot i k c).regs = c.regs := rfl

theorem pendAsync_regs (cause : BitVec 8) (v : Word) (c : Ctx) : (pendAsync cause v c).regs = c.regs := by unfold pendAsync; split <;> rfl

theorem evaluates_deliverRisk (s : State) (part : BitVec 7) (i : Nat) (e : Eph) : Evaluates s (deliverRisk s part i e) := by
  unfold deliverRisk
  split
  · exact .refl s
  · dsimp only
    split
    · exact evaluates_updCtx (markSlot_regs _ _) s _
    · exact evaluates_updCtx (pendAsync_regs _ _) s _

theorem evaluates_ephPut (s : State) (part : BitVec 7) (i : Nat) (e : Eph) : Evaluates s (ephPut s part i e) := ⟨⟨rfl, rfl, rfl, rfl, rfl⟩, rfl⟩

theorem evaluates_evaluateAll (part : BitVec 7) (now fperm : Nat) (t : Tab Eph) (s : State) : Evaluates s (evaluateAll s part now fperm t) := by
  induction t generalizing s with
  | nil => exact .refl s
  | cons x rest ih =>
    unfold evaluateAll
    split
    · exact ih s
    · dsimp only
      have hput := evaluates_ephPut s part x.1 (evaluate s part now fperm x.2).1
      split
      · exact (hput.trans (evaluates_deliverRisk _ _ _ _)).trans (ih _)
      · exact hput.trans (ih _)

theorem evaluates_foldl {β : Type} {f : State → β → State} (hf : ∀ b s, Evaluates s (f s b)) (l : List β) (s : State) : Evaluates s (l.foldl f s) := by
  induction l generalizing s with
  | nil => exact .refl s
  | cons b l ih => exact (hf b s).trans (ih _)

theorem evaluates_chargeEnergy (s : State) : Evaluates s (chargeEnergy s) := ⟨⟨rfl, rfl, rfl, rfl, rfl⟩, rfl⟩

/-- The ramp of a die changes the rails' numbers, and of the governor's neither f_perm nor the spines. -/
theorem rampDie_frame (s : State) (die : BitVec 3) :
    EpochFrame s (rampDie s die) ∧ (rampDie s die).gov.fperm = s.gov.fperm ∧ (rampDie s die).gov.spines = s.gov.spines :=
  ⟨⟨rfl, rfl, rfl, rfl, rfl⟩, rfl, rfl⟩

theorem rampDies_frame (l : List (BitVec 3)) (s : State) :
    EpochFrame s (l.foldl rampDie s) ∧ (l.foldl rampDie s).gov.fperm = s.gov.fperm ∧ (l.foldl rampDie s).gov.spines = s.gov.spines := by
  induction l generalizing s with
  | nil => exact ⟨.refl s, rfl, rfl⟩
  | cons d l ih =>
    obtain ⟨hf, hp, hs⟩ := rampDie_frame s d
    obtain ⟨hf', hp', hs'⟩ := ih (rampDie s d)
    exact ⟨hf.trans hf', hp'.trans hp, hs'.trans hs⟩

theorem setRails_frame (s : State) :
    EpochFrame s (setRails s) ∧ (setRails s).gov.fperm = s.gov.fperm ∧ (setRails s).gov.spines = s.gov.spines := by
  unfold setRails
  extract_lets gov s1
  obtain ⟨hframe, hperm, hspines⟩ := rampDies_frame dieList s1
  have h1 : EpochFrame s s1 := ⟨rfl, rfl, rfl, rfl, rfl⟩
  exact ⟨h1.trans hframe, hperm, hspines⟩

/-- Does a context stand at the start of an epoch? -/
def CountsAnew (c : Ctx) : Prop := c.cyc = 0 ∧ c.pairCyc = 0 ∧ c.work = 0 ∧ c.moved = 0 ∧ c.fresh = false ∧ c.fab.fired = []

theorem renewCtx_countsAnew (s : State) (c : Ctx) : CountsAnew (renewCtx s c) := ⟨rfl, rfl, rfl, rfl, rfl, rfl⟩

/-- The state with the counts of every context started again, the next end of an epoch and the cells that fired set. -/
def renewed (t : State) (next : Word) (firing : Tab Nat) : State :=
  { t with me := renewCtx t t.me, others := t.others.map (renewCtx t), epochAt := next, gov.firing := firing }

theorem renewed_frame (t : State) (next : Word) (x : Tab Nat) : EpochFrame t (renewed t next x) := ⟨rfl, rfl, rfl, rfl, rfl⟩

theorem renewed_epochAt (t : State) (next : Word) (x : Tab Nat) : (renewed t next x).epochAt = next := rfl

theorem renewed_fperm (t : State) (next : Word) (x : Tab Nat) : (renewed t next x).gov.fperm = t.gov.fperm := rfl

theorem renewed_spines (t : State) (next : Word) (x : Tab Nat) : (renewed t next x).gov.spines = t.gov.spines := rfl

theorem renewed_countAnew (t : State) (next : Word) (x : Tab Nat) : ∀ c ∈ (renewed t next x).me :: (renewed t next x).others, CountsAnew c := by
  intro c hc
  rcases List.mem_cons.mp hc with rfl | hc
  · exact renewCtx_countsAnew t _
  · obtain ⟨d, -, rfl⟩ := List.mem_map.mp hc
    exact renewCtx_countsAnew t d

theorem heldSpine_of_cores (h : t.cores = s.cores) (die sp : BitVec 3) : heldSpine t die sp = heldSpine s die sp := by
  unfold heldSpine; rw [h]

/-- An epoch that is due (17 R384, R388, R390). -/
theorem epochEnd_ends (h : s.epochAt.toNat ≤ s.ktime.toNat) :
    (epochEnd s).epochAt = s.epochAt + 2500 ∧ EpochFrame s (epochEnd s)
      ∧ (epochEnd s).gov.fperm = fpermNext (Config.modulePower s.tick) s.gov.fperm
      ∧ (∀ die sp, heldSpine s die sp = true → tabGet 48 (epochEnd s).gov.spines (die.toNat * 8 + sp.toNat) = 200)
      ∧ ∀ c ∈ (epochEnd s).me :: (epochEnd s).others, CountsAnew c := by
  unfold epochEnd
  rw [if_neg (Nat.not_lt.mpr h)]
  extract_lets now s1 gov s2 s3 s4
  have h1 : Evaluates s s1 := evaluates_chargeEnergy s
  have h2 : EpochFrame s1 s2 := ⟨rfl, rfl, rfl, rfl, rfl⟩
  have hperm2 : s2.gov.fperm = fpermNext (Config.modulePower s.tick) s.gov.fperm := congrArg (fun g => fpermNext _ (Gov.fperm g)) h1.2
  obtain ⟨h3, hgov3⟩ : Evaluates s2 s3 := evaluates_foldl (fun p t => evaluates_evaluateAll _ _ _ _ t) s2.parts s2
  obtain ⟨h4, hperm4, hspines4⟩ := setRails_frame (setSpines s3 now)
  have hset : EpochFrame s3 (setSpines s3 now) := ⟨rfl, rfl, rfl, rfl, rfl⟩
  have hbefore : EpochFrame s s3 := (h1.1.trans h2).trans h3
  have hall : EpochFrame s s4 := (hbefore.trans hset).trans h4
  have hpermEnd : s4.gov.fperm = fpermNext (Config.modulePower s.tick) s.gov.fperm := hperm4.trans ((congrArg Gov.fperm hgov3).trans hperm2)
  have hheld : ∀ die sp, heldSpine s die sp = true → tabGet 48 s4.gov.spines (die.toNat * 8 + sp.toNat) = 200 := fun die sp hheld => by
    show tabGet 48 (setRails (setSpines s3 now)).gov.spines _ = _
    rw [hspines4, setSpines_spine]
    exact spineFreq_held ((heldSpine_of_cores hbefore.cores die sp).trans hheld) _ _
  clear_value s4
  show (renewed s4 _ _).epochAt = _ ∧ EpochFrame s (renewed s4 _ _) ∧ _
  refine ⟨renewed_epochAt _ _ _, hall.trans (renewed_frame _ _ _), ?_, ?_, renewed_countAnew _ _ _⟩
  · exact (renewed_fperm _ _ _).trans hpermEnd
  · exact fun die sp h => (congrArg (tabGet 48 · _) (renewed_spines _ _ _)).trans (hheld die sp h)

/-! ## Errors, lost packets and the notice (08 R183, 10 R238, 15 R356, R361) -/

theorem patrolScrub_counts (s : State) (line : BitVec 45) (bad : Bool) :
    ∃ u, exec (.patrolScrub line bad) s = .next u ∧ { u with errlog := s.errlog, bad := s.bad } = s
      ∧ (∀ d, tabGet 0 u.errlog d = if d = line.toNat / 2 ^ 30 % 8 then tabGet 0 s.errlog d + 1 else tabGet 0 s.errlog d)
      ∧ (∀ a, a ∈ u.bad ↔ a ∈ s.bad ∨ (bad = true ∧ a = line.toNat)) := by
  have hlog : ∀ d, tabGet 0 (tabPut 0 s.errlog (line.toNat / 2 ^ 30 % 8) (tabGet 0 s.errlog (line.toNat / 2 ^ 30 % 8) + 1)) d
      = if d = line.toNat / 2 ^ 30 % 8 then tabGet 0 s.errlog d + 1 else tabGet 0 s.errlog d := fun d => by
    rw [tabGet_put]
    split
    · subst d; rfl
    · rfl
  refine ⟨_, rfl, ?_⟩
  split
  next hnew =>
    obtain ⟨rfl, -⟩ := Bool.and_eq_true_iff.mp hnew
    refine ⟨rfl, hlog, fun a => ?_⟩
    simp [or_comm]
  next hold =>
    refine ⟨rfl, hlog, fun a => ⟨.inl, ?_⟩⟩
    rintro (ha | ⟨rfl, rfl⟩)
    · exact ha
    · simpa using hold

/-- A containment event clears nothing but the save areas that it resets (15 R358). -/
theorem contain_keepsButAreas (s : State) (p : BitVec 6) : KeepsButAreas s (contain s p) p := by
  intro a hout
  have hq : ((resetAreas s p).any fun area => decide (area + 0x10000 ≤ a) && decide (a < area + 0x100000)) = false := by
    rw [List.any_eq_false]
    exact fun area harea h => hout area harea (by simpa using h)
  have hfilter := tabFind_filter (fun k => !(resetAreas s p).any fun area => decide (area + 0x10000 ≤ k) && decide (k < area + 0x100000)) s.mem a
  rw [hq] at hfilter
  exact congrArg (fun o => o.getD 0#8) hfilter

theorem contain_win (s : State) (p : BitVec 6) : (contain s p).win = s.win := rfl

/-- A packet lost on a link between modules halts the module where the monitor owns it, and contains its partition otherwise. -/
theorem linkRetry_packet {n l : Nat} {p : Packet} (hp : s.net[n]? = some p) (hlink : p.link = some l) (hl : 16384 ≤ l) :
    exec (.linkRetry 0 n false) s = .next (if p.part.getLsbD 6 then haltModule (dropPacket s n) 0x0A
      else contain (dropPacket s n) (p.part.setWidth 6)) := by
  obtain ⟨src, part, load, route, link, chan⟩ := p
  subst hlink
  show execLinkRetry 0 n false s = _
  unfold execLinkRetry
  rw [if_neg Bool.false_ne_true, if_pos (show (0 : BitVec 3) = 0#3 from rfl), hp]
  dsimp only
  rw [if_neg (Nat.not_lt.mpr hl)]
  split <;> rfl

theorem linkRetry_pull {n : Nat} (h : partExists s (BitVec.ofNat 7 (n % 64)) = true) :
    exec (.linkRetry 3 n false) s = .next (contain s (BitVec.ofNat 6 n)) := by
  show Host.Outcome.next (if partExists s (BitVec.ofNat 7 (n % 64)) then _ else _) = _
  rw [if_pos h]

/-- A notice becomes pending, and one beside a pending one changes nothing (10 R238). -/
theorem preEmptionNotice_pends (s : State) (stop : Word) :
    ∃ u, exec (.preEmptionNotice stop) s = .next u ∧ { u with me.asyncs := s.me.asyncs } = s
      ∧ ((∀ a ∈ s.me.asyncs, a.kcause ≠ 0x18#9) → u.me.asyncs = s.me.asyncs ++ [⟨0x18#9, stop, 0⟩])
      ∧ ((∃ a ∈ s.me.asyncs, a.kcause = 0x18#9) → u = s) := by
  refine ⟨_, rfl, ?_⟩
  unfold pendAsync
  split
  next hany =>
    refine ⟨rfl, fun hnone => ?_, fun _ => rfl⟩
    obtain ⟨a, ha, hk⟩ := List.any_eq_true.mp hany
    exact absurd (of_decide_eq_true hk) (hnone a ha)
  next hnone =>
    refine ⟨rfl, fun _ => rfl, fun ⟨a, ha, hk⟩ => ?_⟩
    exact absurd (List.any_eq_true.mpr ⟨a, ha, decide_eq_true hk⟩) hnone

end

/-- Settles O59: each event by the lemma about it; the bounds on f_perm are those of its next value for any power. -/
theorem epochsScrubsAndRetries : Obligations.EpochsScrubsAndRetries := by
  intro s line bad m n l stop p die sp power f
  refine ⟨fun h => congrArg _ (if_pos h), fun h => ?_, patrolScrub_counts s line bad, rfl, fun hp hlink hl => ?_, fun h => ?_,
    preEmptionNotice_pends s stop⟩
  · obtain ⟨hat, hframe, hfperm, hheld, hanew⟩ := epochEnd_ends h
    exact ⟨epochEnd s, rfl, hat, hframe.ktime, fun hp => hfperm.trans (fpermNext_above hp _), fun hp hf => hfperm.trans (fpermNext_below hp hf),
      fun hlo hhi => hfperm.trans (fpermNext_between hlo hhi _), hheld die sp, hanew, hframe.regs, hframe.win, hframe.cores, hframe.net⟩
  · have hexec := linkRetry_packet hp hlink hl
    refine ⟨fun hmon => ⟨_, by rw [hexec, if_pos hmon], rfl, rfl⟩, fun hpart => ⟨_, by rw [hexec, if_neg (by rw [hpart]; decide)], ?_⟩⟩
    exact ⟨contain_busy _ _, contain_win _ _, contain_keepsButAreas (dropPacket s n) _⟩
  · exact ⟨_, linkRetry_pull h, contain_busy _ _, contain_win _ _, contain_keepsButAreas s _⟩

end Sys2Proof.Machine
end

section
/-! PROOFS. The checks of an access, in order (O20): alignment, the width of an address, and the identity of the monitor's addresses. -/

namespace Sys2Proof.Machine

open Sys2Proof.Claims

/-! ## The checks of a handler's access (09 R187) -/

theorem unlessFull_free {n : Nat} (h : n < 63) (s : State) (k : Except Trap State) : unlessFull n s k = k := if_neg (by omega)

theorem codeOk_pass {ok : Bool} (h : ok = true) (i : Instr) (k : Except Trap State) : codeOk ok i k = k := if_pos h

/-- The top 16 bits of an address as a number. -/
theorem address_high (va : Word) : va.extractLsb' 48 16 = 0#16 ↔ va.toNat < 2 ^ 48 := target_high va

/-- The bits of a window address above its 20. -/
theorem window_high (va : Word) : va.extractLsb' 20 44 = 0#44 ↔ va.toNat < 2 ^ 20 := by
  rw [← BitVec.toNat_inj, BitVec.extractLsb'_toNat, Nat.shiftRight_eq_div_pow, BitVec.toNat_ofNat, Nat.zero_mod]
  have := va.isLt
  omega

/-- A misaligned address is a fault before anything else of its access. -/
theorem withAccess_misaligned {s : State} {va : Word} {size : Nat} (h : va.toNat % size ≠ 0) (n : Need) (k : State → Nat → Except Trap State) :
    withAccess s va size n k = .error { cause := 0x03, value := va } := withAccess_trap k (access_misaligned h n)

theorem withAccess_high {s : State} {va : Word} {size : Nat} (h : va.toNat % size = 0) (h' : 2 ^ 48 ≤ va.toNat) (n : Need)
    (k : State → Nat → Except Trap State) : withAccess s va size n k = .error { cause := 0x04, value := va } :=
  withAccess_trap k (access_high h ((address_high va).not.mpr (by omega)) n)

/-! ## The address of an access, by the instruction that makes it -/

section
variable {s : State} {ea : Word}

section
variable {d a : Reg} {w : BitVec 3} {i : BitVec 7} (hw : widthOk w = true) (hl : loadsOut s.me < 63) (hea : effAddr (readG s a) i (widthSize w) = ea)
include hw hl hea

theorem exec_ld : exec (.ld d a w i) s = finish s (withAccess s ea (widthSize w) needRead (fun t pa =>
    plainAccess t ea pa (widthSize w) false (fun u =>
      .ok (nextPc (pendValue (l1Read u pa (widthSize w) false).1 d (loadValue w (l1Read u pa (widthSize w) false).2)))))) := by
  subst hea
  show execLd d a w i s = _
  unfold execLd
  dsimp only
  rw [codeOk_pass hw, unlessFull_free hl]

theorem exec_ldro : exec (.ldro d a w i) s = finish s (withAccess s ea (widthSize w) needRead (fun t pa =>
    guardLine t ea (pa / 128) true
      (if readLost t pa (widthSize w) true then .error (lostTrap ea pa)
       else .ok (nextPc (pendValue (l1Read t pa (widthSize w) true).1 d (loadValue w (l1Read t pa (widthSize w) true).2)))))) := by
  subst hea
  show execLdro d a w i s = _
  unfold execLdro
  dsimp only
  rw [codeOk_pass hw, unlessFull_free hl]

theorem exec_ldw : exec (.ldw d a w i) s = finish s (winAccess s ea (widthSize w) wordTags (fun adr =>
    if winLost s s.me.id.core adr (widthSize w) then .error (winTrap s.me.id.core adr)
    else .ok (nextPc (pendValue s d (loadValue w (winNat s s.me.id.core adr (widthSize w))))))) := by
  subst hea
  show execLdw d a w i s = _
  unfold execLdw
  dsimp only
  rw [codeOk_pass hw, unlessFull_free hl]

end

section
variable {d a : Reg} {w : BitVec 2} {i : BitVec 7} (hs : storesOut s.me < 63) (hea : effAddr (readG s a) i (2 ^ w.toNat) = ea)
include hs hea

theorem exec_st : exec (.st d a w i) s = finish s (withAccess s ea (2 ^ w.toNat) needWrite (fun t pa =>
    plainAccess t ea pa (2 ^ w.toNat) true (fun u =>
      .ok (nextPc (noteVa (l1Write u pa (2 ^ w.toNat) (readG u d).toNat) (pa / 128) (lineVa ea)))))) := by
  subst hea
  show execSt d a w i s = _
  unfold execSt
  dsimp only
  rw [unlessFull_free hs]
  rfl

theorem exec_stw : exec (.stw d a w i) s = finish s (winAccess s ea (2 ^ w.toNat) wordTags (fun adr =>
    .ok (nextPc (winPut s s.me.id.core adr (2 ^ w.toNat) (readG s d).toNat)))) := by
  subst hea
  show execStw d a w i s = _
  unfold execStw
  dsimp only
  rw [unlessFull_free hs]
  rfl

end

/-- The issue of an atomic while its counter has room begins with its access. -/
theorem issueAtomic_misaligned {va : Word} {size : Nat} (op : AtomOp) (hl : loadsOut s.me < 63) (hs : storesOut s.me < 63)
    (h : va.toNat % size ≠ 0) (d : Reg) (n : Need) (o sc : BitVec 2) :
    issueAtomic s d va size n op o sc = finish s (.error { cause := 0x03, value := va }) := by
  unfold issueAtomic
  rw [unlessFull_free (by split_ifs <;> assumption), withAccess_misaligned h]

theorem syncAccess_misaligned {a : Reg} (h : (readG s a).toNat % 16 ≠ 0) (k : Nat → Except Trap State) :
    syncAccess s a k = finish s (.error { cause := 0x03, value := readG s a }) := by
  unfold syncAccess
  rw [winAccess_misaligned h]

end

/-! ## Monitor privilege (16 R379) -/

/-- At monitor privilege an address of the module's DRAM is its own translation. -/
theorem access_monitor {s : State} {va : Word} {size : Nat} (n : Need) (hp : priv s = 2#2) (halign : va.toNat % size = 0)
    (hbacked : isUnbacked va.toNat = false) (hlow : va.toNat < 2 ^ 46) :
    access s (priv s) va size n = .ok s (s.module.toNat * 2 ^ 46 + va.toNat) := by
  have hx : xlate s (priv s) va n = (s, monitorXlat s va) := if_pos (by simp [hp])
  have hpage : s.module.toNat * 2 ^ 46 + va.toNat / 2 ^ 16 * 2 ^ 16 + va.toNat % 2 ^ 16 = s.module.toNat * 2 ^ 46 + va.toNat := by omega
  rw [access_translates halign ((address_high va).mpr (by omega)), translate, hx, monitorXlat, if_neg (by simp [hbacked]; omega)]
  exact congrArg (Acc.ok s) hpage

/-- An access that is aligned to a size that divides a line stays within its line. -/
theorem aligned_in_line {size a m : Nat} (hd : size ∣ 128) (ha : a % size = 0) : (m * 2 ^ 46 + a) % 128 + size ≤ 128 := by
  have hmod : (m * 2 ^ 46 + a) % 128 = a % 128 := by omega
  have hdvd : size ∣ 128 - a % 128 := Nat.dvd_sub hd ((Nat.dvd_mod_iff hd).mpr (Nat.dvd_of_mod_eq_zero ha))
  have hle := Nat.le_of_dvd (by omega) hdvd
  omega

/-- Settles O20: each access fails at the first of its checks that its address breaks. -/
theorem accessChecksInOrder : Obligations.AccessChecksInOrder := by
  unfold Obligations.AccessChecksInOrder
  intro s d a b w sw i o sc hloads hstores hw base ea es
  have hea : effAddr (readG s a) i (widthSize w) = ea := rfl
  have hes : effAddr (readG s a) i (2 ^ sw.toNat) = es := rfl
  refine ⟨fun h => ?loads, fun h => ?stores, fun h => ?atomics, fun h => ?syncs, fun h hhigh => ?high, fun h hhigh => ?window, ?monitor⟩
  case loads =>
    simp only [List.forall_mem_cons]
    refine ⟨traps_of_error ?_ (by decide) rfl, traps_of_error ?_ (by decide) rfl, traps_of_error ?_ (by decide) rfl, List.forall_mem_nil _⟩
    · rw [exec_ld hw hloads hea, withAccess_misaligned h]
    · rw [exec_ldro hw hloads hea, withAccess_misaligned h]
    · rw [exec_ldw hw hloads hea, winAccess_misaligned h]
  case stores =>
    simp only [List.forall_mem_cons]
    refine ⟨traps_of_error ?_ (by decide) rfl, traps_of_error ?_ (by decide) rfl, List.forall_mem_nil _⟩
    · rw [exec_st hstores hes, withAccess_misaligned h]
    · rw [exec_stw hstores hes, winAccess_misaligned h]
  case atomics =>
    have hissue := fun op n => issueAtomic_misaligned (s := s) (va := base) (size := 8) op hloads hstores h d n o sc
    simp only [List.forall_mem_cons]
    exact ⟨traps_of_error (hissue _ _) (by decide) rfl, traps_of_error (hissue _ _) (by decide) rfl, traps_of_error (hissue _ _) (by decide) rfl,
      List.forall_mem_nil _⟩
  case syncs =>
    have hsync := fun k => syncAccess_misaligned (s := s) (a := a) h k
    simp only [List.forall_mem_cons]
    exact ⟨traps_of_error (hsync _) (by decide) rfl, traps_of_error (hsync _) (by decide) rfl, traps_of_error (hsync _) (by decide) rfl,
      traps_of_error (hsync _) (by decide) rfl, List.forall_mem_nil _⟩
  case high =>
    refine ⟨traps_of_error ?_ (by decide) rfl, traps_of_error ?_ (by decide) rfl⟩
    · rw [exec_ld hw hloads hea, withAccess_high h hhigh]
    · rw [exec_ldro hw hloads hea, withAccess_high h hhigh]
  case window =>
    refine traps_of_error ?_ (by decide) rfl
    rw [exec_ldw hw hloads hea, winAccess_outside h ((window_high ea).not.mpr (by omega))]
  case monitor =>
    intro va size n hp hd halign hbacked hlow
    exact ⟨access_monitor n hp halign hbacked hlow, aligned_in_line hd halign⟩

end Sys2Proof.Machine
end

section
/-! PROOFS. Accesses of engines, memory nodes and logs (O42): the window and the homes, and what each access changes. -/

namespace Sys2Proof.Machine

open Sys2Proof.Claims

/-! ## Window space (08 R162, R164) -/

section
variable {s : State} {va : Word} {size : Nat} {tags : List (BitVec 3)}

theorem engWin_ok (halign : va.toNat % size = 0) (hlow : va.toNat < 2 ^ 20) (hcheck : winCheck s.me va.toNat size tags = none) :
    engWin s va size tags = .ok va.toNat := by
  unfold engWin
  rw [if_neg (by omega), if_neg (by simp [(window_high va).mpr hlow]), hcheck]

theorem engWin_refused {t : Trap} (halign : va.toNat % size = 0) (hlow : va.toNat < 2 ^ 20) (hcheck : winCheck s.me va.toNat size tags = some t) :
    engWin s va size tags = .error (.fault t) := by
  unfold engWin
  rw [if_neg (by omega), if_neg (by simp [(window_high va).mpr hlow]), hcheck]

theorem engWin_misaligned (h : va.toNat % size ≠ 0) : engWin s va size tags = .error (.fault { cause := 0x03, value := va }) := if_pos h

theorem engWin_outside (halign : va.toNat % size = 0) (h : 2 ^ 20 ≤ va.toNat ∨ regionAt s.me va.toNat = none) :
    engWin s va size tags = .error (.fault { cause := 0x05, value := va }) := by
  by_cases hlow : va.toNat < 2 ^ 20
  · have hnone : regionAt s.me va.toNat = none := h.resolve_left (by omega)
    refine engWin_refused halign hlow ?_
    unfold winCheck
    rw [hnone, BitVec.ofNat_toNat, BitVec.setWidth_eq]
  · unfold engWin
    rw [if_neg (by omega), if_pos ((window_high va).not.mpr hlow)]

/-- A region that lacks the tag refuses an access that it holds. -/
theorem winCheck_tag {c : Ctx} {r : Region} (hr : regionAt c va.toNat = some r) (hin : va.toNat + size ≤ r.base + r.size) (ht : r.tag ∉ tags) :
    winCheck c va.toNat size tags = some { cause := 0x0A, value := va } := by
  unfold winCheck
  rw [hr]
  dsimp only
  rw [if_neg (by omega), if_neg (by simpa using ht), BitVec.ofNat_toNat, BitVec.setWidth_eq]

end

/-- The bytes of a store read back as the number stored, and no other byte changes. -/
theorem bytesWritten_memPut (m : List Host.Cell) (a n v : Nat) : BytesWritten m (memPut m a n v) a n v :=
  ⟨by rw [memNat_memPut_self, pow_mul]; norm_num, fun _ hb => memByte_memPut_outside m a n v _ hb⟩

section
variable {s : State} {pr : BitVec 2} {va : Word} {size : Nat} {tags : List (BitVec 3)}

theorem spaceRead_window {r : Except Stop Nat} (h : engWin s va size tags = r) : spaceRead s pr true tags va size = (do
    let a ← r
    if winLost s s.me.id.core a size then .error (.fault (winTrap s.me.id.core a)) else .ok (s, false, winNat s s.me.id.core a size)) := by
  rw [← h]; rfl

theorem spaceWrite_window {r : Except Stop Nat} (h : engWin s va size tags = r) (v : Nat) : spaceWrite s pr true tags va size v = (do
    let a ← r
    .ok (winPut s s.me.id.core a size v)) := by
  rw [← h]; rfl

/-! ## Cached space (10 R243) -/

theorem engXlat_misaligned (h : va.toNat % size ≠ 0) (n : Need) : engXlat s pr va size n = .error (.fault { cause := 0x03, value := va }) := if_pos h

theorem engXlat_high (halign : va.toNat % size = 0) (h : 2 ^ 48 ≤ va.toNat) (n : Need) :
    engXlat s pr va size n = .error (.fault { cause := 0x04, value := va }) := by
  unfold engXlat
  rw [if_neg (by omega), if_pos ((address_high va).not.mpr (by omega))]

/-- A translation of an engine changes what a walk does. -/
theorem walked_engXlat {t : State} {pa : Nat} {n : Need} (h : engXlat s pr va size n = .ok (t, pa)) : Walked s t := by
  have hx := walked_xlate s pr va n
  unfold engXlat at h
  split_ifs at h
  split at h
  · rename_i u e hu
    rw [hu] at hx
    dsimp only at h
    split_ifs at h
    cases h
    exact hx
  · split_ifs at h
  · cases h
  · cases h

theorem engRead_stop {x : Stop} (h : engXlat s pr va size needRead = .error x) : engRead s pr va size = .error x := by
  unfold engRead; rw [h]; rfl

theorem engWrite_stop {x : Stop} (h : engXlat s pr va size needWrite = .error x) (v : Nat) : engWrite s pr va size v = .error x := by
  unfold engWrite; rw [h]; rfl

section
variable {t : State} {pa : Nat}

theorem engRead_ok (h : engXlat s pr va size needRead = .ok (t, pa)) (hbad : badLine t pa = false)
    (hgo : readState t s.me.id.part (pa / 128) = .go) : engRead s pr va size = .ok (homeTouch t (pa / 128), pa, memNat s.mem pa size) := by
  have hw := walked_engXlat h
  unfold engRead
  rw [h]
  show (if badLine t pa = true then _ else _) = _
  rw [if_neg (by simp [hbad]), if_neg (by rw [hw.me_id, hgo]; simp), hw.mem]

theorem engRead_lost (h : engXlat s pr va size needRead = .ok (t, pa)) (hbad : badLine t pa = true) :
    engRead s pr va size = .error (.fault { lostTrap va pa with base := some t }) := by
  unfold engRead
  rw [h]
  exact if_pos hbad

theorem engWrite_ok {v : Nat} (h : engXlat s pr va size needWrite = .ok (t, pa)) (hw : writable t pa size (memPut s.mem pa size v) = true) :
    engWrite s pr va size v = .ok (homeWrite t pa size v) := by
  rw [← (walked_engXlat h).mem] at hw
  unfold engWrite
  rw [h]
  exact if_pos hw

end

theorem spaceRead_cached (tags : List (BitVec 3)) : spaceRead s pr false tags va size = (do
    let (t, pa, v) ← engRead s pr va size
    .ok (t, decide (pa / 2 ^ 46 ≠ s.module.toNat), v)) := rfl

theorem spaceWrite_cached (tags : List (BitVec 3)) (v : Nat) : spaceWrite s pr false tags va size v = engWrite s pr va size v := rfl

end

/-! ## What a write at the home changes (08 R176, R183) -/

/-- A write that covers no line wholly repairs none. -/
theorem repairRange_short {pa n : Nat} (h : n < 128) (s : State) : repairRange s pa n = s := by
  unfold repairRange
  generalize linesOf pa n = ls
  induction ls generalizing s with
  | nil => rfl
  | cons num ls ih => rw [List.foldl_cons, if_neg (by omega), ih]

/-- The order of the L2 and the counts of the context in focus as they were in s, and home memory too. -/
def unstored (s t : State) : State := { t with me.perf := s.me.perf, l2 := s.l2, mem := s.mem }

theorem unstored_homeCommit (s t : State) (p : BitVec 7) (m : List Host.Cell) (ns : List Nat) :
    unstored s (homeCommit t p m ns) = unstored s t := by
  have hfold : ∀ (ns : List Nat) (f : Nat → BitVec 1024) (x : State), unstored s (ns.foldl (fun y n => l2Store y p n (f n)) x) = unstored s x := by
    intro ns f
    induction ns with
    | nil => exact fun _ => rfl
    | cons n ns ih =>
      intro x
      rw [List.foldl_cons, ih]
      exact (congrArg (unstored s) (l2Store_frame x p n (f n)) :)
  exact hfold ns _ { t with mem := m }

theorem unstored_countHome (s t : State) (n : Nat) : unstored s (countHome t n) = unstored s t := rfl

theorem unstored_foldl_countHome (s : State) (ns : List Nat) (t : State) : unstored s (ns.foldl countHome t) = unstored s t := by
  induction ns generalizing t with
  | nil => rfl
  | cons n ns ih => rw [List.foldl_cons, ih, unstored_countHome]

theorem unstored_homeWrite (t : State) (pa v : Nat) {n : Nat} (h : n < 128) : unstored t (homeWrite t pa n v) = t := by
  unfold homeWrite
  rw [repairRange_short h, unstored_homeCommit, unstored_foldl_countHome]
  rfl

@[simp] theorem homeWrite_mem (t : State) (pa n v : Nat) : (homeWrite t pa n v).mem = memPut t.mem pa n v := by
  have hcommit : ∀ (ns : List Nat) (f : Nat → BitVec 1024) (x : State) (p : BitVec 7),
      (ns.foldl (fun y n => l2Store y p n (f n)) x).mem = x.mem := by
    intro ns f
    induction ns with
    | nil => exact fun _ _ => rfl
    | cons n ns ih =>
      intro x p
      rw [List.foldl_cons, ih, l2Store_mem]
  have hrepair : ∀ (ns : List Nat) (x : State),
      (ns.foldl (fun y num => if pa ≤ num * 128 ∧ num * 128 + 128 ≤ pa + n then repairLine y num else y) x).mem = x.mem := by
    intro ns
    induction ns with
    | nil => exact fun _ => rfl
    | cons num ns ih =>
      intro x
      rw [List.foldl_cons, ih]
      split_ifs <;> rfl
  show (repairRange _ pa n).mem = _
  unfold repairRange homeCommit
  rw [hrepair, hcommit]

/-- A read at the home changes the order of the L2 and the counts. -/
theorem homeTouch_frame (t : State) (n : Nat) : { homeTouch t n with me.perf := t.me.perf, l2 := t.l2 } = t :=
  (congrArg (fun x : State => { x with me.perf := t.me.perf, l2 := t.l2 }) (l2Touch_frame (countHome t n) t.me.id.part n) :)

theorem Walked.me_fab {s t : State} (h : Walked s t) : t.me.fab = s.me.fab := (congrArg (fun v : State => v.me.fab) h.frame :)

/-- Settles O42: each space by the end of its access. -/
theorem engineAccesses : Obligations.EngineAccesses := by
  unfold Obligations.EngineAccesses
  intro s t pr tags va k v pa hk size key fault lost
  have hsize : size < 128 := lt_of_lt_of_le (Nat.pow_lt_pow_right (by decide) hk) (by decide)
  refine ⟨fun halign hlow hcheck => ⟨fun hgood => ?read, fun hbad => ?lostWord, ?write⟩, fun h w => ?misaligned, fun halign h => ?outside,
    fun halign hlow r hr hin ht => ?refused, fun halign h => ?high, fun hx hbad hgo => ?cachedRead, fun hx hbad => ?lostLine,
    fun hx _ hw => ?cachedWrite⟩
  case read =>
    rw [spaceRead_window (engWin_ok halign hlow hcheck)]
    exact if_neg (by simp [hgood])
  case lostWord =>
    rw [spaceRead_window (engWin_ok halign hlow hcheck)]
    refine (if_pos hbad).trans ?_
    simp only [winTrap, BitVec.ofNat_toNat, BitVec.setWidth_eq, lost, key]
  case write =>
    refine ⟨_, spaceWrite_window (engWin_ok halign hlow hcheck) v, bytesWritten_memPut s.win key size v, rfl⟩
  case misaligned =>
    cases w with
    | true => exact ⟨by rw [spaceRead_window (engWin_misaligned h)]; rfl, by rw [spaceWrite_window (engWin_misaligned h)]; rfl⟩
    | false =>
      rw [spaceRead_cached, spaceWrite_cached, engRead_stop (engXlat_misaligned h _), engWrite_stop (engXlat_misaligned h _)]
      exact ⟨rfl, rfl⟩
  case outside =>
    rw [spaceRead_window (engWin_outside halign h)]
    rfl
  case refused =>
    rw [spaceRead_window (engWin_refused halign hlow (winCheck_tag hr hin ht))]
    rfl
  case high =>
    rw [spaceRead_cached, engRead_stop (engXlat_high halign h _)]
    rfl
  case cachedRead =>
    have hwalk := walked_engXlat hx
    rw [spaceRead_cached, engRead_ok hx hbad hgo]
    exact ⟨_, rfl, homeTouch_frame t _, hwalk.mem, hwalk.win, hwalk.me_regs, hwalk.me_fab⟩
  case lostLine =>
    rw [spaceRead_cached, engRead_lost hx hbad]
    rfl
  case cachedWrite =>
    have hmem := (walked_engXlat hx).mem
    refine ⟨_, (spaceWrite_cached tags v).trans (engWrite_ok hx hw), ?_, ?_⟩
    · rw [homeWrite_mem, hmem]
      exact bytesWritten_memPut s.mem pa size v
    · rw [← hmem]
      exact unstored_homeWrite t pa v hsize

end Sys2Proof.Machine
end

section
/-! PROOFS. A module with two records of one context (O19, O21). The statements range over every state, and `SameButTlb` says of each other
context that nothing but its TLB has changed. Where a full core takes a translation from its other set (08 R181), the record of that set is replaced
under its id; two records of one id that differ beside their TLBs then become alike. No module that starts from reset holds two such records. -/

namespace Sys2Proof.Machine

open Sys2Proof.Claims

/-! ## The state -/

/-- A context whose TLB has 256 entries, none of which an even address hits. -/
def twin (energy : Word) : Ctx :=
  { Ctx.create ⟨0, 0, 1⟩ with
    energy := energy
    tlb := List.replicate 256 { vbase := 1, ipa := 0, s2bits := 0, pbase := 0, bits := 1, perm1 := fullPerm, perm2 := fullPerm, prog := true } }

/-- A system context on core 0 with no translation of its own, and two records of the context in the core's other set, with unlike energies. One word
at address 0 is a table entry at levels 1 and 2 and the leaf of the page at 0 at level 3 (08 R179); partition 0 has a slot of the memory calendar. -/
def twins : State :=
  { State.reset with
    me := Ctx.create ⟨0, 0, 0⟩
    others := [twin 0, twin 1]
    mem := [(0, 0x1D)]
    dram := [(0, 0)]
    cores := [(0, { CoreRec.zero with setA := { st := .active, ctx := some ⟨0, 0, 0⟩ }, setB := { st := .ready, ctx := some ⟨0, 0, 1⟩ } })] }

def energies (s : State) : List Word := s.others.map (fun c => c.energy)

/-- But for their TLBs the same contexts have the same energies. -/
theorem energies_of_sameButTlb {s u : State} (h : SameButTlb s u) : energies u = energies s := by
  have hmap := congrArg (List.map (fun c : Ctx => c.energy)) h
  simpa [energies, List.map_map, Function.comp_def] using hmap

/-- An access that passes, from what its end shows. -/
theorem access_ok_of {s : State} {pr : BitVec 2} {va : Word} {size : Nat} {n : Need} {p : State → Nat → Bool}
    (h : (match access s pr va size n with | .ok t pa => p t pa | _ => false) = true) : ∃ t pa, access s pr va size n = .ok t pa ∧ p t pa = true := by
  cases hacc : access s pr va size n with
  | ok t pa => rw [hacc] at h; exact ⟨t, pa, rfl, h⟩
  | trap f => rw [hacc] at h; cases h
  | stall t => rw [hacc] at h; cases h

/-! ## A load (O19) -/

/-- The state with line 0 in the L1 of the context in focus, so that the load needs no home. -/
def twinsHit : State := { twins with me.l1 := [{ num := 0, ro := false, data := 0, dirty := 0, bad := 0 }] }

theorem twinsHit_reaches : ∃ t pa, Reaches twinsHit 0 1 needRead t pa ∧ PlainOk t pa 1 false := by
  obtain ⟨t, pa, hacc, h⟩ := access_ok_of (s := twinsHit) (pr := priv twinsHit) (va := 0) (size := 1) (n := needRead)
    (p := fun t pa => inL1 t pa && !pastPin t pa && !races t pa 1 false true && (firstStop t (fillReqs t (pa / 128) false)).isNone
      && !readLost t pa 1 false) (by decide +kernel)
  simp only [Bool.and_eq_true, Bool.not_eq_true', Option.isNone_iff_eq_none] at h
  obtain ⟨⟨⟨⟨hl1, hpin⟩, hrace⟩, hserved⟩, hlost⟩ := h
  exact ⟨t, pa, ⟨hacc, .inl hl1⟩, hpin, hrace, hserved, fun _ => hlost⟩

/-- The load leaves both records with one energy. -/
theorem energies_after_load {u : State} (h : exec (.ld 1 0 1 0) twinsHit = .next u) : energies u = [0, 0] := by
  have hrun : (match exec (.ld 1 0 1 0) twinsHit with | .next u => decide (energies u = [0, 0]) | _ => false) = true := by decide +kernel
  rw [h] at hrun
  exact of_decide_eq_true hrun

/-- Refutes O19: a load of `twinsHit` at address 0 takes a translation from a full core, and changes one of two records of a context beside its TLB. -/
theorem not_loadsAndStores : ¬ Obligations.LoadsAndStores := by
  unfold Obligations.LoadsAndStores
  intro h
  obtain ⟨hload, -⟩ := h.1 twinsHit 1 0 1 0 (by decide) (by decide)
  obtain ⟨t, pa, hreach, hok⟩ := twinsHit_reaches
  obtain ⟨u, v, hexec, -, -, -, -, -, -, -, hsame, -⟩ := hload t pa hreach hok
  have hbefore : energies twinsHit = [0, 1] := rfl
  have hafter := energies_after_load hexec
  rw [energies_of_sameButTlb hsame, hbefore] at hafter
  exact absurd hafter (by decide)

/-! ## An atomic load (O21) -/

/-- A table of links in which partition 0 owns the first place of each mesh link: of its 64 slots, or of its 16 virtual channels. -/
@[irreducible] def ownedLinks (places : Nat) : Tab (BitVec 7) := (List.range 16384).map (fun k => (k * places, 0))

/-- The state with every mesh link of the module owned by its partition. -/
def twinsLinked : State := { twins with links := ownedLinks 64, vcs := ownedLinks 16 }

theorem tabFind_map_of_mem {α : Type} (f : Nat → Nat) (v : α) {l : List Nat} {k : Nat} (h : k ∈ l) :
    tabFind (l.map (fun j => (f j, v))) (f k) = some v := by
  induction l with
  | nil => cases h
  | cons j l ih =>
    rw [List.map_cons, tabFind_cons]
    split_ifs with hj
    · rfl
    · exact ih ((List.mem_cons.mp h).resolve_left fun hk => hj (congrArg f hk.symm))

theorem tabGet_ownedLinks (places : Nat) {link : Nat} (hl : link < 16384) : tabGet 0x40#7 (ownedLinks places) (link * places) = 0 := by
  unfold tabGet ownedLinks
  rw [tabFind_map_of_mem (fun k => k * places) _ (List.mem_range.mpr hl)]
  rfl

theorem Walked.links {s t : State} (h : Walked s t) : t.links = s.links := (congrArg State.links h.frame :)
theorem Walked.vcs {s t : State} (h : Walked s t) : t.vcs = s.vcs := (congrArg State.vcs h.frame :)
theorem Walked.module {s t : State} (h : Walked s t) : t.module = s.module := (congrArg State.module h.frame :)

theorem meshLink_lt (core : CoreId) (dir : BitVec 2) : meshLink core dir < 16384 := by
  have hc := core.isLt
  have hd := dir.isLt
  unfold meshLink
  omega

theorem xPath_mesh (die : BitVec 3) (y : BitVec 4) (n x x' : Nat) : ∀ l ∈ xPath die y n x x', l < 16384 := by
  induction n generalizing x with
  | zero => exact fun l hl => absurd hl List.not_mem_nil
  | succ n ih =>
    intro l hl
    rw [xPath] at hl
    split_ifs at hl
    · rcases List.mem_cons.mp hl with rfl | hl
      · exact meshLink_lt _ _
      · exact ih _ l hl
    · rcases List.mem_cons.mp hl with rfl | hl
      · exact meshLink_lt _ _
      · exact ih _ l hl
    · cases hl

theorem yPath_mesh (die : BitVec 3) (x : BitVec 5) (n y y' : Nat) : ∀ l ∈ yPath die x n y y', l < 16384 := by
  induction n generalizing y with
  | zero => exact fun l hl => absurd hl List.not_mem_nil
  | succ n ih =>
    intro l hl
    rw [yPath] at hl
    split_ifs at hl
    · rcases List.mem_cons.mp hl with rfl | hl
      · exact meshLink_lt _ _
      · exact ih _ l hl
    · rcases List.mem_cons.mp hl with rfl | hl
      · exact meshLink_lt _ _
      · exact ih _ l hl
    · cases hl

theorem legPath_mesh (die : BitVec 3) (p q : BitVec 9) : ∀ l ∈ legPath die p q, l < 16384 := by
  intro l hl
  rcases List.mem_append.mp hl with hl | hl
  · exact xPath_mesh _ _ _ _ _ l hl
  · exact yPath_mesh _ _ _ _ _ l hl

/-- Wherever the home slice of line 0 stands on die 0, the links on the way there are owned. -/
theorem twinsLinked_reachable {t : State} (hw : Walked twinsLinked t) : reachable t 0 = true := by
  have hid : t.me.id = ⟨0, 0, 0⟩ := hw.me_id
  have hlinks : t.links = ownedLinks 64 := hw.links
  have hvcs : t.vcs = ownedLinks 16 := hw.vcs
  have hmodule : t.module = 0 := hw.module
  have howns : ∀ l, l < 16384 → ownsLink t 0 l = true := by
    intro l hl
    simp only [ownsLink, Bool.and_eq_true, List.any_eq_true, List.mem_range]
    refine ⟨⟨0, by decide, ?_⟩, 0, by decide, ?_⟩
    · rw [hlinks, Nat.add_zero, tabGet_ownedLinks _ hl]; rfl
    · rw [hvcs, Nat.add_zero, tabGet_ownedLinks _ hl]; rfl
  have hpath : homePath t 0 = legPath 0 0 (unitAt 0 0) := by
    unfold homePath
    rw [hid, hmodule]
    rfl
  unfold reachable pathOwned
  rw [hid, hpath]
  simp only [Bool.or_eq_true, List.all_eq_true]
  exact .inr fun l hl => howns l (legPath_mesh _ _ _ l hl)

theorem twinsLinked_accesses : ∃ t, access twinsLinked (priv twinsLinked) 0 8 needRead = .ok t 0 ∧ t.me.l1 = [] ∧ pastPin t 0 = false
    ∧ races t 0 8 false false = false ∧ homeLost t 0 = false ∧ energies t = [0, 0] := by
  obtain ⟨t, pa, hacc, h⟩ := access_ok_of (s := twinsLinked) (pr := priv twinsLinked) (va := 0) (size := 8) (n := needRead)
    (p := fun t pa => decide (pa = 0) && decide (t.me.l1 = []) && !pastPin t 0 && !races t 0 8 false false && !homeLost t 0
      && decide (energies t = [0, 0])) (by decide +kernel)
  simp only [Bool.and_eq_true, Bool.not_eq_true', decide_eq_true_eq] at h
  obtain ⟨⟨⟨⟨⟨rfl, hl1⟩, hpin⟩, hrace⟩, hlost⟩, hen⟩ := h
  exact ⟨t, hacc, hl1, hpin, hrace, hlost, hen⟩

/-- A relaxed atomic ends no region (10 R230). -/
theorem atomEnd_relaxed (s : State) (sc : BitVec 2) (k : Except Trap State) : atomEnd s 0 sc k = k := if_pos rfl

/-- A relaxed atomic load of a line that the set does not hold changes no other context after its translation. -/
theorem others_of_issueAtomic {s t u : State} {d : Reg} {va : Word} {size pa : Nat} {sc : BitVec 2} (hl : loadsOut s.me < 63)
    (hacc : access s (priv s) va size needRead = .ok t pa) (hreach : reachable t pa = true) (hpin : pastPin t pa = false)
    (hrace : races t pa size false false = false) (hlost : homeLost t pa = false) (hl1 : t.me.l1 = [])
    (h : issueAtomic s d va size needRead .load 0 sc = .next u) : u.others = t.others := by
  have hreg := register_frame t pa size false false
  have habs : findLine (register t pa size false false).me (pa / 128) = none := by
    have hl1' : (register t pa size false false).me.l1 = [] := ((congrArg (fun v : State => v.me.l1) hreg :) : _ = t.me.l1).trans hl1
    unfold findLine
    rw [hl1']
    rfl
  have hroom : (if AtomOp.load.reads then loadsOut s.me else storesOut s.me) < 63 := hl
  unfold issueAtomic at h
  rw [unlessFull_free hroom, withAccess_ok _ hacc (by simp [hreach])] at h
  simp only [hreach, Bool.not_true, Bool.false_eq_true, if_false, AtomOp.writes] at h
  rw [checkedAccess_ok hpin hrace, hl1, List.filter_nil, atomEnd_relaxed, guardBack_ok rfl, if_neg (by simp [hlost])] at h
  injection h with h
  rw [← h]
  show (dropLine (register t pa size false false) (pa / 128)).others = _
  unfold dropLine
  rw [habs]
  exact (congrArg State.others hreg :)

/-- A relaxed ALD at address 0. -/
theorem exec_ald_zero (s : State) : exec (.ald 1 0 0 0) s = issueAtomic s 1 0 8 needRead .load 0 0 := rfl

/-- Refutes O21: an atomic load of `twinsLinked` at address 0 does the same. -/
theorem not_atomicsIssueAndPerform : ¬ Obligations.AtomicsIssueAndPerform := by
  unfold Obligations.AtomicsIssueAndPerform
  intro h
  obtain ⟨t, hacc, hl1, hpin, hrace, hlost, hen⟩ := twinsLinked_accesses
  have hreach := twinsLinked_reachable (walked_access hacc)
  have hlines : t.me.l1.filter (fun l => l.num = 0 / 128) = [] := by rw [hl1]; rfl
  obtain ⟨-, -, hald, -⟩ := h.1 twinsLinked 1 0 0 0 0 0
  obtain ⟨hissue, -⟩ := hald (by decide)
  obtain ⟨u, hexec, -, -, -, -, -, -, -, -, hsame, -⟩ := hissue (by decide) t 0 ⟨hacc, .inr hreach⟩ hreach hpin hrace (fun _ => hlost)
    (by rw [hlines]; rfl) (fun ho => absurd rfl ho)
  have hbefore : energies twinsLinked = [0, 1] := rfl
  rw [exec_ald_zero] at hexec
  have hothers := others_of_issueAtomic (by decide) hacc hreach hpin hrace hlost hl1 hexec
  have hafter : energies u = energies t := by unfold energies; rw [hothers]
  rw [energies_of_sameButTlb hsame, hbefore, hen] at hafter
  exact absurd hafter (by decide)

end Sys2Proof.Machine
end

section
/-! PROOFS. Fences, cache instructions and prefetch (O22): what each of them leaves of the handler and of memory. -/

namespace Sys2Proof.Machine

open Sys2Proof.Claims

/-! ## What the movements of lines leave (08 R170 to R172) -/

/-- The registers, system registers and outstanding operations of the handler are as before, and so is every byte without a dirty copy. -/
structure Cached (s u : State) : Prop where
  regs : u.me.regs = s.me.regs
  sys : u.me.sys = s.me.sys
  pend : u.me.pend = s.me.pend
  clean : KeepsCleanMemory s u

theorem BackFrame.me_pend {s t : State} (h : BackFrame s t) : t.me.pend = s.me.pend := (congrArg (fun v : State => v.me.pend) h.eq :)
theorem Walked.me_pend {s t : State} (h : Walked s t) : t.me.pend = s.me.pend := (congrArg (fun v : State => v.me.pend) h.frame :)

section
variable {s t u : State}

theorem Cached.refl (s : State) : Cached s s := ⟨rfl, rfl, rfl, fun _ _ => rfl, fun _ => rfl⟩

/-- A translation comes first: it changes neither the lines nor memory. -/
theorem Cached.of_walked (hw : Walked s t) (h : Cached t u) : Cached s u := by
  obtain ⟨hmem, hwin⟩ := h.clean
  refine ⟨h.regs.trans hw.me_regs, h.sys.trans hw.me_sys, h.pend.trans hw.me_pend, fun a ha => ?_, fun a => by rw [hwin, hw.win]⟩
  rw [hmem a (by unfold CleanAt at ha ⊢; rwa [hw.me_l1]), hw.mem]

theorem Walked.cached (hw : Walked s t) : Cached s t := .of_walked hw (.refl t)

/-- A state that differs from the write-back of some lines of the set in nothing that a handler or memory holds. -/
theorem cached_of_backs {ls : List Line} (hls : ∀ l ∈ ls, l ∈ s.me.l1) (hregs : u.me.regs = (writeBackAll s ls).me.regs)
    (hsys : u.me.sys = (writeBackAll s ls).me.sys) (hpend : u.me.pend = (writeBackAll s ls).me.pend) (hmem : u.mem = (writeBackAll s ls).mem)
    (hwin : u.win = (writeBackAll s ls).win) : Cached s u := by
  have hback := backFrame_writeBackAll s ls
  refine ⟨hregs.trans hback.me_regs, hsys.trans hback.me_sys, hpend.trans hback.me_pend, fun a ha => ?_, fun a => by rw [hwin, hback.win]⟩
  rw [hmem]
  exact memByte_writeBackAll fun l hl => ha l (hls l hl)

theorem cached_cleanL1 (s : State) : Cached s (cleanL1 s) := cached_of_backs (fun _ h => h) rfl rfl rfl rfl rfl

theorem cached_dropLine (s : State) (num : Nat) : Cached s (dropLine s num) := by
  unfold dropLine
  split
  · exact .refl s
  · rename_i l hl
    exact cached_of_backs (ls := [l]) (by simpa using List.mem_of_find?_eq_some hl) rfl rfl rfl rfl rfl

theorem cached_putLine (s : State) (l : Line) : Cached s (putLine s l) :=
  cached_of_backs (ls := evictees s l.num) (fun _ hk => List.mem_of_mem_filter (List.mem_of_mem_drop hk)) rfl rfl rfl rfl rfl

/-- A fill of a line that the set does not hold. -/
theorem cached_fill {num : Nat} {ro : Bool} (h : findLine s.me num = none) : Cached s (l1Line s num ro).1 := by
  rw [l1Line_absent h]
  have hwalk : Walked s (homeTouch (countEvent s 0x03 1) num) := Walked.trans (t := countEvent s 0x03 1) ⟨rfl, fun _ => rfl⟩ (walked_homeTouch _ _)
  exact .of_walked hwalk (cached_putLine _ _)

/-- What the statement says of such an instruction as it completes. -/
theorem Cached.completes (h : Cached s u) : Advances s (nextPc u) ∧ KeepsG s (nextPc u) ∧ KeepsC s (nextPc u) ∧ KeepsCleanMemory s (nextPc u)
    ∧ (nextPc u).me.pend = s.me.pend ∧ (nextPc u).me.sys = s.me.sys := by
  refine ⟨advances_nextPc (by rw [h.regs]), fun r => ?_, fun c => ?_, h.clean, h.pend, h.sys⟩
  · rw [readG_nextPc]
    unfold readG
    rw [h.regs]
  · rw [readC_nextPc]
    unfold readC
    rw [h.regs]

end

/-! ## FENCE (09 R196, R197) -/

/-- An illegal code of an instruction with a word: cause 0x01 with the word (04 R83). -/
theorem trapsWithWord_of_takeTrap {i : Instr} {s : State} (h : exec i s = .next (takeTrap s { cause := 0x01, value := wordOf i }))
    (hi : (encode i).isSome = true) : TrapsWithWord i s 0x01 := by
  obtain ⟨w, hw⟩ := Option.isSome_iff_exists.mp hi
  have hword : wordOf i = w.setWidth 64 := by simp [wordOf, hw]
  rw [hword] at h
  exact ⟨w, hw, traps_of_error h (by decide) rfl⟩

/-- The state of a FENCE whose arcs hold: wider than core, it writes back for stores and drops clean unmarked lines for loads. -/
def fenced (s : State) (k : BitVec 6) (sc : BitVec 2) : State :=
  let w := if k.getLsbD 1 ∧ sc ≠ 0#2 then cleanL1 s else s
  if k.getLsbD 0 ∧ sc ≠ 0#2 then dropClean w else w

section
variable {s : State} {k : BitVec 6} {sc : BitVec 2}

theorem exec_fence_waits (hk : k ≠ 0#6) (h : fenceReady s k = false) : exec (.fence k sc) s = .next (hold s) := by
  show execFence k sc s = _
  unfold execFence
  rw [if_neg hk, if_pos (by simp [h])]

theorem exec_fence_ready (hk : k ≠ 0#6) (h : fenceReady s k = true) (htakes : k.getLsbD 1 = true → sc ≠ 0#2 → Takes s s.me.l1) :
    exec (.fence k sc) s = .next (nextPc (fenced s k sc)) := by
  show execFence k sc s = _
  unfold execFence fenced
  rw [if_neg hk, if_neg (by simp [h])]
  by_cases hback : k.getLsbD 1 = true ∧ sc ≠ 0#2
  · rw [if_pos hback, guardBack_ok (htakes hback.1 hback.2), finish_ok, if_pos hback]
    by_cases hdrop : k.getLsbD 0 = true
    · rw [if_pos hdrop, if_pos ⟨hdrop, hback.2⟩]
    · rw [if_neg hdrop, if_neg fun h => hdrop h.1]
  · rw [if_neg hback, if_neg hback]

theorem cached_dropClean (s : State) : Cached s (dropClean s) := ⟨rfl, rfl, rfl, fun _ _ => rfl, fun _ => rfl⟩

theorem fenced_mem (s : State) (k : BitVec 6) (sc : BitVec 2) :
    (fenced s k sc).mem = if k.getLsbD 1 ∧ sc ≠ 0#2 then (writeBackAll s s.me.l1).mem else s.mem := by
  unfold fenced
  split_ifs <;> rfl

theorem cached_fenced (s : State) (k : BitVec 6) (sc : BitVec 2) : Cached s (fenced s k sc) := by
  have hclean := cached_cleanL1 s
  unfold fenced
  dsimp only
  split_ifs
  · exact ⟨hclean.regs, hclean.sys, hclean.pend, hclean.clean⟩
  · exact cached_dropClean s
  · exact hclean
  · exact .refl s

theorem refreshLine_keeps (s : State) (l : Line) : (refreshLine s l).ro = l.ro ∧ (refreshLine s l).dirty = l.dirty
    ∧ (refreshLine s l).num = l.num := by
  unfold refreshLine
  split_ifs <;> exact ⟨rfl, rfl, rfl⟩

/-- Every line that stays carries the mark or is dirty. -/
theorem dropClean_l1 {s : State} {l : Line} (h : l ∈ (dropClean s).me.l1) : l.ro = true ∨ l.dirty ≠ 0#128 := by
  obtain ⟨x, hx, rfl⟩ := List.mem_map.mp (show l ∈ (s.me.l1.filter _).map (refreshLine s) from h)
  obtain ⟨hro, hdirty, -⟩ := refreshLine_keeps s x
  rw [hro, hdirty]
  simpa using (List.mem_filter.mp hx).2

/-- No line that stays is dirty where none was. -/
theorem dropClean_keeps_clean {s : State} (h : ∀ l ∈ s.me.l1, l.dirty = 0#128) : ∀ l ∈ (dropClean s).me.l1, l.dirty = 0#128 := by
  intro l hl
  obtain ⟨x, hx, rfl⟩ := List.mem_map.mp (show l ∈ (s.me.l1.filter _).map (refreshLine s) from hl)
  rw [(refreshLine_keeps s x).2.1]
  exact h x (List.mem_of_mem_filter hx)

theorem cleanL1_clean (s : State) : ∀ l ∈ (cleanL1 s).me.l1, l.dirty = 0#128 := by
  intro l hl
  obtain ⟨x, -, rfl⟩ := List.mem_map.mp (show l ∈ s.me.l1.map _ from hl)
  rfl

theorem fenced_writes_back (hst : k.getLsbD 1 = true) (hsc : sc ≠ 0#2) :
    (∀ l ∈ (fenced s k sc).me.l1, l.dirty = 0#128) ∧ Written (fenced s k sc) s.me.l1 := by
  constructor
  · unfold fenced
    dsimp only
    rw [if_pos (c := k.getLsbD 1 = true ∧ sc ≠ 0#2) ⟨hst, hsc⟩]
    split_ifs
    · exact dropClean_keeps_clean (cleanL1_clean s)
    · exact cleanL1_clean s
  · unfold Written
    rw [fenced_mem, if_pos ⟨hst, hsc⟩]
    exact written_writeBackAll s s.me.l1

theorem fenced_drops (hld : k.getLsbD 0 = true) (hsc : sc ≠ 0#2) : ∀ l ∈ (fenced s k sc).me.l1, l.ro = true ∨ l.dirty ≠ 0#128 := by
  unfold fenced
  dsimp only
  rw [if_pos ⟨hld, hsc⟩]
  exact fun l hl => dropClean_l1 hl

theorem fenced_core (hsc : sc = 0#2) : fenced s k sc = s := by
  unfold fenced
  rw [if_neg fun h => h.2 hsc, if_neg fun h => h.2 hsc]

end

/-! ## CFLUSH, CINV and PREF (09 R198) -/

theorem reaches_or {s t : State} {va : Word} {size pa : Nat} {n : Need} (h : Reaches s va size n t pa) : (inL1 t pa || reachable t pa) = true :=
  Bool.or_eq_true_iff.mpr h.2

theorem reaches_walked {s t : State} {va : Word} {size pa : Nat} {n : Need} (h : Reaches s va size n t pa) : Walked s t := walked_access h.1

/-- An access that reaches its home goes on from its translation. -/
theorem withAccess_reaches {s t : State} {va : Word} {size pa : Nat} {n : Need} (h : Reaches s va size n t pa) (k : State → Nat → Except Trap State) :
    withAccess s va size n k = afterWalk t (k t pa) := withAccess_ok k h.1 (reaches_or h)

/-- The line found in a set is the first of those of its number. -/
theorem findLine_filter {c : Ctx} {num : Nat} {l : Line} (h : findLine c num = some l) : ∃ ls, c.l1.filter (fun x => x.num = num) = l :: ls := by
  have hhead : (c.l1.filter (fun x => x.num = num)).head? = some l := by rw [← h]; exact List.head?_filter
  exact List.head?_eq_some_iff.mp hhead

theorem findLine_num {c : Ctx} {num : Nat} {l : Line} (h : findLine c num = some l) : l.num = num := by simpa using List.find?_some h

/-- Homes that take the write-backs of a list take that of its first line. -/
theorem takes_head {t : State} {l : Line} {ls : List Line} (h : Takes t (l :: ls)) : Takes t [l] := by
  unfold Takes at h ⊢
  simp only [List.map_cons, List.map_nil, firstStop] at h ⊢
  split at h
  · cases h
  · rfl

section
variable {s t : State} {pa : Nat} {a : Reg}

/-- The state of CFLUSH: the line is home, and stays clean. -/
def flushed (t : State) (l : Line) : State :=
  let t1 := writeBack t l
  { t1 with me.l1 := t1.me.l1.map (fun x => if x.num = l.num then { x with dirty := 0 } else x) }

theorem exec_cflush_absent (h : Reaches s (readG s a) 1 needRead t pa) (hf : findLine t.me (pa / 128) = none) :
    exec (.cflush a) s = .next (nextPc t) := by
  show execCflush a s = _
  unfold execCflush
  rw [withAccess_reaches h, hf, afterWalk_ok, finish_ok]

theorem exec_cflush_present {l : Line} (h : Reaches s (readG s a) 1 needRead t pa) (hf : findLine t.me (pa / 128) = some l) (hl : Takes t [l]) :
    exec (.cflush a) s = .next (nextPc (flushed t l)) := by
  show execCflush a s = _
  unfold execCflush
  rw [withAccess_reaches h, hf]
  dsimp only
  rw [guardBack_ok hl]
  rfl

theorem exec_cinv_drops (h : Reaches s (readG s a) 1 needRead t pa) (hl : Takes t (t.me.l1.filter (fun l => l.num = pa / 128))) :
    exec (.cinv a) s = .next (nextPc (dropLine t (pa / 128))) := by
  show execCinv a s = _
  unfold execCinv
  rw [withAccess_reaches h, guardBack_ok hl]
  rfl

theorem writeBack_l1 (t : State) (l : Line) : (writeBack t l).me.l1 = t.me.l1 :=
  (congrArg (fun v : State => v.me.l1) (backFrame_writeBack t l).eq :)

theorem cached_flushed {l : Line} (hl : l ∈ t.me.l1) : Cached t (flushed t l) :=
  cached_of_backs (ls := [l]) (by simpa using hl) rfl rfl rfl rfl rfl

/-- The line that CFLUSH has written back is clean. -/
theorem findLine_flushed {l : Line} {num : Nat} (h : findLine t.me num = some l) : findLine (flushed t l).me num = some { l with dirty := 0 } := by
  have hnum := findLine_num h
  have hl1 : (flushed t l).me.l1 = t.me.l1.map (fun x => if x.num = l.num then { x with dirty := 0 } else x) := by
    show (writeBack t l).me.l1.map _ = _
    rw [writeBack_l1]
  have hsame : ((fun x : Line => decide (x.num = num)) ∘ fun x : Line => if x.num = l.num then { x with dirty := 0 } else x)
      = fun x : Line => decide (x.num = num) := by
    funext x
    simp only [Function.comp]
    split_ifs <;> rfl
  unfold findLine at h ⊢
  rw [hl1, List.find?_map, hsame, h, Option.map_some, if_pos rfl]

theorem findLine_dropLine (t : State) (num : Nat) : findLine (dropLine t num).me num = none := by
  unfold dropLine
  split
  · assumption
  · unfold findLine
    rw [List.find?_eq_none]
    intro x hx
    simpa using (List.mem_filter.mp hx).2

theorem dropLine_mem {l : Line} {num : Nat} (h : findLine t.me num = some l) : (dropLine t num).mem = (writeBack t l).mem := by
  unfold dropLine
  rw [h]

theorem monitorXlat_trap_base {s : State} {va : Word} {f : Trap} (h : monitorXlat s va = .trap f) : f.base = none := by
  unfold monitorXlat at h
  split_ifs at h
  cases h
  rfl

theorem hitXlat_trap_base {c : Ctx} {e : TlbEntry} {pr : BitVec 2} {va : Word} {n : Need} {f : Trap} (h : hitXlat c e pr va n = .trap f) :
    f.base = none := by
  unfold hitXlat at h
  split_ifs at h <;> cases h <;> rfl

/-- Behind a fault of a translation stands the state that the translation has left. -/
theorem xlate_trap_base {s t b : State} {pr : BitVec 2} {va : Word} {n : Need} {f : Trap} (h : xlate s pr va n = (t, .trap f))
    (hb : f.base = some b) : t = b := by
  unfold xlate at h
  split_ifs at h
  · rw [monitorXlat_trap_base (Prod.mk.inj h).2] at hb
    cases hb
  · split at h
    · rw [hitXlat_trap_base (Prod.mk.inj h).2] at hb
      cases hb
    · dsimp only at h
      split_ifs at h
      · cases h
      · split at h
        · cases h
        · cases h
          exact Option.some.inj hb
        · rename_i hntrap
          exact absurd (Prod.mk.inj h).2 (hntrap f)

/-- Behind a fault of an access stands what its walk has changed. -/
theorem walked_accessTrap {f : Trap} {b : State} {pr : BitVec 2} {va : Word} {size : Nat} {n : Need} (h : access s pr va size n = .trap f)
    (hb : f.base = some b) : Walked s b := by
  have hx := walked_xlate s pr va n
  unfold access at h
  split_ifs at h
  · cases h
    cases hb
  · cases h
    cases hb
  · unfold translate at h
    split at h
    case h_2 t' f' hxl =>
      obtain rfl := Acc.trap.inj h
      rw [hxl] at hx
      rwa [← xlate_trap_base hxl hb]
    all_goals cases h

/-- PREF never faults: it changes nothing but what a fill changes. -/
theorem exec_pref (s : State) (a : Reg) : ∃ u, exec (.pref a) s = .next (nextPc u) ∧ Cached s u := by
  show ∃ u, execPref a s = _ ∧ _
  unfold execPref
  cases hacc : access s (priv s) (readG s a) 1 needNone with
  | ok t pa =>
    have hw := walked_access hacc
    refine ⟨_, rfl, ?_⟩
    split_ifs with hskip
    · exact hw.cached
    · have habs : findLine t.me (pa / 128) = none := by
        by_contra hne
        exact hskip (by simp [Option.isSome_iff_ne_none.mpr hne])
      exact .of_walked hw (cached_fill habs)
  | trap f =>
    refine ⟨_, rfl, ?_⟩
    cases hb : f.base with
    | none => exact .refl s
    | some b => exact (walked_accessTrap hacc hb).cached
  | stall t => exact ⟨s, rfl, .refl s⟩

theorem findLine_putLine (s : State) (l : Line) : findLine (putLine s l).me l.num = some l := by
  have hl1 : (putLine s l).me.l1 = l :: s.me.l1.filter (fun x => x.num ≠ l.num && !(evictees s l.num).contains x) := rfl
  unfold findLine
  rw [hl1, List.find?_cons_of_pos (by simp)]

/-- What PREF brings in stands in the set. -/
theorem exec_pref_fills (hacc : access s (priv s) (readG s a) 1 needNone = .ok t pa) (hr : reachable t pa = true)
    (hfree : fillsFreely t (pa / 128) = true) : ∃ u, exec (.pref a) s = .next u ∧ (findLine u.me (pa / 128)).isSome := by
  show ∃ u, execPref a s = .next u ∧ _
  unfold execPref
  rw [hacc]
  dsimp only
  refine ⟨_, rfl, ?_⟩
  cases hfind : findLine t.me (pa / 128) with
  | some l =>
    rw [if_pos (by simp)]
    exact Option.isSome_of_eq_some hfind
  | none =>
    rw [if_neg (by simp [hr, hfree]), l1Line_absent hfind]
    exact Option.isSome_of_eq_some (findLine_putLine _ (fillLine t (pa / 128) false))

end

/-! ## Sync words (09 R199, R200, 08 R167, R168) -/

/-- A sync word written: its low word and its high word. -/
def syncPut (s : State) (adr lo hi : Nat) : State := winPut (winPut s s.me.id.core adr 8 lo) s.me.id.core (adr + 8) 8 hi

theorem word_lt (m : List Host.Cell) (k : Nat) : memNat m k 8 < 2 ^ 64 := by
  have h := memNat_lt m k 8
  norm_num at h ⊢
  exact h

section
variable {s u : State} {a b d : Reg} {adr lo hi n : Nat}

theorem syncPut_win (s : State) (adr lo hi : Nat) : (syncPut s adr lo hi).win
    = memPut (memPut s.win (s.me.id.core.toNat * 2 ^ 20 + adr) 8 lo) (s.me.id.core.toNat * 2 ^ 20 + adr + 8) 8 hi := by
  unfold syncPut winPut winKey
  dsimp only
  rw [Nat.add_assoc]

/-- The low word is the target and the generation, the high one the count and the flags. -/
theorem winNat_low (s : State) (adr : Nat) : winNat s s.me.id.core adr 8 = syncTarget s adr + syncGen s adr * 2 ^ 48 := by
  unfold winNat winKey syncTarget syncGen
  omega

theorem winNat_high (s : State) (adr : Nat) : winNat s s.me.id.core (adr + 8) 8 = syncCount s adr + syncFlags s adr * 2 ^ 48 := by
  unfold winNat winKey syncCount syncFlags
  rw [Nat.add_assoc]
  omega

theorem syncTarget_lt (s : State) (adr : Nat) : syncTarget s adr < 2 ^ 48 := Nat.mod_lt _ (by norm_num)

theorem syncCount_lt (s : State) (adr : Nat) : syncCount s adr < 2 ^ 48 := Nat.mod_lt _ (by norm_num)

theorem syncGen_lt (s : State) (adr : Nat) : syncGen s adr < 2 ^ 16 := by
  have := word_lt s.win (s.me.id.core.toNat * 2 ^ 20 + adr)
  unfold syncGen
  omega

theorem syncFlags_lt (s : State) (adr : Nat) : syncFlags s adr < 2 ^ 16 := by
  have := word_lt s.win (s.me.id.core.toNat * 2 ^ 20 + adr + 8)
  unfold syncFlags
  omega

/-- A sync word written, and the handlers of the context as a write leaves them. -/
def synced (s : State) (adr lo hi : Nat) (htab : Vector Entry 32) : State := { syncPut s adr lo hi with me.htab := htab }

theorem synced_low (s : State) (adr lo hi : Nat) (htab : Vector Entry 32) :
    memNat (nextPc (synced s adr lo hi htab)).win ((nextPc (synced s adr lo hi htab)).me.id.core.toNat * 2 ^ 20 + adr) 8 = lo % 256 ^ 8 := by
  show memNat (syncPut s adr lo hi).win (s.me.id.core.toNat * 2 ^ 20 + adr) 8 = _
  rw [syncPut_win, memNat_memPut_outside _ _ _ _ _ _ (.inl le_rfl), memNat_memPut_self]

theorem synced_high (s : State) (adr lo hi : Nat) (htab : Vector Entry 32) :
    memNat (nextPc (synced s adr lo hi htab)).win ((nextPc (synced s adr lo hi htab)).me.id.core.toNat * 2 ^ 20 + adr + 8) 8 = hi % 256 ^ 8 := by
  show memNat (syncPut s adr lo hi).win (s.me.id.core.toNat * 2 ^ 20 + adr + 8) 8 = _
  rw [syncPut_win, memNat_memPut_self]

/-- The fields of a sync word as written. -/
theorem synced_fields {tgt gen cnt fl lo hi : Nat} (s : State) (adr : Nat) (htab : Vector Entry 32) (hlo : lo = tgt + gen * 2 ^ 48)
    (hhi : hi = cnt + fl * 2 ^ 48) (ht : tgt < 2 ^ 48) (hg : gen < 2 ^ 16) (hc : cnt < 2 ^ 48) (hf : fl < 2 ^ 16) :
    let u := nextPc (synced s adr lo hi htab)
    syncTarget u adr = tgt ∧ syncGen u adr = gen ∧ syncCount u adr = cnt ∧ syncFlags u adr = fl := by
  intro u
  have hlow : lo % 256 ^ 8 = lo := by
    norm_num
    omega
  have hhigh : hi % 256 ^ 8 = hi := by
    norm_num
    omega
  unfold syncTarget syncGen syncCount syncFlags
  rw [synced_low, synced_high, hlow, hhigh]
  omega

theorem memByte_two_words (m : List Host.Cell) {k x : Nat} (lo hi : Nat) (h : ¬ (k ≤ x ∧ x < k + 16)) :
    memByte (memPut (memPut m k 8 lo) (k + 8) 8 hi) x = memByte m x := by
  rw [memByte_memPut_outside _ _ _ _ _ (by omega), memByte_memPut_outside _ _ _ _ _ (by omega)]

/-- An instruction that has written a sync word completes, and changes nothing but the word and the handlers. -/
theorem synced_completes (s : State) (adr lo hi : Nat) (htab : Vector Entry 32) :
    let u := nextPc (synced s adr lo hi htab)
    Advances s u ∧ KeepsG s u ∧ SyncFrame s u adr := by
  intro u
  refine ⟨advances_nextPc rfl, fun r => rfl, fun x => rfl, fun c => rfl, rfl, rfl, fun x hx => ?_⟩
  have hwin : u.win = (syncPut s adr lo hi).win := rfl
  rw [hwin, syncPut_win]
  exact memByte_two_words _ lo hi hx

/-- The instructions on a sync word reach it. -/
theorem syncAccess_at (h : SyncAt s a adr) (k : Nat → Except Trap State) : syncAccess s a k = finish s (k adr) := by
  obtain ⟨rfl, hlow, halign, hcheck, hlost⟩ := h
  unfold syncAccess
  rw [winAccess_checked halign ((window_high _).mpr hlow) (tags := [2#3]) hcheck, hlost]
  rfl

theorem exec_swset (h : SyncAt s a adr) :
    exec (.swset a b) s = .next (nextPc (syncPut s adr ((readG s b).toNat % 2 ^ 48 + syncGen s adr * 2 ^ 48) 0)) := by
  show execSwset a b s = _
  unfold execSwset
  rw [syncAccess_at h, finish_ok]
  rfl

theorem exec_swadd (h : SyncAt s a adr) : exec (.swadd a b) s = .next (nextPc (syncArrive s s.me.id adr ((readG s b).toNat % 2 ^ 48))) := by
  show execSwadd a b s = _
  unfold execSwadd
  rw [syncAccess_at h, finish_ok]

/-- The fields of the words that an arrival finds. -/
theorem words_split (s : State) (adr : Nat) :
    winNat s s.me.id.core adr 8 % 2 ^ 48 = syncTarget s adr ∧ winNat s s.me.id.core adr 8 / 2 ^ 48 = syncGen s adr
    ∧ winNat s s.me.id.core (adr + 8) 8 % 2 ^ 48 = syncCount s adr ∧ winNat s s.me.id.core (adr + 8) 8 / 2 ^ 48 = syncFlags s adr := by
  have ht := syncTarget_lt s adr
  have hc := syncCount_lt s adr
  rw [winNat_low, winNat_high]
  omega

/-- An arrival that does not reach the target. -/
theorem syncArrive_below (h : syncCount s adr + n < syncTarget s adr) : syncArrive s s.me.id adr n
    = syncPut s adr (syncTarget s adr + syncGen s adr * 2 ^ 48) (syncCount s adr + n + syncFlags s adr * 2 ^ 48) := by
  obtain ⟨ht, hg, hc, hf⟩ := words_split s adr
  have hlt := syncTarget_lt s adr
  unfold syncArrive
  dsimp only
  rw [ht, hg, hc, hf, decide_eq_false (by omega)]
  simp only [Bool.false_eq_true, false_and, ↓reduceIte]
  rw [Nat.mod_eq_of_lt (by omega)]
  rfl

/-- The handlers blocked on a sync word wake. -/
def wakeSync (adr : Nat) (e : Entry) : Entry :=
  match e.why with
  | .sync addr _ => if addr.toNat = adr then wake e else e
  | _ => e

theorem updCtx_syncPut (harea : inArea s s.me.id = false) (lo hi : Nat) :
    updCtx (syncPut s adr lo hi) s.me.id (fun c => { c with htab := c.htab.map (wakeSync adr) })
      = { syncPut s adr lo hi with me.htab := s.me.htab.map (wakeSync adr) } := by
  have harea : inArea (syncPut s adr lo hi) s.me.id = false := harea
  have hraw : rawCtx (syncPut s adr lo hi) s.me.id = some s.me := if_pos rfl
  rw [updCtx_standing harea hraw]
  exact if_pos rfl

/-- An arrival that reaches the target: the generation rises, the count starts again, and the blocked handlers wake. -/
theorem syncArrive_reaches (harea : inArea s s.me.id = false) (h : syncTarget s adr ≤ syncCount s adr + n) : syncArrive s s.me.id adr n
    = { syncPut s adr (syncTarget s adr + (syncGen s adr + 1) % 2 ^ 16 * 2 ^ 48)
          ((syncCount s adr + n - syncTarget s adr) % 2 ^ 48
            + (if syncCount s adr + n = syncTarget s adr then syncFlags s adr else syncFlags s adr ||| 1) * 2 ^ 48)
        with me.htab := s.me.htab.map (wakeSync adr) } := by
  obtain ⟨ht, hg, hc, hf⟩ := words_split s adr
  unfold syncArrive
  dsimp only
  rw [ht, hg, hc, hf, decide_eq_true h]
  simp only [true_and, ↓reduceIte, ne_eq, ite_not]
  exact updCtx_syncPut harea _ _

theorem getEntry_map (c : Ctx) (f : Entry → Entry) (j : BitVec 5) : getEntry { c with htab := c.htab.map f } j = f (getEntry c j) :=
  Vector.getElem_map f j.isLt

theorem wakeSync_blocked {e : Entry} {g : BitVec 16} (hadr : adr < 2 ^ 20) (hwhy : e.why = .sync (BitVec.ofNat 20 adr) g) (hst : e.st = .blocked) :
    (wakeSync adr e).st = .runnable ∧ (wakeSync adr e).resume = true := by
  unfold wakeSync
  rw [hwhy]
  dsimp only
  rw [if_pos (by rw [BitVec.toNat_ofNat, Nat.mod_eq_of_lt hadr])]
  unfold wake
  rw [if_pos hst]
  exact ⟨rfl, rfl⟩

theorem swset_sets (h : SyncAt s a adr) : ∃ u, exec (.swset a b) s = .next u ∧ Advances s u ∧ KeepsG s u ∧ SyncFrame s u adr
    ∧ syncTarget u adr = (readG s b).toNat % 2 ^ 48 ∧ syncGen u adr = syncGen s adr ∧ syncCount u adr = 0 ∧ syncFlags u adr = 0 := by
  obtain ⟨lo, hlo⟩ : ∃ lo, lo = (readG s b).toNat % 2 ^ 48 + syncGen s adr * 2 ^ 48 := ⟨_, rfl⟩
  have hexec := exec_swset (b := b) h
  rw [← hlo] at hexec
  obtain ⟨hadv, hkeep, hframe⟩ := synced_completes s adr lo 0 s.me.htab
  obtain ⟨h1, h2, h3, h4⟩ := synced_fields (cnt := 0) (fl := 0) s adr s.me.htab hlo (hi := 0) (by norm_num) (Nat.mod_lt _ (by norm_num))
    (syncGen_lt s adr) (by norm_num) (by norm_num)
  exact ⟨_, hexec, hadv, hkeep, hframe, h1, h2, h3, h4⟩

theorem swadd_below (h : SyncAt s a adr) (hn : syncCount s adr + (readG s b).toNat % 2 ^ 48 < syncTarget s adr) :
    ∃ u, exec (.swadd a b) s = .next u ∧ Advances s u ∧ KeepsG s u ∧ SyncFrame s u adr
      ∧ syncTarget u adr = syncTarget s adr ∧ syncGen u adr = syncGen s adr ∧ syncCount u adr = syncCount s adr + (readG s b).toNat % 2 ^ 48
      ∧ syncFlags u adr = syncFlags s adr ∧ u.me.htab = s.me.htab := by
  have hexec := exec_swadd (b := b) h
  rw [syncArrive_below hn] at hexec
  have hcount := hn.trans (syncTarget_lt s adr)
  generalize syncCount s adr + (readG s b).toNat % 2 ^ 48 = sum at hexec hcount ⊢
  obtain ⟨lo, hlo⟩ : ∃ lo, lo = syncTarget s adr + syncGen s adr * 2 ^ 48 := ⟨_, rfl⟩
  obtain ⟨hi, hhi⟩ : ∃ hi, hi = sum + syncFlags s adr * 2 ^ 48 := ⟨_, rfl⟩
  rw [← hlo, ← hhi] at hexec
  obtain ⟨hadv, hkeep, hframe⟩ := synced_completes s adr lo hi s.me.htab
  obtain ⟨h1, h2, h3, h4⟩ := synced_fields s adr s.me.htab hlo hhi (syncTarget_lt s adr) (syncGen_lt s adr) hcount (syncFlags_lt s adr)
  exact ⟨_, hexec, hadv, hkeep, hframe, h1, h2, h3, h4, rfl⟩

theorem swadd_reaches (h : SyncAt s a adr) (harea : inArea s s.me.id = false)
    (hn : syncTarget s adr ≤ syncCount s adr + (readG s b).toNat % 2 ^ 48) :
    ∃ u, exec (.swadd a b) s = .next u ∧ Advances s u ∧ KeepsG s u ∧ SyncFrame s u adr
      ∧ syncTarget u adr = syncTarget s adr ∧ syncGen u adr = (syncGen s adr + 1) % 2 ^ 16
      ∧ syncCount u adr = (syncCount s adr + (readG s b).toNat % 2 ^ 48 - syncTarget s adr) % 2 ^ 48
      ∧ syncFlags u adr = (if syncCount s adr + (readG s b).toNat % 2 ^ 48 = syncTarget s adr then syncFlags s adr else syncFlags s adr ||| 1)
      ∧ ∀ j g, (getEntry s.me j).why = .sync (BitVec.ofNat 20 adr) g → (getEntry s.me j).st = .blocked →
          (getEntry u.me j).st = .runnable ∧ (getEntry u.me j).resume = true := by
  have hexec := exec_swadd (b := b) h
  rw [syncArrive_reaches harea hn] at hexec
  have hgen : (syncGen s adr + 1) % 2 ^ 16 < 2 ^ 16 := Nat.mod_lt _ (by norm_num)
  have hcount : (syncCount s adr + (readG s b).toNat % 2 ^ 48 - syncTarget s adr) % 2 ^ 48 < 2 ^ 48 := Nat.mod_lt _ (by norm_num)
  have hflags : (if syncCount s adr + (readG s b).toNat % 2 ^ 48 = syncTarget s adr then syncFlags s adr else syncFlags s adr ||| 1) < 2 ^ 16 := by
    split_ifs
    · exact syncFlags_lt s adr
    · exact Nat.or_lt_two_pow (syncFlags_lt s adr) (by norm_num)
  generalize (if syncCount s adr + (readG s b).toNat % 2 ^ 48 = syncTarget s adr then syncFlags s adr else syncFlags s adr ||| 1) = flags
    at hexec hflags ⊢
  generalize (syncCount s adr + (readG s b).toNat % 2 ^ 48 - syncTarget s adr) % 2 ^ 48 = count at hexec hcount ⊢
  generalize (syncGen s adr + 1) % 2 ^ 16 = gen at hexec hgen ⊢
  obtain ⟨lo, hlo⟩ : ∃ lo, lo = syncTarget s adr + gen * 2 ^ 48 := ⟨_, rfl⟩
  obtain ⟨hi, hhi⟩ : ∃ hi, hi = count + flags * 2 ^ 48 := ⟨_, rfl⟩
  rw [← hlo, ← hhi] at hexec
  obtain ⟨hadv, hkeep, hframe⟩ := synced_completes s adr lo hi (s.me.htab.map (wakeSync adr))
  obtain ⟨h1, h2, h3, h4⟩ := synced_fields s adr (s.me.htab.map (wakeSync adr)) hlo hhi (syncTarget_lt s adr) hgen hcount hflags
  refine ⟨_, hexec, hadv, hkeep, hframe, h1, h2, h3, h4, fun j g hwhy hst => ?_⟩
  have hj : getEntry { s.me with htab := s.me.htab.map (wakeSync adr) } j = wakeSync adr (getEntry s.me j) := getEntry_map _ _ _
  have hw := wakeSync_blocked h.2.1 hwhy hst
  rw [← hj] at hw
  exact hw

theorem swget_reads (h : SyncAt s a adr) : WritesG (.swget d a) s d (fun v => v.toNat = syncGen s adr * 2 ^ 48 + syncCount s adr) := by
  obtain ⟨-, hg, hc, -⟩ := words_split s adr
  have hglt := syncGen_lt s adr
  have hclt := syncCount_lt s adr
  refine writesG_of_setG (v := BitVec.ofNat 64 (syncGen s adr * 2 ^ 48 + syncCount s adr)) ?_ ?_
  · show execSwget d a s = _
    unfold execSwget
    rw [syncAccess_at h, finish_ok, hg, hc]
    rfl
  · rw [BitVec.toNat_ofNat]
    omega

/-- The generation that SWWAIT compares. -/
theorem waited_gen (s : State) (adr : Nat) (v : Word) :
    BitVec.ofNat 16 (syncGen s adr) = v.setWidth 16 ↔ v.toNat % 2 ^ 16 = syncGen s adr := by
  rw [← BitVec.toNat_inj, BitVec.toNat_ofNat, BitVec.toNat_setWidth, Nat.mod_eq_of_lt (syncGen_lt s adr)]
  exact eq_comm

theorem exec_swwait (h : SyncAt s a adr) : exec (.swwait d a b) s = finish s
    (if BitVec.ofNat 16 (syncGen s adr) = (readG s b).setWidth 16 then .ok (blockOn s (.sync (BitVec.ofNat 20 adr) (BitVec.ofNat 16 (syncGen s adr))))
     else regionEnd s false (.ok (nextPc (writeG (acquireEnd s (runEntry s) 3) d ((BitVec.ofNat 16 (syncGen s adr)).setWidth 64))))) := by
  show execSwwait d a b s = _
  unfold execSwwait
  rw [syncAccess_at h, (words_split s adr).2.1]

theorem l1_answerG (s : State) (d : Reg) (v : Word) : (nextPc (writeG s d v)).me.l1 = s.me.l1 := by
  show (writeG s d v).me.l1 = _
  unfold writeG
  split <;> rfl

theorem swwait_passes (h : SyncAt s a adr) (hne : (readG s b).toNat % 2 ^ 16 ≠ syncGen s adr) (hlate : s.me.lateBad = []) :
    ∃ u, exec (.swwait d a b) s = .next u ∧ Advances s u
      ∧ readG u d = (if d = 0#6 then 0#64 else BitVec.ofNat 64 (syncGen s adr)) ∧ (∀ r, r ≠ d → readG u r = readG s r)
      ∧ KeepsMemory s u ∧ (∀ l ∈ u.me.l1, l.ro = true ∨ l.dirty ≠ 0#128) := by
  have hexec := exec_swwait (d := d) (b := b) h
  unfold regionEnd at hexec
  rw [if_neg ((waited_gen s adr _).not.mpr hne), hlate] at hexec
  have hval : (BitVec.ofNat 16 (syncGen s adr)).setWidth 64 = BitVec.ofNat 64 (syncGen s adr) := by
    have := syncGen_lt s adr
    apply BitVec.eq_of_toNat_eq
    rw [BitVec.toNat_setWidth, BitVec.toNat_ofNat, BitVec.toNat_ofNat]
    omega
  have hmem : (acquireEnd s (runEntry s) 3).mem = s.mem := rfl
  have hwin : (acquireEnd s (runEntry s) 3).win = s.win := rfl
  have hl1 : (acquireEnd s (runEntry s) 3).me.l1 = (dropClean s).me.l1 := rfl
  have hregs : (acquireEnd s (runEntry s) 3).me.regs = s.me.regs := rfl
  refine ⟨_, hexec, advances_nextPc (by simp [hregs]), ?_, fun r hr => ?_, ?_, ?_⟩
  · rw [readG_nextPc, readG_writeG_self, hval]
  · rw [readG_nextPc, readG_writeG_ne _ _ hr]
    rfl
  · intro x
    simp [hmem, hwin]
  · rw [l1_answerG, hl1]
    exact fun l => dropClean_l1

theorem swwait_blocks {i : BitVec 5} (h : SyncAt s a adr) (heq : (readG s b).toNat % 2 ^ 16 = syncGen s adr) (hrun : s.me.run = some i) :
    ∃ u, exec (.swwait d a b) s = .next u ∧ u.me.run = none ∧ (getEntry u.me i).st = .blocked ∧ (getEntry u.me i).block = s.me.regs
      ∧ (getEntry u.me i).why = .sync (BitVec.ofNat 20 adr) (BitVec.ofNat 16 (syncGen s adr)) ∧ KeepsMemory s u := by
  have hexec := exec_swwait (d := d) (b := b) h
  rw [if_pos ((waited_gen s adr _).mpr heq), finish_ok] at hexec
  unfold blockOn at hexec
  rw [hrun] at hexec
  dsimp only at hexec
  have hsave : getEntry (saveBlock s.me i s.me.regs.pc) i = { getEntry s.me i with block := s.me.regs } := getEntry_setEntry_self _ _ _
  refine ⟨_, hexec, rfl, ?_, ?_, ?_, fun x => ⟨rfl, rfl⟩⟩
  · exact congrArg Entry.st (getEntry_setEntry_self _ _ _)
  · exact (congrArg Entry.block (getEntry_setEntry_self _ _ _)).trans (congrArg Entry.block hsave)
  · exact congrArg Entry.why (getEntry_setEntry_self _ _ _)

end

/-- Settles O22: a FENCE writes back and drops lines, the cache instructions act on the line that their access reaches, and the sync words change by two
word writes. -/
theorem fencesAndSyncWords : Obligations.FencesAndSyncWords := by
  unfold Obligations.FencesAndSyncWords
  refine ⟨fun s k sc a => ?_, fun s d a b adr h harea => ?_⟩
  · refine ⟨trapsWithWord_of_takeTrap rfl rfl, exec_fence_waits, fun hk hready htakes => ?fence, fun t pa hreach htakes => ⟨?flush, ?inv⟩, ?pref,
      fun t pa => exec_pref_fills⟩
    case fence =>
      refine ⟨_, exec_fence_ready hk hready htakes, (cached_fenced s k sc).completes, fenced_writes_back, fenced_drops, fun hsc => ?_⟩
      rw [fenced_core hsc]
      exact ⟨rfl, fun x => ⟨rfl, rfl⟩⟩
    case flush =>
      have hw := reaches_walked hreach
      have hfind : findLine s.me (pa / 128) = findLine t.me (pa / 128) := by
        unfold findLine
        rw [hw.me_l1]
      rw [hfind]
      cases hf : findLine t.me (pa / 128) with
      | none =>
        refine ⟨_, exec_cflush_absent hreach hf, hw.cached.completes, by simp, fun _ => ⟨fun x => ?_, hw.me_l1⟩⟩
        show memByte t.mem x = _ ∧ memByte t.win x = _
        rw [hw.mem, hw.win]
        exact ⟨rfl, rfl⟩
      | some l =>
        obtain ⟨ls, hls⟩ := findLine_filter hf
        rw [hls] at htakes
        have hmem : l ∈ t.me.l1 := List.mem_of_find?_eq_some hf
        refine ⟨_, exec_cflush_present hreach hf (takes_head htakes), (Cached.of_walked hw (cached_flushed hmem)).completes, ?_, by simp⟩
        rintro x hx
        obtain rfl := Option.some.inj hx
        refine ⟨findLine_flushed hf, fun j hj hd => ?_⟩
        have := findLine_num hf
        rw [← this]
        exact memByte_writeBack_dirty t hj hd
    case inv =>
      have hw := reaches_walked hreach
      refine ⟨_, exec_cinv_drops hreach htakes, (Cached.of_walked hw (cached_dropLine t _)).completes, findLine_dropLine t _, fun l hl j hj hd => ?_⟩
      have hf : findLine t.me (pa / 128) = some l := by
        unfold findLine
        rw [hw.me_l1]
        exact hl
      show memByte (dropLine t (pa / 128)).mem _ = _
      rw [dropLine_mem hf, ← findLine_num hf]
      exact memByte_writeBack_dirty t hj hd
    case pref =>
      obtain ⟨u, hexec, hu⟩ := exec_pref s a
      exact ⟨_, hexec, hu.completes⟩
  · exact ⟨swset_sets h, swadd_below h, swadd_reaches h harea, swget_reads h, swwait_passes h, fun i => swwait_blocks h⟩

end Sys2Proof.Machine
end

section
/-! PROOFS. The transform queue (O53): what the accesses of an engine leave of its context, the chunks of a request that have started, and T5 bytes. -/

namespace Sys2Proof.Machine

open Sys2Proof.Claims

/-! ## What the accesses of an engine leave (08 R176, R181) -/

/-- A state with what an engine's accesses change as it was in s: memory, the L2, the contexts that are not in focus, and of the context in focus the TLB
and the performance counters. -/
def unserved (s t : State) : State := { t with me.tlb := s.me.tlb, me.perf := s.me.perf, l2 := s.l2, others := s.others, mem := s.mem }

/-- Nothing else has changed. -/
def Served (s t : State) : Prop := unserved s t = s

theorem Served.eq {s t : State} (h : Served s t) : unserved s t = s := h

theorem Served.refl (s : State) : Served s s := rfl

section
variable {s t u : State} {pr : BitVec 2} {va : Word} {size pa v : Nat}

theorem Served.trans (h1 : Served s t) (h2 : Served t u) : Served s u := (congrArg (unserved s) h2.eq).trans h1.eq

theorem Served.me_id (h : Served s t) : t.me.id = s.me.id := (congrArg (fun v : State => v.me.id) h.eq :)
theorem Served.me_regs (h : Served s t) : t.me.regs = s.me.regs := (congrArg (fun v : State => v.me.regs) h.eq :)
theorem Served.me_sys (h : Served s t) : t.me.sys = s.me.sys := (congrArg (fun v : State => v.me.sys) h.eq :)
theorem Served.me_faults (h : Served s t) : t.me.faults = s.me.faults := (congrArg (fun v : State => v.me.faults) h.eq :)
theorem Served.me_chans (h : Served s t) : t.me.chans = s.me.chans := (congrArg (fun v : State => v.me.chans) h.eq :)
theorem Served.me_xq (h : Served s t) : t.me.xq = s.me.xq := (congrArg (fun v : State => v.me.xq) h.eq :)
theorem Served.me_fab (h : Served s t) : t.me.fab = s.me.fab := (congrArg (fun v : State => v.me.fab) h.eq :)
theorem Served.win (h : Served s t) : t.win = s.win := (congrArg State.win h.eq :)
theorem Served.bad (h : Served s t) : t.bad = s.bad := (congrArg State.bad h.eq :)
theorem Served.retired (h : Served s t) : t.retired = s.retired := (congrArg State.retired h.eq :)
theorem Served.module (h : Served s t) : t.module = s.module := (congrArg State.module h.eq :)
theorem Served.decrs (h : Served s t) : t.decrs = s.decrs := (congrArg State.decrs h.eq :)

/-- No signal is added to those on their way. -/
theorem Served.decrOut (h : Served s t) (chan : BitVec 3) : decrOut t chan = decrOut s chan := by
  unfold Machine.decrOut
  rw [h.decrs, h.me_id]

theorem Walked.served (h : Walked s t) : Served s t := (congrArg (fun v : State => { v with mem := s.mem }) h.frame :)

theorem served_homeWrite (s : State) (pa v : Nat) {n : Nat} (h : n < 128) : Served s (homeWrite s pa n v) :=
  (congrArg (unserved s) (unstored_homeWrite s pa v h) :)

/-- An engine's read: besides its counts it changes nothing, and it gives the bytes of memory. -/
theorem engRead_spec {x : Nat} (h : engRead s pr va size = .ok (t, pa, x)) : Walked s t ∧ t.mem = s.mem ∧ x = memNat s.mem pa size := by
  obtain ⟨⟨u, qa⟩, hx, hr⟩ := bind_eq_ok h
  have hw := walked_engXlat hx
  dsimp only at hr
  split_ifs at hr
  cases hr
  have hwt := hw.trans (walked_homeTouch u (pa / 128))
  exact ⟨hwt, hwt.mem, by rw [hw.mem]⟩

theorem served_engWrite (hsize : size < 128) (h : engWrite s pr va size v = .ok t) : Served s t := by
  obtain ⟨⟨u, qa⟩, hx, hw⟩ := bind_eq_ok h
  dsimp only at hw
  split_ifs at hw
  cases hw
  exact (walked_engXlat hx).served.trans (served_homeWrite u qa v hsize)

theorem served_writeWords {ws : List Word} (h : writeWords s pr va ws = .ok t) : Served s t := by
  induction ws generalizing s va with
  | nil => cases h; exact .refl _
  | cons w ws ih =>
    obtain ⟨u, hw, hrest⟩ := bind_eq_ok h
    exact (served_engWrite (by decide) hw).trans (ih hrest)

theorem served_xformRecord {x : Xreq} {status : Nat} (h : xformRecord s x status = .ok t) : Served s t := by
  unfold xformRecord at h
  dsimp only at h
  split_ifs at h
  · cases h; exact .refl s
  · exact served_writeWords h

end

/-! ## Faults of an engine (15 R343) -/

@[simp] theorem queueFault_faults (f : FaultItem) (c : Ctx) : (queueFault f c).faults = c.faults ++ [f] := by
  unfold queueFault; dsimp only; split_ifs <;> rfl

@[simp] theorem queueFault_xq (f : FaultItem) (c : Ctx) : (queueFault f c).xq = c.xq := by
  obtain ⟨fs, tab, h⟩ := queueFault_eq f c
  rw [h]

@[simp] theorem queueFault_chans (f : FaultItem) (c : Ctx) : (queueFault f c).chans = c.chans := by
  obtain ⟨fs, tab, h⟩ := queueFault_eq f c
  rw [h]

@[simp] theorem queueFault_stalled (f : FaultItem) (c : Ctx) : (queueFault f c).stalled = c.stalled := by
  obtain ⟨fs, tab, h⟩ := queueFault_eq f c
  rw [h]

/-- A fault has entered the queue of the context. -/
theorem queued_of_append {s u : State} {cause : BitVec 8} {v e : Word} (h : u.me.faults = s.me.faults ++ [{ kcause := 1#1 ++ cause, value := v, elem := e }]) :
    Queued s u cause v := by
  unfold Queued
  rw [h, List.map_append]
  rfl

/-! ## The head of the queue (09 R224, R225, R227) -/

section
variable {s t u : State} {x : Xreq} {xs : List Xreq}

/-- A head that waits or runs stays where it is. -/
theorem xformPop_stays (hq : s.me.xq = x :: xs) (hst : x.st ≠ .idle) : xformPop s = s := by
  unfold xformPop
  rw [hq]
  exact if_neg fun h => hst h.1

/-- The chunks below k whose work stands out. -/
theorem openBelow_ne_zero {j k : Nat} (hj : j < k) (h : x.ended.getLsbD j = false) : openBelow x k ≠ 0 := by
  have hmem : j ∈ (List.range k).filter (fun i => !x.ended.getLsbD i) := by simp [hj, h]
  exact fun hzero => absurd (List.length_eq_zero_iff.mp hzero ▸ hmem) List.not_mem_nil

theorem openBelow_eq_zero {k : Nat} (h : ∀ j < k, x.ended.getLsbD j = true) : openBelow x k = 0 := by
  unfold openBelow
  rw [List.length_eq_zero_iff, List.filter_eq_nil_iff]
  intro j hj
  simp [h j (List.mem_range.mp hj)]

theorem openBelow_mono {j k : Nat} (h : j ≤ k) : openBelow x j ≤ openBelow x k :=
  ((List.range_sublist.mpr h).filter _).length_le

/-- A chunk with fewer than 80 open ones below it has started, where none has failed. -/
theorem startedBound_gt {k : Nat} (hfail : x.failed = none) (hk : k < x.chunks) (hopen : openBelow x k < laneCount) : k < startedBound x := by
  have hall : List.range (k + 1) = (List.range (k + 1)).filter (fun j => openBelow x j < laneCount) := by
    rw [eq_comm, List.filter_eq_self]
    intro j hj
    have := openBelow_mono (x := x) (Nat.le_of_lt_succ (List.mem_range.mp hj))
    exact decide_eq_true (by omega)
  have hsub := ((List.range_sublist.mpr hk).filter (fun j => decide (openBelow x j < laneCount))).length_le
  rw [← hall, List.length_range] at hsub
  unfold startedBound
  rw [hfail]
  exact hsub

theorem xformSettle_open {j : Nat} (hfail : x.failed = none) (hj : j < x.chunks) (h : x.ended.getLsbD j = false) : xformSettle s x = setHead s x := by
  have hover : xformOver x = false := by
    unfold xformOver
    rw [hfail]
    exact decide_eq_false (openBelow_ne_zero hj h)
  unfold xformSettle
  rw [hover]
  rfl

theorem xformSettle_done (hfail : x.failed = none) (h : ∀ j < x.chunks, x.ended.getLsbD j = true) : xformSettle s x = xformDone s x := by
  have hover : xformOver x = true := by
    unfold xformOver
    rw [hfail]
    exact decide_eq_true (openBelow_eq_zero h)
  unfold xformSettle
  rw [hover, hfail]
  rfl

/-- Whether a request is invalid depends on the regions of the context alone. -/
theorem Served.invalid (h : Served s t) (x : Xreq) : x.invalid t.me = x.invalid s.me := by
  have hsync : ∀ a, isSyncAt t.me a = isSyncAt s.me a := by
    intro a
    unfold isSyncAt winCheck regionAt region cfgField
    rw [h.me_fab]
  unfold Xreq.invalid
  rw [hsync]

/-- The head request starts: its words are read, and it fails at once where they are invalid. -/
theorem xformStart_reads {pa v : Nat} (hq : s.me.xq = x :: xs) (hst : x.st = .waiting) (hafter : x.after = true → earlierDone s.me x.age = true)
    (hread : engRead s x.priv x.addr 64 = .ok (t, pa, v)) : exec .transformRequestStart s = .next
      (let x1 := { x with st := .running, words := some (recWords v) }
       if x1.invalid t.me then xformHalt t { x1 with failed := some (0xFFFF, 0x0F, x.addr) } else xformSettle t x1) := by
  show Host.Outcome.next (xformStart s) = _
  unfold xformStart
  rw [xformPop_stays hq (by simp [hst])]
  dsimp only
  rw [hq]
  dsimp only
  rw [if_neg (by simpa [hst] using hafter), hread]

/-- A request that has failed with a fault halts the queue behind its record. -/
theorem xformHalt_records {f : Nat × BitVec 8 × Word} (hfail : x.failed = some f) (hrec : xformRecord s x 2 = .ok t) :
    xformHalt s x = xformStop t x := by
  have hx : { x with failed := some (x.failed.getD (0xFFFF, 0x0F, x.addr)) } = x := by
    cases x
    cases hfail
    rfl
  unfold xformHalt
  rw [hx, hrec]

theorem xformStop_spec {f : Nat × BitVec 8 × Word} (hfail : x.failed = some f) (hs : Served s t) (hq : s.me.xq = u.me.xq) (hf : s.me.faults = u.me.faults) :
    Queued u (xformStop t x) f.2.1 f.2.2 ∧ (xformStop t x).win = t.win ∧ (xformStop t x).mem = t.mem
      ∧ (xformStop t x).me.xq = { x with st := .halted } :: u.me.xq.drop 1 := by
  unfold xformStop
  rw [hfail]
  refine ⟨queued_of_append (e := engElem 0x3FF f.1) ?_, rfl, rfl, ?_⟩
  · rw [queueFault_faults]
    show t.me.faults ++ _ = _
    rw [hs.me_faults, hf]
    rfl
  · rw [queueFault_xq]
    show _ :: t.me.xq.drop 1 = _
    rw [hs.me_xq, hq]
    rfl

/-- A chunk of the running request that has started and not ended is run. -/
theorem xformChunk_runs {n : BitVec 8} (hq : s.me.xq = x :: xs) (hst : x.st = .running) (hfail : x.failed = none) (hk : n.toNat < x.chunks)
    (hend : x.ended.getLsbD n.toNat = false) (hopen : openBelow x n.toNat < laneCount) (hrun : runChunk s x n.toNat = .ok t) :
    exec (.transformChunkComplete n) s = .next (xformSettle t { x with done := x.done ||| (1#256 <<< n.toNat)
                                                                       ended := x.ended ||| (1#256 <<< n.toNat)
                                                                       bytes := x.bytes + x.output n.toNat }) := by
  have hover : xformOver x = false := by
    unfold xformOver
    rw [hfail]
    exact decide_eq_false (openBelow_ne_zero hk hend)
  have hstarted := startedBound_gt hfail hk hopen
  show Host.Outcome.next (xformChunk n s) = _
  unfold xformChunk
  rw [hq]
  dsimp only
  rw [if_neg (by simp [hst]), if_neg (by simp [hover]), if_neg (by simp [hend, hstarted]), hrun]

/-- The record of a request that has not failed. -/
theorem xformRecord_plain {status : Nat} (hfail : x.failed = none) (hwords : x.words.isSome = true) :
    let bits := fun (i : Nat) => x.done.extractLsb' (64 * i) 64
    xformRecord s x status = writeWords s x.priv (x.word 6) [BitVec.ofNat 64 (status + 0xFFFF * 2 ^ 16 + x.chunks % 2 ^ 16 * 2 ^ 32), 0, bits 0, bits 1,
      bits 2, bits 3, BitVec.ofNat 64 x.bytes, 0] := by
  intro bits
  have hnone : x.words.isNone = false := by simp [Option.isNone_eq_false_iff, hwords]
  have hword : status + 0xFFFF % 2 ^ 16 * 2 ^ 16 + x.chunks % 2 ^ 16 * 2 ^ 32 + (0 : BitVec 8).toNat * 2 ^ 48
      = status + 0xFFFF * 2 ^ 16 + x.chunks % 2 ^ 16 * 2 ^ 32 := by simp
  unfold xformRecord
  simp only [hfail, hnone, Option.getD_none, Bool.false_eq_true, ↓reduceIte]
  rw [hword]

/-- A request without a signal completes: its record is written and it leaves the queue. -/
theorem xformDone_plain (hkind : x.kind = 0) (hrec : xformRecord s x 1 = .ok t) (hout : decrOut t 4 = false) :
    xformDone s x = { setHead t { x with st := .idle } with me := wakeCounters { (setHead t { x with st := .idle }).me with xq := t.me.xq.drop 1 } } := by
  have htarget : targetLost s 0 x.target = none := rfl
  have hsignal : signalTarget t 0 x.target x.bytes 4 = t := rfl
  have hpop : decrOut (setHead t { x with st := .idle }) 4 = false := hout
  unfold xformDone
  rw [hkind, if_neg (by simp), htarget]
  dsimp only
  rw [hrec]
  dsimp only
  rw [hsignal]
  unfold xformPop
  show (if _ then _ else _) = _
  rw [if_pos ⟨rfl, Bool.eq_false_iff.mp hpop⟩]

theorem not_signalling {chan : BitVec 3} : ¬ Signalling s chan ↔ decrOut s chan = false := by
  unfold Signalling decrOut
  simp

end

/-! ## T5 bytes (03 R56, R57) -/

/-- Five digits packed are a legal byte of these digits. -/
theorem t5_digits_pack : ∀ a b c d e : Fin 3, t5Legal (BitVec.ofNat 8 (t5Pack [a.val, b.val, c.val, d.val, e.val])) = true
    ∧ t5Digits (BitVec.ofNat 8 (t5Pack [a.val, b.val, c.val, d.val, e.val])) = [a.val, b.val, c.val, d.val, e.val] := by
  decide +kernel

theorem tritDigit_spec {b : Byte} {d : Nat} (h : tritDigit b = some d) : d < 3 ∧ BitVec.ofInt 8 ((d : Int) - 1) = b := by
  unfold tritDigit at h
  split_ifs at h with h1 h2 h3 <;> cases h
  · exact ⟨by decide, h1 ▸ rfl⟩
  · exact ⟨by decide, h2 ▸ rfl⟩
  · exact ⟨by decide, h3 ▸ rfl⟩

/-- Five bytes that pack are trits. -/
theorem packTrits_spec {a : Word} {p : List Byte} {b : Byte} (hp : p.length = 5) (h : packTrits a p = .ok b) :
    t5Legal b = true ∧ tritBytes (t5Digits b) = p := by
  unfold packTrits at h
  split at h
  · cases h
  · rename_i hnone
    obtain rfl := Except.ok.inj h
    have hdigit : ∀ x ∈ p, ∃ d : Fin 3, tritDigit x = some d.val ∧ BitVec.ofInt 8 ((d.val : Int) - 1) = x := by
      intro x hx
      obtain ⟨i, hi⟩ := List.mem_iff_getElem?.mp hx
      have hsome := List.find?_eq_none.mp hnone (x, i) (by simpa using List.mk_mem_zipIdx_iff_getElem?.mpr hi)
      obtain ⟨d, hd⟩ := Option.ne_none_iff_exists'.mp (by simpa using hsome)
      obtain ⟨hlt, hback⟩ := tritDigit_spec hd
      exact ⟨⟨d, hlt⟩, hd, hback⟩
    match p, hp with
    | [x1, x2, x3, x4, x5], _ =>
      obtain ⟨d1, h1, b1⟩ := hdigit x1 (by simp)
      obtain ⟨d2, h2, b2⟩ := hdigit x2 (by simp)
      obtain ⟨d3, h3, b3⟩ := hdigit x3 (by simp)
      obtain ⟨d4, h4, b4⟩ := hdigit x4 (by simp)
      obtain ⟨d5, h5, b5⟩ := hdigit x5 (by simp)
      obtain ⟨hlegal, hdigits⟩ := t5_digits_pack d1 d2 d3 d4 d5
      simp only [List.map_cons, List.map_nil, h1, h2, h3, h4, h5, Option.getD_some]
      refine ⟨hlegal, ?_⟩
      rw [hdigits]
      simp only [tritBytes, List.map_cons, List.map_nil, b1, b2, b3, b4, b5]

/-- Unpacking what was packed gives the trits. -/
theorem unpackAll_packAll {ps : List (List Byte)} {a b : Word} {bs : List Byte} (hps : ∀ p ∈ ps, p.length = 5) (h : packAll a ps = .ok bs) :
    unpackAll b bs = .ok ps.flatten := by
  induction ps generalizing a b bs with
  | nil => cases h; rfl
  | cons p ps ih =>
    obtain ⟨y, hy, hrest⟩ := bind_eq_ok h
    obtain ⟨ys, hys, hbs⟩ := bind_eq_ok hrest
    obtain rfl := Except.ok.inj hbs
    obtain ⟨hlegal, htrits⟩ := packTrits_spec (hps p (by simp)) hy
    unfold unpackAll
    rw [if_neg (by simp [hlegal]), ih (fun q hq => hps q (by simp [hq])) hys, htrits]
    rfl

/-- Settles O53: the head request is read and settled, a chunk is run where it has started, and the last one writes the record and leaves. -/
theorem transformsRun : Obligations.TransformsRun := by
  unfold Obligations.TransformsRun
  refine ⟨?_, fun a b ps bs => unpackAll_packAll⟩
  intro s t t2 n x xs pa v k hq
  refine ⟨fun hst hafter hread => ?_, fun hst hfail hk hend hopen hrun => ?_⟩ <;> intro x1
  refine ⟨?starts, ?invalid⟩
  rotate_left 2
  refine ⟨?going, ?last⟩
  case starts =>
    intro hvalid hchunks hfail hended
    obtain ⟨hw, hmem, -⟩ := engRead_spec hread
    have hs := hw.served
    have hexec := xformStart_reads hq hst hafter hread
    rw [← hs.invalid] at hvalid
    dsimp only at hexec
    rw [if_neg (by simpa using hvalid), xformSettle_open (x := x1) (j := 0) hfail hchunks (by simp [x1, hended])] at hexec
    refine ⟨_, hexec, ?_, hmem, hs.win, hs.me_regs, hs.me_chans⟩
    show _ :: t.me.xq.drop 1 = _
    rw [hs.me_xq, hq]
    rfl
  case invalid =>
    intro hinvalid hfail hrec
    obtain ⟨hw, hmem, -⟩ := engRead_spec hread
    have hs := hw.served
    have hexec := xformStart_reads hq hst hafter hread
    rw [← hs.invalid] at hinvalid
    dsimp only at hexec
    rw [if_pos hinvalid, xformHalt_records rfl hrec] at hexec
    obtain ⟨hqueued, hwin, hmem2, hxq⟩ := xformStop_spec (u := s) (x := { x1 with failed := some (0xFFFF, 0x0F, x.addr) }) rfl
      (served_xformRecord hrec) hs.me_xq hs.me_faults
    refine ⟨_, hexec, hqueued, hwin.trans ((served_xformRecord hrec).win.trans hs.win), hmem2, ?_⟩
    rw [hxq, hq]
    rfl
  case going =>
    rintro ⟨j, hj, hopenj⟩
    have hexec := xformChunk_runs hq hst hfail hk hend hopen hrun
    rw [xformSettle_open (x := x1) hfail hj hopenj] at hexec
    exact ⟨_, hexec, rfl, rfl, rfl, rfl⟩
  case last =>
    intro hall hkind hquiet hxq hwords bits hwrite
    have hexec := xformChunk_runs hq hst hfail hk hend hopen hrun
    have hrec : xformRecord t x1 1 = .ok t2 := (xformRecord_plain (x := x1) hfail hwords).trans hwrite
    have hs := served_xformRecord hrec
    have hout : decrOut t2 4 = false := by
      rw [hs.decrOut]
      exact not_signalling.mp hquiet
    rw [xformSettle_done (x := x1) hfail hall, xformDone_plain (x := x1) hkind hrec hout] at hexec
    refine ⟨_, hexec, ?_, rfl, hs.win⟩
    show t2.me.xq.drop 1 = xs
    rw [hs.me_xq, hxq, hq]
    rfl

end Sys2Proof.Machine
end

section
/-! PROOFS. Copy channels (O52): what a channel's steps leave, the element of a group of one, and the end of a record. -/

namespace Sys2Proof.Machine

open Sys2Proof.Claims

/-! ## Channels and their frames -/

section
variable {s t u w : State} {e : BitVec 2} {h : Chan}

@[simp] theorem getChan_setChan_self (c : Ctx) (e : BitVec 2) (h : Chan) : getChan (setChan c e h) e = h := Vector.getElem_set_self e.isLt

theorem getChan_setChan_ne (c : Ctx) {e k : BitVec 2} (h : Chan) (hk : k ≠ e) : getChan (setChan c e h) k = getChan c k :=
  Vector.getElem_set_ne e.isLt k.isLt fun heq => hk (BitVec.eq_of_toNat_eq heq.symm)

theorem getChan_of_chans {c c' : Ctx} (h : c'.chans = c.chans) (e : BitVec 2) : getChan c' e = getChan c e := by
  unfold getChan
  rw [h]

theorem keepsOtherChans_of_set (hu : u.me.chans = (setChan t.me e h).chans) (ht : t.me.chans = s.me.chans) : KeepsOtherChans s u e := by
  intro k hk
  rw [getChan_of_chans hu, getChan_setChan_ne _ _ hk, getChan_of_chans ht]

theorem keepsOtherChans_refl (h : u.me.chans = s.me.chans) : KeepsOtherChans s u e := fun k _ => getChan_of_chans h k

theorem keepsOtherChans_trans (h1 : KeepsOtherChans s t e) (h2 : KeepsOtherChans t u e) : KeepsOtherChans s u e :=
  fun k hk => (h2 k hk).trans (h1 k hk)

/-- A queue of faults is the same one behind what leaves it alone. -/
theorem queued_of_faults {cause : BitVec 8} {v : Word} (ht : t.me.faults = s.me.faults) (h : Queued t u cause v) : Queued s u cause v := by
  unfold Queued at h ⊢
  rw [h, ht]

/-- A channel that halts, and the fault in the queue of its context. -/
theorem copyStop_spec (t : State) (e : BitVec 2) (cause : BitVec 8) (v : Word) :
    getChan (copyStop t e cause v).me e = { getChan t.me e with st := .halted, words := none } ∧ KeepsOtherChans t (copyStop t e cause v) e
      ∧ Queued t (copyStop t e cause v) cause v := by
  have hchans : (copyStop t e cause v).me.chans = (setChan t.me e { getChan t.me e with st := .halted, words := none }).chans := queueFault_chans _ _
  refine ⟨?_, keepsOtherChans_of_set hchans rfl, queued_of_append (e := engElem (0x0C0 + e.toNat) (getChan t.me e).n) (queueFault_faults _ _)⟩
  rw [getChan_of_chans hchans, getChan_setChan_self]

/-- The end of a chain none of whose decrements is on its way. -/
theorem chainEnd_zero (h : decrOut s (e.setWidth 3) = false) : chainEnd s e = { s with me := wakeCounters (setChan s.me e Chan.zero) } :=
  if_neg (Bool.eq_false_iff.mp h)

theorem chainEnd_spec (h : decrOut s (e.setWidth 3) = false) :
    getChan (chainEnd s e).me e = Chan.zero ∧ KeepsOtherChans s (chainEnd s e) e ∧ (chainEnd s e).me.regs = s.me.regs
      ∧ (chainEnd s e).win = s.win ∧ (chainEnd s e).mem = s.mem := by
  rw [chainEnd_zero h]
  have hchans : (wakeCounters (setChan s.me e Chan.zero)).chans = (setChan s.me e Chan.zero).chans := rfl
  exact ⟨(getChan_of_chans hchans e).trans (getChan_setChan_self _ _ _), keepsOtherChans_of_set hchans rfl, rfl, rfl, rfl⟩

theorem served_recordWrite {pr : BitVec 2} {addr : Word} {sum : BitVec 32} {n status : Nat} (h : recordWrite s pr addr sum n status = .ok t) :
    Served s t := by
  obtain ⟨u, hsum, hprog⟩ := bind_eq_ok h
  exact (served_engWrite (by decide) hsum).trans (served_engWrite (by decide) hprog)

/-- A channel halts once its record is written. -/
theorem copyHalt_records {s0 : State} {cause : BitVec 8} {status : Nat} {v : Word}
    (h : recordWrite s (getChan s.me e).priv (getChan s.me e).addr (getChan s.me e).sum (getChan s.me e).n status = .ok w) :
    copyHalt s0 s e status cause v = copyStop w e cause v := by
  unfold copyHalt recordStatus
  rw [h]

/-- What a halt behind a written record leaves. -/
theorem copyHalt_spec {s0 : State} {cause : BitVec 8} {status : Nat} {v : Word}
    (h : recordWrite s (getChan s.me e).priv (getChan s.me e).addr (getChan s.me e).sum (getChan s.me e).n status = .ok w) :
    (getChan (copyHalt s0 s e status cause v).me e).st = .halted ∧ KeepsOtherChans s (copyHalt s0 s e status cause v) e
      ∧ Queued s (copyHalt s0 s e status cause v) cause v ∧ (copyHalt s0 s e status cause v).win = s.win
      ∧ (copyHalt s0 s e status cause v).mem = w.mem := by
  have hs := served_recordWrite h
  obtain ⟨hchan, hothers, hqueued⟩ := copyStop_spec w e cause v
  rw [copyHalt_records h]
  exact ⟨congrArg Chan.st hchan, keepsOtherChans_trans (keepsOtherChans_refl hs.me_chans) hothers, queued_of_faults hs.me_faults hqueued, hs.win, rfl⟩

end

/-! ## A refused access (08 R183) -/

section
variable {s : State} {tr : Trap}

theorem counted_frame (s : State) (tr : Trap) : { counted s tr with me.perf := s.me.perf } = s := by
  unfold counted
  split <;> rfl

theorem counted_retired (s : State) (tr : Trap) : (counted s tr).retired = s.retired := (congrArg State.retired (counted_frame s tr) :)
theorem counted_module (s : State) (tr : Trap) : (counted s tr).module = s.module := (congrArg State.module (counted_frame s tr) :)
theorem counted_me_id (s : State) (tr : Trap) : (counted s tr).me.id = s.me.id := (congrArg (fun v : State => v.me.id) (counted_frame s tr) :)

/-- An overflow of the retirement list depends on that list, the module and the context alone. -/
theorem retireOverflow_congr {s t : State} (hr : t.retired = s.retired) (hm : t.module = s.module) (hid : t.me.id = s.me.id) (l : Option Nat) :
    retireOverflow t l = retireOverflow s l := by
  cases l with
  | none => rfl
  | some n =>
    show (!t.retired.contains n && decide (64 ≤ (t.retired.filter _).length) && !t.me.id.part.getLsbD 6)
      = (!s.retired.contains n && decide (64 ≤ (s.retired.filter _).length) && !s.me.id.part.getLsbD 6)
    unfold listDie
    rw [hr, hm, hid]

theorem retireOverflow_counted (s : State) (tr : Trap) (l : Option Nat) : retireOverflow (counted s tr) l = retireOverflow s l :=
  retireOverflow_congr (counted_retired s tr) (counted_module s tr) (counted_me_id s tr) l

/-- Without an overflow, a retirement adds to the list at most. -/
theorem retire_frame {l : Option Nat} (h : retireOverflow s l = false) : { retire s l with retired := s.retired } = s := by
  unfold retireOverflow at h
  unfold retire
  split
  · rfl
  · split_ifs with h1 h2 h3
    · rfl
    · rfl
    · have hmon : isMonitor s.me = false := by simpa using h3
      simp only [h2, hmon, Bool.not_false, Bool.and_true, Bool.not_eq_false'] at h
      exact absurd h h1
    · rfl

/-- What a refused access leaves of the state in which its unit goes on. -/
theorem refused_frame (h : retireOverflow s tr.line = false) :
    { retire (counted s tr) tr.line with retired := s.retired, me.perf := s.me.perf } = s := by
  have hr := retire_frame ((retireOverflow_counted s tr tr.line).trans h)
  have hc := counted_frame s tr
  calc { retire (counted s tr) tr.line with retired := s.retired, me.perf := s.me.perf }
      = { ({ retire (counted s tr) tr.line with retired := (counted s tr).retired } : State) with retired := s.retired, me.perf := s.me.perf } := rfl
    _ = { ({ counted s tr with me.perf := s.me.perf } : State) with retired := s.retired } := by rw [hr]
    _ = s := by rw [hc]

theorem retiring_counted (h : retireOverflow s tr.line = false) (k : State → State) :
    retiring (counted s tr) tr.line k = k (retire (counted s tr) tr.line) := by
  unfold retiring
  rw [retireOverflow_counted, h]
  rfl

end

/-! ## The reading of a record (09 R211) -/

section
variable {s t w : State} {e : BitVec 2} {pa v : Nat} {h : Chan} {ws : List Word} {n : Nat} {sum : BitVec 32}

/-- A record that the channel has read. -/
def withRecord (t : State) (e : BitVec 2) (h : Chan) (ws : List Word) (n : Nat) (sum : BitVec 32) : State :=
  { t with me := setChan t.me e { h with words := some ws, n := n, sum := sum } }

theorem exec_copyRecordRead (hact : isActive s s.me.id = true) (hst : (getChan s.me e).st = .running) (hwords : (getChan s.me e).words = none)
    (haddr : (getChan s.me e).addr ≠ 0) (hread : engRead s (getChan s.me e).priv (getChan s.me e).addr 64 = .ok (t, pa, v)) :
    let h := getChan s.me e
    let r := recOf (recWords v) h.src h.dst
    let n0 := r.prog.toNat % 2 ^ 48
    let sum := if r.summed ∧ r.carries ∧ ¬ h.first ∧ ¬ h.single then h.carry else r.sums.extractLsb' 0 32
    exec (.copyRecordRead e) s = .next
      (if ¬ r.own then chainEnd { t with me := setChan t.me e { h with addr := 0 } } e
       else if r.invalid t.me h.single then copyHalt s (withRecord t e h (recWords v) n0 sum) e 5 0x0F h.addr
       else if r.count ≤ n0 then
         endRecord s { withRecord t e h (recWords v) n0 sum with
           me := setChan (withRecord t e h (recWords v) n0 sum).me e { getChan (withRecord t e h (recWords v) n0 sum).me e with n := r.count } } e r
       else withRecord t e h (recWords v) n0 sum) := by
  intro h r n0 sum
  have hsum : r.sums.extractLsb' 0 32 = r.sums.setWidth 32 := (BitVec.setWidth_eq_extractLsb' (by decide)).symm
  show Host.Outcome.next (copyRead e s) = _
  unfold copyRead
  dsimp only
  rw [if_neg (by simp [hst, hwords, hact]), if_neg (show ¬ (getChan s.me e).addr = 0#64 from haddr), hread]
  simp only [sum, hsum]
  rfl

theorem Served.rec_invalid (hs : Served s t) (r : Rec) (single : Bool) : r.invalid t.me single = r.invalid s.me single := by
  have hsync : ∀ a, isSyncAt t.me a = isSyncAt s.me a := by
    intro a
    unfold isSyncAt winCheck regionAt region cfgField
    rw [hs.me_fab]
  unfold Rec.invalid
  rw [hsync]

end

/-! ## The commit of an element (09 R207 to R209, 08 R183) -/

/-- The state of a commit behind its element. -/
def movedTo (good : State) (e : BitVec 2) (h : Chan) (n : Nat) (sum : BitVec 32) (size : Nat) : State :=
  countEvent { good with me := setChan good.me e { h with n := n, sum := sum } } 0x0A size

section
variable {s t w : State} {e : BitVec 2} {pr : BitVec 2} {r : Rec} {ws : List Word} {a : Word} {far : Bool} {n v : Nat}

theorem copyRepair_frame (w : State) (pr : BitVec 2) (r : Rec) (n : Nat) (x : Elem) :
    { copyRepair w pr r n [x] with bad := w.bad, retired := w.retired, winBad := w.winBad } = w := by
  show { (if r.dstWin then _ else _ : State) with bad := w.bad, retired := w.retired, winBad := w.winBad } = w
  split_ifs
  · rfl
  · rfl
  · split
    · split_ifs <;> rfl
    · rfl

/-- A record that sums only words of four bytes commits its elements one by one. -/
theorem groupSize_one (h : r.summed = false ∨ r.size = 4) : groupSize r = 1 := by
  unfold groupSize
  rcases h with h | h
  · rw [if_neg (by simp [h])]
  · rw [if_neg (by simp [h])]

theorem elementValue_plain (hp : r.packing = 0) (hplace : (r.place n).1 = some a) :
    elementValue s pr r n = spaceRead s pr r.srcWin [0, 5] a r.size := by
  unfold elementValue
  rw [hplace]
  dsimp only
  rw [if_neg (by simp [hp]), if_neg (by simp [hp])]
  rfl

/-- A destination that takes its element has passed its checks. -/
theorem checkAll_of_write {tags : List (BitVec 3)} {x : Elem} (hp : dstTags r = tags) (h : spaceWrite t pr r.dstWin tags x.dst r.size v = .ok w) :
    checkAll t pr r [x] = .ok () := by
  unfold checkAll
  cases hwin : r.dstWin with
  | true =>
    rw [hwin] at h
    obtain ⟨b, hb, -⟩ := bind_eq_ok (show (engWin t x.dst r.size tags >>= fun b => Except.ok (winPut t t.me.id.core b r.size v)) = .ok w from h)
    rw [hp, hb]
    rfl
  | false =>
    rw [hwin, spaceWrite_cached] at h
    obtain ⟨b, hb, -⟩ := bind_eq_ok h
    rw [hb]
    rfl

theorem inject_disarmed {c : Ctx} (h : c.sys.inj.getLsbD 0 = false) (far : Bool) (size n : Nat) (x : Elem) : inject c e far size n [x] = (c, [x]) := by
  unfold inject
  dsimp only
  rw [h, if_neg (by simp)]
  rfl

/-- The checksum step of one word (09 R209). -/
theorem sumWords_one (sum : BitVec 32) (v : Nat) : sumWords sum (v % 2 ^ (8 * 4)) 1 = BitVec.ofNat 32 ((rot5 sum.toNat + v) % 2 ^ 32) := by
  apply BitVec.eq_of_toNat_eq
  show (csumStep sum (BitVec.ofNat 32 (v % 2 ^ (8 * 4)))).toNat = _
  unfold csumStep
  rw [BitVec.toNat_add, toNat_rotateLeft_five, BitVec.toNat_ofNat, BitVec.toNat_ofNat]
  simp

/-- The running sum behind an element of a group of one. -/
theorem sum_of_element (h : r.summed = false ∨ r.size = 4) (sum : BitVec 32) (d : Word) :
    (if r.summed then sumWords sum (groupNat r.size [⟨d, far, v⟩]) (r.size / 4) else sum)
      = if r.summed then BitVec.ofNat 32 ((rot5 sum.toNat + v) % 2 ^ 32) else sum := by
  split_ifs with hsum
  · have hsize : r.size = 4 := h.resolve_left (by simp [hsum])
    rw [hsize]
    exact sumWords_one sum v
  · rfl

end

section
variable {s t w : State} {e : BitVec 2} {ws : List Word} {a : Word} {far : Bool} {v : Nat} {h : Chan} {r : Rec} (hact : isActive s s.me.id = true)
  (hh : getChan s.me e = h) (hr : recOf ws h.src h.dst = r) (hst : h.st = .running) (hwords : h.words = some ws) (hp : r.packing = 0)
  (hplace : (r.place h.n).1 = some a) (hgroup : r.summed = false ∨ r.size = 4) (hn : h.n < r.count)
include hact hh hr hst hwords hp hplace hgroup hn

/-- A source that cannot be read halts the channel. -/
theorem exec_copyElementCommit_fault {tr : Trap} (hread : spaceRead s h.priv r.srcWin [0, 5] a r.size = .error (.fault tr)) :
    exec (.copyElementCommit e) s = .next (copyFault s s e tr) := by
  have hone : Nat.min 1 (r.count - h.n) = 1 := Nat.min_eq_left (by omega)
  show Host.Outcome.next (copyCommit e s) = _
  unfold copyCommit
  dsimp only
  rw [hh, hst, hwords]
  dsimp only
  rw [hr, groupSize_one hgroup, hone, hact]
  unfold gather
  rw [elementValue_plain hp hplace, hread]
  rfl

/-- The element is written, an uncorrectable line that is now whole is repaired, and the channel goes on. -/
theorem exec_copyElementCommit_ok (hinj : t.me.sys.inj.getLsbD 0 = false) (hread : spaceRead s h.priv r.srcWin [0, 5] a r.size = .ok (t, far, v))
    (hwrite : spaceWrite t h.priv r.dstWin [0, 5] (r.place h.n).2 r.size v = .ok w) :
    let sum := if r.summed then BitVec.ofNat 32 ((rot5 h.sum.toNat + v) % 2 ^ 32) else h.sum
    let moved := movedTo (copyRepair w h.priv r (h.n + 1) [⟨(r.place h.n).2, far, v⟩]) e h (h.n + 1) sum r.size
    exec (.copyElementCommit e) s = .next (if r.count ≤ h.n + 1 then endRecord s moved e r else moved) := by
  intro sum moved
  have hone : Nat.min 1 (r.count - h.n) = 1 := Nat.min_eq_left (by omega)
  have htags : dstTags r = [0, 5] := if_neg (by simp [hp])
  have hcheck : checkAll t h.priv r [⟨(r.place h.n).2, far, v⟩] = .ok () := checkAll_of_write htags hwrite
  have hscatter : scatter t h.priv r [⟨(r.place h.n).2, far, v⟩] = .ok w := by
    unfold scatter
    rw [htags, hwrite]
    rfl
  have hgather : gather s h.priv r 1 h.n = .ok (t, [⟨(r.place h.n).2, far, v⟩]) := by
    unfold gather
    rw [elementValue_plain hp hplace, hread]
    rfl
  show Host.Outcome.next (copyCommit e s) = _
  unfold copyCommit
  dsimp only
  rw [hh, hst, hwords]
  dsimp only
  rw [hr, groupSize_one hgroup, hone, hact, hgather]
  have hself : ({ h with st := .running, words := some ws } : Chan) = h := by rw [← hst, ← hwords]
  have hmoved : moved = movedTo (copyRepair w h.priv r (h.n + 1) [⟨(r.place h.n).2, far, v⟩]) e { h with st := .running, words := some ws } (h.n + 1)
      sum r.size := by rw [hself]
  simp only [bind, Except.bind, hcheck, inject_disarmed hinj, hscatter, Nat.one_mul, sum_of_element hgroup, hmoved]
  rfl

end

/-! ## The end of a record (09 R209, R211) -/

section
variable {s0 s w2 w3 w4 : State} {e : BitVec 2} {pa : Nat} {h : Chan} {r : Rec}

/-- The channel behind a completed record: at the next record of its chain. -/
def nextRecord (h : Chan) (r : Rec) : Chan :=
  { h with addr := if h.single then 0 else r.next, words := none, first := false, src := none, dst := none, n := 0, carry := h.sum }

/-- A record without a signal completes with its three writes. -/
theorem completeRecord_plain (hh : getChan s.me e = h) (hkind : r.kind = 0) (hrec : recordWrite s h.priv h.addr h.sum r.count 1 = .ok w2)
    (hx : engXlat w2 h.priv (h.addr + 7) 1 needWrite = .ok (w3, pa))
    (hclear : engWrite w3 h.priv (h.addr + 7) 1 ((memByte w3.mem pa).toNat % 128) = .ok w4) :
    completeRecord s0 s e r = if (if h.single then 0 else r.next) = 0#64 then chainEnd { w4 with me := setChan w4.me e (nextRecord h r) } e
      else { w4 with me := setChan w4.me e (nextRecord h r) } := by
  have htarget : targetLost s 0 r.target = none := rfl
  have hown : clearOwn w2 h.priv h.addr = .ok w4 := by
    unfold clearOwn
    rw [hx]
    exact hclear
  unfold completeRecord
  dsimp only
  rw [hh, hkind, htarget]
  simp only [bind, Except.bind, hrec, hown]
  rfl

/-- The channel goes on with its next record, or is idle. -/
theorem completeRecord_spec (hh : getChan s.me e = h) (hkind : r.kind = 0) (hrec : recordWrite s h.priv h.addr h.sum r.count 1 = .ok w2)
    (hx : engXlat w2 h.priv (h.addr + 7) 1 needWrite = .ok (w3, pa))
    (hclear : engWrite w3 h.priv (h.addr + 7) 1 ((memByte w3.mem pa).toNat % 128) = .ok w4) (hquiet : decrOut s (e.setWidth 3) = false) :
    (completeRecord s0 s e r).mem = w4.mem ∧ (completeRecord s0 s e r).win = s.win ∧ (completeRecord s0 s e r).me.regs = s.me.regs
      ∧ getChan (completeRecord s0 s e r).me e = if h.single = true ∨ r.next = 0 then Chan.zero else { nextRecord h r with addr := r.next } := by
  have hs : Served s w4 := (served_recordWrite hrec).trans ((walked_engXlat hx).served.trans (served_engWrite (by decide) hclear))
  have hout : decrOut { w4 with me := setChan w4.me e (nextRecord h r) } (e.setWidth 3) = false := (hs.decrOut _).trans hquiet
  obtain ⟨hchan, -, hregs, hwin, hmem⟩ := chainEnd_spec hout
  rw [completeRecord_plain hh hkind hrec hx hclear]
  by_cases hend : h.single = true ∨ r.next = 0
  · have hnext : (if h.single then 0 else r.next) = 0#64 := by
      rcases hend with h1 | h1 <;> simp [h1]
    rw [if_pos hnext, if_pos hend]
    exact ⟨hmem, hwin.trans hs.win, hregs.trans hs.me_regs, hchan⟩
  · obtain ⟨hsingle, hnz⟩ := not_or.mp hend
    have hnext : (if h.single then 0 else r.next) = r.next := if_neg hsingle
    rw [hnext, if_neg (show ¬ r.next = 0#64 from hnz), if_neg hend]
    refine ⟨rfl, hs.win, hs.me_regs, ?_⟩
    show getChan (setChan w4.me e (nextRecord h r)) e = _
    rw [getChan_setChan_self]
    unfold nextRecord
    rw [hnext]

end

/-! ## A step of a channel -/

section
variable {w : State} {e : BitVec 2} {pr : BitVec 2} {r : Rec} {n k size : Nat} {x : Elem} {h : Chan} {sum : BitVec 32}

/-- A commit leaves everything but the lists of uncorrectable words, the counts and its channel as the write of its element does. -/
theorem movedTo_spec (w : State) (pr : BitVec 2) (r : Rec) (n : Nat) (x : Elem) (e : BitVec 2) (h : Chan) (k : Nat) (sum : BitVec 32) (size : Nat) :
    let u := movedTo (copyRepair w pr r n [x]) e h k sum size
    u.mem = w.mem ∧ u.win = w.win ∧ u.me.regs = w.me.regs ∧ u.me.faults = w.me.faults ∧ u.decrs = w.decrs ∧ u.me.id = w.me.id
      ∧ KeepsOtherChans w u e ∧ getChan u.me e = { h with n := k, sum := sum } := by
  have hme : (copyRepair w pr r n [x]).me = w.me := (congrArg State.me (copyRepair_frame w pr r n x) :)
  have hmem : (copyRepair w pr r n [x]).mem = w.mem := (congrArg State.mem (copyRepair_frame w pr r n x) :)
  have hwin : (copyRepair w pr r n [x]).win = w.win := (congrArg State.win (copyRepair_frame w pr r n x) :)
  have hdecrs : (copyRepair w pr r n [x]).decrs = w.decrs := (congrArg State.decrs (copyRepair_frame w pr r n x) :)
  generalize copyRepair w pr r n [x] = good at *
  intro u
  refine ⟨hmem, hwin, show good.me.regs = _ by rw [hme], show good.me.faults = _ by rw [hme], hdecrs, show good.me.id = _ by rw [hme],
    keepsOtherChans_of_set (t := good) (h := { h with n := k, sum := sum }) rfl (congrArg Ctx.chans hme), ?_⟩
  exact (getChan_of_chans rfl e).trans (getChan_setChan_self good.me e { h with n := k, sum := sum })

/-- An uncorrectable line of DRAM that the committed elements cover wholly is good again, and no other is. -/
theorem badLine_copyRepair {w5 : State} {pa : Nat} (hwin : r.dstWin = false) (hx : engXlat w pr x.dst r.size needWrite = .ok (w5, pa))
    (hbad : badLine w pa = true) : badLine (copyRepair w pr r n [x]) pa = !coversLine (pa / 128) (dstBytes w pr r n) := by
  unfold copyRepair
  simp only [List.foldl, hwin, Bool.false_eq_true, ↓reduceIte, hx, hbad, Bool.true_and]
  cases coversLine (pa / 128) (dstBytes w pr r n) with
  | true => simp [badLine, repairLine]
  | false => simpa using hbad

end

/-- Settles O52: a step of a channel by the state of the channel, what it reads, and where its record ends. -/
theorem copyChannelsRun : Obligations.CopyChannelsRun := by
  unfold Obligations.CopyChannelsRun
  intro s t w w1 w2 w3 w4 e pa v ws a far tr h keeps hact
  refine ⟨?start, ?read, ?chainEnds, ?commit⟩
  case start =>
    intro hst hearlier
    have hexec : exec (.copyChainStart e) s = .next { s with me := setChan s.me e { h with st := .running } } := by
      show Host.Outcome.next (if _ then _ else _) = _
      rw [if_pos ⟨hst, hact, hearlier⟩]
    exact ⟨_, hexec, getChan_setChan_self _ _ _, keepsOtherChans_of_set rfl rfl, rfl⟩
  case read =>
    intro hst hwords haddr hread r n0 sum
    obtain ⟨hw, hmem, -⟩ := engRead_spec hread
    have hs := hw.served
    have hexec := exec_copyRecordRead hact hst hwords haddr hread
    dsimp only at hexec
    refine ⟨fun hown hvalid hcount => ?current, fun hown hquiet => ?unowned, fun hown hinvalid hrec => ?invalid⟩
    case current =>
      rw [← hs.rec_invalid] at hvalid
      rw [if_neg (by simpa using hown), if_neg (by simpa using hvalid), if_neg (Nat.not_le.mpr hcount)] at hexec
      exact ⟨_, hexec, ⟨keepsOtherChans_of_set rfl hs.me_chans, hs.me_regs, hs.win⟩, hmem, getChan_setChan_self _ _ _⟩
    case unowned =>
      rw [if_pos (by simpa using hown)] at hexec
      obtain ⟨hchan, hothers, hregs, hwin, hmem'⟩ := chainEnd_spec (s := { t with me := setChan t.me e { h with addr := 0 } }) (e := e)
        ((hs.decrOut _).trans (not_signalling.mp hquiet))
      exact ⟨_, hexec, ⟨keepsOtherChans_trans (keepsOtherChans_of_set rfl hs.me_chans) hothers, hregs.trans hs.me_regs, hwin.trans hs.win⟩,
        hmem'.trans hmem, hchan⟩
    case invalid =>
      rw [← hs.rec_invalid] at hinvalid
      rw [if_neg (by simpa using hown), if_pos hinvalid] at hexec
      have hself := getChan_setChan_self t.me e { h with words := some (recWords v), n := n0, sum := sum }
      obtain ⟨hst', hothers, hqueued, hwin, hmem'⟩ := copyHalt_spec (s0 := s) (cause := 0x0F) (v := h.addr)
        (s := withRecord t e h (recWords v) n0 sum) (e := e) (status := 5) (w := w) (by
          show recordWrite _ (getChan (setChan t.me e _) e).priv (getChan (setChan t.me e _) e).addr (getChan (setChan t.me e _) e).sum
            (getChan (setChan t.me e _) e).n 5 = _
          rw [hself]
          exact hrec)
      exact ⟨_, hexec, keepsOtherChans_trans (keepsOtherChans_of_set rfl hs.me_chans) hothers, hst',
        queued_of_faults hs.me_faults hqueued, hwin.trans hs.win, hmem'⟩
  case chainEnds =>
    intro hst hwords haddr hquiet
    have hexec : exec (.copyRecordRead e) s = .next (chainEnd s e) := by
      show Host.Outcome.next (copyRead e s) = _
      unfold copyRead
      dsimp only
      rw [if_neg (by simp [h] at hst hwords; simp [hst, hwords, hact]), if_pos (show (getChan s.me e).addr = 0#64 from haddr)]
    obtain ⟨hchan, hothers, hregs, hwin, hmem⟩ := chainEnd_spec (not_signalling.mp hquiet)
    exact ⟨_, hexec, ⟨hothers, hregs, hwin⟩, hmem, hchan⟩
  case commit =>
    intro r hst hwords hp hplace hgroup hinj hn
    refine ⟨fun hread hover hrec => ?fault, fun hread htsame hwrite => ?ok⟩
    case fault =>
      have hexec := exec_copyElementCommit_fault hact (h := h) rfl (r := r) rfl hst hwords hp hplace hgroup hn hread
      have hframe := refused_frame hover
      unfold copyFault at hexec
      rw [retiring_counted hover] at hexec
      generalize retire (counted s tr) tr.line = x at hexec hframe hrec
      have hchans : x.me.chans = s.me.chans := (congrArg (fun v : State => v.me.chans) hframe :)
      have hfaults : x.me.faults = s.me.faults := (congrArg (fun v : State => v.me.faults) hframe :)
      have hwin : x.win = s.win := (congrArg State.win hframe :)
      obtain ⟨hst', hothers, hqueued, hwin', hmem'⟩ := copyHalt_spec (s0 := s) (cause := tr.cause) (v := tr.value) (s := x) (e := e)
        (status := haltStatus tr.cause) (w := w) (by rw [getChan_of_chans hchans]; exact hrec)
      exact ⟨_, hexec, hst', keepsOtherChans_trans (keepsOtherChans_refl hchans) hothers, queued_of_faults hfaults hqueued, hwin'.trans hwin, hmem'⟩
    case ok =>
      intro sum good moved
      have hinj' : t.me.sys.inj.getLsbD 0 = false := by
        rw [htsame]
        exact hinj
      have hexec := exec_copyElementCommit_ok hact (h := h) rfl (r := r) rfl hst hwords hp hplace hgroup hn hinj' hread hwrite
      obtain ⟨hmem, hwin, hregs, hfaults, hdecrs, hid, hothers, hchan⟩ :=
        movedTo_spec w h.priv r (h.n + 1) ⟨(r.place h.n).2, far, v⟩ e h (h.n + 1) sum r.size
      dsimp only at hexec
      change getChan moved.me e = _ at hchan
      change moved.win = w.win at hwin
      refine ⟨fun hmore => ?more, fun hlast hsum hkind hwsame hw1 hw2 hw3 hw4 hquiet => ?last, fun hlast hcmp hne hrec => ?mismatch⟩
      case more =>
        rw [if_neg (by omega)] at hexec
        refine ⟨_, hexec, hmem, hwin, hothers, hchan, hregs, fun hdst w5 hx hbad => ?_⟩
        have hline := badLine_copyRepair (n := h.n + 1) (x := ⟨(r.place h.n).2, far, v⟩) hdst hx hbad
        exact ⟨fun hc => hline.trans (by rw [hc]; rfl), fun hc => hline.trans (by rw [hc]; rfl)⟩
      case last =>
        have hrec : recordWrite moved h.priv h.addr sum r.count 1 = .ok w2 := by
          unfold recordWrite
          rw [hw1, Nat.one_mul]
          exact hw2
        have hend : endRecord s moved e r = completeRecord s moved e r := by
          unfold endRecord
          dsimp only
          rw [hchan, if_neg]
          rintro ⟨hc, hs⟩
          rcases hsum with h1 | h1
          · simp [h1] at hc
          · exact hs h1
        have hquiet' : decrOut moved (e.setWidth 3) = false := by
          have hd : moved.decrs = s.decrs := hdecrs.trans (by rw [hwsame])
          have hi : moved.me.id = s.me.id := hid.trans (by rw [hwsame])
          unfold decrOut
          rw [hd, hi]
          exact not_signalling.mp hquiet
        obtain ⟨hmem', hwin', hregs', hchan'⟩ := completeRecord_spec (s0 := s) hchan hkind hrec hw3 hw4 hquiet'
        rw [if_pos (by omega)] at hexec
        change exec _ s = .next (endRecord s moved e r) at hexec
        rw [hend] at hexec
        refine ⟨_, hexec, hmem', hwin'.trans hwin, hregs'.trans (hregs.trans ?_), hchan'⟩
        rw [hwsame]
      case mismatch =>
        have hend : endRecord s moved e r = copyHalt s moved e 4 0x13 (r.sums.extractLsb' 32 32 ++ sum) := by
          unfold endRecord
          dsimp only
          rw [hchan, if_pos ⟨hcmp, hne⟩]
        obtain ⟨hst', -, hqueued, hwin', -⟩ := copyHalt_spec (s0 := s) (cause := 0x13) (v := r.sums.extractLsb' 32 32 ++ sum) (s := moved) (e := e)
          (status := 4) (w := w1) (by
            rw [hchan]
            dsimp only
            rw [hlast]
            exact hrec)
        rw [if_pos (by omega)] at hexec
        change exec _ s = .next (endRecord s moved e r) at hexec
        rw [hend] at hexec
        exact ⟨_, hexec, hst', hwin'.trans hwin, queued_of_faults hfaults hqueued⟩

end Sys2Proof.Machine
end

section
/-! PROOFS. XCOPY, XCHN, XSTAT, XCANCEL and XFORM (O51): the operand checks, the lines that a refused walk names, and the ends of a chain and of a request. -/

namespace Sys2Proof.Machine

open Sys2Proof.Claims

/-! ## The line of a refused access is an uncorrectable one (08 R179, R183) -/

/-- A line with an uncorrectable word, or of the retirement list. -/
def LostLine (s : State) (n : Nat) : Prop := s.bad.contains n = true ∨ s.retired.contains n = true

/-- Every line that a fault names is a lost one. -/
def NamesLost (s : State) (x : Xlat) : Prop := ∀ f n, x = .trap f → f.line = some n → LostLine s n

section
variable {s t : State} {pr : BitVec 2} {va : Word} {size : Nat} {n : Need}

theorem lostLine_of_badLine {pa : Nat} (h : badLine s pa = true) : LostLine s (pa / 128) := Bool.or_eq_true_iff.mp h

theorem Served.lostLine (h : Served s t) (n : Nat) : LostLine t n ↔ LostLine s n := by
  unfold LostLine
  rw [h.bad, h.retired]

theorem namesLost_fault (s : State) (cause : BitVec 8) (v : Word) : NamesLost s (.trap { cause := cause, value := v }) := by
  rintro f n ⟨⟩ ⟨⟩

theorem namesLost_line (cause : BitVec 8) (v : Word) {n : Nat} (h : LostLine s n) : NamesLost s (.trap { cause := cause, value := v, line := some n }) := by
  rintro f m ⟨⟩ ⟨⟩
  exact h

theorem namesLost_ok (s : State) (e : TlbEntry) : NamesLost s (.ok e) := by rintro f n ⟨⟩

theorem namesLost_ite {c : Prop} [Decidable c] {x y : Xlat} (hx : c → NamesLost s x) (hy : ¬ c → NamesLost s y) : NamesLost s (if c then x else y) := by
  split_ifs with h
  · exact hx h
  · exact hy h

/-- The same of a stage-2 walk. -/
def WalksLost (s : State) (x : S2) : Prop := ∀ n, x = .lost n → LostLine s n

theorem walksLost_ite {c : Prop} [Decidable c] {x y : S2} (hx : c → WalksLost s x) (hy : ¬ c → WalksLost s y) : WalksLost s (if c then x else y) := by
  split_ifs with h
  · exact hx h
  · exact hy h

theorem walksLost_bad (s : State) : WalksLost s .bad := by rintro n ⟨⟩

theorem walksLost_stage2From {ipa fuel level table : Nat} : WalksLost s (stage2From s ipa fuel level table) := by
  induction fuel generalizing level table with
  | zero => exact walksLost_bad s
  | succ fuel ih =>
    refine walksLost_ite (fun hbad => ?_) fun _ => walksLost_ite (fun _ => walksLost_bad s) fun _ => walksLost_ite (fun _ => ?_) fun _ => ?_
    · rintro n ⟨⟩
      exact lostLine_of_badLine hbad
    · refine walksLost_ite (fun _ => walksLost_bad s) fun _ => walksLost_ite (fun _ => ?_) fun _ => walksLost_ite (fun _ => walksLost_bad s) fun _ => ?_
      · rintro n ⟨⟩
      · rintro n ⟨⟩
    · exact walksLost_ite (fun _ => walksLost_bad s) fun _ => ih

theorem namesLost_stage2Need {p : BitVec 6} {ipa : Nat} {k : Leaf → Xlat} (hk : ∀ l, NamesLost s (k l)) : NamesLost s (stage2Need s p ipa va n k) := by
  unfold stage2Need
  split
  · exact namesLost_fault _ _ _
  · rintro f n ⟨⟩
  · rename_i num hlost
    unfold stage2 at hlost
    split_ifs at hlost
    exact namesLost_line _ _ (walksLost_stage2From num hlost)
  · exact namesLost_ite (fun _ => hk _) fun _ => namesLost_fault _ _ _

theorem namesLost_stage1From {p : BitVec 6} {program : Bool} {fuel level table : Nat} : NamesLost s (stage1From s p va program n fuel level table) := by
  induction fuel generalizing level table with
  | zero => exact namesLost_fault _ _ _
  | succ fuel ih =>
    refine namesLost_stage2Need fun l => namesLost_ite (fun hbad => namesLost_line _ _ (lostLine_of_badLine hbad)) fun _ => ?_
    refine namesLost_ite (fun _ => namesLost_fault _ _ _) fun _ => namesLost_ite (fun _ => ih) fun _ => ?_
    exact namesLost_ite (fun _ => namesLost_fault _ _ _) fun _ => namesLost_stage2Need fun _ => namesLost_ok _ _

theorem namesLost_monitorXlat : NamesLost s (monitorXlat s va) := namesLost_ite (fun _ => namesLost_fault _ _ _) fun _ => namesLost_ok _ _

theorem namesLost_walk {c : Ctx} : NamesLost s (walk s c pr va n) :=
  namesLost_ite (fun _ => namesLost_monitorXlat) fun _ => namesLost_ite
    (fun _ => namesLost_ite (fun _ => namesLost_fault _ _ _) fun _ => namesLost_stage2Need fun _ => namesLost_ok _ _) fun _ => namesLost_stage1From

theorem namesLost_hitXlat {c : Ctx} {e : TlbEntry} : NamesLost s (hitXlat c e pr va n) :=
  namesLost_ite (fun _ => namesLost_fault _ _ _) fun _ => namesLost_ite (fun _ => namesLost_fault _ _ _) fun _ =>
    namesLost_ite (fun _ => namesLost_fault _ _ _) fun _ => namesLost_ok _ _

theorem namesLost_xlate : NamesLost s (xlate s pr va n).2 := by
  have hwalk := namesLost_walk (s := s) (pr := pr) (va := va) (n := n) (c := s.me)
  unfold xlate
  split_ifs
  · exact namesLost_monitorXlat
  · split
    · exact namesLost_hitXlat
    · dsimp only
      split_ifs
      · rintro f n ⟨⟩
      · split
        · exact namesLost_ok _ _
        · rename_i f hf
          rintro f' m ⟨⟩ hm
          exact hwalk f m hf hm
        · exact hwalk

/-- A fault of an engine's translation. -/
theorem engXlat_line {f : Trap} {m : Nat} (h : engXlat s pr va size n = .error (.fault f)) (hm : f.line = some m) : LostLine s m := by
  unfold engXlat at h
  split_ifs at h
  · cases h; cases hm
  · cases h; cases hm
  · cases h
  · split at h
    · dsimp only at h
      split_ifs at h
      cases h
    · rename_i t f' hx
      split_ifs at h
      · cases h
      cases h
      exact namesLost_xlate f m (by rw [hx]) hm
    · cases h
    · cases h

theorem bind_eq_error {ε α β : Type} {x : Except ε α} {f : α → Except ε β} {r : ε} (h : x >>= f = .error r) :
    x = .error r ∨ ∃ a, x = .ok a ∧ f a = .error r := by
  cases x with
  | error e => exact .inl (congrArg Except.error (Except.error.inj h))
  | ok a => exact .inr ⟨a, rfl, h⟩

theorem engWrite_line {f : Trap} {m v : Nat} (h : engWrite s pr va size v = .error (.fault f)) (hm : f.line = some m) : LostLine s m := by
  rcases bind_eq_error h with hx | ⟨⟨u, pa⟩, -, hw⟩
  · exact engXlat_line hx hm
  · dsimp only at hw
    split_ifs at hw
    cases hw

theorem recordWrite_line {f : Trap} {m k status : Nat} {addr : Word} {sum : BitVec 32} (h : recordWrite s pr addr sum k status = .error (.fault f))
    (hm : f.line = some m) : LostLine s m := by
  rcases bind_eq_error h with hx | ⟨u, hu, hw⟩
  · exact engWrite_line hx hm
  · exact ((served_engWrite (by decide) hu).lostLine m).mp (engWrite_line hw hm)

end

/-! ## A line that leaves the L1 (08 R170, R183) -/

section
variable {s : State} {num : Nat}

theorem dropLine_frame (s : State) (num : Nat) : { dropLine s num with me.perf := s.me.perf, me.lateBad := s.me.lateBad, me.l1 := s.me.l1, mem := s.mem,
                                                                       l2 := s.l2, bad := s.bad, retired := s.retired } = s := by
  unfold dropLine
  split
  · rfl
  · rename_i l _
    exact (congrArg (fun v : State => { v with me.l1 := s.me.l1 }) (backFrame_writeBack s l).eq :)

/-- A write-back adds no line to the retirement list, and what it takes off it is good behind it. -/
theorem retired_writeBack (s : State) (l : Line) : (writeBack s l).retired = s.retired
    ∨ ((writeBack s l).retired = s.retired.filter (· ≠ l.num) ∧ (writeBack s l).bad = (writeBack s l).bad.filter (· ≠ l.num)) := by
  have hretired : (homeCommit (countHome s l.num) s.me.id.part (mergeLine s.mem l 128) [l.num]).retired = s.retired :=
    (congrArg State.retired (unstored_homeCommit s (countHome s l.num) s.me.id.part (mergeLine s.mem l 128) [l.num]) :)
  unfold writeBack
  dsimp only
  generalize homeCommit (countHome s l.num) s.me.id.part (mergeLine s.mem l 128) [l.num] = u at *
  split_ifs
  · exact .inl rfl
  · exact .inl hretired
  · exact .inl hretired
  · refine .inr ⟨by rw [← hretired]; rfl, ?_⟩
    show u.bad.filter _ = (u.bad.filter _).filter _
    rw [List.filter_filter]
    simp
  · exact .inl hretired

theorem retired_dropLine (s : State) (num : Nat) : (dropLine s num).retired = s.retired
    ∨ ∃ n, (dropLine s num).retired = s.retired.filter (· ≠ n) ∧ (dropLine s num).bad = (dropLine s num).bad.filter (· ≠ n) := by
  unfold dropLine
  split
  · exact .inl rfl
  · rename_i l _
    exact (retired_writeBack s l).imp id fun h => ⟨l.num, h⟩

/-- The lines of a write of a record all have one number: after the first of them none is left. -/
theorem foldl_dropLine {ls : List Line} (h : ∀ l ∈ ls, l.num = num) : ls.foldl (fun u l => dropLine u l.num) s = if ls = [] then s else dropLine s num := by
  have hnone : ∀ u, findLine u.me num = none → ∀ ks : List Line, (∀ l ∈ ks, l.num = num) → ks.foldl (fun u l => dropLine u l.num) u = u := by
    intro u hu ks hks
    induction ks with
    | nil => rfl
    | cons k ks ih =>
      have hk : dropLine u k.num = u := by
        rw [hks k (by simp)]
        unfold dropLine
        rw [hu]
      rw [List.foldl_cons, hk]
      exact ih fun l hl => hks l (by simp [hl])
  cases ls with
  | nil => rfl
  | cons l ls =>
    rw [List.foldl_cons, h l (by simp), if_neg (by simp)]
    exact hnone _ (findLine_dropLine s num) ls fun k hk => h k (by simp [hk])

/-- A lost line of the state without one line of the L1 does not overflow the retirement list where it does not before. -/
theorem retireOverflow_dropLine {l : Option Nat} (h : retireOverflow s l = false) (hl : ∀ m, l = some m → LostLine (dropLine s num) m) :
    retireOverflow (dropLine s num) l = false := by
  have hmodule : (dropLine s num).module = s.module := (congrArg State.module (dropLine_frame s num) :)
  have hid : (dropLine s num).me.id = s.me.id := (congrArg (fun v : State => v.me.id) (dropLine_frame s num) :)
  rcases retired_dropLine s num with hsame | ⟨n, hretired, hbad⟩
  · rw [retireOverflow_congr hsame hmodule hid, h]
  · cases l with
    | none => rfl
    | some m =>
      have hlost := hl m rfl
      by_cases hmn : m = n
      · exfalso
        unfold LostLine at hlost
        rw [hretired, hbad, hmn] at hlost
        simp at hlost
      · have hsub : ((dropLine s num).retired.filter (fun x => listDie (dropLine s num) x = listDie (dropLine s num) m)).length
            ≤ (s.retired.filter (fun x => listDie s x = listDie s m)).length := by
          unfold listDie
          rw [hretired, hmodule]
          exact (List.filter_sublist.filter _).length_le
        have hcontains : (dropLine s num).retired.contains m = s.retired.contains m := by
          rw [hretired]
          simp [hmn]
        have hmon : isMonitor (dropLine s num).me = isMonitor s.me := by
          unfold isMonitor
          rw [hid]
        unfold retireOverflow at h ⊢
        dsimp only at h ⊢
        rw [hcontains, hmon]
        by_cases hfull : retiredFull (dropLine s num) m = true
        · have hfull' : retiredFull s m = true := decide_eq_true ((of_decide_eq_true hfull).trans hsub)
          rwa [hfull, ← hfull']
        · rw [Bool.eq_false_iff.mpr hfull]
          simp

end

/-! ## The operands of the copy and transform instructions (09 R215, R216, R219, R224) -/

section
variable {s : State} {v : Word} {a b c d : Reg} {f t src : BitVec 1} {e : BitVec 2}

theorem recAddress_ok (h : v.toNat % 64 = 0 ∧ v.toNat < 2 ^ 48) (k : Except Trap State) : recAddress v k = k := by
  unfold recAddress
  rw [if_neg (by omega), if_neg (by simpa using (address_high v).mpr h.2)]

theorem recAddress_misaligned (h : v.toNat % 64 ≠ 0) (k : Except Trap State) : recAddress v k = .error { cause := 0x03, value := v } := if_pos h

theorem recAddress_high (h : v.toNat % 64 = 0) (h' : 2 ^ 48 ≤ v.toNat) (k : Except Trap State) : recAddress v k = .error { cause := 0x04, value := v } := by
  unfold recAddress
  rw [if_neg (by omega), if_pos (by simpa using (address_high v).not.mpr (by omega))]

/-- The instructions that begin with the address of a record fault on it alike. -/
theorem recAddress_traps {cause : BitVec 8} (hr : cause ≠ 0x07#8) (hm : toMonitor cause = false)
    (h : ∀ k, recAddress (readG s a) k = .error { cause := cause, value := readG s a }) :
    Traps (.xcopy a b c f e t src) s cause (readG s a) ∧ Traps (.xchn a f e) s cause (readG s a) ∧ Traps (.xform a f) s cause (readG s a) :=
  ⟨traps_of_error (congrArg (finish s) (h _)) hr hm, traps_of_error (congrArg (finish s) (h _)) hr hm, traps_of_error (congrArg (finish s) (h _)) hr hm⟩

/-- The channel that XCOPY and XCHN start. -/
def freshChan (s : State) (addr : Word) (after single : Bool) (src dst : Option Word) : Chan :=
  { Chan.zero with st := if after then .waiting else .running, addr := addr, priv := priv s, single := single, src := src, dst := dst,
                   age := s.me.engAge }

section
variable {after single : Bool} {src dst : Option Word} (hgood : v.toNat % 64 = 0 ∧ v.toNat < 2 ^ 48)
include hgood

theorem startChain_idle (hst : (getChan s.me e).st = .idle) (hout : copiesOut s.me < 63) : startChain s e v after single src dst
    = .ok (nextPc { s with me := { setChan s.me e (freshChan s v after single src dst) with engAge := s.me.engAge + 1 } }) := by
  unfold startChain
  rw [recAddress_ok hgood]
  dsimp only
  rw [hst]
  dsimp only
  rw [if_neg (by omega)]
  rfl

theorem startChain_full (hst : (getChan s.me e).st = .idle) (hout : 63 ≤ copiesOut s.me) :
    startChain s e v after single src dst = .ok (holdFor s 0x0F) := by
  unfold startChain
  rw [recAddress_ok hgood]
  dsimp only
  rw [hst]
  dsimp only
  rw [if_pos hout]

theorem startChain_busy (hst : (getChan s.me e).st = .running ∨ (getChan s.me e).st = .waiting) :
    startChain s e v after single src dst = .ok (hold s) := by
  unfold startChain
  rw [recAddress_ok hgood]
  dsimp only
  rcases hst with hst | hst <;> rw [hst]

theorem startChain_halted (hst : (getChan s.me e).st = .halted) : startChain s e v after single src dst
    = if single = false ∧ v = (getChan s.me e).addr then
        .ok (nextPc { s with me := setChan s.me e { getChan s.me e with st := .running, priv := priv s, words := none, first := true, lost := false } })
      else .error { cause := 0x0F, value := v } := by
  unfold startChain
  rw [recAddress_ok hgood]
  dsimp only
  rw [hst]
  rfl

end

/-- A context has four channels and at most 16 requests, so never 63 copies of a short queue. -/
theorem copiesOut_lt {c : Ctx} (h : c.xq.length < 16) : copiesOut c < 63 := by
  have hchans := List.length_filter_le (fun h : Chan => decide (h.st ≠ .idle)) c.chans.toList
  rw [Vector.length_toList] at hchans
  unfold copiesOut
  omega

/-- An XFORM request as it enters the queue. -/
def freshReq (s : State) (addr : Word) (after : Bool) : Xreq :=
  { addr := addr, after := after, priv := priv s, age := s.me.engAge, st := .waiting, words := none, done := 0, ended := 0, bytes := 0,
    failed := none, limit := 0 }

theorem exec_xform_queued (hgood : (readG s a).toNat % 64 = 0 ∧ (readG s a).toNat < 2 ^ 48) (hlen : s.me.xq.length < 16) : exec (.xform a f) s
    = .next (nextPc { s with me.xq := s.me.xq ++ [freshReq s (readG s a) (f = 1#1)], me.engAge := s.me.engAge + 1 }) := by
  have hout := copiesOut_lt hlen
  show execXform a f s = _
  unfold execXform
  rw [recAddress_ok hgood, if_neg (by omega), if_neg (by omega)]
  rfl

theorem exec_xform_full (hgood : (readG s a).toNat % 64 = 0 ∧ (readG s a).toNat < 2 ^ 48) (hlen : 16 ≤ s.me.xq.length) :
    exec (.xform a f) s = .next (hold s) := by
  show execXform a f s = _
  unfold execXform
  rw [recAddress_ok hgood, if_pos hlen]
  rfl

theorem engine_operand (v : Word) : v.extractLsb' 3 61 = 0#61 ↔ v.toNat < 8 := by
  rw [← BitVec.toNat_inj, BitVec.extractLsb'_toNat, Nat.shiftRight_eq_div_pow, BitVec.toNat_ofNat, Nat.zero_mod]
  have := v.isLt
  omega

theorem withEngine_ok (h : (readG s a).toNat < 8) (k : Word → Except Trap State) : withEngine s a k = k (readG s a) := by
  unfold withEngine
  rw [if_neg (by simpa using (engine_operand _).mpr h)]

theorem withEngine_fault (h : 8 ≤ (readG s a).toNat) (k : Word → Except Trap State) : withEngine s a k = .error { cause := 0x0F, value := readG s a } := by
  unfold withEngine
  rw [if_pos ((engine_operand _).not.mpr (by omega))]
  rfl

/-- An operand names a channel, or the transform queue. -/
theorem engine_bit {v : Word} (h : v.toNat < 8) : v.getLsbD 2 = decide (4 ≤ v.toNat) := by
  show v.toNat.testBit 2 = _
  interval_cases v.toNat <;> rfl

end

/-! ## XCANCEL of a channel (09 R219, 21 R402) -/

/-- A channel that has gone idle, and the handlers that waited for its copies. -/
def idled (u : State) (e : BitVec 2) : State := { u with me := wakeCounters (setChan u.me e Chan.zero) }

section
variable {s t u w : State} {a d : Reg} {e : BitVec 2} {p : Chan} {x : Word}

theorem idled_spec (u : State) (e : BitVec 2) : getChan (idled u e).me e = Chan.zero ∧ KeepsOtherChans u (idled u e) e := by
  have hchans : (idled u e).me.chans = (setChan u.me e Chan.zero).chans := rfl
  exact ⟨(getChan_of_chans hchans e).trans (getChan_setChan_self _ _ _), keepsOtherChans_of_set hchans rfl⟩

/-- An answer in g[d] from a state with the registers of the handler. -/
theorem answer_spec (hregs : w.me.regs = s.me.regs) (d : Reg) (x : Word) :
    let u := nextPc (writeG w d x)
    Advances s u ∧ readG u d = (if d = 0#6 then 0#64 else x) ∧ (∀ r, r ≠ d → readG u r = readG s r) := by
  have hread : ∀ r, readG w r = readG s r := fun r => by
    unfold readG
    rw [hregs]
  refine ⟨advances_nextPc (by rw [writeG_pc, hregs]), ?_, fun r hr => ?_⟩
  · rw [readG_nextPc, readG_writeG_self]
  · rw [readG_nextPc, readG_writeG_ne _ _ hr, hread]

theorem answer_frame (w : State) (d : Reg) (x : Word) :
    let u := nextPc (writeG w d x)
    u.me.chans = w.me.chans ∧ u.me.xq = w.me.xq ∧ u.win = w.win ∧ u.mem = w.mem := by
  have h := writeG_frame w d x
  exact ⟨(congrArg (fun v : State => v.me.chans) h :), (congrArg (fun v : State => v.me.xq) h :), (congrArg State.win h :), (congrArg State.mem h :)⟩

/-- A channel that XCANCEL makes idle, with its answer. -/
theorem idled_answer (hregs : w.me.regs = s.me.regs) (hchans : w.me.chans = s.me.chans) (e : BitVec 2) (d : Reg) (x : Word) :
    let u := nextPc (writeG (idled w e) d x)
    Advances s u ∧ readG u d = (if d = 0#6 then 0#64 else x) ∧ (∀ r, r ≠ d → readG u r = readG s r) ∧ getChan u.me e = Chan.zero
      ∧ KeepsOtherChans s u e ∧ u.win = w.win ∧ u.mem = w.mem := by
  obtain ⟨hadv, hd, hother⟩ := answer_spec (s := s) (w := idled w e) hregs d x
  obtain ⟨hc, -, hwin, hmem⟩ := answer_frame (idled w e) d x
  obtain ⟨hzero, hkeep⟩ := idled_spec w e
  exact ⟨hadv, hd, hother, (getChan_of_chans hc e).trans hzero,
    keepsOtherChans_trans (keepsOtherChans_refl hchans) (keepsOtherChans_trans hkeep (keepsOtherChans_refl hc)), hwin, hmem⟩

theorem exec_xcancel_chan (hv : readG s a = e.setWidth 64) : exec (.xcancel d a) s = finish s (cancelChan s d e) := by
  have hlt : (readG s a).toNat < 4 := by
    rw [hv, BitVec.toNat_setWidth]
    have := e.isLt
    omega
  have hbit : (readG s a).getLsbD 2 = false := (engine_bit (by omega)).trans (decide_eq_false (by omega))
  have hchan : (readG s a).setWidth 2 = e := by
    rw [hv]
    exact BitVec.eq_of_toNat_eq (by simp)
  show execXcancel d a s = _
  unfold execXcancel
  rw [withEngine_ok (by omega), hbit, hchan]
  rfl

/-- XCANCEL where no chain is left. -/
theorem cancelChan_idle (h : (getChan s.me e).st = .idle ∨ (getChan s.me e).addr = 0) : cancelChan s d e = .ok (nextPc (writeG s d 1)) := by
  unfold cancelChan
  exact if_pos h

/-- XCANCEL waits for the decrements of earlier records. -/
theorem cancelChan_waits (hst : (getChan s.me e).st ≠ .idle) (haddr : (getChan s.me e).addr ≠ 0) (hout : decrOut s (e.setWidth 3) = true) :
    cancelChan s d e = .ok (hold s) := by
  unfold cancelChan
  exact (if_neg (not_or.mpr ⟨hst, haddr⟩)).trans (if_pos hout)

/-- XCANCEL of a chain whose record stands in the memory of the engine. -/
theorem cancelChan_progress {own : Bool} (hst : (getChan s.me e).st ≠ .idle) (haddr : (getChan s.me e).addr ≠ 0)
    (hout : decrOut s (e.setWidth 3) = false) (hprog : withProgress s (getChan s.me e) = .ok (p, own)) :
    cancelChan s d e = if !own then .ok (nextPc (writeG (idled s e) d 1))
      else guardBack s (ownLine s (getChan s.me e).priv (getChan s.me e).addr)
        (.ok (recordStatus (hold s) ((ownLine s (getChan s.me e).priv (getChan s.me e).addr).foldl (fun u l => dropLine u l.num) s) p 7
          (fun t u => cancelLost u e p t) (fun u => nextPc (writeG (idled u e) d 0)))) := by
  unfold cancelChan
  dsimp only
  rw [if_neg (show ¬ ((getChan s.me e).st = .idle ∨ (getChan s.me e).addr = 0#64) from not_or.mpr ⟨hst, haddr⟩), if_neg (Bool.eq_false_iff.mp hout), hprog]
  rfl

/-- The lines that leave the L1 before the record is written: those of one number. -/
theorem ownLine_dropped (s : State) (pr : BitVec 2) (addr : Word) : ∃ num, (ownLine s pr addr).foldl (fun u l => dropLine u l.num) s = s
    ∨ (ownLine s pr addr).foldl (fun u l => dropLine u l.num) s = dropLine s num := by
  unfold ownLine
  split
  · rename_i r _
    refine ⟨r.2 / 128, ?_⟩
    rw [foldl_dropLine (num := r.2 / 128) fun l hl => by simpa using (List.mem_filter.mp hl).2]
    split_ifs
    · exact .inl rfl
    · exact .inr rfl
  · exact ⟨0, .inl rfl⟩

/-- What the lines that leave the L1 leave. -/
structure Dropped (s t : State) : Prop where
  regs : t.me.regs = s.me.regs
  chans : t.me.chans = s.me.chans
  faults : t.me.faults = s.me.faults
  win : t.win = s.win
  overflow : ∀ l, retireOverflow s l = false → (∀ m, l = some m → LostLine t m) → retireOverflow t l = false

theorem dropped_ownLine (s : State) (pr : BitVec 2) (addr : Word) : Dropped s ((ownLine s pr addr).foldl (fun u l => dropLine u l.num) s) := by
  obtain ⟨num, h | h⟩ := ownLine_dropped s pr addr
  · rw [h]
    exact ⟨rfl, rfl, rfl, rfl, fun _ h _ => h⟩
  · rw [h]
    have hf := dropLine_frame s num
    exact ⟨(congrArg (fun v : State => v.me.regs) hf :), (congrArg (fun v : State => v.me.chans) hf :),
      (congrArg (fun v : State => v.me.faults) hf :), (congrArg State.win hf :), fun _ => retireOverflow_dropLine⟩

/-- A write of the record that faults, where its fault is new: the channel halts behind it, and the instruction is held. -/
theorem cancelLost_spec {tr : Trap} (hlost : p.lost = false) (hover : retireOverflow t tr.line = false) :
    let u := cancelLost t e p tr
    u.me.stalled = true ∧ u.me.regs = t.me.regs ∧ getChan u.me e = { p with st := .halted, words := none, lost := true } ∧ KeepsOtherChans t u e
      ∧ Queued t u tr.cause tr.value ∧ u.win = t.win ∧ u.mem = t.mem := by
  have hframe := refused_frame (s := hold t) (tr := tr) hover
  intro u
  have hu : u = (let x := retire (counted (hold t) tr) tr.line
      let v := copyStop { x with me := setChan x.me e p } e tr.cause tr.value
      { v with me := setChan v.me e { getChan v.me e with lost := true } }) := by
    show cancelLost t e p tr = _
    unfold cancelLost
    rw [if_neg (Bool.eq_false_iff.mp hlost), retiring_counted (s := hold t) hover]
  clear_value u
  generalize retire (counted (hold t) tr) tr.line = x at hframe hu
  have hstalled : x.me.stalled = true := (congrArg (fun v : State => v.me.stalled) hframe :)
  have hregs : x.me.regs = t.me.regs := (congrArg (fun v : State => v.me.regs) hframe :)
  have hchans : x.me.chans = t.me.chans := (congrArg (fun v : State => v.me.chans) hframe :)
  have hfaults : x.me.faults = t.me.faults := (congrArg (fun v : State => v.me.faults) hframe :)
  have hwin : x.win = t.win := (congrArg State.win hframe :)
  have hmem : x.mem = t.mem := (congrArg State.mem hframe :)
  obtain ⟨hchan, hothers, hqueued⟩ := copyStop_spec { x with me := setChan x.me e p } e tr.cause tr.value
  have hsregs : (copyStop { x with me := setChan x.me e p } e tr.cause tr.value).me.regs = x.me.regs := queueFault_regs _ _
  have hsst : (copyStop { x with me := setChan x.me e p } e tr.cause tr.value).me.stalled = x.me.stalled := queueFault_stalled _ _
  have hswin : (copyStop { x with me := setChan x.me e p } e tr.cause tr.value).win = x.win := rfl
  have hsmem : (copyStop { x with me := setChan x.me e p } e tr.cause tr.value).mem = x.mem := rfl
  dsimp only at hu
  rw [hchan] at hu
  generalize copyStop { x with me := setChan x.me e p } e tr.cause tr.value = v at hu hothers hqueued hsregs hsst hswin hsmem
  have hset : KeepsOtherChans x { x with me := setChan x.me e p } e := keepsOtherChans_of_set rfl rfl
  subst hu
  refine ⟨hsst.trans hstalled, hsregs.trans hregs, ?_, ?_, queued_of_faults hfaults hqueued, hswin.trans hwin, hsmem.trans hmem⟩
  · show getChan (setChan v.me e _) e = _
    rw [getChan_setChan_self, getChan_setChan_self]
  · exact keepsOtherChans_trans (keepsOtherChans_refl hchans) (keepsOtherChans_trans hset (keepsOtherChans_trans hothers (keepsOtherChans_of_set rfl rfl)))

end

/-! ## XCANCEL of the transform queue (09 R224, 21 R402) -/

section
variable {s w : State} {a d : Reg} {y y1 : Xreq} {done xs : List Xreq} {tr : Trap}

theorem exec_xcancel_queue (h4 : 4 ≤ (readG s a).toNat) (h8 : (readG s a).toNat < 8) : exec (.xcancel d a) s = .next (cancelXform s d) := by
  show execXcancel d a s = _
  unfold execXcancel
  rw [withEngine_ok h8, engine_bit h8, decide_eq_true h4]
  rfl

/-- The first request that is not idle, behind those that are. -/
theorem split_at_first {l : List Xreq} (h : l.find? (fun x => x.st ≠ .idle) = some y) :
    y.st ≠ .idle ∧ ∃ done xs, l = done ++ y :: xs ∧ ∀ x ∈ done, x.st = .idle := by
  obtain ⟨hy, done, xs, hl, hdone⟩ := List.find?_eq_some_iff_append.mp h
  exact ⟨by simpa using hy, done, xs, hl, fun x hx => by simpa using hdone x hx⟩

theorem split_unique {done' xs' : List Xreq} (h : done ++ y :: xs = done' ++ y :: xs') (hy : y.st ≠ .idle) (hdone : ∀ x ∈ done, x.st = .idle)
    (hdone' : ∀ x ∈ done', x.st = .idle) : done = done' ∧ xs = xs' := by
  have htake : ∀ (ds ks : List Xreq), (∀ x ∈ ds, x.st = .idle) → (ds ++ y :: ks).takeWhile (fun x => decide (x.st = .idle)) = ds := by
    intro ds ks hds
    rw [List.takeWhile_append_of_pos (by simpa using hds), List.takeWhile_cons_of_neg (by simpa using hy), List.append_nil]
  have hd : done = done' := by rw [← htake done xs hdone, h, htake done' xs' hdone']
  subst hd
  exact ⟨rfl, by simpa using h⟩

/-- The head cancelled: it leaves the queue. -/
def reqGone (t : State) (d : Reg) (rest : List Xreq) : State := nextPc (writeG { t with me := wakeCounters { t.me with xq := rest } } d 0)

/-- The head whose record cannot be written: the queue halts there, once, and the instruction is held. -/
def reqLost (s : State) (y : Xreq) (done xs : List Xreq) (tr : Trap) : State :=
  if y.lost then hold s
  else retiring (counted (hold s) tr) tr.line (fun u =>
    { u with me := queueFault { kcause := 1#1 ++ tr.cause, value := tr.value, elem := engElem 0x3FF 0xFFFF }
                     { u.me with xq := done ++ { y with st := .halted, lost := true } :: xs } })

/-- XCANCEL of the head by the write of its record. -/
theorem cancelXform_head (hq : s.me.xq = done ++ y :: xs) (hy : y.st ≠ .idle) (hdone : ∀ x ∈ done, x.st = .idle)
    (hread : (y.words.isSome = true ∧ y1 = y) ∨ (y.words = none ∧ ∃ x, engRead s y.priv y.addr 64 = .ok x ∧ y1 = { y with words := some (recWords x.2.2) })) :
    cancelXform s d = match xformRecord s y1 7 with
      | .ok t => reqGone t d (done ++ xs)
      | .error (.fault tr) => reqLost s y1 done xs tr
      | .error (.hold f) => f (hold s) := by
  have htake : s.me.xq.takeWhile (fun x => decide (x.st = .idle)) = done := by
    rw [hq, List.takeWhile_append_of_pos (by simpa using hdone), List.takeWhile_cons_of_neg (by simpa using hy), List.append_nil]
  have hdrop : s.me.xq.dropWhile (fun x => decide (x.st = .idle)) = y :: xs := by
    rw [hq, List.dropWhile_append_of_pos (by simpa using hdone), List.dropWhile_cons_of_neg (by simpa using hy)]
  unfold cancelXform
  dsimp only
  rw [htake, hdrop]
  dsimp only
  rcases hread with ⟨hsome, rfl⟩ | ⟨hnone, x, hx, rfl⟩
  · rw [if_pos hsome]
    rfl
  · rw [if_neg (by simp [hnone]), hx]
    rfl

theorem reqGone_spec {t : State} (hs : Served s t) (d : Reg) (rest : List Xreq) :
    let u := reqGone t d rest
    Advances s u ∧ readG u d = 0 ∧ (∀ r, r ≠ d → readG u r = readG s r) ∧ u.me.xq = rest ∧ u.me.chans = s.me.chans ∧ u.win = s.win
      ∧ u.mem = t.mem := by
  obtain ⟨hadv, hd, hother⟩ := answer_spec (s := s) (w := { t with me := wakeCounters { t.me with xq := rest } }) hs.me_regs d 0
  obtain ⟨hc, hx, hwin, hmem⟩ := answer_frame { t with me := wakeCounters { t.me with xq := rest } } d 0
  exact ⟨hadv, hd.trans (ite_self _), hother, hx, hc.trans hs.me_chans, hwin.trans hs.win, hmem⟩

theorem reqLost_spec (hlost : y.lost = false) (hover : retireOverflow s tr.line = false) :
    let u := reqLost s y done xs tr
    u.me.stalled = true ∧ u.me.regs = s.me.regs ∧ u.me.xq = done ++ { y with st := .halted, lost := true } :: xs ∧ u.me.chans = s.me.chans
      ∧ Queued s u tr.cause tr.value ∧ u.win = s.win ∧ u.mem = s.mem := by
  have hframe := refused_frame (s := hold s) (tr := tr) hover
  intro u
  have hu : u = (let x := retire (counted (hold s) tr) tr.line
      { x with me := queueFault { kcause := 1#1 ++ tr.cause, value := tr.value, elem := engElem 0x3FF 0xFFFF }
                       { x.me with xq := done ++ { y with st := .halted, lost := true } :: xs } }) := by
    show reqLost s y done xs tr = _
    unfold reqLost
    rw [if_neg (Bool.eq_false_iff.mp hlost), retiring_counted (s := hold s) hover]
  clear_value u
  generalize retire (counted (hold s) tr) tr.line = x at hframe hu
  have hstalled : x.me.stalled = true := (congrArg (fun v : State => v.me.stalled) hframe :)
  have hregs : x.me.regs = s.me.regs := (congrArg (fun v : State => v.me.regs) hframe :)
  have hchans : x.me.chans = s.me.chans := (congrArg (fun v : State => v.me.chans) hframe :)
  have hfaults : x.me.faults = s.me.faults := (congrArg (fun v : State => v.me.faults) hframe :)
  have hwin : x.win = s.win := (congrArg State.win hframe :)
  have hmem : x.mem = s.mem := (congrArg State.mem hframe :)
  subst hu
  refine ⟨(queueFault_stalled _ _).trans hstalled, (queueFault_regs _ _).trans hregs, queueFault_xq _ _, (queueFault_chans _ _).trans hchans, ?_, hwin, hmem⟩
  refine queued_of_append (e := engElem 0x3FF 0xFFFF) ?_
  show (queueFault _ _).faults = _
  rw [queueFault_faults, ← hfaults]

/-- The queue without its first request that is not idle. -/
theorem erase_first (hy : y.st ≠ .idle) (hdone : ∀ x ∈ done, x.st = .idle) : (done ++ y :: xs).erase y = done ++ xs := by
  rw [List.erase_append_right _ fun h => hy (hdone y h), List.erase_cons_head]

end

/-! ## The statement -/

/-- A state word as a sum of words. -/
theorem stateWord_sum (k m : Nat) (x : Word) : BitVec.ofNat 64 (k + x.toNat + m) = x + BitVec.ofNat 64 (k + m) := by
  rw [show k + x.toNat + m = x.toNat + (k + m) by omega, BitVec.ofNat_add, BitVec.ofNat_toNat, BitVec.setWidth_eq]

/-- XSTAT answers from the state word. -/
theorem xstat_writes {s : State} {d a : Reg} {p : Word → Prop} (h : (readG s a).toNat < 8) (hp : p (stateWord s.me (readG s a))) :
    WritesG (.xstat d a) s d p := by
  refine writesG_of_setG (v := stateWord s.me (readG s a)) ?_ hp
  show execXstat d a s = _
  unfold execXstat
  rw [withEngine_ok h]
  rfl

theorem withProgress_done {s : State} {h p : Chan} {own : Bool} (hprog : withProgress s h = .ok (p, own)) (hh : h.words.isSome = true ∨ h.st = .halted) :
    p = h ∧ own = true := by
  unfold withProgress at hprog
  rw [if_pos hh] at hprog
  cases hprog
  exact ⟨rfl, rfl⟩

theorem withProgress_read {s x : State} {h p : Chan} {own : Bool} {pa v : Nat} (hprog : withProgress s h = .ok (p, own)) (hwords : h.words = none)
    (hst : h.st ≠ .halted) (hread : engRead s h.priv h.addr 64 = .ok (x, pa, v)) :
    p = { h with sum := BitVec.ofNat 32 (v / 2 ^ 384), n := v / 2 ^ 448 % 2 ^ 48 } ∧ own = v.testBit 63 := by
  unfold withProgress at hprog
  rw [if_neg (by simp [hwords, hst]), hread] at hprog
  cases hprog
  exact ⟨rfl, rfl⟩

/-- Settles O51: the instructions by the checks of their operand, the state of the channel or queue, and the write of the record. -/
theorem copyAndTransformCommands : Obligations.CopyAndTransformCommands := by
  unfold Obligations.CopyAndTransformCommands
  intro s w1 w2 d a b c f e t src y tr v h xcopy xchn xform good started
  refine ⟨fun hmis => ?misaligned, fun halign hhigh => ?high, fun hgood hst hout => ?starts, fun hgood hst hout => ?full, fun hgood hst => ?busy,
    fun hgood hst => ?halted, fun hgood hlen => ?queued, fun hgood hlen => exec_xform_full hgood hlen, fun h8 => ?outside, fun hv => ?chan,
    fun h4 h8 => ?queue⟩
  case misaligned => exact recAddress_traps (by decide) rfl fun k => recAddress_misaligned hmis k
  case high => exact recAddress_traps (by decide) rfl fun k => recAddress_high halign hhigh k
  case starts =>
    have hstarted : ∀ (i : Instr) (single : Bool) (sa da : Option Word), exec i s = finish s (startChain s e v (f = 1#1) single sa da) →
        started i single sa da := by
      intro i single sa da hi
      rw [startChain_idle hgood hst hout] at hi
      refine ⟨_, hi, advances_nextPc rfl, ?_, keepsOtherChans_of_set (h := freshChan s v (f = 1#1) single sa da) rfl rfl, rfl, rfl⟩
      refine (getChan_setChan_self s.me e (freshChan s v (f = 1#1) single sa da)).trans ?_
      simp [freshChan]
    exact ⟨hstarted xcopy true _ _ rfl, hstarted xchn false none none rfl⟩
  case full =>
    exact ⟨congrArg (finish s) (startChain_full hgood hst hout), congrArg (finish s) (startChain_full hgood hst hout)⟩
  case busy =>
    exact ⟨congrArg (finish s) (startChain_busy hgood hst), congrArg (finish s) (startChain_busy hgood hst)⟩
  case halted =>
    have hcopy : exec xcopy s = finish s (.error { cause := 0x0F, value := v }) := congrArg (finish s)
      ((startChain_halted hgood hst).trans (if_neg (by simp)))
    refine ⟨traps_of_error hcopy (by decide) rfl, fun hne => ?_, fun heq => ?_⟩
    · have hchn : exec xchn s = finish s (.error { cause := 0x0F, value := v }) := congrArg (finish s)
        ((startChain_halted hgood hst).trans (if_neg fun hc => hne hc.2.symm))
      exact traps_of_error hchn (by decide) rfl
    · have hchn := congrArg (finish s) ((startChain_halted (after := (f = 1#1)) (single := false) (src := none) (dst := none) hgood hst).trans
        (if_pos ⟨rfl, heq.symm⟩))
      exact ⟨_, hchn, advances_nextPc rfl, keepsOtherChans_of_set rfl rfl, getChan_setChan_self _ _ _, rfl⟩
  case queued => exact ⟨_, exec_xform_queued hgood hlen, advances_nextPc rfl, rfl, rfl⟩
  case outside =>
    exact ⟨traps_of_error (congrArg (finish s) (withEngine_fault h8 _)) (by decide) rfl,
      traps_of_error (congrArg (finish s) (withEngine_fault h8 _)) (by decide) rfl⟩
  case chan =>
    have hlt : v.toNat < 4 := by
      rw [hv, BitVec.toNat_setWidth]
      have := e.isLt
      omega
    have hchan : v.setWidth 2 = e := by
      rw [hv]
      exact BitVec.eq_of_toNat_eq (by simp)
    have hbit : v.getLsbD 2 = false := (engine_bit (by omega)).trans (decide_eq_false (by omega))
    have hexec := exec_xcancel_chan (d := d) hv
    refine ⟨xstat_writes (show v.toNat < 8 by omega) ?_, fun hidle => ?_, fun hst haddr hout => ?_, fun hst haddr hout p own hprog => ?_⟩
    · show stateWord s.me v = _
      unfold stateWord
      rw [if_neg (Bool.eq_false_iff.mp hbit), hchan]
      show BitVec.ofNat 64 (chanCode h.st + h.addr.toNat) = _
      exact stateWord_sum (chanCode h.st) 0 h.addr
    · refine writesG_of_setG (v := 1) ?_ rfl
      rw [hexec, cancelChan_idle hidle]
      rfl
    · rw [hexec, cancelChan_waits hst haddr hout]
      rfl
    · intro out s1 done
      rw [cancelChan_progress hst haddr hout hprog] at hexec
      have hdrop := dropped_ownLine s h.priv h.addr
      change Dropped s s1 at hdrop
      refine ⟨withProgress_done hprog, fun hwords hh x pa v hread => withProgress_read hprog hwords hh hread, fun hown => ?_, fun hown htakes => ?_⟩
      · rw [hown] at hexec
        exact ⟨_, hexec, idled_answer rfl rfl e d 1⟩
      · rw [hown] at hexec
        simp only [Bool.not_true, Bool.false_eq_true, ↓reduceIte] at hexec
        rw [guardBack_ok htakes, finish_ok] at hexec
        change exec (.xcancel d a) s = .next (recordStatus (hold s) s1 p 7 _ _) at hexec
        unfold recordStatus at hexec
        refine ⟨fun hrec => ?_, fun hrec => ⟨fun hlost => ?_, fun hlost hover => ?_⟩, fun hw1 hw2 => ?_⟩
        · rw [hrec] at hexec
          have hs := served_recordWrite hrec
          obtain ⟨hadv, hd, hother, hzero, hkeep, hwin, hmem⟩ := idled_answer (s := s) (w := w2) (hs.me_regs.trans hdrop.regs)
            (hs.me_chans.trans hdrop.chans) e d 0
          exact ⟨_, hexec, hadv, hd.trans (ite_self _), hother, hzero, hkeep, hwin.trans (hs.win.trans hdrop.win), hmem⟩
        · rw [hrec] at hexec
          rw [hexec]
          exact congrArg Host.Outcome.next (if_pos hlost)
        · rw [hrec] at hexec
          have hover1 := hdrop.overflow tr.line hover fun m hm => recordWrite_line hrec hm
          obtain ⟨hstalled, hregs, hchan, hkeep, hqueued, hwin, hmem⟩ := cancelLost_spec (e := e) hlost hover1
          exact ⟨_, hexec, hstalled, hregs.trans hdrop.regs, hchan, keepsOtherChans_trans (keepsOtherChans_refl hdrop.chans) hkeep,
            queued_of_faults hdrop.faults hqueued, hwin.trans hdrop.win, hmem⟩
        · unfold recordWrite
          rw [hw1]
          exact hw2
  case queue =>
    have hexec := exec_xcancel_queue (d := d) h4 h8
    refine ⟨xstat_writes h8 ?_, fun hidle => ?_, fun hfind y1 hread => ?_⟩
    · show stateWord s.me v = _
      unfold stateWord
      rw [if_pos ((engine_bit h8).trans (decide_eq_true h4))]
      cases hq : s.me.xq with
      | nil => rfl
      | cons x xs =>
        exact stateWord_sum _ _ _
    · refine writesG_of_setG (v := 1) ?_ rfl
      rw [hexec]
      unfold cancelXform
      dsimp only
      rw [List.dropWhile_eq_nil_iff.mpr (by simpa using hidle)]
      rfl
    · obtain ⟨hy, done, xs, hq, hdone⟩ := split_at_first hfind
      rw [cancelXform_head hq hy hdone hread] at hexec
      refine ⟨fun hrec => ?_, fun hrec => ⟨fun hlost => ?_, fun hlost hover => ?_⟩⟩
      · rw [hrec] at hexec
        obtain ⟨hadv, hd, hother, hxq, hchans, hwin, hmem⟩ := reqGone_spec (served_xformRecord hrec) d (done ++ xs)
        refine ⟨_, hexec, hadv, hd, hother, ?_, hchans, hwin, hmem⟩
        rw [hq, erase_first hy hdone]
        exact hxq
      · rw [hrec] at hexec
        rw [hexec]
        exact congrArg Host.Outcome.next (if_pos hlost)
      · rw [hrec] at hexec
        obtain ⟨hstalled, hregs, hxq, hchans, hqueued, hwin, hmem⟩ := reqLost_spec (done := done) (xs := xs) hlost hover
        refine ⟨_, hexec, hstalled, hregs, fun done' xs' hq' hdone' => ?_, hchans, hqueued, hwin, hmem⟩
        obtain ⟨rfl, rfl⟩ := split_unique (hq.symm.trans hq') hy hdone hdone'
        exact hxq

end Sys2Proof.Machine
end

section
/-! PROOFS. The streams of an edge engine (O50): what a firing of a stream leaves, where its tokens stand, and its graph as it halts. -/

namespace Sys2Proof.Machine

open Sys2Proof.Claims

/-! ## What a firing of a stream leaves -/

/-- Nothing differs but the fabric of the context in focus, its counts and TLB, the order of the L2, and memory; the marks of the elements stand. -/
structure Streams (s t : State) : Prop where
  frame : { t with me.fab := s.me.fab, me.perf := s.me.perf, me.tlb := s.me.tlb, l2 := s.l2, win := s.win, winBad := s.winBad, mem := s.mem } = s
  marks : t.me.fab.marks = s.me.fab.marks

section
variable {s t u : State}

theorem Streams.refl (s : State) : Streams s s := ⟨rfl, rfl⟩

theorem Streams.trans (h : Streams s t) (h' : Streams t u) : Streams s u :=
  ⟨(congrArg (fun x : State => { x with me.fab := s.me.fab, me.perf := s.me.perf, me.tlb := s.me.tlb, l2 := s.l2, win := s.win, winBad := s.winBad,
                                        mem := s.mem }) h'.frame).trans h.frame,
    h'.marks.trans h.marks⟩

theorem Streams.regs (h : Streams s t) : t.me.regs = s.me.regs := (congrArg (fun v : State => v.me.regs) h.frame :)
theorem Streams.me_id (h : Streams s t) : t.me.id = s.me.id := (congrArg (fun v : State => v.me.id) h.frame :)
theorem Streams.others (h : Streams s t) : t.others = s.others := (congrArg State.others h.frame :)
theorem Streams.sys (h : Streams s t) : t.me.sys = s.me.sys := (congrArg (fun v : State => v.me.sys) h.frame :)
theorem Streams.net (h : Streams s t) : t.net = s.net := (congrArg State.net h.frame :)
theorem Streams.parts (h : Streams s t) : t.parts = s.parts := (congrArg State.parts h.frame :)

/-- A state whose fabric alone has changed, but not its marks. -/
theorem streams_of_fab {c : Ctx} (h : { c with fab := s.me.fab } = s.me) (hmarks : c.fab.marks = s.me.fab.marks) : Streams s { s with me := c } :=
  ⟨congrArg (fun x : Ctx => { s with me := { x with perf := s.me.perf, tlb := s.me.tlb } }) h, hmarks⟩

theorem streams_of_tokens {c : Ctx} (h : TokensMove s.me c) : Streams s { s with me := c } :=
  streams_of_fab h.frame (congrArg Fabric.marks h.fab :)

theorem streams_strmActing (s : State) (e n : Nat) : Streams s (strmActing s e n) := streams_of_tokens (tokensMove_pullPorts ..)

theorem streams_setStrm (s : State) (e n : Nat) (x : Strm) : Streams s (setStrm s e n x) := ⟨rfl, rfl⟩

theorem streams_sinkDone (s : State) (key : Nat) : Streams s (sinkDone s key) := ⟨rfl, rfl⟩

theorem streams_meterCount (s : State) (port : Nat) : Streams s (meterCount s port) := ⟨rfl, rfl⟩

/-! ## Progress of transits (13 R319) -/

theorem namedCtx_raw (s : State) (part : BitVec 7) (idx : Nat) (kctx : BitVec 16) : namedCtx s part idx kctx = (ownerCore s part idx).bind (fun core =>
    if ({ core := core, part := part, kctx := kctx } : CtxId) = s.me.id
      ∨ (s.others.find? (fun c => c.id = { core := core, part := part, kctx := kctx })).isSome then some { core := core, part := part, kctx := kctx }
    else none) := by
  have hsome : ∀ id, (findCtx s id).isSome = true ↔ id = s.me.id ∨ (s.others.find? (fun c => c.id = id)).isSome = true := by
    intro id
    have hraw : (findCtx s id).isSome = (rawCtx s id).isSome := by
      unfold findCtx
      split_ifs
      · rw [Option.isSome_map]
      · rfl
    rw [hraw]
    unfold rawCtx
    split_ifs with h
    · simp [h]
    · simp [Ne.symm h]
  unfold namedCtx
  cases ownerCore s part idx with
  | none => rfl
  | some core =>
    simp only [Option.bind_some]
    exact if_congr (hsome _) rfl rfl

theorem Streams.namedCtx (h : Streams s t) : namedCtx t = namedCtx s := by
  funext part idx kctx
  rw [namedCtx_raw, namedCtx_raw, h.me_id, h.others]
  unfold ownerCore ownerRec
  rw [h.parts]

theorem sinkProgress_frame (s : State) (e n : Nat) : { sinkProgress s e n with parts := s.parts } = s := by
  unfold sinkProgress
  split <;> rfl

/-- The progress that a firing makes is that of the state before it. -/
theorem Streams.progress (h : Streams s t) (e n : Nat) : (sinkProgress t e n).parts = (sinkProgress s e n).parts := by
  have howner : ∀ g, ownerOf t g = ownerOf s g := fun g => by
    unfold ownerOf
    rw [h.me_id]
  unfold sinkProgress ownerRec setOwner
  rw [h.marks]
  cases (if n = 0 then none else tabFind s.me.fab.marks e) with
  | none => exact h.parts
  | some g =>
    dsimp only
    rw [howner, h.me_id, h.namedCtx, h.parts]

end

/-! ## The tables of a firing -/

section
variable {s t : State} {c : Ctx} {e n : Nat} {x : Strm}

/-- A stream's record is written, and no other. -/
theorem strmOf_setStrm (s : State) (e n : Nat) (x : Strm) (k : Nat) :
    strmOf (setStrm s e n x).me (k / 4) (k % 4) = if k = e * 4 + n then x else strmOf s.me (k / 4) (k % 4) := by
  have hk : k / 4 * 4 + k % 4 = k := by omega
  unfold strmOf
  rw [hk]
  exact tabGet_put ..

/-- What stands where behind a firing of a stream from the state s: its record, and the tokens of every queue. -/
structure StrmLeft (c d : Ctx) (e n took : Nat) (own toReaders : List Token) (y : Strm) : Prop where
  strms : ∀ k, strmOf d (k / 4) (k % 4) = if k = e * 4 + n then y else strmOf c (k / 4) (k % 4)
  queues : ∀ k, queueOf d k = (if k = strmQueue e n then (queueOf c k).drop took ++ own else queueOf c k)
    ++ toReaders.flatMap (fun t => List.replicate ((readers c (0x3000 + 4 * n + e)).countP (fun r => r.1 = k)) t)

/-- A stream that stands acts behind the pull of its port. -/
theorem streamMove_goes {e n : BitVec 2} {mode : Nat} {act : Nat → Nat → State → Act} (h : StrmStands s e n mode) : streamMove e n mode act s
    = .next (settle (strmActing s e.toNat n.toNat) (engineElem e.toNat) (act e.toNat n.toNat (strmActing s e.toNat n.toNat))) := if_pos h

/-- A move of a stream that fires. -/
theorem strmGoes_of_fire {i : Instr} {e n : BitVec 2} {mode took : Nat} {own toReaders : List Token} {y : Strm} {act : Nat → Nat → State → Act}
    (hstands : StrmStands s e n mode) (hexec : exec i s = streamMove e n mode act s)
    (hact : act e.toNat n.toNat (strmActing s e.toNat n.toNat) = .fire t [])
    (hframe : Streams (strmActing s e.toNat n.toNat) t)
    (hleft : StrmLeft (strmActing s e.toNat n.toNat).me t.me e.toNat n.toNat took own toReaders y) :
    StrmGoes i s e.toNat n.toNat took own toReaders y t.win t.mem := by
  have hall := (streams_strmActing s e.toNat n.toNat).trans hframe
  have hmove : exec i s = .next (sinkProgress t (engineElem e.toNat) (accepted (strmActing s e.toNat n.toNat).me t.me (engineElem e.toNat))) := by
    rw [hexec, streamMove_goes hstands, hact]
    rfl
  have hprogress := hall.progress (engineElem e.toNat) (accepted (strmActing s e.toNat n.toNat).me t.me (engineElem e.toNat))
  have hsame := sinkProgress_frame t (engineElem e.toNat) (accepted (strmActing s e.toNat n.toNat).me t.me (engineElem e.toNat))
  generalize hu : sinkProgress t (engineElem e.toNat) (accepted (strmActing s e.toNat n.toNat).me t.me (engineElem e.toNat)) = u at *
  have hme : u.me = t.me := (congrArg State.me hsame :)
  have hnet : u.net = t.net := (congrArg State.net hsame :)
  have hothers : u.others = t.others := (congrArg State.others hsame :)
  refine ⟨u, hmove, fun k => by rw [hme]; exact hleft.strms k, fun k => by rw [hme]; exact hleft.queues k, (congrArg State.win hsame :),
    (congrArg State.mem hsame :), by rw [hme]; exact hall.regs, hnet.trans hall.net, hothers.trans hall.others, by rw [hme]; exact hprogress⟩

/-! ## Halts of an engine's graph (15 R344, R347) -/

theorem graphOf_raw (s : State) (ref : GRef) : graphOf s ref = (rawCtx s (ownerOf s ref)).bind (fun c => tabFind c.fab.graphs ref.gid.toNat) := by
  have hview : ∀ (m : List Host.Cell) (c : Ctx), (viewArea m c).fab.graphs = c.fab.graphs := fun m c => by
    unfold viewArea
    rfl
  unfold graphOf findCtx
  split_ifs
  · cases rawCtx s (ownerOf s ref) with
    | none => rfl
    | some c => rw [Option.map_some, Option.bind_some, Option.bind_some, hview]
  · rfl

/-- Nothing that a halt looks at differs. -/
structure HaltsAlike (s x : State) : Prop where
  cores : x.cores = s.cores
  others : x.others = s.others
  id : x.me.id = s.me.id
  fab : x.me.fab = s.me.fab

theorem HaltsAlike.graphAt {x : State} (h : HaltsAlike s x) (e : Nat) : graphAt x e = graphAt s e := by
  have hgraph : ∀ ref, graphOf x ref = graphOf s ref := by
    intro ref
    rw [graphOf_raw, graphOf_raw]
    unfold ownerOf rawCtx
    rw [h.id, h.others]
    split_ifs
    · simp [h.fab]
    · rfl
  unfold Machine.graphAt
  rw [h.fab]
  simp only [hgraph]

theorem HaltsAlike.isActive {x : State} (h : HaltsAlike s x) (id : CtxId) : isActive x id = isActive s id := by
  unfold Machine.isActive setState coreRec
  rw [h.cores]

/-- A graph that runs halts with the fault. -/
theorem haltGraph_spec {input pos : Nat} {cause : BitVec 8} {value : Word} {check kind : BitVec 4} (hmoves : moves s e = true) {x : State}
    (hx : HaltsAlike s x) : ∃ ref g, graphAt (haltGraph x e input pos cause value check kind) e = some (ref, g) ∧ g.state = 2#2 ∧ g.cause = cause
      ∧ g.value = value := by
  obtain ⟨hactive, ref, g, hat, hrun⟩ := moves_spec hmoves
  rw [← hx.graphAt] at hat
  rw [← hx.isActive, ← hx.id] at hactive
  obtain ⟨hmark, hg⟩ := marked_of_graphAt hat
  obtain ⟨g', f, hstate, hcause, hvalue, hhalt⟩ : ∃ (g' : Graph) (f : FaultItem), g'.state = 2#2 ∧ g'.cause = cause ∧ g'.value = value
      ∧ haltGraph x e input pos cause value check kind = updCtx x (ownerOf x ref) (haltedIn ref f g') := by
    unfold haltGraph
    rw [hat]
    dsimp only
    rw [if_neg hrun]
    exact ⟨_, _, rfl, rfl, rfl, rfl⟩
  obtain ⟨hfound, hmarks, -⟩ := halted_spec (g' := g') f (not_inArea_of_active hactive) hg
  rw [← hhalt] at hfound hmarks
  refine ⟨ref, g', ?_, hstate, hcause, hvalue⟩
  unfold graphAt
  rw [hmarks, hmark]
  simp [hfound]

/-- A move of a stream that faults, without an access or with one that no full list refuses. -/
theorem haltsEngine_of_stop {i : Instr} {e n : BitVec 2} {mode pos : Nat} {cause : BitVec 8} {value : Word} {check kind : BitVec 4} {access : Option Trap}
    {act : Nat → Nat → State → Act} (hstands : StrmStands s e n mode) (hexec : exec i s = streamMove e n mode act s)
    (hact : act e.toNat n.toNat (strmActing s e.toNat n.toNat) = .stop 3 pos cause value check kind 0 access)
    (hover : ∀ tr, access = some tr → retireOverflow s tr.line = false) : HaltsEngine i s e.toNat cause value := by
  have honly : TokensOnly s (strmActing s e.toNat n.toNat) := tokensOnly_of_ctx (tokensMove_pullPorts ..)
  have hmoves : moves (strmActing s e.toNat n.toNat) (engineElem e.toNat) = true := (honly.moves _).trans hstands.2
  have hmove : exec i s = .next (settle (strmActing s e.toNat n.toNat) (engineElem e.toNat) (.stop 3 pos cause value check kind 0 access)) := by
    rw [hexec, streamMove_goes hstands, hact]
  have hover' : ∀ tr, access = some tr → retireOverflow (strmActing s e.toNat n.toNat) tr.line = false := fun tr htr =>
    (retireOverflow_congr (congrArg State.retired honly.frame :) (congrArg State.module honly.frame :) honly.id _).trans (hover tr htr)
  generalize strmActing s e.toNat n.toNat = p at *
  cases access with
  | none =>
    obtain ⟨ref, g, hat, hg⟩ := haltGraph_spec (input := 3) (pos := pos) (cause := cause) (value := value) (check := check) (kind := kind) hmoves
      (x := elemFlags p 0) ⟨rfl, rfl, rfl, rfl⟩
    exact ⟨_, ref, g, hmove, hat, hg⟩
  | some tr =>
    have hframe := refused_frame (s := p) (tr := tr) (hover' tr rfl)
    have hsettle : settle p (engineElem e.toNat) (.stop 3 pos cause value check kind 0 (some tr))
        = haltGraph (elemFlags (retire (counted p tr) tr.line) 0) (engineElem e.toNat) 3 pos cause value check kind :=
      retiring_counted (hover' tr rfl) fun u => haltGraph (elemFlags u 0) (engineElem e.toNat) 3 pos cause value check kind
    rw [hsettle] at hmove
    generalize retire (counted p tr) tr.line = x at hframe hmove
    obtain ⟨ref, g, hat, hg⟩ := haltGraph_spec (input := 3) (pos := pos) (cause := cause) (value := value) (check := check) (kind := kind) hmoves
      (x := elemFlags x 0) ⟨(congrArg State.cores hframe :), (congrArg State.others hframe :), (congrArg (fun v : State => v.me.id) hframe :),
        (congrArg (fun v : State => v.me.fab) hframe :)⟩
    exact ⟨_, ref, g, hmove, hat, hg⟩

end

/-! ## States that a stream fires -/

/-- The state x in which a stream's firing from p ends. -/
structure Fires (p x : State) (e n took : Nat) (own toReaders : List Token) (y : Strm) (win mem : List Host.Cell) : Prop where
  streams : Streams p x
  left : StrmLeft p.me x.me e n took own toReaders y
  win : x.win = win
  mem : x.mem = mem

section
variable {s p x u : State} {e n took : Nat} {own toReaders : List Token} {y : Strm} {win mem : List Host.Cell}

theorem strmGoes_of_fires {i : Instr} {e n : BitVec 2} {mode : Nat} {act : Nat → Nat → State → Act} (hstands : StrmStands s e n mode)
    (hexec : exec i s = streamMove e n mode act s) (hact : act e.toNat n.toNat (strmActing s e.toNat n.toNat) = .fire x [])
    (hfires : Fires (strmActing s e.toNat n.toNat) x e.toNat n.toNat took own toReaders y win mem) :
    StrmGoes i s e.toNat n.toNat took own toReaders y win mem := by
  rw [← hfires.win, ← hfires.mem]
  exact strmGoes_of_fire hstands hexec hact hfires.streams hfires.left

/-- A record written behind the moves of tokens from p to u. -/
theorem fires_setStrm (hstreams : Streams p u) (hstrms : u.me.fab.strms = p.me.fab.strms)
    (hqueues : ∀ k, queueOf u.me k = (if k = strmQueue e n then (queueOf p.me k).drop took ++ own else queueOf p.me k)
      ++ toReaders.flatMap (fun t => List.replicate ((readers p.me (0x3000 + 4 * n + e)).countP (fun r => r.1 = k)) t)) :
    Fires p (setStrm u e n y) e n took own toReaders y u.win u.mem := by
  refine ⟨hstreams.trans (streams_setStrm u e n y), ⟨fun k => ?_, hqueues⟩, rfl, rfl⟩
  rw [strmOf_setStrm]
  unfold strmOf
  rw [hstrms]

/-- A sink that the firing ends, where it does. -/
theorem Fires.ends (h : Fires p x e n took own toReaders y win mem) (c : Prop) [Decidable c] (key : Nat) :
    Fires p (if c then sinkDone x key else x) e n took own toReaders y win mem := by
  split_ifs
  · exact ⟨h.streams.trans (streams_sinkDone x key), ⟨h.left.strms, h.left.queues⟩, h.win, h.mem⟩
  · exact h

theorem Fires.metered (h : Fires p x e n took own toReaders y win mem) (port : Nat) :
    Fires p (meterCount x port) e n took own toReaders y win mem :=
  ⟨h.streams.trans (streams_meterCount x port), ⟨h.left.strms, h.left.queues⟩, h.win, h.mem⟩

/-- A token fetched behind the others of a stream. -/
theorem fires_fetch {t : Token} (hstreams : Streams p u) (hstrms : u.me.fab.strms = p.me.fab.strms) (hqueues : u.me.fab.queues = p.me.fab.queues) :
    Fires p (setStrm { u with me := setQueue u.me (strmQueue e n) (queueOf u.me (strmQueue e n) ++ [t]) } e n y) e n 0 [t] [] y u.win u.mem := by
  have hq : ∀ k, queueOf u.me k = queueOf p.me k := fun k => by
    unfold queueOf
    rw [hqueues]
  refine fires_setStrm (u := { u with me := setQueue u.me (strmQueue e n) (queueOf u.me (strmQueue e n) ++ [t]) })
    (hstreams.trans (streams_of_fab rfl rfl)) hstrms fun k => ?_
  rw [List.flatMap_nil, List.append_nil, List.drop_zero]
  show queueOf (setQueue u.me _ _) k = _
  rw [queueOf_setQueue, hq, hq]
  split_ifs with hk
  · rw [hk]
  · rfl

end

/-! ## Reads (09 R202, R203, 18 R397) -/

section
variable {p u : State} {e n : Nat} {t : Token} {ts : List Token}

/-- The readers of a stream have room. -/
def Roomy (c : Ctx) (e n : Nat) : Prop := ∀ r ∈ readers c (0x3000 + 4 * n + e), (queueOf c r.1).length < r.2

theorem full_of_not_roomy {c : Ctx} (h : ¬ Roomy c e n) :
    (readers c (0x3000 + 4 * n + e)).any (fun r => decide (r.2 ≤ (queueOf c r.1).length)) = true := by
  unfold Roomy at h
  simpa using h

theorem room_of_roomy {c : Ctx} (h : Roomy c e n) :
    (readers c (0x3000 + 4 * n + e)).any (fun r => decide (r.2 ≤ (queueOf c r.1).length)) = false := by
  unfold Roomy at h
  simpa using h

/-- The record of a read that has delivered a token. -/
def delivered (c : Ctx) (e n : Nat) (t : Token) : Strm :=
  let x := strmOf c e n
  { x with commit := x.commit + BitVec.ofNat 48 (if t.isData then tokenElems c e n x.commit.toNat else 0) }

theorem actRead_delivers (hq : queueOf p.me (strmQueue e n) = t :: ts) (hroom : Roomy p.me e n) (hmeter : meterOpen p (engineElem e) (4 * e + n) = true) :
    ∃ x, actRead e n p = .fire x [] ∧ Fires p x e n 1 [] [t] (delivered p.me e n t) p.win p.mem := by
  have hact : actDeliver e n p = .fire (if t.kind = 15#4 ∧ (readers p.me (0x3000 + 4 * n + e)).isEmpty then
      sinkDone (meterCount (setStrm { p with me := feed (setQueue p.me (strmQueue e n) ts) (readers p.me (0x3000 + 4 * n + e)) t } e n
        (delivered p.me e n t)) (4 * e + n)) (strmKey e n)
      else meterCount (setStrm { p with me := feed (setQueue p.me (strmQueue e n) ts) (readers p.me (0x3000 + 4 * n + e)) t } e n
        (delivered p.me e n t)) (4 * e + n)) [] := by
    unfold actDeliver
    rw [hq]
    dsimp only
    rw [room_of_roomy hroom, hmeter]
    rfl
  obtain ⟨qs, hfeed⟩ := feed_eq (readers p.me (0x3000 + 4 * n + e)) t (setQueue p.me (strmQueue e n) ts)
  have hstrms : (feed (setQueue p.me (strmQueue e n) ts) (readers p.me (0x3000 + 4 * n + e)) t).fab.strms = p.me.fab.strms := by
    rw [hfeed]
    rfl
  have htokens : TokensMove p.me (feed (setQueue p.me (strmQueue e n) ts) (readers p.me (0x3000 + 4 * n + e)) t) :=
    (tokensMove_setQueue ..).trans (tokensMove_feed ..)
  have hfires := fires_setStrm (p := p) (e := e) (n := n) (took := 1) (own := []) (toReaders := [t]) (y := delivered p.me e n t)
    (u := { p with me := feed (setQueue p.me (strmQueue e n) ts) (readers p.me (0x3000 + 4 * n + e)) t }) (streams_of_tokens htokens) hstrms
    fun k => by
      show queueOf (feed _ _ _) k = _
      rw [queueOf_feed, queueOf_setQueue, List.flatMap_singleton, List.append_nil]
      split_ifs with hk
      · rw [hk, hq]
        rfl
      · rfl
  exact ⟨_, by unfold actRead; rw [hact], (hfires.metered _).ends _ _⟩

/-- A stream that cannot deliver fetches. -/
theorem actRead_fetches (h : queueOf p.me (strmQueue e n) = [] ∨ ¬ Roomy p.me e n) : actRead e n p = actFetch e n p := by
  have hwait : actDeliver e n p = .wait := by
    unfold actDeliver
    cases hq : queueOf p.me (strmQueue e n) with
    | nil => rfl
    | cons t ts =>
      dsimp only
      rw [full_of_not_roomy (h.resolve_left (by simp [hq]))]
      rfl
  unfold actRead
  rw [hwait]

section
variable (hlive : (strmOf p.me e n).live = true) (hlen : (queueOf p.me (strmQueue e n)).length < 8)
include hlive hlen

theorem fetch_open : ¬ ((!(strmOf p.me e n).live || decide (8 ≤ (queueOf p.me (strmQueue e n)).length)) = true) := by
  simp [hlive, hlen]

theorem actFetch_start (hg : (strmOf p.me e n).sentG = false) : actFetch e n p = fetchTok p e n tokG { strmOf p.me e n with sentG := true } := by
  unfold actFetch
  dsimp only
  rw [if_neg (fetch_open hlive hlen), if_pos (by simp [hg])]

variable (hg : (strmOf p.me e n).sentG = true)
include hg

theorem actFetch_end (hfin : (strmOf p.me e n).finished = true) : actFetch e n p = fetchTok p e n tokZ { strmOf p.me e n with live := false } := by
  unfold actFetch
  dsimp only
  rw [if_neg (fetch_open hlive hlen), if_neg (by simp [hg]), if_pos hfin]

variable (hfin : (strmOf p.me e n).finished = false)
include hfin

theorem actFetch_stop (hstop : (strmOf p.me e n).atStop = true) (hnext : (strmOf p.me e n).next < runLength p.me e n * runCount p.me e n)
    (hdrain : ¬ draining p (engineElem e) = true) : actFetch e n p = fetchTok p e n
      (tokStop (stopLevel ((extents p.me e n).drop 1) ((strmOf p.me e n).next / runLength p.me e n))) { strmOf p.me e n with atStop := false } := by
  unfold actFetch
  dsimp only
  rw [if_neg (fetch_open hlive hlen), if_neg (by simp [hg]), if_neg (by simp [hfin]), if_pos ⟨hstop, hnext, hdrain⟩]

theorem actFetch_last (h : runLength p.me e n * runCount p.me e n ≤ (strmOf p.me e n).next ∨ draining p (engineElem e) = true) :
    actFetch e n p = fetchTok p e n (tokStop (extents p.me e n).length) { strmOf p.me e n with finished := true } := by
  have hnot : ¬ ((strmOf p.me e n).atStop = true ∧ (strmOf p.me e n).next < runLength p.me e n * runCount p.me e n ∧ ¬ draining p (engineElem e) = true) := by
    rintro ⟨-, hnext, hdrain⟩
    exact h.elim (fun h => by omega) hdrain
  unfold actFetch
  dsimp only
  rw [if_neg (fetch_open hlive hlen), if_neg (by simp [hg]), if_neg (by simp [hfin]), if_neg hnot, if_pos h]

variable (hstop : (strmOf p.me e n).atStop = false) (hnext : (strmOf p.me e n).next < runLength p.me e n * runCount p.me e n)
  (hdrain : ¬ draining p (engineElem e) = true)
include hstop hnext hdrain

theorem actFetch_data {far : Bool} {vs : List Nat} (hinj : far = false ∨ u.me.sys.inj.getLsbD 0 = false)
    (hlanes : streamLanes p e n (strmOf p.me e n).next (tokenElems p.me e n (strmOf p.me e n).next) = .ok (u, far, vs)) :
    actFetch e n p = fetchTok u e n
      ⟨if strmPack p.me e n = 3 then 1 else 0, BitVec.ofNat 64 (joinLanes (8 * strmSize p.me e n) vs)⟩
      { strmOf p.me e n with next := (strmOf p.me e n).next + tokenElems p.me e n (strmOf p.me e n).next,
                             atStop := decide (((strmOf p.me e n).next + tokenElems p.me e n (strmOf p.me e n).next) % runLength p.me e n = 0) } := by
  have hinject : ∀ v, injectTok u e far v = (u, v) := fun v => by
    unfold injectTok
    dsimp only
    rw [if_neg]
    rintro ⟨hfar, harmed, -⟩
    rcases hinj with h | h
    · simp [h] at hfar
    · simp only [h] at harmed
      cases harmed
  unfold actFetch
  dsimp only
  rw [if_neg (fetch_open hlive hlen), if_neg (by simp [hg]), if_neg (by simp [hfin]), if_neg (by simp [hstop]), if_neg (not_or.mpr ⟨by omega, hdrain⟩),
    hlanes]
  dsimp only
  rw [hinject]

theorem actFetch_fault {tr : Trap}
    (hlanes : streamLanes p e n (strmOf p.me e n).next (tokenElems p.me e n (strmOf p.me e n).next) = .error (.fault tr)) :
    actFetch e n p = strmStop p.me e n tr := by
  unfold actFetch
  dsimp only
  rw [if_neg (fetch_open hlive hlen), if_neg (by simp [hg]), if_neg (by simp [hfin]), if_neg (by simp [hstop]), if_neg (not_or.mpr ⟨by omega, hdrain⟩),
    hlanes]
  rfl

end

end

/-! ## Inputs of writes and gathers -/

section
variable {p u : State} {e n : Nat} {t : Token} {y : Strm}

/-- A state whose context and memories alone differ as an access leaves them. -/
theorem streams_of_access {perf : Vector Perf 8} {tlb : List TlbEntry} {bad : Tab (BitVec 32)} {l2 : List L2Line} {win mem : List Host.Cell}
    {winBad : List Nat} (h : u = { p with me.perf := perf, me.tlb := tlb, me.fab.badpack := bad, l2 := l2, win := win, winBad := winBad, mem := mem }) :
    Streams p u ∧ u.me.fab.strms = p.me.fab.strms ∧ u.me.fab.queues = p.me.fab.queues := by
  subst h
  exact ⟨⟨rfl, rfl⟩, rfl, rfl⟩

theorem strmHead_passes {k : Token → Act} (h : StrmHead p.me e n t) : strmHead p e n k = k t := by
  obtain ⟨ts, hq, d, hd⟩ := h
  unfold strmHead
  rw [hq]
  dsimp only
  rw [hd]

/-- A head consumed changes queues and checkers alone, and its queue loses the head. -/
theorem strmTake_eq (u : State) (e n : Nat) (t : Token) : ∃ qs ks, strmTake u e n t = { u with me.fab.queues := qs, me.fab.checks := ks }
    ∧ ∀ k, tabGet [] qs k = if k = strmQueue e n then (queueOf u.me k).drop 1 else queueOf u.me k := by
  have hqueues : ∀ k, queueOf (setQueue u.me (strmQueue e n) ((queueOf u.me (strmQueue e n)).drop 1)) k
      = if k = strmQueue e n then (queueOf u.me k).drop 1 else queueOf u.me k := fun k => by
    rw [queueOf_setQueue]
    split_ifs with hk
    · rw [hk]
    · rfl
  unfold strmTake
  dsimp only
  split
  · obtain ⟨ks, hks⟩ := moveCheck_eq (setQueue u.me (strmQueue e n) ((queueOf u.me (strmQueue e n)).drop 1)) (strmQueue e n) t
    exact ⟨_, ks, by rw [hks]; rfl, hqueues⟩
  · exact ⟨_, u.me.fab.checks, rfl, hqueues⟩

section
variable (hstreams : Streams p u) (hstrms : u.me.fab.strms = p.me.fab.strms) (hqueues : u.me.fab.queues = p.me.fab.queues)
include hstreams hstrms hqueues

/-- A head consumed and given to the readers as another token. -/
theorem fires_pass (t out : Token) (y : Strm) :
    Fires p (setStrm { strmTake u e n t with me := feed (strmTake u e n t).me (readers p.me (0x3000 + 4 * n + e)) out } e n y) e n 1 [] [out] y
      u.win u.mem := by
  obtain ⟨qs, ks, htake, hleft⟩ := strmTake_eq u e n t
  rw [htake]
  obtain ⟨qs', hfeed⟩ := feed_eq (readers p.me (0x3000 + 4 * n + e)) out { u.me with fab.queues := qs, fab.checks := ks }
  refine fires_setStrm (u := { u with me := feed { u.me with fab.queues := qs, fab.checks := ks } (readers p.me (0x3000 + 4 * n + e)) out })
    (hstreams.trans ?_) ?_ fun k => ?_
  · rw [hfeed]
    exact streams_of_fab rfl rfl
  · rw [hfeed]
    exact hstrms
  · show queueOf (feed _ _ _) k = _
    have hq : queueOf u.me k = queueOf p.me k := by
      unfold queueOf
      rw [hqueues]
    rw [queueOf_feed, List.flatMap_singleton, List.append_nil, ← hq]
    exact congrArg (· ++ _) (hleft k)

/-- A head consumed. -/
theorem fires_take (t : Token) (y : Strm) : Fires p (setStrm (strmTake u e n t) e n y) e n 1 [] [] y u.win u.mem := by
  obtain ⟨qs, ks, htake, hleft⟩ := strmTake_eq u e n t
  rw [htake]
  refine fires_setStrm (u := { u with me.fab.queues := qs, me.fab.checks := ks }) (hstreams.trans (streams_of_fab rfl rfl)) hstrms fun k => ?_
  have hq : queueOf u.me k = queueOf p.me k := by
    unfold queueOf
    rw [hqueues]
  rw [List.flatMap_nil, List.append_nil, List.append_nil, ← hq]
  exact hleft k

end

/-! ## Writes (09 R202, R208) -/

theorem kinds_of_isStop (hstop : t.isStop = true) : t.kind ≠ 4#4 ∧ t.kind ≠ 15#4 := by
  unfold Token.isStop at hstop
  constructor <;> intro hk <;> rw [hk] at hstop <;> exact absurd hstop (by decide)

section
variable (hhead : StrmHead p.me e n t)
include hhead

theorem actWrite_start (hk : t.kind = 4#4) : actWrite e n p = .fire (setStrm (strmTake p e n t) e n (strmOf p.me e n)) [] := by
  unfold actWrite
  dsimp only
  rw [strmHead_passes hhead, if_pos hk]

theorem actWrite_done (hk : t.kind = 15#4) : actWrite e n p
    = .fire (setStrm (strmTake (sinkDone p (strmKey e n)) e n t) e n { strmOf p.me e n with live := false }) [] := by
  unfold actWrite
  dsimp only
  rw [strmHead_passes hhead, if_neg (by rw [hk]; decide), if_pos hk]

section
variable (hstop : t.isStop = true)
include hstop

theorem actWrite_stop (hlevel : t.level ≤ (extents p.me e n).length) (hrun : (strmOf p.me e n).run < runCount p.me e n ∨ (strmOf p.me e n).atStop = true) :
    actWrite e n p = .fire (setStrm (strmTake p e n t) e n { strmOf p.me e n with
      run := nextRun ((extents p.me e n).drop 1) t.level (if (strmOf p.me e n).atStop then (strmOf p.me e n).run - 1 else (strmOf p.me e n).run),
      next := 0, atStop := true, trits := [] }) [] := by
  obtain ⟨hopen, hdone⟩ := kinds_of_isStop hstop
  have hfits : ¬ ((extents p.me e n).length < t.level ∨ (runCount p.me e n ≤ (strmOf p.me e n).run ∧ ¬ (strmOf p.me e n).atStop = true)) := by
    rintro (h | ⟨h, hnot⟩)
    · omega
    · exact hrun.elim (fun hrun => by omega) hnot
  unfold actWrite
  dsimp only
  rw [strmHead_passes hhead, if_neg hopen, if_neg hdone, if_pos hstop, if_neg hfits]

theorem actWrite_high (hlevel : (extents p.me e n).length < t.level) : actWrite e n p = strmBad p.me e n t 10 := by
  obtain ⟨hopen, hdone⟩ := kinds_of_isStop hstop
  unfold actWrite
  dsimp only
  rw [strmHead_passes hhead, if_neg hopen, if_neg hdone, if_pos hstop, if_pos (Or.inl hlevel)]

end

/-- The lanes of a token that the present run still takes. -/
def laneValues (c : Ctx) (e n : Nat) (t : Token) : List Nat :=
  ((List.range (8 / strmSize c e n)).map (fun j => t.val.toNat / 2 ^ (8 * strmSize c e n * j) % 2 ^ (8 * strmSize c e n))).take
    (runLength c e n - (strmOf c e n).next)

theorem actWrite_data (hk : t.kind = if strmPack p.me e n = 3 then 1#4 else 0#4) (hpack : strmPack p.me e n = 0 ∨ strmPack p.me e n = 3)
    (hrun : (strmOf p.me e n).run < runCount p.me e n)
    (hnext : (strmOf p.me e n).run + 1 < runCount p.me e n ∨ (strmOf p.me e n).next < runLength p.me e n)
    (hunack : unackOf p.me (strmKey e n) < 0xFFF0) (hlanes : laneValues p.me e n t ≠ [])
    (hwrite : writeElems p e n ((strmOf p.me e n).run * runLength p.me e n + (strmOf p.me e n).next) (laneValues p.me e n t) = .ok u) :
    actWrite e n p = .fire (setStrm (strmTake { u with me := setUnack u.me (strmKey e n) (unackOf u.me (strmKey e n) + 1) } e n t) e n
      { strmOf p.me e n with next := (strmOf p.me e n).next + (laneValues p.me e n t).length, trits := [], atStop := false,
                             unacked := (strmOf p.me e n).unacked ++ [(laneValues p.me e n t).length] }) [] := by
  have hkinds : t.kind ≠ 4#4 ∧ t.kind ≠ 15#4 ∧ ¬ t.isStop = true := by
    unfold Token.isStop
    rw [hk]
    split_ifs <;> decide
  obtain ⟨hopen, hdone, hstop⟩ := hkinds
  have hvalues : writeValues p.me e n (strmOf p.me e n) t
      = .ok ((List.range (8 / strmSize p.me e n)).map (lane t.val (8 * strmSize p.me e n)), [], 0) := by
    unfold writeValues
    dsimp only
    rw [if_neg (by omega), if_neg (by omega)]
  have hstored : writeElems p e n ((strmOf p.me e n).run * runLength p.me e n + (strmOf p.me e n).next)
      (((List.range (8 / strmSize p.me e n)).map (lane t.val (8 * strmSize p.me e n))).take (runLength p.me e n - (strmOf p.me e n).next)) = .ok u := hwrite
  have hempty : ¬ (laneValues p.me e n t).isEmpty = true := by simpa using hlanes
  unfold actWrite
  dsimp only
  rw [strmHead_passes hhead, if_neg hopen, if_neg hdone, if_neg hstop, if_neg (not_not_intro hk), if_neg (by omega), if_neg (by omega), hvalues]
  dsimp only
  rw [hstored]
  dsimp only
  exact if_neg hempty

end

/-! ## Gathers (09 R201) -/

section
variable (hhead : StrmHead p.me e n t) (hroom : Roomy p.me e n)
include hhead hroom

theorem actGather_bad (hk : t.kind = 0#4) : actGather e n p = strmBad p.me e n t 10 := by
  unfold actGather
  dsimp only
  rw [room_of_roomy hroom, if_neg (by decide), strmHead_passes hhead, if_pos (Or.inl hk)]

theorem actGather_passes (hk0 : t.kind ≠ 0#4) (hk3 : t.kind ≠ 3#4) (hk1 : t.kind ≠ 1#4 ∨ t.value = absent) : ∃ x, actGather e n p = .fire x []
    ∧ Fires p x e n 1 [] [t] (if t.kind = 15#4 then { strmOf p.me e n with live := false } else strmOf p.me e n) p.win p.mem := by
  refine ⟨_, ?_, (fires_pass (e := e) (n := n) (Streams.refl p) rfl rfl t t _).ends
    (t.kind = 15#4 ∧ (readers p.me (0x3000 + 4 * n + e)).isEmpty = true) (strmKey e n)⟩
  unfold actGather
  dsimp only
  rw [room_of_roomy hroom, if_neg (by decide), strmHead_passes hhead, if_neg (not_or.mpr ⟨hk0, hk3⟩), if_neg fun h => hk1.elim (absurd h.1) h.2]
  rfl

theorem actGather_reads (hk : t.kind = 1#4) (hvalue : t.value ≠ absent) {far : Bool} {v : Nat} (hstreams : Streams p u)
    (hstrms : u.me.fab.strms = p.me.fab.strms) (hqueues : u.me.fab.queues = p.me.fab.queues)
    (hread : spaceRead p (graphPriv p (engineElem e)) (strmWindow p.me e n) (strmTags p.me e n)
      (strmBase p.me e n + BitVec.ofNat 64 (strmSize p.me e n * t.value.toNat)) (strmSize p.me e n) = .ok (u, far, v)) :
    ∃ x, actGather e n p = .fire x [] ∧ Fires p x e n 1 [] [tokF t.coord (BitVec.ofNat 32 v)]
      { strmOf p.me e n with commit := (strmOf p.me e n).commit + 1 } u.win u.mem := by
  refine ⟨_, ?_, (fires_pass (e := e) (n := n) hstreams hstrms hqueues t (tokF t.coord (BitVec.ofNat 32 v)) _).ends
    (t.kind = 15#4 ∧ (readers p.me (0x3000 + 4 * n + e)).isEmpty = true) (strmKey e n)⟩
  unfold actGather
  dsimp only
  rw [room_of_roomy hroom, if_neg (by decide), strmHead_passes hhead, if_neg (by rw [hk]; decide), if_pos ⟨hk, hvalue⟩, hread]
  rfl

end

end

/-! ## The streams (09 R201 to R203) -/

section
variable {s : State} {e n : BitVec 2}

theorem read_fetches {u : State} {t : Token} {y : Strm} (hstands : StrmStands s e n 1)
    (hact : actRead e.toNat n.toNat (strmActing s e.toNat n.toNat) = fetchTok u e.toNat n.toNat t y) (hstreams : Streams (strmActing s e.toNat n.toNat) u)
    (hstrms : u.me.fab.strms = (strmActing s e.toNat n.toNat).me.fab.strms) (hqueues : u.me.fab.queues = (strmActing s e.toNat n.toNat).me.fab.queues)
    (hwin : u.win = s.win) (hmem : u.mem = s.mem) : StrmGoes (.streamRead e n) s e.toNat n.toNat 0 [t] [] y s.win s.mem := by
  rw [← hwin, ← hmem]
  exact strmGoes_of_fires hstands rfl hact (fires_fetch hstreams hstrms hqueues)

theorem read_fetches_here {t : Token} {y : Strm} (hstands : StrmStands s e n 1)
    (hact : actRead e.toNat n.toNat (strmActing s e.toNat n.toNat) = fetchTok (strmActing s e.toNat n.toNat) e.toNat n.toNat t y) :
    StrmGoes (.streamRead e n) s e.toNat n.toNat 0 [t] [] y s.win s.mem :=
  read_fetches hstands hact (Streams.refl _) rfl rfl rfl rfl

end

/-- Settles O50: each case is a branch of the stream's act, whose firing moves tokens and one record alone. -/
theorem streamResults : Obligations.StreamResults := by
  unfold Obligations.StreamResults
  intro s s1 e n t ts vs v far tr
  dsimp only
  refine ⟨fun hstands => ⟨fun hq hroom hmeter => ?_, fun hready hlive => ?_⟩, fun hstands hhead => ⟨fun hk => ?_, fun hk => ?_,
    fun hstop hlevel hrun => ?_, fun hstop hlevel => ?_, fun hk hpack hrun hnext hunack hwrite hs1 hlanes => ?_⟩,
    fun hstands hhead hroom => ⟨fun hk0 hk3 hk1 => ?_, fun hk hvalue hread hs1 => ?_, fun hk => ?_⟩⟩
  · obtain ⟨x, hact, hfires⟩ := actRead_delivers hq hroom hmeter
    exact strmGoes_of_fires hstands rfl hact hfires
  · have hfetch := actRead_fetches (p := strmActing s e.toNat n.toNat) (e := e.toNat) (n := n.toNat) (hready.imp_right And.right)
    have hlen : (queueOf (strmActing s e.toNat n.toNat).me (strmQueue e.toNat n.toNat)).length < 8 := by
      rcases hready with h | ⟨h, -⟩
      · simp [h]
      · exact h
    refine ⟨fun hg => ?_, fun hg hfin => ?_, fun hg hfin hstop hnext hdrain => ?_, fun hg hfin hlast => ?_,
      fun hg hfin hstop hnext hdrain => ⟨fun hlanes hinj hs1 => ?_, fun hlanes hover => ?_⟩⟩
    · exact read_fetches_here hstands (hfetch.trans (actFetch_start hlive hlen hg))
    · exact read_fetches_here hstands (hfetch.trans (actFetch_end hlive hlen hg hfin))
    · exact read_fetches_here hstands (hfetch.trans (actFetch_stop hlive hlen hg hfin hstop hnext hdrain))
    · exact read_fetches_here hstands (hfetch.trans (actFetch_last hlive hlen hg hfin hlast))
    · obtain ⟨hstreams, hstrms, hqueues⟩ := streams_of_access hs1
      have hsys := ((streams_strmActing s e.toNat n.toNat).trans hstreams).sys
      exact read_fetches hstands (hfetch.trans (actFetch_data hlive hlen hg hfin hstop hnext hdrain (by rwa [hsys]) hlanes)) hstreams hstrms hqueues
        (congrArg State.win hs1 :) (congrArg State.mem hs1 :)
    · exact haltsEngine_of_stop hstands rfl (hfetch.trans (actFetch_fault hlive hlen hg hfin hstop hnext hdrain hlanes))
        fun tr' htr => Option.some.inj htr ▸ hover
  · exact strmGoes_of_fires hstands rfl (actWrite_start hhead hk) (fires_take (Streams.refl _) rfl rfl t _)
  · exact strmGoes_of_fires hstands rfl (actWrite_done hhead hk) (fires_take (streams_sinkDone _ _) rfl rfl t _)
  · exact strmGoes_of_fires hstands rfl (actWrite_stop hhead hstop hlevel hrun) (fires_take (Streams.refl _) rfl rfl t _)
  · exact haltsEngine_of_stop hstands rfl (actWrite_high hhead hstop hlevel) (by simp)
  · obtain ⟨hstreams, hstrms, hqueues⟩ := streams_of_access hs1
    exact strmGoes_of_fires hstands rfl (actWrite_data hhead hk hpack hrun hnext hunack hlanes hwrite)
      (fires_take (hstreams.trans (streams_of_fab (c := setUnack s1.me (strmKey e.toNat n.toNat) (unackOf s1.me (strmKey e.toNat n.toNat) + 1)) rfl rfl))
        hstrms hqueues t _)
  · obtain ⟨x, hact, hfires⟩ := actGather_passes hhead hroom hk0 hk3 hk1
    exact strmGoes_of_fires hstands rfl hact hfires
  · obtain ⟨hstreams, hstrms, hqueues⟩ := streams_of_access hs1
    obtain ⟨x, hact, hfires⟩ := actGather_reads hhead hroom hk hvalue hstreams hstrms hqueues hread
    have hwin : s1.win = s.win := (congrArg State.win hs1 :)
    have hmem : s1.mem = s.mem := (congrArg State.mem hs1 :)
    rw [hwin, hmem] at hfires
    exact strmGoes_of_fires hstands rfl hact hfires
  · exact haltsEngine_of_stop hstands rfl (actGather_bad hhead hroom hk) (by simp)

end Sys2Proof.Machine
end
